-- ==== Sys2Proof/Word.lean ====
section
/-! DEFINITION. The word types of the Zenlin UZ9 model: bytes, 32-bit registers and 64-bit words. -/

namespace Sys2Proof

/-- A byte of any byte layout (00_scope.md, Conventions). -/
abbrev Byte := BitVec 8

/-- A lane or uniform register (R71). -/
abbrev W32 := BitVec 32

/-- A 64-bit word, as a lock word or an INT64 (R92, R104). -/
abbrev W64 := BitVec 64

/-- A 64-bit quantity that the manual adds, shifts and masks modulo 2^64 (R123). -/
abbrev U64 := BitVec 64

end Sys2Proof
end

