-- ==== Sys2Proof/Syntax.lean ====
section
/-! DEFINITION. The commands of the block: one constructor of Instr per row of spec/opcode_table.json, in the table's
order, with the operand types they carry. -/

namespace Sys2Proof

/-- One of the two towers of the package (R9). -/
inductive Tower where
  | t0 | t1
deriving DecidableEq, Repr

/-- A fragment of a gang: logical core ID, crew slot, gang within the crew, fragment entry (R71, R86). -/
structure FragRef where
  core : Nat
  slot : Nat
  gang : Nat
  frag : Nat
deriving DecidableEq, Repr

/-- An operand of a core instruction: a lane register, a uniform register or an immediate (R71, R75). -/
inductive Src where
  | reg (r : Nat)
  | ureg (u : Nat)
  | imm (w : W32)
deriving DecidableEq, Repr

/-- The comparison of ISET and FSET. -/
inductive Cmp where
  | eq | ne | lt | le | gt | ge
deriving DecidableEq, Repr

/-- Integer class of Table 3.2. ISET names a predicate register as its destination. -/
inductive IntOp where
  | iadd | isub | imul | imad
  | imin (signed : Bool) | imax (signed : Bool)
  | shl | shr (arith : Bool)
  | and | or | xor | not | popc | clz
  | iset (c : Cmp) (signed : Bool)
deriving DecidableEq, Repr

/-- FP32 class of Table 3.2. -/
inductive FpOp where
  | fadd | fmul | ffma | fmin | fmax | fabs | fneg
  | fset (c : Cmp)
deriving DecidableEq, Repr

/-- Packed 16-bit class of Table 3.2. -/
inductive HalfOp where
  | hadd2 | hmul2 | hfma2
deriving DecidableEq, Repr

/-- Special-function class of Table 3.2. -/
inductive SfOp where
  | exp2 | log2 | rcp | rsq | sqrt | sin | cos | tanh
deriving DecidableEq, Repr

/-- Element formats of Table 4.2. -/
inductive Elem where
  | fp32 | fp16 | bf16 | e4m3 | e5m2 | e3m2 | e2m3 | e2m1 | e8m0 | int8 | int4 | int32
deriving DecidableEq, Repr

/-- A conversion, matrix or packing format: a scalar, a packed 16-bit pair, an MX block or an SX4 block
(R114 to R120). -/
inductive Fmt where
  | scalar (e : Elem)
  | pair (e : Elem)
  | mx (e : Elem)
  | sx4
deriving DecidableEq, Repr

/-- Rounding of a conversion (R121, R122). -/
inductive Rnd where
  | rn | rz | sr
deriving DecidableEq, Repr

/-- What SREG reads (R82, R121). -/
inductive SRegName where
  | lane | cluster | cycleLo | cycleHi | timeLo | timeHi | cvtFlag
deriving DecidableEq, Repr

/-- MOV, SEL and BCAST of Table 3.2. -/
inductive MoveOp where
  | mov (a : Src)
  | sel (p : Nat) (a b : Src)
  | bcast (a : Src)
deriving DecidableEq, Repr

/-- Reduction operations of Table 5.10. -/
inductive RedOp where
  | add | min | max | cas
deriving DecidableEq, Repr

/-- Reduction types of Table 5.10. -/
inductive RedTy where
  | fp32 | bf16 | int32 | int64
deriving DecidableEq, Repr

/-- Ordering of an ATOM or RED (R93). -/
inductive MemOrder where
  | relaxed | acquire | release | acqRel
deriving DecidableEq, Repr

/-- Scope of an ATOM or RED (R93). -/
inductive MemScope where
  | crew | tower | device | system
deriving DecidableEq, Repr

/-- Where a lock word lies (R104). -/
inductive LockSpace where
  | crewLocal | global
deriving DecidableEq, Repr

/-- MMA shapes of Table 4.9. -/
inductive MmaShape where
  | m16n128 | m32n64 | m64n32 | m16n64 | m32n32
deriving DecidableEq, Repr

/-- A global address held in two 32-bit operands, low and high (R89). -/
structure GAddr where
  lo : Src
  hi : Src
deriving DecidableEq, Repr

/-- IPv6 and UDP headers of a frame (R291 to R293); addresses as numbers, the first byte sent the most significant. -/
structure Ip6 where
  tclass : Nat
  flow : Nat
  nextHeader : Nat
  hopLimit : Nat
  src : Nat
  dst : Nat
  sport : Nat
  dport : Nat
  checksum : Nat
deriving DecidableEq, Repr

/-- The parts of a frame before its transport header (Table 10.3): MAC addresses as numbers, the 802.1Q tag control of a tagged frame,
the EtherType, and in IPV6 the IPv6 and UDP headers. -/
structure Outer where
  dstMac : Nat
  srcMac : Nat
  tag : Option Nat
  etherType : Nat
  ip : Option Ip6
deriving DecidableEq, Repr

/-- A transport packet as it arrives or leaves (Table 10.4): header fields, the ECN codepoint, payload, poison mask bits, the trailer,
and the parts of its frame before it. LEN is the payload's length; spare holds the header bits that Table 10.4 reserves, at their
places in its 32 bytes. -/
structure Pkt where
  op : Nat
  tc : Nat
  poison : List Nat
  ackReq : Bool
  last : Bool
  retx : Bool
  ecn : Nat
  dst : Nat
  src : Nat
  dstCtx : Nat
  srcCtx : Nat
  hops : Nat
  psn : Nat
  ackPsn : Nat
  addr : Nat
  redOp : Nat
  redTy : Nat
  noAlloc : Bool
  payload : List Byte
  ver : Nat
  spare : List Byte
  trailer : Nat
  outer : Outer
deriving DecidableEq, Repr

/-- A beacon frame's payload (Table 2.10). -/
structure Beacon where
  type : Nat
  version : Nat
  jobId : Nat
  origin : Nat
  hops : Nat
  stop : Bool
  repeated : Bool
  tick : Nat
  timeNs : Nat
  correctionNs : Nat
  arg0 : Nat
  arg1 : Nat
  seqno : Nat
  leadNs : Nat
  crc : Nat
deriving DecidableEq, Repr

/-- A DISCOVER payload (Table 10.2). -/
structure Discover where
  familyId : Nat
  member : Nat
  devId : Nat
  port : Nat
  ready : Bool
  moduleSerial : List Byte
  cableSerial : List Byte
deriving DecidableEq, Repr

/-- What a configuration write sets (R352 to R356, R368). -/
inductive CfgWrite where
  | memorySpaceEnable (on : Bool)
  | busMasterEnable (on : Bool)
  | bar2Size (gib : Nat)
  | msixControl (enable functionMask : Bool)
  | dState (d3hot : Bool)
  | aerStatus (clear : BitVec 32)
  | other (offset : Nat)
deriving DecidableEq, Repr

/-- One temperature report: zone 0 to 25 (R397), sensor in the zone, the reading in °C; none when the sensor reports open
or is absent (R401). -/
structure SensorReport where
  zone : Nat
  sensor : Nat
  value : Option Int
deriving DecidableEq, Repr

/-- A vertical bond group: tower, interface 0 to 5 as UNIT of Table 8.10, group (R13, R255). -/
structure GroupRef where
  tower : Tower
  iface : Nat
  group : Nat
deriving DecidableEq, Repr

/-- What the work of a bring-up stage found (R415 to R429): code 0 or a failure code of Table 14.6; cores that failed
(tower, physical core); groups that failed training; loft lines that failed the march test (die, bank, line); the HBM rate
code all stacks passed; whether a port's first training attempt ended up; whether the identity cache must be rebuilt;
spare rows that failed (bank, spare row). -/
structure StageEnd where
  durationUs : Nat
  code : Nat
  failedCores : List (Tower × Nat)
  failedGroups : List GroupRef
  failedLines : List (Nat × Nat × Nat)
  rate : Nat
  portsUp : List Nat
  rebuildIdCache : Bool
  badSpares : List (Nat × Nat)
  drops : List (Nat × Nat)
deriving DecidableEq, Repr

/-- Result of a winnow slice (Table 16.2, Table 16.3): the unit's failures. -/
inductive SliceResult where
  | loft (failedCells : Nat) (lines : List Nat)
  | press (signatureOk : Bool)
  | spares (failed : List (GroupRef × Nat)) (failingWires : List (GroupRef × Nat))
  | references (sensors : List (Nat × Nat)) (regulators : List Nat)
deriving DecidableEq, Repr

/-- A cable module as CMIS reports it (R290): the port modes of Table 10.1 that its Application Descriptors match on the port's medium; its
bytes by (bank × 256 + page) × 256 + offset, the lower page at 0 to 127. -/
structure CmisReport where
  present : Bool
  fault : Bool
  revisionOk : Bool
  applications : List Nat
  serial : List Byte
  bytes : List (Nat × Byte)
deriving DecidableEq, Repr

/-- JTAG instructions (R482). -/
inductive TapIr where
  | bypass | idcode | samplePreload | extest | other
deriving DecidableEq, Repr

/-- The commands of the block, in the order of spec/opcode_table.json. A mailbox command's operand is the mailbox in which
COMMAND_TAKE started it. No instruction of a core has a uniform register as its destination: the manual names none that writes one after
the gang starts (DESIGN CHOICE, log 60). -/
inductive Instr where
  | devInfo (mb : Nat)
  | devStatus (mb : Nat)
  | devEvents (mb : Nat)
  | devTime (mb : Nat)
  | mbAcl (mb : Nat)
  | tickConfig (mb : Nat)
  | tickStart (mb : Nat)
  | tickStop (mb : Nat)
  | sheafSubmit (mb : Nat)
  | admissionEnd (job : Nat) (at_ : Nat)
  | sheafStatus (mb : Nat)
  | kernelLoad (mb : Nat)
  | jobCreate (mb : Nat)
  | jobDestroy (mb : Nat)
  | loftPin (mb : Nat)
  | loftUnpin (mb : Nat)
  | loftQuota (mb : Nat)
  | loftFlush (mb : Nat)
  | cellarConfig (mb : Nat)
  | memRemap (mb : Nat)
  | memScrub (mb : Nat)
  | bwBudget (mb : Nat)
  | fabPorts (mb : Nat)
  | fabSetId (mb : Nat)
  | fabRoutes (mb : Nat)
  | fabTopoExpect (mb : Nat)
  | fabContext (mb : Nat)
  | fabTickRole (mb : Nat)
  | twinBind (mb : Nat)
  | twinBindTimeout (mb : Nat)
  | twinUnbind (mb : Nat)
  | twinRestore (mb : Nat)
  | twinStatus (mb : Nat)
  | powerState (mb : Nat)
  | powerTransitionEnd (at_ : Nat) (dropsMv : List (Nat × Nat))
  | powerLimit (mb : Nat)
  | thermThresh (mb : Nat)
  | sensorMask (mb : Nat)
  | telemRead (mb : Nat)
  | resetLevel (mb : Nat)
  | partitionResetEnd (at_ : Nat) (failedCores : List (Tower × Nat))
  | bringupReport (mb : Nat)
  | identRead (mb : Nat) (live : CmisReport)
  | fuseRead (mb : Nat)
  | attestQuote (mb : Nat)
  | attestCert (mb : Nat)
  | fwRollbackCommit (mb : Nat)
  | ctrConfig (mb : Nat)
  | ctrRead (mb : Nat)
  | traceConfig (mb : Nat)
  | traceDrain (mb : Nat)
  | debugDump (mb : Nat)
  | dumpCopyEnd (job : Nat) (item : Nat)
  | testWinnow (mb : Nat)
  | testShutdownPrep (mb : Nat) (failedCores : List (Tower × Nat)) (flashOk : Bool)
  | testResults (mb : Nat)
  | eccInject (mb : Nat)
  | fwStage (mb : Nat)
  | fwCommit (mb : Nat)
  | fwVersion (mb : Nat)
  | mailboxHandoff (mb : Nat) (at_ : Nat)
  | commandTake (at_ : Nat)
  | mbDoneSummaryClear (value : BitVec 64)
  | devFaultClear (value : BitVec 32)
  | devResetKey (value : BitVec 32)
  | registerWrite (offset : Nat) (data : List Byte)
  | configSpaceWrite (w : CfgWrite)
  | bar2Read (offset length : Nat)
  | bar2Write (offset : Nat) (data : List Byte) (poisoned : Bool)
  | perstAssert
  | hotReset
  | msixStatusVector (at_ : Nat)
  | devEventsWaitTimeout
  | tickBoundary (job : Nat)
  | runEnd (job : Nat)
  | stretchDecision (job : Nat)
  | settleEnd (job : Nat)
  | commitEnd (job : Nat)
  | winnowSliceEnd (t : Tower) (r : SliceResult)
  | idleGleanWindow (t : Tower)
  | startBeacon (port : Nat) (b : Beacon) (at_ : Nat)
  | tickBeacon (port : Nat) (b : Beacon) (at_ : Nat)
  | holdBeacon (port : Nat) (b : Beacon) (at_ : Nat)
  | stretchBeacon (port : Nat) (b : Beacon) (at_ : Nat)
  | faultBeacon (port : Nat) (b : Beacon) (at_ : Nat)
  | abortBeacon (port : Nat) (b : Beacon) (at_ : Nat)
  | beaconRepeatSend (job : Nat)
  | beaconMiss (job : Nat)
  | gateWindowStart (measured0 measured1 : Nat)
  | gateNoticeEnd
  | holderBudgetWindowEnd (t : Tower) (holder : Nat)
  | kernelItemComplete (job item energy : Nat)
  | sweepOpComplete (t : Tower) (index energy : Nat)
  | copyPieceDone (job item : Nat)
  | copyItemComplete (job item energy : Nat)
  | vectorIntegerOp (g : FragRef) (op : IntOp) (dst : Nat) (a b c : Src)
  | integerDivide (g : FragRef) (rem signed : Bool) (dst : Nat) (a b : Src)
  | fp32Op (g : FragRef) (op : FpOp) (dst : Nat) (a b c : Src)
  | packed16Op (g : FragRef) (op : HalfOp) (bf16 : Bool) (dst : Nat) (a b c : Src)
  | cvt (g : FragRef) (src dst : Fmt) (rnd : Rnd) (sat : Bool) (d : Nat) (a : Src)
  | specialFunction (g : FragRef) (op : SfOp) (dst : Nat) (a : Src)
  | dataMove (g : FragRef) (dst : Nat) (op : MoveOp)
  | vote (g : FragRef) (dst p : Nat)
  | shfl (g : FragRef) (dst : Nat) (src : Nat) (lane : Src)
  | sreg (g : FragRef) (dst : Nat) (which : SRegName)
  | bra (g : FragRef) (p : Nat) (neg : Bool) (target reconv : Nat)
  | reconv (g : FragRef)
  | call (g : FragRef) (target : Nat)
  | ret (g : FragRef)
  | exit (g : FragRef)
  | yield (g : FragRef)
  | ldl (g : FragRef) (width dst : Nat) (addr : Src)
  | stl (g : FragRef) (width src : Nat) (addr : Src)
  | atoml (g : FragRef) (op : RedOp) (ty : RedTy) (dst : Option Nat) (addr : Src) (val cmp : Nat)
  | ld (g : FragRef) (width dst : Nat) (addr : GAddr)
  | ldRo (g : FragRef) (width dst : Nat) (addr : GAddr)
  | globalLoadReturn (id : Nat)
  | st (g : FragRef) (width src : Nat) (addr : GAddr)
  | atom (g : FragRef) (op : RedOp) (ty : RedTy) (o : MemOrder) (sc : MemScope) (dst : Nat) (addr : GAddr) (val cmp : Nat)
  | red (g : FragRef) (op : RedOp) (ty : RedTy) (o : MemOrder) (sc : MemScope) (addr : GAddr) (val : Nat)
  | acpG2l (g : FragRef) (src : GAddr) (dst bytes ctr : Src)
  | acpL2g (g : FragRef) (src : Src) (dst : GAddr) (bytes ctr : Src)
  | acpL2l (g : FragRef) (src dst bytes ctr : Src)
  | acpBox (g : FragRef) (desc : Src) (origin extent : List Src) (dst ctr : Src)
  | asyncCopyComplete (core id : Nat)
  | barInit (g : FragRef) (b n : Src)
  | barArrive (g : FragRef) (b : Src)
  | barWait (g : FragRef) (b : Src)
  | barSync (g : FragRef) (b : Src)
  | arvSet (g : FragRef) (c v : Src)
  | arvAdd (g : FragRef) (c v : Src)
  | arvWait (g : FragRef) (c n : Src)
  | lockAcq (g : FragRef) (space : LockSpace) (p : Nat) (addr : GAddr)
  | lockRetryTimeout (g : FragRef)
  | lockTry (g : FragRef) (space : LockSpace) (p : Nat) (addr : GAddr)
  | lockRel (g : FragRef) (space : LockSpace) (addr : GAddr)
  | fenceCrew (g : FragRef)
  | fenceTower (g : FragRef)
  | fenceDevice (g : FragRef)
  | fenceSys (g : FragRef)
  | invalRo (g : FragRef)
  | mma (g : FragRef) (sh : MmaShape) (fa fb : Fmt) (z : Bool) (c ua ub us : Nat)
  | mmaChainDrain (core quarter : Nat)
  | mxld (g : FragRef) (fmt : Fmt) (c ua n : Nat)
  | mxst (g : FragRef) (fmt : Fmt) (rnd : Rnd) (sat : Bool) (ua c n : Nat)
  | mxwait (g : FragRef)
  | swpPost (g : FragRef) (d c : Src)
  | memorySideReduction (t : Tower) (id : Nat)
  | loftAccess (t : Tower) (col : Nat) (flips : List (Nat × BitVec 72))
  | bulkFillComplete (t : Tower) (col : Nat)
  | writebackAccepted (t : Tower) (col : Nat)
  | fineFillComplete (t : Tower)
  | loftThrash (t : Tower)
  | bankHot (t : Tower)
  | hbmRequest (stack ch : Nat)
  | hbmAccessComplete (stack ch : Nat) (err : List (Nat × Byte)) (innerCorrected : Bool)
  | hbmAgePriority (stack ch : Nat)
  | hbmRefresh (stack : Nat) (bank : Option Nat)
  | floorReduction (stack ch : Nat)
  | hbmPinFailed (stack ch pc pin : Nat)
  | hbmBlockRepair (addr source : Nat)
  | hbmRowRepair (addr : Nat)
  | loftLineRepair (die bank line source : Nat)
  | scrubPatrol (unit : Nat) (addr : Nat) (err : List (Nat × Byte))
  | vlReplay (g : GroupRef) (failed : Bool) (sectors : List Nat)
  | vlWireFailing (g : GroupRef) (wire : Nat)
  | vlClockLoss (g : GroupRef)
  | portLinkLoss (port : Nat)
  | fecUncorrectableLimit (port : Nat)
  | portRetrainAttempt (port : Nat)
  | portSignalDetect (port : Nat)
  | portTrainingEnd (port : Nat) (up : Bool)
  | delayReq (port t1 at_ : Nat)
  | delayResp (port t2 t3 at_ : Nat)
  | discoverSend (port : Nat)
  | discover (port : Nat) (d : Discover)
  | discoverTimeout (port : Nat)
  | cmisPoll (fx : Nat) (r : CmisReport)
  | frameForward (port : Nat) (p : Pkt)
  | neighborSolicitation (port : Nat) (targetDev targetPort : Nat)
  | pfcFrame (port cls : Nat) (xoff : Bool)
  | write (port : Nat) (p : Pkt)
  | add (port : Nat) (p : Pkt)
  | signal (port : Nat) (p : Pkt)
  | readReq (port : Nat) (p : Pkt)
  | readResp (port : Nat) (p : Pkt)
  | ack (port : Nat) (p : Pkt)
  | nack (port : Nat) (p : Pkt)
  | cnp (port : Nat) (p : Pkt)
  | mirrorDeltaRecord (port : Nat) (p : Pkt)
  | commitRecord (t : Tower)
  | hello (t : Tower)
  | ackDelayTimer (ctx : Nat)
  | retransmitTimeout (ctx : Nat)
  | waitingResend (ctx : Nat)
  | waitingLimit (ctx : Nat)
  | rateRecovery (ctx : Nat)
  | seqPut (job item : Nat)
  | seqGet (job item : Nat)
  | seqPutRed (job item : Nat)
  | seqSignal (job item : Nat)
  | seqWait (job item : Nat)
  | seqWaitPoll (job item : Nat)
  | seqFence (job item : Nat)
  | seqLoop (job item : Nat)
  | seqEnd (job item energy : Nat)
  | thermalSample (at_ : Nat) (reports : List SensorReport)
  | thermalClampStep (t : Tower)
  | opPointChangeEnd (t : Tower)
  | powerBondDrop (zone mv : Nat)
  | calibrationRecordWrite
  | stackSelfRefreshTimeout (stack : Nat)
  | bringupStageEnd (r : StageEnd)
  | mcHeartbeatTick
  | mcWatchdog
  | inputRise
  | pwrEnAssert
  | pwrEnDeassert
  | inputUndervoltage
  | standbyLoss
  | moduleOff (offset d0 d1 : Byte)
  | entdaa (addr : BitVec 7)
  | rstdaa
  | tapInstruction (ir : TapIr)
  | traceAutoDrain (t : Tower)
  | perstDeassert
  | packageRailPowerGood
  | inputReturn
  | thermtripLatchClear
  | startSend (job : Nat)
  | fabricSend (ctx : Nat)
  | mxldMxstComplete (core quarter : Nat)
  | flashWriteEnd (ok : Bool)
  | coreResetEnd (at_ : Nat)
  | idCacheRebuildEnd
  | i3cTelemetryRefresh (inputMv inputMa pkgMv pkgMa towerW0 towerW1 : Nat)
deriving DecidableEq, Repr

end Sys2Proof
end

