-- ==== Sys2Proof/Machine/Tab.lean ====
section
/-! DEFINITION. Sparse data: tables keyed by a natural number in rising key order, and byte memory in its canonical form
(rising addresses, no byte equal to what an unlisted address reads as). -/

namespace Sys2Proof.Machine

/-- A sparse table: keys strictly rising. -/
abbrev Tab (α : Type) := List (Nat × α)

/-- Byte memory: addresses strictly rising, no entry equal to the unlisted byte 0x00. -/
abbrev Memory := List Host.Cell

/-- What an unlisted address reads as. DESIGN CHOICE (log 3): the loft is zero-filled (R180, R422); the manual gives no
power-on content of HBM. -/
def memDefault : Byte := 0#8

/-- The value held at a key. -/
def tabGet {α : Type} : Tab α → Nat → Option α
  | [], _ => none
  | (j, v) :: m, k => if k = j then some v else if k < j then none else tabGet m k

/-- The table with a key set. -/
def tabPut {α : Type} : Tab α → Nat → α → Tab α
  | [], k, v => [(k, v)]
  | (j, w) :: m, k, v =>
    if k = j then (k, v) :: m else if k < j then (k, v) :: (j, w) :: m else (j, w) :: tabPut m k v

/-- The table without a key. -/
def tabDel {α : Type} : Tab α → Nat → Tab α
  | [], _ => []
  | (j, w) :: m, k => if k = j then m else if k < j then (j, w) :: m else (j, w) :: tabDel m k

/-- The value held at a key, or a default. -/
def tabGetD {α : Type} (m : Tab α) (k : Nat) (d : α) : α := (tabGet m k).getD d

/-- Change the value at a key; nothing where the key is not held. -/
def tabMod {α : Type} (m : Tab α) (k : Nat) (f : α → α) : Tab α :=
  match tabGet m k with
  | some v => tabPut m k (f v)
  | none => m

/-- Keys strictly rising. -/
def tabWf {α : Type} : Tab α → Bool
  | [] => true
  | [_] => true
  | (j, _) :: (k, w) :: m => decide (j < k) && tabWf ((k, w) :: m)

/-- One byte of memory. -/
def memGet (m : Memory) (a : Nat) : Byte := tabGetD m a memDefault

/-- Store one byte, keeping the canonical form. -/
def memPut (m : Memory) (a : Nat) (b : Byte) : Memory :=
  if b = memDefault then tabDel m a else tabPut m a b

/-- The canonical form of byte memory. -/
def Memory.wf (m : Memory) : Bool := tabWf m && m.all (fun c => decide (c.2 ≠ memDefault))

/-- `n` bytes from an address up. -/
def memRead (m : Memory) (a : Nat) : Nat → List Byte
  | 0 => []
  | n + 1 => memGet m a :: memRead m (a + 1) n

/-- Store bytes from an address up. -/
def memWrite (m : Memory) (a : Nat) : List Byte → Memory
  | [] => m
  | b :: bs => memWrite (memPut m a b) (a + 1) bs

/-- Set a range of bytes to 0x00. -/
def memClear (m : Memory) (lo n : Nat) : Memory :=
  m.filter (fun c => !(decide (lo ≤ c.1) && decide (c.1 < lo + n)))

/-- Little-endian bytes of a number, `n` of them (00_scope.md, Conventions). -/
def leBytes (v : Nat) : Nat → List Byte
  | 0 => []
  | n + 1 => BitVec.ofNat 8 v :: leBytes (v / 256) n

/-- The number a little-endian byte list holds. -/
def leNat : List Byte → Nat
  | [] => 0
  | b :: bs => b.toNat + 256 * leNat bs

/-- The bytes of a layout from an offset, short lists reading 0. -/
def sliceBytes (bs : List Byte) (off n : Nat) : List Byte :=
  let d := (bs.drop off).take n
  d ++ List.replicate (n - d.length) 0#8

/-- A little-endian field of a byte layout. -/
def fieldAt (bs : List Byte) (off n : Nat) : Nat := leNat ((bs.drop off).take n)

/-- Whether every byte of a range of a layout is 0 (reserved fields, R8). -/
def zeroAt (bs : List Byte) (off n : Nat) : Bool := ((bs.drop off).take n).all (fun b => b == 0#8)

/-- Bits [hi:lo] of a number. -/
def bitsOf (v hi lo : Nat) : Nat := (v / 2 ^ lo) % 2 ^ (hi + 1 - lo)

/-- Bit i of a number. -/
def bitOf (v i : Nat) : Bool := v.testBit i

/-- ⌈a ÷ b⌉. -/
def ceilDiv (a b : Nat) : Nat := if b = 0 then 0 else (a + b - 1) / b

/-- a rounded up to a multiple of b. -/
def roundUp (a b : Nat) : Nat := ceilDiv a b * b

end Sys2Proof.Machine
end

