-- ==== Sys2Proof/Machine/State.lean ====
section
/-! DEFINITION. The state of the UZ9 as plain data, one structure per part of the device, and State.reset. A field's
docstring says what it is, its width, the file and rule that name it, and its reset value. -/

namespace Sys2Proof.Machine

/-- Raised by nobody: every row of the command table has an effect the manual gives, so no meaning ends in a fault. -/
inductive Fault where
deriving DecidableEq, Repr

/-- Why a command has no meaning. -/
inductive Refusal where
  /-- Raised by an arm of exec whose command is not modelled yet; safe. No arm does so now. -/
  | notModelled (mnemonic : String)
deriving DecidableEq, Repr

/-- One value per tower (R9). -/
structure Pair (α : Type) where
  t0 : α
  t1 : α
deriving DecidableEq, Repr

/-! ### Jobs, ticks and sheaves (02_ticks.md) -/

/-- A page-set or field-map entry (Table 2.6). -/
structure PageSet where
  space : Nat
  access : Nat
  count : Nat
  base : Nat
deriving DecidableEq, Repr

/-- Where a sheaf item stands (R39, R46, R57, R67, R386). -/
inductive ItemSt where
  | waiting | eligible | queued | notice | running | written | done | faulted | stopped
deriving DecidableEq, Repr

/-- A sheaf item (Table 2.4) with its progress: when it started, since when only STAGE items hold it up (R48), how many dumps
hold it (R472). -/
structure Item where
  kind : Nat
  towers : Nat
  eclass : Nat
  trace : Bool
  estNs : Nat
  psFirst : Nat
  psCount : Nat
  preds : List Nat
  descAddr : Nat
  descBytes : Nat
  args : List Byte
  st : ItemSt
  startNs : Nat
  stageSince : Option Nat
  holds : Nat
deriving DecidableEq, Repr

/-- An admitted sheaf (R36). -/
structure Sheaf where
  tick : Nat
  addr : Nat
  bytes : Nat
  critEst : Nat
  critUs : Nat
  noMirror : Bool
  seqActive : Nat
  symOff : Nat
  symBytes : Nat
  items : List Item
  pagesets : List PageSet
deriving DecidableEq, Repr

/-- States of a job (Table 2.12). -/
inductive JobState where
  | created | configured | armed | running | stopped | faulted
deriving DecidableEq, Repr

/-- Where the running tick stands (R32, R56). -/
inductive Phase where
  | idle | run | settle | commit | glean
deriving DecidableEq, Repr

/-- A SHEAF.SUBMIT in admission (R41, R68): the mailbox, its handoff and take, the parameters, and the job's state and
arming when it was accepted. -/
structure Admission where
  mb : Nat
  handoffNs : Nat
  takeNs : Nat
  tick : Nat
  addr : Nat
  bytes : Nat
  wasState : JobState
  epoch : Nat
deriving DecidableEq, Repr

/-- The record of a tick (Table 2.19). -/
structure TickRec where
  tick : Nat
  state : Nat
  critFlag : Bool
  faultCode : Nat
  itemsDone : Nat
  itemsTotal : Nat
  faultItem : Nat
  sUs : Nat
  dUs : Nat
  stageWaits : Nat
  gateWaitNs : Nat
  boundaryNs : Nat
deriving DecidableEq, Repr

/-- A loaded kernel (Table 3.4). -/
structure Kernel where
  addr : Nat
  bytes : Nat
  flags : Nat
  codeOffset : Nat
  codeBytes : Nat
  entry : Nat
  regs : Nat
  localKib : Nat
  barriers : Nat
  counters : Nat
  gangSizes : Nat
  eclass : Nat
  spillBytes : Nat
  paramBytes : Nat
  measurement : List Byte
deriving DecidableEq, Repr

/-- TICK.CONFIG values (Table 2.14). -/
structure TickCfg where
  periodUs : Nat
  commitPm : Nat
  gleanPm : Nat
  stretchPm : Nat
  seed : U64
  crc : Nat
deriving DecidableEq, Repr

/-- The device mesh of a job (R326 SET_MESH): sizes, coordinates and peers per axis. -/
structure Mesh where
  sizes : List Nat
  coords : List Nat
  peers : List (List Nat)
deriving DecidableEq, Repr

/-- A set of beacon copies still to send (R59). -/
structure RepeatSet where
  beacon : Beacon
  left : Nat
  nextNs : Nat
  gapNs : Nat
deriving DecidableEq, Repr

/-- A job (R62, R63) and its tick (R30 to R61). -/
structure Job where
  id : Nat
  partition : Nat
  seqFirst : Nat
  seqCount : Nat
  map : List PageSet
  state : JobState
  cfg : Option TickCfg
  startTick : Nat
  tick : Nat
  boundaryNs : Nat
  firstNs : Option Nat
  runEndNs : Nat
  settleUs : Nat
  phase : Phase
  sUs : Nat
  lastDUs : Nat
  started : Bool
  epoch : Nat
  sentHold : Bool
  overrunPosted : Bool
  holds : List Nat
  seqno : Nat
  lastSeq : Option Nat
  actedSeq : Option Nat
  pathNs : Nat
  misses : Nat
  tickSeen : Option Nat
  abortSent : Bool
  stopAt : Option Nat
  repeats : List RepeatSet
  sheaf : Option Sheaf
  next : Option Sheaf
  admission : Option Admission
  records : List TickRec
  kernels : Tab Kernel
  kernelLog : List Byte
  quota : Pair (Option Nat)
  mesh : Option Mesh
  ctxIndex : Tab Nat
deriving DecidableEq, Repr

/-- Roles of FAB.TICK_ROLE (Table 10.19). -/
inductive Role where
  | follower | master | relay
deriving DecidableEq, Repr

/-- A role record (R327). -/
structure RoleRec where
  role : Role
  upPort : Nat
  maxPathNs : Nat
  downMask : Nat
deriving DecidableEq, Repr

structure JobsSt where
  /-- Jobs on the device by job ID; 02_ticks.md R62, R63; reset none (R435). -/
  jobs : Tab Job
  /-- PART_MODE: 0 joined, 1 split; 8 bits; 00_scope.md R5, 02_ticks.md R63; reset 0 (DESIGN CHOICE 0, log 4). -/
  partMode : Nat
  /-- Beacon roles by job ID, at most 64; 10_fabric.md R327; reset none (R435). -/
  roles : Tab RoleRec
  /-- Start of the next idle glean window of each tower, ns; 16_observe.md R456; reset 0 (DESIGN CHOICE 0, log 4). -/
  idleGlean : Pair Nat
deriving DecidableEq, Repr

/-! ### Host attachment (12_host.md) -/

/-- A command taken from a mailbox (R363, R364). -/
structure Cmd where
  mb : Nat
  opcode : Nat
  length : Nat
  tag : Nat
  job : Nat
  flags : Nat
  hdrReserved : Bool
  params : List Byte
  handoffNs : Nat
  takeNs : Nat
  started : Bool
deriving DecidableEq, Repr

/-- MB.ACL entry of one mailbox (Table 12.19). -/
structure Acl where
  groups : Nat
  job : Nat
deriving DecidableEq, Repr

/-- A handoff the MC has not yet taken (R364), with the mailbox's MB.ACL entry at that moment (R376). -/
structure Handoff where
  mb : Nat
  atNs : Nat
  acl : Acl
deriving DecidableEq, Repr

/-- PCI Express configuration the device acts on (R351 to R356). -/
structure PcieCfg where
  memSpace : Bool
  busMaster : Bool
  bar2Gib : Nat
  msixEnable : Bool
  msixMask : Bool
  d3hot : Bool
  linkUp : Bool
  linkRate : Nat
  linkWidth : Nat
  aerPoisoned : Bool
deriving DecidableEq, Repr

structure HostSt where
  /-- Mailbox headers and payloads, BAR0 0x000_0000 to 0x003_FFFF, bytes; 12_host.md R357, R363; reset 0 (R371). -/
  mbArea : Memory
  /-- Result bytes beyond RESULT_LENGTH, by mailbox: the completion they date from and the undefined ranges of mailbox offsets; 12_host.md R364; reset none. -/
  stale : Tab (Nat × List (Nat × Nat))
  /-- OWN of mailboxes 0 to 63 (MB_OWN_SUMMARY), 64 bits; 12_host.md R363, R367; reset 0 (Table 12.13). -/
  own : BitVec 64
  /-- MB_DONE_SUMMARY, 64 bits, W1C; 12_host.md R367; reset 0 (Table 12.14). -/
  doneSum : BitVec 64
  /-- Handoffs not yet taken, in order of arrival; 12_host.md R364, R366; reset empty (R371). -/
  handed : List Handoff
  /-- Commands taken and not completed, by mailbox; 12_host.md R364, R366; reset none (R371). -/
  taken : Tab Cmd
  /-- MB.ACL of mailboxes 1 to 62 where it differs from GROUPS 0x0002 and JOB_ID 0; 12_host.md R376; reset none (R376). -/
  acl : Tab Acl
  /-- MSI-X table, 2 KiB at BAR0 0x006_0000; 12_host.md R357, R368; reset every vector masked, the rest 0 (PRESUMED, the PCI Express Base Specification's entry layout and reset, log 7). -/
  msixTable : Memory
  /-- MSI-X pending bits, 128; 12_host.md R357; reset 0 (R371). -/
  msixPba : BitVec 128
  /-- Enables, BAR2 size, MSI-X control, D-state, link of the PCIe function, and the poisoned TLP that AER has logged; 12_host.md R351 to R356, R361; reset enables clear, BAR2 64 GiB (R356), link down, nothing logged (DESIGN CHOICE, log 4). -/
  pcie : PcieCfg
  /-- DEV_FAULT.LAST_CODE, 16 bits; 12_host.md R358; reset 0 (Table 12.6). -/
  lastCode : Nat
  /-- DEV_FAULT.MC_DOWN, 1 bit; 12_host.md R358, R359; reset 0 (Table 12.6). -/
  mcDown : Bool
  /-- DEV_FAULT.HOST_RESET, 1 bit, W1C; 12_host.md R353, R358; reset 0 (Table 12.6). -/
  hostReset : Bool
  /-- DEV_FAULT.JOB_FAULT, 1 bit, W1C; 12_host.md R358; reset 0 (Table 12.6). -/
  jobFault : Bool
  /-- DEV_FAULT.EVENT_LOST, 1 bit, W1C; 12_host.md R358, R374; reset 0 (Table 12.6). -/
  eventLost : Bool
  /-- BAR2_APERTURE.BASE, 44 bits; 12_host.md R358; reset 0 (Table 12.10). -/
  aperture : BitVec 44
  /-- MC_HEARTBEAT.COUNT, 32 bits; 12_host.md R358; reset 0 (Table 12.10). -/
  heartbeat : BitVec 32
  /-- Whether the MC runs (the end of S6 starts it), 1 bit; 12_host.md R370, 14_bringup.md R424; reset false. -/
  mcRuns : Bool
  /-- Tick time base at the last heartbeat increment, ns; 12_host.md R359; reset 0 (DESIGN CHOICE 0, log 4). -/
  heartbeatNs : Nat
  /-- A status change not yet reported by vector 64, 1 bit; 12_host.md R368; reset false. -/
  statusChange : Bool
  /-- Time of the last vector-64 message, ns, none before the first; 12_host.md R368; reset none. -/
  vec64Ns : Option Nat
deriving DecidableEq, Repr

/-- A queued event record (Table 12.18). -/
structure Event where
  seq : Nat
  severity : Nat
  job : Nat
  timeNs : Nat
  code : Nat
  detail : List Byte
deriving DecidableEq, Repr

structure EvSt where
  /-- Event queue, oldest first, at most 1,024 records; 12_host.md R374; reset empty. -/
  queue : List Event
  /-- Next event SEQ, 32 bits, from 0 at COLD reset; 12_host.md Table 12.18; reset 0. -/
  seq : Nat
  /-- LOST, drops since the last DEV.EVENTS, 32 bits; 12_host.md R374; reset 0. -/
  lost : Nat
deriving DecidableEq, Repr

/-! ### Fabric (10_fabric.md) -/

/-- A physical port's mode and medium, and the settings of FAB.PORTS (Table 10.15). -/
structure PortCfg where
  encap : Nat
  payload : Nat
  etherType : Nat
  udpPort : Nat
  vlan : Nat
  pfcMask : Nat
  dscp : List Nat
  pcp : List Nat
  pfx : Nat
  modes : List Nat
  gateways : List Nat
deriving DecidableEq, Repr

/-- Link state of a logical port (Table 10.16). -/
inductive LinkSt where
  | down | training | up
deriving DecidableEq, Repr

/-- The neighbour of a port, from DISCOVER (R289). -/
structure Neighbor where
  familyId : Nat
  member : Nat
  dev : Nat
  port : Nat
  serial : List Byte
deriving DecidableEq, Repr

/-- A logical port (R285 to R290, R296, R307 to R309). held are packets that wait at the egress, oldest first; capSent the class-3 and
class-2 frames it has sent in the last 10 µs (time, class, bytes); rx the bytes of each class in its receive buffer; xoff the classes it
has paused at its partner. -/
structure Port where
  link : LinkSt
  enabled : Bool
  upNs : Nat
  attemptNs : Nat
  neighbor : Option Neighbor
  discoverWait : Bool
  discoverSent : Nat
  discoverNs : Nat
  delayNs : Nat
  delaySamples : List Int
  delayT1 : Option Nat
  fecCorr : Nat
  fecUncorr : Nat
  paused : Nat
  held : List Pkt
  egressDepth : List Nat
  egressNs : Nat
  capSent : List (Nat × Nat × Nat)
  rx : List Nat
  xoff : Nat
  modulePresent : Bool
  moduleMismatch : Bool
  moduleFault : Bool
  cableSerial : List Byte
deriving DecidableEq, Repr

/-- A route entry (Table 10.7). -/
structure Route where
  valid : Bool
  spray : Bool
  count : Nat
  egress : List Nat
  remote : List Nat
deriving DecidableEq, Repr

/-- Context states (Table 10.8). -/
inductive CtxSt where
  | openS | waiting | error
deriving DecidableEq, Repr

/-- A packet sent and not acknowledged, with its send time. -/
structure Unacked where
  pkt : Pkt
  sentNs : Nat
  resent : Bool
deriving DecidableEq, Repr

/-- A transfer queued on a context: a WRITE or ADD of local bytes, read as they are sent; data to return; a SIGNAL; a
READ_REQ (R311, R318). -/
inductive Xfer where
  | put (add : Bool) (laddr raddr bytes redOp redTy : Nat) (noAlloc : Bool)
  | reply (raddr : Nat) (bytes : List Byte) (poison : List Nat)
  | signal (raddr value : Nat)
  | get (laddr raddr bytes : Nat)
deriving DecidableEq, Repr

/-- A fabric context (Table 10.8), a FREE context being absent. owner 0 with mirror set is a mirror context. -/
structure Ctx where
  state : CtxSt
  owner : Nat
  mirror : Bool
  tower : Tower
  peerDev : Nat
  peerCtx : Nat
  access : Nat
  tc : Nat
  sndNxt : Nat
  sndUna : Nat
  rcvNxt : Nat
  rate : Nat
  srttNs : Nat
  retries : Nat
  rtoNs : Nat
  timerNs : Nat
  queue : List Xfer
  unacked : List Unacked
  unackedRx : Nat
  ackDueNs : Option Nat
  nackNs : Option Nat
  cnpNs : Option Nat
  cutNs : Option Nat
  recoverNs : Nat
  waitNs : Nat
  waitResendNs : Nat
  sendNs : Nat
  replies : List (Nat × Nat)
deriving DecidableEq, Repr

structure FabSt where
  /-- Device ID, 13 bits, none before FAB.SET_ID; 10_fabric.md R323; reset none (R435). -/
  devId : Option Nat
  /-- Settings of FAB.PORTS in force; 10_fabric.md R322; reset factory settings (R322), from flash at S8. -/
  cfg : PortCfg
  /-- Logical ports by number 0 to 47; 10_fabric.md R285, R287; reset none enabled. -/
  ports : Tab Port
  /-- Route table, 8,192 entries, all-zero entries absent; 10_fabric.md R299; reset none (R435). -/
  routes : Tab Route
  /-- Contexts 0 to 16,383, FREE ones absent; 10_fabric.md R301; reset none (R435). -/
  ctxs : Tab Ctx
  /-- Contexts whose records each floor caches, 2,048 a floor; 10_fabric.md R301; reset none (DESIGN CHOICE, log 63). -/
  ctxCache : Pair (List Nat)
  /-- A FAB.TOPO_EXPECT held during S8 (mailbox); 14_bringup.md R432; reset none. -/
  topoHeld : Option Nat
  /-- Sender mesh of running cable modules: bytes of the cached CMIS pages by connector, 256 bytes a page; 14_bringup.md R430; reset none. -/
  cmis : Tab Memory
  /-- Connectors whose CMIS copy has been read since time zero, and when, ns; 14_bringup.md R430; reset none. -/
  cmisNs : Tab Nat
  /-- What the last poll of each connector found, its bytes left to `cmis`; 10_fabric.md R290; reset none. -/
  modules : Tab CmisReport
deriving DecidableEq, Repr

/-! ### Twins (11_twins.md) -/

/-- Binding states (Table 11.6). -/
inductive BindSt where
  | off | pending | bound | lost | recovering
deriving DecidableEq, Repr

/-- A commit record (Table 11.5). -/
structure CommitRec where
  job : Nat
  tower : Nat
  flags : Nat
  tick : Nat
  entries : Nat
  dataBytes : Nat
  streamBytes : Nat
  streamCrc : Nat
  boundaryNs : Nat
deriving DecidableEq, Repr

/-- A record of a stream to send (R337): cellar or mirror cellar bytes of a kind, read as they are sent; a commit record; a HELLO. -/
inductive TxRec where
  | data (kind off bytes half : Nat)
  | commit (c : CommitRec)
  | hello (bits : Nat) (fields : List Nat)
deriving DecidableEq, Repr

/-- What the acknowledgement of a stream means. -/
inductive TxKind where
  | hello
  | tick (tick : Nat) (isProtected afterSeed : Bool)
  | restore
  | seed
deriving DecidableEq, Repr

/-- A stream being sent: records not yet made into bytes, bytes made and not yet sent with their poison, bytes made in all and the
CRC-32C register over them, bytes sent. -/
structure TxStream where
  kind : TxKind
  recs : List TxRec
  buf : List (Byte × Bool)
  made : Nat
  crc : W32
  sent : Nat
deriving DecidableEq, Repr

/-- A restore or seed in progress (R346): ranges not yet sent, bytes sent, whether it covers the whole cellar. -/
structure Restore where
  mb : Nat
  seed : Bool
  left : List (Nat × Nat)
  sentBytes : Nat
  tick : Nat
  startNs : Nat
  whole : Bool
deriving DecidableEq, Repr

/-- The twin binding of one tower (R329 to R349). -/
structure Twin where
  state : BindSt
  isProtected : Bool
  holding : Bool
  untrusted : Bool
  twinDev : Nat
  job : Nat
  lostCause : Nat
  committed : Option Nat
  mirrorTick : Option Nat
  lastStreamBytes : Nat
  lastCommitUs : Nat
  seedDone : Nat
  seedTotal : Nat
  ctx : Nat
  peerCtx : Nat
  deltaMax : Nat
  deltaAddr : Nat
  recover : Bool
  bindMb : Option Nat
  bindTowers : Nat
  bindStartNs : Nat
  wasLost : Bool
  helloSeen : Bool
  helloAcked : Bool
  peerTowers : Nat
  peerRecover : Bool
  peerCellar : Nat
  peerMirror : Nat
  peerCommitted : Option Nat
  peerMirrorTick : Option Nat
  rxBuf : List (Byte × Bool)
  rxBytes : Nat
  rxCrc : W32
  rxHeld : Option Nat
  txQueue : List TxStream
  txAcks : List (Nat × TxKind)
  txRec : Option CommitRec
  txPending : Option Nat
  seedEnded : Bool
  seedFull : Bool
  settleEndNs : Nat
  ringTx : List CommitRec
  ringRx : List CommitRec
  restore : Option Restore
deriving DecidableEq, Repr

/-! ### Loft (06_loft.md) -/

/-- A pinned bay (R178, R181). -/
structure Bay where
  job : Nat
  layout : Nat
deriving DecidableEq, Repr

/-- A BULK line (R189): data, encoding, quarter valid and dirty bits, staged mark, lock, age, slots, tag index. -/
structure BulkLine where
  data : List Byte
  enc : Nat
  slots : Nat
  valid : BitVec 4
  dirty : BitVec 4
  poison : BitVec 8
  staged : Bool
  locked : Bool
  age : Nat
  tag : Nat
  col : Nat
  row : Nat
  set : Nat
  tower : Tower
deriving DecidableEq, Repr

/-- Who waits for a load (R89): registers of lanes of a gang. -/
structure LoadTag where
  g : FragRef
  width : Nat
  dst : Nat
  lanes : List (Nat × Nat)
  viaL1r : Bool
deriving DecidableEq, Repr

/-- One lane's part of a memory-side reduction (R92): lane, address, operand, comparand, whether the operand is poisoned, whether it
is a single BF16 element, the odd last one of a row (R272). -/
structure LaneOp where
  lane : Nat
  addr : Nat
  val : W64
  cmp : W64
  poison : Bool
  single : Bool
deriving DecidableEq, Repr

/-- What a loft request does (R89, R92, R195): a core's load; an engine's read of n bytes of one line; a store; a reduction; a
fetch through FINE of the 64-byte pair of sectors at the address. -/
inductive ReqKind where
  | load (t : LoadTag)
  | read (n : Nat)
  | store (bytes : List (Nat × Byte)) (poison : List Nat)
  | reduce (op : RedOp) (ty : RedTy) (ops : List LaneOp) (ret : Option LoadTag)
  | fine (cls : Nat)
deriving DecidableEq, Repr

/-- For whom a loft request is made: holder of Table 7.5, whether its lookup counts (R206), whether a miss places the line (R198),
whether it is a STAGE request for the next tick (R225), whether it marks its line staged (R208), whether it carries a receive
buffer's data (R227). -/
structure Agent where
  holder : Nat
  counted : Bool
  alloc : Bool
  early : Bool
  staged : Bool
  rx : Bool
deriving DecidableEq, Repr

/-- A request on its way to a bank controller (R202): number, address, job, core and sheaf item for a kernel's own request, what
it does, whether a reduction was asked for without allocation, for whom. -/
structure LoftReq where
  id : Nat
  addr : Nat
  job : Nat
  core : Option (Nat × Nat)
  kind : ReqKind
  noAlloc : Bool
  agent : Agent
deriving DecidableEq, Repr

/-- An open BULK miss register (R199): 256-byte line address, waiters in order, quarters fetched. -/
structure MissReg where
  la : Nat
  waiters : List LoftReq
  quarters : List (Nat × List Byte × Bool)
deriving DecidableEq, Repr

/-- An entry of a column's write-back buffer (R201): line, data, quarters held, quarters dirty, poisoned sectors. -/
structure WbEntry where
  la : Nat
  data : List Byte
  valid : BitVec 4
  dirty : BitVec 4
  poison : BitVec 8
deriving DecidableEq, Repr

/-- A FINE line of 128 bytes (R196): sector valid bits, MC class. -/
structure FineLine where
  valid : BitVec 4
  mc : Bool
  frame : Nat
  set : Nat
  way : Nat
deriving DecidableEq, Repr

/-- A FINE miss (R196, R197): line, first sector of the pair requested, class, waiters, whether the pair has arrived. -/
structure FineMiss where
  lf : Nat
  sector : Nat
  mc : Bool
  waiters : Nat
  arrived : Bool
deriving DecidableEq, Repr

/-- The loft of one tower. -/
structure LoftT where
  /-- Retired bank columns; 06_loft.md R177; reset from the defect maps (R419). -/
  retired : List Nat
  /-- Frame tables by column, 64 rows each, absent where in the initial state; 06_loft.md R188; reset initial. -/
  frames : Tab (List Nat)
  /-- Compression predictor counters by column × 256 + entry: counter (2 bits) and fills since the last trial; 06_loft.md R192; reset 0. -/
  predictor : Tab (Nat × Nat)
  /-- Miss registers by column, at most 16 each; 06_loft.md R199; reset none. -/
  miss : Tab (List MissReg)
  /-- Hold slots by column, at most 8 each; 06_loft.md R200; reset none. -/
  hold : Tab (List LoftReq)
  /-- Write-back buffers by column, at most 8 lines each; 06_loft.md R201; reset none. -/
  wb : Tab (List WbEntry)
  /-- Requests on their way to the bank controllers, in order of arrival; 06_loft.md R202; reset none. -/
  arrivals : List LoftReq
  /-- Reductions whose line is present and locked, running at the press unit; 05_press.md R169; reset none. -/
  reducing : List LoftReq
  /-- FINE lines by HBM address ÷ 128; 06_loft.md R196; reset none. -/
  fine : Tab FineLine
  /-- FINE misses outstanding; 06_loft.md R196; reset none. -/
  fineMiss : List FineMiss
  /-- Replacement bits of FINE sets, 15 a set, by frame column × 1,024 + set; 06_loft.md R196; reset 0 (DESIGN CHOICE 0, log 51). -/
  plru : Tab Nat
  /-- BULK lookups of the tick's RUN; 06_loft.md R206; reset 0. -/
  lookups : Nat
  /-- BULK misses of the tick's RUN; 06_loft.md R206; reset 0. -/
  misses : Nat
  /-- Misses held by the per-bank cap in the tick; 06_loft.md R200, R207; reset 0. -/
  stalls : Nat
  /-- Stalls of the tick by HBM bank (stack, channel, pseudo-channel, bank in one number); 06_loft.md Table 6.12; reset none. -/
  stallBanks : Tab Nat
  /-- A BANK_HOT record has been posted in the tick; 06_loft.md R207; reset false. -/
  hotPosted : Bool
  /-- Consecutive ticks over the thrash threshold; 06_loft.md R206; reset 0. -/
  overTicks : Nat
  /-- A LOFT_THRASH record has been posted since the last tick below the threshold; 06_loft.md R206; reset false. -/
  thrashPosted : Bool
  /-- Lookups and misses of the last closed tick; 06_loft.md Table 6.12; reset 0. -/
  lastLookups : Nat
  lastMisses : Nat
  /-- Staged 64 KiB granules of pinned bays that no item has read: bytes, and the tick they were staged for; 06_loft.md R208; reset none. -/
  granules : Tab (Nat × Nat)
  /-- Staging for the tick: bytes, used, late, waits, wait ns, early evicted; 06_loft.md R208; reset 0. -/
  stageBytes : Nat
  /-- Bytes staged so far for the next tick; 06_loft.md R208; reset 0. -/
  stageNext : Nat
  stageUsed : Nat
  stageLate : Nat
  stageWaits : Nat
  stageWaitNs : Nat
  stageEarly : Nat
  /-- A bank redirected to the spare bank by a winnow slice (die 0 A, 1 B, bank); 16_observe.md R458; reset none. -/
  redirect : Option (Nat × Nat)
deriving DecidableEq, Repr

structure LoftSt where
  /-- Per-tower loft state; 06_loft.md R174; reset empty. -/
  tw : Pair LoftT
  /-- BULK lines by line address (HBM local address ÷ 256); 06_loft.md R187, R189; reset none. -/
  bulk : Tab BulkLine
  /-- Reads that engines have been answered and not yet taken, by request number: bytes and poisoned sectors (the model's own); reset none. -/
  answers : Tab (List Byte × List Nat)
  /-- Pinned bays by (address − 0x400_0000_0000) ÷ 2 MiB; 06_loft.md R175, R178; reset none. -/
  bays : Tab Bay
  /-- Bytes of pinned bays by local address; 06_loft.md R178; reset 0 (R422). -/
  pinMem : Memory
  /-- Poisoned 32-byte sectors of pinned bays (address ÷ 32); 08_integrity.md R243; reset none. -/
  pinPoison : Tab Unit
  /-- THRASH_PCT, 8 bits; 06_loft.md R185; reset 40 (R185). -/
  thrashPct : Nat
  /-- BANKHOT_MIN, 32 bits; 06_loft.md R185; reset 0 (R185). -/
  bankhotMin : Nat
  /-- Loft commands in progress by mailbox: job, lines whose write-back they wait for, result; 06_loft.md R182, R184, R204; reset none. -/
  waiting : Tab (Nat × List Nat × List Byte)
  /-- Loft line tables: die × 2^24 + bank × 2^15 + line, with source and time; 08_integrity.md R249; reset from flash. -/
  lineTable : Tab (Nat × Nat)
  /-- Code words of loft words that differ from a valid word: die, line, bank, word in one number to the XOR mask; 08_integrity.md R240, R255; reset none. -/
  flips : Tab (BitVec 72)
  /-- Patterns that corrected loft words have been seen with: pattern, time of the first sighting, whether persistent; 08_integrity.md R250; reset none. -/
  sightings : Tab (List (Nat × Nat × Bool))
deriving DecidableEq, Repr

/-! ### HBM (07_cellar.md, 08_integrity.md) -/

/-- Who waits for an HBM request: a BULK fill, a FINE fill, a direct read by its number, a reduction at the floor's adder with its
operands and the load that takes the old words (R230); nobody, as for a write. -/
inductive HbmSrc where
  | fill (t : Tower) (col la quarter : Nat)
  | fineFill (t : Tower) (lf sector : Nat)
  | direct (id job : Nat)
  | adder (op : RedOp) (ty : RedTy) (job : Nat) (ops : List LaneOp) (ret : Option (Nat × LoadTag))
  | other
deriving DecidableEq, Repr

/-- A 64-byte request in or before a channel queue (R210, R216). A write holds bytes from off up, which the controller merges into the
block (R275). overtaken counts the row hits of equal priority that have gone
before it (R220); rx says whether it carries a receive buffer's data (R227). -/
structure HbmReq where
  id : Nat
  addr : Nat
  isWrite : Bool
  off : Nat
  data : List Byte
  poisoned : Bool
  holder : Nat
  enterNs : Nat
  aged : Bool
  early : Bool
  overtaken : Nat
  rx : Bool
  src : HbmSrc
deriving DecidableEq, Repr

/-- The direction of a pseudo-channel (R219, R220): writing, accesses since the change. -/
structure PcDir where
  writing : Bool
  served : Nat
deriving DecidableEq, Repr

/-- A channel controller (R216 to R220): requests at the port, in the queue and in the side list; directions by
pseudo-channel; open rows by pseudo-channel × 64 + bank. -/
structure Chan where
  input : List HbmReq
  queue : List HbmReq
  side : List HbmReq
  dirs : Tab PcDir
  openRows : Tab Nat
deriving DecidableEq, Repr

/-- An HBM stack: refresh at the 2× rate, self-refresh, lost, refreshes postponed per bank (R222, R412, R413). -/
structure Stack where
  refresh2x : Bool
  selfRefresh : Bool
  confirmed : Bool
  lost : Bool
  postponed : Tab Nat
deriving DecidableEq, Repr

/-- A holder's settings and counts in one tower (Table 7.5, R226, R228). mean is in 1/16 ns. -/
structure Holder where
  basePrio : Nat
  targetNs : Nat
  budgetMbps : Nat
  mean16 : Nat
  samples : Nat
  windowBytes : Nat
deriving DecidableEq, Repr

/-- Cellar or mirror cellar region (Table 7.6). -/
structure Region where
  base : Nat
  bytes : Nat
deriving DecidableEq, Repr

/-- A repair table entry of an HBM stack (Table 8.7). kind 1 block, 2 row, 4 failed pin, 5 retired page. -/
structure Repair where
  kind : Nat
  channel : Nat
  bank : Nat
  source : Nat
  row : Nat
  sub : Nat
  timeNs : Nat
deriving DecidableEq, Repr

/-- An armed flip-mask register (R255). -/
structure FlipMask where
  poison : Bool
  addr : Nat
  group : Nat
  dataMask : List Byte
  checkMask : List Byte
deriving DecidableEq, Repr

structure HbmSt where
  /-- HBM contents by local address, bytes; 07_cellar.md R210; reset 0x00 (DESIGN CHOICE, log 3). -/
  mem : Memory
  /-- Outer code words that differ from a valid word, by block (address ÷ 64): symbol number 0 to 67 (0 to 3 checks) and XOR value; 08_integrity.md R236, R243; reset none. -/
  marks : Tab (List (Nat × Byte))
  /-- Rate code in force, 0 to 4; 07_cellar.md R209; reset 4 (Table 7.1 default). -/
  rate : Nat
  /-- Homing in force: false tower-local, true global; 07_cellar.md R22, R231; reset tower-local (R22). -/
  globalHoming : Bool
  /-- Controller mode per tower, true MIXED; 07_cellar.md R219, R231; reset STREAM (R435). -/
  mixed : Pair Bool
  /-- Controller mode and REFRESH pending for the next boundary; 07_cellar.md R232; reset none. -/
  mixedNext : Pair (Option (Bool × Bool))
  /-- REFRESH of MIXED mode per tower: true all-bank; 07_cellar.md R231; reset per-bank (DESIGN CHOICE 0, log 4). -/
  allBank : Pair Bool
  /-- Stacks 0 to 15; 07_cellar.md R209, R222; reset refresh at the 2× rate (R423). -/
  hbmStacks : Tab Stack
  /-- Channel controllers by stack × 32 + channel, empty ones absent; 07_cellar.md R216; reset none. -/
  chans : Tab Chan
  /-- Holder records by tower × 16 + holder where they differ from Table 7.5; 07_cellar.md R224; reset none (R224). -/
  holders : Tab Holder
  /-- Cellar region of each tower; 07_cellar.md R214, R231; reset from flash, none before. -/
  cellar : Pair Region
  /-- Mirror cellar region of each tower; 07_cellar.md R214, R231; reset from flash, none before. -/
  mirror : Pair Region
  /-- DETECT mode of the outer decoders, 1 bit; 08_integrity.md R238, R254; reset CORRECT. -/
  detect : Bool
  /-- Failed data pins by stack × 64 + channel × 2 + pseudo-channel, in use by the decoder; 08_integrity.md R239; reset none. -/
  failedPins : Tab (List Nat)
  /-- Corrected accesses per pin: times of the last 1,024, ns, newest first, and whether 1,024 have come within 1 ms; key as failedPins × 32 + pin; 08_integrity.md R239; reset none. -/
  pinTally : Tab (List Nat × Bool)
  /-- Repair tables of the stacks, in order of repair; 08_integrity.md R248, R250; reset from flash. -/
  repairs : Tab (List Repair)
  /-- Spare rows found unusable at bring-up, by bank (stack, channel, pseudo-channel, bank in one number); 08_integrity.md R251; reset none. -/
  badSpares : Tab (List Nat)
  /-- Pages recorded for retirement (address ÷ 2 MiB): whether in force, and SOURCE of Table 8.7; 08_integrity.md R251; reset from flash. -/
  retiredPages : Tab (Bool × Nat)
  /-- Patterns that corrected blocks have been seen with: pattern, time of the first sighting, whether persistent; 08_integrity.md R250; reset none. -/
  sightings : Tab (List (List (Nat × Byte) × Nat × Bool))
  /-- Scrub periods HBM_PASS_MIN and LOFT_PASS_S, 32 bits each; 08_integrity.md R254; reset 720 and 60 (Table 8.8). -/
  hbmPassMin : Nat
  loftPassS : Nat
  /-- Armed flip-mask registers: stacks 0 to 15, loft dies 16 to 19, interfaces 20 + 6 × tower + interface; 08_integrity.md R255; reset none armed. -/
  armed : Tab FlipMask
  /-- Next HBM request number (the model's own); reset 0. -/
  nextId : Nat
deriving DecidableEq, Repr

/-- A bond group that is not as manufactured (R10, R242, R246). -/
structure BondGroup where
  sparesUsed : List (Nat × Nat)
  unusable : List Nat
  failing : List Nat
  failures : Nat
  retired : Bool
deriving DecidableEq, Repr

structure VlSt where
  /-- Bond groups by tower × 2^16 + interface × 2^13 + group where not as manufactured; 01_stack.md R10, 08_integrity.md R242 to R247; reset from flash. -/
  groups : Tab BondGroup
deriving DecidableEq, Repr

/-! ### Cores (03_cores.md, 04_matrix.md) -/

/-- What a fragment waits for (R85, R87, R94, R99, R100, R105, R125). -/
inductive Wait where
  | ready
  | reconv (id : Nat)
  | barrier (b : Nat) (phases : List (Nat × Nat))
  | rearrive (b : Nat) (lanes : List Nat) (thenWait : Bool)
  | counter (c : Nat) (n : W32)
  | lock (space : LockSpace) (p : Nat) (addrs : List (Nat × Nat)) (sinceCycle : Nat)
  | fence (scope : Nat) (ids : List Nat)
  | faulted
deriving DecidableEq, Repr

/-- A divergent branch a fragment came from: split number and reconvergence point (R87). -/
structure Split where
  id : Nat
  reconv : Nat
deriving DecidableEq, Repr

/-- A fragment of a gang (R86). calls holds the return addresses of each lane, those of lanes with none absent. -/
structure Frag where
  pc : Nat
  mask : BitVec 32
  wait : Wait
  calls : Tab (List Nat)
  splits : List Split
deriving DecidableEq, Repr

/-- Registers with a result pending (R74): first, last, and the number of the operation that will release them. -/
structure PendReg where
  lo : Nat
  hi : Nat
  tag : Nat
deriving DecidableEq, Repr

/-- A resident gang (R82). regs holds lane × 256 + register; preds lane × 8 + predicate. order is 0 until a YIELD puts the gang at the
back (R85). fenceWait is the scope of the gang's last fence and the requests it waits for (R94). -/
structure Gang where
  job : Nat
  item : Nat
  crew : Nat
  quarter : Nat
  uregs : Tab W32
  regs : Tab W32
  poison : Tab Unit
  preds : Tab Unit
  frags : Tab Frag
  exited : BitVec 32
  draws : Tab Nat
  cvtFlags : BitVec 32
  pend : List PendReg
  order : Nat
  nextSplit : Nat
  stores : List Nat
  fenceWait : Option (Nat × List Nat)
deriving DecidableEq, Repr

/-- A hardware barrier of a crew (R100, R101): lanes numbered gang × 32 + lane. lastPhase says in which phase a lane last
arrived; stores are the requests, by phase, that an arrival releases (R96). -/
structure Bar where
  expect : Nat
  phase : Nat
  arrived : List Nat
  lastPhase : Tab Nat
  stores : List (Nat × Nat)
deriving DecidableEq, Repr

/-- A resident crew (R81, R82). Local memory lists every byte written since the crew started. -/
structure Crew where
  job : Nat
  item : Nat
  index : Nat
  gangs : Nat
  handle : Nat
  kernel : Kernel
  spillBase : Nat
  towers : Nat
  spillSlot : Nat
  bars : Tab Bar
  ctrs : Tab W32
  lmem : Tab Byte
  lpoison : Tab Unit
  uid : Nat
  exitedGangs : List Nat
deriving DecidableEq, Repr

/-- An async copy in flight (R97, R99): the crew that issued it, its counter, and what lands where (bytes, and poisoned words or
sectors). -/
structure ACopy where
  id : Nat
  slot : Nat
  uid : Nat
  job : Nat
  item : Nat
  ctr : Nat
  toLocal : Option (Nat × List Byte × List Nat)
  toGlobal : Option (Nat × List Byte × List Nat)
  landed : Bool
deriving DecidableEq, Repr

/-- A matrix instruction in a quarter's queue (R131), with its local-memory bytes: A, B and their strides, the units an MXLD reads,
or what an MXST writes and which of its words are poisoned. -/
inductive MxOp where
  | mma (sh : MmaShape) (fa fb : Fmt) (z : Bool) (c a b sa sb : Nat)
  | mxld (fmt : Fmt) (c a n : Nat)
  | mxst (units : List (Nat × List Byte × Bool))
deriving DecidableEq, Repr

/-- An entry of a matrix queue: the gang and fragment it came from, its program counter, the number that releases its registers. -/
structure MxEntry where
  slot : Nat
  gang : Nat
  frag : Nat
  pc : Nat
  op : MxOp
  tag : Nat
deriving DecidableEq, Repr

/-- A chain held in an accumulator buffer (R132): its C registers as lane × 256 + register, whether a following MMA can still
continue it, and the numbers that release its registers. -/
structure Chain where
  slot : Nat
  gang : Nat
  sh : MmaShape
  intAcc : Bool
  c : Nat
  acc : Tab W32
  joinable : Bool
  tags : List Nat
deriving DecidableEq, Repr

/-- One rafter core (R71). -/
structure Core where
  /-- Held in reset by TEST.SHUTDOWN_PREP, 1 bit; 16_observe.md R462; reset false. -/
  held : Bool
  /-- Resident crews by crew slot 0 to 15; 03_cores.md R71; reset none. -/
  crews : Tab Crew
  /-- Resident gangs by crew slot × 32 + gang; 03_cores.md R71; reset none. -/
  gangs : Tab Gang
  /-- L1R lines by address ÷ 128; 03_cores.md R91; reset none. -/
  l1r : Tab (List Byte × List Nat)
  /-- L1R misses outstanding by address ÷ 128, with the loads that wait and their numbers; 03_cores.md R91; reset none. -/
  l1rMiss : Tab (List (Nat × LoadTag))
  /-- Async copies in flight, in issue order; 03_cores.md R97, R99; reset none. -/
  copies : List ACopy
  /-- Matrix queues of quarters 0 to 3, two entries each; 04_matrix.md R131; reset empty. -/
  mxq : Tab (List MxEntry)
  /-- Quarter whose instruction the array is on, none when it is free; 04_matrix.md R131; reset none. -/
  mxTaken : Option Nat
  /-- Quarter the array last took an instruction from; 04_matrix.md R131; reset 3, so that quarter 0 comes first (DESIGN CHOICE, log 4). -/
  mxLast : Nat
  /-- Accumulator buffers of quarters 0 to 3; 04_matrix.md R132; reset empty. -/
  chains : Tab (List Chain)
  /-- Cycle counter read by SREG, 64 bits; 03_cores.md R82; reset 0 (DESIGN CHOICE 0, log 4). -/
  cycles : Nat
  /-- YIELDs executed, which order the gangs that yielded (the model's own); reset 0. -/
  nextOrder : Nat
  /-- Fragment that each quarter issued from last: place of its gang in the order, gang, fragment; 03_cores.md R85; reset none. -/
  lastIssue : Tab (Nat × Nat × Nat)
deriving DecidableEq, Repr

/-- A KERNEL item whose crews are being dispatched (R81). -/
structure Dispatch where
  job : Nat
  item : Nat
  handle : Nat
  kernel : Kernel
  gangs : Nat
  crews : Nat
  next : Nat
  towers : Nat
  spillBase : Nat
  param : Nat
  lastCore : Pair Nat
  lastTower : Tower
deriving DecidableEq, Repr

/-- Load data on its way to registers (R89). -/
structure LoadResp where
  id : Nat
  tag : LoadTag
  old : List (Nat × List Byte × Bool)
deriving DecidableEq, Repr

structure CoresSt where
  /-- Cores by logical ID 0 to 255, empty ones absent; 03_cores.md R71, R72; reset none. -/
  cores : Tab Core
  /-- KERNEL items with crews to dispatch; 03_cores.md R81; reset none. -/
  dispatch : List Dispatch
  /-- Load and atomic responses not yet written to registers; 03_cores.md R89; reset none. -/
  responses : List LoadResp
  /-- Next operation number: loft requests, scoreboard tags and copies (the model's own); reset 0. -/
  nextTag : Nat
  /-- Next crew number (the model's own); reset 0. -/
  nextUid : Nat
  /-- Core runtime broadcast done, per tower; 14_bringup.md R425; reset false. -/
  runtime : Pair Bool
deriving DecidableEq, Repr

/-! ### Press, copy engines, sequencers (05_press.md, 09_tensors.md, 10_fabric.md) -/

/-- A sweep descriptor header (Table 5.5). -/
structure SweepHdr where
  mode : Nat
  kvfmt : Nat
  shape : Nat
  g : Nat
  dk : Nat
  dv : Nat
  entries : Nat
  tableAddr : Nat
  pages : Nat
  flags : Nat
  pageAddr : Nat
  outAddr : Nat
  finalAddr : Nat
  scale : Nat
deriving DecidableEq, Repr

/-- A group entry (Table 5.6); clean says that its reserved bytes are 0. -/
structure SwGroup where
  qaddr : Nat
  pos : Nat
  window : Nat
  first : Nat
  count : Nat
  outIndex : Nat
  seq : Nat
  clean : Bool
deriving DecidableEq, Repr

/-- A page entry (R153). -/
structure SwPage where
  addr : Nat
  tok0 : Nat
  valid : Nat
  clean : Bool
deriving DecidableEq, Repr

/-- An append entry (R164). -/
structure SwAppend where
  src : Nat
  page : Nat
  token : Nat
  clean : Bool
deriving DecidableEq, Repr

/-- An operation in a sweep queue (R147): its item or posting item, for a posted sweep the core, crew slot, crew number and counter, and
the entries that the queue has read and validated (R149). -/
structure SweepOp where
  job : Nat
  item : Nat
  posted : Option (Nat × Nat × Nat × Nat)
  hdr : SweepHdr
  granted : Bool
  groups : List SwGroup
  pages : List SwPage
  appends : List SwAppend
deriving DecidableEq, Repr

structure PressSt where
  /-- Sweep queue of each tower, at most 64 entries; 05_press.md R147; reset empty. -/
  queues : Pair (List SweepOp)
  /-- SWEEP items that wait for a free entry to start: job, tick of the sheaf, item; 05_press.md R147; reset none. -/
  waiting : Pair (List (Nat × Nat × Nat))
deriving DecidableEq, Repr

/-- A COPY, TEDDER or STAGE item on the engines (R266): its number in the order of starts, job, tick of its sheaf, item, kind, towers,
descriptor, pieces in all, done and taken by engines. -/
structure CopyRun where
  no : Nat
  job : Nat
  tick : Nat
  item : Nat
  kind : Nat
  towers : Nat
  desc : List Byte
  pieces : Nat
  nextPiece : Nat
  taken : Nat
deriving DecidableEq, Repr

/-- A sequencer loop in progress: instruction of the LOOP, iterations done (R317). -/
structure LoopSt where
  at_ : Nat
  target : Nat
  done : Nat
deriving DecidableEq, Repr

/-- A COLLECTIVE program running (R316, R318): job, item, next instruction, loops from the innermost, transfers
outstanding as (context, last PSN + 1, is a GET with its reply range). -/
structure Prog where
  job : Nat
  item : Nat
  tower : Tower
  pc : Nat
  loops : List LoopSt
  outstanding : List (Nat × Nat × Option (Nat × Nat))
  blocked : Bool
  image : List Byte
deriving DecidableEq, Repr

structure EngSt where
  /-- Items on the copy engines and tedders, in the order in which they started; 09_tensors.md R266; reset none. -/
  runs : List CopyRun
  /-- Items started on the engines (the model's own); reset 0. -/
  nextNo : Nat
  /-- Item that the engines of a floor and kind took a piece of last, by tower × 2 + (1 for tedders): its number; 09_tensors.md R266; reset none. -/
  lastNo : Tab Nat
  /-- Programs running, at most 16 a floor; 10_fabric.md R316; reset none. -/
  progs : List Prog
deriving DecidableEq, Repr

/-! ### Power and temperature (13_power.md) -/

/-- A request at the gate (R386, R388): job, tick of the sheaf, item, item kind, energy class, towers, and when it
asked. -/
structure GateReq where
  job : Nat
  tick : Nat
  item : Nat
  kind : Nat
  eclass : Nat
  towers : Nat
  askNs : Nat
deriving DecidableEq, Repr

/-- A grant held (R388): the rate reserved in each tower before the kernel rate factor, in bushels per µs, and when the operation
starts or started, which is the end of its notice. -/
structure Grant where
  job : Nat
  tick : Nat
  item : Nat
  kind : Nat
  eclass : Nat
  towers : Nat
  rate : Pair Nat
  startNs : Nat
  started : Bool
  waitNs : Nat
deriving DecidableEq, Repr

/-- A release that may hand over (R388): time, unit kind, towers, rate. -/
structure Handover where
  atNs : Nat
  kind : Nat
  towers : Nat
  rate : Pair Nat
deriving DecidableEq, Repr

/-- Power states (Table 13.7). -/
inductive PwrState where
  | active | trim | idle | rest | dark
deriving DecidableEq, Repr

/-- A POWER.STATE transition in progress (R393). -/
structure PwrChange where
  mb : Nat
  target : PwrState
  point : Nat
  startNs : Nat
deriving DecidableEq, Repr

structure GateSt where
  /-- POWER.LIMIT, W, 1,500 to 3,600; 13_power.md R396; reset 3,000 (R396). -/
  limitW : Nat
  /-- A POWER.LIMIT that applies from the next window, W; 13_power.md R396; reset none. -/
  nextLimit : Option Nat
  /-- DEV_POWER_STATE.STATE; 12_host.md Table 12.8, 13_power.md R392; reset 4 DARK (Table 12.8). -/
  pwr : PwrState
  /-- Whether DARK was entered by POWER.STATE, 1 bit; 13_power.md R394; reset false. -/
  commandedDark : Bool
  /-- Transition in progress (CHANGING); 13_power.md R393; reset none. -/
  change : Option PwrChange
  /-- Commanded point; 13_power.md R383, R395; reset 0. -/
  cmdPoint : Nat
  /-- Thermal clamp's point per tower; 13_power.md R383, R399; reset 0. -/
  thermPoint : Pair Nat
  /-- Fit clamp's point per tower; 13_power.md R383, R389; reset 0. -/
  fitPoint : Pair Nat
  /-- Effective point per tower; 13_power.md R383; reset 0 (Table 12.8). -/
  point : Pair Nat
  /-- A rail slew under way per tower: target point; 13_power.md R383; reset none. -/
  slew : Pair (Option Nat)
  /-- Thermal steps of cap_pm per tower, per mille; 13_power.md R399; reset 1,000 (R389: no cap). -/
  capTherm : Pair Nat
  /-- Bond cap per tower, per mille; 13_power.md R404; reset 1,000. -/
  capBond : Pair Nat
  /-- Gate running (from S10), 1 bit; 14_bringup.md R418; reset false. -/
  on : Bool
  /-- debt, bushels per tower; 13_power.md R390; reset 0. -/
  debt : Pair Nat
  /-- Gate queues per tower, in order of arrival; 13_power.md R388; reset empty. -/
  queue : Pair (List GateReq)
  /-- Grants held, in order of grant; 13_power.md R388; reset none. -/
  grants : List Grant
  /-- Ended and measured grants by tower × 16 + class; 13_power.md R387; reset 0. -/
  ended : Tab Nat
  /-- 1.10 × the measured rates of the last 256 ended grants, rounded up, by tower × 16 + class, bushels per µs; 13_power.md R387; reset none. -/
  measured : Tab (List Nat)
  /-- Releases of the last 2 µs; 13_power.md R388; reset none. -/
  releases : List Handover
  /-- Gate wait of the running tick per tower, ns; 13_power.md R391; reset 0. -/
  waitNs : Pair Nat
  /-- POWER_CAPPED posting times by tower × 4 + cause, ns; 13_power.md R391; reset none. -/
  cappedNs : Tab Nat
  /-- End of the last wait at the gate, ns (CAPPED of DEV_POWER_STATE); 13_power.md R391; reset none. -/
  lastWaitNs : Option Nat
  /-- Next gate window boundary, ns; 13_power.md R384; reset 0. -/
  windowNs : Nat
  /-- Energy last measured per tower, bushels per window; 13_power.md R390; reset 0 (DESIGN CHOICE 0, log 4). -/
  energy : Pair Nat
deriving DecidableEq, Repr

/-- A thermal sensor (R397, R401): its last reading, since when it has held it, the least and greatest readings of each other sensor of
its zone since then, whether it has failed, whether its reference is out of tolerance (R460). -/
structure Sensor where
  value : Option Int
  heldNs : Nat
  others : Tab (Int × Int)
  failed : Bool
  openRef : Bool
deriving DecidableEq, Repr

structure ThermSt where
  /-- Sensors by zone × 16 + sensor (zones 10 to 25 are the stacks); 13_power.md R397; reset no reading. -/
  sensors : Tab Sensor
  /-- Masks of die zones, one bit per sensor; 13_power.md R403; reset from flash. -/
  masks : Tab Nat
  /-- Zone readings, °C; 13_power.md R397; reset none. -/
  zoneC : Tab Int
  /-- Zone levels 0 to 3; 12_host.md Table 12.9, 13_power.md R398; reset 0 (Table 12.9). -/
  level : Tab Nat
  /-- LOWER_WARN by zone kind; 13_power.md R402; reset 0 (R402). -/
  lowerWarn : List Nat
  /-- LOWER_THROTTLE by zone kind; 13_power.md R402; reset 0 (R402). -/
  lowerThrottle : List Nat
  /-- Zones whose clamp is active; 13_power.md R399; reset none. -/
  clamped : List Nat
  /-- Time a tower's rafter clamp reached point 5, ns; 13_power.md R399; reset none. -/
  atFiveNs : Pair (Option Nat)
  /-- Time of the last step of a tower's point clamp, ns; 13_power.md R399; reset 0 (DESIGN CHOICE 0, log 4). -/
  pointNs : Pair Nat
  /-- Cap steps of the clamped zones, per mille, and the time of each one's last step, ns; 13_power.md R399, R404; reset none. -/
  caps : Tab (Nat × Nat)
  /-- LOWER_THROTTLE as the last sample applied it; 13_power.md R402; reset 0 (R402). -/
  clampThrottle : List Nat
  /-- Largest excess drop per die in mV, and when; 13_power.md R405; reset 0. -/
  dropMv : Tab (Nat × Nat)
  /-- Towers closed by a cause-2 drop; 13_power.md R404; reset none. -/
  closed : Pair Bool
deriving DecidableEq, Repr

/-! ### Reset, bring-up, flash, fuses, module (14_bringup.md, 15_trust.md, 17_module.md) -/

/-- A stage record (Table 14.12). -/
structure StageRec where
  startUs : Nat
  durationUs : Nat
  code : Nat
  mappedOut : Nat
deriving DecidableEq, Repr

/-- The reset report (Table 14.13), with the reading of the zone of a latched shutdown. -/
structure ResetReport where
  level : Nat
  source : Nat
  untrusted : Nat
  thermZone : Nat
  thermC : Nat
  stacksLost : Nat
  discarded : Pair Nat
  cellarDisc : Pair Nat
  faulted : Nat
  writesDropped : Nat
deriving DecidableEq, Repr

/-- A COMPUTE or TOWER reset in progress (R409). -/
structure PartReset where
  mb : Nat
  towerLevel : Bool
  partition : Nat
  startNs : Nat
  faultedItems : Nat
deriving DecidableEq, Repr

/-- A defect-map entry (Table 14.7). -/
structure Defect where
  kind : Nat
  flash : Bool
  tower : Nat
  die : Nat
  index : Nat
  sub : Nat
deriving DecidableEq, Repr

structure BootSt where
  /-- DEV_STAGE.STAGE, 0 to 10; 12_host.md Table 12.5; reset 0 (Table 12.5). -/
  stage : Nat
  /-- DEV_STAGE.FAILED; 12_host.md Table 12.5; reset 0. -/
  failed : Bool
  /-- DEV_STAGE.RECOVERY: the boot ROM serves mailbox 0; 12_host.md R370; reset 0. -/
  recovery : Bool
  /-- DEV_STAGE.CODE, 16 bits; 12_host.md Table 12.5; reset 0. -/
  code : Nat
  /-- Time zero reached: stages run; 14_bringup.md R415; reset false. -/
  running : Bool
  /-- Stage records; 14_bringup.md Table 14.12; reset 0. -/
  stages : Tab StageRec
  /-- The last start was COLD; 14_bringup.md Table 14.12; reset true. -/
  cold : Bool
  /-- FACTORY_PORTS and RATE_FALLBACK; 14_bringup.md R423, R429; reset false. -/
  factoryPorts : Bool
  rateFallback : Bool
  /-- Time from time zero, µs, at which the running stage began; 14_bringup.md Table 14.12; reset 0. -/
  elapsedUs : Nat
  /-- Reset report; 14_bringup.md Table 14.13; reset COLD (after a COLD start UNTRUSTED 0x03, STACKS_LOST 0xFFFF). -/
  report : ResetReport
  /-- Partition reset in progress; 14_bringup.md R409; reset none. -/
  part : Option PartReset
  /-- CORE reset in progress: mailbox, core, start; 14_bringup.md R407, R414; reset none. -/
  coreReset : Option (Nat × Nat × Nat)
  /-- Physical cores in service by logical number, per tower, as numbered at S1 and S7; 03_cores.md R72, 14_bringup.md R419, R425; reset none. -/
  coreMap : Pair (List Nat)
  /-- Carrier EEPROM read at S8, 1 bit; 14_bringup.md R428; reset false. -/
  carrierRead : Bool
  /-- Calibration held in always-on logic since self-refresh entry, 1 bit; 14_bringup.md R412; reset false. -/
  calHeld : Bool
deriving DecidableEq, Repr

/-- A leaf record of the identity key (R449). -/
structure LeafRec where
  seq : Nat
  block : Nat
  next : Nat
  valid : Bool
deriving DecidableEq, Repr

structure FlashSt where
  /-- Firmware image slot, 24 MiB; 15_trust.md R440; reset as manufactured (DESIGN CHOICE empty, log 5). -/
  image : Memory
  /-- Flash defect map; 14_bringup.md R419; reset none (DESIGN CHOICE, log 5). -/
  defects : List Defect
  /-- Stored HBM rate code; 07_cellar.md R209; reset 4 (Table 7.1 default). -/
  rate : Nat
  /-- Stored homing and regions; 14_bringup.md R435; reset tower-local, none (DESIGN CHOICE, log 5). -/
  globalHoming : Bool
  cellar : Pair Region
  mirror : Pair Region
  /-- Stored sensor masks by zone; 13_power.md R403; reset none. -/
  masks : Tab Nat
  /-- Stored port settings, none when the record is invalid; 14_bringup.md R429; reset none (DESIGN CHOICE, log 5). -/
  ports : Option PortCfg
  /-- Repair tables, failed pins, retired pages, loft line tables, spare wires; 08_integrity.md R249, R250; reset none (DESIGN CHOICE, log 5). -/
  repairs : Tab (List Repair)
  lineTable : Tab (Nat × Nat)
  groups : Tab BondGroup
  retiredPages : Tab (Bool × Nat)
  /-- Calibration record: stepping it was written on; 16_observe.md R455; reset none. -/
  calibration : Option Nat
  /-- Shutdown test record: state 0 none, 1 pending, 2 applied; tested; failed cores; BOOT_COUNT; duration ms; 16_observe.md R462 to R464; reset none. -/
  testState : Nat
  testTested : Nat
  testFailed : List (Tower × Nat)
  testBoot : Nat
  testMs : Nat
  /-- BOOT_COUNT, 32 bits; 14_bringup.md R424; reset 0 (DESIGN CHOICE, log 5). -/
  bootCount : Nat
  /-- Thermal shutdown cause written by the last bring-up, zone; 13_power.md R400; reset none. -/
  thermCause : Option Nat
  /-- Device certificate bytes, none when unreadable; 15_trust.md R453; reset none (DESIGN CHOICE, log 5). -/
  cert : Option (List Byte)
  /-- The two copies of the leaf record; 15_trust.md R449; reset invalid (DESIGN CHOICE, log 5). -/
  leafA : LeafRec
  leafB : LeafRec
  /-- Module EEPROM, 256 bytes; 14_bringup.md R427; reset a valid Table 14.9, serial sixteen zeros, order code AZ9-1280-L (DESIGN CHOICE, log 5). -/
  moduleEeprom : List Byte
  /-- Carrier EEPROM, 256 bytes, none when absent; 14_bringup.md R428; reset a valid Table 14.10 without cages (DESIGN CHOICE, log 5). -/
  carrierEeprom : Option (List Byte)
  /-- Stack identity registers, 16 bytes each; 14_bringup.md R423, R430; reset 0 (DESIGN CHOICE, log 5). -/
  stackId : Tab (List Byte)
deriving DecidableEq, Repr

structure FuseSt where
  /-- Fuse defect map; 14_bringup.md R419; reset the last core of each cluster disabled (DESIGN CHOICE, log 5: R72 leaves 128 a tower). -/
  defects : List Defect
  /-- DEVICE_SECRET, 256 bits; 15_trust.md R436; reset 0 (DESIGN CHOICE, log 5). -/
  secret : List Byte
  /-- KEY_HASH[0..3], 32 bytes each; 15_trust.md R436; reset 0 (DESIGN CHOICE, log 5). -/
  keyHash : List (List Byte)
  /-- REVOKED, 4 bits; 15_trust.md R436; reset 0 (DESIGN CHOICE, log 5). -/
  revoked : BitVec 4
  /-- SVN_FLOOR, 0 to 64; 15_trust.md R436; reset 0 (DESIGN CHOICE, log 5). -/
  svnFloor : Nat
  /-- ID_KEY_HASH, 256 bits; 15_trust.md R436; reset 0 (DESIGN CHOICE, log 5). -/
  idKeyHash : List Byte
  /-- ID_BLOCKS, 0 to 4,096; 15_trust.md R436, R449; reset 0 (DESIGN CHOICE, log 5). -/
  idBlocks : Nat
  /-- DEVICE_SERIAL, 64 bits; 12_host.md R372; reset 0 (DESIGN CHOICE, log 5). -/
  serial : Nat
  /-- STEPPING, 8 bits; 00_scope.md R5; reset 0x10 (Table 0.3, first production stepping). -/
  stepping : Nat
  /-- SCREEN, 8 bits; 00_scope.md R3, R5; reset 0 (DESIGN CHOICE, log 5). -/
  screen : Nat
deriving DecidableEq, Repr

/-- Level of the 54 V input (R488, R489). -/
inductive InputSt where
  | off | low | good
deriving DecidableEq, Repr

structure ModuleSt where
  /-- Input level; 17_module.md R488, R489; reset off (DESIGN CHOICE, log 6). -/
  input : InputSt
  /-- PWR_EN pin; 17_module.md R480; reset low (pull-down, R480). -/
  pwrEn : Bool
  /-- PERST# asserted; 17_module.md R478; reset asserted (pull-down, R478). -/
  perst : Bool
  /-- Package rail enabled; 17_module.md R488; reset false. -/
  rail : Bool
  /-- Package rail power-good; 14_bringup.md R415; reset false. -/
  powerGood : Bool
  /-- Thermal shutdown latch and THERMTRIP#: zone and reading; 13_power.md R400; reset none. -/
  latch : Option (Nat × Nat)
  /-- MODULE_OFF in force; 17_module.md R484; reset false. -/
  moduleOff : Bool
  /-- PWR_EN has been deasserted since MODULE_OFF, 1 bit; 17_module.md R484; reset false. -/
  moduleOffCycled : Bool
  /-- I3C dynamic address, 7 bits, none before ENTDAA; 14_bringup.md R431; reset none. -/
  i3cAddr : Option (BitVec 7)
  /-- I3C telemetry registers 0x00 to 0x3F as last refreshed; 17_module.md R483; reset 0 before the first refresh (DESIGN CHOICE, log 4). -/
  telem : List Byte
  /-- SEQ of the I3C telemetry, 16 bits; 17_module.md R483; reset 0. -/
  telemSeq : Nat
  /-- Heartbeat at the last refresh, 32 bits; 17_module.md R483; reset 0. -/
  telemBeat : BitVec 32
  /-- Refreshes since the heartbeat last advanced; 17_module.md R483; reset 10 (it has not advanced). -/
  telemBeatAge : Nat
  /-- Selected JTAG instruction; 17_module.md R482; reset BYPASS (DESIGN CHOICE, log 4). -/
  tap : TapIr
  /-- Input and package readings: mV, mA, mV, mA, W per tower; 13_power.md R405; reset 0 (DESIGN CHOICE, log 4). -/
  inputMv : Nat
  inputMa : Nat
  pkgMv : Nat
  pkgMa : Nat
  towerW : Pair Nat
deriving DecidableEq, Repr

/-- A FW.COMMIT writing the slot (R444): mailbox, start, next step. -/
structure FwWrite where
  mb : Nat
  startNs : Nat
deriving DecidableEq, Repr

structure TrustSt where
  /-- FW_MEAS, 32 bytes; 15_trust.md R441; reset 0 under the ROM. -/
  fwMeas : List Byte
  /-- RUNTIME_MEAS, 32 bytes; 15_trust.md R451; reset 0. -/
  runtimeMeas : List Byte
  /-- Header of the running image, 256 bytes, empty under the ROM; 15_trust.md R440; reset empty. -/
  runHeader : List Byte
  /-- Staging buffer, 24 MiB; 15_trust.md R442; reset empty. -/
  stage : Memory
  /-- STAGED, bytes; 15_trust.md R443; reset 0. -/
  staged : Nat
  /-- FW.COMMIT in progress; 15_trust.md R444; reset none. -/
  writing : Option FwWrite
  /-- Second-level identity key: generation, the top leaf that signs it, signatures made with it; 15_trust.md R450; reset none. -/
  key2 : Option (Nat × Nat × Nat)
  /-- Second-level keys generated since manufacture (the model's own); reset 0. -/
  key2Count : Nat
  /-- Identity cache rebuild under way; 15_trust.md R448; reset false. -/
  rebuilding : Bool
deriving DecidableEq, Repr

/-! ### Observation (16_observe.md) -/

/-- A trace record (Table 16.8). -/
structure TraceRec where
  timeNs : Nat
  type : Nat
  tower : Nat
  job : Nat
  tick : Nat
  data : List Byte
deriving DecidableEq, Repr

/-- Trace of one tower (R468, R470). -/
structure TraceT where
  buf : List TraceRec
  readOff : Nat
  writeOff : Nat
  dropped : Nat
  lossPending : Nat
  base : Nat
deriving DecidableEq, Repr

/-- An armed dump (R472). -/
structure Dump where
  mb : Nat
  job : Nat
  name : List Byte
  tick : Nat
  dest : Nat
  maxBytes : Nat
  toHost : Bool
  item : Option Nat
  desc : Nat
  startNs : Option Nat
  cut : Bool
deriving DecidableEq, Repr

/-- Winnow slices of one tower (R457, R461): kinds and active are the slice kinds (Table 16.2 in order, from 1) and the loft bank under test in
the present GLEAN. -/
structure WinnowT where
  loftCursor : Nat
  pressCursor : Nat
  spareCursor : Nat
  run : Nat
  skipped : Nat
  fails : Nat
  forcedLoft : Option Nat
  forcedPress : Option Nat
  forceMb : Option Nat
  active : List Nat
  kinds : List Nat
deriving DecidableEq, Repr

/-- A WINNOW_FAIL log entry (Table 16.4). -/
structure WinnowFail where
  tower : Nat
  kind : Nat
  unit : Nat
  detail : Nat
  tick : Nat
deriving DecidableEq, Repr

structure ObsSt where
  /-- Counter group enables, 8 bits; 16_observe.md R465; reset 0 (R465). -/
  ctrEnable : BitVec 8
  /-- Counters by group × 2^16 + position in Table 16.6, 64 bits; 16_observe.md R467; reset 0 (R465). -/
  ctrs : Tab U64
  /-- CTR.READ sequence number, 32 bits; 16_observe.md R467; reset 0 (DESIGN CHOICE 0, log 4). -/
  ctrSeq : Nat
  /-- Counter snapshot window, BAR0 0x010_0000 up, bytes by offset in the window; 16_observe.md R467; reset 0 (DESIGN CHOICE 0, log 4). -/
  snap : Memory
  /-- Staging counters of a tower count from its next boundary, 1 bit each; 16_observe.md R465; reset false. -/
  stageArmed : Pair Bool
  /-- Trace enabled; 16_observe.md R468; reset false (R475). -/
  traceOn : Bool
  /-- Trace ever configured; 16_observe.md R470; reset false. -/
  traceCfg : Bool
  traceHost : Bool
  /-- SOURCES, 6 bits; 16_observe.md R468; reset 0. -/
  traceSrc : Nat
  /-- RING_BYTES; 16_observe.md R468; reset 0. -/
  ringBytes : Nat
  /-- Trace buffers and ring offsets; 16_observe.md R468, R470; reset empty. -/
  trace : Pair TraceT
  /-- Armed dumps, at most 16; 16_observe.md R472; reset none (R475). -/
  dumps : List Dump
  /-- Winnow ENABLE, 4 bits; 16_observe.md R461; reset 0x0F (R475). -/
  winnowEnable : Nat
  /-- Winnow cursors and tallies; 16_observe.md R457, R461; reset 0. -/
  winnow : Pair WinnowT
  /-- Winnow log, newest first, at most 64; 16_observe.md R464; reset empty. -/
  winnowLog : List WinnowFail
  /-- Cores held by TEST.SHUTDOWN_PREP; 16_observe.md R462; reset false. -/
  shutdown : Bool
  /-- Least data collected for gleaning: HBM accesses, link beats, RUN ms, per tower; 16_observe.md R454; reset 0. -/
  gleanHbm : Pair Nat
  gleanRunUs : Pair Nat
  /-- Calibration values applied, per tower (count of updates); 16_observe.md R454; reset 0. -/
  gleaned : Pair Nat
deriving DecidableEq, Repr

/-- What the device sends out, newest last. -/
inductive Out where
  | msix (vector : Nat)
  | bar2Data (offset : Nat) (data : List Byte) (poisoned : Bool)
  | unsupported (offset : Nat)
  | hostWrite (addr : Nat) (data : List Byte)
  | packet (port : Nat) (p : Pkt)
  | neighborAdvert (port ip mac : Nat)
  | pfc (port cls : Nat) (xoff : Bool)
  | cmisControl (fx : Nat) (lowPower : Bool) (modes : Pair Nat)
  | tapIdcode (v : Nat)
  | thermtrip (on : Bool)
  | i3cIdentity (pid bcr dcr : Nat)
deriving DecidableEq, Repr

/-- The whole state of the block. -/
structure State where
  /-- Tick time base, ns, 64 bits; 01_stack.md R29, 14_bringup.md R413; reset 0 (R413). -/
  nowNs : Nat
  /-- Draws made from the free values (the model's own field); reset 0 (DESIGN CHOICE, log 2). -/
  freeCtr : Nat
  mod : ModuleSt
  boot : BootSt
  flash : FlashSt
  fuses : FuseSt
  host : HostSt
  ev : EvSt
  jobs : JobsSt
  fab : FabSt
  twin : Pair Twin
  loft : LoftSt
  hbm : HbmSt
  vl : VlSt
  cores : CoresSt
  press : PressSt
  eng : EngSt
  gate : GateSt
  therm : ThermSt
  trust : TrustSt
  obs : ObsSt
  /-- What the device has sent, oldest first (the model's own field: the pins and links to the outside); reset empty. -/
  out : List Out
  /-- Commands waiting, first in, first out (the model's own field); reset empty. -/
  pending : List Instr
deriving DecidableEq, Repr

/-! ### The state after reset -/

/-- An empty region (R214 before the stored record is applied). -/
def Region.none : Region := { base := 0, bytes := 0 }

/-- Factory port settings (R322): every port in mode 1 on CR, RAW with EtherType 0x88B5, PAYLOAD 2, UDP_PORT 23,097, no
tag, no PFC. DSCP, PCP, PREFIX and GATEWAY are 0 (DESIGN CHOICE, log 4: the manual gives none). -/
def PortCfg.factory : PortCfg :=
  { encap := 0, payload := 2, etherType := 0x88B5, udpPort := 23097, vlan := 0, pfcMask := 0,
    dscp := [0, 0, 0, 0], pcp := [0, 0, 0, 0], pfx := 0, modes := List.replicate 12 0x11,
    gateways := List.replicate 12 0 }

/-- A loft with nothing in it. -/
def LoftT.empty : LoftT :=
  { retired := [], frames := [], predictor := [], miss := [], hold := [], wb := [], arrivals := [], reducing := [],
    fine := [], fineMiss := [], plru := [], lookups := 0, misses := 0, stalls := 0, stallBanks := [], hotPosted := false, overTicks := 0,
    thrashPosted := false, lastLookups := 0, lastMisses := 0, granules := [], stageBytes := 0, stageNext := 0, stageUsed := 0,
    stageLate := 0, stageWaits := 0, stageWaitNs := 0, stageEarly := 0, redirect := none }

/-- An unbound tower (R330, Table 11.6). -/
def Twin.off : Twin :=
  { state := .off, isProtected := false, holding := false, untrusted := false, twinDev := 0, job := 0, lostCause := 0,
    committed := none, mirrorTick := none, lastStreamBytes := 0, lastCommitUs := 0, seedDone := 0, seedTotal := 0,
    ctx := 0, peerCtx := 0, deltaMax := 0, deltaAddr := 0, recover := false, bindMb := none, bindTowers := 0,
    bindStartNs := 0, wasLost := false, helloSeen := false, helloAcked := false, peerTowers := 0, peerRecover := false, peerCellar := 0, peerMirror := 0,
    peerCommitted := none, peerMirrorTick := none, rxBuf := [], rxBytes := 0, rxCrc := 0xFFFFFFFF, rxHeld := none,
    txQueue := [], txAcks := [], txRec := none, txPending := none, seedEnded := false, seedFull := false,
    settleEndNs := 0, ringTx := [], ringRx := [],
    restore := none }

/-- No trace records. -/
def TraceT.empty : TraceT :=
  { buf := [], readOff := 0, writeOff := 0, dropped := 0, lossPending := 0, base := 0 }

/-- No winnow slice run. -/
def WinnowT.empty : WinnowT :=
  { loftCursor := 0, pressCursor := 0, spareCursor := 0, run := 0, skipped := 0, fails := 0, forcedLoft := none,
    forcedPress := none, forceMb := none, active := [], kinds := [] }

/-- An HBM stack before S5: 2× refresh rate (R423). -/
def Stack.fresh : Stack :=
  { refresh2x := true, selfRefresh := false, confirmed := false, lost := false, postponed := [] }

def HostSt.reset : HostSt :=
  { mbArea := [], stale := [], own := 0, doneSum := 0, handed := [], taken := [], acl := [],
    msixTable := (List.range 128).map (fun v => (16 * v + 12, 1#8)), msixPba := 0,
    pcie := { memSpace := false, busMaster := false, bar2Gib := 64, msixEnable := false, msixMask := false,
              d3hot := false, linkUp := false, linkRate := 0, linkWidth := 0, aerPoisoned := false },
    lastCode := 0, mcDown := false, hostReset := false, jobFault := false, eventLost := false, aperture := 0,
    heartbeat := 0, mcRuns := false, heartbeatNs := 0, statusChange := false, vec64Ns := none }

def EvSt.reset : EvSt := { queue := [], seq := 0, lost := 0 }

def JobsSt.reset : JobsSt := { jobs := [], partMode := 0, roles := [], idleGlean := ⟨0, 0⟩ }

def FabSt.reset : FabSt :=
  { devId := none, cfg := PortCfg.factory, ports := [], routes := [], ctxs := [], ctxCache := ⟨[], []⟩, topoHeld := none, cmis := [],
    cmisNs := [], modules := [] }

def LoftSt.reset : LoftSt :=
  { tw := ⟨LoftT.empty, LoftT.empty⟩, bulk := [], answers := [], bays := [], pinMem := [], pinPoison := [], thrashPct := 40,
    bankhotMin := 0, waiting := [], lineTable := [], flips := [], sightings := [] }

def HbmSt.reset : HbmSt :=
  { mem := [], marks := [], rate := 4, globalHoming := false, mixed := ⟨false, false⟩, mixedNext := ⟨none, none⟩,
    allBank := ⟨false, false⟩, hbmStacks := (List.range 16).map (fun i => (i, Stack.fresh)), chans := [], holders := [],
    cellar := ⟨Region.none, Region.none⟩, mirror := ⟨Region.none, Region.none⟩, detect := false, failedPins := [],
    pinTally := [], repairs := [], badSpares := [], retiredPages := [], sightings := [], hbmPassMin := 720, loftPassS := 60,
    armed := [], nextId := 0 }

def CoresSt.reset : CoresSt :=
  { cores := [], dispatch := [], responses := [], nextTag := 0, nextUid := 0, runtime := ⟨false, false⟩ }

def GateSt.reset : GateSt :=
  { limitW := 3000, nextLimit := none, pwr := .dark, commandedDark := false, change := none, cmdPoint := 0, thermPoint := ⟨0, 0⟩,
    fitPoint := ⟨0, 0⟩, point := ⟨0, 0⟩, slew := ⟨none, none⟩, capTherm := ⟨1000, 1000⟩, capBond := ⟨1000, 1000⟩,
    on := false, debt := ⟨0, 0⟩, queue := ⟨[], []⟩, grants := [], ended := [], measured := [], releases := [],
    waitNs := ⟨0, 0⟩, cappedNs := [], lastWaitNs := none, windowNs := 0, energy := ⟨0, 0⟩ }

def ThermSt.reset : ThermSt :=
  { sensors := [], masks := [], zoneC := [], level := [], lowerWarn := [0, 0, 0, 0, 0], lowerThrottle := [0, 0, 0, 0, 0],
    clamped := [], atFiveNs := ⟨none, none⟩, pointNs := ⟨0, 0⟩, caps := [], clampThrottle := [0, 0, 0, 0, 0], dropMv := [], closed := ⟨false, false⟩ }

/-- The report of a COLD start (Table 14.13). -/
def ResetReport.cold : ResetReport :=
  { level := 4, source := 0, untrusted := 0x03, thermZone := 0xFF, thermC := 0, stacksLost := 0xFFFF, discarded := ⟨0, 0⟩,
    cellarDisc := ⟨0, 0⟩, faulted := 0, writesDropped := 0 }

def BootSt.reset : BootSt :=
  { stage := 0, failed := false, recovery := false, code := 0, running := false, stages := [], cold := true,
    factoryPorts := false, rateFallback := false, elapsedUs := 0, report := ResetReport.cold, part := none,
    coreReset := none, coreMap := ⟨[], []⟩, carrierRead := false, calHeld := false }

/-- A module EEPROM as Table 14.9 lays it out: MAGIC, FORMAT, serial and order code in ASCII, CRC-32C. -/
def moduleEepromInit : List Byte :=
  [0x41#8, 0x44#8, 0x5A#8, 0x4D#8, 1#8, 0#8, 0#8, 0#8] ++ List.replicate 16 0x30#8
    ++ [0x41#8, 0x5A#8, 0x39#8, 0x2D#8, 0x31#8, 0x32#8, 0x38#8, 0x30#8, 0x2D#8, 0x4C#8] ++ List.replicate 218 0#8 ++ [0x8F#8, 0x6C#8, 0x13#8, 0x7F#8]

/-- A carrier EEPROM as Table 14.10 lays it out: MAGIC, FORMAT, serial, no cage at any connector, CRC-32C. -/
def carrierEepromInit : List Byte :=
  [0x41#8, 0x44#8, 0x5A#8, 0x43#8, 1#8, 0#8, 0#8, 0#8] ++ List.replicate 16 0x30#8 ++ List.replicate 8 0#8
    ++ (List.replicate 6 [0xFF#8, 0#8, 0#8, 0#8]).flatten ++ List.replicate 196 0#8 ++ [0xBA#8, 0xFB#8, 0x0F#8, 0x14#8]

def FlashSt.reset : FlashSt :=
  { image := [], defects := [], rate := 4, globalHoming := false, cellar := ⟨Region.none, Region.none⟩,
    mirror := ⟨Region.none, Region.none⟩, masks := [], ports := none, repairs := [], lineTable := [], groups := [],
    retiredPages := [], calibration := none, testState := 0, testTested := 0, testFailed := [], testBoot := 0,
    testMs := 0, bootCount := 0, thermCause := none, cert := none,
    leafA := { seq := 0, block := 0, next := 0, valid := false },
    leafB := { seq := 0, block := 0, next := 0, valid := false },
    moduleEeprom := moduleEepromInit, carrierEeprom := some carrierEepromInit, stackId := [] }

def FuseSt.reset : FuseSt :=
  { defects := [0, 1].flatMap (fun t => (List.range 8).map (fun k => ⟨1, false, t, 5, 17 * k + 16, 0⟩)), secret := List.replicate 32 0, keyHash := List.replicate 4 (List.replicate 32 0), revoked := 0,
    svnFloor := 0, idKeyHash := List.replicate 32 0, idBlocks := 0, serial := 0, stepping := 0x10, screen := 0 }

def ModuleSt.reset : ModuleSt :=
  { input := .off, pwrEn := false, perst := true, rail := false, powerGood := false, latch := none, moduleOff := false,
    moduleOffCycled := false, i3cAddr := none, telem := List.replicate 64 0, telemSeq := 0, telemBeat := 0,
    telemBeatAge := 10, tap := .bypass, inputMv := 0, inputMa := 0, pkgMv := 0, pkgMa := 0, towerW := ⟨0, 0⟩ }

def TrustSt.reset : TrustSt :=
  { fwMeas := List.replicate 32 0, runtimeMeas := List.replicate 32 0, runHeader := [], stage := [], staged := 0,
    writing := none, key2 := none, key2Count := 0, rebuilding := false }

def ObsSt.reset : ObsSt :=
  { ctrEnable := 0, ctrs := [], ctrSeq := 0, snap := [], stageArmed := ⟨false, false⟩, traceOn := false, traceCfg := false,
    traceHost := false, traceSrc := 0, ringBytes := 0, trace := ⟨TraceT.empty, TraceT.empty⟩, dumps := [],
    winnowEnable := 0x0F, winnow := ⟨WinnowT.empty, WinnowT.empty⟩, winnowLog := [], shutdown := false,
    gleanHbm := ⟨0, 0⟩, gleanRunUs := ⟨0, 0⟩, gleaned := ⟨0, 0⟩ }

/-- The module as it stands before the 54 V input rises (R415, R488): the pins at their pull-downs, nothing powered, DARK
at stage 0, no cellar trusted (R344). Time zero and the stages follow as commands (log 6). -/
def State.reset : State :=
  { nowNs := 0, freeCtr := 0, mod := ModuleSt.reset, boot := BootSt.reset, flash := FlashSt.reset, fuses := FuseSt.reset,
    host := HostSt.reset, ev := EvSt.reset, jobs := JobsSt.reset, fab := FabSt.reset,
    twin := ⟨{ Twin.off with untrusted := true }, { Twin.off with untrusted := true }⟩,
    loft := LoftSt.reset, hbm := HbmSt.reset, vl := { groups := [] }, cores := CoresSt.reset,
    press := { queues := ⟨[], []⟩, waiting := ⟨[], []⟩ }, eng := { runs := [], nextNo := 0, lastNo := [], progs := [] },
    gate := GateSt.reset, therm := ThermSt.reset, trust := TrustSt.reset, obs := ObsSt.reset, out := [], pending := [] }

/-! ### Updates of one part -/

/-- The value of a tower. -/
def Pair.get {α : Type} (p : Pair α) : Tower → α
  | .t0 => p.t0
  | .t1 => p.t1

/-- The pair with one tower's value set. -/
def Pair.set {α : Type} (p : Pair α) (t : Tower) (v : α) : Pair α :=
  match t with
  | .t0 => { p with t0 := v }
  | .t1 => { p with t1 := v }

/-- The pair with one tower's value changed. -/
def Pair.mod {α : Type} (p : Pair α) (t : Tower) (f : α → α) : Pair α := p.set t (f (p.get t))

/-- Change the part `mod`. -/
def State.onMod (s : State) (f : ModuleSt → ModuleSt) : State := { s with mod := f s.mod }

/-- Change the part `boot`. -/
def State.onBoot (s : State) (f : BootSt → BootSt) : State := { s with boot := f s.boot }

/-- Change the part `flash`. -/
def State.onFlash (s : State) (f : FlashSt → FlashSt) : State := { s with flash := f s.flash }

/-- Change the part `fuses`. -/
def State.onFuses (s : State) (f : FuseSt → FuseSt) : State := { s with fuses := f s.fuses }

/-- Change the part `host`. -/
def State.onHost (s : State) (f : HostSt → HostSt) : State := { s with host := f s.host }

/-- Change the part `ev`. -/
def State.onEv (s : State) (f : EvSt → EvSt) : State := { s with ev := f s.ev }

/-- Change the part `jobs`. -/
def State.onJobs (s : State) (f : JobsSt → JobsSt) : State := { s with jobs := f s.jobs }

/-- Change the part `fab`. -/
def State.onFab (s : State) (f : FabSt → FabSt) : State := { s with fab := f s.fab }

/-- Change the part `twin`. -/
def State.onTwin (s : State) (f : Pair Twin → Pair Twin) : State := { s with twin := f s.twin }

/-- Change the part `loft`. -/
def State.onLoft (s : State) (f : LoftSt → LoftSt) : State := { s with loft := f s.loft }

/-- Change the part `hbm`. -/
def State.onHbm (s : State) (f : HbmSt → HbmSt) : State := { s with hbm := f s.hbm }

/-- Change the part `vl`. -/
def State.onVl (s : State) (f : VlSt → VlSt) : State := { s with vl := f s.vl }

/-- Change the part `cores`. -/
def State.onCores (s : State) (f : CoresSt → CoresSt) : State := { s with cores := f s.cores }

/-- Change the part `press`. -/
def State.onPress (s : State) (f : PressSt → PressSt) : State := { s with press := f s.press }

/-- Change the part `eng`. -/
def State.onEng (s : State) (f : EngSt → EngSt) : State := { s with eng := f s.eng }

/-- Change the part `gate`. -/
def State.onGate (s : State) (f : GateSt → GateSt) : State := { s with gate := f s.gate }

/-- Change the part `therm`. -/
def State.onTherm (s : State) (f : ThermSt → ThermSt) : State := { s with therm := f s.therm }

/-- Change the part `trust`. -/
def State.onTrust (s : State) (f : TrustSt → TrustSt) : State := { s with trust := f s.trust }

/-- Change the part `obs`. -/
def State.onObs (s : State) (f : ObsSt → ObsSt) : State := { s with obs := f s.obs }

/-- Send something out. -/
def State.emit (s : State) (o : Out) : State := { s with out := s.out ++ [o] }

end Sys2Proof.Machine
end

