-- ==== Sys2Proof/Machine/Codes.lean ====
section
/-! DEFINITION. The check codes: CRC-32C, the outer code RS(68,64) of HBM, and the (72,64) Hsiao code of loft words and
vertical beats (08_integrity.md R236 to R243, 10_fabric.md). -/

namespace Sys2Proof.Machine

/-! ### CRC-32C -/

/-- One bit of a reflected 32-bit CRC. -/
def crcBit (poly c : BitVec 32) : BitVec 32 := if c.getLsbD 0 then (c >>> 1) ^^^ poly else c >>> 1

/-- One byte of a reflected 32-bit CRC. -/
def crcByteOf (poly c : BitVec 32) (b : Byte) : BitVec 32 :=
  let f := crcBit poly
  f (f (f (f (f (f (f (f (c ^^^ b.setWidth 32))))))))

/-- A reflected 32-bit CRC of a byte list: initial value and final XOR all ones. -/
def crcOf (poly : BitVec 32) (bs : List Byte) : Nat := ((bs.foldl (crcByteOf poly) 0xFFFFFFFF#32) ^^^ 0xFFFFFFFF#32).toNat

/-- One byte of CRC-32C. -/
def crcByte (c : BitVec 32) (b : Byte) : BitVec 32 := crcByteOf 0x82F63B78#32 c b

/-- CRC-32C: the Castagnoli polynomial 0x1EDC6F41, least significant bit first (R293). -/
def crc32c (bs : List Byte) : Nat := crcOf 0x82F63B78#32 bs

/-- Ethernet FCS of a frame (R291): the CRC-32 of IEEE 802.3, polynomial 0x04C11DB7 (PRESUMED, log 62). -/
def ethernetFcs (bs : List Byte) : Nat := crcOf 0xEDB88320#32 bs

/-! ### GF(2^8) and the outer code (R237) -/

/-- Multiply by x modulo x^8 + x^4 + x^3 + x^2 + 1. -/
def gfDouble (a : Byte) : Byte := if a.getLsbD 7 then (a <<< 1) ^^^ 0x1D#8 else a <<< 1

/-- Product in GF(2^8). -/
def gfMul (a b : Byte) : Byte :=
  ((List.range 8).foldl (fun (p : Byte × Byte) i => (if b.getLsbD i then p.1 ^^^ p.2 else p.1, gfDouble p.2)) (0#8, a)).1

/-- Power of α = 0x02. -/
def gfAlpha : Nat → Byte
  | 0 => 1#8
  | n + 1 => gfDouble (gfAlpha n)

/-- Square. -/
def gfSq (a : Byte) : Byte := gfMul a a

/-- Inverse: a^254, 0 for 0. -/
def gfInv (a : Byte) : Byte :=
  let a2 := gfSq a; let a4 := gfSq a2; let a8 := gfSq a4; let a16 := gfSq a8; let a32 := gfSq a16
  let a64 := gfSq a32; let a128 := gfSq a64
  gfMul a2 (gfMul a4 (gfMul a8 (gfMul a16 (gfMul a32 (gfMul a64 a128)))))

/-- Syndrome j of a symbol error pattern: symbol n of the codeword is the coefficient of x^n. -/
def rsSyndrome (e : List (Nat × Byte)) (j : Nat) : Byte :=
  e.foldl (fun acc p => acc ^^^ gfMul p.2 (gfAlpha (j * p.1 % 255))) 0#8

/-- Syndromes 0 to 3. -/
def rsSyndromes (e : List (Nat × Byte)) : List Byte := (List.range 4).map (rsSyndrome e)

/-- The check mask of poison (Table 8.3). -/
def poisonMask : List (Nat × Byte) := [(0, 0x3D#8), (1, 0x8E#8), (2, 0x51#8), (3, 0xC7#8)]

/-- XOR of two symbol patterns, symbols without error left out. -/
def xorMarks (a b : List (Nat × Byte)) : List (Nat × Byte) :=
  ((List.range 68).map (fun n => (n, (tabGetD a n 0#8) ^^^ (tabGetD b n 0#8)))).filter (fun p => p.2 ≠ 0#8)

/-- Values of errors at one position with the given syndromes, if they agree. -/
def rsAt1 (n : Nat) (s : List Byte) : Option (List (Nat × Byte)) :=
  let v := s.getD 0 0
  if v ≠ 0#8 ∧ rsSyndromes [(n, v)] = s then some [(n, v)] else none

/-- Values of errors at two positions with the given syndromes, if they agree; a value may be 0. -/
def rsAt2 (m n : Nat) (s : List Byte) : Option (List (Nat × Byte)) :=
  let a := gfAlpha m; let b := gfAlpha n
  let s0 := s.getD 0 0; let s1 := s.getD 1 0
  let vn := gfMul (s1 ^^^ gfMul a s0) (gfInv (a ^^^ b))
  let vm := s0 ^^^ vn
  if rsSyndromes [(m, vm), (n, vn)] = s then some [(m, vm), (n, vn)] else none

/-- First pattern of up to 2 symbol errors with these syndromes. -/
def rsFind2 (s : List Byte) : Option (List (Nat × Byte)) :=
  if s.all (· == 0#8) then some []
  else match (List.range 68).findSome? (fun n => rsAt1 n s) with
    | some e => some e
    | none => (List.range 68).findSome? (fun m => (List.range m).findSome? (fun n => rsAt2 n m s))

/-- Pattern of up to 1 symbol error. -/
def rsFind1 (s : List Byte) : Option (List (Nat × Byte)) :=
  if s.all (· == 0#8) then some [] else (List.range 68).findSome? (fun n => rsAt1 n s)

/-- Errors at the two erased symbols of a failed pin alone (R239). -/
def rsErased0 (p : Nat) (s : List Byte) : Option (List (Nat × Byte)) :=
  (rsAt2 (p + 4) (p + 36) s).map (fun e => e.filter (fun x => x.2 ≠ 0#8))

/-- Errors at the two erased symbols and one further symbol. -/
def rsErased1 (p : Nat) (s : List Byte) : Option (List (Nat × Byte)) :=
  let a := gfAlpha (p + 4); let b := gfAlpha (p + 36)
  let t := fun j => s.getD (j + 2) 0 ^^^ gfMul (a ^^^ b) (s.getD (j + 1) 0) ^^^ gfMul (gfMul a b) (s.getD j 0)
  if t 0 = 0#8 then none
  else (List.range 68).findSome? (fun n =>
    let x := gfAlpha n
    let k := gfSq x ^^^ gfMul (a ^^^ b) x ^^^ gfMul a b
    if n = p + 4 ∨ n = p + 36 ∨ k = 0#8 then none
    else
      let v := gfMul (t 0) (gfInv k)
      let rest := (List.range 4).map (fun j => s.getD j 0 ^^^ gfMul v (gfAlpha (j * n % 255)))
      (rsErased0 p rest).map (fun e => (n, v) :: e))

/-- What the outer decoder makes of an access (R238, R239, R243). -/
inductive Decoded where
  | clean
  | corrected (errors : List (Nat × Byte))
  | poison
  | uncorrectable
deriving DecidableEq, Repr

/-- The outer decoder: `detect` the DETECT mode, `pins` the failed pins of the pseudo-channel, `e` the error pattern. More
than one failed pin leaves the code no redundancy; the first is erased (log 20). -/
def rsDecode (detect : Bool) (pins : List Nat) (e : List (Nat × Byte)) : Decoded :=
  let s := rsSyndromes e
  let sp := rsSyndromes poisonMask
  let s' := (List.range 4).map (fun j => s.getD j 0 ^^^ sp.getD j 0)
  if s.all (· == 0#8) then .clean
  else if detect then (if s = sp then .poison else .uncorrectable)
  else match pins with
    | [] =>
      match rsFind2 s with
      | some f => .corrected f
      | none => if (rsFind1 s').isSome then .poison else .uncorrectable
    | p :: _ =>
      match (rsErased0 p s).orElse (fun _ => rsErased1 p s) with
      | some f => .corrected f
      | none => if (rsErased0 p s').isSome then .poison else .uncorrectable

/-- Bit i of data symbol k of a block (Table 8.1): bit (p mod 8) of byte 4 × (8b + i) + ⌊p ÷ 8⌋, k = 32b + p. -/
def symbolBit (k i : Nat) : Nat × Nat :=
  let b := k / 32; let p := k % 32
  (4 * (8 * b + i) + p / 8, p % 8)

/-- XOR masks of the 64 data bytes that a symbol pattern amounts to. -/
def marksToBytes (e : List (Nat × Byte)) : List Byte :=
  e.foldl (fun bs p =>
    if p.1 < 4 then bs
    else (List.range 8).foldl (fun bs i =>
      if p.2.getLsbD i then
        let (byte, bit) := symbolBit (p.1 - 4) i
        bs.modify byte (fun x => x ^^^ BitVec.ofNat 8 (2 ^ bit))
      else bs) bs) (List.replicate 64 0#8)

/-- Symbol pattern of XOR masks of the 64 data bytes. -/
def bytesToMarks (m : List Byte) : List (Nat × Byte) :=
  ((List.range 64).map (fun k =>
    (k + 4, (List.range 8).foldl (fun acc i =>
      let (byte, bit) := symbolBit k i
      if (m.getD byte 0).getLsbD bit then acc ||| BitVec.ofNat 8 (2 ^ i) else acc) 0#8))).filter (fun p => p.2 ≠ 0#8)

/-! ### The (72,64) Hsiao code (R240) -/

/-- Columns of the data bits: the 56 values with three bits set, ascending, then eight of weight five. -/
def hsiaoColumns : List Nat :=
  ((List.range 256).filter (fun v => ((List.range 8).filter (fun i => bitOf v i)).length = 3))
    ++ [0x1F, 0x2F, 0x37, 0x3B, 0x3D, 0x3E, 0x4F, 0x57]

/-- Column of bit i of the 72-bit word: data bits 0 to 63, check bits 64 to 71. -/
def hsiaoColumn (i : Nat) : Nat := if i < 64 then hsiaoColumns.getD i 0 else 2 ^ (i - 64)

/-- Syndrome of an error mask. -/
def hsiaoSyndrome (e : BitVec 72) : Nat :=
  (List.range 72).foldl (fun acc i => if e.getLsbD i then acc ^^^ hsiaoColumn i else acc) 0

/-- The bit a syndrome points at. -/
def hsiaoBit (syn : Nat) : Option Nat := (List.range 72).find? (fun i => hsiaoColumn i = syn)

/-- Check byte of a data word. -/
def hsiaoCheck (d : BitVec 64) : Nat := hsiaoSyndrome (d.setWidth 72)

/-! ### Big-endian numbers -/

/-- Big-endian bytes of a number, `n` of them: as SHA-256 and the standard headers of a frame carry numbers. -/
def beBytes (v n : Nat) : List Byte := (leBytes v n).reverse

/-- The number a big-endian byte list holds. -/
def beNat (bs : List Byte) : Nat := leNat bs.reverse

end Sys2Proof.Machine
end

