-- ==== Sys2Proof/Config.lean ====
section
/-! DEFINITION. What the manual leaves open: opaque constants, each applied to the operands it depends on or to the draw
number of the state. Nothing in Lean can evaluate them. Log entry 2 says how, and which entries name them. -/

namespace Sys2Proof.Config

/-- Residence time a forwarding device adds to CORRECTION_NS (R314, R288), by draw. -/
opaque residenceNs : Nat → Nat

/-- Result byte of a mailbox beyond RESULT_LENGTH (R364), by completion and offset. -/
opaque staleByte : Nat → Nat → Byte

/-- Result of EXP2, LOG2, RCP, RSQ, SQRT, SIN, COS, TANH (R73 states no accuracy), by operation number and operand. -/
opaque special : Nat → W32 → W32

/-- Result of a shift by 32 or more (R73 states none), by operation number and operands. -/
opaque wideShift : Nat → W32 → W32 → W32

/-- Payload and sign of a NaN result of the vector units (R114 and R121 give neither), by operation number and operands. -/
opaque nanBits : Nat → W32 → W32 → W32 → W32

/-- FMIN and FMAX where an operand is NaN or the operands are zeros of both signs (R73 states no result), by operation and
operands. -/
opaque minMax : Nat → W32 → W32 → W32

/-- Which of the FP32 values within 1 ulp of the exact result press exp2 returns (R157), by operand: 0 the neighbour below
or the exact value, 1 the neighbour above, 2 the value below an exact one. -/
opaque exp2Choice : W32 → Nat

/-- Result of a CVT between a pair and a format that cannot hold two elements, where R120 leaves it open: the high half, or the whole
result, by source and destination format and operand. -/
opaque pairWord : Fmt → Fmt → W32 → W32

/-- Core and local-memory byte that an address of the local-memory window stands for (R88, R310; the manual gives no addresses), and none
outside the window. -/
opaque localWindow : Nat → Option (Nat × Nat)

/-- Byte of its core's local memory at which a crew's begins (R88), by crew. -/
opaque crewBase : Nat → Nat

/-- Local memory of a crew before it is written (R82), by crew and byte. -/
opaque localByte : Nat → Nat → Byte

/-- The core at which round-robin dispatch starts and goes on (R81), by draw. -/
opaque firstCore : Nat → Nat

/-- A draw of CE marking between 0 and 999 (R307). -/
opaque markDraw : Nat → Nat

/-- Bytes left by an aborted operation or a cancelled stage (R67, R173, R282), by draw and address. -/
opaque leftByte : Nat → Nat → Byte

/-- Signature bytes of an identity key (R449, R450), by key, leaf and byte. -/
opaque sigByte : Nat → Nat → Nat → Byte

/-- Public key of a second-level identity key (R450), by generation and byte. -/
opaque keyByte : Nat → Nat → Byte

/-- Fill of a receive buffer, of which R227 takes the steps of urgency, by draw. -/
opaque rxFillPm : Nat → Nat

/-- Bytes that a class of a port's receive buffer has passed on since the port last took a frame (R309), by draw. -/
opaque rxDrained : Nat → Nat

/-- MAC address a frame takes to a neighbour that no DISCOVER has named (R292), by port. -/
opaque linkAddr : Nat → Nat

/-- DST of a link-local packet to a neighbour that no DISCOVER has named (R295), by port. -/
opaque linkDst : Nat → Nat

/-- Place of a context's record in the MC firmware region, in blocks of 64 bytes (R301), by context. -/
opaque ctxBlock : Nat → Nat

/-- Corrections that a stack's own code reports with a read made inside a command (R235), by draw. -/
opaque innerCorr : Nat → Nat

/-- Byte of a temperature below 0 °C (R405, R406), by reading. -/
opaque belowZero : Int → Nat

/-- Duration and readings the manual does not fix, by draw. -/
opaque duration : Nat → Nat

/-- A field of a report whose value the manual does not give, by draw. -/
opaque openField : Nat → Nat

/-- Winner of a choice the manual leaves open: a SCATTER collision (R271), a line replaced in the L1R (R91) or a floor's context cache
(R301), by draw. -/
opaque winner : Nat → Nat

end Sys2Proof.Config
end

