-- ==== Sys2Proof/Machine/Flags.lean ====
section
/-! DEFINITION. Values the device computes from its state: towers and jobs, operating points and budgets, and the fields of
the hardware status block (12_host.md R358, 13_power.md R382 to R391). -/

namespace Sys2Proof.Machine

/-- Tower number. -/
def towerNum : Tower → Nat
  | .t0 => 0
  | .t1 => 1

/-- Tower of a number. -/
def towerOf (n : Nat) : Tower := if n = 0 then .t0 else .t1

/-- The other tower. -/
def otherTower : Tower → Tower
  | .t0 => .t1
  | .t1 => .t0

def bothTowers : List Tower := [.t0, .t1]

/-- Towers named by a mask of TOWERS (Table 2.4). -/
def towersOfMask (m : Nat) : List Tower := bothTowers.filter (fun t => bitOf m (towerNum t))

/-- Towers of a partition (Table 2.13). -/
def towersOfPartition (p : Nat) : List Tower :=
  if p = 0 then bothTowers else if p = 1 then [.t0] else [.t1]

/-- The tower mask of a partition. -/
def partitionMask (p : Nat) : Nat := if p = 0 then 3 else p

/-- The job of an ID. -/
def jobAt (s : State) (id : Nat) : Option Job := tabGet s.jobs.jobs id

/-- The job whose partition holds a tower (R63). -/
def jobOfTower (s : State) (t : Tower) : Option Job :=
  (s.jobs.jobs.find? (fun e => (towersOfPartition e.2.partition).contains t)).map (·.2)

/-- State number of a job (R373). -/
def jobStateNum : JobState → Nat
  | .created => 1
  | .configured => 2
  | .armed => 3
  | .running => 4
  | .stopped => 5
  | .faulted => 6

/-- State number of a power state (Table 12.8). -/
def pwrNum : PwrState → Nat
  | .active => 0
  | .trim => 1
  | .idle => 2
  | .rest => 3
  | .dark => 4

/-- Power state of a number. -/
def pwrOf (n : Nat) : PwrState :=
  if n = 0 then .active else if n = 1 then .trim else if n = 2 then .idle else if n = 3 then .rest else .dark

/-- Kernel rate factor of an operating point, per mille (Table 13.2). -/
def pointPm (p : Nat) : Nat := [1000, 858, 727, 623, 483, 373].getD p 373

/-- Worst-case rate of an energy class, bushels per µs (Table 13.4). -/
def fuseRate (c : Nat) : Nat := [0, 1, 2, 4, 6, 8, 12, 16, 20, 25, 32, 40, 50, 60, 70, 80].getD c 0

/-- Window budget of a tower under a module limit (R384): ⌊(L × 0.95 × 0.91 − 380) ÷ 2⌋. -/
def windowBudget (limitW : Nat) : Nat := (limitW * 8645 - 3800000) / 20000

/-- The lowest of the thermal steps and the bond cap (R404); 0 in a closed tower. -/
def capPm (s : State) (t : Tower) : Nat :=
  if s.therm.closed.get t then 0 else min (s.gate.capTherm.get t) (s.gate.capBond.get t)

/-- Budget under the caps in force (R388). -/
def cappedBudget (s : State) (t : Tower) : Nat := windowBudget s.gate.limitW * capPm s t / 1000

/-- Budget under the bond cap alone (R385, R396). -/
def bondBudget (s : State) (t : Tower) : Nat :=
  windowBudget s.gate.limitW * (if s.therm.closed.get t then 0 else s.gate.capBond.get t) / 1000

/-- DEV_STAGE (Table 12.5). -/
def devStage (s : State) : Nat :=
  s.boot.stage + (if s.boot.failed then 2 ^ 8 else 0) + (if s.boot.recovery then 2 ^ 9 else 0) + s.boot.code * 2 ^ 16

/-- DEV_FAULT (Table 12.6). -/
def devFault (s : State) : Nat :=
  s.host.lastCode + (if s.host.mcDown then 2 ^ 16 else 0) + (if s.mod.latch.isSome then 2 ^ 17 else 0)
    + (if s.host.hostReset then 2 ^ 18 else 0) + (if s.host.jobFault then 2 ^ 19 else 0)
    + (if s.host.eventLost then 2 ^ 20 else 0)

/-- DEV_TICK (tower 0 or the joined job) and DEV_TICK_T1 (Table 12.7). -/
def devTick (s : State) (t : Tower) : Nat :=
  match jobOfTower s t with
  | none => 0
  | some j =>
    if t = .t1 ∧ j.partition = 0 then 0
    else if j.state = .running then j.tick % 2 ^ 48 + 2 ^ 63 else 0

/-- CAPPED of DEV_POWER_STATE: an operation waits, or has waited in the last 10 ms, at the gate (R391). -/
def cappedNow (s : State) : Bool :=
  decide (s.gate.queue.t0 ≠ [] ∨ s.gate.queue.t1 ≠ []) || match s.gate.lastWaitNs with
    | some t => decide (s.nowNs ≤ t + 10000000)
    | none => false

/-- DEV_POWER_STATE (Table 12.8). -/
def devPowerState (s : State) : Nat :=
  pwrNum s.gate.pwr + (if s.gate.change.isSome then 2 ^ 3 else 0) + max (s.gate.point.t0) (s.gate.point.t1) * 2 ^ 4
    + (if s.therm.clamped ≠ [] then 2 ^ 8 else 0) + (if cappedNow s then 2 ^ 9 else 0)
    + (if s.gate.capBond.t0 < 1000 ∨ s.gate.capBond.t1 < 1000 ∨ s.therm.closed.t0 ∨ s.therm.closed.t1 then 2 ^ 10 else 0)

/-- Level of a zone of DEV_THERM_STATE: 0 to 9 a die, 10 the hottest stack. -/
def zoneLevel (s : State) (z : Nat) : Nat :=
  if z < 10 then tabGetD s.therm.level z 0
  else ((List.range 16).map (fun i => tabGetD s.therm.level (10 + i) 0)).foldl max 0

/-- A reading as one byte of °C, saturating at 255. The manual does not say how it gives one below 0 (log 42). -/
def celsius (x : Int) : Nat := if 0 ≤ x then min 255 x.toNat else Config.belowZero x % 256

/-- Hottest zone reading, 0 where no zone has one. -/
def maxC (s : State) : Nat := match s.therm.zoneC.map (·.2) with
  | [] => 0
  | x :: xs => celsius (xs.foldl max x)

/-- ZONE[0..10] of DEV_THERM_STATE. -/
def thermLevels (s : State) : Nat :=
  ((List.range 11).map (fun z => zoneLevel s z * 4 ^ z)).foldl (· + ·) 0

/-- DEV_THERM_STATE (Table 12.9). -/
def devThermState (s : State) : Nat := thermLevels s + maxC s * 2 ^ 24

/-- What vector 64 watches: DEV_STAGE, DEV_FAULT [19:0], STATE, DEV_THERM_STATE [21:0] (Table 12.15). -/
def watched (s : State) : Nat × Nat × Nat × Nat :=
  (devStage s, devFault s % 2 ^ 20, pwrNum s.gate.pwr, thermLevels s)

/-- BAR2_APERTURE: bits below the BAR2 size read 0 (Table 12.10). -/
def bar2Base (s : State) : Nat :=
  let size := s.host.pcie.bar2Gib * 2 ^ 30
  s.host.aperture.toNat / size * size

/-- A register of the hardware status block, 4 or 8 bytes at an offset (Table 12.4). -/
def statusBlock (s : State) : List Byte :=
  leBytes (devStage s) 4 ++ leBytes (devFault s) 4 ++ leBytes (devTick s .t0) 8 ++ leBytes (devTick s .t1) 8
    ++ leBytes (devPowerState s) 4 ++ leBytes (devThermState s) 4 ++ leBytes (bar2Base s) 8
    ++ leBytes s.host.heartbeat.toNat 4 ++ leBytes 0 20

/-! ### Windows of a tick (R31, R51) -/

/-- COMMIT length, µs. -/
def commitUs (c : TickCfg) : Nat := ceilDiv (c.commitPm * c.periodUs) 1000

/-- GLEAN length, µs. -/
def gleanUs (c : TickCfg) : Nat := max (ceilDiv (c.gleanPm * c.periodUs) 1000) 100

/-- RUN length, µs. -/
def runUs (c : TickCfg) : Nat := c.periodUs - commitUs c - gleanUs c

/-- Shortest COMMIT, µs: ⌈0.02 × P⌉. -/
def cminUs (c : TickCfg) : Nat := ceilDiv (2 * c.periodUs) 100

/-- stretch_max, µs. -/
def stretchMax (c : TickCfg) : Nat := c.stretchPm * c.periodUs / 1000

/-- Allowance of a tick, µs: GLEAN + COMMIT − Cmin + stretch_max. -/
def allowance (c : TickCfg) : Nat := gleanUs c + commitUs c - cminUs c + stretchMax c

/-- GLEAN left after a stretch. -/
def gleanLeft (c : TickCfg) (su : Nat) : Nat := gleanUs c - su

/-- COMMIT left after a stretch. -/
def commitLeft (c : TickCfg) (su : Nat) : Nat := max (cminUs c) (commitUs c - (su - gleanUs c))

/-- Boundary delay of a stretch. -/
def delayOf (c : TickCfg) (su : Nat) : Nat := su - gleanUs c - (commitUs c - cminUs c)

/-- SETTLE, µs, of a largest one-way beacon delay (R49). -/
def settleUs (maxPathNs : Nat) : Nat := ceilDiv (2 * maxPathNs) 1000 + 4

/-- Whether items remain unfinished. -/
def unfinished (sh : Option Sheaf) : Bool :=
  match sh with
  | none => false
  | some x => x.items.any (fun i => decide (i.st ≠ .done))

/-- Lowest unfinished item, 0xFFFF_FFFF for none. -/
def lowestUnfinished (sh : Option Sheaf) : Nat :=
  match sh with
  | none => 0xFFFFFFFF
  | some x => (x.items.findIdx? (fun i => decide (i.st ≠ .done))).getD 0xFFFFFFFF

end Sys2Proof.Machine
end

