-- ==== Sys2Proof/Machine/Wire.lean ====
section
/-! DEFINITION. Frames: the settings of a port, addresses, the parts of Table 10.3 and the transport header at the offsets of
Table 10.4, the trailer and the UDP checksum, and the payloads of link-local operations (10_fabric.md R283 to R295, R320; 02_ticks.md
R58). -/

namespace Sys2Proof.Machine

/-! ### Ports (R283 to R285, R320) -/

/-- MODE of the physical port of a logical port. -/
def portMode (c : PortCfg) (l : Nat) : Nat := c.modes.getD (l / 4) 0 % 8

/-- A logical port of the settings (R285). -/
def isLogical (c : PortCfg) (l : Nat) : Bool :=
  decide (l < 48) && match portMode c l with
    | 1 => decide (l % 4 = 0)
    | 2 => decide (l % 2 = 0)
    | 3 => true
    | 4 => decide (l % 8 = 0)
    | _ => false

/-- Lanes of a logical port (Table 10.1). -/
def portLanes (c : PortCfg) (l : Nat) : Nat := [0, 4, 2, 1, 8].getD (portMode c l) 0

/-- MAC rate, Gb/s (Table 10.1). -/
def macGbps (c : PortCfg) (l : Nat) : Nat := [0, 800, 400, 200, 1600].getD (portMode c l) 0

/-- SPEED of Table 10.16. -/
def portSpeed (c : PortCfg) (l : Nat) : Nat := [0, 3, 2, 1, 4].getD (portMode c l) 0

/-- P, the payload size. -/
def payloadSize (c : PortCfg) : Nat := 1024 * 2 ^ c.payload

/-- Frames carry IPV6, not RAW. -/
def isIpv6 (c : PortCfg) : Bool := decide (c.encap = 1)

/-- Bytes of a frame around mask and payload: Ethernet header, tag, IPv6 and UDP headers, transport header, trailer, FCS (Table 10.3). -/
def frameOver (c : PortCfg) : Nat := 14 + (if bitOf c.vlan 15 then 4 else 0) + (if isIpv6 c then 48 else 0) + 32 + 4 + 4

/-- Bytes of a packet's frame, never fewer than Ethernet's 64. -/
def frameBytes (c : PortCfg) (p : Pkt) : Nat := max 64 (frameOver c + (if p.poison = [] then 0 else 16) + p.payload.length)

/-- R_p of a port, bytes per second: O is 54 or 102, plus 4 with a tag (R320). -/
def payloadRate (c : PortCfg) (l : Nat) : Nat :=
  let o := (if isIpv6 c then 102 else 54) + (if bitOf c.vlan 15 then 4 else 0)
  macGbps c l * 125000000 * payloadSize c / (payloadSize c + o + 20)

/-! ### Bytes of a frame (R291 to R294) -/

/-- FLAGS of the transport header; the ECN codepoint stands there in RAW alone. -/
def flagsOf (ipv6 : Bool) (p : Pkt) : Nat :=
  (if p.poison = [] then 0 else 1) + (if p.ackReq then 2 else 0) + (if p.last then 4 else 0) + (if p.retx then 8 else 0)
    + (if ipv6 then 0 else p.ecn % 4 * 16)

/-- ADDR with its reduction codes and NO_ALLOC. -/
def addrWord (p : Pkt) : Nat :=
  p.addr % 2 ^ 44 + p.redOp % 16 * 2 ^ 44 + p.redTy % 16 * 2 ^ 48 + (if p.noAlloc then 2 ^ 52 else 0)

/-- The 32 bytes of the transport header (Table 10.4), with a number of HOPS. -/
def headerBytes (ipv6 : Bool) (hops : Nat) (p : Pkt) : List Byte :=
  let named := leBytes p.ver 1 ++ leBytes p.op 1 ++ leBytes p.tc 1 ++ leBytes (flagsOf ipv6 p) 1 ++ leBytes p.dst 2 ++ leBytes p.src 2
    ++ leBytes p.dstCtx 2 ++ leBytes p.srcCtx 2 ++ leBytes p.payload.length 2 ++ leBytes hops 1 ++ leBytes 0 1 ++ leBytes p.psn 4
    ++ leBytes p.ackPsn 4 ++ leBytes (addrWord p) 8
  named.mapIdx (fun i b => b ||| p.spare.getD i 0#8)

/-- The poison mask, present with POISON set: one bit for each 32-byte sector. -/
def maskBytes (p : Pkt) : List Byte :=
  if p.poison = [] then [] else leBytes (((List.range 128).map (fun k => if p.poison.contains k then 2 ^ k else 0)).foldl (· + ·) 0) 16

/-- The trailer: CRC-32C over the header with HOPS taken as 0, the mask and the payload (Table 10.3). -/
def trailerOf (ipv6 : Bool) (p : Pkt) : Nat := crc32c (headerBytes ipv6 0 p ++ maskBytes p ++ p.payload)

/-- The trailer holds. -/
def crcOk (c : PortCfg) (p : Pkt) : Bool := decide (p.trailer = trailerOf (isIpv6 c) p)

/-- What UDP carries: header, mask, payload and trailer. -/
def transportBytes (ipv6 : Bool) (p : Pkt) : List Byte :=
  headerBytes ipv6 p.hops p ++ maskBytes p ++ p.payload ++ leBytes p.trailer 4

/-- Ones' complement sum of 16-bit words in network order. -/
def sumWords : List Byte → Nat → Nat
  | a :: b :: r, acc => let x := acc + a.toNat * 256 + b.toNat; sumWords r (x % 0x10000 + x / 0x10000)
  | [a], acc => let x := acc + a.toNat * 256; x % 0x10000 + x / 0x10000
  | [], acc => acc

/-- The UDP checksum over the pseudo-header of IPv6, the UDP header and its data (R293; PRESUMED from UDP over IPv6, log 62). -/
def udpChecksum (i : Ip6) (data : List Byte) : Nat :=
  let n := 8 + data.length
  let x := sumWords (beBytes i.src 16 ++ beBytes i.dst 16 ++ beBytes n 4 ++ beBytes 17 4 ++ beBytes i.sport 2 ++ beBytes i.dport 2
    ++ beBytes n 2 ++ data) 0
  if x = 0xFFFF then 0xFFFF else 0xFFFF - x

/-- The UDP checksum holds, or there is none. -/
def udpOk (p : Pkt) : Bool := match p.outer.ip with
  | some i => decide (i.checksum = udpChecksum i (transportBytes true p))
  | none => true

/-- IPv6 and UDP headers with `n` bytes of data. -/
def ipBytes (n : Nat) (i : Ip6) : List Byte :=
  beBytes (6 * 2 ^ 28 + i.tclass % 256 * 2 ^ 20 + i.flow % 2 ^ 20) 4 ++ beBytes (8 + n) 2 ++ beBytes i.nextHeader 1 ++ beBytes i.hopLimit 1
    ++ beBytes i.src 16 ++ beBytes i.dst 16 ++ beBytes i.sport 2 ++ beBytes i.dport 2 ++ beBytes (8 + n) 2 ++ beBytes i.checksum 2

/-- A whole frame (Table 10.3), padded to Ethernet's 64 bytes. -/
def frameOf (p : Pkt) : List Byte :=
  let data := transportBytes p.outer.ip.isSome p
  let f := beBytes p.outer.dstMac 6 ++ beBytes p.outer.srcMac 6
    ++ (match p.outer.tag with
      | some t => beBytes 0x8100 2 ++ beBytes t 2
      | none => [])
    ++ beBytes p.outer.etherType 2
    ++ (match p.outer.ip with
      | some i => ipBytes data.length i
      | none => [])
    ++ data
  let g := f ++ List.replicate (60 - f.length) 0#8
  g ++ leBytes (ethernetFcs g) 4

/-! ### Addresses (R292) -/

/-- MAC address of a device on a logical port; 0xFFFF stands for a device without an ID. -/
def macOf (d l : Nat) : Nat := 0x02A700000000 + d % 0x10000 * 2 ^ 16 + l

/-- IPv6 address of a device on a logical port. -/
def ip6Of (c : PortCfg) (d l : Nat) : Nat := c.pfx * 2 ^ 64 + 0x00A7 * 2 ^ 48 + d % 0x10000 * 2 ^ 16 + l

/-- This device's ID in a header or report: all ones before FAB.SET_ID. -/
def devField (s : State) : Nat := s.fab.devId.getD 0xFFFF

/-- Who DISCOVER has named at a port. -/
def neighborOf (s : State) (l : Nat) : Option Neighbor := (tabGet s.fab.ports l).bind (·.neighbor)

/-- MAC address of the neighbour of a port; a free value where no DISCOVER has named it. -/
def neighborMac (s : State) (l : Nat) : Nat := match neighborOf s l with
  | some n => macOf n.dev n.port
  | none => Config.linkAddr l % 2 ^ 48

/-- Destination MAC of a routed packet: in RAW the next hop's port that the route names, the next hop being the neighbour, or, behind an
Ethernet switch, the destination itself (DEDUCED, log 62); in IPV6 the gateway of the egress port, or the neighbour. -/
def nextMac (s : State) (l remote dst : Nat) : Nat :=
  if isIpv6 s.fab.cfg then
    (if s.fab.cfg.gateways.getD (l / 4) 0 = 0 then neighborMac s l else s.fab.cfg.gateways.getD (l / 4) 0)
  else macOf (((neighborOf s l).map (·.dev)).getD dst) remote

/-! ### Classes (R296) -/

/-- The class a packet travels in. -/
def pktClass (p : Pkt) : Nat := if p.op = 9 then 3 else if 6 ≤ p.op then 2 else p.tc

/-- Traffic class byte of IPv6: DSCP of the class and the ECN field. -/
def tclassOf (c : PortCfg) (k ecn : Nat) : Nat := c.dscp.getD k 0 % 64 * 4 + ecn % 4

/-- The context hash (R293). -/
def ctxHash (src srcCtx dst dstCtx : Nat) : Nat :=
  crc32c (leBytes (src % 0x2000) 2 ++ leBytes (srcCtx % 0x4000) 2 ++ leBytes (dst % 0x2000) 2 ++ leBytes (dstCtx % 0x4000) 2)

/-- The hash of a packet. -/
def pktHash (p : Pkt) : Nat := ctxHash p.src p.srcCtx p.dst p.dstCtx

/-- Tag control of a class, where frames are tagged. -/
def tagOf (c : PortCfg) (k : Nat) : Option Nat :=
  if bitOf c.vlan 15 then some (c.pcp.getD k 0 % 8 * 2 ^ 13 + c.vlan % 0x1000) else none

/-- Seal a packet whose fields are all set: trailer, and in IPV6 the UDP checksum. -/
def sealed (c : PortCfg) (p : Pkt) : Pkt :=
  let q := { p with trailer := trailerOf (isIpv6 c) p }
  { q with outer := { q.outer with ip := q.outer.ip.map (fun i => { i with checksum := udpChecksum i (transportBytes true q) }) } }

/-- Make the frame of a packet of this device that leaves by a port: ECT(0) for classes 0 and 1 (R307), the headers before the transport
header, the trailer and the checksum. -/
def dress (s : State) (l mac ipDst : Nat) (p : Pkt) : Pkt :=
  let c := s.fab.cfg
  let k := pktClass p
  let h := pktHash p
  let e := if k < 2 then 2 else 0
  sealed c { p with
    ecn := e
    outer := {
      dstMac := mac, srcMac := macOf (devField s) l, tag := tagOf c k, etherType := if isIpv6 c then 0x86DD else c.etherType
      ip := if isIpv6 c then
          some { tclass := tclassOf c k e, flow := h % 2 ^ 20, nextHeader := 17, hopLimit := 64, src := ip6Of c (devField s) l
                 dst := ipDst, sport := 49152 + h % 16384, dport := c.udpPort, checksum := 0 }
        else none } }

/-- The checksum of a frame when a 16-bit word of its data goes from `a` to `b`: what held holds still. -/
def checksumMoved (x a b : Nat) : Nat :=
  let add := fun (u v : Nat) => (u + v) % 0x10000 + (u + v) / 0x10000
  0xFFFF - add (add (0xFFFF - x) (0xFFFF - a)) b

/-- A forwarded packet: HOPS rises, and in IPV6 the hop limit falls, both MAC addresses are rewritten and every other field stays; the
checksum, which covers HOPS, moves with it (R293, R298; DEDUCED, log 62). -/
def redress (s : State) (l remote : Nat) (p : Pkt) : Pkt :=
  let low := (p.spare.getD 15 0#8).toNat
  let word := fun (h : Nat) => h % 256 * 256 + low
  { p with
    hops := p.hops + 1
    outer := { p.outer with
      dstMac := nextMac s l remote p.dst, srcMac := macOf (devField s) l
      ip := p.outer.ip.map (fun i => { i with
        hopLimit := i.hopLimit - 1, checksum := checksumMoved i.checksum (word p.hops) (word (p.hops + 1)) }) } }

/-- CE set on a packet: in IPV6 in the traffic class, in RAW in FLAGS, where the trailer moves with it: what held holds still (R307;
DEDUCED, log 62). -/
def markCe (c : PortCfg) (p : Pkt) : Pkt :=
  let q := { p with ecn := 3, outer := { p.outer with ip := p.outer.ip.map (fun i => { i with tclass := i.tclass / 4 * 4 + 3 }) } }
  if isIpv6 c then q
  else { q with trailer := (BitVec.ofNat 32 p.trailer ^^^ BitVec.ofNat 32 (trailerOf false p) ^^^ BitVec.ofNat 32 (trailerOf false q)).toNat }

/-- A frame of the device's one encapsulation: no other EtherType, next header or UDP port (R291, R293). -/
def framed (c : PortCfg) (p : Pkt) : Bool :=
  if isIpv6 c then
    decide (p.outer.etherType = 0x86DD) && match p.outer.ip with
      | some i => decide (i.nextHeader = 17 ∧ i.dport = c.udpPort)
      | none => false
  else decide (p.outer.etherType = c.etherType) && p.outer.ip.isNone

/-- A packet with no field set, as headers of this device begin. -/
def Pkt.blank : Pkt :=
  { op := 0, tc := 0, poison := [], ackReq := false, last := false, retx := false, ecn := 0, dst := 0, src := 0, dstCtx := 0, srcCtx := 0
    hops := 0, psn := 0, ackPsn := 0, addr := 0, redOp := 0, redTy := 0, noAlloc := false, payload := [], ver := 1, spare := [], trailer := 0
    outer := { dstMac := 0, srcMac := 0, tag := none, etherType := 0, ip := none } }

/-! ### Payloads of link-local operations (R58, R288, R289) -/

/-- A beacon's bytes before its CRC (Table 2.10), with HOPS and CORRECTION_NS. -/
def beaconBody (hops correctionNs : Nat) (b : Beacon) : List Byte :=
  leBytes b.type 1 ++ leBytes b.version 1 ++ leBytes b.jobId 2 ++ leBytes b.origin 2 ++ leBytes hops 1
    ++ leBytes ((if b.stop then 1 else 0) + (if b.repeated then 2 else 0)) 1 ++ leBytes b.tick 8 ++ leBytes b.timeNs 8
    ++ leBytes correctionNs 4 ++ leBytes b.arg0 4 ++ leBytes b.arg1 4 ++ leBytes b.seqno 4 ++ leBytes b.leadNs 4

/-- CRC of a beacon: HOPS and CORRECTION_NS taken as 0. -/
def beaconCrc (b : Beacon) : Nat := crc32c (beaconBody 0 0 b)

/-- The 48 bytes of a beacon. -/
def beaconBytes (b : Beacon) : List Byte := beaconBody b.hops b.correctionNs b ++ leBytes b.crc 4

/-- The 48 bytes of a DISCOVER (Table 10.2). -/
def discoverBytes (d : Discover) : List Byte :=
  leBytes d.familyId 2 ++ leBytes d.member 2 ++ leBytes d.devId 2 ++ leBytes d.port 1 ++ leBytes (if d.ready then 1 else 0) 1
    ++ sliceBytes d.moduleSerial 0 16 ++ sliceBytes d.cableSerial 0 16 ++ leBytes 0 8

/-- A link-local packet to the neighbour of a port (R295). -/
def linkPkt (s : State) (l op : Nat) (payload : List Byte) : Pkt :=
  let d := ((neighborOf s l).map (·.dev)).getD (Config.linkDst l % 0x2000)
  let q := ((neighborOf s l).map (·.port)).getD 0
  dress s l (neighborMac s l) (ip6Of s.fab.cfg d q)
    { Pkt.blank with op := op, tc := if op = 9 then 3 else 2, dst := d % 0x2000, src := devField s % 0x2000, payload := payload }

end Sys2Proof.Machine
end

