-- ==== Sys2Proof/Machine/Ops.lean ====
section
/-! DEFINITION. Operations that every family shares: time, draws, events, messages to the host, completion of mailbox
commands, beacons, and the stop of a job (12_host.md, 02_ticks.md R57 to R59, R70). -/

namespace Sys2Proof.Machine

/-! ### Status codes (Table 12.22) and event codes (Table 12.23) -/

abbrev stDone : Nat := 0x0000
abbrev stPending : Nat := 0x0001
abbrev stBadOpcode : Nat := 0x0101
abbrev stBadLength : Nat := 0x0102
abbrev stBadField : Nat := 0x0103
abbrev stWrongState : Nat := 0x0201
abbrev stBusy : Nat := 0x0202
abbrev stPinCeiling : Nat := 0x0301
abbrev stOverQuota : Nat := 0x0302
abbrev stNoSpace : Nat := 0x0303
abbrev stSigInvalid : Nat := 0x0401
abbrev stRollback : Nat := 0x0402
abbrev stNotPrivileged : Nat := 0x0403
abbrev stDeviceFault : Nat := 0x0501
abbrev stTwinLost : Nat := 0x0502

abbrev evPoisonConsumed : Nat := 0x1001
abbrev evBarrierStall : Nat := 0x1002
abbrev evIllegalInstr : Nat := 0x1003
abbrev evFieldViolation : Nat := 0x1004
abbrev evHbmUncorrectable : Nat := 0x2001
abbrev evLoftUncorrectable : Nat := 0x2002
abbrev evRemapFull : Nat := 0x2003
abbrev evLoftThrash : Nat := 0x2004
abbrev evBankHot : Nat := 0x2005
abbrev evWinnowFail : Nat := 0x2006
abbrev evBondGroupDegraded : Nat := 0x3001
abbrev evPowerBondDrop : Nat := 0x3002
abbrev evLinkDown : Nat := 0x4001
abbrev evContextTimeout : Nat := 0x4002
abbrev evPartitionResetting : Nat := 0x4003
abbrev evTopologyMismatch : Nat := 0x4004
abbrev evTickOverrun : Nat := 0x5001
abbrev evTickFault : Nat := 0x5002
abbrev evBeaconLost : Nat := 0x5003
abbrev evTwinLost : Nat := 0x5004
abbrev evThermWarn : Nat := 0x6001
abbrev evThermThrottle : Nat := 0x6002
abbrev evThermShutdown : Nat := 0x6003
abbrev evSensorFailed : Nat := 0x6004
abbrev evPowerCapped : Nat := 0x6005
abbrev evCopyMisaligned : Nat := 0x7001
abbrev evCopyOverlap : Nat := 0x7002
abbrev evCopyUndeclared : Nat := 0x7003
abbrev evCopyBadShard : Nat := 0x7004

/-- No item, entry or device. -/
abbrev noIndex : Nat := 0xFFFFFFFF

/-! ### Time and draws -/

/-- Advance the tick time base to the time of an event, never backwards. -/
def State.timeTo (s : State) (t : Nat) : State := { s with nowNs := max s.nowNs t }

/-- Take one free value: the next draw has another number. -/
def State.draw (s : State) : State := { s with freeCtr := s.freeCtr + 1 }

/-- Change the job of an ID, if it exists. -/
def State.onJob (s : State) (id : Nat) (f : Job → Job) : State :=
  s.onJobs (fun j => { j with jobs := tabMod j.jobs id f })

/-- Note a change of what vector 64 watches (R368). -/
def noteStatus (before after : State) : State :=
  if watched before = watched after then after else after.onHost (fun h => { h with statusChange := true })

/-! ### Counters (R465, Table 16.6) -/

/-- Add to a counter of an enabled group; a disabled group holds its values. -/
def ctrAdd (group pos n : Nat) (s : State) : State :=
  if s.obs.ctrEnable.getLsbD (group - 1) then
    s.onObs (fun o => { o with
      ctrs := tabPut o.ctrs (group * 65536 + pos) (tabGetD o.ctrs (group * 65536 + pos) 0 + BitVec.ofNat 64 n) })
  else s

/-! ### Trace (R468 to R470) -/

/-- Records a trace buffer holds. -/
abbrev traceCap : Nat := 8192

/-- Add a record to a tower's buffer: a full one drops it; the first record after a loss tells how many were lost. -/
def traceAdd (r : TraceRec) (b : TraceT) : TraceT × Bool :=
  let room := traceCap - b.buf.length
  if b.lossPending = 0 then
    if room = 0 then ({ b with dropped := b.dropped + 1, lossPending := 1 }, false) else ({ b with buf := b.buf ++ [r] }, true)
  else if room < 2 then ({ b with dropped := b.dropped + 1, lossPending := b.lossPending + 1 }, false)
  else ({ b with buf := b.buf ++ [{ r with type := 0x0F, data := leBytes b.lossPending 4 ++ leBytes 0 12 }, r], lossPending := 0 }, true)

/-- Write a trace record of a source (bit of SOURCES) where tracing is on for it. -/
def traceRec (src : Nat) (t : Tower) (type job tick : Nat) (data : List Byte) (s : State) : State :=
  if s.obs.traceOn && bitOf s.obs.traceSrc src then
    let r : TraceRec := { timeNs := s.nowNs, type := type, tower := towerNum t, job := job, tick := tick % 2 ^ 32, data := sliceBytes data 0 16 }
    let (b, ok) := traceAdd r (s.obs.trace.get t)
    ctrAdd 8 (towerNum t * 19 + (if ok then 17 else 18)) 1 (s.onObs (fun o => { o with trace := o.trace.set t b }))
  else s

/-- The lowest tower of a job. -/
def jobTower (j : Job) : Tower := if j.partition = 2 then .t1 else .t0

/-- Trace of a boundary or of a beacon sent or received. -/
def traceBeacon (j : Job) (type arg0 : Nat) (s : State) : State :=
  traceRec 1 (jobTower j) 3 j.id j.tick
    (leBytes type 1 ++ leBytes 0 3 ++ leBytes arg0 4 ++ leBytes j.sUs 4 ++ leBytes ((j.cfg.map (fun c => delayOf c j.sUs)).getD 0) 4) s

/-- Trace a beacon of a job this device runs. -/
def traceJobBeacon (job type arg0 : Nat) (s : State) : State := match jobAt s job with
  | some j => traceBeacon j type arg0 s
  | none => s

/-! ### Messages to the host (R352, R368) -/

/-- The vector control bit of an MSI-X table entry. -/
def msixMasked (s : State) (v : Nat) : Bool := (memGet s.host.msixTable (16 * v + 12)).getLsbD 0

/-- Send an MSI-X message: none while Bus Master Enable or MSI-X Enable is clear; a masked vector becomes pending. -/
def msixSend (s : State) (v : Nat) : State :=
  if !s.host.pcie.busMaster || !s.host.pcie.msixEnable then s
  else if s.host.pcie.msixMask || msixMasked s v then
    s.onHost (fun h => { h with msixPba := h.msixPba ||| BitVec.ofNat 128 (2 ^ v) })
  else s.emit (.msix v)

/-- Send the pending messages that are no longer masked. -/
def msixFlush (s : State) : State :=
  (List.range 128).foldl (fun st v =>
    if st.host.msixPba.getLsbD v && st.host.pcie.busMaster && st.host.pcie.msixEnable && !st.host.pcie.msixMask
        && !msixMasked st v then
      (st.onHost (fun h => { h with msixPba := h.msixPba &&& ~~~ BitVec.ofNat 128 (2 ^ v) })).emit (.msix v)
    else st) s

/-! ### Mailboxes (R363 to R369) -/

/-- Bytes of a mailbox range less those of a write. -/
def cutRanges (rs : List (Nat × Nat)) (lo hi : Nat) : List (Nat × Nat) :=
  rs.flatMap (fun r => ((if r.1 < min r.2 lo then [(r.1, min r.2 lo)] else [])
    ++ (if max r.1 hi < r.2 then [(max r.1 hi, r.2)] else [])))

/-- A byte of mailbox `mb` at an offset: a result byte beyond RESULT_LENGTH is undefined until the host writes it (R364). -/
def mbByte (s : State) (mb off : Nat) : Byte :=
  match tabGet s.host.stale mb with
  | some (n, rs) =>
    if rs.any (fun r => decide (r.1 ≤ off ∧ off < r.2)) then Config.staleByte n off else memGet s.host.mbArea (mb * 0x1000 + off)
  | none => memGet s.host.mbArea (mb * 0x1000 + off)

/-- Bytes of a mailbox. -/
def mbRead (s : State) (mb off n : Nat) : List Byte := (List.range n).map (fun i => mbByte s mb (off + i))

/-- Store bytes in a mailbox; they are defined from then on. -/
def mbStore (s : State) (mb off : Nat) (bs : List Byte) : State :=
  s.onHost (fun h => { h with
    mbArea := memWrite h.mbArea (mb * 0x1000 + off) bs
    stale := tabMod h.stale mb (fun p => (p.1, cutRanges p.2 off (off + bs.length))) })

/-- TIME_US: time from handoff to completion, saturating (Table 12.12). -/
def timeUs (now handoff : Nat) : Nat := min ((now - handoff) / 1000) 0xFFFFFFFF

/-- R364 steps 4 and 5 for mailbox `mb`: result, RESULT_LENGTH, TIME_US, STATUS, then OWN = 0 and DONE. -/
def mbFinish (s : State) (mb handoff status : Nat) (result : List Byte) : State :=
  let a := memWrite (memWrite (memWrite (memWrite (memWrite s.host.mbArea (mb * 0x1000 + 0x40) result)
    (mb * 0x1000 + 0x14) (leBytes result.length 2)) (mb * 0x1000 + 0x18) (leBytes (timeUs s.nowNs handoff) 4))
    (mb * 0x1000 + 0x0C) (leBytes status 2)) (mb * 0x1000) (leBytes 0 4)
  { s with
    freeCtr := s.freeCtr + 1
    host := { s.host with
      mbArea := a
      own := s.host.own &&& ~~~ BitVec.ofNat 64 (2 ^ mb)
      doneSum := s.host.doneSum ||| BitVec.ofNat 64 (2 ^ mb)
      taken := tabDel s.host.taken mb
      stale := tabPut s.host.stale mb (s.freeCtr, [(0x40 + result.length, 0x1000)]) } }

/-- MAILBOX_COMPLETION: the command completes with a status and a result, and signals if IRQ is set (R364, R368). -/
def complete (c : Cmd) (status : Nat) (result : List Byte) (s : State) : State :=
  let s := mbFinish s c.mb c.handoffNs status result
  if bitOf c.flags 0 then msixSend s c.mb else s

/-- The command in a mailbox stays with the device: `f` marks it started. -/
def markStarted (c : Cmd) (s : State) : State :=
  s.onHost (fun h => { h with taken := tabPut h.taken c.mb { c with started := true } })

/-- The started command of an opcode in a mailbox, if it still runs. -/
def startedCmd (s : State) (mb opcode : Nat) : Option Cmd :=
  match tabGet s.host.taken mb with
  | some c => if c.opcode = opcode && c.started then some c else none
  | none => none

/-- Run a mailbox command that COMMAND_TAKE captured: `body` is its effect, completion included. Nothing happens where the
mailbox holds no such command waiting to run (log 8). -/
def runCmd (opcode mb : Nat) (body : Cmd → State → State) (s : State) : State :=
  match tabGet s.host.taken mb with
  | some c => if c.opcode = opcode ∧ c.started = false then body c s else s
  | none => s

/-- The first failing check of a list, if any. -/
def firstFail : List (Bool × Nat) → Option Nat
  | [] => none
  | (bad, st) :: rest => if bad then some st else firstFail rest

/-- Judge checks in order: complete with the first failing status, or go on (R365, R62). -/
def judged (c : Cmd) (checks : List (Bool × Nat)) (s : State) (k : State) : State :=
  match firstFail checks with
  | some st => complete c st [] s
  | none => k

/-- Reserved bits of the header: FLAGS other than IRQ, and the reserved bytes (R8, Table 12.12). -/
def hdrBad (c : Cmd) : Bool := c.hdrReserved || decide (c.flags / 2 ≠ 0)

/-- A parameter field of a command. -/
def par (c : Cmd) (off n : Nat) : Nat := fieldAt c.params off n

/-- A reserved parameter range that is not all 0. -/
def parRes (c : Cmd) (off n : Nat) : Bool := !zeroAt c.params off n

/-! ### Events (R374) -/

/-- A record of DEV.EVENTS (Table 12.18). -/
def eventBytes (e : Event) : List Byte :=
  leBytes e.seq 4 ++ leBytes e.severity 1 ++ leBytes e.detail.length 1 ++ leBytes e.job 2 ++ leBytes e.timeNs 8
    ++ sliceBytes e.detail 0 48

/-- The result of DEV.EVENTS for at most `n` records. -/
def eventsResult (s : State) (n : Nat) : List Byte :=
  let recs := s.ev.queue.take n
  leBytes recs.length 4 ++ leBytes (min s.ev.lost 0xFFFFFFFF) 4 ++ leBytes 0 8 ++ recs.flatMap eventBytes

/-- Return the oldest records on a DEV.EVENTS command and remove them. -/
def eventsReturn (c : Cmd) (n : Nat) (s : State) : State :=
  complete c stDone (eventsResult s n) (s.onEv (fun e => { e with queue := e.queue.drop n, lost := 0 }))

/-- Put a record into the queue: full, it is dropped unless it is a fault, which replaces the oldest record that is none. -/
def eventInsert (r : Event) (e : EvSt) : EvSt × Bool :=
  if e.queue.length < 1024 then ({ e with queue := e.queue ++ [r] }, false)
  else if r.severity = 0 then ({ e with lost := e.lost + 1 }, true)
  else match e.queue.findIdx? (fun x => decide (x.severity = 0)) with
    | some i => ({ e with queue := e.queue.eraseIdx i ++ [r], lost := e.lost + 1 }, true)
    | none => ({ e with lost := e.lost + 1 }, true)

/-- EVENT_POST: queue a record; a fault sets LAST_CODE, a job fault JOB_FAULT; a waiting DEV.EVENTS completes (R374,
Table 12.6). -/
def postEvent (sev code job : Nat) (detail : List Byte) (s : State) : State :=
  let r : Event := { seq := s.ev.seq, severity := sev, job := job, timeNs := s.nowNs, code := code,
                     detail := detail.take 48 }
  let (q, dropped) := eventInsert r s.ev
  let s1 : State := { s with ev := { q with seq := (s.ev.seq + 1) % 2 ^ 32 } }
  let s2 := s1.onHost (fun h => { h with
    lastCode := if sev = 0 then h.lastCode else code
    jobFault := h.jobFault || decide (sev = 1)
    eventLost := h.eventLost || dropped })
  let s3 := noteStatus s s2
  match startedCmd s3 63 0x0102 with
  | some c => if s3.ev.queue = [] then s3 else eventsReturn c (par c 0 2) s3
  | none => s3

/-- The core fault detail of a fault that no core raises: an item that is no press or copy item when it is issued, poison that the MC or
a floor has read (DEDUCED, log 39). -/
def issueDetail (code item : Nat) : List Byte :=
  leBytes code 2 ++ leBytes 0xFFFF 2 ++ leBytes 0 3 ++ leBytes 0xFF 1 ++ leBytes 0 8 ++ leBytes item 4 ++ leBytes 0xFFFF 2 ++ leBytes 0 2

/-- Post a notice. -/
def postNotice (code job : Nat) (detail : List Byte) (s : State) : State := postEvent 0 code job detail s

/-- Post a device fault. -/
def postDeviceFault (code : Nat) (detail : List Byte) (s : State) : State := postEvent 2 code 0 detail s

/-! ### Egress (R295, R296, R307, R309) -/

/-- Counters of a port: 0 TX_BYTES, 1 RX_BYTES, 2 FWD_BYTES, 3 RETX, 4 NACKS, 5 CNP, 6 RX_DROPS, 7 CRC_DROPS, 8 STRAY,
9 ROUTE_DROPS, 10 BEACON_DROPS (R328). -/
def ctrFab (port k n : Nat) (s : State) : State := ctrAdd 7 (port * 11 + k) n s

/-- A port that has come up. -/
def portUp (s : State) (l : Nat) : Bool := match tabGet s.fab.ports l with
  | some p => decide (p.link = .up)
  | none => false

/-- Change a port. -/
def onPort (l : Nat) (f : Port → Port) (s : State) : State := s.onFab (fun x => { x with ports := tabMod x.ports l f })

/-- Queue depths after the port has sent since their time, strict classes first; a paused class does not drain. -/
def drained (s : State) (l : Nat) (p : Port) : List Nat :=
  let room := macGbps s.fab.cfg l * (s.nowNs - p.egressNs) / 8
  let step := fun (acc : List Nat × Nat) (k : Nat) =>
    let d := acc.1.getD k 0
    if bitOf p.paused k then acc else (acc.1.set k (d - acc.2), acc.2 - d)
  ([3, 2, 1, 0].foldl step (p.egressDepth, room)).1

/-- Whether a packet that meets a queue of `d` bytes is marked, by a draw of 0 to 999 (R307). -/
def ceMark (d draw : Nat) : Bool :=
  decide (0x100000 ≤ d) || (decide (0x20000 < d) && decide (draw % 1000 * 0xE0000 < (d - 0x20000) * 1000))

/-- The packet's ECN codepoint says that its sender marks it. -/
def isEct (c : PortCfg) (p : Pkt) : Bool := decide ((if isIpv6 c then (p.outer.ip.map (·.tclass)).getD 0 else p.ecn) % 4 ≠ 0)

/-- Classes 3 and 2 have at most 2 % of the port's time in any 10 µs each, preamble and gap counted (Table 10.6). -/
def capRoom (s : State) (l : Nat) (p : Port) (k n : Nat) : Bool :=
  decide (k < 2 ∨ (((p.capSent.filter (fun e => decide (e.2.1 = k ∧ s.nowNs < e.1 + 10000))).map (·.2.2)).foldl (· + ·) 0) + n + 20
    ≤ macGbps s.fab.cfg l * 25)

/-- A frame of a class leaves a port. -/
def depart (l : Nat) (p : Pkt) (s : State) : State :=
  let k := pktClass p
  (if k < 2 then s
   else onPort l (fun x => { x with
     capSent := x.capSent.filter (fun e => decide (s.nowNs < e.1 + 10000)) ++ [(s.nowNs, k, frameBytes s.fab.cfg p + 20)] }) s).emit (.packet l p)

/-- Send what no longer waits at an egress, oldest first in each class. -/
def releaseHeld (l : Nat) (s : State) : State :=
  match tabGet s.fab.ports l with
  | none => s
  | some q =>
    if q.held = [] then s
    else
      let r := q.held.foldl (fun (acc : State × List Pkt) p =>
        let k := pktClass p
        let q1 := (tabGet acc.1.fab.ports l).getD q
        if acc.2.any (fun x => decide (pktClass x = k)) || bitOf q1.paused k || !capRoom acc.1 l q1 k (frameBytes s.fab.cfg p) then
          (acc.1, acc.2 ++ [p])
        else (depart l p acc.1, acc.2)) (s, [])
      onPort l (fun x => { x with held := r.2 }) r.1

/-- Put a packet on an egress that is up: it is marked, counted, and sent, or waits while its class is paused, has had its share of the
port's time, or has packets waiting. -/
def egressSend (l : Nat) (p : Pkt) (s0 : State) : State :=
  let s := releaseHeld l s0
  match tabGet s.fab.ports l with
  | none => s
  | some q =>
    if q.link ≠ .up then s
    else
      let k := pktClass p
      let ds := drained s l q
      let d := ds.getD k 0
      let p1 := if k < 2 && isEct s.fab.cfg p && ceMark d (Config.markDraw s.freeCtr) then markCe s.fab.cfg p else p
      let n := frameBytes s.fab.cfg p
      let hold := bitOf q.paused k || q.held.any (fun x => decide (pktClass x = k)) || !capRoom s l q k n
      let s1 := onPort l (fun x => { x with
        egressDepth := ds.set k (d + n)
        egressNs := s.nowNs
        held := if hold then x.held ++ [p1] else x.held }) s.draw
      ctrFab l 0 n (if hold then s1 else depart l p1 s1)

/-- Send a link-local packet to the neighbour of a port (R295). -/
def linkSend (l op : Nat) (payload : List Byte) (s : State) : State := egressSend l (linkPkt s l op payload) s

/-- Bytes of its receive buffer that a port's classes use: those of classes 0 and 1 together, of class 2 or of class 3 (R309). -/
def rxShare (c : PortCfg) (l k : Nat) : Nat := if k < 2 then portLanes c l * 0x80000 - 0x10000 else 0x8000

/-- What the buffer still holds: what a class has passed on to the lofts and HBM is a free value (log 36). -/
def rxLeft (s : State) (p : Port) : List Nat :=
  (List.range 4).map (fun k => let v := p.rx.getD k 0; if v = 0 then 0 else v - Config.rxDrained (s.freeCtr + k))

/-- Bytes of the part of the buffer that a class shares. -/
def rxUsed (rx : List Nat) (k : Nat) : Nat := if k < 2 then rx.getD 0 0 + rx.getD 1 0 else rx.getD k 0

/-- XOFF for the classes with PFC once their part passes 90 %, XON when it has fallen to 75 % (R309). -/
def pfcUpdate (l : Nat) (s : State) : State :=
  match tabGet s.fab.ports l with
  | none => s
  | some p =>
    let n := 100 * rxUsed p.rx 0; let cap := rxShare s.fab.cfg l 0
    [0, 1].foldl (fun st k =>
      if !bitOf s.fab.cfg.pfcMask k then st
      else if !bitOf p.xoff k && decide (90 * cap < n) then
        (onPort l (fun x => { x with xoff := x.xoff ||| 2 ^ k }) st).emit (.pfc l k true)
      else if bitOf p.xoff k && decide (n ≤ 75 * cap) then
        (onPort l (fun x => { x with xoff := x.xoff - (x.xoff &&& 2 ^ k) }) st).emit (.pfc l k false)
      else st) s

/-- A packet fits the port's receive buffer. -/
def rxFits (s : State) (l : Nat) (p : Pkt) : Bool := match tabGet s.fab.ports l with
  | none => true
  | some q => decide (rxUsed (rxLeft s q) (pktClass p) + frameBytes s.fab.cfg p ≤ rxShare s.fab.cfg l (pktClass p))

/-- A packet enters the port's receive buffer and is counted. -/
def rxEnter (l : Nat) (p : Pkt) (s : State) : State :=
  let n := frameBytes s.fab.cfg p
  let k := pktClass p
  pfcUpdate l (onPort l (fun q => let r := rxLeft s q; { q with rx := r.set k (r.getD k 0 + n) }) (ctrFab l 1 n s)).draw

/-- What time brings to a port: packets that waited leave, and a class it had paused goes on once its buffer has drained. -/
def portTick (l : Nat) (s : State) : State :=
  match tabGet s.fab.ports l with
  | none => s
  | some q =>
    let s1 := if q.xoff = 0 then s else pfcUpdate l (onPort l (fun x => { x with rx := rxLeft s x }) s).draw
    releaseHeld l s1

/-- Ports at which something waits. -/
def portsTick (s : State) : State :=
  (s.fab.ports.filter (fun e => decide (e.2.held ≠ []) || decide (e.2.xoff ≠ 0))).foldl (fun st e => portTick e.1 st) s

/-- The block with no command waiting: one nanosecond of the tick time base passes (R29), and what waits at its ports goes on (DESIGN
CHOICE, log 9). -/
def idle (s : State) : State := portsTick { s with nowNs := s.nowNs + 1 }

/-! ### Beacons (R57 to R59, R314) -/

/-- The role the device holds for a job. -/
def roleOf (s : State) (job : Nat) : Option RoleRec := tabGet s.jobs.roles job

def isMaster (s : State) (job : Nat) : Bool :=
  match roleOf s job with
  | some r => decide (r.role = .master)
  | none => false

/-- Ports of a mask of logical ports. -/
def portsOfMask (m : Nat) : List Nat := (List.range 48).filter (fun p => bitOf m p)

/-- Send a beacon on every down port of the job (R314). -/
def beaconDown (s : State) (job : Nat) (b : Beacon) : State :=
  match roleOf s job with
  | some r => traceJobBeacon job b.type b.arg0 ((portsOfMask r.downMask).foldl (fun st p => linkSend p 9 (beaconBytes b) st) s)
  | none => s

/-- Send a beacon on the up port of the job. -/
def beaconUp (s : State) (job : Nat) (b : Beacon) : State :=
  match roleOf s job with
  | some r => if r.role = .master then s else traceJobBeacon job b.type b.arg0 (linkSend r.upPort 9 (beaconBytes b) s)
  | none => s

/-- A beacon with the CRC its fields give. -/
def Beacon.sealed (b : Beacon) : Beacon := { b with crc := beaconCrc b }

/-- A beacon this device originates (Table 2.10). -/
def newBeacon (s : State) (type job tick timeNs arg0 arg1 seqno leadNs : Nat) (stop repeated : Bool) : Beacon :=
  Beacon.sealed {
    type := type, version := 1, jobId := job, origin := s.fab.devId.getD 0, hops := 0, stop := stop
    repeated := repeated, tick := tick, timeNs := timeNs, correctionNs := 0, arg0 := arg0, arg1 := arg1
    seqno := seqno, leadNs := leadNs, crc := 0 }

/-- The next SEQNO of the master for a job (R58). -/
def nextSeq (s : State) (job : Nat) : State × Nat :=
  match jobAt s job with
  | some j => (s.onJob job (fun x => { x with seqno := (x.seqno + 1) % 2 ^ 32 }), (j.seqno + 1) % 2 ^ 32)
  | none => (s, 0)

/-- Send the first of a set of copies and keep the rest for BEACON_REPEAT_SEND (R59). -/
def sendSet (s : State) (job : Nat) (b : Beacon) (copies gapNs : Nat) : State :=
  (beaconDown s job b).onJob job (fun x =>
    { x with repeats := x.repeats ++ [{ beacon := b, left := copies, nextNs := s.nowNs + gapNs, gapNs := gapNs }] })

/-! ### Items and the end of a job's work (R57, R67) -/

/-- Release what a job holds at the gate for some of its ticks and remove its requests (R388). -/
def gateDrop (job : Nat) (p : Nat → Bool) (g : GateSt) : GateSt :=
  let stays := fun (r : GateReq) => decide (r.job ≠ job) || !p r.tick
  { g with
    queue := ⟨g.queue.t0.filter stays, g.queue.t1.filter stays⟩
    grants := g.grants.filter (fun r => decide (r.job ≠ job) || !p r.tick) }

/-- The quarter the array is on, where the entry it is on stays. -/
def mxStays (dead : List Nat) (c : Core) : Option Nat :=
  c.mxTaken.filter (fun q => ((tabGetD c.mxq q []).head?.map (fun m => !dead.contains m.slot)).getD false)

/-- End the crews of a job on a core: their gangs, matrix entries and chains go with them. A copy that is to reach HBM or a pinned bay is
drained: it stays until its last byte lands (R111). -/
def coreDrop (job : Nat) (c : Core) : Core :=
  let dead := (c.crews.filter (fun e => e.2.job = job)).map (·.1)
  { c with
    crews := c.crews.filter (fun e => e.2.job ≠ job)
    gangs := c.gangs.filter (fun e => !dead.contains (e.1 / 32))
    copies := c.copies.filter (fun a => decide (a.job ≠ job) || a.toGlobal.isSome)
    mxTaken := mxStays dead c
    mxq := c.mxq.map (fun e => (e.1, e.2.filter (fun m => !dead.contains m.slot)))
    chains := c.chains.map (fun e => (e.1, e.2.filter (fun m => !dead.contains m.slot)))
    l1rMiss := c.l1rMiss.map (fun e => (e.1, e.2.filter (fun t => !dead.contains t.2.g.slot))) }

/-- Bytes of a record (Table 5.7). -/
def recordBytes (h : SweepHdr) : Nat := 32 + 4 * h.dv

/-- Extents the header names: first byte, bytes, access. Records and output rows are taken as ENTRIES × G (DEDUCED, log 31). -/
def sweepExtents (h : SweepHdr) : List (Nat × Nat × Nat) :=
  let n := h.entries * h.g
  [(h.tableAddr, 32 * h.entries, 0)]
    ++ (if h.mode = 2 then [] else [(h.pageAddr, 16 * h.pages, 0)])
    ++ (if h.outAddr = 0 then [] else (h.outAddr, n * recordBytes h, 1) ::
          (if bitOf h.flags 0 then [(h.outAddr, n * recordBytes h, 0)] else []))
    ++ (if bitOf h.flags 1 && decide (h.mode ≠ 2) then [(h.finalAddr, n * 2 * h.dv, 1)] else [])

/-- Bytes whose content is undefined from now on: wherever they are held they take free values. -/
def undefine (a n : Nat) (s : State) : State :=
  let free := fun (x : Nat) => Config.leftByte s.freeCtr (x - a)
  let new := (List.range n).map (fun i => free (a + i))
  if 0x40000000000 ≤ a then s.draw.onLoft (fun x => { x with pinMem := memWrite x.pinMem a new })
  else (s.draw.onHbm (fun h => { h with mem := memWrite h.mem a new })).onLoft (fun x => { x with
    bulk := x.bulk.map (fun e => (e.1, { e.2 with
      data := e.2.data.mapIdx (fun i b => if a ≤ e.1 * 256 + i ∧ e.1 * 256 + i < a + n then free (e.1 * 256 + i) else b) })) })

/-- Record and output ranges of an operation: the rows at each group's OUT_INDEX (R152, R161). -/
def sweepOuts (o : SweepOp) : List (Nat × Nat) :=
  let h := o.hdr
  o.groups.flatMap (fun e =>
    (if h.outAddr = 0 then [] else [(h.outAddr + e.outIndex * recordBytes h, h.g * recordBytes h)])
      ++ (if bitOf h.flags 1 then [(h.finalAddr + e.outIndex * 2 * h.dv, h.g * 2 * h.dv)] else []))

/-- Queued and running sweeps of a job that end with fault status leave records and output rows undefined (R173). -/
def undefineSweeps (job : Nat) (s : State) : State :=
  (((s.press.queues.t0 ++ s.press.queues.t1).filter (fun o => decide (o.job = job))).flatMap sweepOuts).foldl
    (fun st x => undefine x.1 x.2 st) s

/-- Stop the units that work for a job on its running sheaf, and those on the items of the ticks `p` names: cores, sweep queues, copy
engines, sequencers, the gate (R33, R57, R111, R173, R282). -/
def dropWork (job : Nat) (p : Nat → Bool) (s0 : State) : State :=
  let s := undefineSweeps job s0
  let other := fun (o : SweepOp) => decide (o.job ≠ job)
  let later := fun (w : Nat × Nat × Nat) => decide (w.1 ≠ job)
  { s with
    cores := { s.cores with
      cores := s.cores.cores.map (fun e => (e.1, coreDrop job e.2))
      dispatch := s.cores.dispatch.filter (fun d => d.job ≠ job) }
    press := { s.press with
      queues := ⟨s.press.queues.t0.filter other, s.press.queues.t1.filter other⟩
      waiting := ⟨s.press.waiting.t0.filter later, s.press.waiting.t1.filter later⟩ }
    eng := { s.eng with
      runs := s.eng.runs.filter (fun r => decide (r.job ≠ job) || !p r.tick)
      progs := s.eng.progs.filter (fun q => q.job ≠ job) }
    gate := gateDrop job p s.gate }

/-- Stop every unit that works for a job. -/
def dropUnits (job : Nat) (s : State) : State := dropWork job (fun _ => true) s

/-- Items that are not done take an end state. -/
def endItems (e : ItemSt) (sh : Sheaf) : Sheaf :=
  { sh with items := sh.items.map (fun i => if i.st = .done then i else { i with st := e }) }

/-- The record of a tick, changed. -/
def onRec (tick : Nat) (f : TickRec → TickRec) (j : Job) : Job :=
  { j with records := j.records.map (fun r => if r.tick = tick then f r else r) }

/-- Add a record, keeping the last 16 ticks (R69). -/
def addRec (r : TickRec) (j : Job) : Job :=
  let rs := j.records.filter (fun x => x.tick ≠ r.tick) ++ [r]
  { j with records := rs.drop (rs.length - 16) }

/-- An empty record. -/
def TickRec.fresh (tick : Nat) : TickRec :=
  { tick := tick, state := 0, critFlag := false, faultCode := 0, itemsDone := 0, itemsTotal := 0,
    faultItem := noIndex, sUs := 0, dUs := 0, stageWaits := 0, gateWaitNs := 0, boundaryNs := 0 }

/-- Items of a sheaf that are done. -/
def itemsDone (sh : Sheaf) : Nat := sh.items.countP (fun i => decide (i.st = .done))

/-- Discard the sheaf admitted for the next tick (R67). -/
def discardNext (j : Job) : Job :=
  match j.next with
  | some n => onRec n.tick (fun r => { r with state := 7 }) { j with next := none }
  | none => j

/-- The job's part of a stop: its sheafs end and it enters `st`; the running tick's record takes `recState`, `code` and `item`. For
FAULT_ITEM, of which Table 2.19 does not say which item it names, `item` is the lowest unfinished one unless a gang's item is known
(DESIGN CHOICE, log 64). -/
def stopJobRec (st : JobState) (e : ItemSt) (recState code item : Nat) (j : Job) : Job :=
  let j1 := discardNext j
  let j2 := if j.state = .running then
      onRec j.tick (fun r => { r with
        state := if r.state = 4 ∨ (r.state = 6 ∧ recState = 7) then r.state else recState, faultCode := code, faultItem := item,
        itemsDone := (j.sheaf.map itemsDone).getD 0 }) j1
    else j1
  { j2 with sheaf := j2.sheaf.map (endItems e), state := st, phase := .idle, epoch := j2.epoch + 1, holds := [],
            repeats := j2.repeats.filter (fun r => decide (r.beacon.type = 6)) }

/-- Trace of the end of an item that has TRACE set (Table 16.9). -/
def traceItemEnd (j : Job) (item code : Nat) (i : Item) (s : State) : State :=
  if i.trace then
    traceRec 0 (if bitOf i.towers 0 then .t0 else .t1) 2 j.id j.tick
      (leBytes item 4 ++ leBytes code 2 ++ leBytes 0 2 ++ leBytes (min 0xFFFFFFFF (s.nowNs - i.startNs)) 4 ++ leBytes 0 4) s
  else s

/-- Result of DEBUG.DUMP (R472). -/
def dumpResult (state item bytes poison holdNs timeNs : Nat) : List Byte :=
  leBytes state 1 ++ leBytes 0 3 ++ leBytes item 4 ++ leBytes bytes 8 ++ leBytes poison 4 ++ leBytes (min 0xFFFFFFFF holdNs) 4 ++ leBytes timeNs 8

/-- An armed dump ends: its command completes with a result. -/
def dumpEnd (d : Dump) (result : List Byte) (s : State) : State :=
  let s1 := s.onObs (fun o => { o with dumps := o.dumps.filter (fun x => decide (x.mb ≠ d.mb)) })
  match startedCmd s1 d.mb 0x0904 with
  | some c => complete c stDone result s1
  | none => s1

/-- Dumps of a job end because their item will never complete. -/
def dumpsLost (job : Nat) (p : Dump → Bool) (s : State) : State :=
  (s.obs.dumps.filter (fun d => decide (d.job = job) && p d)).foldl (fun st d => dumpEnd d (dumpResult 2 (d.item.getD noIndex) 0 0 0 0) st) s

/-- The tick an event of a job belongs to: the start tick while it is ARMED. -/
def evTick (j : Job) : Nat := if j.state = .armed then j.startTick else j.tick

/-- Tick event detail (Table 2.21). -/
def tickDetail (j : Job) (code cause faultCode origin item : Nat) : List Byte :=
  leBytes code 2 ++ leBytes j.partition 1 ++ leBytes cause 1 ++ leBytes faultCode 2 ++ leBytes origin 2
    ++ leBytes (evTick j) 8 ++ leBytes j.sUs 4
    ++ leBytes ((j.cfg.map (fun c => delayOf c j.sUs)).getD 0) 4 ++ leBytes item 4 ++ leBytes 0 4

/-- TICK_OVERRUN, once for a tick that stretched, however it ends (R55). -/
def postOverrun (job : Nat) (s : State) : State :=
  match jobAt s job with
  | none => s
  | some j =>
    if j.sUs = 0 ∨ j.overrunPosted then s
    else postNotice evTickOverrun job (tickDetail j evTickOverrun (if j.sentHold then 1 else 0) 0 0xFFFF (lowestUnfinished j.sheaf))
      (s.onJob job (fun x => { x with overrunPosted := true }))

/-- The record of the running tick takes S and D (R69). -/
def recordStretch (job : Nat) (s : State) : State :=
  s.onJob job (fun j => onRec j.tick (fun r => { r with sUs := j.sUs, dUs := (j.cfg.map (fun c => delayOf c j.sUs)).getD 0 }) j)

/-- Requests of a tick of a job that wait at the gate, each once. -/
def gateWaiting (s : State) (job tick : Nat) : List GateReq :=
  (s.gate.queue.t0 ++ s.gate.queue.t1.filter (fun r => !bitOf r.towers 0)).filter (fun r => decide (r.job = job ∧ r.tick = tick))

/-- What they have waited so far, ns. -/
def waitsNow (s : State) (job tick : Nat) : Nat := ((gateWaiting s job tick).map (fun q => s.nowNs - q.askNs)).foldl (· + ·) 0

/-- The waits at the gate that end without a grant enter the record of a tick (R69). -/
def closeWaits (job tick : Nat) (s : State) : State :=
  s.onJob job (onRec tick (fun r => { r with gateWaitNs := r.gateWaitNs + waitsNow s job tick }))

/-- What the record of the running tick takes as the tick is stopped. -/
def closeRecord (job : Nat) (s : State) : State :=
  match jobAt s job with
  | some j => if j.state = .running then recordStretch job (closeWaits job j.tick (postOverrun job s)) else s
  | none => s

/-- The items of a job's running sheaf that run are traced as ending with a code. -/
def traceRunning (job code : Nat) (s : State) : State :=
  match jobAt s job with
  | none => s
  | some j => (((j.sheaf.map (·.items)).getD []).mapIdx (fun k i => (k, i))).foldl (fun z p =>
      if p.2.st = .running then traceItemEnd j p.1 code p.2 z else z) s

/-- Stop a job's work and change its state. -/
def stopJob (job : Nat) (st : JobState) (e : ItemSt) (recState code item : Nat) (s : State) : State :=
  dumpsLost job (fun _ => true) ((dropUnits job (traceRunning job code (closeRecord job s))).onJob job (stopJobRec st e recState code item))

/-- The master broadcasts the ABORT pair of a fault episode, once, and stops its own part of the job (R57, R59). -/
def masterAbort (job code origin : Nat) (s : State) : State :=
  match jobAt s job with
  | none => s
  | some j =>
    if (j.state = .armed ∨ j.state = .running) ∧ j.abortSent = false then
      let (s1, q) := nextSeq s job
      let b := newBeacon s1 6 job (evTick j) s1.nowNs code origin q 0 false false
      let s2 := stopJob job .faulted .faulted 5 code (lowestUnfinished j.sheaf) s1
      sendSet (s2.onJob job (fun x => { x with abortSent := true })) job b 1 2000
    else s

/-- JOB_FAULT_REPORT: post the fault and send FAULT to the master, which broadcasts ABORT (R57). -/
def jobFault (job code : Nat) (detail : List Byte) (s : State) : State :=
  let s1 := postEvent 1 code job detail s
  match jobAt s1 job with
  | none => s1
  | some j =>
    if isMaster s1 job then masterAbort job code (s1.fab.devId.getD 0) s1
    else beaconUp s1 job (newBeacon s1 5 job (evTick j) s1.nowNs code 0 (j.lastSeq.getD 0) 0 false false)

/-- The FAULTED end on receiving ABORT: TICK_FAULT cause 2, no FAULT sent (R57). -/
def abortReceived (job code origin : Nat) (s : State) : State :=
  match jobAt s job with
  | none => s
  | some j =>
    let s1 := postEvent 1 evTickFault job (tickDetail j evTickFault 2 code origin (lowestUnfinished j.sheaf)) s
    stopJob job .faulted .faulted 5 code (lowestUnfinished j.sheaf) s1

/-! ### Address spaces (R178, R213, R360) -/

/-- Bytes of a 2 MiB page or bay. -/
abbrev pageBytes : Nat := 0x200000

/-- First address of the pinned window (R178). -/
abbrev pinBase : Nat := 0x40000000000

end Sys2Proof.Machine
end

