-- ==== Sys2Proof/Machine/Memory.lean ====
section
/-! DEFINITION. Local addresses and where they lie; HBM blocks under the outer code; BULK lines, their placement, encoding and
eviction; and the reads and writes that engines, the floor and the MC make through them (06_loft.md, 07_cellar.md,
08_integrity.md). -/

namespace Sys2Proof.Machine

/-- Position of an HBM counter: 0 to 8 HBM_RD_BYTES, 9 to 17 HBM_WR_BYTES, 18 to 26 HBM_OVER_BUDGET by holder, then 27
HBM_TURNS, 28 HBM_ROW_CONFLICTS, 29 HBM_REF_NS, 30 HBM_CAP_STALLS, 31 HBM_UNBACKED. DEDUCED (log 21): counter, then
holder. -/
def ctrHbm (t : Tower) (k n : Nat) (s : State) : State := ctrAdd 4 (towerNum t * 32 + k) n s

/-! ### Where an address lies (R22, R178, R211 to R215) -/

/-- First address above HBM. -/
abbrev hbmTop : Nat := 0x14000000000

/-- First HBM address of tower 1 in tower-local mode. -/
abbrev hbmTower1 : Nat := 0x0A000000000

/-- Stack, channel, pseudo-channel, bank, row, column and byte of an HBM address (R210). -/
structure HbmLoc where
  stack : Nat
  channel : Nat
  pc : Nat
  bank : Nat
  row : Nat
  column : Nat
  byte : Nat
deriving DecidableEq, Repr

/-- The mapping of tower-local mode (R211). -/
def locLocal (a : Nat) : HbmLoc :=
  let t := if a ≥ hbmTower1 then 1 else 0
  let o := a - t * hbmTower1
  let row := o >>> 25
  { row := row
    bank := (o >>> 19) &&& 0x3f
    column := (o >>> 17) &&& 0x3
    pc := ((o >>> 16) ^^^ (o >>> 24)) &&& 0x1
    channel := ((o >>> 11) ^^^ row) &&& 0x1f
    stack := 8 * t + (((o >>> 8) ^^^ (o >>> 19)) &&& 0x7)
    byte := o &&& 0xff }

/-- The mapping of global mode (R212). -/
def locGlobal (a : Nat) : HbmLoc :=
  let q := a >>> 12
  let so := ((q >>> 4) <<< 12) ||| (a &&& 0xfff)
  let row := so >>> 22
  { row := row
    bank := (so >>> 16) &&& 0x3f
    column := (so >>> 14) &&& 0x3
    pc := ((so >>> 13) ^^^ (so >>> 21)) &&& 0x1
    channel := ((so >>> 8) ^^^ row) &&& 0x1f
    stack := (q ^^^ (q >>> 4) ^^^ (q >>> 8) ^^^ (q >>> 12)) &&& 0xf
    byte := so &&& 0xff }

/-- The mapping in force. -/
def locOf (s : State) (a : Nat) : HbmLoc := if s.hbm.globalHoming then locGlobal a else locLocal a

/-- Address of the pinned window (R178). -/
def isPinned (a : Nat) : Bool := decide (pinBase ≤ a ∧ a < pinBase + 0x400000000)

/-- The tower an address is homed on (R21, R22, R178); tower 0 outside HBM and the window. -/
def homeTower (s : State) (a : Nat) : Tower :=
  if a < hbmTop then (if (locOf s a).stack < 8 then .t0 else .t1)
  else if isPinned a then towerOf (bitsOf (a - pinBase) 33 33) else .t0

/-- Addresses of HBM that no row backs, and addresses outside HBM (R213). -/
def unbacked (s : State) (a : Nat) : Bool := decide (hbmTop ≤ a) || decide (20464 ≤ (locOf s a).row)

/-- A byte range meets a region. -/
def meets (lo n : Nat) (r : Region) : Bool := decide (lo < r.base + r.bytes) && decide (r.base < lo + n)

/-- The mirror cellar of either tower holds the address (R215). -/
def inMirror (s : State) (a : Nat) : Bool := meets a 1 s.hbm.mirror.t0 || meets a 1 s.hbm.mirror.t1

/-- The MC firmware region of the homing in force (R214). -/
def mcRegion (global : Bool) : Region :=
  if global then { base := 0x13F80000000, bytes := 0x40000000 } else { base := 0x13FA0000000, bytes := 0x40000000 }

def inMcRegion (s : State) (a : Nat) : Bool := meets a 1 (mcRegion s.hbm.globalHoming)

/-- Number of the bay that holds an address of the window: (address − 0x400_0000_0000) ÷ 2 MiB. -/
def bayNum (a : Nat) : Nat := (a - pinBase) / pageBytes

/-- The pinned bay that holds an address. -/
def bayAt (s : State) (a : Nat) : Option Bay := if isPinned a then tabGet s.loft.bays (bayNum a) else none

/-- Tower, bank column, row, die of the tower (0 A, 1 B) and offset in the bank of a pinned address (Table 6.2). -/
def pinLoc (layout a : Nat) : Nat × Nat × Nat × Nat × Nat :=
  let o := a - pinBase
  let x := o % pageBytes
  let c := bitsOf o 29 21; let r := bitsOf o 32 30; let t := bitsOf o 33 33
  if layout = 1 then (t, c, r, (if x < 0x100000 then 0 else 1), r * 0x100000 + x % 0x100000)
  else (t, c, r, (x / 256) % 2, r * 0x100000 + (x / 512) * 256 + x % 256)

/-! ### Events of memory (Table 8.12) -/

/-- Running tick of a tower's job. -/
def tickOf (s : State) (t : Tower) : Nat := ((jobOfTower s t).map (·.tick)).getD 0

/-- Memory event detail. -/
def memDetail (s : State) (code : Nat) (t : Tower) (source unit channel bank symbols row loftBank job holder flags addr : Nat) :
    List Byte :=
  leBytes code 2 ++ leBytes (towerNum t) 1 ++ leBytes source 1 ++ leBytes unit 1 ++ leBytes channel 1 ++ leBytes bank 1
    ++ leBytes symbols 1 ++ leBytes row 2 ++ leBytes loftBank 2 ++ leBytes job 2 ++ leBytes holder 1 ++ leBytes flags 1
    ++ leBytes addr 8 ++ leBytes (tickOf s t) 8

/-! ### HBM blocks -/

/-- First address of the 64-byte block. -/
def blockOf (a : Nat) : Nat := a / 64 * 64

/-- Key of a pseudo-channel. -/
def pcKey (l : HbmLoc) : Nat := l.stack * 64 + l.channel * 2 + l.pc

/-- What the outer decoder makes of a block (R238). -/
def hbmDecode (s : State) (a : Nat) : Decoded :=
  match tabGet s.hbm.marks (a / 64) with
  | none => .clean
  | some e => rsDecode s.hbm.detect (tabGetD s.hbm.failedPins (pcKey (locOf s a)) []) e

/-- XOR of two byte lists. -/
def xorBytes (a b : List Byte) : List Byte := a.zipWith (· ^^^ ·) b

/-- The data an access returns, and whether it is poison. -/
def hbmData (s : State) (a : Nat) : List Byte × Bool :=
  let b := blockOf a
  let raw := memRead s.hbm.mem b 64
  match tabGet s.hbm.marks (a / 64) with
  | none => (raw, false)
  | some e =>
    match hbmDecode s a with
    | .clean => (xorBytes raw (marksToBytes e), false)
    | .corrected f => (xorBytes (xorBytes raw (marksToBytes e)) (marksToBytes f), false)
    | .poison => (raw, true)
    | .uncorrectable => (raw, true)

/-- Set the error pattern of a block. -/
def setMarks (a : Nat) (e : List (Nat × Byte)) (s : State) : State :=
  s.onHbm (fun h => { h with marks := if e = [] then tabDel h.marks (a / 64) else tabPut h.marks (a / 64) e })

/-- An armed flip mask of the stack meets an agent's write of its block: its masks are XORed in, or the block is stored as poison,
and it disarms (R255). -/
def applyFlip (a : Nat) (s : State) : State :=
  let st := (locOf s a).stack
  match tabGet s.hbm.armed st with
  | some f =>
    if blockOf f.addr = blockOf a then
      let e := xorMarks (bytesToMarks f.dataMask)
        (((List.range 4).map (fun j => (j, f.checkMask.getD j 0))).filter (fun p => p.2 ≠ 0#8))
      (setMarks a (if f.poison then poisonMask else xorMarks (tabGetD s.hbm.marks (a / 64) []) e) s).onHbm (fun h => { h with
        armed := tabDel h.armed st })
    else s
  | none => s

/-- Base priorities of Table 7.5. -/
def prioDefault (h : Nat) : Nat := [6, 6, 4, 3, 2, 4, 5, 3, 1].getD h 0

/-- A holder's defaults (Table 7.5). -/
def Holder.fresh (h : Nat) : Holder :=
  { basePrio := prioDefault h, targetNs := 0, budgetMbps := 0xFFFFFFFF, mean16 := 0, samples := 0, windowBytes := 0 }

/-- A holder's record in a tower. -/
def holderOf (s : State) (t : Tower) (h : Nat) : Holder := tabGetD s.hbm.holders (towerNum t * 16 + h) (Holder.fresh h)

/-- Change a holder's record. -/
def onHolder (t : Tower) (h : Nat) (f : Holder → Holder) (s : State) : State :=
  s.onHbm (fun x => { x with holders := tabPut x.holders (towerNum t * 16 + h) (f (holderOf s t h)) })

/-- Bytes of a holder's requests accepted in the budget window (R228), and the byte counters. -/
def hbmCharge (t : Tower) (holder : Nat) (write : Bool) (n : Nat) (s : State) : State :=
  let s1 := onHolder t holder (fun r => { r with windowBytes := r.windowBytes + n }) s
  ctrHbm t ((if write then 9 else 0) + holder) n s1

/-- Store a block at the DRAM: an agent's write, which an armed flip mask meets. -/
def hbmStoreBlock (a : Nat) (data : List Byte) (poison : Bool) (s : State) : State :=
  let b := blockOf a
  let s1 := s.onHbm (fun h => { h with mem := memWrite h.mem b data })
  applyFlip b (setMarks b (if poison then poisonMask else []) s1)

/-- Complete every owned mailbox with a status, without a message (R245, R371). -/
def failMailboxes (status : Nat) (s : State) : State :=
  (List.range 64).foldl (fun st mb =>
    if st.host.own.getLsbD mb then
      let h := (tabGet st.host.taken mb).map (·.handoffNs)
      let h2 := ((st.host.handed.find? (fun x => x.mb = mb)).map (·.atNs))
      (mbFinish st mb ((h.orElse (fun _ => h2)).getD st.nowNs) status []).onHost
        (fun x => { x with handed := x.handed.filter (fun y => y.mb ≠ mb) })
    else st) s

/-- R245 for the MC firmware region: the MC takes no more commands, and every mailbox reports DEVICE_FAULT. -/
def mcRegionFault (detail : List Byte) (s : State) : State :=
  let s1 := postDeviceFault evHbmUncorrectable detail s
  failMailboxes stDeviceFault (noteStatus s1 (s1.onHost (fun h => { h with mcDown := true })))

/-- Post HBM_UNCORRECTABLE for a block read by a demand read (0) or a scrub (1): poisoned in place, not a job fault, except
in the MC firmware region (R245). -/
def hbmUncorrectable (source holder job a : Nat) (s : State) : State :=
  let l := locOf s a
  let mc := inMcRegion s a
  let d := memDetail s evHbmUncorrectable (homeTower s a) source l.stack l.channel (l.pc * 64 + l.bank) 0xFF l.row 0xFFFF
    (if mc then 0 else job) holder (2 + (if mc then 8 else 0)) (blockOf a)
  let s1 := setMarks a poisonMask s
  if mc then mcRegionFault d s1 else postNotice evHbmUncorrectable job d s1

/-- Whether 1,024 accesses lie within 1 ms, times newest first. -/
def pinReached (ts : List Nat) : Bool :=
  match ts[1023]? with
  | some old => decide (ts.headD 0 < old + 1000000)
  | none => false

/-- Tally of corrected accesses whose errors lie in one pin's two symbols: the times of the last 1,024 of them, and whether 1,024
have ever come within 1 ms (R239). -/
def pinTally (l : HbmLoc) (e : List (Nat × Byte)) (s : State) : State :=
  match e with
  | (n, _) :: rest =>
    let p := (n - 4) % 32
    if 4 ≤ n ∧ rest.all (fun x => decide (4 ≤ x.1 ∧ (x.1 - 4) % 32 = p)) then
      let k := pcKey l * 32 + p
      let (ts, hit) := tabGetD s.hbm.pinTally k ([], false)
      let ts1 := (s.nowNs :: ts).take 1024
      s.onHbm (fun h => { h with pinTally := tabPut h.pinTally k (ts1, hit || pinReached ts1) })
    else s
  | [] => s

/-- Note a corrected pattern among those seen at one place: seen again at least 1 s after its first sighting it is persistent,
whatever other patterns came between (R250). -/
def sighted {α : Type} [DecidableEq α] (now : Nat) (e : α) : List (α × Nat × Bool) → List (α × Nat × Bool)
  | [] => [(e, now, false)]
  | (p, t, k) :: rest =>
    if p = e then (p, t, k || decide (t + 1000000000 ≤ now)) :: rest else (p, t, k) :: sighted now e rest

/-- A sighting of a corrected pattern of a block (R250). -/
def noteSighting (a : Nat) (e : List (Nat × Byte)) (s : State) : State :=
  s.onHbm (fun h => { h with
    sightings := tabPut h.sightings (a / 64) (sighted s.nowNs e (tabGetD h.sightings (a / 64) [])) })

/-- What a read of a block does beside returning data: counts, tallies, and R245 (R238, R239, R256). -/
def hbmDecodeEffects (source holder job a : Nat) (s : State) : State :=
  let l := locOf s a
  match hbmDecode s a with
  | .clean => s
  | .corrected e =>
    noteSighting a e (pinTally l e (ctrAdd 5 (l.stack * 5 + (if e.length ≤ 1 then 0 else 1)) 1 s))
  | .poison => ctrAdd 5 (l.stack * 5 + 3) 1 s
  | .uncorrectable => hbmUncorrectable source holder job a (ctrAdd 5 (l.stack * 5 + 2) 1 s)

/-! ### BULK placement (R187, R188) -/

/-- The usable column a column number stands for: itself, or the next above it that is not retired, wrapping. -/
def usableColumn (retired : List Nat) (c : Nat) : Nat :=
  ((List.range 512).find? (fun i => !retired.contains ((c + i) % 512))).map (fun i => (c + i) % 512) |>.getD c

/-- Bank column of a line address. -/
def bulkColumn (s : State) (t : Tower) (la : Nat) : Nat :=
  usableColumn (s.loft.tw.get t).retired ((la ^^^ (la >>> 9) ^^^ (la >>> 18) ^^^ (la >>> 27)) &&& 0x1ff)

/-- Bucket and set of a line address. -/
def bulkBucket (la : Nat) : Nat := ((la >>> 19) ^^^ (la >>> 25)) &&& 0x3f
def bulkSet (la : Nat) : Nat := ((la >>> 9) ^^^ (la >>> 19)) &&& 0x3ff

/-- Initial frame table of a column (R188). -/
def frameInit (c : Nat) : List Nat := (List.range 64).map (fun u => if c < 384 then u % 8 else u % 7)

/-- Frame table in force. -/
def frameTable (s : State) (t : Tower) (c : Nat) : List Nat := tabGetD (s.loft.tw.get t).frames c (frameInit c)

/-- Rows of a column pinned in a tower. -/
def pinnedRows (s : State) (t : Tower) (c : Nat) : List Nat :=
  (List.range 8).filter (fun r => (tabGet s.loft.bays (towerNum t * 4096 + r * 512 + c)).isSome)

/-- Rows of a column that are BULK (Table 6.1). -/
def bulkRows (s : State) (t : Tower) (c : Nat) : List Nat :=
  (List.range (if c < 384 then 8 else 7)).filter (fun r => !(pinnedRows s t c).contains r)

/-- Buckets a row holds. -/
def bucketsOf (tab : List Nat) (r : Nat) : List Nat := (List.range 64).filter (fun u => tab.getD u 8 = r)

/-- The row with the fewest buckets, lowest row on a tie. -/
def fewest (tab rows : List Nat) : Option Nat :=
  rows.foldl (fun best r => match best with
    | none => some r
    | some b => if (bucketsOf tab r).length < (bucketsOf tab b).length then some r else some b) none

/-- The row with the most buckets, highest row on a tie. -/
def most (tab rows : List Nat) : Option Nat :=
  rows.foldl (fun best r => match best with
    | none => some r
    | some b => if (bucketsOf tab b).length ≤ (bucketsOf tab r).length then some r else some b) none

/-- A frame leaves BULK: its buckets pass in ascending order to the remaining frame with the fewest. -/
def frameLeaves (tab rows : List Nat) (r : Nat) : List Nat :=
  (bucketsOf tab r).foldl (fun tb u =>
    match fewest tb (rows.filter (· ≠ r)) with
    | some d => tb.set u d
    | none => tb) tab

/-- A frame joins BULK: it takes the highest bucket of the frame with the most until it holds ⌊64 ÷ b⌋. -/
def frameJoins (tab rows : List Nat) (r : Nat) : List Nat :=
  let b := (rows.filter (· ≠ r)).length + 1
  (List.range (64 / b)).foldl (fun tb _ =>
    match most tb (rows.filter (· ≠ r)) with
    | some d => (match (bucketsOf tb d).reverse with
        | u :: _ => tb.set u r
        | [] => tb)
    | none => tb) tab

/-! ### BULK encodings (R190) -/

/-- Words of `n` bytes of a line. -/
def wordsOf (n : Nat) (bs : List Byte) : List Nat := (List.range (bs.length / n)).map (fun i => fieldAt bs (n * i) n)

/-- Every word equals word 0 plus a signed delta of `d` bits, modulo 2^w. -/
def baseDelta (w d : Nat) (ws : List Nat) : Bool :=
  let b := ws.headD 0
  ws.all (fun x => let e := (x + 2 ^ w - b) % 2 ^ w
    decide (e < 2 ^ (d - 1)) || decide (2 ^ w - 2 ^ (d - 1) ≤ e))

/-- Exponent fields all lie within 7 below the largest. -/
def expWithin7 (es : List Nat) : Bool := let m := es.foldl max 0; es.all (fun e => decide (m ≤ e + 7))

/-- Whether an encoding applies to 256 bytes. -/
def encApplies (code : Nat) (bs : List Byte) : Bool :=
  if code = 0 then true
  else if code = 1 then bs.all (· == 0#8)
  else if code = 2 then baseDelta 64 8 (wordsOf 8 bs)
  else if code = 3 then baseDelta 64 16 (wordsOf 8 bs)
  else if code = 4 then baseDelta 64 32 (wordsOf 8 bs)
  else if code = 5 then baseDelta 32 8 (wordsOf 4 bs)
  else if code = 6 then baseDelta 32 16 (wordsOf 4 bs)
  else if code = 7 then expWithin7 ((wordsOf 2 bs).map (fun x => bitsOf x 14 7))
  else if code = 8 then
    (wordsOf 4 bs).all (fun x => x % 65536 = 0) && expWithin7 ((wordsOf 4 bs).map (fun x => bitsOf x 30 23))
  else (wordsOf 4 bs).all (fun x => x % 256 = 0) && expWithin7 ((wordsOf 4 bs).map (fun x => bitsOf x 30 23))

/-- Slots of an encoding (Table 6.6). -/
def encSlots (code : Nat) : Nat := [4, 1, 1, 2, 3, 2, 3, 3, 2, 3].getD code 4

/-- The encoding with the fewest slots, the lowest code among those. -/
def encBest (bs : List Byte) : Nat :=
  (List.range 10).foldl (fun best c =>
    if encApplies c bs && decide (encSlots c < encSlots best) then c else best) 0

/-- Numbers of `n` bits each, packed from the lowest bit up, as bytes (DEDUCED, log 52). -/
def packBits (n : Nat) (vs : List Nat) : List Byte :=
  leBytes ((vs.mapIdx (fun i v => v % 2 ^ n * 2 ^ (n * i))).foldl (· + ·) 0) (ceilDiv (n * vs.length) 8)

/-- The numbers that packBits packed. -/
def unpackBits (n count : Nat) (bs : List Byte) : List Nat :=
  let v := leNat bs
  (List.range count).map (fun i => v / 2 ^ (n * i) % 2 ^ n)

/-- Word bytes and delta bits of a base-delta encoding, codes 2 to 6. -/
def deltaForm (code : Nat) : Nat × Nat := [(8, 1), (8, 2), (8, 4), (4, 1), (4, 2)].getD (code - 2) (4, 2)

/-- Bytes of a value, place of its exponent field, and kept bits (sign and mantissa) of an exponent packing, codes 7 to 9. -/
def packForm (code : Nat) : Nat × Nat × Nat := [(2, 7, 8), (4, 23, 8), (4, 23, 16)].getD (code - 7) (4, 23, 16)

/-- The bytes a line is stored as under an encoding (R190): the base word and the deltas in word order; the largest exponent, the
3-bit differences, then each value's mantissa bits with its sign above them. -/
def storedForm (code : Nat) (bs : List Byte) : List Byte :=
  if code = 0 then bs
  else if code = 1 then []
  else if code ≤ 6 then
    let (w, d) := deltaForm code
    let ws := wordsOf w bs
    let b := ws.headD 0
    leBytes b w ++ ws.flatMap (fun x => leBytes ((x + 256 ^ w - b) % 256 ^ w) d)
  else
    let (w, x, k) := packForm code
    let vs := wordsOf w bs
    let e := fun (v : Nat) => bitsOf v (x + 7) x
    let m := (vs.map e).foldl max 0
    let keep := fun (v : Nat) => v / 2 ^ (8 * w - 1) * 2 ^ (k - 1) + v % 2 ^ x / 2 ^ (x + 1 - k)
    leBytes m 1 ++ packBits 3 (vs.map (fun v => m - e v)) ++ packBits k (vs.map keep)

/-- The 256 bytes that a stored form stands for. -/
def formDecode (code : Nat) (f : List Byte) : List Byte :=
  if code = 0 then sliceBytes f 0 256
  else if code = 1 then List.replicate 256 0#8
  else if code ≤ 6 then
    let (w, d) := deltaForm code
    let b := fieldAt f 0 w
    (List.range (256 / w)).flatMap (fun i =>
      let v := fieldAt f (w + d * i) d
      let sx := if 256 ^ d ≤ 2 * v then v + 256 ^ w - 256 ^ d else v
      leBytes ((b + sx) % 256 ^ w) w)
  else
    let (w, x, k) := packForm code
    let n := 256 / w
    let m := fieldAt f 0 1
    let ds := unpackBits 3 n (sliceBytes f 1 (ceilDiv (3 * n) 8))
    let ks := unpackBits k n (sliceBytes f (1 + ceilDiv (3 * n) 8) (n * k / 8))
    (List.range n).flatMap (fun i =>
      let v := ks.getD i 0
      leBytes (v / 2 ^ (k - 1) * 2 ^ (8 * w - 1) + (m + 256 - ds.getD i 0) % 256 * 2 ^ x + v % 2 ^ (k - 1) * 2 ^ (x + 1 - k)) w)

/-! ### Physical words of the loft (R178, R187, R240, R241) -/

/-- Key of a loft word: die (0 to 3), bank, line of the bank, word of the line. -/
def wordKey (die bank line word : Nat) : Nat := ((die * 512 + bank) * 32768 + line) * 32 + word

/-- Key of the word that holds a pinned byte. -/
def pinWord (layout a : Nat) : Nat :=
  let (t, c, _, b, off) := pinLoc layout a
  wordKey (t * 2 + b) c (off / 256) (off % 256 / 8)

/-- Key of stored word w (8 bytes) of a BULK line, in the slots it holds. -/
def bulkWord (l : BulkLine) (w : Nat) : Nat :=
  let k := ((List.range 32).filter (fun i => bitOf l.slots i)).getD (w / 8) 0
  let off := l.row * 0x100000 + (l.set % 512) * 2048 + k * 64 + (w % 8) * 8
  wordKey (towerNum l.tower * 2 + l.set / 512) l.col (off / 256) (off % 256 / 8)

/-- Key of word w of a FINE line (R196). -/
def fineWord (t : Tower) (l : FineLine) (w : Nat) : Nat :=
  let off := 7 * 0x100000 + (l.set % 512) * 2048 + l.way * 128 + w * 8
  wordKey (towerNum t * 2 + l.set / 512) l.frame (off / 256) (off % 256 / 8)

/-- Loft die of a word key. -/
def dieOfWord (k : Nat) : Nat := k / (32 * 32768 * 512)

/-- Stored words of a BULK line; a ZERO line has none that is read (R190). -/
def storedWords (l : BulkLine) : Nat := if l.enc = 1 then 0 else ceilDiv ((storedForm l.enc l.data).length) 8

/-- What the decoder leaves of an error mask in the data it answers: one bit is corrected where the syndrome names it (R240). -/
def residual (m : BitVec 72) : BitVec 64 :=
  let y := hsiaoSyndrome m
  let r := if y = 0 then m else match hsiaoBit y with
    | some j => m ^^^ (1#72 <<< j)
    | none => m
  r.setWidth 64

/-- Eight bytes of a word that its error mask leaves wrong. -/
def residualBytes (flips : Tab (BitVec 72)) (k : Nat) : List Byte :=
  match tabGet flips k with
  | none => List.replicate 8 0#8
  | some m => leBytes (residual m).toNat 8

/-- The bytes of a BULK line as its words decode. -/
def bulkView (s : State) (l : BulkLine) : List Byte :=
  if s.loft.flips = [] then l.data
  else
    let n := storedWords l
    let r := (List.range n).flatMap (fun w => residualBytes s.loft.flips (bulkWord l w))
    if r.all (· == 0#8) then l.data
    else formDecode l.enc (xorBytes (sliceBytes (storedForm l.enc l.data) 0 (8 * n)) r)

/-- Pinned bytes as their words decode. -/
def pinView (s : State) (a n : Nat) : List Byte :=
  let d := memRead s.loft.pinMem a n
  if s.loft.flips = [] ∨ n = 0 then d
  else
    let lay := ((bayAt s a).map (·.layout)).getD 0
    let w := a / 8
    let r := (List.range ((a + n - 1) / 8 - w + 1)).flatMap (fun i => residualBytes s.loft.flips (pinWord lay ((w + i) * 8)))
    xorBytes d (sliceBytes r (a % 8) n)

/-! ### Decoding of loft words (R240, R243, R245, R256) -/

/-- The syndrome a word is read with: that of its error mask, all ones added where its sector is stored as poison. -/
def wordSyndrome (flips : Tab (BitVec 72)) (k : Nat) (poison : Bool) : Nat :=
  hsiaoSyndrome (tabGetD flips k 0#72) ^^^ (if poison then 0xFF else 0)

/-- A syndrome that names no single bit, and is not 0. -/
def badSyndrome (x : Nat) : Bool := decide (x ≠ 0) && (hsiaoBit x).isNone

/-- What a 32-byte sector of four words reads as: 0 clean, 1 corrected, 2 poison, 3 uncorrectable (R240, R243). -/
def sectorRead (syns : List Nat) : Nat :=
  if 3 ≤ (syns.filter (· = 0xFF)).length ∧ syns.all (fun x => x = 0xFF || (hsiaoBit (x ^^^ 0xFF)).isSome) then 2
  else if syns.all (· = 0) then 0
  else if syns.any badSyndrome then 3
  else 1

/-- Counters of a loft die: 0 LOFT_CORR, 1 LOFT_UE, 2 LOFT_POISON_READS (Table 16.6). -/
def ctrLoft (die k n : Nat) (s : State) : State := ctrAdd 5 (80 + die * 3 + k) n s

/-- A word is read corrected: counted, and its pattern noted (R250, R256). -/
def wordCorrected (k : Nat) (s : State) : State :=
  ctrLoft (dieOfWord k) 0 1 (s.onLoft (fun x => { x with
    sightings := tabPut x.sightings k (sighted s.nowNs (tabGetD x.flips k 0#72).toNat (tabGetD x.sightings k [])) }))

/-- Words of a sector, whose keys and stored poison are given, as a read finds them: what the sector reads as, the words corrected,
the words that are uncorrectable. -/
def sectorWords (s : State) (ks : List Nat) (poison : Bool) : Nat × List Nat × List Nat :=
  let syn := fun k => wordSyndrome s.loft.flips k poison
  (sectorRead (ks.map syn), ks.filter (fun k => decide (syn k ≠ 0) && !badSyndrome (syn k)), ks.filter (fun k => badSyndrome (syn k)))

/-- LOFT_UNCORRECTABLE for a pinned sector or a dirty BULK line (R245, R257): the line and bank of the bad word. -/
def postLoftUncorrectable (t : Tower) (source key job holder addr : Nat) (s : State) : State :=
  let die := dieOfWord key
  postNotice evLoftUncorrectable job (memDetail s evLoftUncorrectable t source die 0xFF 0xFF 0xFF (key / 32 % 32768)
    (key / (32 * 32768) % 512) job holder 2 addr) s

/-- Sectors of a BULK line that are read: those of its valid quarters, or all stored ones of a compressed line. -/
def lineSectors (l : BulkLine) : List Nat :=
  (List.range (ceilDiv (storedWords l) 4)).filter (fun i => decide (l.enc ≠ 0) || l.valid.getLsbD (i / 2))

/-- The stored words of a BULK line as a read finds them: sectors newly recognised as poison, words corrected, words that are
uncorrectable, sectors that hold those. -/
def lineDecode (s : State) (l : BulkLine) : BitVec 8 × List Nat × List Nat × BitVec 8 :=
  (lineSectors l).foldl (fun acc i =>
    let ks := (List.range 4).map (fun w => bulkWord l (4 * i + w))
    let (r, cor, bad) := sectorWords s ks (l.enc == 0 && l.poison.getLsbD i)
    let bit : BitVec 8 := BitVec.ofNat 8 (2 ^ i)
    if r = 2 then (acc.1 ||| bit, acc.2)
    else if r = 3 then (acc.1, acc.2.1 ++ cor, acc.2.2.1 ++ bad, acc.2.2.2 ||| bit)
    else (acc.1, acc.2.1 ++ cor, acc.2.2)) (0#8, [], [], 0#8)

/-- Sectors of a line's poison mask. -/
def popSectors (m : BitVec 8) : Nat := ((List.range 8).filter (fun i => m.getLsbD i)).length

/-- A dirty line is read to be written back: corrections are counted, an uncorrectable word is posted, and the sectors that leave as
poison are answered: all of a compressed line (R244, R245, log 22). -/
def evictCheck (l : BulkLine) (s : State) : State × BitVec 8 :=
  if s.loft.flips = [] then
    (if l.poison = 0#8 then s else ctrLoft (dieOfWord (bulkWord l 0)) 2 (popSectors l.poison) s, l.poison)
  else
    let (pz, cor, bad, bz) := lineDecode s l
    let all := fun (m : BitVec 8) => if m = 0#8 ∨ l.enc = 0 then m else 0xFF#8
    let s1 := cor.foldl (fun st k => wordCorrected k st) (ctrLoft (dieOfWord (bulkWord l 0)) 2 (popSectors (pz ||| l.poison)) s)
    (match bad with
      | [] => s1
      | k :: _ => postLoftUncorrectable l.tower 0 k ((jobOfTower s l.tower).elim 0 (·.id)) 2 0
          (ctrLoft (dieOfWord k) 1 bad.length s1),
     l.poison ||| all pz ||| all bz)

/-- Clear the error masks of words. -/
def clearFlips (ks : List Nat) (s : State) : State :=
  if s.loft.flips = [] then s
  else s.onLoft (fun x => { x with flips := ks.foldl (fun f k => tabDel f k) x.flips })

/-- Words of a line's slots are written anew (R240). -/
def clearSlots (l : BulkLine) (s : State) : State :=
  if s.loft.flips = [] then s
  else clearFlips ((List.range (8 * ((List.range 32).filter (fun i => bitOf l.slots i)).length)).map (bulkWord l)) s

/-! ### Vertical beats -/

/-- Counters of an interface: 0 VL_CORR, 1 VL_REPLAYS, 2 VL_SPARES (Table 16.6). -/
def ctrVlAt (t : Tower) (iface k n : Nat) (s : State) : State := ctrAdd 5 (92 + (towerNum t * 6 + iface) * 3 + k) n s

/-- Channel port, bank column or cluster region that a bond group serves (R13, R16). -/
def groupUnit (iface group : Nat) : Nat :=
  if iface < 2 then group / 5 else if iface < 4 then group / 8 else if iface = 4 then group / 384 else group / 192

/-- The next beat a bond group drives meets an armed flip mask, which disarms: a beat the code corrects is counted, any other is
replayed (R242, R255). The first traffic of the group's port, column or region is taken to use the group (DESIGN CHOICE, log 53). -/
def beatMeets (t : Tower) (iface unit : Nat) (s : State) : State :=
  if s.hbm.armed = [] then s
  else
    let u := 20 + 6 * towerNum t + iface
    match tabGet s.hbm.armed u with
    | none => s
    | some f =>
      if groupUnit iface f.group ≠ unit then s
      else
        let m : BitVec 72 := BitVec.ofNat 72 (fieldAt f.dataMask 0 8 + fieldAt f.checkMask 0 1 * 2 ^ 64)
        let s1 := s.onHbm (fun h => { h with armed := tabDel h.armed u })
        let y := hsiaoSyndrome m
        if y = 0 then s1 else ctrVlAt t iface (if (hsiaoBit y).isSome then 0 else 1) 1 s1

/-! ### Requests to the HBM channels (R216) -/

/-- Channel number of an address: stack × 32 + channel. -/
def chanOf (s : State) (a : Nat) : Nat := (locOf s a).stack * 32 + (locOf s a).channel

/-- An idle channel controller. -/
def Chan.idle : Chan := { input := [], queue := [], side := [], dirs := [], openRows := [] }

/-- The channel controller's record. -/
def chanAt (s : State) (k : Nat) : Chan := tabGetD s.hbm.chans k Chan.idle

/-- Every request a channel holds, in no order. -/
def Chan.reqs (c : Chan) : List HbmReq := c.queue ++ c.side ++ c.input

/-- Present a request at the port of its channel. -/
def hbmSend (a : Nat) (write : Bool) (data : List Byte) (poison : Bool) (holder : Nat) (early rx : Bool) (src : HbmSrc)
    (s : State) : State :=
  let k := chanOf s a
  let r : HbmReq := ⟨s.hbm.nextId, blockOf a, write, a % 64, data, poison, holder, s.nowNs, false, early, 0, rx, src⟩
  s.onHbm (fun h => { h with
    nextId := h.nextId + 1
    chans := tabPut h.chans k (let c := tabGetD h.chans k Chan.idle; { c with input := c.input ++ [r] }) })

/-- Overlay bytes on a block at an offset. -/
def overlay (base : List Byte) (off : Nat) (bs : List Byte) : List Byte :=
  base.take off ++ bs ++ base.drop (off + bs.length)

/-- A write merged into a block: data and poison, which a part of a block does not clear (R275). -/
def mergeWrite (r : HbmReq) (v : List Byte × Bool) : List Byte × Bool :=
  (overlay v.1 r.off r.data, r.poisoned || (decide (r.data.length < 64) && v.2))

/-- A request put among others in order of age. -/
def insertReq (r : HbmReq) : List HbmReq → List HbmReq
  | [] => [r]
  | x :: xs => if x.id < r.id then x :: insertReq r xs else r :: x :: xs

/-- A block as the next read to arrive at its channel finds it: the writes that the channel holds, oldest first, over the stored
block (R217). -/
def queuedView (s : State) (a : Nat) : List Byte × Bool :=
  if s.hbm.chans = [] then hbmData s a
  else (((chanAt s (chanOf s a)).reqs.filter (fun r => r.isWrite && decide (r.addr = blockOf a))).foldr insertReq []).foldl
    (fun v r => mergeWrite r v) (hbmData s a)

/-! ### Sets, victims, write-back (R194, R201) -/

/-- Lines of one set. -/
def linesOfSet (s : State) (t : Tower) (c r st : Nat) : List (Nat × BulkLine) :=
  s.loft.bulk.filter (fun e => decide (e.2.tower = t ∧ e.2.col = c ∧ e.2.row = r ∧ e.2.set = st))

/-- Free slots and tags of a set. -/
def freeSlots (ls : List (Nat × BulkLine)) : List Nat :=
  (List.range 32).filter (fun k => !ls.any (fun e => bitOf e.2.slots k))
def freeTags (ls : List (Nat × BulkLine)) : List Nat :=
  (List.range 32).filter (fun k => !ls.any (fun e => decide (e.2.tag = k)))

/-- A mask of slot numbers. -/
def slotMask (ks : List Nat) : Nat := ks.foldl (fun m k => m + 2 ^ k) 0

/-- Send the dirty quarters of a line to HBM, each as one write charged to CORE (R193, R224, R244). -/
def writeBackQuarters (la : Nat) (data : List Byte) (dirty : BitVec 4) (poison : BitVec 8) (s : State) : State :=
  (List.range 4).foldl (fun st q =>
    if dirty.getLsbD q then
      hbmSend (la * 256 + q * 64) true (sliceBytes data (q * 64) 64) (poison.getLsbD (2 * q) || poison.getLsbD (2 * q + 1))
        2 false false .other st
    else st) s

/-- Bytes a line's write-back carries. -/
def dirtyBytes (d : BitVec 4) : Nat := ((List.range 4).filter (fun q => d.getLsbD q)).length * 64

/-- The column's write-back buffer. -/
def wbOf (s : State) (t : Tower) (c : Nat) : List WbEntry := tabGetD (s.loft.tw.get t).wb c []

/-- The write-back buffer of a column is full. -/
def wbFull (s : State) (t : Tower) (c : Nat) : Bool := decide (8 ≤ (wbOf s t c).length)

/-- Set a list of a column, an empty one being absent. -/
def putList {α : Type} (m : Tab (List α)) (k : Nat) (l : List α) : Tab (List α) :=
  match l with
  | [] => tabDel m k
  | _ :: _ => tabPut m k l

/-- Finish the loft command of a mailbox: LOFT.PIN fills in PIN_US. -/
def loftFinish (mb : Nat) (result : List Byte) (s : State) : State :=
  match tabGet s.host.taken mb with
  | some c =>
    let res := if c.opcode = 0x0300 then
        result.take 0x10 ++ leBytes ((s.nowNs - c.takeNs) / 1000) 4 ++ result.drop 0x14 else result
    complete c stDone res s
  | none => s

/-- A line's write-back has been accepted: commands that wait for no more lines complete. -/
def loftWaited (la : Nat) (s : State) : State :=
  let w := s.loft.waiting.map (fun e => (e.1, e.2.1, e.2.2.1.erase la, e.2.2.2))
  let done := w.filter (fun e => e.2.2.1.isEmpty)
  done.foldl (fun st e => loftFinish e.1 e.2.2.2 st)
    (s.onLoft (fun x => { x with waiting := w.filter (fun e => !e.2.2.1.isEmpty) }))

/-- HBM accepts the oldest line of a column's write-back buffer: its dirty quarters go to the line's channel (R193, R201). -/
def wbPop (t : Tower) (c : Nat) (s : State) : State :=
  match wbOf s t c with
  | [] => s
  | e :: rest =>
    let s1 := s.onLoft (fun x => { x with tw := x.tw.mod t (fun w => { w with wb := putList w.wb c rest }) })
    loftWaited e.la (writeBackQuarters e.la e.data e.dirty e.poison s1)

/-- HBM accepts the buffered lines of a column in order, as many as `n`. -/
def wbPops (t : Tower) (c : Nat) : Nat → State → State
  | 0, s => s
  | n + 1, s => wbPops t c n (wbPop t c s)

/-- The write-backs of a column up to the last one of a line are accepted: what goes to HBM past BULK follows them (R201). -/
def wbDrain (la : Nat) (s : State) : State :=
  let t := homeTower s (la * 256)
  let c := bulkColumn s t la
  let ws := wbOf s t c
  wbPops t c (ws.length - (ws.reverse.takeWhile (fun w => decide (w.la ≠ la))).length) s

/-- Remove a line for good: counted as an early eviction while still marked staged (R208). -/
def dropLine (la : Nat) (l : BulkLine) (s : State) : State :=
  s.onLoft (fun x => { x with
    bulk := tabDel x.bulk la
    tw := if l.staged then x.tw.mod l.tower (fun w => { w with stageEarly := w.stageEarly + 256 }) else x.tw })

/-- A line's contents enter its column's write-back buffer. -/
def wbPush (la : Nat) (l : BulkLine) (s : State) : State :=
  let (s1, pz) := evictCheck l s
  s1.onLoft (fun x => { x with
    tw := x.tw.mod l.tower (fun w => { w with
      wb := tabPut w.wb l.col (tabGetD w.wb l.col [] ++
        [{ la := la, data := bulkView s l, valid := l.valid, dirty := l.dirty, poison := pz }]) }) })

/-- Move a dirty line to its column's write-back buffer, or drop a clean one. -/
def evictLine (la : Nat) (l : BulkLine) (s : State) : State :=
  dropLine la l (if l.dirty = 0#4 then s else wbPush la l s)

/-- Evict a line now: a full write-back buffer gives up its oldest line first, so that the order of write-backs is kept. -/
def evictNow (la : Nat) (l : BulkLine) (s : State) : State :=
  evictLine la l (if l.dirty ≠ 0#4 ∧ wbFull s l.tower l.col then wbPop l.tower l.col s else s)

/-- Raise the ages of unlocked lines until one is 3. -/
def ageSet (ls : List (Nat × BulkLine)) (s : State) : State :=
  let un := ls.filter (fun e => !e.2.locked)
  let m := un.foldl (fun a e => max a e.2.age) 0
  if un = [] ∨ m ≥ 3 then s
  else s.onLoft (fun x => { x with
    bulk := un.foldl (fun b e => tabMod b e.1 (fun l => { l with age := l.age + (3 - m) })) x.bulk })

/-- The victim of a set: the unlocked line of the highest age, lowest tag on a tie. -/
def victim (ls : List (Nat × BulkLine)) : Option (Nat × BulkLine) :=
  (ls.filter (fun e => !e.2.locked)).foldl (fun best e => match best with
    | none => some e
    | some b => if b.2.age < e.2.age ∨ (b.2.age = e.2.age ∧ e.2.tag < b.2.tag) then some e else some b) none

/-- Evict lines of a set, at most as many as the last number says, until `n` slots, and a tag if `tag`, are free; `keep` is not a
victim. None where every candidate is locked or the write-back buffer is full. -/
def makeRoom (t : Tower) (c r st n : Nat) (tag : Bool) (keep : Option Nat) : Nat → State → Option State
  | 0, s => some s
  | fuel + 1, s =>
    let ls := linesOfSet s t c r st
    if n ≤ (freeSlots ls).length ∧ (tag = false ∨ freeTags ls ≠ []) then some s
    else
      let s1 := ageSet (ls.filter (fun e => some e.1 ≠ keep)) s
      match victim ((linesOfSet s1 t c r st).filter (fun e => some e.1 ≠ keep)) with
      | none => none
      | some (la, l) =>
        if l.dirty ≠ 0#4 ∧ wbFull s1 t c then none
        else makeRoom t c r st n tag keep fuel (evictLine la l s1)

/-- Compression predictor (R192): whether a fill of an address is compressed, and the entry after it. `enc` is the best
encoding of the line. -/
def predict (ent : Nat × Nat) (enc : Nat) : Bool × (Nat × Nat) :=
  let saves := decide (encSlots enc < 4)
  let adj := fun v => if saves then min 3 (v + 1) else v - 1
  if 2 ≤ ent.1 then (true, (adj ent.1, ent.2))
  else if ent.2 + 1 ≥ 16 then (true, (adj ent.1, 0))
  else (false, (ent.1, ent.2 + 1))

/-- Key of a line's predictor entry (R192). -/
def predictKey (c la : Nat) : Nat := c * 256 + ((la * 256) >>> 21) % 256

/-- Encoding a fill stores a line under, and the loft after the predictor has been consulted. A line with an invalid quarter or a
poisoned sector is RAW and takes no part (R192, R193, R244). -/
def fillEnc (t : Tower) (c la : Nat) (data : List Byte) (valid : BitVec 4) (poison : BitVec 8) (s : State) : Nat × State :=
  if valid = 0xF#4 ∧ poison = 0#8 then
    let best := encBest data
    let (pack, ent) := predict (tabGetD (s.loft.tw.get t).predictor (predictKey c la) (0, 0)) best
    (if pack then best else 0, s.onLoft (fun x => { x with
      tw := x.tw.mod t (fun w => { w with predictor := tabPut w.predictor (predictKey c la) ent }) }))
  else (0, s)

/-- Place a filled or newly stored line in its set; none where it must wait. `valid` quarters hold data. -/
def placeLine (t : Tower) (la : Nat) (data : List Byte) (valid dirty : BitVec 4) (poison : BitVec 8) (staged fill : Bool)
    (s : State) : Option State :=
  let c := bulkColumn s t la
  let st := bulkSet la
  let r := (frameTable s t c).getD (bulkBucket la) 0
  let (enc, s0) := if fill then fillEnc t c la data valid poison s else (0, s)
  match makeRoom t c r st (encSlots enc) true none 4 s0 with
  | none => none
  | some s1 =>
    let ls := linesOfSet s1 t c r st
    match freeTags ls with
    | [] => none
    | tag :: _ =>
      if (freeSlots ls).length < encSlots enc then none
      else
        let line : BulkLine :=
          { data := data, enc := enc, slots := slotMask ((freeSlots ls).take (encSlots enc)), valid := valid,
            dirty := dirty, poison := poison, staged := staged, locked := false, age := 1, tag := tag, col := c, row := r,
            set := st, tower := t }
        some (clearSlots line (s1.onLoft (fun x => { x with bulk := tabPut x.bulk la line })))

/-- Store a present line's new contents in slots of its set under an encoding: its own, and more or fewer of them as it needs;
`bound` limits the evictions; `anew` says that every word is written. None where it must wait. -/
def fitLine (la : Nat) (l : BulkLine) (enc bound : Nat) (anew : Bool) (s : State) : Option State :=
  let mine := (List.range 32).filter (fun k => bitOf l.slots k)
  let put := fun (st : State) (ks : List Nat) =>
    let line := { l with enc := enc, slots := slotMask ks }
    let st1 := st.onLoft (fun x => { x with bulk := tabPut x.bulk la line })
    if anew then clearSlots line st1 else st1
  if encSlots enc ≤ mine.length then some (put s (mine.take (encSlots enc)))
  else match makeRoom l.tower l.col l.row l.set (encSlots enc - mine.length) false (some la) bound s with
    | none => none
    | some s1 =>
      let fs := freeSlots (linesOfSet s1 l.tower l.col l.row l.set)
      if fs.length < encSlots enc - mine.length then none
      else some (put s1 (mine ++ fs.take (encSlots enc - mine.length)))

/-- A store or reduction has given a present line new contents: a compressed line that is whole and unpoisoned is compressed again
(R193). None where it must wait for slots. -/
def rewriteLine (la : Nat) (l : BulkLine) (data : List Byte) (valid dirty : BitVec 4) (poison : BitVec 8) (s : State) :
    Option State :=
  let enc := if l.enc ≠ 0 ∧ valid = 0xF#4 ∧ poison = 0#8 then encBest data else 0
  fitLine la { l with data := data, valid := valid, dirty := dirty, poison := poison, age := 0 } enc 32
    (l.enc ≠ 0 || enc ≠ 0) s

/-- A fill merges into a present line, which takes age 1 and evicts at most 4 lines (R192 to R194). -/
def mergeLine (la : Nat) (l : BulkLine) (data : List Byte) (poison : BitVec 8) (staged : Bool) (s : State) : Option State :=
  let (enc, s1) := fillEnc l.tower l.col la data 0xF#4 poison s
  fitLine la { l with data := data, valid := 0xF#4, poison := poison, age := 1, staged := l.staged || staged } enc 4 true s1

/-- A poisoned line is stored RAW at once (R244): lines of its set are evicted for its slots, a full write-back buffer giving up
its oldest line. Where every other line of the set is locked it keeps the slots it has. -/
def poisonLine (la : Nat) (l : BulkLine) (poison : BitVec 8) (s : State) : State :=
  let l1 := { l with data := if l.enc = 0 then l.data else bulkView s l, poison := l.poison ||| poison }
  let s1 := if wbFull s l.tower l.col then wbPops l.tower l.col 4 s else s
  (fitLine la l1 0 4 (l.enc ≠ 0) s1).getD (s1.onLoft (fun x => { x with bulk := tabPut x.bulk la { l1 with enc := 0 } }))

/-! ### What an agent sees at an address now -/

/-- A quarter of an HBM line as the loft holds it: from BULK, else from the write-back buffer; data and the poison of its
two sectors. -/
def loftQuarter (s : State) (a : Nat) : Option (List Byte × Bool × Bool) :=
  let la := a / 256; let q := (a % 256) / 64
  let fromWb := fun (_ : Unit) =>
    let t := homeTower s a
    ((wbOf s t (bulkColumn s t la)).reverse.find? (fun w => decide (w.la = la) && w.valid.getLsbD q)).map
      (fun w => (sliceBytes w.data (q * 64) 64, w.poison.getLsbD (2 * q), w.poison.getLsbD (2 * q + 1)))
  match tabGet s.loft.bulk la with
  | some l =>
    if l.valid.getLsbD q then
      some (sliceBytes (bulkView s l) (q * 64) 64, l.poison.getLsbD (2 * q), l.poison.getLsbD (2 * q + 1))
    else fromWb ()
  | none => fromWb ()

/-- The 64 bytes at a block as an agent sees them now, and the poison of the two sectors (R198, R217, R244): pinned data in place;
HBM through BULK, the write-back buffer and the writes its channel holds. -/
def blockView (s : State) (a : Nat) : List Byte × Bool × Bool :=
  let b := blockOf a
  if isPinned b then
    (pinView s b 64, (tabGet s.loft.pinPoison (b / 32)).isSome, (tabGet s.loft.pinPoison (b / 32 + 1)).isSome)
  else match loftQuarter s b with
    | some r => r
    | none => let (d, p) := queuedView s b; (d, p, p)

/-- Blocks a byte range touches. -/
def blocksOf (a n : Nat) : List Nat :=
  if n = 0 then [] else (List.range ((a + n - 1) / 64 - a / 64 + 1)).map (fun i => (a / 64 + i) * 64)

/-- Bytes of a range as an agent sees them. -/
def viewBytes (s : State) (a n : Nat) : List Byte :=
  sliceBytes ((blocksOf a n).flatMap (fun b => (blockView s b).1)) (a % 64) n

/-- Addresses ÷ 32 of the poisoned sectors of a range. -/
def viewPoison (s : State) (a n : Nat) : List Nat :=
  ((blocksOf a n).flatMap (fun b =>
    let v := blockView s b
    (if v.2.1 then [b / 32] else []) ++ (if v.2.2 then [b / 32 + 1] else []))).filter
    (fun k => decide (a < (k + 1) * 32 ∧ k * 32 < a + n))

/-- A tower's job is in RUN (R206). -/
def inRun (s : State) (t : Tower) : Bool :=
  match jobOfTower s t with
  | some j => decide (j.phase = .run)
  | none => false

/-- Bits of a range of sectors of a line that a store touches. -/
def sectorBits (off n : Nat) : BitVec 8 :=
  BitVec.ofNat 8 (((List.range 8).filter (fun k => decide (off < (k + 1) * 32 ∧ k * 32 < off + n))).foldl (fun m k => m + 2 ^ k) 0)

/-- Quarters a store touches, and those it covers whole. -/
def quarterTouched (off n : Nat) : BitVec 4 :=
  BitVec.ofNat 4 (((List.range 4).filter (fun k => decide (off < (k + 1) * 64 ∧ k * 64 < off + n))).foldl (fun m k => m + 2 ^ k) 0)
def quarterCovered (off n : Nat) : BitVec 4 :=
  BitVec.ofNat 4 (((List.range 4).filter (fun k => decide (off ≤ k * 64 ∧ (k + 1) * 64 ≤ off + n))).foldl (fun m k => m + 2 ^ k) 0)

/-- Sectors a store covers whole. -/
def sectorCovered (off n : Nat) : BitVec 8 :=
  BitVec.ofNat 8 (((List.range 8).filter (fun k => decide (off ≤ k * 32 ∧ (k + 1) * 32 ≤ off + n))).foldl (fun m k => m + 2 ^ k) 0)

/-! ### Stores in the loft -/

/-- An armed flip mask of a loft die meets an agent's write of its word, whose key is among `ks`: the masks are XORed in, or the
word's sector is to be stored as poison, which is the second answer; it disarms (R255). -/
def applyLoftFlip (ks : List Nat) (s : State) : State × List Nat :=
  if s.hbm.armed = [] then (s, [])
  else ks.foldl (fun (acc : State × List Nat) k =>
    let st := acc.1
    let u := 16 + dieOfWord k
    match tabGet st.hbm.armed u with
    | some f =>
      if f.addr = k then
        let m : BitVec 72 := BitVec.ofNat 72 (fieldAt f.dataMask 0 8 + fieldAt f.checkMask 0 1 * 2 ^ 64)
        let st1 := st.onHbm (fun h => { h with armed := tabDel h.armed u })
        if f.poison then (st1, acc.2 ++ [k])
        else (st1.onLoft (fun x => { x with flips := tabPut x.flips k (tabGetD x.flips k 0#72 ^^^ m) }), acc.2)
      else acc
    | none => acc) (s, [])

/-- Store into a pinned bay in place: a word that is written in part is read, corrected and encoded anew (R240); 32-byte sectors
take the poison given. -/
def pinStore (a : Nat) (bs : List Byte) (pz : List Nat) (s : State) : State :=
  if bs = [] then s
  else
    let lay := ((bayAt s a).map (·.layout)).getD 0
    let w := a / 8
    let n := (a + bs.length - 1) / 8 - w + 1
    let whole := overlay (pinView s (w * 8) (n * 8)) (a % 8) bs
    let (wa, wb) := if s.loft.flips = [] then (a, bs) else (w * 8, whole)
    let ks := (List.range n).map (fun i => pinWord lay ((w + i) * 8))
    let (s1, bad) := applyLoftFlip ks (clearFlips ks s)
    let zs := pz ++ ((List.range n).filter (fun i => bad.contains (pinWord lay ((w + i) * 8)))).map (fun i => (w + i) / 4)
    s1.onLoft (fun x => { x with
      pinMem := memWrite x.pinMem wa wb
      pinPoison :=
        let sec := (List.range ((a + bs.length - 1) / 32 - a / 32 + 1)).map (fun i => a / 32 + i)
        let cleared := sec.foldl (fun p k => if a ≤ k * 32 ∧ (k + 1) * 32 ≤ a + bs.length then tabDel p k else p) x.pinPoison
        zs.foldl (fun p k => tabPut p k ()) cleared })

/-- Words of a line's data that a store touches meet armed flip masks: a target stored as poison poisons its sector, of a
compressed line the whole line (log 22). -/
def bulkFlips (la off n : Nat) (s : State) : State :=
  if s.hbm.armed = [] then s
  else match tabGet s.loft.bulk la with
    | none => s
    | some l =>
      let ks := if l.enc = 0 then (List.range ((off + n - 1) / 8 - off / 8 + 1)).map (fun i => bulkWord l (off / 8 + i))
        else (List.range (storedWords l)).map (bulkWord l)
      let (s1, bad) := applyLoftFlip ks s
      if bad = [] then s1
      else poisonLine la l (if l.enc = 0 then
        ((List.range 32).filter (fun w => bad.contains (bulkWord l w))).foldl (fun (m : BitVec 8) w => m ||| BitVec.ofNat 8 (2 ^ (w / 4))) 0#8
        else 0xFF#8) s1

/-- The data of a line that a store at an offset builds on: the words it touches, or all of a compressed line, as they decode. -/
def storeBase (s : State) (l : BulkLine) (off n : Nat) : List Byte :=
  if s.loft.flips = [] then l.data
  else if l.enc = 0 then
    let lo := off / 8 * 8; let hi := (off + n + 7) / 8 * 8
    l.data.take lo ++ sliceBytes (bulkView s l) lo (hi - lo) ++ l.data.drop hi
  else bulkView s l

/-- The words of a RAW line that a store touches are encoded anew. -/
def touchWords (l : BulkLine) (off n : Nat) (s : State) : State :=
  if l.enc = 0 then clearFlips ((List.range ((off + n + 7) / 8 - off / 8)).map (fun i => bulkWord l (off / 8 + i))) s else s

/-- Store into one BULK line, present or absent, that needs no fetch: every quarter it touches is valid or covered whole (R193).
`pz` are the sectors the store poisons. None where the set has no room. -/
def bulkStore (la off : Nat) (bs : List Byte) (pz : BitVec 8) (staged : Bool) (s : State) : Option State :=
  let touched := quarterTouched off bs.length
  (match tabGet s.loft.bulk la with
    | some l =>
      rewriteLine la l (overlay (storeBase s l off bs.length) off bs) (l.valid ||| touched) (l.dirty ||| touched)
        ((l.poison &&& ~~~ sectorCovered off bs.length) ||| pz) (touchWords l off bs.length s)
    | none =>
      placeLine (homeTower s (la * 256)) la (overlay (List.replicate 256 0#8) off bs) touched touched pz staged false s).map
    (bulkFlips la off bs.length)

/-- Pieces of a byte range cut at multiples of `k`. -/
def cutAt (k a : Nat) (bs : List Byte) : List (Nat × List Byte) :=
  if bs = [] then []
  else (List.range ((a + bs.length - 1) / k - a / k + 1)).map (fun i =>
    let lo := max a ((a / k + i) * k)
    let hi := min (a + bs.length) ((a / k + i + 1) * k)
    (lo, (bs.drop (lo - a)).take (hi - lo)))

/-- Pieces of an address range cut at multiples of `k`: first address and length. -/
def cutRange (k a n : Nat) : List (Nat × Nat) :=
  if n = 0 then []
  else (List.range ((a + n - 1) / k - a / k + 1)).map (fun i =>
    let lo := max a ((a / k + i) * k)
    (lo, min (a + n) ((a / k + i + 1) * k) - lo))

/-- 32-byte sectors (address ÷ 32) a range touches. -/
def sectorsOf (a n : Nat) : List Nat := if n = 0 then [] else (List.range ((a + n - 1) / 32 - a / 32 + 1)).map (fun i => a / 32 + i)

/-- FINE lines that a floor write touches are invalidated before it is applied (R197). -/
def fineInvalidate (a n : Nat) (s : State) : State :=
  if n = 0 ∨ isPinned a then s
  else
    let hit := fun (e : Nat × FineLine) => !(decide (a / 128 ≤ e.1) && decide (e.1 ≤ (a + n - 1) / 128))
    s.onLoft (fun x => { x with
      tw := ⟨{ x.tw.t0 with fine := x.tw.t0.fine.filter hit }, { x.tw.t1 with fine := x.tw.t1.fine.filter hit }⟩ })

/-! ### Field maps (R35, R40, R90, R179) -/

/-- Pages of an entry allow an access (bit 0 read, 1 write, 2 reduce) at an address. -/
def entryAllows (e : PageSet) (access a : Nat) : Bool :=
  decide (e.base ≤ a ∧ a < e.base + e.count * pageBytes) && bitOf e.access access

/-- An address lies in an entry, whatever the access. -/
def entryHolds (e : PageSet) (a : Nat) : Bool := decide (e.base ≤ a ∧ a < e.base + e.count * pageBytes)

/-- Pages a range touches, by first address. -/
def pagesOf (a n : Nat) : List Nat :=
  if n = 0 then [] else (List.range ((a + n - 1) / pageBytes - a / pageBytes + 1)).map (fun i => (a / pageBytes + i) * pageBytes)

/-- A page of the map allows an access: a bay must also be pinned by the job (R179). -/
def pageAllowed (s : State) (job : Nat) (map : List PageSet) (access page : Nat) : Bool :=
  map.any (fun e => entryAllows e access page)
    && (if isPinned page then decide ((bayAt s page).map (·.job) = some job) else true)

/-- A byte range lies in a job's field map with an access. -/
def rangeAllowed (s : State) (job : Nat) (access a n : Nat) : Bool :=
  match jobAt s job with
  | some j => (pagesOf a n).all (fun p => pageAllowed s job j.map access p)
  | none => false

/-- A byte range lies in page-set entries with an access. -/
def declared (ps : List PageSet) (access a n : Nat) : Bool :=
  (pagesOf a n).all (fun p => ps.any (fun e => entryAllows e access p))

end Sys2Proof.Machine
end

