-- ==== Sys2Proof/Machine/Numbers.lean ====
section
/-! DEFINITION. Number formats and exact arithmetic with explicit rounding (04_matrix.md R114 to R123, R136 to R138;
05_press.md R157, R168). A finite value is a sign, a magnitude and a power of two. -/

namespace Sys2Proof.Machine

/-- A value of a floating format. -/
inductive Num where
  | nan
  | inf (neg : Bool)
  | fin (neg : Bool) (m : Nat) (e : Int)
deriving DecidableEq, Repr

/-- Zero, +0. -/
abbrev Num.zero : Num := .fin false 0 0

/-- The parameters of a floating format: exponent bits, mantissa bits, bias, and its special values: 2 infinity and NaN, 1
NaN only (E4M3), 0 none. -/
structure FloatFmt where
  eb : Nat
  mb : Nat
  bias : Nat
  spec : Nat
deriving DecidableEq, Repr

def fmtFp32 : FloatFmt := { eb := 8, mb := 23, bias := 127, spec := 2 }
def fmtFp16 : FloatFmt := { eb := 5, mb := 10, bias := 15, spec := 2 }
def fmtBf16 : FloatFmt := { eb := 8, mb := 7, bias := 127, spec := 2 }
def fmtE4m3 : FloatFmt := { eb := 4, mb := 3, bias := 7, spec := 1 }
def fmtE5m2 : FloatFmt := { eb := 5, mb := 2, bias := 15, spec := 2 }
def fmtE3m2 : FloatFmt := { eb := 3, mb := 2, bias := 3, spec := 0 }
def fmtE2m3 : FloatFmt := { eb := 2, mb := 3, bias := 1, spec := 0 }
def fmtE2m1 : FloatFmt := { eb := 2, mb := 1, bias := 1, spec := 0 }

/-- The floating format of an element format; none for E8M0 and integers (Table 4.2). -/
def floatFmt : Elem → Option FloatFmt
  | .fp32 => some fmtFp32
  | .fp16 => some fmtFp16
  | .bf16 => some fmtBf16
  | .e4m3 => some fmtE4m3
  | .e5m2 => some fmtE5m2
  | .e3m2 => some fmtE3m2
  | .e2m3 => some fmtE2m3
  | .e2m1 => some fmtE2m1
  | .e8m0 => none
  | .int8 => none
  | .int4 => none
  | .int32 => none

/-- Bits of an element. -/
def elemBits : Elem → Nat
  | .fp32 => 32
  | .fp16 => 16
  | .bf16 => 16
  | .e4m3 => 8
  | .e5m2 => 8
  | .e3m2 => 6
  | .e2m3 => 6
  | .e2m1 => 4
  | .e8m0 => 8
  | .int8 => 8
  | .int4 => 4
  | .int32 => 32

/-- Value of the bits of a floating format. -/
def decodeFloat (f : FloatFmt) (w : Nat) : Num :=
  let m := w % 2 ^ f.mb
  let e := (w / 2 ^ f.mb) % 2 ^ f.eb
  let s := bitOf w (f.mb + f.eb)
  if f.spec = 2 ∧ e = 2 ^ f.eb - 1 then (if m = 0 then .inf s else .nan)
  else if f.spec = 1 ∧ e = 2 ^ f.eb - 1 ∧ m = 2 ^ f.mb - 1 then .nan
  else if e = 0 then .fin s m (1 - (f.bias : Int) - f.mb)
  else .fin s (m + 2 ^ f.mb) ((e : Int) - f.bias - f.mb)

/-- The largest finite value's exponent field and mantissa. -/
def maxFields (f : FloatFmt) : Nat × Nat :=
  if f.spec = 2 then (2 ^ f.eb - 2, 2 ^ f.mb - 1)
  else if f.spec = 1 then (2 ^ f.eb - 1, 2 ^ f.mb - 2)
  else (2 ^ f.eb - 1, 2 ^ f.mb - 1)

/-- Bits of sign, exponent field and mantissa field. -/
def packFields (f : FloatFmt) (s : Bool) (e m : Nat) : Nat :=
  (if s then 2 ^ (f.eb + f.mb) else 0) + e * 2 ^ f.mb + m

/-- Bits of the largest finite value. -/
def maxBits (f : FloatFmt) (s : Bool) : Nat := packFields f s (maxFields f).1 (maxFields f).2

/-- A rounding: nearest even, toward zero, or stochastic with the 16-bit value drawn. -/
inductive Rounding where
  | rn
  | rz
  | sr (r : Nat)
deriving DecidableEq, Repr

/-- Round the magnitude m × 2^−sh to an integer. -/
def roundShift (rd : Rounding) (m sh : Nat) : Nat :=
  let n := m / 2 ^ sh
  let rem := m % 2 ^ sh
  match rd with
  | .rn => if 2 ^ sh < 2 * rem ∨ (2 * rem = 2 ^ sh ∧ n % 2 = 1) then n + 1 else n
  | .rz => n
  | .sr r => if r < rem * 65536 / 2 ^ sh then n + 1 else n

/-- m × 2^e on the grid 2^q. -/
def roundGrid (rd : Rounding) (m : Nat) (e q : Int) : Nat :=
  if q ≤ e then m * 2 ^ (e - q).toNat else roundShift rd m (q - e).toNat

/-- ⌊log2 (m × 2^e)⌋ for m ≠ 0. -/
def floorLog2 (m : Nat) (e : Int) : Int := (m.log2 : Int) + e

/-- Quantum exponent of a magnitude in a format: that of its binade, subnormals included. -/
def quantum (f : FloatFmt) (m : Nat) (e : Int) : Int := max (floorLog2 m e) (1 - (f.bias : Int)) - f.mb

/-- Bits of n × 2^q, n at most 2^(mb+1), q the quantum; none where the value exceeds the largest finite one. -/
def packRounded (f : FloatFmt) (s : Bool) (n : Nat) (q : Int) : Option Nat :=
  let (n, q) := if n = 2 ^ (f.mb + 1) then (2 ^ f.mb, q + 1) else (n, q)
  if n < 2 ^ f.mb then some (packFields f s 0 n)
  else
    let e := (q + f.mb + f.bias).toNat
    let mx := maxFields f
    if mx.1 < e ∨ (e = mx.1 ∧ mx.2 < n - 2 ^ f.mb) then none else some (packFields f s e (n - 2 ^ f.mb))

/-- Bits of infinity. -/
def infBits (f : FloatFmt) (s : Bool) : Nat := packFields f s (2 ^ f.eb - 1) 0

/-- Bits of the canonical quiet NaN of a format that has NaN: 0x7FC0_0000 for FP32, 0x7FC0 for BF16. -/
def nanCanon (f : FloatFmt) : Nat :=
  if f.spec = 2 then packFields f false (2 ^ f.eb - 1) (2 ^ (f.mb - 1)) else packFields f false (2 ^ f.eb - 1) (2 ^ f.mb - 1)

/-- Encode a value (R121): a finite value beyond the range becomes infinity with RN where the format has one and `sat` is
not given, else the largest finite value. `nan` are the bits of a NaN; E4M3 takes NaN for infinity unless `sat`. -/
def encodeFloat (f : FloatFmt) (rd : Rounding) (sat : Bool) (nan : Nat) : Num → Nat
  | .nan => nan
  | .inf s => if f.spec = 2 ∧ sat = false then infBits f s else if f.spec = 2 then infBits f s
      else if f.spec = 1 ∧ sat = false then nan else maxBits f s
  | .fin s m e =>
    if m = 0 then packFields f s 0 0
    else match packRounded f s (roundGrid rd m e (quantum f m e)) (quantum f m e) with
      | some b => b
      | none => if rd = .rn ∧ f.spec = 2 ∧ sat = false then infBits f s else maxBits f s

/-- Integer of a signed magnitude. -/
def signed (s : Bool) (m : Nat) : Int := if s then -(m : Int) else m

/-- Exact value from an integer on the grid 2^e; an exact zero is +0 unless `negZero`. -/
def ofInt (v : Int) (e : Int) (negZero : Bool) : Num :=
  if v = 0 then .fin negZero 0 0 else .fin (decide (v < 0)) v.natAbs e

/-- Exact sum (IEEE 754: opposite infinities give NaN; an exact zero is +0 unless both are −0). -/
def numAdd : Num → Num → Num
  | .nan, _ => .nan
  | _, .nan => .nan
  | .inf a, .inf b => if a = b then .inf a else .nan
  | .inf a, _ => .inf a
  | _, .inf b => .inf b
  | .fin sa ma ea, .fin sb mb eb =>
    let q := min ea eb
    ofInt (signed sa ma * 2 ^ (ea - q).toNat + signed sb mb * 2 ^ (eb - q).toNat) q (sa && sb)

/-- Exact product. -/
def numMul : Num → Num → Num
  | .nan, _ => .nan
  | _, .nan => .nan
  | .inf a, .inf b => .inf (a != b)
  | .inf a, .fin sb mb _ => if mb = 0 then .nan else .inf (a != sb)
  | .fin sa ma _, .inf b => if ma = 0 then .nan else .inf (sa != b)
  | .fin sa ma ea, .fin sb mb eb => .fin (sa != sb) (ma * mb) (ea + eb)

/-- Scale by a power of two. -/
def numScale (k : Int) : Num → Num
  | .fin s m e => .fin s m (e + k)
  | x => x

/-- Negate. -/
def numNeg : Num → Num
  | .fin s m e => .fin (!s) m e
  | .inf s => .inf (!s)
  | .nan => .nan

/-- Quotient rounded so that a later rounding to FP32 is right: 80 further bits and a sticky bit. -/
def numDiv : Num → Num → Num
  | .nan, _ => .nan
  | _, .nan => .nan
  | .inf _, .inf _ => .nan
  | .inf a, .fin sb _ _ => .inf (a != sb)
  | .fin sa _ _, .inf b => .fin (sa != b) 0 0
  | .fin sa ma ea, .fin sb mb eb =>
    if mb = 0 then (if ma = 0 then .nan else .inf (sa != sb))
    else if ma = 0 then .fin (sa != sb) 0 0
    else
      let k := 80 + mb.log2
      let n := ma * 2 ^ k / mb
      .fin (sa != sb) (2 * n + (if ma * 2 ^ k % mb = 0 then 0 else 1)) (ea - eb - k - 1)

/-- Order of two values that are not NaN: −1, 0 or 1; −0 equals +0. -/
def numCmp : Num → Num → Int
  | .inf a, .inf b => if a = b then 0 else if a then -1 else 1
  | .inf a, _ => if a then -1 else 1
  | _, .inf b => if b then 1 else -1
  | .fin sa ma ea, .fin sb mb eb =>
    let q := min ea eb
    let x := signed sa ma * 2 ^ (ea - q).toNat; let y := signed sb mb * 2 ^ (eb - q).toNat
    if x < y then -1 else if x = y then 0 else 1
  | _, _ => 0

def isNan : Num → Bool
  | .nan => true
  | _ => false

def isZero : Num → Bool
  | .fin _ m _ => decide (m = 0)
  | _ => false

def isSpecial : Num → Bool
  | .fin _ _ _ => false
  | _ => true

/-! ### FP32 and BF16 with the canonical NaN (R137, R157, R168) -/

/-- Value of an FP32 word. -/
def fp32 (w : W32) : Num := decodeFloat fmtFp32 w.toNat

/-- Round to FP32, nearest even, canonical NaN. -/
def toFp32 (x : Num) : W32 := BitVec.ofNat 32 (encodeFloat fmtFp32 .rn false 0x7FC00000 x)

/-- FP32 addition and multiplication of R137 and R157. -/
def add32 (a b : W32) : W32 := toFp32 (numAdd (fp32 a) (fp32 b))
def mul32 (a b : W32) : W32 := toFp32 (numMul (fp32 a) (fp32 b))
def div32 (a b : W32) : W32 := toFp32 (numDiv (fp32 a) (fp32 b))

/-- Value of a BF16 number, and rounding to BF16. -/
def bf16 (w : Nat) : Num := decodeFloat fmtBf16 w
def toBf16 (x : Num) : Nat := encodeFloat fmtBf16 .rn false 0x7FC0 x

/-- Exact sum of a list; +0 for an empty one. -/
def numSum (xs : List Num) : Num :=
  match xs with
  | [] => Num.zero
  | x :: rest => rest.foldl numAdd x

/-! ### Memory-side reductions (R167, R168) -/

/-- Floating minimum and maximum: NaN if either is, −0 below +0. -/
def fminBits (f : FloatFmt) (isMax : Bool) (a b : Nat) : Nat :=
  let x := decodeFloat f a; let y := decodeFloat f b
  if isNan x || isNan y then nanCanon f
  else
    let c := numCmp x y
    let aLess := if c = 0 then bitOf a (f.eb + f.mb) else decide (c < 0)
    if aLess != isMax then a else b

/-- One FP32, BF16 or integer element: old value and operand to new value. -/
def redElem (op : RedOp) (ty : RedTy) (old x : Nat) : Nat :=
  match ty with
  | .fp32 =>
    match op with
    | .add => (add32 (BitVec.ofNat 32 old) (BitVec.ofNat 32 x)).toNat
    | .min => fminBits fmtFp32 false old x
    | .max => fminBits fmtFp32 true old x
    | .cas => old
  | .bf16 =>
    match op with
    | .add => toBf16 (numAdd (bf16 old) (bf16 x))
    | .min => fminBits fmtBf16 false old x
    | .max => fminBits fmtBf16 true old x
    | .cas => old
  | .int32 =>
    let a := BitVec.ofNat 32 old; let b := BitVec.ofNat 32 x
    match op with
    | .add => (a + b).toNat
    | .min => if a.toInt ≤ b.toInt then a.toNat else b.toNat
    | .max => if a.toInt ≤ b.toInt then b.toNat else a.toNat
    | .cas => old
  | .int64 =>
    let a := BitVec.ofNat 64 old; let b := BitVec.ofNat 64 x
    match op with
    | .add => (a + b).toNat
    | .min => if a.toInt ≤ b.toInt then a.toNat else b.toNat
    | .max => if a.toInt ≤ b.toInt then b.toNat else a.toNat
    | .cas => old

/-- Bytes of the operand of a reduction: a BF16 operand is a pair. -/
def redBytes : RedOp → RedTy → Nat
  | .cas, _ => 8
  | _, .fp32 => 4
  | _, .bf16 => 4
  | _, .int32 => 4
  | _, .int64 => 8

/-- New value of the word at an address: BF16 pairs by halves; compare-and-swap stores the new word where the old one equals
the comparand. -/
def redWord (op : RedOp) (ty : RedTy) (old x cmp : Nat) : Nat :=
  match op with
  | .cas => if old = cmp then x else old
  | _ =>
    match ty with
    | .bf16 => redElem op ty (old % 65536) (x % 65536) + redElem op ty (old / 65536) (x / 65536) * 65536
    | _ => redElem op ty old x

/-! ### Random draws (R123) -/

/-- The mix function, modulo 2^64. -/
def mix (z : U64) : U64 :=
  let z := z + 0x9E3779B97F4A7C15#64
  let z := (z ^^^ (z >>> 30)) * 0xBF58476D1CE4E5B9#64
  let z := (z ^^^ (z >>> 27)) * 0x94D049BB133111EB#64
  z ^^^ (z >>> 31)

/-- The n-th 16-bit value of a generator. -/
def draw16 (seed : U64) (n : Nat) : Nat := bitsOf (mix (seed + BitVec.ofNat 64 (n / 4))).toNat (16 * (n % 4) + 15) (16 * (n % 4))

/-- Seed of a lane's generator. -/
def laneSeed (jobSeed : U64) (tick item crew gang lane : Nat) : U64 :=
  mix (jobSeed ^^^ mix (BitVec.ofNat 64 tick) ^^^ (BitVec.ofNat 64 item <<< 48) ^^^ (BitVec.ofNat 64 crew <<< 10)
    ^^^ (BitVec.ofNat 64 gang <<< 5) ^^^ BitVec.ofNat 64 lane)

/-- Seed of append entry j (R165). -/
def appendSeed (jobSeed : U64) (tick item j : Nat) : U64 :=
  mix (jobSeed ^^^ mix (BitVec.ofNat 64 tick) ^^^ (BitVec.ofNat 64 item <<< 48) ^^^ (1#64 <<< 47) ^^^ BitVec.ofNat 64 j)

/-! ### Blocks (R115 to R119) -/

/-- Largest exponent of an MX element format, and of MXINT8 (R119). -/
def mxMaxExp : Elem → Int
  | .e4m3 => 8
  | .e5m2 => 15
  | .e3m2 => 4
  | .e2m3 => 2
  | .e2m1 => 2
  | _ => 0

/-- Magnitude of a finite value as (m, e); 0 for others. -/
def magOf : Num → Nat × Int
  | .fin _ m e => (m, e)
  | _ => (0, 0)

/-- The larger of two magnitudes. -/
def magMax (a b : Nat × Int) : Nat × Int :=
  let q := min a.2 b.2
  if a.1 * 2 ^ (a.2 - q).toNat < b.1 * 2 ^ (b.2 - q).toNat then b else a

def clampInt (v lo hi : Int) : Int := max lo (min hi v)

/-- Shared exponent of a block of finite values (R119). -/
def blockExp (maxExp : Int) (vs : List Num) : Nat :=
  let a := vs.foldl (fun acc v => magMax acc (magOf v)) (0, 0)
  if a.1 = 0 then 0 else (clampInt (floorLog2 a.1 a.2 - maxExp + 127) 0 254).toNat

/-- Sub-offset of 8 values of an SX4 block (R119). -/
def subOffset (x : Nat) (vs : List Num) : Nat :=
  let a := vs.foldl (fun acc v => magMax acc (magOf v)) (0, 0)
  if a.1 = 0 then 0 else (clampInt ((x : Int) - 127 + 2 - floorLog2 a.1 a.2) 0 3).toNat

/-- Round a value to an INT element (two's complement of `bits`), saturating; NaN becomes 0 (R121). -/
def toIntElem (bits : Nat) (rd : Rounding) (v : Num) : Nat :=
  let lo := -(2 ^ (bits - 1) : Int); let hi := (2 ^ (bits - 1) : Int) - 1
  let z := match v with
    | .nan => 0
    | .inf s => if s then lo else hi
    | .fin s m e => clampInt (signed s (roundGrid rd m e 0)) lo hi
  (z % 2 ^ bits).toNat

/-- Value of an integer element. -/
def intElem (bits w : Nat) : Int := (BitVec.ofNat bits w).toInt

/-- The element is an integer. -/
def isIntElem (e : Elem) : Bool := decide (e = .int8 ∨ e = .int4 ∨ e = .int32)

/-- Value of an E8M0 scale (Table 4.2). -/
def scaleValue (w : Nat) : Num := if w = 0xFF then .nan else .fin false 1 ((w : Int) - 127)

/-- A value as an E8M0 scale: the powers of two next below and above it are its neighbours, a tie going to the even code (R121, R122).
Zero, what lies below 2^−127 and negative values have no code; the result is then `raw` (log 61). -/
def scaleCode (rd : Rounding) (raw : Nat) : Num → Nat
  | .nan => 0xFF
  | .inf s => if s then raw % 256 else 254
  | .fin s m e =>
    let k := floorLog2 m e + 127
    let rem := m - 2 ^ m.log2
    let up := match rd with
      | .rn => decide (2 ^ m.log2 < 2 * rem ∨ (2 * rem = 2 ^ m.log2 ∧ k % 2 = 1))
      | .rz => false
      | .sr r => decide (r < rem * 65536 / 2 ^ m.log2)
    if s ∨ m = 0 ∨ k < 0 then raw % 256 else min 254 (k.toNat + (if up then 1 else 0))

/-- Value of an element code: floating, a scale, or an integer. -/
def elemValue (e : Elem) (w : Nat) : Num :=
  match floatFmt e with
  | some f => decodeFloat f (w % 2 ^ elemBits e)
  | none =>
    if e = .e8m0 then scaleValue (w % 256)
    else let v := intElem (elemBits e) w; .fin (decide (v < 0)) v.natAbs 0

/-- An element code of a block: the value divided by 2^k, rounded, saturating. -/
def blockElem (e : Elem) (rd : Rounding) (k : Int) (v : Num) : Nat :=
  match floatFmt e with
  | some f => match numScale (-k) v with
    | .fin s m x =>
      if m = 0 then packFields f s 0 0
      else (packRounded f s (roundGrid rd m x (quantum f m x)) (quantum f m x)).getD (maxBits f s)
    | _ => 0
  | none => toIntElem 8 rd (numScale (6 - k) v)

/-- Convert 32 values to a block: X, the sub-offsets, and the element codes (R119). `rds` gives the rounding of each
element. -/
def toBlock (e : Elem) (sx4 : Bool) (rds : List Rounding) (vs : List Num) : Nat × List Nat × List Nat :=
  if vs.any isSpecial then (0xFF, [0, 0, 0, 0], List.replicate 32 0)
  else
    let x := blockExp (mxMaxExp e) vs
    let allZero := vs.all isZero
    let d := (List.range 4).map (fun j => if sx4 && !allZero then subOffset x ((vs.drop (8 * j)).take 8) else 0)
    if allZero then (0, d, List.replicate 32 0)
    else (x, d, vs.mapIdx (fun i v => blockElem e (rds.getD i .rn) ((x : Int) - 127 - d.getD (i / 8) 0) v))

/-- Value of an element code of a block (R115, R118). -/
def fromBlock (e : Elem) (x d code : Nat) : Num :=
  if x = 0xFF then .nan
  else
    let k := (x : Int) - 127 - d
    match floatFmt e with
    | some f => numScale k (decodeFloat f code)
    | none => let v := intElem 8 code; .fin (decide (v < 0)) v.natAbs (k - 6)

/-! ### Packed layouts (R116, R117) -/

/-- Bytes of 32 elements of a format in memory; a pair of 16-bit values packs as its elements. -/
def unitBytes : Fmt → Nat
  | .scalar e => elemBits e * 32 / 8
  | .pair e => elemBits e * 32 / 8
  | .mx e => 1 + elemBits e * 32 / 8
  | .sx4 => 18

/-- Element i of packed elements of `bits` bits. -/
def packedElem (bits : Nat) (bs : List Byte) (i : Nat) : Nat :=
  if bits = 6 then bitsOf (fieldAt bs (3 * (i / 4)) 3) (6 * (i % 4) + 5) (6 * (i % 4))
  else if bits = 4 then bitsOf (fieldAt bs (i / 2) 1) (4 * (i % 2) + 3) (4 * (i % 2))
  else fieldAt bs (i * (bits / 8)) (bits / 8)

/-- Packed bytes of element codes. -/
def packElems (bits : Nat) (cs : List Nat) : List Byte :=
  if bits = 6 then (List.range (cs.length / 4)).flatMap (fun g =>
    leBytes (cs.getD (4 * g) 0 + cs.getD (4 * g + 1) 0 * 64 + cs.getD (4 * g + 2) 0 * 4096 + cs.getD (4 * g + 3) 0 * 262144) 3)
  else if bits = 4 then (List.range (cs.length / 2)).flatMap (fun g => leBytes (cs.getD (2 * g) 0 + cs.getD (2 * g + 1) 0 * 16) 1)
  else cs.flatMap (fun c => leBytes c (bits / 8))

/-- The element format of a format. -/
def fmtElem : Fmt → Elem
  | .scalar e => e
  | .pair e => e
  | .mx e => e
  | .sx4 => .e2m1

/-- Values of a unit of 32 elements in a floating format; an integer scalar is its value. -/
def unitValues (f : Fmt) (bs : List Byte) : List Num :=
  let e := fmtElem f
  match f with
  | .mx _ => (List.range 32).map (fun i => fromBlock e (fieldAt bs 0 1) 0 (packedElem (elemBits e) (bs.drop 1) i))
  | .sx4 => (List.range 32).map (fun i =>
      fromBlock e (fieldAt bs 0 1) (bitsOf (fieldAt bs 1 1) (2 * (i / 8) + 1) (2 * (i / 8))) (packedElem 4 (bs.drop 2) i))
  | _ => (List.range 32).map (fun i =>
      elemValue e (packedElem (elemBits e) bs i))

/-- Bytes of a block. -/
def blockBytes (sx4 : Bool) (e : Elem) (b : Nat × List Nat × List Nat) : List Byte :=
  leBytes b.1 1
    ++ (if sx4 then leBytes (b.2.1.getD 0 0 + b.2.1.getD 1 0 * 4 + b.2.1.getD 2 0 * 16 + b.2.1.getD 3 0 * 64) 1 else [])
    ++ packElems (elemBits e) b.2.2

/-! ### Base-2 exponential of the press (R157) -/

/-- ⌊√n⌋ by bits. -/
def isqrtFrom (n : Nat) : Nat → Nat → Nat
  | 0, r => r
  | k + 1, r => isqrtFrom n k (if (r + 2 ^ k) * (r + 2 ^ k) ≤ n then r + 2 ^ k else r)

/-- 2^f × 2^256, rounded down, for a fraction f of `n` bits given most significant first: the product of 2^(2^−i) over its
set bits. -/
def exp2Frac : List Bool → Nat → Nat → Nat
  | [], _, acc => acc
  | b :: bs, r, acc =>
    let r' := isqrtFrom (r * 2 ^ 256) 260 0
    exp2Frac bs r' (if b then acc * r' / 2 ^ 256 else acc)

/-- The FP32 neighbour above a finite value given by its bits; below for a negative step is by subtraction. -/
def exp2Press (x : W32) : W32 :=
  match fp32 x with
  | .nan => 0x7FC00000#32
  | .inf s => if s then 0#32 else 0x7F800000#32
  | .fin s m e =>
    if m = 0 then 0x3F800000#32
    else
      let v := signed s m
      let sh := (-e).toNat
      let i : Int := if 0 ≤ e then v * 2 ^ e.toNat else v / 2 ^ sh
      let f : Nat := if 0 ≤ e then 0 else (v - i * 2 ^ sh).toNat
      let bits := (List.range sh).map (fun k => bitOf f (sh - 1 - k))
      let p := exp2Frac bits (2 * 2 ^ 256) (2 ^ 256)
      if 128 ≤ i then 0x7F800000#32
      else if i < -160 then (if Config.exp2Choice x = 1 then 1#32 else 0#32)
      else
        let lo := encodeFloat fmtFp32 .rz false 0x7FC00000 (.fin false p (i - 256))
        let exact := decide (f = 0)
        let c := Config.exp2Choice x
        BitVec.ofNat 32 (if c = 1 then lo + 1 else if c = 2 ∧ exact ∧ lo ≠ 0 then lo - 1 else lo)

end Sys2Proof.Machine
end

