-- ==== Sys2Proof/Machine/Loft.lean ====
section
/-! DEFINITION. The loft: pinning commands, flushes, bank controllers with their miss registers and write-back buffers, FINE,
memory-side reductions, and the loft events (06_loft.md; 05_press.md R167 to R169). -/

namespace Sys2Proof.Machine

/-! ### Reads of the loft's words (R240, R243, R245) -/

/-- Read the sectors of pinned bytes: corrections counted, an uncorrectable sector rewritten as poison and posted. -/
def pinCheck (job holder source a n : Nat) (s : State) : State :=
  match bayAt s a with
  | none => s
  | some bay =>
    if n = 0 ∨ (s.loft.flips = [] ∧ s.loft.pinPoison = []) then s
    else (sectorsOf a n).foldl (fun st sec =>
      let ks := (List.range 4).map (fun w => pinWord bay.layout (sec * 32 + 8 * w))
      let (r, cor, bad) := sectorWords st ks (tabGet st.loft.pinPoison sec).isSome
      let poison := fun (z : State) => clearFlips ks (z.onLoft (fun x => { x with pinPoison := tabPut x.pinPoison sec () }))
      if r = 2 then ctrLoft (dieOfWord (ks.headD 0)) 2 1 (poison st)
      else
        let st1 := cor.foldl (fun z k => wordCorrected k z) st
        match bad with
        | [] => st1
        | k :: _ => postLoftUncorrectable (homeTower st a) source k job holder (sec * 32)
            (ctrLoft (dieOfWord k) 1 bad.length (poison st1))) s

/-- Read a BULK line: an uncorrectable word of a clean line invalidates it, of a dirty line poisons its sector; a compressed
line is poisoned whole (log 22). -/
def bulkCheck (job holder source la : Nat) (s : State) : State :=
  match tabGet s.loft.bulk la with
  | none => s
  | some l =>
    if s.loft.flips = [] then
      if l.poison = 0#8 then s else ctrLoft (dieOfWord (bulkWord l 0)) 2 (popSectors l.poison) s
    else
      let (pz, cor, bad, bz) := lineDecode s l
      let all := fun (m : BitVec 8) => if m = 0#8 ∨ l.enc = 0 then m else 0xFF#8
      let s1 := cor.foldl (fun st k => wordCorrected k st) (ctrLoft (dieOfWord (bulkWord l 0)) 2 (popSectors (pz ||| l.poison)) s)
      let keys := fun (m : BitVec 8) => ((List.range 8).filter (fun i => m.getLsbD i)).flatMap (fun i =>
        (List.range 4).map (fun w => bulkWord l (4 * i + w)))
      match bad with
      | [] => if pz = 0#8 then s1 else poisonLine la l (all pz) (clearFlips (keys pz) s1)
      | k :: _ =>
        let s2 := ctrLoft (dieOfWord k) 1 bad.length s1
        if l.dirty = 0#4 then s2.onLoft (fun x => { x with bulk := tabDel x.bulk la })
        else postLoftUncorrectable l.tower source k job holder 0
          (poisonLine la l (all pz ||| all bz) (clearFlips (keys (pz ||| bz)) s2))

/-- Read a FINE line: an uncorrectable word invalidates it, as it does a clean BULK line (R241, R245). -/
def fineCheck (t : Tower) (lf : Nat) (s : State) : State :=
  match tabGet (s.loft.tw.get t).fine lf with
  | none => s
  | some l =>
    if s.loft.flips = [] then s
    else
      let rs := ((List.range 4).filter (fun i => l.valid.getLsbD i)).map (fun i =>
        (sectorWords s ((List.range 4).map (fun w => fineWord t l (4 * i + w))) false).2)
      let s1 := (rs.flatMap (·.1)).foldl (fun st k => wordCorrected k st) s
      let bad := rs.flatMap (·.2)
      if bad = [] then s1
      else (ctrLoft (dieOfWord (bad.headD 0)) 1 bad.length s1).onLoft (fun x => { x with
        tw := x.tw.mod t (fun w => { w with fine := tabDel w.fine lf }) })

/-! ### HBM banks (R200) -/

/-- Number of the HBM bank of an address. -/
def bankOf (s : State) (a : Nat) : Nat :=
  let l := locOf s a
  ((l.stack * 32 + l.channel) * 2 + l.pc) * 64 + l.bank

/-! ### Requests at a bank controller (R199 to R202) -/

/-- A core's own requests: lookups count, misses place the line (R198, R206). -/
def Agent.core : Agent := { holder := 2, counted := true, alloc := true, early := false, staged := false, rx := false }

/-- Column of a FINE frame that serves a line (R196): the next usable column of 384 to 511 where its own is retired. -/
def fineColumn (s : State) (t : Tower) (lf : Nat) : Nat :=
  let j := (lf ^^^ (lf >>> 7) ^^^ (lf >>> 14) ^^^ (lf >>> 21) ^^^ (lf >>> 28)) &&& 0x7f
  let ret := (s.loft.tw.get t).retired
  (((List.range 128).find? (fun i => !ret.contains (384 + (j + i) % 128))).map (fun i => 384 + (j + i) % 128)).getD (384 + j)

/-- Column of a request: pinned, BULK or FINE. -/
def reqColumn (s : State) (t : Tower) (r : LoftReq) : Nat :=
  if isPinned r.addr then bitsOf (r.addr - pinBase) 29 21
  else match r.kind with
    | .fine _ => fineColumn s t (r.addr / 128)
    | _ => bulkColumn s t (r.addr / 256)

/-- Line a request is ordered by: a 256-byte BULK line, a pinned line, or a FINE pair of sectors. -/
def reqLine (r : LoftReq) : Nat × Bool :=
  match r.kind with
  | .fine _ => (r.addr / 64, true)
  | _ => (r.addr / 256, false)

/-- A request changes its line. -/
def changesLine (r : LoftReq) : Bool :=
  match r.kind with
  | .store _ _ => true
  | .reduce _ _ _ _ => true
  | _ => false

/-- Give the result of a load to the core (R89). -/
def respond (id : Nat) (tag : LoadTag) (old : List (Nat × List Byte × Bool)) (s : State) : State :=
  s.onCores (fun c => { c with responses := c.responses ++ [{ id := id, tag := tag, old := old }] })

/-- Give an engine the bytes and poisoned sectors of a read. -/
def answer (id : Nat) (bs : List Byte) (pz : List Nat) (s : State) : State :=
  s.onLoft (fun x => { x with answers := tabPut x.answers id (bs, pz) })

/-- Data of a load from the line as the loft holds it: each lane's bytes and poison, or for an L1R fill four sectors. -/
def loadData (s : State) (r : LoftReq) (t : LoadTag) : List (Nat × List Byte × Bool) :=
  if t.viaL1r then (List.range 4).map (fun i =>
    (i, viewBytes s (r.addr + 32 * i) 32, decide (viewPoison s (r.addr + 32 * i) 32 ≠ [])))
  else t.lanes.map (fun p => (p.1, viewBytes s p.2 t.width, decide (viewPoison s p.2 t.width ≠ [])))

/-- Answer a load or a read with what the loft holds now. -/
def reply (r : LoftReq) (s : State) : State :=
  match r.kind with
  | .load tag => respond r.id tag (loadData s r tag) s
  | .read n => answer r.id (viewBytes s r.addr n) (viewPoison s r.addr n) s
  | _ => s

/-- Bytes of one operation of a reduction, and their new value: a word, or a single BF16 element (R168, R272). -/
def opBytes (op : RedOp) (ty : RedTy) (o : LaneOp) : Nat := if o.single then 2 else redBytes op ty
def opResult (op : RedOp) (ty : RedTy) (o : LaneOp) (old : List Byte) : List Byte :=
  leBytes (if o.single then redElem op ty (leNat old) o.val.toNat else redWord op ty (leNat old) o.val.toNat o.cmp.toNat)
    (opBytes op ty o)

/-- Bytes a request reads or writes, as (lowest address, length) pairs. -/
def reqExtents (r : LoftReq) : List (Nat × Nat) :=
  match r.kind with
  | .load t => if t.viaL1r then [(r.addr, 128)] else t.lanes.map (fun p => (p.2, t.width))
  | .read n => [(r.addr, n)]
  | .store bs _ => bs.map (fun b => (b.1, 1))
  | .reduce op ty ops _ => ops.map (fun o => (o.addr, opBytes op ty o))
  | .fine _ => [(r.addr, 64)]

/-- Quarters of a BULK line that a request needs valid. -/
def needQuarters (r : LoftReq) : BitVec 4 :=
  (reqExtents r).foldl (fun m e => m ||| quarterTouched (e.1 % 256) e.2) 0#4

/-- Consecutive runs of a store's bytes. -/
def storeRuns : List (Nat × Byte) → List (Nat × List Byte)
  | [] => []
  | (a, b) :: rest =>
    match storeRuns rest with
    | (a', bs) :: more => if a' = a + 1 then (a, b :: bs) :: more else (a, [b]) :: (a', bs) :: more
    | [] => [(a, [b])]

/-- Whether a store covers every quarter it touches of its line that is not valid. -/
def storeWhole (valid : BitVec 4) (bs : List (Nat × Byte)) : Bool :=
  (List.range 4).all (fun q =>
    let n := (bs.filter (fun b => decide (b.1 % 256 / 64 = q))).length
    decide (n = 0) || decide (n = 64) || valid.getLsbD q)

/-- Perform a store on a BULK line that needs no fetch, or on a pinned line; what does not come from a core enters through the floor,
and FINE gives its sectors up first (R197). None where it must wait. -/
def doStore (r : LoftReq) (bs : List (Nat × Byte)) (pz : List Nat) (s : State) : Option State :=
  let s := if r.core.isSome then s else fineInvalidate (r.addr / 256 * 256) 256 s
  (storeRuns bs).foldl (fun (o : Option State) run => o.bind (fun st =>
    let zs := pz.filter (fun k => decide (run.1 < (k + 1) * 32) && decide (k * 32 < run.1 + run.2.length))
    if isPinned run.1 then some (pinStore run.1 run.2 zs st)
    else bulkStore (run.1 / 256) (run.1 % 256) run.2
      (BitVec.ofNat 8 (zs.foldl (fun m k => m + 2 ^ (k % 8)) 0)) r.agent.staged st)) (some s)

/-- Write bytes into a present line in place, its slots unchanged, as a reduction does. -/
def lineWrite (o : Nat) (new : List Byte) (poison : Bool) (s : State) : State :=
  match tabGet s.loft.bulk (o / 256) with
  | none => s
  | some l =>
    let off := o % 256; let n := new.length
    (touchWords l off n s).onLoft (fun x => { x with
      bulk := tabPut x.bulk (o / 256) { l with
        data := overlay (storeBase s l off n) off new
        poison := if poison then l.poison ||| sectorBits off n else l.poison
        dirty := l.dirty ||| quarterTouched off n } })

/-- Perform the operations of a reduction on a line that is present, in lane order; results go back poisoned where the
element or the operand was (R168, R172). The old values answer an ATOM. -/
def doReduce (r : LoftReq) (op : RedOp) (ty : RedTy) (ops : List LaneOp) (ret : Option LoadTag) (s : State) : State :=
  let (s1, olds) := ops.foldl (fun (acc : State × List (Nat × List Byte × Bool)) o =>
    let st := acc.1
    let n := opBytes op ty o
    let old := viewBytes st o.addr n
    let was := decide (viewPoison st o.addr n ≠ [])
    let new := opResult op ty o old
    let st1 := if isPinned o.addr then pinStore o.addr new (if o.poison || was then sectorsOf o.addr n else []) st
      else lineWrite o.addr new (o.poison || was) st
    (st1, acc.2 ++ [(o.lane, old, was)])) (s, [])
  let s2 := ctrAdd 2 (towerNum (homeTower s r.addr) * 4 + 3) ops.length s1
  match ret with
  | some t => respond r.id t olds s2
  | none => s2

/-- A line about to be reduced is decoded: a compressed line is taken whole from its words. -/
def reduceBegin (la : Nat) (s : State) : State :=
  match tabGet s.loft.bulk la with
  | some l => if l.enc = 0 then s
      else clearSlots l (s.onLoft (fun x => { x with bulk := tabPut x.bulk la { l with data := bulkView s l } }))
  | none => s

/-- Recompress or unpack a line whose reduction has ended: whole and unpoisoned it keeps an encoding that still applies. A line that
grows takes its slots at once, the write-back buffer giving up what it must; armed flip masks meet the words written. -/
def reduceEnd (la : Nat) (exts : List (Nat × Nat)) (s : State) : State :=
  let s1 := match tabGet s.loft.bulk la with
    | some l =>
      let l' := { l with locked := false, age := 0 }
      let st := s.onLoft (fun x => { x with bulk := tabPut x.bulk la l' })
      let fit := rewriteLine la l' l.data l.valid l.dirty l.poison
      ((fit st).orElse (fun _ => fit (wbPops l.tower l.col 8 st))).getD
        (st.onLoft (fun x => { x with bulk := tabPut x.bulk la { l' with enc := 0 } }))
    | none => s
  exts.foldl (fun st e => bulkFlips la (e.1 % 256) e.2 st) s1

/-- A reduction that runs at the press unit of its line (R169). -/
def reduceLine (r : LoftReq) (s : State) : State :=
  match r.kind with
  | .reduce op ty ops ret =>
    let s1 := beatMeets (homeTower s r.addr) 2 (reqColumn s (homeTower s r.addr) r) s
    if isPinned r.addr then
      doReduce r op ty ops ret ((reqExtents r).foldl (fun st e => pinCheck r.job r.agent.holder 0 e.1 e.2 st) s1)
    else reduceEnd (r.addr / 256) (reqExtents r) (doReduce r op ty ops ret (reduceBegin (r.addr / 256) s1))
  | _ => s

/-- A reduction at the press unit runs to its end and unlocks its line (R169). -/
def runReduction (t : Tower) (r : LoftReq) (s : State) : State :=
  reduceLine r (s.onLoft (fun x => { x with tw := x.tw.mod t (fun w => { w with reducing := w.reducing.filter (fun y => y.id ≠ r.id) }) }))

/-- Reductions that lock a line end before anything else happens to it (Table 6.9). -/
def settleLine (la : Nat) (s : State) : State :=
  bothTowers.foldl (fun st t =>
    ((st.loft.tw.get t).reducing.filter (fun r => decide (reqLine r = (la, false)))).foldl
      (fun x r => runReduction t r x) st) s

/-- Miss registers and hold slots of a column. -/
def missOf (s : State) (t : Tower) (c : Nat) : List MissReg := tabGetD (s.loft.tw.get t).miss c []
def holdOf (s : State) (t : Tower) (c : Nat) : List LoftReq := tabGetD (s.loft.tw.get t).hold c []

def setMiss (t : Tower) (c : Nat) (ms : List MissReg) (s : State) : State :=
  s.onLoft (fun x => { x with tw := x.tw.mod t (fun w => { w with miss := putList w.miss c ms }) })
def setHold (t : Tower) (c : Nat) (hs : List LoftReq) (s : State) : State :=
  s.onLoft (fun x => { x with tw := x.tw.mod t (fun w => { w with hold := putList w.hold c hs }) })

/-- The bank cap of R200: 4 of the column's registers already target the bank. -/
def bankCapped (s : State) (t : Tower) (c la : Nat) : Bool :=
  decide (4 ≤ ((missOf s t c).filter (fun m => decide (bankOf s (m.la * 256) = bankOf s (la * 256)))).length)

/-- Whether a miss may open a register. -/
def mayOpen (s : State) (t : Tower) (c la : Nat) : Bool :=
  decide ((missOf s t c).length < 16) && !bankCapped s t c la

/-- Holder charged with the fetches of a miss: CORE for a press reduction's, whoever asks for it (Table 7.5, R224). -/
def missHolder (r : LoftReq) : Nat :=
  match r.kind with
  | .reduce _ _ _ _ => 2
  | _ => r.agent.holder

/-- Open a miss register: quarters that the write-back buffer holds come from it, the others from HBM, for the holder whose miss it
is (R199, R201, R224). -/
def openMiss (t : Tower) (c : Nat) (r : LoftReq) (s : State) : State :=
  let la := r.addr / 256
  let have_ := match tabGet s.loft.bulk la with
    | some l => l.valid
    | none => 0#4
  let want := (List.range 4).filter (fun q => !have_.getLsbD q)
  let buf := want.filterMap (fun q => (loftQuarter s (la * 256 + q * 64)).map (fun d => (q, d.1, d.2.1 || d.2.2)))
  let fetch := want.filter (fun q => (loftQuarter s (la * 256 + q * 64)).isNone)
  let s1 := setMiss t c (missOf s t c ++ [{ la := la, waiters := [r], quarters := buf }]) s
  fetch.foldl (fun st q => hbmSend (la * 256 + q * 64) false [] false (missHolder r) r.agent.early false (.fill t c la q) st) s1

/-- Held misses issue, in arrival order, as registers and banks allow (R200). -/
def issueHeld (t : Tower) (c : Nat) : Nat → State → State
  | 0, s => s
  | fuel + 1, s =>
    match (holdOf s t c).find? (fun r => match (missOf s t c).find? (fun m => decide (m.la = r.addr / 256)) with
        | some m => decide (m.waiters.length < 32)
        | none => mayOpen s t c (r.addr / 256)) with
    | none => s
    | some r =>
      let s1 := setHold t c ((holdOf s t c).filter (fun x => x.id ≠ r.id)) s
      let s2 := if (missOf s1 t c).any (fun m => decide (m.la = r.addr / 256)) then
          setMiss t c ((missOf s1 t c).map (fun m => if m.la = r.addr / 256 then { m with waiters := m.waiters ++ [r] } else m)) s1
        else openMiss t c r s1
      issueHeld t c fuel s2

/-- Count a lookup that counts, and a miss, in RUN (R206). -/
def countLookup (t : Tower) (g : Agent) (miss : Bool) (s : State) : State :=
  if g.counted && inRun s t then s.onLoft (fun x => { x with
    tw := x.tw.mod t (fun w => { w with lookups := w.lookups + 1, misses := w.misses + (if miss then 1 else 0) }) })
  else s

/-- A hit clears the line's age (R194). -/
def touchLine (la : Nat) (s : State) : State :=
  s.onLoft (fun x => { x with bulk := tabMod x.bulk la (fun l => { l with age := 0 }) })

/-- A read by another holder than STAGE is the first use of a staged line, whose mark goes (R208). -/
def useLine (holder la : Nat) (s : State) : State :=
  match tabGet s.loft.bulk la with
  | some l => if l.staged = false ∨ holder = 4 then s
      else s.onLoft (fun x => { x with
        bulk := tabPut x.bulk la { l with staged := false }
        tw := x.tw.mod l.tower (fun w => { w with stageUsed := w.stageUsed + 256 }) })
  | none => s

/-- First use of a staged 64 KiB granule of a pinned bay (R208). -/
def touchGranule (t : Tower) (a : Nat) (s : State) : State :=
  match tabGet (s.loft.tw.get t).granules (a / 65536) with
  | some (n, _) => s.onLoft (fun x => { x with
      tw := x.tw.mod t (fun w => { w with
        granules := tabDel w.granules (a / 65536)
        stageUsed := w.stageUsed + n }) })
  | none => s

/-! ### FINE (R195 to R197) -/

/-- A FINE line's set in its frame. -/
def fineSet (lf : Nat) : Nat := ((lf >>> 7) ^^^ (lf >>> 17)) &&& 0x3ff

/-- The way that a set's replacement bits point at: node 1 is the root, node k has children 2k and 2k + 1, and a set bit points at
the upper one (PRESUMED, log 51: the usual tree form of pseudo-LRU). -/
def plruVictim (bits : Nat) : Nat :=
  ((List.range 4).foldl (fun (n : Nat) _ => 2 * n + (if bitOf bits n then 1 else 0)) 1) - 16

/-- Replacement bits after a use of a way: the nodes above it point away from it. -/
def plruTouch (bits way : Nat) : Nat :=
  (List.range 4).foldl (fun b i =>
    let node := (way + 16) / 2 ^ (4 - i)
    let up := bitOf way (3 - i)
    let off := b - (if bitOf b node then 2 ^ node else 0)
    if up then off else off + 2 ^ node) bits

/-- A FINE line is used. -/
def fineTouch (t : Tower) (l : FineLine) (s : State) : State :=
  let k := l.frame * 1024 + l.set
  s.onLoft (fun x => { x with tw := x.tw.mod t (fun w => { w with plru := tabPut w.plru k (plruTouch (tabGetD w.plru k 0) l.way) }) })

/-- Put sectors into FINE: a new line takes a free way of its set, or the way that the set's replacement bits point at. -/
def fineInstall (t : Tower) (lf : Nat) (valid : BitVec 4) (mc : Bool) (s : State) : State :=
  let w := s.loft.tw.get t
  let col := fineColumn s t lf
  match tabGet w.fine lf with
  | some l => fineTouch t l (s.onLoft (fun x => { x with
      tw := x.tw.mod t (fun w => { w with fine := tabPut w.fine lf { l with valid := l.valid ||| valid, mc := mc } }) }))
  | none =>
    let same := fun (e : Nat × FineLine) => decide (e.2.frame = col ∧ e.2.set = fineSet lf)
    let free := (List.range 16).find? (fun k => !w.fine.any (fun e => same e && decide (e.2.way = k)))
    let way := free.getD (plruVictim (tabGetD w.plru (col * 1024 + fineSet lf) 0))
    let l : FineLine := { valid := valid, mc := mc, frame := col, set := fineSet lf, way := way }
    let ks := (List.range 16).map (fineWord t l)
    fineTouch t l (clearFlips ks (s.onLoft (fun x => { x with
      tw := x.tw.mod t (fun w => { w with fine := tabPut (w.fine.filter (fun e => !(same e && decide (e.2.way = way)))) lf l }) })))

/-- Valid bits of the pair of sectors that a FINE request asks for. -/
def pairBits (a : Nat) : BitVec 4 := if a % 128 < 64 then 0x3#4 else 0xC#4

/-- Holder of a FINE class: MC, SHEAF, fabric descriptors, gather misses (R195, R224). -/
def fineHolder (cls : Nat) : Nat := if cls = 0 then 0 else if cls = 3 then 2 else 1

/-- A FINE request: a hit ends; BULK supplies what it holds; else the pair is fetched from HBM, past BULK (R196, R197). None
while the frame's 8 miss registers or a register's 8 waiters are in use. -/
def fineAccess (t : Tower) (cls : Nat) (r : LoftReq) (s : State) : Option State :=
  let lf := r.addr / 128
  let s := fineCheck t lf s
  let w := s.loft.tw.get t
  let want := pairBits r.addr
  match tabGet w.fine lf with
  | some l =>
    if l.valid &&& want = want then some (fineTouch t l s)
    else fineMissPath lf want w s
  | none => fineMissPath lf want w s
where
  fineMissPath (lf : Nat) (want : BitVec 4) (w : LoftT) (s : State) : Option State :=
    let sec := if r.addr % 128 < 64 then 0 else 2
    if (loftQuarter s r.addr).isSome then some (fineInstall t lf want (cls = 0) s)
    else match w.fineMiss.find? (fun m => decide (m.lf = lf ∧ m.sector = sec)) with
      | some m =>
        if 8 ≤ m.waiters then none
        else some (s.onLoft (fun x => { x with
          tw := x.tw.mod t (fun w => { w with
            fineMiss := w.fineMiss.map (fun y => if y.lf = lf ∧ y.sector = sec then { y with waiters := y.waiters + 1 } else y) }) }))
      | none =>
        if 8 ≤ (w.fineMiss.filter (fun m => decide (fineColumn s t m.lf = fineColumn s t lf))).length then none
        else
          let s1 := s.onLoft (fun x => { x with
            tw := x.tw.mod t (fun w => { w with
              fineMiss := w.fineMiss ++ [{ lf := lf, sector := sec, mc := decide (cls = 0), waiters := 1, arrived := false }] }) })
          some (hbmSend r.addr false [] false (fineHolder cls) false false (.fineFill t lf sec) s1)

/-! ### Service of a request -/

/-- Requests of a line that wait at its controller, in a register or a hold slot. -/
def lineWaiting (s : State) (t : Tower) (c la : Nat) : List LoftReq :=
  ((missOf s t c).filter (fun m => decide (m.la = la))).flatMap (·.waiters)
    ++ (holdOf s t c).filter (fun h => decide (h.addr / 256 = la))

/-- A request must wait behind those of its line that wait already: a store or reduction behind any, a read behind one that changes
the line (R202). -/
def mustQueue (s : State) (t : Tower) (c : Nat) (r : LoftReq) : Bool :=
  let ws := lineWaiting s t c (r.addr / 256)
  if changesLine r then decide (ws ≠ []) else ws.any changesLine

/-- Miss path of a request: it joins the line's register, opens one, or takes a hold slot, as it does where its line is held already;
none where it must wait. -/
def missPath (t : Tower) (c : Nat) (r : LoftReq) (s : State) : Option State :=
  let la := r.addr / 256
  match (missOf s t c).find? (fun m => decide (m.la = la)) with
  | some m =>
    if 32 ≤ m.waiters.length then none
    else some (setMiss t c ((missOf s t c).map (fun x => if x.la = la then { x with waiters := x.waiters ++ [r] } else x)) s)
  | none =>
    if mayOpen s t c la && !(holdOf s t c).any (fun h => decide (h.addr / 256 = la)) then some (openMiss t c r s)
    else if 8 ≤ (holdOf s t c).length then none
    else
      let s1 := setHold t c (holdOf s t c ++ [r]) s
      if bankCapped s t c la then
        let b := bankOf s (la * 256)
        some (s1.onLoft (fun x => { x with
          tw := x.tw.mod t (fun w => { w with
            stalls := w.stalls + 1
            stallBanks := tabPut w.stallBanks b (tabGetD w.stallBanks b 0 + 1) }) }))
      else some s1

/-- A load or read at the bank controller. -/
def serveRead (t : Tower) (c : Nat) (r : LoftReq) (s : State) : Option State :=
  let la := r.addr / 256
  if isPinned r.addr then
    let s1 := (reqExtents r).foldl (fun st e => pinCheck r.job r.agent.holder 0 e.1 e.2
      (if r.agent.holder = 4 then st else touchGranule t e.1 st)) s
    some (reply r s1)
  else
    let s1 := bulkCheck r.job r.agent.holder 0 la s
    match tabGet s1.loft.bulk la with
    | some l =>
      if needQuarters r &&& ~~~ l.valid = 0#4 && !mustQueue s1 t c r then
        some (reply r (useLine r.agent.holder la (touchLine la (countLookup t r.agent false s1))))
      else missPath t c r (countLookup t r.agent (decide (needQuarters r &&& ~~~ l.valid ≠ 0#4)) s1)
    | none => missPath t c r (countLookup t r.agent true s1)

/-- A store at the bank controller; one that asks for no allocation goes to HBM where nothing of its line is held or open (R193,
R275). -/
def serveStore (t : Tower) (c : Nat) (r : LoftReq) (bs : List (Nat × Byte)) (pz : List Nat) (s : State) : Option State :=
  let la := r.addr / 256
  if isPinned r.addr then doStore r bs pz s
  else
    let s1 := bulkCheck r.job r.agent.holder 0 la s
    let line := tabGet s1.loft.bulk la
    let valid := (line.map (·.valid)).getD 0#4
    if r.noAlloc && line.isNone && decide (lineWaiting s1 t c la = []) then
      some ((storeRuns bs).foldl (fun st run => (cutAt 64 run.1 run.2).foldl (fun z p =>
        hbmSend p.1 true p.2 (pz.any (fun k => decide (p.1 < (k + 1) * 32 ∧ k * 32 < p.1 + p.2.length))) r.agent.holder
          r.agent.early r.agent.rx .other z) st) (wbDrain la (fineInvalidate (la * 256) 256 (countLookup t r.agent true s1))))
    else if !mustQueue s1 t c r && storeWhole valid bs then doStore r bs pz (countLookup t r.agent line.isNone s1)
    else missPath t c r (countLookup t r.agent (!storeWhole valid bs) s1)

/-- A reduction at the bank controller: at the press unit where the line is present; with the miss of its line; or, where no
allocation is asked for and nothing of the line is held or open, at the floor's adder, after the column's earlier write-backs
(R193, R202, R229, R230). -/
def serveReduce (t : Tower) (c : Nat) (r : LoftReq) (op : RedOp) (ty : RedTy) (ops : List LaneOp) (ret : Option LoadTag)
    (s : State) : Option State :=
  let la := r.addr / 256
  let press := fun (st : State) => st.onLoft (fun x => { x with tw := x.tw.mod t (fun w => { w with reducing := w.reducing ++ [r] }) })
  if isPinned r.addr then some (press s)
  else
    let s1 := bulkCheck r.job r.agent.holder 0 la s
    match tabGet s1.loft.bulk la with
    | some l =>
      if needQuarters r &&& ~~~ l.valid = 0#4 && !mustQueue s1 t c r then
        let s2 := touchLine la (countLookup t r.agent false s1)
        some (press (s2.onLoft (fun x => { x with bulk := tabMod x.bulk la (fun y => { y with locked := true }) })))
      else missPath t c r (countLookup t r.agent (decide (needQuarters r &&& ~~~ l.valid ≠ 0#4)) s1)
    | none =>
      if r.noAlloc && decide (lineWaiting s1 t c la = []) then
        some (hbmSend r.addr false [] false r.agent.holder r.agent.early r.agent.rx
          (.adder op ty r.job ops (ret.map (fun g => (r.id, g)))) (wbDrain la (fineInvalidate (blockOf r.addr) 64 s1)))
      else missPath t c r (countLookup t r.agent true s1)

/-- A request at the bank controller of its line (R193, R199 to R202, R229); none where it must wait. -/
def serveRequest (t : Tower) (c : Nat) (r : LoftReq) (s : State) : Option State :=
  let s := if r.core.isSome then beatMeets t (if changesLine r then 5 else 4) (c / 64) s else s
  match r.kind with
  | .fine cls => fineAccess t cls r s
  | .load _ => serveRead t c r s
  | .read _ => serveRead t c r s
  | .store bs pz => serveStore t c r bs pz s
  | .reduce op ty ops ret => serveReduce t c r op ty ops ret s

/-- Of the requests waiting for a column, the first that may be served and the state after it: requests to one line keep their
order, a line under reduction waits, and a column with 8 held misses takes nothing (R200, R202). -/
def nextServed (t : Tower) (c : Nat) (s : State) : Option (LoftReq × State) :=
  let w := s.loft.tw.get t
  if 8 ≤ (holdOf s t c).length then none
  else w.arrivals.findSome? (fun r =>
    let earlier := (w.arrivals.takeWhile (fun x => x.id ≠ r.id)).any (fun x => decide (reqLine x = reqLine r))
    let busy := w.reducing.any (fun x => decide (reqLine x = reqLine r))
    if decide (reqColumn s t r = c) && !earlier && !busy then (serveRequest t c r s).map (fun s1 => (r, s1)) else none)

/-- A request has been taken by its bank controller. -/
def leaveArrivals (t : Tower) (id : Nat) (s : State) : State :=
  s.onLoft (fun x => { x with tw := x.tw.mod t (fun w => { w with arrivals := w.arrivals.filter (fun y => y.id ≠ id) }) })

/-- LOFT_ACCESS: errors of the cells read come in as masks of loft words; then one request is served (R202, R240). -/
def loftAccess (t : Tower) (col : Nat) (flips : List (Nat × BitVec 72)) (s : State) : State :=
  let s1 := s.onLoft (fun x => { x with
    flips := flips.foldl (fun f p => tabPut f p.1 (tabGetD f p.1 0#72 ^^^ p.2)) x.flips })
  match nextServed t col s1 with
  | some (r, s2) => leaveArrivals t r.id s2
  | none => s1

def execLoftAccess (t : Tower) (col : Nat) (flips : List (Nat × BitVec 72)) (s : State) :
    Host.Outcome State Fault Refusal := .next (loftAccess t col flips s)

/-! ### Fills (R192 to R194, R199, R201) -/

/-- Serve one waiter of a placed line, in order. None where a store must wait for slots. -/
def serveWaiter (r : LoftReq) (s : State) : Option State :=
  match r.kind with
  | .load _ => some (reply r (useLine r.agent.holder (r.addr / 256) s))
  | .read _ => some (reply r (useLine r.agent.holder (r.addr / 256) s))
  | .store bs pz => doStore r bs pz s
  | .reduce _ _ _ _ => some (reduceLine r s)
  | .fine _ => some s

/-- Data and poison of a line after a fill: the fill merges only the quarters that are not valid. -/
def mergeFill (s : State) (old : Option BulkLine) (qs : List (Nat × List Byte × Bool)) : List Byte × BitVec 8 :=
  let fetched := fun (q : Nat) => match qs.find? (fun (x : Nat × List Byte × Bool) => decide (x.1 = q)) with
    | some x => (x.2.1, x.2.2, x.2.2)
    | none => (List.replicate 64 0#8, false, false)
  let parts := (List.range 4).map (fun q =>
    match old with
    | some l => if l.valid.getLsbD q then
          (sliceBytes (bulkView s l) (q * 64) 64, l.poison.getLsbD (2 * q), l.poison.getLsbD (2 * q + 1))
        else fetched q
    | none => fetched q)
  (parts.flatMap (·.1), BitVec.ofNat 8 ((parts.mapIdx (fun q p => (if p.2.1 then 2 ^ (2 * q) else 0)
    + (if p.2.2 then 2 ^ (2 * q + 1) else 0))).foldl (· + ·) 0))

/-- A miss register whose quarters have all arrived: the quarters it lacks that the line does not hold. -/
def fillReady (s : State) (m : MissReg) : Bool :=
  let have_ := ((tabGet s.loft.bulk m.la).map (·.valid)).getD 0#4
  (List.range 4).all (fun q => have_.getLsbD q || m.quarters.any (fun x => decide (x.1 = q)))

/-- Reads that asked for no allocation take a line's data as it came, the set left as it was (R198). -/
def answerReads (la : Nat) (data : List Byte) (poison : BitVec 8) (ws : List LoftReq) (s : State) : State :=
  ws.foldl (fun st r => match r.kind with
    | .read n => answer r.id (sliceBytes data (r.addr % 256) n)
        ((sectorsOf r.addr n).filter (fun k => poison.getLsbD (k - la * 8))) st
    | _ => st) s

/-- A filled register closes: its line is placed where some waiter allocates, its waiters are served in order, and held misses
issue. None where the fill finds no victim and waits (R199, Table 6.9). -/
def closeMiss (t : Tower) (col : Nat) (m : MissReg) (s : State) : Option State :=
  let old := tabGet s.loft.bulk m.la
  let (data, poison) := mergeFill s old m.quarters
  let staged := m.waiters.any (fun r => r.agent.staged)
  let served := if !m.waiters.any (fun r => r.agent.alloc) then some (answerReads m.la data poison m.waiters s)
    else (match old with
      | some l => if l.valid = 0xF#4 then some s else mergeLine m.la l data poison staged s
      | none => placeLine t m.la data 0xF#4 0#4 poison staged true s).bind
        (fun s1 => m.waiters.foldl (fun o r => o.bind (serveWaiter r)) (some s1))
  served.map (fun s2 => issueHeld t col 8 (setMiss t col ((missOf s2 t col).filter (fun x => x.la ≠ m.la)) s2))

/-- BULK_FILL_COMPLETE: the oldest register of the column whose line has come closes. -/
def bulkFillComplete (t : Tower) (col : Nat) (s : State) : State :=
  match (missOf s t col).find? (fillReady s) with
  | none => s
  | some m => (closeMiss t col m s).getD s

def execBulkFillComplete (t : Tower) (col : Nat) (s : State) : Host.Outcome State Fault Refusal :=
  .next (bulkFillComplete t col s)

/-- The pair of a FINE miss is installed (R196). -/
def fineClose (t : Tower) (m : FineMiss) (s : State) : State :=
  fineInstall t m.lf (if m.sector = 0 then 0x3#4 else 0xC#4) m.mc (s.onLoft (fun x => { x with
    tw := x.tw.mod t (fun w => { w with fineMiss := w.fineMiss.filter (fun y => !decide (y.lf = m.lf ∧ y.sector = m.sector)) }) }))

/-- FINE_FILL_COMPLETE: the pair of the oldest miss that has arrived is installed. -/
def fineFillComplete (t : Tower) (s : State) : State :=
  match (s.loft.tw.get t).fineMiss.find? (fun m => m.arrived) with
  | none => s
  | some m => fineClose t m s

def execFineFillComplete (t : Tower) (s : State) : Host.Outcome State Fault Refusal := .next (fineFillComplete t s)

/-! ### Memory-side reductions (R169, R202) -/

/-- MEMORY_SIDE_REDUCTION: the reduction of a number runs at its press unit. -/
def memorySideReduction (t : Tower) (id : Nat) (s : State) : State :=
  match (s.loft.tw.get t).reducing.find? (fun r => decide (r.id = id)) with
  | some r => runReduction t r s
  | none => s

def execMemorySideReduction (t : Tower) (id : Nat) (s : State) : Host.Outcome State Fault Refusal :=
  .next (memorySideReduction t id s)

end Sys2Proof.Machine
end

