-- ==== Sys2Proof/Machine/Hbm.lean ====
section
/-! DEFINITION. HBM channel controllers: regulation by holder, the queue of a channel, the choice of the request it serves, the floor
adders and refresh (07_cellar.md R209 to R230). -/

namespace Sys2Proof.Machine

/-! ### Regulation (R225 to R228) -/

/-- A holder is over its budget in the window (R228); a budget of 0 always is. -/
def overBudget (r : Holder) : Bool :=
  decide (r.budgetMbps ≠ 0xFFFFFFFF) && (decide (r.budgetMbps = 0) || decide (r.budgetMbps * 10 < r.windowBytes))

/-- The latency mean in 1/16 ns, the target until there are 256 samples (R226). -/
def meanNow (r : Holder) : Nat := if r.samples < 256 then r.targetNs * 16 else r.mean16

/-- lat_steps of R225. -/
def latSteps (r : Holder) : Nat :=
  if r.targetNs = 0 then 0
  else
    let m := meanNow r; let t := r.targetNs * 16
    if 90 * t ≤ 100 * m then 3 else if 75 * t ≤ 100 * m then 2 else if 50 * t ≤ 100 * m then 1 else 0

/-- Urgency wires a receive buffer asserts (R227): fill in per mille. -/
def urgSteps (fill : Nat) : Nat := if 900 ≤ fill then 3 else if 750 ≤ fill then 2 else if 500 ≤ fill then 1 else 0

def isAdder (r : HbmReq) : Bool :=
  match r.src with
  | .adder _ _ _ _ _ => true
  | _ => false

/-- Urgency of a write that carries a receive buffer's data (R227): the buffer's fill is the link's own affair, which no command tells,
so it is a free value (log 36). -/
def urgency (s : State) (r : HbmReq) : Nat := if r.rx && (r.isWrite || isAdder r) then urgSteps (Config.rxFillPm (s.freeCtr + r.id) % 1001) else 0

/-- prio(h, req) of R225; `urgency` is 0 for a request that carries no receive buffer's data. -/
def prioOf (r : Holder) (urgency : Nat) : Nat := if overBudget r then 0 else min (r.basePrio + latSteps r + urgency) 7

/-- Tower of a stack. -/
def towerOfStack (stack : Nat) : Tower := if stack < 8 then .t0 else .t1

/-- Priority of a queued request: an early STAGE request takes no steps; from its tick's boundary on it has the base priority of COPY
(R225). -/
def reqPrio (s : State) (t : Tower) (r : HbmReq) : Nat :=
  let h := holderOf s t r.holder
  if r.holder = 4 then
    if r.early then (if overBudget h then 0 else min h.basePrio 7)
    else prioOf { h with basePrio := (holderOf s t 3).basePrio } 0
  else prioOf h (urgency s r)

/-- A read of a holder has completed: its latency enters the mean (R226). -/
def latSample (ns : Nat) (r : Holder) : Holder :=
  { r with
    mean16 := r.mean16 + ns - r.mean16 / 16
    samples := min (r.samples + 1) 65535 }

/-- HOLDER_BUDGET_WINDOW_END: the window ends at the next multiple of 10 µs (R228). -/
def holderBudgetWindowEnd (t : Tower) (holder : Nat) (s : State) : State :=
  let s1 := s.timeTo (roundUp s.nowNs 10000)
  let s2 := if overBudget (holderOf s1 t holder) then ctrHbm t (18 + holder) 1 s1 else s1
  if holder ≤ 8 then onHolder t holder (fun r => { r with windowBytes := 0 }) s2 else s

def execHolderBudgetWindowEnd (t : Tower) (holder : Nat) (s : State) : Host.Outcome State Fault Refusal :=
  .next (holderBudgetWindowEnd t holder s)

/-! ### Entry into a channel queue (R216) -/

/-- Bank of a request within its channel: pseudo-channel × 64 + bank. -/
def reqBank (s : State) (r : HbmReq) : Nat := let l := locOf s r.addr; l.pc * 64 + l.bank

/-- A request meets the limits of Table 7.3. -/
def limitsAllow (s : State) (q : List HbmReq) (r : HbmReq) : Bool :=
  decide ((q.filter (fun x => decide (reqBank s x = reqBank s r))).length < 16)
    && (!r.isWrite || decide ((q.filter (·.isWrite)).length < 96))
    && (decide (r.holder ≠ 4) || decide ((q.filter (fun x => decide (x.holder = 4))).length < 32))
    && (!isAdder r || decide ((q.filter isAdder).length < 16))

/-- Accept a request into the queue: its wait begins, and its bytes are charged, a reduction's twice (R228, R230). -/
def acceptReq (k : Nat) (r : HbmReq) (s : State) : State :=
  let t := towerOfStack (k / 32)
  let s1 := s.onHbm (fun h => { h with
    chans := tabMod h.chans k (fun c => { c with queue := c.queue ++ [{ r with enterNs := s.nowNs }] }) })
  let s2 := hbmCharge t r.holder r.isWrite 64 s1
  if isAdder r then hbmCharge t r.holder true 64 s2 else s2

/-- Side-listed requests enter as soon as their limits allow, in order. -/
def promoteSide (k : Nat) : List HbmReq → State → State
  | [], s => s
  | r :: rest, s =>
    if (chanAt s k).queue.length < 128 && limitsAllow s (chanAt s k).queue r then
      promoteSide k rest (acceptReq k r (s.onHbm (fun h => { h with
        chans := tabMod h.chans k (fun c => { c with side := c.side.filter (fun x => x.id ≠ r.id) }) })))
    else promoteSide k rest s

/-- HBM_REQUEST: the request at the port enters the queue or the side list (R216). -/
def hbmRequest (stack ch : Nat) (s : State) : State :=
  let k := stack * 32 + ch
  let s1 := promoteSide k (chanAt s k).side s
  let c := chanAt s1 k
  match c.input with
  | [] => s1
  | r :: rest =>
    if 16 ≤ c.side.length then s1
    else
      let s2 := s1.onHbm (fun h => { h with chans := tabMod h.chans k (fun x => { x with input := rest }) })
      if !limitsAllow s1 c.queue r then
        ctrHbm (towerOfStack stack) 30 1 (s2.onHbm (fun h => { h with
          chans := tabMod h.chans k (fun x => { x with side := x.side ++ [r] }) }))
      else if 128 ≤ c.queue.length then s1
      else acceptReq k r s2

def execHbmRequest (stack ch : Nat) (s : State) : Host.Outcome State Fault Refusal := .next (hbmRequest stack ch s)

/-- HBM_AGE_PRIORITY: the time a request has waited 20 µs comes; from then on it is served before younger ones (R218). An
early STAGE request does not age (R225). -/
def hbmAgePriority (stack ch : Nat) (s : State) : State :=
  let k := stack * 32 + ch
  match (chanAt s k).queue.find? (fun r => !r.aged && !(decide (r.holder = 4) && r.early)) with
  | none => s
  | some r0 =>
    let s1 := s.timeTo (r0.enterNs + 20000)
    s1.onHbm (fun h => { h with
      chans := tabMod h.chans k (fun c => { c with
        queue := c.queue.map (fun r =>
          if r.enterNs + 20000 ≤ s1.nowNs && !(decide (r.holder = 4) && r.early) then { r with aged := true } else r) }) })

def execHbmAgePriority (stack ch : Nat) (s : State) : Host.Outcome State Fault Refusal := .next (hbmAgePriority stack ch s)

/-! ### Selection (R217 to R220) -/

/-- A request may go: no older one to its block waits in the channel (R217). -/
def inBlockOrder (c : Chan) (r : HbmReq) : Bool :=
  !(c.queue ++ c.side).any (fun x => decide (x.id < r.id ∧ blockOf x.addr = blockOf r.addr))

/-- The row of a request is open. -/
def rowHit (s : State) (c : Chan) (r : HbmReq) : Bool := decide (tabGet c.openRows (reqBank s r) = some (locOf s r.addr).row)

/-- Whether `x` goes before `y` by the order of R219: age, priority, row hit, older. Where `limit` says so a request that 16 row hits
have overtaken is overtaken no more (R220). -/
def goesBefore (s : State) (t : Tower) (c : Chan) (limit : Bool) (x y : HbmReq) : Bool :=
  if x.aged || y.aged then (if x.aged && y.aged then decide (x.id < y.id) else x.aged)
  else
    let px := reqPrio s t x; let py := reqPrio s t y
    if px ≠ py then decide (py < px)
    else
      let older := if x.id < y.id then x else y
      let hx := rowHit s c x; let hy := rowHit s c y
      if hx != hy && !(limit && decide (16 ≤ older.overtaken)) then hx else decide (x.id < y.id)

/-- The first of a list by the order. -/
def bestReq (s : State) (t : Tower) (c : Chan) (limit : Bool) (rs : List HbmReq) : Option HbmReq :=
  rs.foldl (fun best r => match best with
    | none => some r
    | some b => if goesBefore s t c limit r b then some r else some b) none

/-- Candidates of a pseudo-channel: in block order, and an early STAGE request only where no CORE or COPY request waits; where those
wait for the STAGE request's own block, it goes first (R217). -/
def candidates (s : State) (c : Chan) (pc : Nat) : List HbmReq :=
  let mine := c.queue.filter (fun r => decide ((locOf s r.addr).pc = pc))
  let ok := mine.filter (inBlockOrder c)
  let busy := mine.any (fun r => decide (r.holder = 2 ∨ r.holder = 3))
  let go := ok.filter (fun r => !(decide (r.holder = 4) && r.early && busy))
  if go = [] then ok else go

/-- The direction state of a pseudo-channel. -/
def dirOf (c : Chan) (pc : Nat) : PcDir := tabGetD c.dirs pc { writing := false, served := 0 }

/-- STREAM mode (R219): the direction of the next access. -/
def streamWrites (s : State) (t : Tower) (d : PcDir) (mine cand : List HbmReq) : Bool :=
  let ws := mine.filter (·.isWrite)
  let rs := cand.filter (fun r => !r.isWrite)
  let oldest := (ws.map (·.enterNs)).foldl min s.nowNs
  if ws = [] then false
  else if d.writing then
    !((decide (32 ≤ d.served) && decide (ws.length ≤ 16))
      || rs.any (fun r => decide (6 ≤ reqPrio s t r) && decide (r.enterNs + 500 ≤ s.nowNs)))
  else decide (48 ≤ ws.length) || decide (oldest + 4000 ≤ s.nowNs) || rs.isEmpty

/-- The request a pseudo-channel serves next (R218 to R220). A reduction at the adder goes with the reads, since it begins with one. -/
def selectPc (s : State) (t : Tower) (c : Chan) (pc : Nat) : Option HbmReq :=
  let cand := candidates s c pc
  let d := dirOf c pc
  let mine := c.queue.filter (fun r => decide ((locOf s r.addr).pc = pc))
  match bestReq s t c false (cand.filter (·.aged)) with
  | some r => some r
  | none =>
    if s.hbm.mixed.get t then
      match bestReq s t c true cand with
      | none => none
      | some b =>
        if b.isWrite = d.writing ∨ 8 ≤ d.served ∨ reqPrio s t b = 7 then some b
        else match bestReq s t c true (cand.filter (fun r => r.isWrite == d.writing)) with
          | some x => some x
          | none => some b
    else
      let w := streamWrites s t d mine cand
      match bestReq s t c false (cand.filter (fun r => r.isWrite == w)) with
      | some x => some x
      | none => bestReq s t c false cand

/-- Of the two pseudo-channels' choices that pass a test, the one served next: the older where one has waited 20 µs (R218), else
one the manual leaves open (log 23). -/
def selectReq (s : State) (stack : Nat) (c : Chan) (ok : HbmReq → Bool) : Option HbmReq :=
  let pick := fun pc => (selectPc s (towerOfStack stack) c pc).filter ok
  match pick 0, pick 1 with
  | some a, some b =>
    if a.aged || b.aged then (if a.aged && (!b.aged || decide (a.id < b.id)) then some a else some b)
    else if Config.winner s.freeCtr % 2 = 0 then some a else some b
  | some a, none => some a
  | none, x => x

/-- The controller's record after serving a request: direction, the older requests of equal priority that a row hit has overtaken,
the open row. -/
def servedChan (s : State) (t : Tower) (r : HbmReq) (c : Chan) : Chan :=
  let l := locOf s r.addr
  let d := dirOf c l.pc
  let passed := fun (x : HbmReq) => rowHit s c r && decide (x.id < r.id ∧ (locOf s x.addr).pc = l.pc ∧ reqPrio s t x = reqPrio s t r)
    && !rowHit s c x
  { c with
    queue := (c.queue.filter (fun x => x.id ≠ r.id)).map (fun x => if passed x then { x with overtaken := x.overtaken + 1 } else x)
    dirs := tabPut c.dirs l.pc
      { writing := r.isWrite
        served := if d.writing = r.isWrite then d.served + 1 else 1 }
    openRows := tabPut c.openRows (reqBank s r) l.row }

/-- Count a direction change and a row conflict. -/
def countServed (s : State) (t : Tower) (r : HbmReq) (c : Chan) (st : State) : State :=
  let l := locOf s r.addr
  let turn := decide ((dirOf c l.pc).writing ≠ r.isWrite)
  let conflict := match tabGet c.openRows (reqBank s r) with
    | some row => decide (row ≠ l.row)
    | none => false
  let st1 := if turn then ctrHbm t 27 1 st else st
  if conflict then ctrHbm t 28 1 st1 else st1

/-! ### Completion of an access -/

/-- Job of the request that opened a fill, or of a direct access. -/
def srcJob (s : State) (src : HbmSrc) : Nat :=
  match src with
  | .fill t col la _ => (((missOf s t col).find? (fun m => decide (m.la = la))).bind (fun m => m.waiters.head?)).elim 0 (·.job)
  | .direct _ job => job
  | .adder _ _ job _ _ => job
  | .fineFill _ _ _ => 0
  | .other => 0

/-- Give read data to whoever waits for it. -/
def deliver (a : Nat) (src : HbmSrc) (data : List Byte) (poison : Bool) (s : State) : State :=
  match src with
  | .fill t col la q => setMiss t col ((missOf s t col).map (fun m =>
      if m.la = la then { m with quarters := m.quarters ++ [(q, data, poison)] } else m)) s
  | .fineFill t lf sec => s.onLoft (fun x => { x with
      tw := x.tw.mod t (fun w => { w with
        fineMiss := w.fineMiss.map (fun m => if m.lf = lf ∧ m.sector = sec then { m with arrived := true } else m) }) })
  | .direct id _ => answer id data (if poison then [a / 32, a / 32 + 1] else []) s
  | .adder _ _ _ _ _ => s
  | .other => s

/-- A read with the errors its wires carried: the data, and what decoding does (R235 to R238, R245). The stored block keeps its
own state unless it was rewritten as poison. -/
def readWithErrors (r : HbmReq) (err : List (Nat × Byte)) (s : State) : State × List Byte × Bool :=
  let e0 := tabGetD s.hbm.marks (r.addr / 64) []
  let s1 := setMarks r.addr (xorMarks e0 err) s
  let d := hbmData s1 r.addr
  let s2 := hbmDecodeEffects 0 r.holder (srcJob s r.src) r.addr s1
  match hbmDecode s1 r.addr with
  | .uncorrectable => (s2, d)
  | _ => (setMarks r.addr e0 s2, d)

/-- Corrections of the stacks' own code that come with a read (R235). -/
def ctrInner (stack n : Nat) (s : State) : State := ctrAdd 5 (stack * 5 + 4) n s

/-! ### Floor adders (R229, R230) -/

/-- Apply a reduction to the bytes of a block, element by element; the old bytes of each come with it. -/
def reduceBlock (op : RedOp) (ty : RedTy) (base : Nat) (ops : List LaneOp) (data : List Byte) : List Byte × List (Nat × List Byte) :=
  ops.foldl (fun acc o =>
    let old := sliceBytes acc.1 (o.addr - base) (opBytes op ty o)
    (overlay acc.1 (o.addr - base) (opResult op ty o old), acc.2 ++ [(o.lane, old)])) (data, [])

/-- A floor reduction of a block: a read and a write with nothing between, the old words going to a requester that asks for them. A
poisoned block, or one that meets a poisoned operand, is written back poisoned; an uncorrectable one is left as it is and faults the
issuing job (R230, R245). -/
def floorReduce (holder job b : Nat) (op : RedOp) (ty : RedTy) (ops : List LaneOp) (ret : Option (Nat × LoadTag)) (s : State) :
    State :=
  let l := locOf s b
  let (data, was) := hbmData s b
  let s0 := ctrAdd 2 (towerNum (homeTower s b) * 4 + 3) ops.length s
  let (new, olds) := reduceBlock op ty b ops data
  let back := fun (z : Bool) (st : State) => match ret with
    | some (id, tag) => respond id tag (olds.map (fun o => (o.1, o.2, z))) st
    | none => st
  match hbmDecode s b with
  | .uncorrectable =>
    let mc := inMcRegion s b
    let d := memDetail s evHbmUncorrectable (homeTower s b) 2 l.stack l.channel (l.pc * 64 + l.bank) 0xFF l.row 0xFFFF
      (if mc then 0 else job) holder (if mc then 8 else 1) b
    let s1 := ctrAdd 5 (l.stack * 5 + 2) 1 s0
    back true (if mc then mcRegionFault d s1 else jobFault job evHbmUncorrectable d s1)
  | .poison => back true (hbmStoreBlock b data true (ctrAdd 5 (l.stack * 5 + 3) 1 s0))
  | .clean => back was (hbmStoreBlock b new (ops.any (·.poison)) s0)
  | .corrected _ => back was (hbmStoreBlock b new (ops.any (·.poison)) (hbmDecodeEffects 0 holder job b s0))

/-! ### Service of a request -/

/-- Serve a request of a channel's queue: it leaves the queue, its direction and row are noted, and it reads, writes or reduces (R217
to R220, R226, R235). `ns` is the latency of a read, `err` what its wires carried, `inner` the corrections reported with it. -/
def hbmServe (k : Nat) (r : HbmReq) (ns : Nat) (err : List (Nat × Byte)) (inner : Nat) (s : State) : State :=
  let stack := k / 32
  let t := towerOfStack stack
  let c := chanAt s k
  let s1 := countServed s t r c (s.onHbm (fun h => { h with chans := tabMod h.chans k (servedChan s t r) }))
  let s2 := s1.onObs (fun o => { o with gleanHbm := if inRun s1 t then o.gleanHbm.mod t (· + 1) else o.gleanHbm })
  let port := stack % 8 * 32 + k % 32
  match r.src with
  | .adder op ty job ops ret => floorReduce r.holder job r.addr op ty ops ret (ctrInner stack inner s2)
  | _ =>
    if r.isWrite then
      let v := mergeWrite r (hbmData s2 r.addr)
      hbmStoreBlock r.addr v.1 v.2 (beatMeets t 1 port s2)
    else
      let (s4, data, poison) := readWithErrors r err (ctrInner stack inner (beatMeets t 0 port s2))
      deliver r.addr r.src data poison (onHolder t r.holder (latSample ns) s4)

/-- A stack in self-refresh, or lost, serves nothing. -/
def stackServes (s : State) (stack : Nat) : Bool :=
  let st := tabGetD s.hbm.hbmStacks stack Stack.fresh
  !st.selfRefresh && !st.lost

/-- HBM_ACCESS_COMPLETE: the access the controller selects is served. -/
def hbmAccessComplete (stack ch : Nat) (err : List (Nat × Byte)) (inner : Bool) (s : State) : State :=
  let k := stack * 32 + ch
  if stackServes s stack then
    match selectReq s stack (chanAt s k) (fun r => !isAdder r) with
    | none => s
    | some r => hbmServe k r (s.nowNs - r.enterNs) err (if inner && !r.isWrite then 1 else 0) s.draw
  else s

def execHbmAccessComplete (stack ch : Nat) (err : List (Nat × Byte)) (innerCorrected : Bool) (s : State) :
    Host.Outcome State Fault Refusal := .next (hbmAccessComplete stack ch err innerCorrected s)

/-- FLOOR_REDUCTION: the adder performs the reduction that the controller selects. Whether the stack reports a correction with its
read is a free value (log 54). -/
def floorReduction (stack ch : Nat) (s : State) : State :=
  let k := stack * 32 + ch
  if stackServes s stack then
    match selectReq s stack (chanAt s k) isAdder with
    | none => s
    | some r => hbmServe k r 0 [] (Config.innerCorr s.freeCtr % 2) s.draw
  else s

def execFloorReduction (stack ch : Nat) (s : State) : Host.Outcome State Fault Refusal := .next (floorReduction stack ch s)

/-! ### Refresh (R222) -/

/-- Requests wait for a bank (pseudo-channel × 64 + bank) of a stack, or for any bank. -/
def bankWaits (s : State) (stack : Nat) (bank : Option Nat) : Bool :=
  (List.range 32).any (fun ch => (chanAt s (stack * 32 + ch)).queue.any (fun r =>
    match bank with
    | some b => decide (reqBank s r = b)
    | none => true))

/-- HBM_REFRESH: the refresh of a bank (in every channel) or of the whole stack is made, closing its rows, or postponed while
the bank has requests, at most 7 times running. The whole stack is refreshed at once in MIXED mode with all-bank refresh and only
there (R219, R220, R231). -/
def hbmRefresh (stack : Nat) (bank : Option Nat) (s : State) : State :=
  let st := tabGetD s.hbm.hbmStacks stack Stack.fresh
  let key := bank.getD 128
  let n := tabGetD st.postponed key 0
  let put := fun (p : Tab Nat) (x : State) => x.onHbm (fun h => { h with
    hbmStacks := tabPut h.hbmStacks stack { st with postponed := p } })
  if 16 ≤ stack ∨ st.lost ∨ st.selfRefresh ∨ bank.isNone ≠ (s.hbm.mixed.get (towerOfStack stack) && s.hbm.allBank.get (towerOfStack stack)) then s
  else if bankWaits s stack bank ∧ n < 7 then put (tabPut st.postponed key (n + 1)) s
  else
    let s1 := put (tabDel st.postponed key) s
    let s2 := s1.onHbm (fun h => { h with
      chans := h.chans.map (fun e => if e.1 / 32 = stack then
          (e.1, { e.2 with openRows := match bank with
            | some b => tabDel e.2.openRows b
            | none => [] })
        else e) })
    ctrHbm (towerOfStack stack) 29 (if bank.isSome then 180 else 350) s2

def execHbmRefresh (stack : Nat) (bank : Option Nat) (s : State) : Host.Outcome State Fault Refusal :=
  .next (hbmRefresh stack bank s)

end Sys2Proof.Machine
end

