-- ==== Sys2Proof/Machine/Access.lean ====
section
/-! DEFINITION. Accesses that a command makes and completes within itself: those of engines, the press, the fabric, the host and the
MC. A request joins the others at the loft of its home tower, and what it must wait for happens in the same step (R193, R198 to R202,
R216, R217, R240, R245; log 55). -/

namespace Sys2Proof.Machine

/-! ### What a request waits for -/

/-- The channel's port passes on what it may, as often as it holds requests. -/
def acceptAll (k : Nat) : Nat → State → State
  | 0, s => s
  | n + 1, s => acceptAll k n (hbmRequest (k / 32) (k % 32) s)

/-- One access of a channel, of the pseudo-channel asked for where it has one to serve: its latency and the corrections its stack reports
are free values (log 54). -/
def chanStep (k pc : Nat) (s : State) : Option State :=
  let t := towerOfStack (k / 32)
  let s1 := acceptAll k (chanAt s k).input.length s
  let c := chanAt s1 k
  if stackServes s (k / 32) then
    (match selectPc s1 t c pc with
      | some r => some r
      | none => selectPc s1 t c (1 - pc)).map
      (fun r => hbmServe k r (s.nowNs - r.enterNs + Config.duration s.freeCtr) [] (Config.innerCorr s.freeCtr % 2) s1.draw)
  else none

/-- A channel serves requests until a goal is reached. -/
def driveChan (k pc : Nat) (goal : State → Bool) : Nat → State → State
  | 0, s => s
  | n + 1, s => if goal s then s else match chanStep k pc s with
    | some s1 => driveChan k pc goal n s1
    | none => s

/-- Serve the channel of an address until a goal is reached. -/
def driveAddr (a : Nat) (goal : State → Bool) (s : State) : State :=
  let k := chanOf s a
  driveChan k (locOf s a).pc goal (2 * (chanAt s k).reqs.length + 2) s

/-- The data of a register's line come. -/
def fetchLine (t : Tower) (c la : Nat) (s : State) : State :=
  driveAddr (la * 256) (fun z => !(missOf z t c).any (fun m => decide (m.la = la) && !fillReady z m)) s

/-- A register's data come and it closes; none where its fill waits for a victim. -/
def closeNow (t : Tower) (c la : Nat) (s : State) : Option State :=
  let s1 := fetchLine t c la s
  ((missOf s1 t c).find? (fun m => decide (m.la = la) && fillReady s1 m)).bind (fun m => closeMiss t c m s1)

/-- Something that holds a column up ends: a reduction, a full write-back buffer's oldest line, its oldest register. -/
def relieve (t : Tower) (c : Nat) (s : State) : State :=
  match (s.loft.tw.get t).reducing.find? (fun r => decide (reqColumn s t r = c)) with
  | some r => runReduction t r s
  | none =>
    if wbFull s t c then wbPop t c s
    else match missOf s t c with
      | m :: _ => (closeNow t c m.la s).getD s
      | [] => s

/-- A request waits at its column: on its way, at the press unit, in a register or a hold slot. -/
def requestWaits (s : State) (t : Tower) (c id : Nat) : Bool :=
  let w := s.loft.tw.get t
  let is := fun (r : LoftReq) => decide (r.id = id)
  w.arrivals.any is || w.reducing.any is || (missOf s t c).any (fun m => m.waiters.any is) || (holdOf s t c).any is

/-- One step toward the service of a request: the first that waits of its line is served, what holds it up ends. -/
def pump (t : Tower) (c id : Nat) (s : State) : State :=
  let w := s.loft.tw.get t
  match w.arrivals.find? (fun r => decide (r.id = id)) with
  | some r =>
    match w.reducing.find? (fun x => decide (reqLine x = reqLine r)) with
    | some x => runReduction t x s
    | none =>
      let first := (w.arrivals.find? (fun x => decide (reqLine x = reqLine r))).getD r
      if 8 ≤ (holdOf s t c).length then relieve t c s
      else match serveRequest t c first s with
        | some s1 => leaveArrivals t first.id s1
        | none => relieve t c s
  | none =>
    match w.reducing.find? (fun r => decide (r.id = id)) with
    | some r => runReduction t r s
    | none =>
      match (missOf s t c).find? (fun m => m.waiters.any (fun r => decide (r.id = id))) with
      | some m => (closeNow t c m.la s).getD (relieve t c s)
      | none => relieve t c s

/-- A request is served: steps until it waits no more. -/
def serveUntil (t : Tower) (c id : Nat) : Nat → State → State
  | 0, s => s
  | n + 1, s => if requestWaits s t c id then serveUntil t c id n (pump t c id s) else s

/-- Steps that always suffice for a request. -/
def pumpFuel (s : State) (t : Tower) (c : Nat) : Nat :=
  let w := s.loft.tw.get t
  8 * (w.arrivals.length + w.reducing.length + (holdOf s t c).length
    + ((missOf s t c).map (fun m => m.waiters.length + 1)).foldl (· + ·) 0 + 8)

/-- A request joins the others at its home tower and is served. Answers its number. -/
def askLoft (g : Agent) (job a : Nat) (kind : ReqKind) (noAlloc : Bool) (s : State) : State × Nat :=
  let t := homeTower s a
  let id := s.cores.nextTag
  let r : LoftReq := ⟨id, a, job, none, kind, noAlloc, g⟩
  let s1 := (s.onCores (fun x => { x with nextTag := x.nextTag + 1 })).onLoft (fun x => { x with
    tw := x.tw.mod t (fun w => { w with arrivals := w.arrivals ++ [r] }) })
  let c := reqColumn s t r
  (serveUntil t c id (pumpFuel s1 t c) s1, id)

/-- Take what a read has been answered; where its stack serves nothing, what the address shows. -/
def takeAnswer (id a n : Nat) (s : State) : State × List Byte × List Nat :=
  match tabGet s.loft.answers id with
  | some v => (s.onLoft (fun x => { x with answers := tabDel x.answers id }), v)
  | none => (s, viewBytes s a n, viewPoison s a n)

/-- Reductions that the press units of a tower have started finish (R173). -/
def finishReductions (t : Tower) (s : State) : State := (s.loft.tw.get t).reducing.foldl (fun st r => runReduction t r st) s

/-- Every request that waits at a tower's loft is served, in the order of its column. -/
def drainTower (t : Tower) (s : State) : State :=
  let w := s.loft.tw.get t
  (w.reducing ++ w.miss.flatMap (fun e => e.2.flatMap (·.waiters)) ++ w.hold.flatMap (·.2) ++ w.arrivals).foldl
    (fun st r => serveUntil t (reqColumn st t r) r.id (pumpFuel st t (reqColumn st t r)) st) s

/-- Every channel serves all it holds. -/
def drainChans (s : State) : State :=
  s.hbm.chans.foldl (fun st e =>
    driveChan e.1 0 (fun z => (chanAt z e.1).reqs.isEmpty) (2 * (chanAt st e.1).reqs.length + 2) st) s

/-! ### Agents (Table 6.8, Table 7.5, R198, R206) -/

/-- An agent other than a source read of a copy engine: its lookups count and its misses place the line. -/
def Agent.of (holder : Nat) : Agent := { Agent.core with holder := holder }

/-- An agent whose data come through a receive buffer (R227). -/
def Agent.rxOf (holder : Nat) : Agent := { Agent.core with holder := holder, rx := true }

/-- An agent whose misses pass BULK by and whose lookups do not count (R198, R206). -/
def Agent.past (holder : Nat) (early : Bool) : Agent :=
  { holder := holder, counted := false, alloc := false, early := early, staged := false, rx := false }

/-! ### Reads and writes -/

/-- Nothing is on its way to the loft, or at its press units. -/
def loftQuiet (s : State) : Bool :=
  bothTowers.all (fun t => decide ((s.loft.tw.get t).arrivals = []) && decide ((s.loft.tw.get t).reducing = []))

/-- First use of the staged granules a range touches. -/
def touchGranules (a n : Nat) (s : State) : State :=
  (cutRange 65536 a n).foldl (fun st p => touchGranule (homeTower st p.1) p.1 st) s

/-- A read of a byte range: the data and the poisoned sectors. -/
def engineRead (g : Agent) (job a n : Nat) (s : State) : State × List Byte × List Nat :=
  if isPinned a && loftQuiet s then
    let s1 := pinCheck job g.holder 0 a n (if g.holder = 4 then s else touchGranules a n s)
    (s1, viewBytes s1 a n, viewPoison s1 a n)
  else
    (cutRange 256 a n).foldl (fun acc p =>
      let (s1, id) := askLoft g job p.1 (.read p.2) false acc.1
      let (s2, bs, pz) := takeAnswer id p.1 p.2 s1
      (s2, acc.2.1 ++ bs, acc.2.2 ++ pz)) (s, [], [])

/-- A write of a byte range; `pz` are the sectors (address ÷ 32) it poisons. Without allocation it goes to HBM in blocks wherever
nothing of its line is held (R275). -/
def engineWrite (g : Agent) (job : Nat) (noAlloc : Bool) (a : Nat) (bs : List Byte) (pz : List Nat) (s : State) : State :=
  if isPinned a && loftQuiet s then pinStore a bs pz s
  else (cutAt 256 a bs).foldl (fun st p =>
    let zs := pz.filter (fun k => decide (p.1 < (k + 1) * 32 ∧ k * 32 < p.1 + p.2.length))
    (askLoft g job p.1 (.store (p.2.mapIdx (fun i b => (p.1 + i, b))) zs) noAlloc st).1) s

/-- Memory-side reductions that an engine or the fabric asks for, block by block in order: at the press for pinned bays and lines in
BULK, and elsewhere where allocation is wanted; else at the floor's adders (R229, R272, R275). -/
def engineReduce (g : Agent) (job : Nat) (noAlloc : Bool) (op : RedOp) (ty : RedTy) (ops : List LaneOp) (s : State) : State :=
  let blocks := (ops.map (fun o => blockOf o.addr)).foldl (fun (l : List Nat) b => if l.contains b then l else l ++ [b]) []
  blocks.foldl (fun st b =>
    (askLoft g job b (.reduce op ty (ops.filter (fun o => decide (blockOf o.addr = b))) none) noAlloc st).1) s

/-- A write past BULK, in blocks merged by the controller, after the write-backs of the lines it touches (R217, R275, R338). -/
def hbmDirect (g : Agent) (a : Nat) (bs : List Byte) (pz : List Nat) (s : State) : State :=
  (cutAt 64 a bs).foldl (fun st p =>
    hbmSend p.1 true p.2 (pz.any (fun k => decide (p.1 < (k + 1) * 32 ∧ k * 32 < p.1 + p.2.length))) g.holder g.early g.rx .other
      (wbDrain (p.1 / 256) st)) (fineInvalidate a bs.length s)

/-- A reduction at the floor's adder of a block, past BULK. -/
def adderDirect (g : Agent) (job b : Nat) (op : RedOp) (ty : RedTy) (ops : List LaneOp) (s : State) : State :=
  hbmSend b false [] false g.holder g.early g.rx (.adder op ty job ops none) (wbDrain (b / 256) (fineInvalidate b 64 s))

/-- A read of a block past BULK: the channel serves what it holds of the block first (R217). -/
def hbmReadNow (g : Agent) (job a : Nat) (s : State) : State × List Byte × List Nat :=
  let id := s.cores.nextTag
  let b := blockOf a
  let s1 := hbmSend b false [] false g.holder g.early g.rx (.direct id job)
    (wbDrain (b / 256) (s.onCores (fun x => { x with nextTag := x.nextTag + 1 })))
  takeAnswer id b 64 (driveAddr b (fun z => (tabGet z.loft.answers id).isSome) s1)

/-- BULK holds the line of an address, or a miss register or hold slot is open for it (R275). -/
def inBulk (s : State) (a : Nat) : Bool :=
  let la := a / 256
  let t := homeTower s a
  (tabGet s.loft.bulk la).isSome || decide (lineWaiting s t (bulkColumn s t la) la ≠ [])

/-! ### Fetches through FINE (R195 to R197) -/

/-- A fetch of one pair of sectors: its miss, if it opens or joins one, ends. -/
def finePair (cls job a : Nat) (s : State) : State :=
  let t := homeTower s a
  let lf := a / 128
  let sec := if a % 128 < 64 then 0 else 2
  let is := fun (m : FineMiss) => decide (m.lf = lf ∧ m.sector = sec)
  let (s1, _) := askLoft (Agent.past (fineHolder cls) false) job a (.fine cls) false s
  if (s1.loft.tw.get t).fineMiss.any is then
    let s2 := driveAddr a (fun z => (z.loft.tw.get t).fineMiss.any (fun m => is m && m.arrived)) s1
    match (s2.loft.tw.get t).fineMiss.find? (fun m => is m && m.arrived) with
    | some m => fineClose t m s2
    | none => s2
  else s1

/-- A fetch of a class of Table 6.7 from HBM through FINE; pinned bytes are read in place. Classes: 0 MC, 1 sheaf, 2 fabric
descriptor, 3 gather. A frame whose registers are all in use serves its oldest first. -/
def fineRead (cls job a n : Nat) (s : State) : State × List Byte × List Nat :=
  if isPinned a then engineRead (Agent.of (fineHolder cls)) job a n s
  else
    let s1 := (cutRange 64 a n).foldl (fun st p => finePair cls job (blockOf p.1) st) s
    (s1, viewBytes s1 a n, viewPoison s1 a n)

/-! ### Evictions outside replacement (R183, R188, R202 to R205) -/

/-- Whether a column's buffer will still hold a line's write-back. -/
def lineBuffered (s : State) (t : Tower) (c la : Nat) : Bool := (wbOf s t c).any (fun w => decide (w.la = la ∧ w.dirty ≠ 0#4))

/-- Evict a line for a conversion or a bucket move, after the reductions that lock it. Answers the lines whose write-back is
awaited and the dirty bytes that leave. -/
def evictForMove (la : Nat) (acc : State × List Nat × Nat) : State × List Nat × Nat :=
  let s := settleLine la acc.1
  match tabGet s.loft.bulk la with
  | none => (s, acc.2)
  | some l =>
    if l.dirty = 0#4 then (evictNow la l s, acc.2) else (evictNow la l s, acc.2.1 ++ [la], acc.2.2 + dirtyBytes l.dirty)

/-- Give a column a new frame table: lines of moved buckets leave their old frames (R188). -/
def setFrames (t : Tower) (c : Nat) (tab : List Nat) (acc : State × List Nat × Nat) : State × List Nat × Nat :=
  let s := acc.1
  let moved := (s.loft.bulk.filter (fun e => decide (e.2.tower = t ∧ e.2.col = c ∧ tab.getD (bulkBucket e.1) 8 ≠ e.2.row))).map (·.1)
  let s1 := s.onLoft (fun x => { x with
    tw := x.tw.mod t (fun w => { w with frames := if tab = frameInit c then tabDel w.frames c else tabPut w.frames c tab }) })
  moved.foldl (fun a la => evictForMove la a) (s1, acc.2)

/-- Write back a line and keep it clean, or remove it, after the reductions that lock it. Answers as evictForMove does, and lines
removed. -/
def cleanLine (inval : Bool) (la : Nat) (acc : State × List Nat × Nat × Nat) : State × List Nat × Nat × Nat :=
  let s := settleLine la acc.1
  match tabGet s.loft.bulk la with
  | none => (s, acc.2)
  | some l =>
    let s0 := if l.dirty ≠ 0#4 ∧ wbFull s l.tower l.col then wbPop l.tower l.col s else s
    let s1 := if l.dirty = 0#4 then s0 else wbPush la l s0
    let s2 := if inval then dropLine la l s1 else s1.onLoft (fun x => { x with bulk := tabMod x.bulk la (fun y => { y with dirty := 0#4 }) })
    (s2, if l.dirty = 0#4 then acc.2.1 else acc.2.1 ++ [la], acc.2.2.1 + dirtyBytes l.dirty, acc.2.2.2 + (if inval then 1 else 0))

/-- A line cannot be written back: its stack is lost, or none of the five bond groups of its channel's port on the way down is left
(R16, R205, R247; DEDUCED, log 56). -/
def pathFaulted (s : State) (la : Nat) : Bool :=
  let l := locOf s (la * 256)
  (tabGetD s.hbm.hbmStacks l.stack Stack.fresh).lost
    || decide (5 ≤ s.vl.groups.countP (fun e => e.2.retired && decide (e.1 / 2 ^ 16 = l.stack / 8 ∧ e.1 / 2 ^ 13 % 8 = 1
      ∧ groupUnit 1 (e.1 % 2 ^ 13) = l.stack % 8 * 32 + l.channel)))

/-- A line leaves at once for a reset, a power state or a retirement: its write-back is accepted in order, or its dirty quarters are
discarded, and counted, where its path has faulted. -/
def flushOut (la : Nat) (acc : State × Nat) : State × Nat :=
  let s := settleLine la acc.1
  match tabGet s.loft.bulk la with
  | none => (s, acc.2)
  | some l =>
    if l.dirty ≠ 0#4 && pathFaulted s la then (dropLine la l s, acc.2 + 1)
    else (evictNow la l s, acc.2)

/-- A column's buffered lines are accepted in order; those whose path has faulted are discarded and counted. -/
def wbEmpty (t : Tower) (c : Nat) (acc : State × Nat) : State × Nat :=
  let s := acc.1
  let lost := (wbOf s t c).filter (fun w => decide (w.dirty ≠ 0#4) && pathFaulted s w.la)
  let s1 := s.onLoft (fun x => { x with tw := x.tw.mod t (fun w => { w with
    wb := putList w.wb c ((tabGetD w.wb c []).map (fun e => if pathFaulted s e.la then { e with dirty := 0#4 } else e)) }) })
  (wbPops t c (wbOf s1 t c).length s1, acc.2 + lost.length)

/-- Write back and invalidate BULK, and invalidate FINE, of a tower, as a reset or a power state does (R205, R393). Answers the lines
discarded. -/
def flushTower (t : Tower) (acc : State × Nat) : State × Nat :=
  let las := (acc.1.loft.bulk.filter (fun e => decide (e.2.tower = t))).map (·.1)
  let acc1 := las.foldl (fun a la => flushOut la a) acc
  let (s2, n) := ((acc1.1.loft.tw.get t).wb.map (·.1)).foldl (fun a c => wbEmpty t c a) acc1
  (s2.onLoft (fun x => { x with tw := x.tw.mod t (fun w => { w with fine := [], fineMiss := [] }) }), n)

/-- Write back and invalidate BULK and FINE of towers. -/
def flushTowers (ts : List Tower) (s : State) : State := (ts.foldl (fun a t => flushTower t a) (s, 0)).1

/-- Lines of BULK that lie in ranges. -/
def linesIn (s : State) (rs : List (Nat × Nat)) : List Nat :=
  (s.loft.bulk.filter (fun e => rs.any (fun r => decide (r.1 < e.1 * 256 + 256 ∧ e.1 * 256 < r.1 + r.2)))).map (·.1)

/-- Remove FINE lines that meet ranges. -/
def fineDrop (rs : List (Nat × Nat)) (s : State) : State := rs.foldl (fun st r => fineInvalidate r.1 r.2 st) s

/-- WRITEBACK_ACCEPTED: HBM accepts the oldest line of a column's write-back buffer (R193, R201), where the port of its channel takes
requests (R216). -/
def writebackAccepted (t : Tower) (col : Nat) (s : State) : State :=
  match wbOf s t col with
  | [] => s
  | e :: _ =>
    let k := chanOf s (e.la * 256)
    let s1 := acceptAll k (chanAt s k).input.length s
    let c := chanAt s1 k
    if c.input = [] ∧ c.side.length < 16 ∧ c.queue.length < 128 then
      let s2 := wbPop t col s1
      acceptAll k (chanAt s2 k).input.length s2
    else s1

def execWritebackAccepted (t : Tower) (col : Nat) (s : State) : Host.Outcome State Fault Refusal :=
  .next (writebackAccepted t col s)

end Sys2Proof.Machine
end

