-- ==== Sys2Proof/Machine/Crypto.lean ====
section
/-! DEFINITION. SHA-256 and the verification of HSS signatures and signature blocks (15_trust.md R438, R439; RFC 8554). -/

namespace Sys2Proof.Machine

/-! ### SHA-256 -/

/-- The 64 round constants. -/
def shaK : List W32 :=
  [0x428a2f98, 0x71374491, 0xb5c0fbcf, 0xe9b5dba5, 0x3956c25b, 0x59f111f1, 0x923f82a4, 0xab1c5ed5] ++
  [0xd807aa98, 0x12835b01, 0x243185be, 0x550c7dc3, 0x72be5d74, 0x80deb1fe, 0x9bdc06a7, 0xc19bf174] ++
  [0xe49b69c1, 0xefbe4786, 0x0fc19dc6, 0x240ca1cc, 0x2de92c6f, 0x4a7484aa, 0x5cb0a9dc, 0x76f988da] ++
  [0x983e5152, 0xa831c66d, 0xb00327c8, 0xbf597fc7, 0xc6e00bf3, 0xd5a79147, 0x06ca6351, 0x14292967] ++
  [0x27b70a85, 0x2e1b2138, 0x4d2c6dfc, 0x53380d13, 0x650a7354, 0x766a0abb, 0x81c2c92e, 0x92722c85] ++
  [0xa2bfe8a1, 0xa81a664b, 0xc24b8b70, 0xc76c51a3, 0xd192e819, 0xd6990624, 0xf40e3585, 0x106aa070] ++
  [0x19a4c116, 0x1e376c08, 0x2748774c, 0x34b0bcb5, 0x391c0cb3, 0x4ed8aa4a, 0x5b9cca4f, 0x682e6ff3] ++
  [0x748f82ee, 0x78a5636f, 0x84c87814, 0x8cc70208, 0x90befffa, 0xa4506ceb, 0xbef9a3f7, 0xc67178f2]

/-- The eight working words. -/
structure Sha where
  a : W32
  b : W32
  c : W32
  d : W32
  e : W32
  f : W32
  g : W32
  h : W32
deriving DecidableEq, Repr

/-- The initial hash value. -/
def Sha.init : Sha :=
  ⟨0x6a09e667, 0xbb67ae85, 0x3c6ef372, 0xa54ff53a, 0x510e527f, 0x9b05688c, 0x1f83d9ab, 0x5be0cd19⟩

/-- Round function. -/
def shaRound (s : Sha) (k w : W32) : Sha :=
  let s1 := s.e.rotateRight 6 ^^^ s.e.rotateRight 11 ^^^ s.e.rotateRight 25
  let ch := (s.e &&& s.f) ^^^ (~~~s.e &&& s.g)
  let t1 := s.h + s1 + ch + k + w
  let s0 := s.a.rotateRight 2 ^^^ s.a.rotateRight 13 ^^^ s.a.rotateRight 22
  let maj := (s.a &&& s.b) ^^^ (s.a &&& s.c) ^^^ (s.b &&& s.c)
  ⟨t1 + (s0 + maj), s.a, s.b, s.c, s.d + t1, s.e, s.f, s.g⟩

/-- Rounds over a window of 16 schedule words: the first is used, and the next of the schedule joins at the end. -/
def shaRounds : List W32 → List W32 → Sha → Sha
  | [], _, s => s
  | _, [], s => s
  | k :: ks, w :: ws, s =>
    let x := ws.getD 13 0; let y := ws.getD 0 0
    let n := (x.rotateRight 17 ^^^ x.rotateRight 19 ^^^ (x >>> 10)) + ws.getD 8 0 + (y.rotateRight 7 ^^^ y.rotateRight 18 ^^^ (y >>> 3)) + w
    shaRounds ks (ws ++ [n]) (shaRound s k w)

/-- One block of 64 bytes. -/
def shaBlock (s : Sha) (bs : List Byte) : Sha :=
  let ws := (List.range 16).map (fun i => BitVec.ofNat 32 (beNat (sliceBytes bs (4 * i) 4)))
  let r := shaRounds shaK ws s
  ⟨s.a + r.a, s.b + r.b, s.c + r.c, s.d + r.d, s.e + r.e, s.f + r.f, s.g + r.g, s.h + r.h⟩

/-- The padded message. -/
def shaPad (bs : List Byte) : List Byte :=
  bs ++ [0x80#8] ++ List.replicate ((119 - bs.length % 64) % 64) 0#8 ++ beBytes (8 * bs.length) 8

/-- `n` blocks of a message. -/
def shaBlocks : Nat → List Byte → Sha → Sha
  | 0, _, s => s
  | n + 1, bs, s => shaBlocks n (bs.drop 64) (shaBlock s (bs.take 64))

/-- SHA-256. -/
def sha256 (bs : List Byte) : List Byte :=
  let p := shaPad bs
  let s := shaBlocks (p.length / 64) p Sha.init
  [s.a, s.b, s.c, s.d, s.e, s.f, s.g, s.h].flatMap (fun w => beBytes w.toNat 4)

/-! ### LM-OTS and LMS -/

/-- Coefficient i of w bits of a byte string. -/
def otsCoef (bs : List Byte) (i w : Nat) : Nat :=
  let per := 8 / w
  (bs.getD (i / per) 0#8).toNat / 2 ^ (w * (per - 1 - i % per)) % 2 ^ w

/-- Chains and coefficient width of an accepted LM-OTS type. -/
def otsSet (ty : Nat) : Option (Nat × Nat) := if ty = 3 then some (67, 4) else if ty = 4 then some (34, 8) else none

/-- Height of an accepted LMS type. -/
def lmsHeight (ty : Nat) : Option Nat := if 6 ≤ ty ∧ ty ≤ 9 then some (10 + 5 * (ty - 6)) else none

/-- The checksum bytes of a message digest. -/
def otsChecksum (q : List Byte) (w : Nat) : List Byte :=
  let n := 256 / w
  let sum := ((List.range n).map (fun i => 2 ^ w - 1 - otsCoef q i w)).foldl (· + ·) 0
  beBytes (if w = 4 then sum * 16 else sum) 2

/-- A hash chain from step j, `n` steps. -/
def otsChain (pre : List Byte) (i : Nat) : Nat → Nat → List Byte → List Byte
  | _, 0, y => y
  | j, n + 1, y => otsChain pre i (j + 1) n (sha256 (pre ++ beBytes i 2 ++ beBytes j 1 ++ y))

/-- The candidate public key of an LM-OTS signature. -/
def otsCandidate (pre : List Byte) (p w : Nat) (sig msg : List Byte) : List Byte :=
  let q := sha256 (pre ++ beBytes 0x8181 2 ++ sliceBytes sig 4 32 ++ msg)
  let d := q ++ otsChecksum q w
  let zs := (List.range p).flatMap (fun i =>
    let a := otsCoef d i w
    otsChain pre i a (2 ^ w - 1 - a) (sliceBytes sig (36 + 32 * i) 32))
  sha256 (pre ++ beBytes 0x8080 2 ++ zs)

/-- Climb an authentication path from a node to the root. -/
def lmsClimb (ident : List Byte) : List (List Byte) → Nat → List Byte → List Byte
  | [], _, t => t
  | y :: ys, n, t =>
    let pre := ident ++ beBytes (n / 2) 4 ++ beBytes 0x8383 2
    lmsClimb ident ys (n / 2) (sha256 (if n % 2 = 1 then pre ++ y ++ t else pre ++ t ++ y))

/-- Length of an LMS signature under a public key, where its type codes are accepted. -/
def lmsSigBytes (pub : List Byte) : Option Nat :=
  match lmsHeight (beNat (sliceBytes pub 0 4)), otsSet (beNat (sliceBytes pub 4 4)) with
  | some h, some (p, _) => some (8 + 36 + 32 * p + 32 * h)
  | _, _ => none

/-- An LMS signature verifies under a 56-byte public key. -/
def lmsVerify (pub sig msg : List Byte) : Bool :=
  match lmsHeight (beNat (sliceBytes pub 0 4)), otsSet (beNat (sliceBytes pub 4 4)) with
  | some h, some (p, w) =>
    let ident := sliceBytes pub 8 16
    let q := beNat (sliceBytes sig 0 4)
    let ots := (sig.drop 4).take (36 + 32 * p)
    let at_ := 4 + 36 + 32 * p
    decide (sig.length = 8 + 36 + 32 * p + 32 * h) && decide (q < 2 ^ h) && decide (sliceBytes ots 0 4 = sliceBytes pub 4 4)
      && decide (sliceBytes sig at_ 4 = sliceBytes pub 0 4)
      && (let kc := otsCandidate (ident ++ beBytes q 4) p w ots msg
          let leaf := sha256 (ident ++ beBytes (2 ^ h + q) 4 ++ beBytes 0x8282 2 ++ kc)
          let path := (List.range h).map (fun i => sliceBytes sig (at_ + 4 + 32 * i) 32)
          decide (lmsClimb ident path (2 ^ h + q) leaf = sliceBytes pub 24 32))
  | _, _ => false

/-- An HSS signature verifies under a 60-byte public key, with 1 or 2 levels (R438). -/
def hssVerify (pub sig msg : List Byte) : Bool :=
  let levels := beNat (sliceBytes pub 0 4)
  let top := sliceBytes pub 4 56
  decide (levels = beNat (sliceBytes sig 0 4) + 1) && decide (4 ≤ sig.length) &&
    (if levels = 1 then lmsVerify top (sig.drop 4) msg
     else if levels = 2 then
       match lmsSigBytes top with
       | some n =>
         let key := sliceBytes sig (4 + n) 56
         lmsVerify top ((sig.drop 4).take n) key && lmsVerify key (sig.drop (60 + n)) msg
       | none => false
     else false)

/-! ### Signature blocks (R439) -/

/-- Bytes with a range set to zeros. -/
def zeroRange (bs : List Byte) (off n : Nat) : List Byte :=
  bs.take off ++ List.replicate (min n (bs.length - off)) 0#8 ++ bs.drop (off + n)

/-- The digest of an image whose signature block lies at an offset: its measurement. -/
def imageDigest (img : List Byte) (off n : Nat) : List Byte := sha256 (zeroRange img off n)

/-- The CRC-32C of an image with its CRC field at `crcOff` and its signature block taken as zeros. -/
def imageZeroed (img : List Byte) (crcOff off n : Nat) : List Byte := zeroRange (zeroRange img crcOff 4) off n

/-- A signature block verifies against a key hash. -/
def blockVerifies (hash img : List Byte) (off n : Nat) : Bool :=
  let b := (img.drop off).take n
  decide (0x48 ≤ n ∧ b.length = n ∧ fieldAt b 0 4 = 0x42534D4C ∧ fieldAt b 0x44 4 + 0x48 = n) && zeroAt b 5 3
    && decide (sha256 (sliceBytes b 8 60) = hash)
    && hssVerify (sliceBytes b 8 60) (b.drop 0x48) (imageDigest img off n)

end Sys2Proof.Machine
end

