-- ==== Sys2Proof/Machine/Bays.lean ====
section
/-! DEFINITION. The loft's commands and events: LOFT.PIN, LOFT.UNPIN, LOFT.QUOTA, LOFT.FLUSH, LOFT_THRASH and BANK_HOT (06_loft.md R181
to R186, R203, R204, R206, R207). -/

namespace Sys2Proof.Machine

/-- A loft command that has evicted lines: it completes when their write-backs are accepted, at once if there are none. -/
def loftWait (c : Cmd) (las : List Nat) (result : List Byte) (s : State) : State :=
  let s1 := markStarted c s
  if las = [] then loftFinish c.mb result s1
  else s1.onLoft (fun x => { x with waiting := tabPut x.waiting c.mb (c.job, las, result) })

/-! ### LOFT.PIN, LOFT.UNPIN, LOFT.QUOTA, LOFT.FLUSH (R181 to R186, R203, R204) -/

/-- Pinned bays of a job in a tower. -/
def pinsOf (s : State) (job : Nat) (t : Tower) : Nat :=
  s.loft.bays.countP (fun e => decide (e.2.job = job ∧ e.1 / 4096 = towerNum t))

/-- A quota field. -/
def quotaField (q : Option Nat) : Nat := q.getD 0xFFFF

/-- Bay numbers of a run. -/
def runBays (addr count : Nat) : List Nat := (List.range count).map (fun i => bayNum addr + i)

/-- A bay that LOFT.PIN must refuse: FINE, retired, outside the map, or pinned (R182). -/
def bayBad (s : State) (job : Nat) (b : Nat) : Bool :=
  let c := b % 512; let r := b % 4096 / 512; let t := towerOf (b / 4096)
  (decide (384 ≤ c) && decide (r = 7)) || (s.loft.tw.get t).retired.contains c
    || !(((jobAt s job).map (fun j => j.map.any (fun e => entryHolds e (pinBase + b * pageBytes)))).getD false)
    || (tabGet s.loft.bays b).isSome

/-- The run is well placed: aligned, counted 1 to 4,096, in the window and in one tower. -/
def runBad (addr count : Nat) : Bool :=
  decide (addr % pageBytes ≠ 0) || decide (count < 1 ∨ 4096 < count) || !isPinned addr
    || decide (pinBase + 0x400000000 < addr + count * pageBytes)
    || decide (bayNum addr / 4096 ≠ (bayNum addr + count - 1) / 4096)

/-- Index of the first bay of a run that would leave its column without a BULK frame. -/
def ceilingBad (s : State) (t : Tower) (bays : List Nat) : Option Nat :=
  (List.range bays.length).find? (fun i =>
    let c := bays.getD i 0 % 512
    decide ((bulkRows s t c).length ≤ ((bays.take (i + 1)).filter (fun b => decide (b % 512 = c))).length))

/-- Result of LOFT.PIN (Table 6.4). -/
def pinResult (s : State) (job : Nat) (t : Tower) (fail wb : Nat) : List Byte :=
  leBytes fail 4 ++ leBytes (pinsOf s job t) 2 ++ leBytes (quotaField (((jobAt s job).map (fun j => j.quota.get t)).getD none)) 2
    ++ leBytes wb 8 ++ leBytes 0 4 ++ leBytes 0 4

/-- Words of the frame of bay b: 1 MiB in each die of its column, which a zero fill writes anew (R180). -/
def frameWord (b k : Nat) : Bool :=
  decide (k / (32 * 32768 * 512) / 2 = b / 4096 ∧ k / (32 * 32768) % 512 = b % 512 ∧ k / 32 % 32768 / 4096 = b % 4096 / 512)

/-- A bay's bytes become zeros with valid check bits. -/
def zeroBay (b : Nat) (x : LoftSt) : LoftSt :=
  { x with
    pinMem := memClear x.pinMem (pinBase + b * pageBytes) pageBytes
    pinPoison := x.pinPoison.filter (fun e => decide (e.1 / 65536 ≠ (pinBase + b * pageBytes) / pageBytes))
    flips := x.flips.filter (fun e => !frameWord b e.1) }

/-- Convert one BULK frame into a pinned, zero-filled one (R183). -/
def convertFrame (t : Tower) (job layout : Nat) (b : Nat) (acc : State × List Nat × Nat) : State × List Nat × Nat :=
  let c := b % 512; let r := b % 4096 / 512
  let (s1, las) := setFrames t c (frameLeaves (frameTable acc.1 t c) (bulkRows acc.1 t c) r) acc
  (s1.onLoft (fun x => zeroBay b { x with bays := tabPut x.bays b { job := job, layout := layout } }), las)

/-- A loft command of the job is in progress. -/
def loftBusy (s : State) (job : Nat) : Bool := s.loft.waiting.any (fun e => decide (e.2.1 = job))

/-- LOFT.PIN (R181 to R183). -/
def loftPin (c : Cmd) (s : State) : State :=
  let addr := par c 0 8; let count := par c 8 4; let lay := par c 0x0C 1
  let t := towerOf (bayNum addr / 4096)
  let bays := runBays addr count
  let fail := fun (i st : Nat) => complete c st (pinResult s c.job t i 0) s
  if c.length ≠ 16 then complete c stBadLength [] s
  else if hdrBad c || parRes c 0x0D 3 || (jobAt s c.job).isNone || runBad addr count || decide (1 < lay) then fail noIndex stBadField
  else match bays.findIdx? (bayBad s c.job) with
    | some i => fail i stBadField
    | none =>
      let q := ((jobAt s c.job).map (fun j => j.quota.get t)).getD none
      if (match q with | some n => decide (n < pinsOf s c.job t + count) | none => false) then fail noIndex stOverQuota
      else match ceilingBad s t bays with
        | some i => fail i stPinCeiling
        | none =>
          if loftBusy s c.job then fail noIndex stBusy
          else
            let (s1, las, wb) := bays.foldl (fun a b => convertFrame t c.job lay b a) (s, [], 0)
            loftWait c (las.filter (fun la => lineBuffered s1 t (bulkColumn s1 t la) la)) (pinResult s1 c.job t noIndex wb) s1

def execLoftPin (mb : Nat) (s : State) : Host.Outcome State Fault Refusal := .next (runCmd 0x0300 mb loftPin s)

/-- Unpin a bay: its contents are discarded and its frame joins BULK (R184, R188). -/
def unpinBay (b : Nat) (acc : State × List Nat × Nat) : State × List Nat × Nat :=
  let t := towerOf (b / 4096); let c := b % 512; let r := b % 4096 / 512
  let rows := bulkRows acc.1 t c
  let s1 := acc.1.onLoft (fun x => zeroBay b { x with bays := tabDel x.bays b })
  setFrames t c (frameJoins (frameTable acc.1 t c) rows r) (s1, acc.2)

/-- A page-set entry of an admitted or running sheaf of the job declares a bay. -/
def sheafDeclares (s : State) (job : Nat) (a : Nat) : Bool :=
  match jobAt s job with
  | some j =>
    let live := fun (o : Option Sheaf) => match o with
      | some sh => sh.pagesets.any (fun e => entryHolds e a)
      | none => false
    (live j.sheaf && decide (j.state = .running)) || live j.next
  | none => false

/-- LOFT.UNPIN (R184). -/
def loftUnpin (c : Cmd) (s : State) : State :=
  let addr := par c 0 8; let count := par c 8 4
  let t := towerOf (bayNum addr / 4096)
  let bays := runBays addr count
  judged c [(decide (c.length ≠ 16), stBadLength),
    (hdrBad c || parRes c 0x0C 4 || (jobAt s c.job).isNone || runBad addr count
      || bays.any (fun b => decide ((tabGet s.loft.bays b).map (·.job) ≠ some c.job)), stBadField),
    (loftBusy s c.job || bays.any (fun b => sheafDeclares s c.job (pinBase + b * pageBytes)), stBusy)] s
    (let (s1, las, _) := bays.foldl (fun a b => unpinBay b a) (s, [], 0)
     loftWait c (las.filter (fun la => lineBuffered s1 t (bulkColumn s1 t la) la)) (leBytes (pinsOf s1 c.job t) 2 ++ leBytes count 2) s1)

def execLoftUnpin (mb : Nat) (s : State) : Host.Outcome State Fault Refusal := .next (runCmd 0x0301 mb loftUnpin s)

/-- Result of LOFT.QUOTA. -/
def quotaResult (s : State) (job : Nat) : List Byte :=
  let q := fun t => quotaField (((jobAt s job).map (fun j => j.quota.get t)).getD none)
  let u := fun t => if (jobAt s job).isSome then pinsOf s job t else 0
  leBytes (u .t0) 2 ++ leBytes (u .t1) 2 ++ leBytes (q .t0) 2 ++ leBytes (q .t1) 2 ++ leBytes s.loft.thrashPct 1
    ++ leBytes 0 3 ++ leBytes s.loft.bankhotMin 4

/-- LOFT.QUOTA (R185, R186). -/
def loftQuota (c : Cmd) (s : State) : State :=
  let fl := par c 0 2; let q0 := par c 2 2; let q1 := par c 4 2; let pct := par c 6 1; let hot := par c 8 4
  let qBad := fun q => decide (3456 < q ∧ q ≠ 0xFFFF)
  let opt := fun q => if q = 0xFFFF then none else some q
  judged c [(decide (c.length ≠ 16), stBadLength),
    (hdrBad c || decide (7 < fl) || parRes c 7 1 || parRes c 0x0C 4
      || (bitOf fl 0 && ((jobAt s c.job).isNone || qBad q0 || qBad q1))
      || (decide (c.job ≠ 0) && (jobAt s c.job).isNone) || (bitOf fl 1 && decide (100 < pct)), stBadField)] s
    (let s1 := if bitOf fl 0 then s.onJob c.job (fun j => { j with quota := ⟨opt q0, opt q1⟩ }) else s
     let s2 := s1.onLoft (fun x => { x with
       thrashPct := if bitOf fl 1 then pct else x.thrashPct
       bankhotMin := if bitOf fl 2 then hot else x.bankhotMin })
     complete c stDone (quotaResult s2 c.job) s2)

def execLoftQuota (mb : Nat) (s : State) : Host.Outcome State Fault Refusal := .next (runCmd 0x0302 mb loftQuota s)

/-- Buffered write-backs of dirty lines that lie in ranges (R204). -/
def bufferedIn (s : State) (rs : List (Nat × Nat)) : List Nat :=
  bothTowers.flatMap (fun t => (s.loft.tw.get t).wb.flatMap (fun e => (e.2.filter (fun w => decide (w.dirty ≠ 0#4)
    && rs.any (fun r => decide (r.1 < w.la * 256 + 256 ∧ w.la * 256 < r.1 + r.2)))).map (·.la)))

/-- LOFT.FLUSH (R203, R204). -/
def loftFlush (c : Cmd) (s : State) : State :=
  let addr := par c 0 8; let n := par c 8 8; let fl := par c 0x10 4
  let whole := bitOf fl 1; let inval := bitOf fl 0
  let devWide := whole && decide (c.job = 0)
  let map := ((jobAt s c.job).map (·.map)).getD []
  let pages := (map.filter (fun e => decide (e.space = 0))).map (fun e => (e.base, e.count * pageBytes))
  let rs := if devWide then [(0, hbmTop)] else if whole then pages else [(addr, n)]
  let las := linesIn s rs
  let waitNs := if (las.any (fun la => ((tabGet s.loft.bulk la).map (·.locked)).getD false)) then Config.duration s.freeCtr else 0
  judged c [(decide (c.length = 24) && devWide && decide (c.mb ≠ 0), stNotPrivileged),
    (decide (c.length ≠ 24), stBadLength),
    (hdrBad c || decide (3 < fl) || parRes c 0x14 4 || (!devWide && (jobAt s c.job).isNone)
      || (!whole && (decide (addr % 256 ≠ 0) || decide (n % 256 ≠ 0) || decide (n = 0)
        || decide (hbmTop < addr + n)
        || !(pagesOf addr n).all (fun p => map.any (fun e => decide (e.space = 0) && entryHolds e p)))), stBadField),
    (loftBusy s c.job, stBusy)] s
    (let (s1, _, wb, gone) := las.foldl (fun a la => cleanLine inval la a) (s.draw, [], 0, 0)
     let s2 := if inval then fineDrop rs s1 else s1
     loftWait c (bufferedIn s2 rs) (leBytes wb 8 ++ leBytes gone 4 ++ leBytes waitNs 4) s2)

def execLoftFlush (mb : Nat) (s : State) : Host.Outcome State Fault Refusal := .next (runCmd 0x0303 mb loftFlush s)

/-! ### Thrash and hot banks (R206, R207) -/

/-- Loft event detail (Table 6.12). -/
def loftDetail (code : Nat) (t : Tower) (rate tick count stack channel bank : Nat) : List Byte :=
  leBytes code 2 ++ leBytes (towerNum t) 1 ++ leBytes 0 1 ++ leBytes rate 2 ++ leBytes 0 2 ++ leBytes tick 8
    ++ leBytes count 8 ++ leBytes stack 1 ++ leBytes channel 1 ++ leBytes bank 1 ++ leBytes 0 5

/-- LOFT_THRASH: the eighth consecutive tick over the threshold has ended; one record until a tick below it; none while the monitor
is off (R185). -/
def loftThrash (t : Tower) (s : State) : State :=
  let w := s.loft.tw.get t
  if s.loft.thrashPct ≠ 0 ∧ 8 ≤ w.overTicks ∧ w.thrashPosted = false then
    let rate := if w.lastLookups = 0 then 0 else w.lastMisses * 1000 / w.lastLookups
    postNotice evLoftThrash (((jobOfTower s t).map (·.id)).getD 0)
      (loftDetail evLoftThrash t rate (tickOf s t) w.lastLookups 0xFF 0xFF 0xFF)
      (s.onLoft (fun x => { x with tw := x.tw.mod t (fun y => { y with thrashPosted := true }) }))
  else s

def execLoftThrash (t : Tower) (s : State) : Host.Outcome State Fault Refusal := .next (loftThrash t s)

/-- The bank with the most stalls of a table, lowest key on a tie. -/
def worstBank (m : Tab Nat) : Nat :=
  (m.foldl (fun (b : Nat × Nat) e => if b.2 < e.2 then e else b) (0, 0)).1

/-- BANK_HOT: the tick's stalls have reached BANKHOT_MIN; one record for the tick. -/
def bankHot (t : Tower) (s : State) : State :=
  let w := s.loft.tw.get t
  if s.loft.bankhotMin ≠ 0 ∧ s.loft.bankhotMin ≤ w.stalls ∧ w.hotPosted = false then
    let k := worstBank w.stallBanks
    postNotice evBankHot (((jobOfTower s t).map (·.id)).getD 0)
      (loftDetail evBankHot t 0 (tickOf s t) w.stalls (k / 4096) (k / 128 % 32) (k % 128))
      (s.onLoft (fun x => { x with tw := x.tw.mod t (fun y => { y with hotPosted := true }) }))
  else s

def execBankHot (t : Tower) (s : State) : Host.Outcome State Fault Refusal := .next (bankHot t s)

/-! ### JOB.CREATE (R188, R192, R226) -/

/-- Latency samples of a tower restart. -/
def restartSamples (t : Tower) (s : State) : State :=
  s.onHbm (fun h => { h with holders := h.holders.map (fun e =>
    (e.1, if e.1 / 16 = towerNum t then { e.2 with samples := 0 } else e.2)) })

/-- What a new job finds in a tower: its frame tables in the initial state where no bay is pinned, its predictors reset and its latency
samples restarted. -/
def towerForJob (t : Tower) (s : State) : State :=
  let s1 := if s.loft.bays.any (fun e => decide (e.1 / 4096 = towerNum t)) then s
    else ((s.loft.tw.get t).frames.foldl (fun a e => setFrames t e.1 (frameInit e.1) a) (s, [], 0)).1
  restartSamples t (s1.onLoft (fun x => { x with tw := x.tw.mod t (fun w => { w with predictor := [] }) }))

end Sys2Proof.Machine
end

