-- ==== Sys2Proof/Machine/Cellar.lean ====
section
/-! DEFINITION. CELLAR.CONFIG and BW.BUDGET (07_cellar.md R214, R231 to R234). -/

namespace Sys2Proof.Machine

/-! ### CELLAR.CONFIG (R231 to R233) -/

/-- A region of R214: nothing, or aligned, backed, and homed on its tower; in global mode no granule set of one tower holds
a region. -/
def regionOk (global : Bool) (t : Tower) (r : Region) : Bool :=
  if r.bytes = 0 then decide (r.base = 0)
  else decide (r.base % pageBytes = 0) && decide (r.bytes % pageBytes = 0) && !global
    && decide (towerNum t * hbmTower1 ≤ r.base) && decide (r.base + r.bytes ≤ towerNum t * hbmTower1 + 0x9FE0000000)

/-- Two regions overlap. -/
def overlaps (a b : Region) : Bool := decide (a.bytes ≠ 0 ∧ b.bytes ≠ 0) && meets a.base a.bytes b

/-- A mirror cellar lies outside the MC firmware region and every field map. -/
def mirrorOk (s : State) (global : Bool) (r : Region) : Bool :=
  decide (r.bytes = 0) || (!overlaps r (mcRegion global)
    && !s.jobs.jobs.any (fun e => e.2.map.any (fun p => overlaps r { base := p.base, bytes := p.count * pageBytes })))

/-- All four regions satisfy R214 against a homing. -/
def regionsOk (s : State) (global : Bool) (c m : Pair Region) : Bool :=
  regionOk global .t0 c.t0 && regionOk global .t1 c.t1 && regionOk global .t0 m.t0 && regionOk global .t1 m.t1
    && mirrorOk s global m.t0 && mirrorOk s global m.t1
    && !overlaps c.t0 c.t1 && !overlaps c.t0 m.t0 && !overlaps c.t0 m.t1 && !overlaps c.t1 m.t0 && !overlaps c.t1 m.t1
    && !overlaps m.t0 m.t1

/-- A tower is bound in some state other than OFF (R342). -/
def anyBound (s : State) : Bool := decide (s.twin.t0.state ≠ .off) || decide (s.twin.t1.state ≠ .off)

/-- Bytes of usable HBM homed on a tower (Table 7.8): the backed bytes less retired pages in force, half of each of which lies on
either tower in global mode (R212). -/
def backedBytes (s : State) (t : Tower) : Nat :=
  let ps := s.hbm.retiredPages.filter (fun e => e.2.1)
  0x9FE0000000 - (if s.hbm.globalHoming then ps.length * (pageBytes / 2)
    else (ps.filter (fun e => decide (homeTower s (e.1 * pageBytes) = t))).length * pageBytes)

/-- Result of CELLAR.CONFIG (Table 7.8). -/
def cellarResult (s : State) : List Byte :=
  let md := fun t => if ((s.hbm.mixedNext.get t).map (·.1)).getD (s.hbm.mixed.get t) then 1 else 0
  leBytes (if s.hbm.globalHoming then 1 else 0) 1 ++ leBytes (md .t0) 1 ++ leBytes (md .t1) 1 ++ leBytes s.hbm.rate 1
    ++ leBytes s.flash.rate 1 ++ leBytes 0 3 ++ leBytes (backedBytes s .t0) 8 ++ leBytes (backedBytes s .t1) 8

/-- A controller mode and its REFRESH take effect. -/
def applyMode (t : Tower) (m : Bool × Bool) (s : State) : State :=
  s.onHbm (fun h => { h with
    mixed := h.mixed.set t m.1, allBank := h.allBank.set t m.2, mixedNext := h.mixedNext.set t none })

/-- Set a controller mode and REFRESH: at the running job's next boundary, or at once when no job runs (R232). -/
def setMode (t : Tower) (m : Bool × Bool) (s : State) : State :=
  if ((jobOfTower s t).map (fun j => decide (j.state = .running))).getD false then
    s.onHbm (fun h => { h with mixedNext := h.mixedNext.set t (some m) })
  else applyMode t m s

/-- A boundary of the tower's job: a pending mode takes effect (R232), and STAGE requests left over are early no more (R225). -/
def hbmBoundary (t : Tower) (s : State) : State :=
  let s1 := match s.hbm.mixedNext.get t with
    | some m => applyMode t m s
    | none => s
  let now := fun (rs : List HbmReq) => rs.map (fun r => if r.holder = 4 then { r with early := false } else r)
  s1.onHbm (fun h => { h with chans := h.chans.map (fun e => if towerOfStack (e.1 / 32) = t then
    (e.1, { e.2 with input := now e.2.input, queue := now e.2.queue, side := now e.2.side }) else e) })

/-- A range of parameters that FLAGS does not name must be 0. -/
def unnamed (on : Bool) (c : Cmd) (off n : Nat) : Bool := !on && parRes c off n

/-- The address that a place of HBM has in tower-local mode, and in global mode: R211 and R212 the other way. -/
def addrLocal (l : HbmLoc) : Nat :=
  l.stack / 8 * hbmTower1 + (l.row <<< 25) + (l.bank <<< 19) + (l.column <<< 17) + ((l.pc ^^^ (l.bank >>> 5)) <<< 16)
    + ((l.channel ^^^ (l.row &&& 0x1f)) <<< 11) + (((l.stack &&& 0x7) ^^^ (l.bank &&& 0x7)) <<< 8) + l.byte

def addrGlobal (l : HbmLoc) : Nat :=
  let so := (l.row <<< 22) + (l.bank <<< 16) + (l.column <<< 14) + ((l.pc ^^^ (l.bank >>> 5)) <<< 13) + ((l.channel ^^^ (l.row &&& 0x1f)) <<< 8) + l.byte
  let h := so >>> 12
  (((h <<< 4) + ((l.stack ^^^ h ^^^ (h >>> 4) ^^^ (h >>> 8)) &&& 0xf)) <<< 12) + (so &&& 0xfff)

/-- Where the contents of an address are found once a homing mode is in force. -/
def movedAddr (s : State) (g : Bool) (a : Nat) : Nat := if g then addrGlobal (locOf s a) else addrLocal (locOf s a)

/-- Change the homing mode: HBM contents are not moved, so each is found at its place's new address (Table 7.7). -/
def rehome (g : Bool) (s : State) : State :=
  if g = s.hbm.globalHoming then s
  else s.onHbm (fun h => { h with
    globalHoming := g
    mem := h.mem.foldl (fun m e => memPut m (movedAddr s g e.1) e.2) []
    marks := h.marks.foldl (fun m e => tabPut m (movedAddr s g (e.1 * 64) / 64) e.2) []
    sightings := h.sightings.foldl (fun m e => tabPut m (movedAddr s g (e.1 * 64) / 64) e.2) [] })

/-- CELLAR.CONFIG. -/
def cellarConfig (c : Cmd) (s : State) : State :=
  let fl := par c 0 4; let hom := par c 4 1; let rate := par c 8 1
  let reg := fun (o : Nat) => ({ base := par c o 8, bytes := par c (o + 8) 8 } : Region)
  let cel : Pair Region := ⟨reg 0x10, reg 0x20⟩; let mir : Pair Region := ⟨reg 0x30, reg 0x40⟩
  let glob := if bitOf fl 0 then decide (hom = 1) else s.hbm.globalHoming
  judged c [(decide (c.length ≠ 80), stBadLength),
    (hdrBad c || decide (15 < fl) || parRes c 9 7 || decide (1 < hom) || decide (1 < par c 5 1) || decide (1 < par c 6 1)
      || decide (1 < par c 7 1) || decide (4 < rate) || unnamed (bitOf fl 0) c 4 1 || unnamed (bitOf fl 1) c 5 3
      || unnamed (bitOf fl 2) c 8 1 || unnamed (bitOf fl 3) c 0x10 64, stBadField),
    ((bitOf fl 0 && (decide (s.jobs.jobs ≠ []) || anyBound s)) || (bitOf fl 3 && anyBound s), stWrongState),
    (bitOf fl 3 && !regionsOk s glob cel mir, stBadField)] s
    (let s1 := if bitOf fl 0 then
         rehome glob (drainChans (flushTowers bothTowers s))
       else s
     let s2 := if bitOf fl 1 then
         let all := decide (par c 7 1 = 1)
         setMode .t1 (decide (par c 6 1 = 1), all) (setMode .t0 (decide (par c 5 1 = 1), all) s1)
       else s1
     let s3 := s2.onFlash (fun f => { f with
       rate := if bitOf fl 2 then rate else f.rate
       globalHoming := if bitOf fl 0 then glob else f.globalHoming
       cellar := if bitOf fl 3 then cel else f.cellar
       mirror := if bitOf fl 3 then mir else f.mirror })
     let s4 := if bitOf fl 3 then s3.onHbm (fun h => { h with cellar := cel, mirror := mir }) else s3
     complete c stDone (cellarResult s4) s4)

def execCellarConfig (mb : Nat) (s : State) : Host.Outcome State Fault Refusal := .next (runCmd 0x0304 mb cellarConfig s)

/-! ### BW.BUDGET (R234) -/

/-- Half of the result (Table 7.10). A new STAGE request takes no latency steps (R225). -/
def budgetHalf (s : State) (t : Tower) (h : Nat) : List Byte :=
  let r := holderOf s t h
  leBytes r.basePrio 1 ++ leBytes (if h = 4 then (if overBudget r then 0 else min r.basePrio 7) else prioOf r 0) 1 ++ leBytes (min r.samples 65535) 2 ++ leBytes r.targetNs 4
    ++ leBytes r.budgetMbps 4 ++ leBytes (meanNow r / 16) 4

/-- Settings applied to one tower's holder; a new target restarts the samples (R226). -/
def budgetSet (fl prio target mbps : Nat) (r : Holder) : Holder :=
  { r with
    basePrio := if bitOf fl 0 then prio else r.basePrio
    targetNs := if bitOf fl 1 then target else r.targetNs
    samples := if bitOf fl 1 then 0 else r.samples
    mean16 := if bitOf fl 1 then target * 16 else r.mean16
    budgetMbps := if bitOf fl 2 then mbps else r.budgetMbps }

/-- BW.BUDGET. -/
def bwBudget (c : Cmd) (s : State) : State :=
  let h := par c 0 1; let tw := par c 1 1; let fl := par c 2 1; let prio := par c 3 1; let target := par c 4 4
  judged c [(decide (c.length ≠ 16), stBadLength),
    (hdrBad c || decide (8 < h) || decide (3 < tw) || decide (7 < fl) || decide (7 < prio)
      || (bitOf fl 1 && decide (target ≠ 0) && (decide (target < 200) || decide (1000000 < target))) || parRes c 0x0C 4,
      stBadField)] s
    (let s1 := (towersOfMask tw).foldl (fun st t => onHolder t h (budgetSet fl prio target (par c 8 4)) st) s
     complete c stDone (budgetHalf s1 .t0 h ++ budgetHalf s1 .t1 h) s1)

def execBwBudget (mb : Nat) (s : State) : Host.Outcome State Fault Refusal := .next (runCmd 0x0307 mb bwBudget s)

end Sys2Proof.Machine
end

