-- ==== Sys2Proof/Machine/Integrity.lean ====
section
/-! DEFINITION. Repair tables, scrubbing, error injection, failed pins, and vertical links: spare wires and the retirement of bond
groups (08_integrity.md R239 to R257, 01_stack.md R10 to R16). -/

namespace Sys2Proof.Machine

/-! ### Repair tables (R248 to R252) -/

/-- Repair table of a stack. -/
def repairsOf (s : State) (stack : Nat) : List Repair := tabGetD s.hbm.repairs stack []

/-- Set a stack's repair table, and its copy in flash (R250). -/
def setRepairs (stack : Nat) (rs : List Repair) (s : State) : State :=
  (s.onHbm (fun h => { h with repairs := putList h.repairs stack rs })).onFlash (fun f => { f with
    repairs := putList f.repairs stack rs })

/-- The bank byte of Table 8.7. -/
def bankByte (l : HbmLoc) : Nat := l.pc * 64 + l.bank

/-- Block of an address in its row, 0 to 15. -/
def blockInRow (l : HbmLoc) : Nat := l.column * 4 + l.byte / 64

/-- A repair entry lies in the row of a location. -/
def sameRow (l : HbmLoc) (r : Repair) : Bool := decide (r.channel = l.channel ∧ r.bank = bankByte l ∧ r.row = l.row)

/-- Blocks of a row with a block entry. -/
def blockEntries (s : State) (l : HbmLoc) : List Repair :=
  (repairsOf s l.stack).filter (fun r => decide (r.kind = 1) && sameRow l r)

/-- The block, or its whole row, is already repaired. -/
def blockRepaired (s : State) (l : HbmLoc) : Bool :=
  (repairsOf s l.stack).any (fun r => sameRow l r && (decide (r.kind = 2) || decide (r.kind = 1 ∧ r.sub = blockInRow l)))

/-- The address whose location is given, in global mode, by its offset in the stack. -/
def globalAddr (so stack : Nat) : Nat :=
  let hi := so / 4096
  let low := (stack ^^^ hi ^^^ (hi >>> 4) ^^^ (hi >>> 8)) &&& 0xf
  (hi * 16 + low) * 4096 + so % 4096

/-- First addresses of the 16 blocks of the row that holds an address (R210 to R212). -/
def rowBlocks (s : State) (a : Nat) : List Nat :=
  let line := fun (k : Nat) =>
    if s.hbm.globalHoming then
      let so := ((a >>> 16) <<< 12) ||| (a &&& 0xfff)
      globalAddr (so / 65536 * 65536 + k * 16384 + so % 16384 / 256 * 256) (locGlobal a).stack
    else a / 524288 * 524288 + k * 131072 + a % 131072 / 256 * 256
  (List.range 4).flatMap (fun k => (List.range 4).map (fun b => line k + b * 64))

/-- Put the corrected data of a block in place, where it can be corrected; poison stays poison. -/
def correctBlock (a : Nat) (s : State) : State :=
  match hbmDecode s a with
  | .corrected _ => setMarks a [] (s.onHbm (fun h => { h with mem := memWrite h.mem (blockOf a) (hbmData s a).1 }))
  | _ => s

/-- REMAP_FULL: the fault stays under correction, or the page of an uncorrectable block is recorded for retirement (R251). -/
def remapFullHbm (evSource repSource a : Nat) (s : State) : State :=
  let l := locOf s a
  let bad := match hbmDecode s a with
    | .uncorrectable => true
    | .poison => true
    | _ => false
  let d := memDetail s evRemapFull (homeTower s a) evSource l.stack l.channel (bankByte l) 0xFF l.row 0xFFFF 0 0xFF
    (if bad then 4 else 0) (blockOf a)
  let s1 := postNotice evRemapFull 0 d s
  if bad then
    let pages := tabPut s1.hbm.retiredPages (a / pageBytes)
      (((tabGet s1.hbm.retiredPages (a / pageBytes)).map (·.1)).getD false, repSource)
    (s1.onHbm (fun h => { h with retiredPages := pages })).onFlash (fun f => { f with
      retiredPages := pages
      defects := f.defects ++ [⟨7, true, towerNum (homeTower s a), 0xFF, a / pageBytes % 65536, a / pageBytes / 65536⟩] })
  else s1

/-- SOURCE of an event for a repair asked for by the host, which Table 8.12 does not list (log 24). -/
def eventSource (src : Nat) (s : State) : Nat :=
  if src = 1 then 1 else if src = 2 then 0 else if src = 3 then 3 else if src = 4 then 4 else Config.openField s.freeCtr % 256

/-- Add a block entry; answers whether the table had room (R250 step 2, R251). The read is SCRUB traffic (R224). -/
def addBlock (src a : Nat) (s : State) : Bool × State :=
  let l := locOf s a
  if blockRepaired s l then (true, s)
  else if 32 ≤ ((repairsOf s l.stack).filter (fun r => decide (r.kind = 1))).length then
    (false, remapFullHbm (eventSource src s) src a s.draw)
  else (true, setRepairs l.stack (repairsOf s l.stack ++
    [⟨1, l.channel, bankByte l, src, l.row, blockInRow l, s.nowNs⟩])
    (correctBlock a (hbmCharge (homeTower s a) 8 false 64 s)))

/-- The lowest spare row of a bank that is neither in use nor unusable. -/
def freeSpareRow (s : State) (a : Nat) : Option Nat :=
  let l := locOf s a
  (List.range 16).find? (fun k =>
    !(repairsOf s l.stack).any (fun r => decide (r.kind = 2 ∧ r.channel = l.channel ∧ r.bank = bankByte l ∧ r.sub = k))
      && !(tabGetD s.hbm.badSpares (bankOf s a) []).contains k)

/-- Move a row to a spare row, its blocks read, corrected and written as SCRUB traffic, freeing its block entries (R224, R250
step 3). -/
def addRow (src a : Nat) (s : State) : Bool × State :=
  let l := locOf s a
  if (repairsOf s l.stack).any (fun r => decide (r.kind = 2) && sameRow l r) then (true, s)
  else match freeSpareRow s a with
    | none => (false, remapFullHbm (eventSource src s) src a s.draw)
    | some k =>
      let s1 := (rowBlocks s a).foldl (fun st b =>
        hbmCharge (homeTower s b) 8 true 64 (correctBlock b (hbmCharge (homeTower s b) 8 false 64 st))) s
      (true, setRepairs l.stack ((repairsOf s l.stack).filter (fun r => !(decide (r.kind = 1) && sameRow l r)) ++
        [⟨2, l.channel, bankByte l, src, l.row, k, s.nowNs⟩]) s1)

/-- Key of a loft line in the line tables. -/
def lineKey (die bank line : Nat) : Nat := die * 2 ^ 24 + bank * 2 ^ 15 + line

/-- Entries of a die's line table. -/
def lineEntries (s : State) (die : Nat) : List (Nat × Nat × Nat) := s.loft.lineTable.filter (fun e => decide (e.1 / 2 ^ 24 = die))

/-- Correct the correctable words of a loft line. -/
def correctLine (die bank line : Nat) (s : State) : State :=
  clearFlips (((List.range 32).map (fun w => wordKey die bank line w)).filter (fun k =>
    (hsiaoBit (hsiaoSyndrome (tabGetD s.loft.flips k 0#72))).isSome)) s

/-- Pinned address of a loft line under a layout (Table 6.2). -/
def lineAddr (layout die bank line : Nat) : Nat :=
  let b := pinBase + (die / 2 * 4096 + line / 4096 * 512 + bank) * pageBytes
  if layout = 1 then b + die % 2 * 0x100000 + line % 4096 * 256 else b + line % 4096 * 512 + die % 2 * 256

/-- BULK lines with a word in a physical loft line. -/
def bulkInLine (s : State) (die bank line : Nat) : List Nat :=
  (s.loft.bulk.filter (fun e => (List.range (encSlots e.2.enc * 8)).any (fun w =>
    decide (bulkWord e.2 w / 32 = wordKey die bank line 0 / 32)))).map (·.1)

/-- The bay whose bytes lie in a loft line. -/
def bayOfLine (s : State) (die bank line : Nat) : Option Bay :=
  tabGet s.loft.bays (die / 2 * 4096 + line / 4096 * 512 + bank)

/-- A loft line holds a word that cannot be corrected, or data already rewritten as poison for one (R245, R251). -/
def lineFaulty (s : State) (die bank line : Nat) : Bool :=
  (List.range 32).any (fun w => badSyndrome (hsiaoSyndrome (tabGetD s.loft.flips (wordKey die bank line w) 0#72)))
    || (match bayOfLine s die bank line with
      | some bay => (sectorsOf (lineAddr bay.layout die bank line) 256).any (fun k => (tabGet s.loft.pinPoison k).isSome)
      | none => (bulkInLine s die bank line).any (fun la => ((tabGet s.loft.bulk la).map (fun l => decide (l.poison ≠ 0#8))).getD false))

/-- REMAP_FULL of a loft die; an uncorrectable fault records the bank column for retirement (R251). -/
def remapFullLoft (evSource die bank line : Nat) (s : State) : State :=
  let t := towerOf (die / 2)
  let bad := lineFaulty s die bank line
  let addr := ((bayOfLine s die bank line).map (fun b => lineAddr b.layout die bank line)).getD 0
  let d := memDetail s evRemapFull t evSource die 0xFF 0xFF 0xFF line bank 0 0xFF (if bad then 4 else 0) addr
  let s1 := postNotice evRemapFull 0 d s
  if bad then s1.onFlash (fun f => { f with defects := f.defects ++ [⟨3, true, towerNum t, 0xFF, bank, 2⟩] }) else s1

/-- Add a loft line entry (R250 step 4). -/
def addLine (src die bank line : Nat) (s : State) : Bool × State :=
  if (tabGet s.loft.lineTable (lineKey die bank line)).isSome then (true, s)
  else if 64 ≤ (lineEntries s die).length then (false, remapFullLoft (eventSource src s) die bank line s.draw)
  else
    let tab := tabPut s.loft.lineTable (lineKey die bank line) (src, s.nowNs)
    (true, ((correctLine die bank line s).onLoft (fun x => { x with lineTable := tab })).onFlash (fun f => { f with
      lineTable := tab }))

/-- A list entry (Table 8.7). -/
def repairBytes (r : Repair) : List Byte :=
  leBytes r.kind 1 ++ leBytes r.channel 1 ++ leBytes r.bank 1 ++ leBytes r.source 1 ++ leBytes r.row 2 ++ leBytes r.sub 2
    ++ leBytes r.timeNs 8

/-- Entries of a MEM.REMAP list. A retired page's CHANNEL, BANK, ROW_OR_LINE and BLOCK_OR_BANK are those of its first block
(DESIGN CHOICE, log 24). -/
def remapList (s : State) (action unit : Nat) : List (List Byte) :=
  if action = 0 then (repairsOf s unit).map repairBytes
  else if action = 1 then (lineEntries s unit).map (fun e =>
    repairBytes ⟨3, 0xFF, 0xFF, e.2.1, e.1 % 2 ^ 15, e.1 / 2 ^ 15 % 512, e.2.2⟩)
  else s.hbm.retiredPages.map (fun e =>
    let l := locOf s (e.1 * pageBytes)
    repairBytes ⟨5, l.channel, bankByte l, e.2.2, l.row, blockInRow l, e.1 * pageBytes⟩)

/-- Entries a unit holds after an add. -/
def remapTotal (s : State) (action unit : Nat) : Nat :=
  if action = 5 then (lineEntries s unit).length else (repairsOf s unit).length

/-- MEM.REMAP (R252). -/
def memRemap (c : Cmd) (s : State) : State :=
  let act := par c 0 1; let unit := par c 1 1; let start := par c 2 2; let addr := par c 8 8
  let unitBad := if act = 1 ∨ act = 5 then decide (3 < unit) else if act = 2 then decide (unit ≠ 0) else decide (15 < unit)
  let addrBad := if act = 3 ∨ act = 4 then unbacked s addr || decide ((locOf s addr).stack ≠ unit)
    else if act = 5 then decide (2 ^ 24 ≤ addr) else decide (addr ≠ 0)
  judged c [(decide (c.length ≠ 16), stBadLength),
    (hdrBad c || decide (5 < act) || unitBad || parRes c 4 4 || addrBad || (decide (3 ≤ act) && decide (start ≠ 0)), stBadField)] s
    (if act < 3 then
      let es := remapList s act unit
      let out := (es.drop start).take 251
      complete c stDone (leBytes es.length 4 ++ leBytes out.length 4 ++ leBytes 0 8 ++ out.flatMap id) s
    else
      let (ok, s1) := if act = 3 then addBlock 0 addr s else if act = 4 then addRow 0 addr s
        else addLine 0 unit (addr / 2 ^ 15 % 512) (addr % 2 ^ 15) s
      complete c (if ok then stDone else stNoSpace) (leBytes (remapTotal s1 act unit) 4) s1)

def execMemRemap (mb : Nat) (s : State) : Host.Outcome State Fault Refusal := .next (runCmd 0x0305 mb memRemap s)

/-- HBM_BLOCK_REPAIR: a persistent block takes a block entry (R250). -/
def hbmBlockRepair (addr source : Nat) (s : State) : State :=
  if (tabGetD s.hbm.sightings (addr / 64) []).any (fun e => e.2.2) then
    (addBlock source addr (s.onHbm (fun h => { h with sightings := tabDel h.sightings (addr / 64) }))).2
  else if source = 4 then (addBlock source addr s).2 else s

def execHbmBlockRepair (addr source : Nat) (s : State) : Host.Outcome State Fault Refusal := .next (hbmBlockRepair addr source s)

/-- HBM_ROW_REPAIR: a row that holds 4 block entries takes a spare row (R250). The entry keeps the source of its last block. -/
def hbmRowRepair (addr : Nat) (s : State) : State :=
  let es := blockEntries s (locOf s addr)
  if 4 ≤ es.length then (addRow (((es.getLast?).map (·.source)).getD 0) addr s).2 else s

def execHbmRowRepair (addr : Nat) (s : State) : Host.Outcome State Fault Refusal := .next (hbmRowRepair addr s)

/-- LOFT_LINE_REPAIR: a line with a persistent word, or one that failed a march test, takes a line entry (R250). -/
def loftLineRepair (die bank line source : Nat) (s : State) : State :=
  let ks := (List.range 32).map (fun w => wordKey die bank line w)
  let persistent := ks.any (fun k => (tabGetD s.loft.sightings k []).any (fun e => e.2.2))
  if persistent ∨ source = 3 ∨ source = 4 then
    (addLine source die bank line (s.onLoft (fun x => { x with
      sightings := ks.foldl (fun m k => tabDel m k) x.sightings }))).2
  else s

def execLoftLineRepair (die bank line source : Nat) (s : State) : Host.Outcome State Fault Refusal :=
  .next (loftLineRepair die bank line source s)

/-- HBM_PIN_FAILED: 1,024 corrected accesses within 1 ms mark a data pin failed; its symbols are erasures from then on (R239).
The entry's SOURCE is a demand read (DEDUCED, log 24). -/
def hbmPinFailed (stack ch pc pin : Nat) (s : State) : State :=
  let k := stack * 64 + ch * 2 + pc
  let pins := tabGetD s.hbm.failedPins k []
  if (tabGetD s.hbm.pinTally (k * 32 + pin) ([], false)).2 = true ∧ pin ∉ pins then
    setRepairs stack (repairsOf s stack ++ [⟨4, ch, pc * 64, 2, pin, 0, s.nowNs⟩]) (s.onHbm (fun h => { h with
      failedPins := tabPut h.failedPins k (pins ++ [pin])
      pinTally := tabDel h.pinTally (k * 32 + pin) }))
  else s

def execHbmPinFailed (stack ch pc pin : Nat) (s : State) : Host.Outcome State Fault Refusal :=
  .next (hbmPinFailed stack ch pc pin s)

/-! ### Scrubbing (R253, R254) -/

/-- Bytes scrubbed in a tower. -/
def ctrScrub (t : Tower) (n : Nat) (s : State) : State := ctrAdd 5 (128 + towerNum t) n s

/-- Scrub one block: a corrected one is rewritten; an uncorrectable one is handled as a demand read is. Armed flip masks are not
consumed. Answers corrected and uncorrectable counts. -/
def scrubBlock (a : Nat) (s : State) : State × Nat × Nat :=
  let s1 := hbmDecodeEffects 1 8 0 a s
  match hbmDecode s a with
  | .corrected _ => (correctBlock a (hbmCharge (homeTower s a) 8 true 64 s1), 1, 0)
  | .uncorrectable => (s1, 0, 1)
  | _ => (s1, 0, 0)

/-- Bytes of a page range homed on a tower: in global mode half of each page (R212). -/
def rangeBytes (s : State) (t : Tower) (a n : Nat) : Nat :=
  if s.hbm.globalHoming then n / 2
  else
    let lo := towerNum t * hbmTower1
    min (a + n) (lo + hbmTower1) - max a lo

/-- Corrections that the stacks report while a range is read (log 54). -/
def rangeInner (n : Nat) (s : State) : State :=
  (List.range 16).foldl (fun st k => ctrInner k (Config.innerCorr (s.freeCtr + k) % (n / 64 + 1)) st) s.draw

/-- Scrub a range: clean blocks are read and nothing more; the blocks with errors are handled in ascending order. -/
def scrubRange (a n : Nat) (s : State) : State × Nat × Nat :=
  let bs := (s.hbm.marks.map (·.1 * 64)).filter (fun b => decide (a ≤ b ∧ b < a + n))
  bs.foldl (fun acc b =>
    let (s1, x, y) := scrubBlock b acc.1
    (s1, acc.2.1 + x, acc.2.2 + y))
    (bothTowers.foldl (fun st t =>
      let k := rangeBytes s t a n
      ctrScrub t k (hbmCharge t 8 false k st)) (rangeInner n s), 0, 0)

/-- MEM.SCRUB (R254). -/
def memScrub (c : Cmd) (s : State) : State :=
  let fl := par c 0 1; let dec := par c 1 1; let hp := par c 4 4; let lp := par c 8 4
  let addr := par c 0x10 8; let n := par c 0x18 8
  judged c [(decide (c.length ≠ 32), stBadLength),
    (hdrBad c || decide (7 < fl) || decide (1 < dec) || parRes c 2 2 || parRes c 0x0C 4
      || (bitOf fl 0 && ((decide (hp ≠ 0) && (decide (hp < 60) || decide (10080 < hp)))
        || (decide (lp ≠ 0) && (decide (lp < 10) || decide (3600 < lp)))))
      || (bitOf fl 1 && (decide (addr % pageBytes ≠ 0) || decide (n % pageBytes ≠ 0) || decide (0x1000000000 < n)
        || decide (hbmTop < addr + n) || (pagesOf addr n).any (unbacked s)))
      || unnamed (bitOf fl 1) c 0x10 16, stBadField)] s
    (let s1 := s.onHbm (fun h => { h with
       hbmPassMin := if bitOf fl 0 then hp else h.hbmPassMin
       loftPassS := if bitOf fl 0 then lp else h.loftPassS
       detect := if bitOf fl 2 then decide (dec = 1) else h.detect })
     let (s2, cor, unc) := if bitOf fl 1 then scrubRange addr n s1 else (s1, 0, 0)
     complete c stDone (leBytes (if bitOf fl 1 then n else 0) 8 ++ leBytes cor 4 ++ leBytes unc 4
       ++ leBytes s2.hbm.hbmPassMin 4 ++ leBytes s2.hbm.loftPassS 4 ++ leBytes (if s2.hbm.detect then 1 else 0) 1
       ++ leBytes 0 7) s2)

def execMemScrub (mb : Nat) (s : State) : Host.Outcome State Fault Refusal := .next (runCmd 0x0306 mb memScrub s)

/-- FINE lines with a word in a physical loft line. -/
def fineInLine (s : State) (die bank line : Nat) : List Nat :=
  ((s.loft.tw.get (towerOf (die / 2))).fine.filter (fun e =>
    decide (fineWord (towerOf (die / 2)) e.2 0 / 32 = wordKey die bank line 0 / 32))).map (·.1)

/-- Scrub a loft line: pinned data, BULK slots and FINE lines are read under their own rules, and correctable words are corrected. -/
def scrubLine (die bank line : Nat) (s : State) : State :=
  let t := towerOf (die / 2)
  let s1 := match bayOfLine s die bank line with
    | some bay => pinCheck 0 8 1 (lineAddr bay.layout die bank line) 256 s
    | none => (fineInLine s die bank line).foldl (fun st lf => fineCheck t lf st)
        ((bulkInLine s die bank line).foldl (fun st la => bulkCheck 0 8 1 la st) s)
  ctrScrub t 256 (correctLine die bank line s1)

/-- Errors of the cells of a loft line, by byte of its bank row: the line has four segments of 576 cells, and cell 8t + w of a
segment holds bit t of word w, so byte t of a segment holds bit t of its eight words (R241). -/
def lineErrors (die bank line : Nat) (err : List (Nat × Byte)) (s : State) : State :=
  err.foldl (fun st e => (List.range 8).foldl (fun z w =>
    if e.2.getLsbD w then
      let k := wordKey die bank line (e.1 / 72 % 4 * 8 + w)
      z.onLoft (fun x => { x with flips := tabPut x.flips k (tabGetD x.flips k 0#72 ^^^ (1#72 <<< (e.1 % 72))) })
    else z) st) s

/-- SCRUB_PATROL: the patrol scrubs a block of a stack (units 0 to 15) or a line of a loft die (16 to 19, the address being bank
× 32,768 + line), with the errors found. A loft scrub skips a bank column that a winnow slice holds; a patrol that is off does
nothing. -/
def scrubPatrol (unit addr : Nat) (err : List (Nat × Byte)) (s : State) : State :=
  if unit < 16 then
    if s.hbm.hbmPassMin = 0 ∨ unbacked s addr ∨ (locOf s addr).stack ≠ unit then s
    else
      let s1 := setMarks addr (xorMarks (tabGetD s.hbm.marks (addr / 64) []) err) s
      ctrScrub (homeTower s addr) 64 (scrubBlock addr (ctrInner unit (Config.innerCorr s.freeCtr % 2)
        (hbmCharge (homeTower s addr) 8 false 64 s1.draw))).1
  else if unit < 20 ∧ s.hbm.loftPassS ≠ 0 ∧ addr < 2 ^ 24 then
    let die := unit - 16
    if (s.obs.winnow.get (towerOf (die / 2))).active.contains (die % 2 * 512 + addr / 2 ^ 15) then s
    else scrubLine die (addr / 2 ^ 15) (addr % 2 ^ 15) (lineErrors die (addr / 2 ^ 15) (addr % 2 ^ 15) err s)
  else s

def execScrubPatrol (unit : Nat) (addr : Nat) (err : List (Nat × Byte)) (s : State) : Host.Outcome State Fault Refusal :=
  .next (scrubPatrol unit addr err s)

/-! ### ECC.INJECT (R255) -/

/-- Groups of each interface of a tower (Table 1.3). -/
def groupsOf (iface : Nat) : Nat := [1280, 1280, 4096, 4096, 3072, 1536].getD iface 0

/-- The flip-mask register a command names. -/
def flipUnit (s : State) (target unit addr : Nat) : Nat :=
  if target = 0 then (locOf s addr).stack
  else if target = 1 then 16 + unit
  else 20 + 6 * bitsOf unit 15 15 + bitsOf unit 14 12

/-- ECC.INJECT. -/
def eccInject (c : Cmd) (s : State) : State :=
  let tg := par c 0 1; let fl := par c 1 1; let unit := par c 2 2; let addr := par c 8 8
  let bad := if tg = 0 then decide (unit ≠ 0) || decide (addr % 64 ≠ 0) || unbacked s addr || parRes c 0x54 4
    else if tg = 1 then decide (3 < unit) || decide (2 ^ 29 ≤ addr) || parRes c 0x18 56 || parRes c 0x51 7
    else decide (addr ≠ 0) || decide (groupsOf (bitsOf unit 14 12) ≤ unit % 4096) || bitOf fl 0 || parRes c 0x18 56 || parRes c 0x51 7
  let u := flipUnit s tg unit addr
  let key := if tg = 1 then wordKey unit (bitsOf addr 23 15) (bitsOf addr 14 0) (bitsOf addr 28 24) else addr
  judged c [(decide (c.length ≠ 88), stBadLength),
    (hdrBad c || decide (2 < tg) || decide (3 < fl) || parRes c 4 4 || bad, stBadField),
    (!bitOf fl 1 && (tabGet s.hbm.armed u).isSome, stBusy)] s
    (complete c stDone [] (s.onHbm (fun h => { h with
      armed := if bitOf fl 1 then tabDel h.armed u
        else tabPut h.armed u { poison := bitOf fl 0, addr := key, group := unit % 4096,
                                dataMask := sliceBytes c.params 0x10 64, checkMask := sliceBytes c.params 0x50 8 } })))

def execEccInject (mb : Nat) (s : State) : Host.Outcome State Fault Refusal := .next (runCmd 0x0908 mb eccInject s)

/-! ### Vertical links (R10, R242, R246, R247) -/

/-- Key of a bond group. -/
def groupKey (g : GroupRef) : Nat := towerNum g.tower * 2 ^ 16 + g.iface * 2 ^ 13 + g.group

/-- A group as manufactured. -/
def BondGroup.fresh : BondGroup := { sparesUsed := [], unusable := [], failing := [], failures := 0, retired := false }

def groupAt (s : State) (g : GroupRef) : BondGroup := tabGetD s.vl.groups (groupKey g) BondGroup.fresh

/-- Change a group, and its copy in flash (R246). -/
def setGroup (g : GroupRef) (b : BondGroup) (s : State) : State :=
  (s.onVl (fun v => { v with groups := tabPut v.groups (groupKey g) b })).onFlash (fun f => { f with
    groups := tabPut f.groups (groupKey g) { b with failing := [], failures := 0 } })

/-- Spare wires (72 and 73) of a group that are free and usable. -/
def freeSpares (b : BondGroup) : List Nat :=
  [72, 73].filter (fun w => !b.sparesUsed.any (fun p => decide (p.2 = w)) && !b.unusable.contains w)

/-- Counters of an interface: 0 VL_CORR, 1 VL_REPLAYS, 2 VL_SPARES. -/
def ctrVl (g : GroupRef) (k n : Nat) (s : State) : State := ctrVlAt g.tower g.iface k n s

/-- What a group's retirement takes out of service (R16): bank column, channel port or cluster region. -/
def mappedOut (g : GroupRef) : Nat := groupUnit g.iface g.group

/-- Take a bank column out of service: its dirty lines are written back, those whose path has faulted being discarded and counted; its
BULK and FINE lines and its pinned bays leave; requests that waited at it go to the column that takes its lines (R16, R177, R187,
R247). -/
def retireColumn (t : Tower) (c : Nat) (s : State) : State × Nat :=
  let las := (s.loft.bulk.filter (fun e => decide (e.2.tower = t ∧ e.2.col = c))).map (·.1)
  let (s1, n) := wbEmpty t c (las.foldl (fun a la => flushOut la a) (s, 0))
  let gone := fun (b : Nat) => decide (b / 4096 = towerNum t ∧ b % 512 = c)
  (s1.onLoft (fun x => { x with
    bays := x.bays.filter (fun e => !gone e.1)
    pinMem := x.pinMem.filter (fun e => !gone (bayNum e.1))
    pinPoison := x.pinPoison.filter (fun e => !gone (bayNum (e.1 * 32)))
    tw := x.tw.mod t (fun w => { w with
      retired := if w.retired.contains c then w.retired else w.retired ++ [c]
      fine := w.fine.filter (fun e => e.2.frame ≠ c)
      arrivals := (tabGetD w.miss c []).flatMap (·.waiters) ++ tabGetD w.hold c [] ++ w.arrivals
      miss := tabDel w.miss c
      hold := tabDel w.hold c
      wb := tabDel w.wb c }) }), n)

/-- Bond-group event detail (Table 8.13). -/
def bondDetail (s : State) (g : GroupRef) (cause wire discarded : Nat) : List Byte :=
  leBytes evBondGroupDegraded 2 ++ leBytes (towerNum g.tower) 1 ++ leBytes g.iface 1 ++ leBytes g.group 2 ++ leBytes cause 1
    ++ leBytes wire 1 ++ leBytes (mappedOut g) 2 ++ leBytes discarded 2 ++ leBytes 0 4 ++ leBytes (tickOf s g.tower) 8

/-- INDEX of a bond group in the defect map (Table 14.8). -/
def groupIndex (g : GroupRef) : Nat := g.iface * 4096 + g.group

/-- BOND_GROUP_RETIREMENT: a job fault of the group's tower, or a notice where it has no job; dirty lines are written back, the
capacity is mapped out and the retirement recorded (R247). DIE of the entries is 0xFF, a group joining two dies (DESIGN CHOICE,
log 24). -/
def retireGroup (g : GroupRef) (cause wire : Nat) (s : State) : State :=
  if (groupAt s g).retired then s
  else
    let s1 := setGroup g { groupAt s g with retired := true } s
    let col := decide (g.iface = 2 ∨ g.iface = 3)
    let (s2, n) := if col then retireColumn g.tower (mappedOut g) s1 else (s1, 0)
    let s3 := s2.onFlash (fun f => { f with
      defects := f.defects ++ [⟨6, true, towerNum g.tower, 0xFF, groupIndex g, cause⟩]
        ++ (if col then [⟨3, true, towerNum g.tower, 0xFF, mappedOut g, 1⟩] else []) })
    match jobOfTower s3 g.tower with
    | some j => jobFault j.id evBondGroupDegraded (bondDetail s3 g cause wire n) s3
    | none => postNotice evBondGroupDegraded 0 (bondDetail s3 g cause wire n) s3

/-- An armed flip mask of the interface meets the group's next beat, the one the command is about, and disarms (R255). -/
def beatFlip (g : GroupRef) (s : State) : State :=
  let u := 20 + 6 * towerNum g.tower + g.iface
  match tabGet s.hbm.armed u with
  | some f => if f.group = g.group then s.onHbm (fun h => { h with armed := tabDel h.armed u }) else s
  | none => s

/-- Sectors (address ÷ 32) become poison as the loft holds them. -/
def poisonSectors (zs : List Nat) (s : State) : State :=
  zs.foldl (fun st z =>
    if isPinned (z * 32) then st.onLoft (fun x => { x with pinPoison := tabPut x.pinPoison z () })
    else match tabGet st.loft.bulk (z / 8) with
      | some l => poisonLine (z / 8) l (BitVec.ofNat 8 (2 ^ (z % 8))) st
      | none => st) s

/-- The HBM blocks of sectors become poison: in the writes their channels hold, else as stored (R244). -/
def poisonBlocks (zs : List Nat) (s : State) : State :=
  zs.foldl (fun st z =>
    let b := blockOf (z * 32)
    let mark := fun (rs : List HbmReq) => rs.map (fun r => if r.isWrite && decide (r.addr = b) then { r with poisoned := true } else r)
    if (chanAt st (chanOf st b)).reqs.any (fun r => r.isWrite && decide (r.addr = b)) then
      st.onHbm (fun h => { h with chans := tabMod h.chans (chanOf st b) (fun c =>
        { c with input := mark c.input, queue := mark c.queue, side := mark c.side }) })
    else setMarks b poisonMask st) s

/-- Load data on its way to the cores that lies in sectors becomes poison. -/
def poisonLoads (zs : List Nat) (s : State) : State :=
  s.onCores (fun c => { c with responses := c.responses.map (fun r => { r with old := r.old.map (fun o =>
    let sec := if r.tag.viaL1r then ((r.tag.lanes.headD (0, 0)).2) / 128 * 4 + o.1
      else ((r.tag.lanes.find? (fun p => decide (p.1 = o.1))).elim 0 (·.2)) / 32
    if zs.contains sec then (o.1, o.2.1, true) else o) }) })

/-- A beat that could not be corrected goes on as poison, to where its interface leads: down to HBM, up to the cores, else into the
loft (R13, R242, R244). -/
def poisonBeat (iface : Nat) (zs : List Nat) (s : State) : State :=
  if iface = 1 then poisonBlocks zs s else if iface = 4 then poisonLoads zs s else poisonSectors zs s

/-- VL_REPLAY: a beat that could not be corrected is replayed. When the replay fails for the third time running, the beat's fourth
failure, its sector goes on as poison and the group is retired (R242). The failing wire is not known. -/
def vlReplay (g : GroupRef) (failed : Bool) (sectors : List Nat) (s : State) : State :=
  let s1 := ctrVl g 1 1 (beatFlip g s)
  let b := groupAt s1 g
  if b.retired then s
  else if !failed then (if b.failures = 0 then s1 else setGroup g { b with failures := 0 } s1)
  else if 2 ≤ b.failures then
    retireGroup g 2 (Config.openField s1.freeCtr % 72) (poisonBeat g.iface sectors s1.draw)
  else setGroup g { b with failures := b.failures + 1 } s1

def execVlReplay (g : GroupRef) (failed : Bool) (sectors : List Nat) (s : State) : Host.Outcome State Fault Refusal :=
  .next (vlReplay g failed sectors s)

/-- The group after a wire is found failing: a spare in use that fails leaves its wire failing again; a free spare becomes
unusable. -/
def wireFails (b : BondGroup) (w : Nat) : BondGroup :=
  if w = 72 ∨ w = 73 then
    { b with
      unusable := if b.unusable.contains w then b.unusable else b.unusable ++ [w]
      failing := b.failing ++ (b.sparesUsed.filter (fun p => decide (p.2 = w))).map (·.1)
      sparesUsed := b.sparesUsed.filter (fun p => p.2 ≠ w) }
  else if b.failing.contains w then b else { b with failing := b.failing ++ [w] }

/-- A persistently failing wire waits for the next GLEAN to take a spare; with no spare left the group is retired (R246, R247). A
failing spare is reported as the wire it stood for. -/
def markWire (g : GroupRef) (w : Nat) (s : State) : State :=
  if (groupAt s g).retired then s
  else
    let b := wireFails (groupAt s g) w
    let lost := if w < 72 then w
      else (((groupAt s g).sparesUsed.find? (fun p => decide (p.2 = w))).map (·.1)).getD (b.failing.headD 0xFF)
    if (freeSpares b).length < b.failing.length then retireGroup g 1 lost s else setGroup g b s

/-- VL_WIRE_FAILING: 16 corrected beats within 1 ms. -/
def vlWireFailing (g : GroupRef) (wire : Nat) (s : State) : State := markWire g wire (ctrVl g 0 16 (beatFlip g s))

def execVlWireFailing (g : GroupRef) (wire : Nat) (s : State) : Host.Outcome State Fault Refusal :=
  .next (vlWireFailing g wire s)

/-- VL_CLOCK_LOSS (R247). -/
def execVlClockLoss (g : GroupRef) (s : State) : Host.Outcome State Fault Refusal := .next (retireGroup g 3 0xFF s)

/-- SPARE_WIRE_SWITCH of one group: each failing wire takes the lowest free spare (R246). -/
def switchGroup (g : GroupRef) (s : State) : State :=
  (groupAt s g).failing.foldl (fun st w =>
    let b := groupAt st g
    match freeSpares b with
    | sp :: _ =>
      (ctrVl g 2 1 (setGroup g { b with
        failing := b.failing.filter (· ≠ w)
        sparesUsed := b.sparesUsed ++ [(w, sp)] } st)).onFlash (fun f => { f with
        defects := f.defects ++ [⟨5, true, towerNum g.tower, 0xFF, groupIndex g, w + (sp - 72) * 256⟩] })
    | [] => st) s

/-- The group of a key. -/
def groupOfKey (k : Nat) : GroupRef := { tower := towerOf (k / 2 ^ 16), iface := k / 2 ^ 13 % 8, group := k % 2 ^ 13 }

/-- Switch every group of a tower that has a failing wire: the work of a GLEAN window with at least 100 µs left (R54, R246). -/
def switchTower (t : Tower) (s : State) : State :=
  (s.vl.groups.filter (fun e => e.2.failing ≠ [] && !e.2.retired && decide ((groupOfKey e.1).tower = t))).foldl
    (fun st e => switchGroup (groupOfKey e.1) st) s

end Sys2Proof.Machine
end

