-- ==== Sys2Proof/Machine/Operands.lean ====
section
/-! DEFINITION. The issuing fragment and its operands: lane registers, uniform registers, immediates, predicates, the scoreboard,
poison, faults of a core, and how a fragment goes on (03_cores.md R71 to R75, R85 to R87, R108 to R111). -/

namespace Sys2Proof.Machine

/-- A core with nothing resident. -/
def Core.empty : Core :=
  { held := false, crews := [], gangs := [], l1r := [], l1rMiss := [], copies := [], mxq := [], mxTaken := none, mxLast := 3, chains := [], cycles := 0,
    nextOrder := 0, lastIssue := [] }

/-- The core of a logical ID. -/
def coreAt (s : State) (c : Nat) : Core := tabGetD s.cores.cores c Core.empty

/-- Change a core. -/
def onCore (c : Nat) (f : Core → Core) (s : State) : State :=
  s.onCores (fun x => { x with cores := tabPut x.cores c (f (tabGetD x.cores c Core.empty)) })

/-- Key of a gang in its core. -/
def gangKey (g : FragRef) : Nat := g.slot * 32 + g.gang

/-- Change a gang, a crew or a fragment that is resident. -/
def onGang (g : FragRef) (f : Gang → Gang) (s : State) : State :=
  onCore g.core (fun c => { c with gangs := tabMod c.gangs (gangKey g) f }) s
def onCrew (core slot : Nat) (f : Crew → Crew) (s : State) : State :=
  onCore core (fun c => { c with crews := tabMod c.crews slot f }) s
def onFrag (g : FragRef) (f : Frag → Frag) (s : State) : State :=
  onGang g (fun x => { x with frags := tabMod x.frags g.frag f }) s

/-- The fragment that issues, with its crew and gang. -/
structure Act where
  g : FragRef
  crew : Crew
  gang : Gang
  frag : Frag
deriving DecidableEq, Repr

/-- The fragment of a reference, if it is resident. -/
def actAt (s : State) (g : FragRef) : Option Act :=
  let c := coreAt s g.core
  match tabGet c.crews g.slot, tabGet c.gangs (gangKey g) with
  | some crew, some gang => (tabGet gang.frags g.frag).map (fun f => { g := g, crew := crew, gang := gang, frag := f })
  | _, _ => none

/-- Active lanes of a mask, ascending. -/
def lanesOf (m : BitVec 32) : List Nat := (List.range 32).filter (fun l => m.getLsbD l)

/-- The mask of lanes. -/
def maskOf (ls : List Nat) : BitVec 32 := BitVec.ofNat 32 (ls.foldl (fun m l => m ||| 2 ^ l) 0)

/-! ### Values -/

/-- A lane register, a uniform register, a predicate. -/
def regVal (g : Gang) (lane r : Nat) : W32 := tabGetD g.regs (lane * 256 + r) 0#32
def uregVal (g : Gang) (u : Nat) : W32 := tabGetD g.uregs u 0#32
def predVal (g : Gang) (lane p : Nat) : Bool := decide (p = 7) || (tabGet g.preds (lane * 8 + p)).isSome

/-- Poison mark of a lane register. -/
def regPoison (g : Gang) (lane r : Nat) : Bool := (tabGet g.poison (lane * 256 + r)).isSome

/-- Value and poison of an operand in a lane. -/
def srcVal (g : Gang) (lane : Nat) : Src → W32
  | .reg r => regVal g lane r
  | .ureg u => uregVal g u
  | .imm w => w
def srcPoison (g : Gang) (lane : Nat) : Src → Bool
  | .reg r => regPoison g lane r
  | .ureg _ => false
  | .imm _ => false

/-- Lane registers and uniform registers that operands name. -/
def srcRegs (ss : List Src) : List Nat := ss.filterMap (fun x => match x with
  | .reg r => some r
  | _ => none)
def srcUregs (ss : List Src) : List Nat := ss.filterMap (fun x => match x with
  | .ureg u => some u
  | _ => none)

/-- A global address of a lane (R89). -/
def gaddrVal (g : Gang) (lane : Nat) (a : GAddr) : Nat := (srcVal g lane a.lo).toNat + (srcVal g lane a.hi).toNat * 2 ^ 32

/-- Set a lane register with its poison mark. -/
def setReg (lane r : Nat) (v : W32) (pz : Bool) (g : Gang) : Gang :=
  { g with
    regs := tabPut g.regs (lane * 256 + r) v
    poison := if pz then tabPut g.poison (lane * 256 + r) () else tabDel g.poison (lane * 256 + r) }

/-- Set a predicate; p7 always reads true (R71). -/
def setPred (lane p : Nat) (b : Bool) (g : Gang) : Gang :=
  if p = 7 then g
  else { g with preds := if b then tabPut g.preds (lane * 8 + p) () else tabDel g.preds (lane * 8 + p) }

/-! ### Waiting at the loft and the scoreboard (R74, R94) -/

/-- Requests a tower's loft has not yet made visible. -/
def loftWaiting (s : State) (t : Tower) : List LoftReq :=
  let w := s.loft.tw.get t
  w.arrivals ++ w.reducing ++ w.hold.flatMap (·.2) ++ w.miss.flatMap (fun e => e.2.flatMap (·.waiters))

/-- A request of this number is not yet visible in a tower. -/
def stillWaits (s : State) (t : Tower) (id : Nat) : Bool := (loftWaiting s t).any (fun r => decide (r.id = id))

/-- Requests of a gang that are not yet visible: at tower scope those homed on the tower, else all (R94). -/
def storesWait (s : State) (scope : Nat) (t : Tower) (ids : List Nat) : Bool :=
  ids.any (fun i => stillWaits s t i || (decide (scope ≠ 1) && stillWaits s (otherTower t) i))

/-- Tower of a logical core (R72). -/
def towerOfCore (c : Nat) : Tower := if c < 128 then .t0 else .t1

/-- What a fence or an acquire of a gang of a core waits for has come about. -/
def fenceDone (s : State) (core : Nat) (y : Gang) (scope : Nat) (ids : List Nat) : Bool :=
  if scope = 4 then ids.all (fun i => !y.pend.any (fun p => decide (p.tag = i)))
  else !storesWait s scope (towerOfCore core) ids

/-- The gang's last fence holds it no longer (R75, R94). -/
def gangFree (s : State) (core : Nat) (y : Gang) : Bool :=
  match y.fenceWait with
  | none => true
  | some (scope, ids) => fenceDone s core y scope ids

/-- A fragment can issue: it waits for nothing, or for an acquire that is now satisfied, and its gang for no fence. -/
def fragReady (s : State) (a : Act) : Bool :=
  gangFree s a.g.core a.gang && match a.frag.wait with
  | .ready => true
  | .fence scope ids => fenceDone s a.g.core a.gang scope ids
  | _ => false

/-- The gang has an MXST whose writes are not yet in local memory: its later accesses to local memory wait (R134). -/
def mxstPending (s : State) (g : FragRef) : Bool :=
  (coreAt s g.core).mxq.any (fun e => e.2.any (fun m => decide (m.slot = g.slot ∧ m.gang = g.gang) && match m.op with
    | .mxst _ => true
    | _ => false))

/-- A register has a result pending. -/
def pendBusy (g : Gang) (rs : List Nat) : Bool := g.pend.any (fun p => rs.any (fun r => decide (p.lo ≤ r ∧ r ≤ p.hi)))

/-- Registers have a result pending until the operation of a number releases them. -/
def addPend (lo n tag : Nat) (g : Gang) : Gang := { g with pend := g.pend ++ [⟨lo, lo + n - 1, tag⟩] }
def dropPend (tag : Nat) (g : Gang) : Gang := { g with pend := g.pend.filter (fun p => p.tag ≠ tag) }

/-! ### How fragments go on (R85 to R87) -/

/-- Union of split records. -/
def joinSplits (a b : List Split) : List Split := a ++ b.filter (fun x => !a.any (fun y => decide (y.id = x.id)))

/-- The part of a fragment that some lanes make up, with their call stacks. -/
def Frag.only (ls : List Nat) (f : Frag) : Frag :=
  { f with mask := maskOf ls, calls := f.calls.filter (fun e => ls.contains e.1) }

/-- A fragment takes another's lanes. -/
def Frag.with (f x : Frag) : Frag :=
  { f with mask := f.mask ||| x.mask, calls := x.calls.foldl (fun m e => tabPut m e.1 e.2) f.calls, splits := joinSplits f.splits x.splits }

/-- LANE-PRESERVING REPACK: ready fragments at one program counter merge (R87). -/
def repackInto (acc : Tab Frag) (e : Nat × Frag) : Tab Frag :=
  if e.2.wait = .ready then
    match acc.find? (fun x => decide (x.2.wait = .ready ∧ x.2.pc = e.2.pc)) with
    | some x => tabPut acc x.1 (x.2.with e.2)
    | none => acc ++ [e]
  else acc ++ [e]
def repack (g : Gang) : Gang := { g with frags := g.frags.foldl repackInto [] }

/-- A free fragment entry. A gang of 32 lanes never lacks one (R86). -/
def freeEntry (g : Gang) : Nat := ((List.range 32).find? (fun k => (tabGet g.frags k).isNone)).getD 31

/-- Fragments that came from a split. -/
def fromSplit (g : Gang) (id : Nat) : Tab Frag := g.frags.filter (fun e => e.2.splits.any (fun x => decide (x.id = id)))

/-- Merge the fragments of a split when all of them wait at its reconvergence point (R87). -/
def reconverge (id : Nat) (g : Gang) : Gang :=
  match fromSplit g id with
  | [] => g
  | e :: rest =>
    if (e :: rest).all (fun x => decide (x.2.wait = .reconv id)) then
      let all := rest.foldl (fun f x => f.with x.2) e.2
      { g with
        frags := tabPut (g.frags.filter (fun x => !rest.any (fun y => decide (y.1 = x.1)))) e.1
          { all with splits := all.splits.filter (fun x => x.id ≠ id), wait := .ready, pc := e.2.pc + 16 } }
    else g

/-- Reconvergence of every split a fragment waits for, then repack. -/
def settleGang (g : Gang) : Gang :=
  repack ((g.frags.filterMap (fun e => match e.2.wait with
    | .reconv id => some id
    | _ => none)).foldl (fun x id => reconverge id x) g)

/-- The fragment goes on at the next instruction; instructions are 16 bytes (Table 3.4). -/
def advance (g : FragRef) (s : State) : State :=
  onGang g settleGang (onFrag g (fun f => { f with pc := f.pc + 16, wait := .ready }) s)

/-- The fragment waits. -/
def waitFor (g : FragRef) (w : Wait) (s : State) : State := onFrag g (fun f => { f with wait := w }) s

/-! ### Faults (R109 to R111) -/

/-- Core fault detail (Table 3.13). -/
def coreDetail (a : Act) (code : Nat) (mask : BitVec 32) (cause barrier : Nat) : List Byte :=
  leBytes code 2 ++ leBytes a.g.core 2 ++ leBytes a.gang.quarter 1 ++ leBytes a.g.slot 1 ++ leBytes a.g.gang 1
    ++ leBytes barrier 1 ++ leBytes mask.toNat 4 ++ leBytes a.frag.pc 4 ++ leBytes a.crew.item 4 ++ leBytes a.crew.handle 2
    ++ leBytes cause 2

/-- CORE_FAULT: the fragment stops and the job faults (R111). -/
def coreFault (a : Act) (code : Nat) (mask : BitVec 32) (cause : Nat) (s : State) : State :=
  jobFault a.crew.job code (coreDetail a code mask cause 0xFF) (waitFor a.g .faulted s)

/-- ILLEGAL_INSTR and FIELD_VIOLATION of all active lanes. -/
def illegal (a : Act) (cause : Nat) (s : State) : State := coreFault a evIllegalInstr a.frag.mask cause s
def violation (a : Act) (cause : Nat) (s : State) : State := coreFault a evFieldViolation a.frag.mask cause s

/-- POISON_CONSUMED where an active lane takes a poisoned source (R108). -/
def consume (a : Act) (ss : List Src) (k : State) (s : State) : State :=
  let bad := (lanesOf a.frag.mask).filter (fun l => ss.any (srcPoison a.gang l))
  if bad = [] then k else coreFault a evPoisonConsumed (maskOf bad) 0 s

/-! ### Whose turn it is (R85) -/

/-- One place in the issue order of a quarter comes before another: gangs that have not yielded by gang slot, then those that have in
order of their last YIELD, and the fragments of a gang in order. The gang slot of a gang is taken to be that of its crew and its index
(DEDUCED, log 57). -/
def placeBefore (a b : Nat × Nat × Nat) : Bool :=
  decide (a.1 < b.1 ∨ (a.1 = b.1 ∧ (a.2.1 < b.2.1 ∨ (a.2.1 = b.2.1 ∧ a.2.2 < b.2.2))))

/-- Going round from the place issued from last, a place comes up before another. -/
def comesFirst (last : Option (Nat × Nat × Nat)) (r me : Nat × Nat × Nat) : Bool :=
  match last with
  | none => placeBefore r me
  | some l => if placeBefore l me then placeBefore l r && placeBefore r me else placeBefore l r || placeBefore r me

/-- Nothing in the core or before it can hold up a fragment that waits for nothing: no request at the lofts, no copy in flight, nothing in
the matrix queues, room in the sweep queues. -/
def coreCalm (s : State) (core : Nat) : Bool :=
  let c := coreAt s core
  bothTowers.all (fun t => decide (loftWaiting s t = []) && decide ((s.press.queues.get t).length < 64))
    && decide (c.copies = []) && c.mxq.all (fun e => decide (e.2 = [])) && c.chains.all (fun e => decide (e.2 = []))

/-- A fragment may issue where no other of its quarter that is certainly ready comes up before it. What instruction another fragment
would issue is not in the state, so only one that no instruction could make wait is held to be ready (DESIGN CHOICE, log 57). -/
def hasTurn (s : State) (a : Act) : Bool :=
  let c := coreAt s a.g.core
  !coreCalm s a.g.core || !c.gangs.any (fun e =>
    decide (e.2.quarter = a.gang.quarter ∧ e.2.pend = []) && gangFree s a.g.core e.2
      && e.2.frags.any (fun f => decide (f.2.wait = .ready)
        && comesFirst (tabGet c.lastIssue a.gang.quarter) (e.2.order, e.1, f.1) (a.gang.order, gangKey a.g, a.g.frag)))

/-- Fragments whose acquire is satisfied are ready again, and merge as such. -/
def wakeFences (g : FragRef) (s : State) : State :=
  let waits := fun (f : Nat × Frag) => match f.2.wait with
    | .fence _ _ => true
    | _ => false
  match tabGet (coreAt s g.core).gangs (gangKey g) with
  | none => s
  | some y =>
    if y.frags.any waits then onGang g (fun _ => settleGang { y with
      frags := y.frags.map (fun f => match f.2.wait with
        | .fence scope ids => if fenceDone s g.core y scope ids then (f.1, { f.2 with wait := .ready }) else f
        | _ => f) }) s
    else s

/-- Issue an instruction of a fragment: nothing happens while the fragment waits, is not resident, another has the turn, or a register it
names has a result pending (R74, R85); a register beyond REGS, or one that no encoding names, is an illegal instruction (R110). Each
instruction counts one cycle (DESIGN CHOICE, log 26). -/
def issue (g : FragRef) (rs us ps : List Nat) (body : Act → State → State) (s : State) : State :=
  let s0 := wakeFences g s
  match actAt s0 g with
  | none => s
  | some a =>
    if !fragReady s0 a || pendBusy a.gang rs || !hasTurn s0 a then s
    else
      let s1 := onCore g.core (fun c => { c with
        cycles := c.cycles + 1
        lastIssue := tabPut c.lastIssue a.gang.quarter (a.gang.order, gangKey g, g.frag) }) s0
      if us.any (fun u => decide (63 < u)) || ps.any (fun p => decide (7 < p)) then illegal a 1 s1
      else if rs.any (fun r => decide (a.crew.kernel.regs ≤ r)) then illegal a 4 s1
      else body a s1

/-- Write one register in lanes and go on. -/
def writeLanes (a : Act) (dst : Nat) (vals : List (Nat × W32 × Bool)) (s : State) : State :=
  advance a.g (onGang a.g (fun g => vals.foldl (fun x v => setReg v.1 dst v.2.1 v.2.2 x) g) s)

/-- Write one predicate in lanes and go on. -/
def writePreds (a : Act) (p : Nat) (vals : List (Nat × Bool)) (s : State) : State :=
  advance a.g (onGang a.g (fun g => vals.foldl (fun x v => setPred v.1 p v.2 x) g) s)

/-- An operand of a gang-uniform instruction is not a lane register (R75). -/
def isUniform : Src → Bool
  | .reg _ => false
  | _ => true

/-- Value of a gang-uniform operand. -/
def uniVal (a : Act) (x : Src) : Nat := (srcVal a.gang 0 x).toNat

/-- Issue a gang-uniform instruction: a lane register as an operand is an undefined encoding (R75, R110). -/
def issueUniform (g : FragRef) (ss : List Src) (body : Act → State → State) (s : State) : State :=
  issue g [] (srcUregs ss) [] (fun a st => if ss.all isUniform then body a st else illegal a 1 st) s

/-- Lanes in an order the manual leaves open (R89, R92, R93): each is inserted at a free place among those after it. -/
def openOrder {α : Type} (n : Nat) : List α → List α
  | [] => []
  | x :: xs =>
    let r := openOrder n xs
    let k := Config.winner (64 * n + xs.length) % (r.length + 1)
    r.take k ++ x :: r.drop k

end Sys2Proof.Machine
end

