-- ==== Sys2Proof/Machine/CoreMem.lean ====
section
/-! DEFINITION. Local and global memory instructions of a core (03_cores.md R88 to R93, R108, R110). -/

namespace Sys2Proof.Machine

/-! ### Local memory (R82, R88) -/

/-- A byte of a crew's local memory: undefined until written (R82). -/
def lmemByte (c : Crew) (off : Nat) : Byte := (tabGet c.lmem off).getD (Config.localByte c.uid off)

/-- Bytes of local memory. -/
def lmemRead (c : Crew) (off n : Nat) : List Byte := (List.range n).map (fun i => lmemByte c (off + i))

/-- A word of the range is poisoned. -/
def lmemPoison (c : Crew) (off n : Nat) : Bool :=
  (List.range ((off + n - 1) / 4 - off / 4 + 1)).any (fun i => (tabGet c.lpoison (off / 4 + i)).isSome)

/-- Store bytes in local memory; words written whole take the mark, words written in part keep a mark they had. -/
def lmemWrite (off : Nat) (bs : List Byte) (pz : Bool) (c : Crew) : Crew :=
  if bs = [] then c
  else
    let words := (List.range ((off + bs.length - 1) / 4 - off / 4 + 1)).map (fun i => off / 4 + i)
    { c with
      lmem := (bs.mapIdx (fun i b => (off + i, b))).foldl (fun m p => tabPut m p.1 p.2) c.lmem
      lpoison := words.foldl (fun m w =>
        if pz then tabPut m w ()
        else if off ≤ w * 4 ∧ (w + 1) * 4 ≤ off + bs.length then tabDel m w else m) c.lpoison }

/-- Registers an access of a width takes. -/
def widthRegs (w : Nat) : Nat := max 1 (w / 4)

/-- Access widths of R88 and R89. -/
def widthOk (w : Nat) : Bool := decide (w = 1 ∨ w = 2 ∨ w = 4 ∨ w = 8 ∨ w = 16)

/-- Registers from one up. -/
def regRun (r n : Nat) : List Nat := (List.range n).map (fun i => r + i)

/-- Write loaded bytes into a lane's registers, zero-extended (log 27). -/
def loadRegs (lane dst width : Nat) (bs : List Byte) (pz : Bool) (g : Gang) : Gang :=
  (List.range (widthRegs width)).foldl (fun x i => setReg lane (dst + i) (BitVec.ofNat 32 (fieldAt bs (4 * i) 4)) pz x) g

/-- Bytes of a lane's registers, and whether any is poisoned. -/
def storeBytes (g : Gang) (lane src width : Nat) : List Byte × Bool :=
  (((List.range (widthRegs width)).flatMap (fun i => leBytes (regVal g lane (src + i)).toNat 4)).take width,
   (List.range (widthRegs width)).any (fun i => regPoison g lane (src + i)))

/-- Checks of a local access, lane by lane: natural alignment, then the bound (R88, R110). -/
def localChecked (a : Act) (width : Nat) (addr : Nat → Nat) (k : State) (s : State) : State :=
  let ls := lanesOf a.frag.mask
  let mis := ls.filter (fun l => decide (addr l % width ≠ 0))
  let out := ls.filter (fun l => decide (a.crew.kernel.localKib * 1024 < addr l + width))
  if !widthOk width then illegal a 1 s
  else if mis ≠ [] then coreFault a evIllegalInstr (maskOf mis) 2 s
  else if out ≠ [] then coreFault a evFieldViolation (maskOf out) 3 s
  else k

/-- LDL. -/
def ldl (g : FragRef) (width dst : Nat) (addr : Src) (s : State) : State :=
  if mxstPending s g then s
  else issue g (regRun dst (widthRegs width) ++ srcRegs [addr]) (srcUregs [addr]) [] (fun x st =>
    let at_ := fun l => (srcVal x.gang l addr).toNat
    consume x [addr] (localChecked x width at_
      (advance g (onGang g (fun y => (lanesOf x.frag.mask).foldl (fun z l =>
        loadRegs l dst width (lmemRead x.crew (at_ l) width) (lmemPoison x.crew (at_ l) width) z) y) st)) st) st) s

def execLdl (g : FragRef) (width dst : Nat) (addr : Src) (s : State) : Host.Outcome State Fault Refusal :=
  .next (ldl g width dst addr s)

/-- STL: which lane's data stays where lanes write one address is open (log 14). -/
def stl (g : FragRef) (width src : Nat) (addr : Src) (s : State) : State :=
  if mxstPending s g then s
  else issue g (regRun src (widthRegs width) ++ srcRegs [addr]) (srcUregs [addr]) [] (fun x st =>
    let at_ := fun l => (srcVal x.gang l addr).toNat
    consume x [addr] (localChecked x width at_
      (advance g (onCrew g.core g.slot (fun c => (openOrder st.freeCtr (lanesOf x.frag.mask)).foldl (fun z l =>
        let v := storeBytes x.gang l src width
        lmemWrite (at_ l) v.1 v.2 z) c) st.draw)) st) st) s

def execStl (g : FragRef) (width src : Nat) (addr : Src) (s : State) : Host.Outcome State Fault Refusal :=
  .next (stl g width src addr s)

/-- Value of a register pair or a single register, by operand bytes. -/
def wideVal (g : Gang) (lane r bytes : Nat) : W64 :=
  BitVec.ofNat 64 ((regVal g lane r).toNat + (if bytes = 8 then (regVal g lane (r + 1)).toNat * 2 ^ 32 else 0))

/-- Registers of an atomic's operand, comparand and result. -/
def atomRegs (op : RedOp) (ty : RedTy) (dst : Option Nat) (val cmp : Nat) : List Nat :=
  let n := redBytes op ty / 4
  (dst.map (fun d => regRun d n)).getD [] ++ regRun val n ++ (if op = .cas then regRun cmp n else [])

/-- ATOML works on INT32, INT64, FP32 and, for compare-and-swap, 64-bit words (R88). -/
def atomlOk (op : RedOp) (ty : RedTy) : Bool := decide (op = .cas) || decide (ty ≠ .bf16)

/-- ATOML: the lanes take effect one at a time, in an order the manual leaves open. -/
def atoml (g : FragRef) (op : RedOp) (ty : RedTy) (dst : Option Nat) (addr : Src) (val cmp : Nat) (s : State) : State :=
  let n := redBytes op ty
  if mxstPending s g then s
  else issue g (atomRegs op ty dst val cmp ++ srcRegs [addr]) (srcUregs [addr]) [] (fun x st =>
    let at_ := fun l => (srcVal x.gang l addr).toNat
    let ls := lanesOf x.frag.mask
    let ops := ((atomRegs op ty none val cmp).map Src.reg) ++ [addr]
    let bad := ls.filter (fun l => lmemPoison x.crew (at_ l) n)
    if !atomlOk op ty then illegal x 1 st
    else consume x ops (localChecked x n at_
      (if bad ≠ [] then coreFault x evPoisonConsumed (maskOf bad) 0 st
       else
        let run := (openOrder st.freeCtr ls).foldl (fun (acc : Crew × List (Nat × List Byte)) l =>
          let old := lmemRead acc.1 (at_ l) n
          let new := leBytes (redWord op ty (leNat old) (wideVal x.gang l val n).toNat (wideVal x.gang l cmp n).toNat) n
          (lmemWrite (at_ l) new false acc.1, acc.2 ++ [(l, old)])) (x.crew, [])
        let st1 := onCrew g.core g.slot (fun _ => run.1) st.draw
        match dst with
        | some d => advance g (onGang g (fun y => run.2.foldl (fun z o => loadRegs o.1 d n o.2 false z) y) st1)
        | none => advance g st1) st) st) s

def execAtoml (g : FragRef) (op : RedOp) (ty : RedTy) (dst : Option Nat) (addr : Src) (val cmp : Nat) (s : State) :
    Host.Outcome State Fault Refusal := .next (atoml g op ty dst addr val cmp s)

/-! ### Checks of a global access (R84, R89, R90, R110) -/

/-- Enabled cores of a tower, by logical ID (R72). -/
def enabledCores (s : State) (t : Tower) : List Nat :=
  (List.range (min 128 (s.boot.coreMap.get t).length)).map (fun i => towerNum t * 128 + i)

/-- Bytes of a crew's spill region. -/
def spillRegion (s : State) (c : Crew) : Nat :=
  16 * ((towersOfMask c.towers).map (fun t => (enabledCores s t).length)).foldl (· + ·) 0 * c.kernel.spillBytes

/-- The cause of a FIELD_VIOLATION of an access of a kind (0 read, 1 write, 2 reduce), none where it may proceed. -/
def accessCause (s : State) (a : Act) (kind addr n : Nat) : Option Nat :=
  let page := addr / pageBytes * pageBytes
  let map := ((jobAt s a.crew.job).map (·.map)).getD []
  let own := if isPinned page then decide ((bayAt s page).map (·.job) = some a.crew.job) else true
  if !map.any (fun e => entryHolds e page) || !own then some 1
  else if !pageAllowed s a.crew.job map kind page then some 2
  else if a.crew.kernel.spillBytes ≠ 0 ∧ a.crew.spillBase ≤ addr ∧ addr < a.crew.spillBase + spillRegion s a.crew
      ∧ ¬(a.crew.spillSlot ≤ addr ∧ addr + n ≤ a.crew.spillSlot + a.crew.kernel.spillBytes) then some 4
  else none

/-- Checks of a global access, lane by lane. -/
def globalChecked (a : Act) (kind width : Nat) (addr : Nat → Nat) (k : State) (s : State) : State :=
  let ls := lanesOf a.frag.mask
  let mis := ls.filter (fun l => decide (addr l % width ≠ 0))
  let bad := ls.filterMap (fun l => (accessCause s a kind (addr l) width).map (fun c => (l, c)))
  if mis ≠ [] then coreFault a evIllegalInstr (maskOf mis) 2 s
  else match bad with
    | [] => k
    | (_, c) :: _ => coreFault a evFieldViolation (maskOf ((bad.filter (fun b => decide (b.2 = c))).map (·.1))) c s

/-- Lanes by the 128-byte line they touch, in order of first touch (R89). -/
def lineGroups (las : List (Nat × Nat)) : List (Nat × List (Nat × Nat)) :=
  (las.foldl (fun (ls : List Nat) p => if ls.contains (p.2 / 128) then ls else ls ++ [p.2 / 128]) []).map (fun l =>
    (l * 128, las.filter (fun p => decide (p.2 / 128 = l))))

/-- Send a request of a core to the loft of its home tower (R202); answers its number. -/
def loftSend (a : Act) (addr : Nat) (kind : ReqKind) (s : State) : State × Nat :=
  let t := homeTower s addr
  let id := s.cores.nextTag
  ((s.onCores (fun x => { x with nextTag := x.nextTag + 1 })).onLoft (fun x => { x with
    tw := x.tw.mod t (fun w => { w with
      arrivals := w.arrivals ++ [⟨id, addr, a.crew.job, some (a.g.core, a.crew.item), kind, false, Agent.core⟩] }) }), id)

/-! ### Loads (R89, R91) -/

/-- LD. -/
def ld (g : FragRef) (width dst : Nat) (addr : GAddr) (s : State) : State :=
  issue g (regRun dst (widthRegs width) ++ srcRegs [addr.lo, addr.hi]) (srcUregs [addr.lo, addr.hi]) [] (fun x st =>
    let at_ := fun l => gaddrVal x.gang l addr
    if !widthOk width then illegal x 1 st
    else consume x [addr.lo, addr.hi] (globalChecked x 0 width at_
      (advance g ((lineGroups ((lanesOf x.frag.mask).map (fun l => (l, at_ l)))).foldl (fun z p =>
        let (z1, id) := loftSend x p.1 (.load { g := g, width := width, dst := dst, lanes := p.2, viaL1r := false }) z
        onGang g (addPend dst (widthRegs width) id) z1) st)) st) st) s

def execLd (g : FragRef) (width dst : Nat) (addr : GAddr) (s : State) : Host.Outcome State Fault Refusal :=
  .next (ld g width dst addr s)

/-- Data of lanes from an L1R line: bytes and poison. -/
def l1rData (line : List Byte × List Nat) (t : LoadTag) : List (Nat × List Byte × Bool) :=
  t.lanes.map (fun p => (p.1, sliceBytes line.1 (p.2 % 128) t.width, line.2.contains (p.2 % 128 / 32)))

/-- Write loaded lanes into a gang that still waits for the load of a number, and release the registers. -/
def finishLoad (id : Nat) (t : LoadTag) (vals : List (Nat × List Byte × Bool)) (s : State) : State :=
  onGang t.g (fun y => if y.pend.any (fun p => decide (p.tag = id)) then
      dropPend id (vals.foldl (fun z v => loadRegs v.1 t.dst t.width v.2.1 v.2.2 z) y) else y) s

/-- LD.RO: a line the L1R holds is read from it; a miss to a line already missing waits for it (R91). -/
def ldRo (g : FragRef) (width dst : Nat) (addr : GAddr) (s : State) : State :=
  issue g (regRun dst (widthRegs width) ++ srcRegs [addr.lo, addr.hi]) (srcUregs [addr.lo, addr.hi]) [] (fun x st =>
    let at_ := fun l => gaddrVal x.gang l addr
    if !widthOk width then illegal x 1 st
    else consume x [addr.lo, addr.hi] (globalChecked x 0 width at_
      (advance g ((lineGroups ((lanesOf x.frag.mask).map (fun l => (l, at_ l)))).foldl (fun z p =>
        let tag : LoadTag := { g := g, width := width, dst := dst, lanes := p.2, viaL1r := false }
        let c := coreAt z g.core
        match tabGet c.l1r (p.1 / 128) with
        | some line => onGang g (fun y => (l1rData line tag).foldl (fun w v => loadRegs v.1 dst width v.2.1 v.2.2 w) y) z
        | none =>
          match tabGet c.l1rMiss (p.1 / 128) with
          | some ws =>
            let id := z.cores.nextTag
            onGang g (addPend dst (widthRegs width) id) (onCore g.core (fun y => { y with
              l1rMiss := tabPut y.l1rMiss (p.1 / 128) (ws ++ [(id, tag)]) })
              (z.onCores (fun y => { y with nextTag := id + 1 })))
          | none =>
            let (z1, id) := loftSend x p.1 (.load { tag with lanes := [(0, p.1)], viaL1r := true }) z
            onGang g (addPend dst (widthRegs width) id) (onCore g.core (fun y => { y with
              l1rMiss := tabPut y.l1rMiss (p.1 / 128) [(id, tag)] }) z1)) st)) st) st) s

def execLdRo (g : FragRef) (width dst : Nat) (addr : GAddr) (s : State) : Host.Outcome State Fault Refusal :=
  .next (ldRo g width dst addr s)

/-- Install a line in the L1R, 512 lines at most; which line leaves a full one is open (log 15). -/
def l1rInstall (core la : Nat) (line : List Byte × List Nat) (s : State) : State :=
  let c := coreAt s core
  if c.l1r.length < 512 then onCore core (fun y => { y with l1r := tabPut y.l1r la line }) s
  else onCore core (fun y => { y with
    l1r := tabPut (y.l1r.eraseIdx (Config.winner s.freeCtr % 512)) la line }) s.draw

/-- GLOBAL_LOAD_RETURN: the response of a number returns to the registers, or fills the L1R and serves the loads that wait for the
line (R89, R91). -/
def globalLoadReturn (id : Nat) (s : State) : State :=
  match s.cores.responses.find? (fun r => decide (r.id = id)) with
  | none => s
  | some r =>
    let s1 := s.onCores (fun x => { x with responses := x.responses.filter (fun y => y.id ≠ id) })
    if r.tag.viaL1r then
      let la := ((r.tag.lanes.head?).map (·.2)).getD 0 / 128
      let line : List Byte × List Nat := (r.old.flatMap (·.2.1), (r.old.filter (fun e => e.2.2)).map (·.1))
      let ws := tabGetD (coreAt s1 r.tag.g.core).l1rMiss la []
      let s2 := onCore r.tag.g.core (fun y => { y with l1rMiss := tabDel y.l1rMiss la }) (l1rInstall r.tag.g.core la line s1)
      ws.foldl (fun z w => finishLoad w.1 w.2 (l1rData line w.2) z) s2
    else finishLoad id r.tag r.old s1

def execGlobalLoadReturn (id : Nat) (s : State) : Host.Outcome State Fault Refusal := .next (globalLoadReturn id s)

/-! ### Stores and memory-side operations (R89, R91 to R93) -/

/-- Note requests of a gang that a fence waits for; those already visible are dropped. -/
def noteStores (g : FragRef) (ids : List Nat) (s : State) : State :=
  onGang g (fun y => { y with stores := y.stores.filter (fun i => stillWaits s .t0 i || stillWaits s .t1 i) ++ ids }) s

/-- A core's store to lines invalidates them in its own L1R. -/
def l1rForget (core : Nat) (lines : List Nat) (s : State) : State :=
  onCore core (fun y => { y with l1r := lines.foldl (fun m l => tabDel m l) y.l1r }) s

/-- Send the store of each line: lanes write their bytes in order, a poisoned source poisons its sectors. Answers the requests' numbers. -/
def sendStores (a : Act) (width src : Nat) (groups : List (Nat × List (Nat × Nat))) (s : State) : State × List Nat :=
  groups.foldl (fun (acc : State × List Nat) p =>
    let cells : Tab (Byte × Bool) := p.2.foldl (fun m q =>
      let v := storeBytes a.gang q.1 src width
      (v.1.mapIdx (fun i b => (q.2 + i, b))).foldl (fun m' e => tabPut m' e.1 (e.2, v.2)) m) []
    let pz := (cells.filter (fun e => e.2.2)).foldl (fun (l : List Nat) e =>
      if l.contains (e.1 / 32) then l else l ++ [e.1 / 32]) []
    let (z1, id) := loftSend a p.1 (.store (cells.map (fun e => (e.1, e.2.1))) pz) acc.1
    (z1, acc.2 ++ [id])) (s, [])

/-- ST: one request with a byte mask for each line. Which lane's data stays where lanes write one address is open (log 14). -/
def st (g : FragRef) (width src : Nat) (addr : GAddr) (s : State) : State :=
  issue g (regRun src (widthRegs width) ++ srcRegs [addr.lo, addr.hi]) (srcUregs [addr.lo, addr.hi]) [] (fun x st =>
    let at_ := fun l => gaddrVal x.gang l addr
    if !widthOk width then illegal x 1 st
    else consume x [addr.lo, addr.hi] (globalChecked x 1 width at_
      (let groups := lineGroups ((openOrder st.freeCtr (lanesOf x.frag.mask)).map (fun l => (l, at_ l)))
       let sent := sendStores x width src groups st.draw
       advance g (noteStores g sent.2 (l1rForget g.core (groups.map (fun p => p.1 / 128)) sent.1))) st) st) s

def execSt (g : FragRef) (width src : Nat) (addr : GAddr) (s : State) : Host.Outcome State Fault Refusal :=
  .next (st g width src addr s)

/-- Number of a scope (Table 3.11). -/
def scopeNum : MemScope → Nat
  | .crew => 0
  | .tower => 1
  | .device => 2
  | .system => 3

/-- The operation releases, or acquires. -/
def isRelease (o : MemOrder) : Bool := decide (o = .release ∨ o = .acqRel)
def isAcquire (o : MemOrder) : Bool := decide (o = .acquire ∨ o = .acqRel)

/-- The fragment goes on but issues nothing until `w` is satisfied. -/
def advanceWait (g : FragRef) (w : Wait) (s : State) : State :=
  onGang g settleGang (onFrag g (fun f => { f with pc := f.pc + 16, wait := w }) s)

/-- Send the memory-side operation of each line, the result registers pending until it answers. -/
def sendOps (a : Act) (op : RedOp) (ty : RedTy) (dst : Option Nat) (val cmp : Nat) (groups : List (Nat × List (Nat × Nat))) (s : State) :
    State × List Nat :=
  let n := redBytes op ty
  groups.foldl (fun (acc : State × List Nat) p =>
    let ops := p.2.map (fun q =>
      ({ lane := q.1, addr := q.2, val := wideVal a.gang q.1 val n, cmp := wideVal a.gang q.1 cmp n,
         poison := ((atomRegs op ty none val cmp).any (fun r => regPoison a.gang q.1 r)), single := false } : LaneOp))
    let tag := dst.map (fun d => ({ g := a.g, width := n, dst := d, lanes := p.2, viaL1r := false } : LoadTag))
    let (z1, id) := loftSend a p.1 (.reduce op ty ops tag) acc.1
    (match dst with
      | some d => onGang a.g (addPend d (n / 4) id) z1
      | none => z1, acc.2 ++ [id])) (s, [])

/-- ATOM and RED: one request for each line, the lanes in an order the manual leaves open. A releasing operation waits at issue for
the gang's earlier stores; after an acquiring one nothing issues before it is done. -/
def memAtomic (g : FragRef) (op : RedOp) (ty : RedTy) (o : MemOrder) (sc : MemScope) (dst : Option Nat) (addr : GAddr)
    (val cmp : Nat) (s : State) : State :=
  let n := redBytes op ty
  issue g (atomRegs op ty dst val cmp ++ srcRegs [addr.lo, addr.hi]) (srcUregs [addr.lo, addr.hi]) [] (fun x st =>
    let at_ := fun l => gaddrVal x.gang l addr
    if decide (op = .cas) && dst.isNone then illegal x 1 st
    else if isRelease o && storesWait st (scopeNum sc) (towerOfCore g.core) x.gang.stores then s
    else consume x [addr.lo, addr.hi] (globalChecked x 2 n at_
      (let groups := lineGroups ((openOrder st.freeCtr (lanesOf x.frag.mask)).map (fun l => (l, at_ l)))
       let sent := sendOps x op ty dst val cmp groups st.draw
       let st1 := noteStores g sent.2 (l1rForget g.core (groups.map (fun p => p.1 / 128)) sent.1)
       if isAcquire o then advanceWait g (.fence (if dst.isSome then 4 else 2) sent.2) st1 else advance g st1) st) st) s

def execAtom (g : FragRef) (op : RedOp) (ty : RedTy) (o : MemOrder) (sc : MemScope) (dst : Nat) (addr : GAddr) (val cmp : Nat)
    (s : State) : Host.Outcome State Fault Refusal := .next (memAtomic g op ty o sc (some dst) addr val cmp s)

def execRed (g : FragRef) (op : RedOp) (ty : RedTy) (o : MemOrder) (sc : MemScope) (addr : GAddr) (val : Nat) (s : State) :
    Host.Outcome State Fault Refusal := .next (memAtomic g op ty o sc none addr val val s)

/-- INVAL.RO: the core's whole L1R is invalidated (R91). -/
def invalRo (g : FragRef) (s : State) : State :=
  issue g [] [] [] (fun _ st => advance g (onCore g.core (fun y => { y with l1r := [] }) st)) s

def execInvalRo (g : FragRef) (s : State) : Host.Outcome State Fault Refusal := .next (invalRo g s)

/-! ### Fences (R94) -/

/-- A fence: the gang's later accesses, those of all its fragments, wait for its earlier stores at the fence's scope (R75). -/
def fence (scope : Nat) (g : FragRef) (s : State) : State :=
  issue g [] [] [] (fun x st =>
    if mxstPending st g then s
    else
      let wait := if storesWait st scope (towerOfCore g.core) x.gang.stores then some (scope, x.gang.stores) else none
      advance g (onGang g (fun y => { y with fenceWait := wait }) st)) s

def execFenceCrew (g : FragRef) (s : State) : Host.Outcome State Fault Refusal := .next (fence 0 g s)
def execFenceTower (g : FragRef) (s : State) : Host.Outcome State Fault Refusal := .next (fence 1 g s)
def execFenceDevice (g : FragRef) (s : State) : Host.Outcome State Fault Refusal := .next (fence 2 g s)
def execFenceSys (g : FragRef) (s : State) : Host.Outcome State Fault Refusal := .next (fence 3 g s)

end Sys2Proof.Machine
end

