-- ==== Sys2Proof/Machine/Tensors.lean ====
section
/-! DEFINITION. Tensor and copy descriptors, the tests of Table 9.7, the bytes an operation moves, and its pieces
(09_tensors.md R259 to R278). -/

namespace Sys2Proof.Machine

/-- A tensor descriptor (Table 9.1). ext, stride and shard have 6 entries; stride 0 is unused. -/
structure Tensor where
  base : Nat
  dtype : Nat
  rank : Nat
  ext : List Nat
  stride : List Nat
  shard : List Nat
deriving DecidableEq, Repr

/-- Read a tensor descriptor. -/
def tensorOf (bs : List Byte) : Tensor :=
  { base := fieldAt bs 0 6 % 2 ^ 44
    dtype := fieldAt bs 6 1
    rank := fieldAt bs 7 1 % 8
    ext := (List.range 6).map (fun d => fieldAt bs (8 + 4 * d) 4)
    stride := 0 :: (List.range 5).map (fun d => fieldAt bs (0x20 + 5 * d) 5)
    shard := (List.range 6).map (fun d => fieldAt bs (0x39 + d) 1) }

/-- Reserved fields and values of a tensor descriptor are as they must be, with the rank and the extents in range. -/
def tensorOk (bs : List Byte) : Bool :=
  let t := tensorOf bs
  decide (fieldAt bs 0 6 < 2 ^ 44) && decide (fieldAt bs 7 1 < 8) && decide (1 ≤ t.rank ∧ t.rank ≤ 6) && decide (t.dtype ≤ 0x0E)
    && zeroAt bs 0x3F 1
    && (List.range 6).all (fun d =>
      if d < t.rank then decide (1 ≤ t.ext.getD d 0)
      else decide (t.ext.getD d 0 = 0 ∧ t.stride.getD d 0 = 0 ∧ t.shard.getD d 0 = 0))

/-- Elements per unit and bytes per unit (Table 9.2). -/
def unitOf (dtype : Nat) : Nat × Nat :=
  [(1, 1), (1, 4), (1, 2), (1, 2), (1, 1), (1, 1), (4, 3), (2, 1), (1, 1), (1, 4), (1, 8), (32, 33), (32, 25), (32, 17),
   (32, 18)].getD dtype (1, 1)

/-- R₀: bytes of a row of dimension 0. -/
def rowBytes (t : Tensor) : Nat := t.ext.getD 0 0 / (unitOf t.dtype).1 * (unitOf t.dtype).2

/-- R261 and R262: rows of whole units, BASE and strides multiples of 32. -/
def tensorAligned (t : Tensor) : Bool :=
  decide (t.ext.getD 0 0 % (unitOf t.dtype).1 = 0) && decide (t.base % 32 = 0)
    && (List.range 6).all (fun d => decide (d = 0) || decide (t.rank ≤ d) || decide (t.stride.getD d 0 % 32 = 0))

/-- Bytes of the bounding range (R262). -/
def tensorSpan (t : Tensor) : Nat :=
  ((List.range 6).map (fun d => if 1 ≤ d ∧ d < t.rank then (t.ext.getD d 0 - 1) * t.stride.getD d 0 else 0)).foldl (· + ·) 0
    + rowBytes t

/-- R263: the shard bytes of a tensor. -/
def shardsOk (t : Tensor) : Bool :=
  let axes := (List.range t.rank).filterMap (fun d => let a := t.shard.getD d 0 % 8; if a = 0 then none else some a)
  (List.range t.rank).all (fun d =>
    let a := t.shard.getD d 0 % 8; let lb := t.shard.getD d 0 / 8
    if a = 0 then decide (lb = 0)
    else decide (a ≤ 4) && decide (lb ≤ 30) && decide (t.ext.getD d 0 % 2 ^ lb = 0)
      && (decide (d ≠ 0) || decide (2 ^ lb % (unitOf t.dtype).1 = 0)))
    && decide (axes.Nodup)

/-- Byte offset of indices of dimensions 1 and up, given lowest dimension first. -/
def strideOffset : List Nat → List Nat → Nat
  | i :: is, s :: ss => i * s + strideOffset is ss
  | _, _ => 0

/-- All index tuples of extents, the first dimension varying fastest. -/
def tuples : List Nat → List (List Nat)
  | [] => [[]]
  | n :: ns => (tuples ns).flatMap (fun t => (List.range n).map (fun i => i :: t))

/-- Address of a row. -/
def rowAddr (t : Tensor) (idx : List Nat) : Nat := t.base + strideOffset idx (t.stride.drop 1)

/-! ### Copy descriptors (R267 to R278) -/

/-- A copy descriptor: header fields and its tensors. -/
structure CopyDesc where
  op : Nat
  red : Nat
  noAlloc : Bool
  axis : Nat
  perm : List Nat
  src : Tensor
  dst : Tensor
  idx : Tensor
deriving DecidableEq, Repr

/-- Read a copy descriptor. -/
def copyDescOf (bs : List Byte) : CopyDesc :=
  { op := fieldAt bs 4 1
    red := fieldAt bs 5 1
    noAlloc := bitOf (fieldAt bs 6 2) 0
    axis := fieldAt bs 8 1
    perm := (List.range 6).map (fun d => fieldAt bs (9 + d) 1)
    src := tensorOf (sliceBytes bs 0x40 64)
    dst := tensorOf (sliceBytes bs 0x80 64)
    idx := tensorOf (sliceBytes bs 0xC0 64) }

/-- The operation has an index tensor. -/
def hasIndex (op : Nat) : Bool := decide (2 ≤ op ∧ op ≤ 4)

/-- Bytes of a descriptor. -/
def descBytesOf (op : Nat) : Nat := if hasIndex op then 256 else 192

/-- The operation may serve an item kind: 3 COPY, 4 TEDDER, 6 STAGE (Table 9.6). -/
def opForKind (op kind : Nat) : Bool :=
  if op = 0 then decide (kind = 3 ∨ kind = 6) else if op = 1 then decide (kind = 4)
  else if op = 2 then true else if op = 3 ∨ op = 4 then decide (kind = 3 ∨ kind = 4)
  else decide (op = 5 ∧ kind = 6)

/-- A tensor lies in the pinned window, by its base. -/
def inWindow (t : Tensor) : Bool := isPinned t.base

/-- The DTYPE a reduction type needs (R272). -/
def redDtype (ty : Nat) : Nat := [1, 3, 9, 10].getD ty 0xFF

/-- Test 2 of Table 9.7: reserved values and fields, OP, RANK, AXIS, RED, index DTYPE, NO_ALLOC; a STAGE writes bays or warms
HBM lines (R268, R273). -/
def copyTest2 (kind : Nat) (bs : List Byte) : Bool :=
  let d := copyDescOf bs
  let r := d.src.rank
  decide (fieldAt bs 0 4 = 0x59504F43) && opForKind d.op kind && decide (fieldAt bs 6 2 < 2) && zeroAt bs 0x0F 49
    && (if d.op = 4 then decide (1 ≤ d.red % 16 ∧ d.red % 16 ≤ 3) && decide (d.red / 16 ≤ 3)
          && decide (d.src.dtype = redDtype (d.red / 16)) else decide (d.red = 0))
    && (if hasIndex d.op then decide (1 ≤ d.axis ∧ d.axis < r) else decide (d.axis = 0))
    && (if d.op = 1 then d.perm.drop r else d.perm).all (· = 0)
    && tensorOk (sliceBytes bs 0x40 64)
    && (if d.op = 5 then zeroAt bs 0x80 64 && !inWindow d.src
        else tensorOk (sliceBytes bs 0x80 64) && decide (d.dst.rank = r) && decide (d.dst.dtype = d.src.dtype))
    && (!hasIndex d.op || (tensorOk (sliceBytes bs 0xC0 64) && decide (d.idx.rank = 1) && decide (d.idx.dtype = 9 ∨ d.idx.dtype = 10)))
    && (!d.noAlloc || (decide (d.op ≠ 5) && !inWindow d.dst))
    && (decide (kind ≠ 6) || decide (d.op = 5) || inWindow d.dst)

/-- Elements of a slice along AXIS. -/
def sliceElems (t : Tensor) (axis : Nat) : Nat :=
  ((List.range t.rank).filter (fun d => d ≠ axis)).foldl (fun n d => n * t.ext.getD d 1) 1

/-- Test 3: R261, R262, and the whole-unit rules of R269 and R272. -/
def copyTest3 (d : CopyDesc) : Bool :=
  tensorAligned d.src && (decide (d.op = 5) || tensorAligned d.dst) && (!hasIndex d.op || tensorAligned d.idx)
    && (decide (d.op ≠ 1) || decide (d.perm.getD 0 0 = 0) || decide ((unitOf d.src.dtype).1 = 1))
    && (decide (d.op ≠ 4) || decide (d.red / 16 ≠ 1) || decide (sliceElems d.src d.axis % 2 = 0))

/-- Dimension `a` of one tensor matches dimension `b` of another. -/
def dimMatches (x y : Tensor) (a b : Nat) : Bool :=
  decide (x.ext.getD a 0 = y.ext.getD b 0 ∧ x.shard.getD a 0 = y.shard.getD b 0)

/-- PERM[0..r−1] is a permutation of 0 to r − 1 (R269). -/
def permOk (d : CopyDesc) : Bool :=
  (d.perm.take d.src.rank).all (fun p => decide (p < d.src.rank)) && decide ((d.perm.take d.src.rank).Nodup)

/-- Test 4: R263 and R269. -/
def copyTest4 (d : CopyDesc) : Bool :=
  let dims := List.range d.src.rank
  let k := d.idx.ext.getD 0 0
  let others := dims.all (fun i => decide (i = d.axis) || dimMatches d.dst d.src i i)
  shardsOk d.src && (decide (d.op = 5) || shardsOk d.dst) && (!hasIndex d.op || shardsOk d.idx)
    && (if d.op = 0 then dims.all (fun i => dimMatches d.dst d.src i i)
        else if d.op = 1 then permOk d && dims.all (fun i => dimMatches d.dst d.src i (d.perm.getD i 0))
        else if d.op = 2 then others && decide (d.dst.ext.getD d.axis 0 = k)
        else if d.op = 3 ∨ d.op = 4 then others && decide (d.src.ext.getD d.axis 0 = k)
        else true)

/-- The ranges an operation touches: first byte, bytes, access bit (Table 9.8). -/
def copyRanges (d : CopyDesc) : List (Nat × Nat × Nat) :=
  [(d.src.base, tensorSpan d.src, 0)]
    ++ (if d.op = 5 then [] else [(d.dst.base, tensorSpan d.dst, if d.op = 4 then 2 else 1)])
    ++ (if hasIndex d.op then [(d.idx.base, tensorSpan d.idx, 0)] else [])

/-- Byte ranges overlap. -/
def rangesMeet (a n b m : Nat) : Bool := decide (a < b + m ∧ b < a + n)

/-- A dense tensor (R276). -/
def dense (t : Tensor) : Bool :=
  (List.range t.rank).all (fun d =>
    decide (d = 0) || (if d = 1 then decide (t.stride.getD 1 0 = rowBytes t)
      else decide (t.stride.getD d 0 = t.ext.getD (d - 1) 0 * t.stride.getD (d - 1) 0)))

/-- Insert a (stride, extent) pair by ascending stride. -/
def insertStride (p : Nat × Nat) : List (Nat × Nat) → List (Nat × Nat)
  | [] => [p]
  | q :: qs => if p.1 ≤ q.1 then p :: q :: qs else q :: insertStride p qs

/-- The aliasing test of R276 on sorted dimensions. -/
def spansOk : List (Nat × Nat) → Nat → Bool
  | [], _ => true
  | (st, n) :: rest, span => decide (span ≤ st) && spansOk rest (st * (n - 1) + span)

/-- The destination does not alias itself. -/
def noAlias (t : Tensor) : Bool :=
  spansOk (((List.range t.rank).filter (fun d => decide (1 ≤ d) && decide (1 < t.ext.getD d 0))).foldl
    (fun l d => insertStride (t.stride.getD d 0, t.ext.getD d 0) l) []) (rowBytes t)

/-- A plain contiguous COPY. -/
def plainCopy (d : CopyDesc) : Bool := decide (d.op = 0) && dense d.src && dense d.dst

/-- Test 6: R276. -/
def copyTest6 (d : CopyDesc) : Bool :=
  if d.op = 5 then true
  else noAlias d.dst
    && (plainCopy d || !rangesMeet d.dst.base (tensorSpan d.dst) d.src.base (tensorSpan d.src))
    && (!hasIndex d.op || !rangesMeet d.dst.base (tensorSpan d.dst) d.idx.base (tensorSpan d.idx))

/-- A plain contiguous COPY whose source and destination overlap: it runs on a single engine. -/
def overlapCopy (d : CopyDesc) : Bool := plainCopy d && rangesMeet d.dst.base (tensorSpan d.dst) d.src.base (tensorSpan d.src)

/-! ### What an operation moves -/

/-- Moves of COPY and PERMUTE: source address, destination address, bytes; whole rows where dimension 0 stays, single elements
where it moves. -/
def copyMoves (d : CopyDesc) : List (Nat × Nat × Nat) :=
  let r := d.src.rank
  let p := fun k => if d.op = 1 then d.perm.getD k 0 else k
  if p 0 = 0 then
    (tuples ((d.src.ext.take r).drop 1)).map (fun idx =>
      (rowAddr d.src idx, rowAddr d.dst ((List.range (r - 1)).map (fun k => idx.getD (p (k + 1) - 1) 0)), rowBytes d.src))
  else
    let e := (unitOf d.src.dtype).2
    (tuples (d.src.ext.take r)).map (fun idx =>
      let out := (List.range r).map (fun k => idx.getD (p k) 0)
      (rowAddr d.src (idx.drop 1) + idx.getD 0 0 * e, rowAddr d.dst (out.drop 1) + out.getD 0 0 * e, e))

/-- Rows of a slice along AXIS: offsets in source and destination less that of the indexed dimension. -/
def sliceRows (d : CopyDesc) : List (Nat × Nat) :=
  let r := d.src.rank
  let exts := (List.range (r - 1)).map (fun k => if k + 1 = d.axis then 1 else d.src.ext.getD (k + 1) 1)
  (tuples exts).map (fun idx => (strideOffset idx (d.src.stride.drop 1), strideOffset idx (d.dst.stride.drop 1)))

/-- Insert a move by destination address. -/
def insertMove (m : Nat × Nat × Nat) : List (Nat × Nat × Nat) → List (Nat × Nat × Nat)
  | [] => [m]
  | x :: xs => if m.2.1 ≤ x.2.1 then m :: x :: xs else x :: insertMove m xs

/-- Moves in ascending order of destination address (R266). -/
def sortMoves (ms : List (Nat × Nat × Nat)) : List (Nat × Nat × Nat) := ms.foldr insertMove []

/-- The largest piece. -/
abbrev pieceBytes : Nat := 262144

/-- Bytes of moves. -/
def movesBytes (ms : List (Nat × Nat × Nat)) : Nat := (ms.map (·.2.2)).foldl (· + ·) 0

/-- The part of moves that lies at bytes [lo, hi) of their concatenation. -/
def cutMoves : List (Nat × Nat × Nat) → Nat → Nat → Nat → List (Nat × Nat × Nat)
  | [], _, _, _ => []
  | (a, b, n) :: rest, pos, lo, hi =>
    let s := max lo pos; let e := min hi (pos + n)
    (if s < e then [(a + (s - pos), b + (s - pos), e - s)] else []) ++ cutMoves rest (pos + n) lo hi

/-- Index entries of a piece: one or more whole slices. -/
def entriesPerPiece (d : CopyDesc) : Nat := max 1 (pieceBytes / max 1 ((sliceRows d).length * rowBytes d.src))

/-- Lines of 256 bytes of a WARM source. -/
def warmLines (d : CopyDesc) : List Nat :=
  ((tuples ((d.src.ext.take d.src.rank).drop 1)).flatMap (fun idx =>
    let a := rowAddr d.src idx
    (List.range ((a + rowBytes d.src - 1) / 256 - a / 256 + 1)).map (fun i => a / 256 + i))).foldr
    (fun la acc => if acc.contains la then acc else la :: acc) []

/-- Number of pieces of an item. -/
def pieceCount (d : CopyDesc) : Nat :=
  if hasIndex d.op then ceilDiv (d.idx.ext.getD 0 0) (entriesPerPiece d)
  else if d.op = 5 then ceilDiv ((warmLines d).length * 256) pieceBytes
  else ceilDiv (movesBytes (copyMoves d)) pieceBytes

/-! ### Boxes (R264) -/

/-- The rows of a box: for each row of the box, the address and the bytes read from the tensor, and the bytes of zeros that
follow; address none where the row lies outside the tensor. -/
def boxRows (t : Tensor) (origin extent : List Nat) : List (Option Nat × Nat × Nat) :=
  let (u, e) := unitOf t.dtype
  let n0 := extent.getD 0 0 / u * e
  let o0 := origin.getD 0 0
  let have_ := min (extent.getD 0 0) (t.ext.getD 0 0 - o0) / u * e
  (tuples ((extent.take t.rank).drop 1)).map (fun idx =>
    let at_ := (List.range (t.rank - 1)).map (fun k => origin.getD (k + 1) 0 + idx.getD k 0)
    let inside := (List.range (t.rank - 1)).all (fun k => decide (at_.getD k 0 < t.ext.getD (k + 1) 0))
    if inside && decide (have_ ≠ 0) then (some (rowAddr t at_ + o0 / u * e), have_, n0 - have_) else (none, 0, n0))

/-- Bytes of a box. -/
def boxBytes (t : Tensor) (extent : List Nat) : Nat :=
  let (u, e) := unitOf t.dtype
  ((extent.take t.rank).drop 1).foldl (· * ·) (extent.getD 0 0 / u * e)

end Sys2Proof.Machine
end

