-- ==== Sys2Proof/Machine/Copy.lean ====
section
/-! DEFINITION. Copy engines and tedders: the issue of an item, its pieces, gathers, scatters and reductions, WARM, and their faults
(09_tensors.md R265 to R282). -/

namespace Sys2Proof.Machine

/-! ### Items of a sheaf -/

/-- The sheaf of a tick that a job holds: the running one, or the one admitted for the next tick. -/
def sheafAt (j : Job) (tick : Nat) : Option Sheaf :=
  match j.sheaf with
  | some sh => if sh.tick = tick then some sh else j.next.filter (fun n => decide (n.tick = tick))
  | none => j.next.filter (fun n => decide (n.tick = tick))

/-- An item of a sheaf. -/
def itemAt (s : State) (job tick item : Nat) : Option Item :=
  (jobAt s job).bind (fun j => (sheafAt j tick).bind (fun sh => sh.items[item]?))

/-- Change an item of a sheaf. -/
def onItem (job tick item : Nat) (f : Item → Item) (s : State) : State :=
  let g := fun (o : Option Sheaf) => o.map (fun sh => if sh.tick = tick then { sh with items := sh.items.modify item f } else sh)
  s.onJob job (fun j => { j with sheaf := g j.sheaf, next := g j.next })

/-- Page-set entries of an item. -/
def itemPages (s : State) (job tick item : Nat) : List PageSet :=
  match (jobAt s job).bind (fun j => sheafAt j tick) with
  | none => []
  | some sh =>
    match sh.items[item]? with
    | some i => (sh.pagesets.drop i.psFirst).take i.psCount
    | none => []

/-! ### Runs -/

/-- The run of an item: that of the running tick's sheaf before that of the next. -/
def runOf (s : State) (job item : Nat) : Option CopyRun :=
  s.eng.runs.find? (fun r => decide (r.job = job ∧ r.item = item))

/-- It is this run. -/
def sameRun (a b : CopyRun) : Bool := decide (a.job = b.job ∧ a.tick = b.tick ∧ a.item = b.item)

/-- Tower of the engine that works on piece k: pieces of a two-tower item go to the floors in turn, those of a copy that one engine must
make to tower 0 (DESIGN CHOICE, log 34). -/
def pieceTower (r : CopyRun) (k : Nat) : Tower :=
  if r.towers = 3 then (if overlapCopy (copyDescOf r.desc) then .t0 else towerOf (k % 2)) else if r.towers = 2 then .t1 else .t0

/-- Tower of the engine whose piece is the item's next to be done. -/
def runTower (r : CopyRun) : Tower := pieceTower r r.nextPiece

/-- Holder of Table 7.5. -/
def runHolder (r : CopyRun) : Nat := if r.kind = 6 then 4 else 3

/-- A STAGE item of the sheaf of the next tick (R46, R225). -/
def runEarly (s : State) (r : CopyRun) : Bool := decide (r.kind = 6) && decide ((jobAt s r.job).map (·.tick) ≠ some r.tick)

/-- The item's source reads, which pass BULK by and are not counted, and its writes, of which those made by staging are not counted (R198,
R206). -/
def copySrc (s : State) (r : CopyRun) : Agent := Agent.past (runHolder r) (runEarly s r)
def copyDst (s : State) (r : CopyRun) : Agent :=
  { Agent.of (runHolder r) with counted := decide (r.kind ≠ 6), early := runEarly s r }

/-! ### Which engine takes which piece (R46, R265, R266) -/

/-- Kind of engine of an item, 1 for tedders, and how many of a kind a floor has (Table 9.4). -/
def engineKind (r : CopyRun) : Nat := if r.kind = 4 then 1 else 0
def engineCount (k : Nat) : Nat := if k = 1 then 4 else 32

/-- Engines of a kind on a floor that have a piece in hand. -/
def enginesBusy (s : State) (t : Tower) (k : Nat) : Nat :=
  ((s.eng.runs.filter (fun r => decide (engineKind r = k))).map (fun r =>
    (List.range (r.taken - r.nextPiece)).countP (fun i => decide (pieceTower r (r.nextPiece + i) = t)))).foldl (· + ·) 0

/-- An engine of a floor may take the item's next piece; one engine makes all of an overlapping copy (R276). -/
def mayTake (t : Tower) (k : Nat) (r : CopyRun) : Bool :=
  decide (engineKind r = k ∧ r.taken < r.pieces ∧ pieceTower r r.taken = t)
    && (!overlapCopy (copyDescOf r.desc) || decide (r.taken = r.nextPiece))

/-- The item whose piece a free engine takes: each in turn in order of start, STAGE items of the next sheaf only while no other waits. -/
def nextRun (s : State) (t : Tower) (k : Nat) : Option CopyRun :=
  let all := s.eng.runs.filter (mayTake t k)
  let now := all.filter (fun r => !runEarly s r)
  let rs := if now = [] then all else now
  (rs.find? (fun r => decide (tabGetD s.eng.lastNo (towerNum t * 2 + k) 0 < r.no))).orElse (fun _ => rs.head?)

/-- Free engines of a floor and kind take pieces. -/
def takePieces (t : Tower) (k : Nat) : Nat → State → State
  | 0, s => s
  | n + 1, s =>
    if engineCount k ≤ enginesBusy s t k then s
    else match nextRun s t k with
      | none => s
      | some r => takePieces t k n (s.onEng (fun e => { e with
          runs := e.runs.map (fun x => if sameRun x r then { x with taken := x.taken + 1 } else x)
          lastNo := tabPut e.lastNo (towerNum t * 2 + k) r.no }))

/-- Every free engine takes a piece. -/
def dealPieces (s : State) : State :=
  bothTowers.foldl (fun st t => takePieces t 1 4 (takePieces t 0 32 st)) s

/-- Copy fault detail (Table 9.11). -/
def copyDetail (s : State) (r : CopyRun) (code cause entry addr index : Nat) : List Byte :=
  leBytes code 2 ++ leBytes (towerNum (runTower r)) 1 ++ leBytes r.kind 1 ++ leBytes (copyDescOf r.desc).op 1 ++ leBytes cause 1
    ++ leBytes 0 2 ++ leBytes r.item 4 ++ leBytes entry 4 ++ leBytes addr 8 ++ leBytes index 8
    ++ leBytes ((((jobAt s r.job).map (·.tick)).getD 0) % 2 ^ 48) 8

/-- A fault at run time: the item stops with fault status and the job faults (R281). -/
def copyFault (r : CopyRun) (code cause entry addr index : Nat) (s : State) : State :=
  let s0 := match jobAt s r.job, itemAt s r.job r.tick r.item with
    | some j, some i => traceItemEnd j r.item code i s
    | _, _ => s
  let s1 := s0.onEng (fun e => { e with runs := e.runs.filter (fun x => !sameRun x r) })
  jobFault r.job code (copyDetail s r code cause entry addr index) (onItem r.job r.tick r.item (fun i => { i with st := .faulted }) s1)

/-- A range of R278 lies in the field map and in the item's page-set entries. -/
def rangeDeclared (s : State) (job : Nat) (ps : List PageSet) (x : Nat × Nat × Nat) : Bool :=
  rangeAllowed s job x.2.2 x.1 x.2.1 && declared ps x.2.2 x.1 x.2.1

/-- A COPY, TEDDER or STAGE item starts: its descriptor is read and the admission tests repeated (R35, R278). -/
def copyStart (job tick item : Nat) (i : Item) (s : State) : State :=
  let (s1, bs, pz) := fineRead 1 job i.descAddr i.descBytes s
  let d := copyDescOf bs
  let r : CopyRun :=
    { no := s.eng.nextNo + 1, job := job, tick := tick, item := item, kind := i.kind, towers := i.towers, desc := bs,
      pieces := pieceCount d, nextPiece := 0, taken := 0 }
  let bad := (copyRanges d).find? (fun x => !rangeDeclared s1 job (itemPages s1 job tick item) x)
  if pz ≠ [] then copyFault r evPoisonConsumed 4 noIndex i.descAddr 0 s1
  else match bad with
    | some x => copyFault r evCopyUndeclared 1 noIndex x.1 0 s1
    | none =>
      if copyTest2 i.kind bs && copyTest3 d && copyTest4 d && copyTest6 d then
        dealPieces (s1.onEng (fun e => { e with runs := e.runs ++ [r], nextNo := e.nextNo + 1 }))
      else copyFault r evCopyUndeclared 1 noIndex i.descAddr 0 s1

/-! ### Moving bytes -/

/-- Destination sectors that take a byte of a poisoned source sector (R244). -/
def movedPoison (src dst n : Nat) (pz : List Nat) : List Nat :=
  pz.flatMap (fun k =>
    let lo := max (k * 32) src; let hi := min (k * 32 + 32) (src + n)
    if lo < hi then (List.range ((dst + (hi - src) - 1) / 32 - (dst + (lo - src)) / 32 + 1)).map (fun i => (dst + (lo - src)) / 32 + i) else [])

/-- Note bytes a STAGE item wrote: for the next tick, or late for the running one (R48, R208). -/
def noteStaged (r : CopyRun) (a n : Nat) (s : State) : State :=
  if r.kind ≠ 6 then s
  else
    let t := homeTower s a
    let late := decide (((jobAt s r.job).map (·.tick)).getD 0 = r.tick)
    s.onLoft (fun x => { x with tw := x.tw.mod t (fun w => { w with
      stageBytes := if late then w.stageBytes + n else w.stageBytes
      stageLate := if late then w.stageLate + n else w.stageLate
      stageNext := if late then w.stageNext else w.stageNext + n
      granules := if isPinned a then (cutRange 65536 a n).foldl (fun m p =>
          tabPut m (p.1 / 65536) ((tabGetD m (p.1 / 65536) (0, r.tick)).1 + p.2, r.tick)) w.granules
        else w.granules }) })

/-- Store for an item. -/
def copyStore (r : CopyRun) (noAlloc : Bool) (a : Nat) (bs : List Byte) (pz : List Nat) (s : State) : State :=
  noteStaged r a bs.length (engineWrite (copyDst s r) r.job noAlloc a bs pz s)

/-- Move rows: every byte is read before any is written. -/
def moveRows (r : CopyRun) (noAlloc : Bool) (ms : List (Nat × Nat × Nat)) (s : State) : State :=
  let (s1, data) := ms.foldl (fun (acc : State × List (Nat × List Byte × List Nat)) m =>
    let (z, bs, pz) := engineRead (copySrc s r) r.job m.1 m.2.2 acc.1
    (z, acc.2 ++ [(m.2.1, bs, movedPoison m.1 m.2.1 m.2.2 pz)])) (s, [])
  data.foldl (fun z w => copyStore r noAlloc w.1 w.2.1 w.2.2 z) s1

/-! ### Indexed operations (R270 to R272) -/

/-- Bytes of an index entry. -/
def indexBytes (d : CopyDesc) : Nat := if d.idx.dtype = 10 then 8 else 4

/-- Address and value of index entry k. -/
def indexAddr (d : CopyDesc) (k : Nat) : Nat := d.idx.base + k * indexBytes d
def indexVal (s : State) (d : CopyDesc) (k : Nat) : Nat := leNat (viewBytes s (indexAddr d k) (indexBytes d))

/-- Element operations of a row: whole 32-bit or 64-bit words, and the last BF16 element of a row with an odd number of them. -/
def rowOps (op : RedOp) (ty : RedTy) (a : Nat) (bs : List Byte) (poisoned : Nat → Bool) : List LaneOp :=
  let n := redBytes op ty
  let put := fun (i w : Nat) (one : Bool) => (⟨0, a + i, BitVec.ofNat 64 (fieldAt bs i w), 0, poisoned i, one⟩ : LaneOp)
  (List.range (bs.length / n)).map (fun i => put (n * i) n false)
    ++ (if bs.length % n = 0 then [] else [put (bs.length / n * n) 2 true])

/-- RED operation and type of a descriptor. -/
def redOpOf (d : CopyDesc) : RedOp := if d.red % 16 = 2 then .min else if d.red % 16 = 3 then .max else .add
def redTyOf (d : CopyDesc) : RedTy := [RedTy.fp32, .bf16, .int32, .int64].getD (d.red / 16) .fp32

/-- Store a row of a colliding SCATTER entry: of each unit, that of this entry or what is there stays (R271; log 14). -/
def collideRow (r : CopyRun) (noAlloc : Bool) (unit dst : Nat) (bs : List Byte) (pz : List Nat) (s : State) : State :=
  let old := viewBytes s dst bs.length
  let oldPz := viewPoison s dst bs.length
  let wins := fun (u : Nat) => decide (Config.winner (s.freeCtr + u) % 2 = 1)
  let data := (List.range bs.length).map (fun i => if wins (i / unit) then bs.getD i 0#8 else old.getD i 0#8)
  let has := fun (w : Bool) (k : Nat) => (List.range bs.length).any (fun i => decide ((dst + i) / 32 = k) && wins (i / unit) == w)
  copyStore r noAlloc dst data (pz.filter (has true) ++ oldPz.filter (has false)) s.draw

/-- An index value is negative, as a two's complement number of the entry's bytes. -/
def indexNeg (d : CopyDesc) (v : Nat) : Bool := decide (256 ^ indexBytes d / 2 ≤ v)

/-- A gather read may allocate in FINE: an HBM page that the running sheaf declares, with no entry that lets an item write or reduce it
(Table 6.7). -/
def gatherFine (s : State) (job a : Nat) : Bool :=
  let es := (((jobAt s job).bind (·.sheaf)).map (fun sh => sh.pagesets.filter (fun e => entryHolds e (a / pageBytes * pageBytes)))).getD []
  !isPinned a && decide (es ≠ []) && es.all (fun e => decide (e.access / 2 = 0))

/-- A read of a slice's row: a gather read goes through FINE page by page where it may, else to BULK for CORE (R195, Table 7.5); any other
is a source read. -/
def sliceRead (r : CopyRun) (gather : Bool) (a n : Nat) (s : State) : State × List Byte × List Nat :=
  if gather then
    (cutRange pageBytes a n).foldl (fun acc p =>
      let (z, bs, pz) := if gatherFine acc.1 r.job p.1 then fineRead 3 r.job p.1 p.2 acc.1 else engineRead Agent.core r.job p.1 p.2 acc.1
      (z, acc.2.1 ++ bs, acc.2.2 ++ pz)) (s, [], [])
  else engineRead (copySrc s r) r.job a n s

/-- One index entry of GATHER, SCATTER or SCATTER_RED; answers false where the item has faulted. A negative index is reported with its
sign (DEDUCED, log 34). -/
def indexEntry (r : CopyRun) (d : CopyDesc) (k : Nat) (s : State) : State × Bool :=
  let (s1, bs, pz) := engineRead (copySrc s r) r.job (indexAddr d k) (indexBytes d) s
  let v := leNat bs
  let null := decide (v = 256 ^ indexBytes d - 1)
  let lim := if d.op = 2 then d.src.ext.getD d.axis 0 else d.dst.ext.getD d.axis 0
  if pz ≠ [] then (copyFault r evPoisonConsumed 3 k (indexAddr d k) 0 s1, false)
  else if !null && (indexNeg d v || decide (lim ≤ v)) then
    (copyFault r evFieldViolation 2 k (indexAddr d k) (if indexNeg d v then v + 2 ^ 64 - 256 ^ indexBytes d else v) s1, false)
  else
    let si := if d.op = 2 then v else k
    let di := if d.op = 2 then k else v
    let rows := (sliceRows d).map (fun o =>
      (d.src.base + o.1 + si * d.src.stride.getD d.axis 0, d.dst.base + o.2 + di * d.dst.stride.getD d.axis 0))
    let n := rowBytes d.src
    let u := (unitOf d.src.dtype).2
    let clash := decide (d.op = 3) && (List.range k).any (fun j => decide (indexVal s1 d j = v))
    if null then
      (if d.op = 2 then rows.foldl (fun z p => copyStore r d.noAlloc p.2 (List.replicate n 0#8) [] z) s1 else s1, true)
    else
      (rows.foldl (fun z p =>
        let (z1, data, rp) := sliceRead r (decide (d.op = 2)) p.1 n z
        let moved := movedPoison p.1 p.2 n rp
        if d.op = 4 then
          engineReduce (copyDst z1 r) r.job d.noAlloc (redOpOf d) (redTyOf d)
            (rowOps (redOpOf d) (redTyOf d) p.2 data (fun i => rp.contains ((p.1 + i) / 32))) z1
        else if clash then collideRow r d.noAlloc u p.2 data moved z1
        else copyStore r d.noAlloc p.2 data moved z1) s1, true)

/-- Entries of a piece in order, stopping at a fault. -/
def indexEntries (r : CopyRun) (d : CopyDesc) : List Nat → State → State × Bool
  | [], s => (s, true)
  | k :: ks, s =>
    match indexEntry r d k s with
    | (s1, true) => indexEntries r d ks s1
    | (s1, false) => (s1, false)

/-! ### WARM (R273) -/

/-- Warm one line: a present line is marked; else it is filled whole, with the mark (R194, R208). -/
def warmLine (r : CopyRun) (la : Nat) (s : State) : State :=
  let s1 := if (tabGet s.loft.bulk la).isSome then s
    else (engineRead { copyDst s r with staged := true } r.job (la * 256) 256 s).1
  noteStaged r (la * 256) 256 (s1.onLoft (fun x => { x with bulk := tabMod x.bulk la (fun l => { l with staged := true }) }))

/-! ### Pieces (R266, R276) -/

/-- Number of a piece in address order: an overlapping plain copy toward higher addresses goes downward. -/
def pieceNumber (r : CopyRun) (d : CopyDesc) : Nat :=
  if overlapCopy d && decide (d.src.base < d.dst.base) then
    r.pieces - 1 - r.nextPiece
  else r.nextPiece

/-- Counters of the engine's tower (Table 16.6): COPY_BYTES, COPY_PIECES, TEDDER_BYTES, INDEX_ENTRIES. -/
def countPiece (r : CopyRun) (bytes entries : Nat) (s : State) : State :=
  let b := towerNum (runTower r) * 4
  let s1 := if r.kind = 4 then ctrAdd 6 (b + 2) bytes s else ctrAdd 6 b bytes (ctrAdd 6 (b + 1) 1 s)
  ctrAdd 6 (b + 3) entries s1

/-- Record a piece as done. -/
def pieceDone (r : CopyRun) (s : State) : State :=
  s.onEng (fun e => { e with runs := e.runs.map (fun x => if sameRun x r then { x with nextPiece := x.nextPiece + 1 } else x) })

/-- The piece of a run that is next to be done moves its bytes. -/
def movePiece (r : CopyRun) (s : State) : State :=
  let d := copyDescOf r.desc
  let p := pieceNumber r d
  if d.op = 5 then
    let ls := ((warmLines d).drop (p * 1024)).take 1024
    pieceDone r (countPiece r (ls.length * 256) 0 (ls.foldl (fun z la => warmLine r la z) s))
  else if hasIndex d.op then
    let e := entriesPerPiece d
    let ks := (List.range (min e (d.idx.ext.getD 0 0 - p * e))).map (fun i => p * e + i)
    let (s1, ok) := indexEntries r d ks s
    if ok then pieceDone r (countPiece r (ks.length * ((sliceRows d).length * rowBytes d.src)) ks.length s1) else s1
  else
    let ms := cutMoves (sortMoves (copyMoves d)) 0 (p * pieceBytes) ((p + 1) * pieceBytes)
    pieceDone r (countPiece r (movesBytes ms) 0 (moveRows r d.noAlloc ms s))

/-- COPY_PIECE_DONE: the next of the item's pieces that engines have taken is done, and free engines take more. -/
def copyPieceDone (job item : Nat) (s0 : State) : State :=
  let s := dealPieces s0
  match s.eng.runs.find? (fun r => decide (r.job = job ∧ r.item = item ∧ r.nextPiece < r.taken)) with
  | none => s0
  | some r => dealPieces (movePiece r s)

def execCopyPieceDone (job item : Nat) (s : State) : Host.Outcome State Fault Refusal := .next (copyPieceDone job item s)

/-- A write or reduction of a job that engines have asked for is not yet visible. -/
def engineWrites (s : State) (job : Nat) : Bool :=
  bothTowers.any (fun t =>
      let w := s.loft.tw.get t
      let rs := w.arrivals ++ w.reducing ++ w.hold.flatMap (·.2) ++ w.miss.flatMap (fun e => e.2.flatMap (·.waiters))
      rs.any (fun r => decide (r.job = job ∧ r.core = none) && match r.kind with
        | .store _ _ => true
        | .reduce _ _ _ _ => true
        | _ => false))
    || s.hbm.chans.any (fun c => (c.2.input ++ c.2.queue ++ c.2.side).any (fun r => match r.src with
        | .adder _ _ j _ _ => decide (j = job ∧ (r.holder = 3 ∨ r.holder = 4))
        | _ => false))

/-- The run of an item that has moved all its pieces, its writes visible (R266). -/
def copyFinished (s : State) (job item : Nat) : Option CopyRun :=
  s.eng.runs.find? (fun r => decide (r.job = job ∧ r.item = item ∧ r.pieces ≤ r.nextPiece) && !engineWrites s job)

end Sys2Proof.Machine
end

