-- ==== Sys2Proof/Machine/Fabric.lean ====
section
/-! DEFINITION. The fabric's sending side: routes, contexts, transfers, acknowledgement,
retransmission, WAITING, rates, the commit of a tick and the loss of a twin (10_fabric.md R283 to R313, 11_twins.md R340, R341). -/

namespace Sys2Proof.Machine

/-! ### Routes (R293, R298 to R300) -/

/-- Live choices of a route entry: egress and remote port. -/
def liveChoices (s : State) (r : Route) : List (Nat × Nat) := ((r.egress.zip r.remote).take r.count).filter (fun e => portUp s e.1)

/-- The choice that packets to a device with a hash take; none where the entry is invalid or has no live choice. -/
def routeChoice (s : State) (dst h : Nat) : Option (Nat × Nat) :=
  match tabGet s.fab.routes dst with
  | none => none
  | some r =>
    let live := liveChoices s r
    if r.valid = false then none else if r.spray then live[h % live.length]? else live.head?

/-- The egress of packets to a device with a hash. -/
def egressFor (s : State) (dst h : Nat) : Option Nat := (routeChoice s dst h).map (·.1)

/-- The egress of a context's packets. -/
def ctxEgress (s : State) (n : Nat) (c : Ctx) : Option Nat :=
  egressFor s c.peerDev (ctxHash (devField s) n c.peerDev c.peerCtx)

/-- Payload rate of a context's egress, 1 GB/s where it has none (DESIGN CHOICE, log 35). -/
def ctxRate (s : State) (n : Nat) (c : Ctx) : Nat := match ctxEgress s n c with
  | some l => payloadRate s.fab.cfg l
  | none => 1000000000

/-- Port number of the device's own endpoints in Out.packet: a packet to this device itself comes back as an arrival. -/
abbrev selfPort : Nat := 255

/-- Send a packet of this device: to itself, or on its route in its frame; dropped where there is none, and counted at the first port the
route names (R292, R298; DESIGN CHOICE, log 35). -/
def netSend (p : Pkt) (s : State) : State :=
  if some p.dst = s.fab.devId then
    s.emit (.packet selfPort (dress s selfPort (macOf p.dst selfPort) (ip6Of s.fab.cfg p.dst selfPort) p))
  else match routeChoice s p.dst (pktHash p) with
    | some (l, remote) => egressSend l (dress s l (nextMac s l remote p.dst) (ip6Of s.fab.cfg p.dst remote) p) s
    | none => ctrFab (((tabGet s.fab.routes p.dst).bind (fun r => r.egress.head?)).getD 0) 9 1 s

/-! ### Contexts (R301 to R308) -/

/-- Change a context. -/
def onCtx (n : Nat) (f : Ctx → Ctx) (s : State) : State := s.onFab (fun x => { x with ctxs := tabMod x.ctxs n f })

/-- 32-bit PSN arithmetic. -/
def psnAdd (a n : Nat) : Nat := (a + n) % 2 ^ 32

/-- How far `b` is above `a` modulo 2^32. -/
def psnDiff (a b : Nat) : Nat := (b + 2 ^ 32 - a % 2 ^ 32) % 2 ^ 32

/-- RTO (R304). -/
def rtoOf (srtt : Nat) : Nat := max 20000 (2 * srtt + 8000)

/-- A context as it opens (R302, R304, R308). -/
def Ctx.fresh (owner : Nat) (mirror : Bool) (t : Tower) (peerDev peerCtx access tc rate now : Nat) : Ctx :=
  { state := .openS, owner := owner, mirror := mirror, tower := t, peerDev := peerDev, peerCtx := peerCtx, access := access,
    tc := tc, sndNxt := 0, sndUna := 0, rcvNxt := 0, rate := rate, srttNs := 10000, retries := 0, rtoNs := rtoOf 10000,
    timerNs := now, queue := [], unacked := [], unackedRx := 0, ackDueNs := none, nackNs := none, cnpNs := none, cutNs := none,
    recoverNs := now + 16000, waitNs := 0, waitResendNs := 0, sendNs := now, replies := [] }

/-- Open a context. -/
def openCtx (n owner : Nat) (mirror : Bool) (t : Tower) (peerDev peerCtx access tc : Nat) (s : State) : State :=
  let c := Ctx.fresh owner mirror t peerDev peerCtx access tc 0 s.nowNs
  s.onFab (fun x => { x with ctxs := tabPut x.ctxs n { c with rate := ctxRate s n c } })

/-- R313: a job's open contexts return to PSN 0 and OPEN. -/
def restartCtxs (job : Nat) (s : State) : State :=
  s.onFab (fun x => { x with ctxs := x.ctxs.map (fun e =>
    if e.2.owner = job ∧ e.2.mirror = false then
      (e.1, { Ctx.fresh job false e.2.tower e.2.peerDev e.2.peerCtx e.2.access e.2.tc (ctxRate s e.1 e.2) s.nowNs with
        sendNs := s.nowNs })
    else e) })

/-- The towers under a partition reset (R312). -/
def underReset (s : State) (t : Tower) : Bool := match s.boot.part with
  | some r => (towersOfPartition r.partition).contains t
  | none => false

/-- The tower whose mirror context a number is. -/
def mirrorTower (s : State) (n : Nat) : Option Tower :=
  match tabGet s.fab.ctxs n with
  | some c => if c.mirror then some c.tower else none
  | none => none

/-- The PSN a context acknowledges up to: a mirror packet that completed a record not yet applied is not acknowledged
(R303, R338). -/
def ackablePsn (s : State) (c : Ctx) : Nat :=
  if c.mirror then ((s.twin.get c.tower).rxHeld).getD c.rcvNxt else c.rcvNxt

/-- Class of a context's data packets: mirror contexts use class 1 in COMMIT (R296). -/
def ctxClass (s : State) (c : Ctx) : Nat :=
  if c.mirror then (match jobOfTower s c.tower with
    | some j => if j.phase = .commit then 1 else 0
    | none => 0)
  else c.tc

/-- A packet of a context. -/
def ctxPkt (s : State) (n : Nat) (c : Ctx) (op psn : Nat) : Pkt :=
  { Pkt.blank with
    op := op, tc := if 6 ≤ op then 2 else ctxClass s c, dst := c.peerDev, src := devField s, dstCtx := c.peerCtx, srcCtx := n, psn := psn
    ackPsn := ackablePsn s c }

/-- Send ACK: everything accepted and applied is acknowledged (R303). -/
def sendAck (n : Nat) (s : State) : State :=
  match tabGet s.fab.ctxs n with
  | none => s
  | some c => netSend (ctxPkt s n c 6 0) (onCtx n (fun x => { x with unackedRx := 0, ackDueNs := none }) s)

/-- Send NACK of a cause for a context number, which may be FREE, to the device and context that sent a packet. -/
def sendNack (n dst dstCtx cause ackPsn : Nat) (s : State) : State :=
  netSend { Pkt.blank with
    op := 7, tc := 2, dst := dst, src := devField s, dstCtx := dstCtx, srcCtx := n, ackPsn := ackPsn, addr := cause } s

/-- Trace of a reliable packet with ACK_REQ or a SIGNAL, sent (5) or received (6) (R469). -/
def traceFabric (type n port : Nat) (c : Ctx) (p : Pkt) (s : State) : State :=
  if p.ackReq ∨ p.op = 3 then
    traceRec 3 c.tower type (if c.mirror then 0 else c.owner) (tickOf s c.tower)
      (leBytes c.peerDev 2 ++ leBytes n 2 ++ leBytes c.peerCtx 2 ++ leBytes p.op 1 ++ leBytes port 1 ++ leBytes p.psn 4
        ++ leBytes p.payload.length 2) s
  else s

/-- A read at the floor: in REST it bypasses BULK (R394). -/
def floorRead (g : Agent) (job a n : Nat) (s : State) : State × List Byte × List Nat :=
  if s.gate.pwr = .rest ∧ isPinned a = false then
    (cutRange 64 a n).foldl (fun acc p =>
      let (s1, bs, pz) := hbmReadNow g job p.1 acc.1
      (s1, acc.2.1 ++ sliceBytes bs (p.1 % 64) p.2, acc.2.2 ++ pz.filter (fun k => decide (p.1 < (k + 1) * 32 ∧ k * 32 < p.1 + p.2)))) (s, [], [])
  else engineRead g job a n s

/-- A write at the floor: in REST it bypasses BULK (R394). -/
def floorWrite (g : Agent) (job a : Nat) (bs : List Byte) (pz : List Nat) (s : State) : State :=
  if s.gate.pwr = .rest ∧ isPinned a = false then hbmDirect g a bs pz s
  else engineWrite g job false a bs pz (fineInvalidate a bs.length s)

/-- Where the record of a context lies in the MC firmware region (R301). -/
def ctxAddr (s : State) (n : Nat) : Nat := (mcRegion s.hbm.globalHoming).base + Config.ctxBlock n % 2 ^ 24 * 64

/-- A floor's transport needs the record of a context: one that its cache of 2,048 does not hold is fetched through the
fabric-descriptor class of FINE, which REST bypasses, and takes the place of one that the manual does not name (R301, R394). A
poisoned record faults the context's job, or its tower's (R244). -/
def fetchCtx (n : Nat) (t : Tower) (s : State) : State :=
  if (s.fab.ctxCache.get t).contains n then s
  else
    let a := ctxAddr s n
    let (s1, _, pz) := if s.gate.pwr = .rest then floorRead (Agent.of 5) 0 a 64 s else fineRead 2 0 a 64 s
    let s2 := s1.draw.onFab (fun x => { x with ctxCache := x.ctxCache.mod t (fun l =>
      (if l.length < 2048 then l else l.eraseIdx (Config.winner s1.freeCtr % 2048)) ++ [n]) })
    match pz with
    | [] => s2
    | _ =>
      let owner := match tabGet s.fab.ctxs n, jobOfTower s t with
        | some c, some j => if c.mirror then j.id else c.owner
        | some c, none => c.owner
        | none, _ => 0
      jobFault owner evPoisonConsumed (issueDetail evPoisonConsumed noIndex) s2

/-- Send the next reliable packet of a context (R302, R307, R308): it waits to be acknowledged, carries ACK_PSN, and the next one
waits for its time at RATE. -/
def sendReliable (n : Nat) (p : Pkt) (s0 : State) : State :=
  match tabGet s0.fab.ctxs n with
  | none => s0
  | some c =>
    let s := fetchCtx n c.tower s0
    traceFabric 5 n ((ctxEgress s n c).getD 0xFF) c p <| netSend p (onCtx n (fun x => { x with
      sndNxt := psnAdd x.sndNxt 1
      unacked := x.unacked ++ [{ pkt := p, sentNs := s.nowNs, resent := false }]
      timerNs := if x.unacked = [] then s.nowNs else x.timerNs
      sendNs := s.nowNs + ceilDiv (p.payload.length * 1000000000) c.rate
      unackedRx := 0
      ackDueNs := none }) s)

/-- Resend packets of a context with RETX. -/
def resend (n : Nat) (keep : Nat) (s : State) : State :=
  match tabGet s.fab.ctxs n with
  | none => s
  | some c =>
    (c.unacked.take keep).foldl (fun st u =>
      let p := { u.pkt with retx := true, ackPsn := ackablePsn s c, tc := ctxClass s c }
      let l := (ctxEgress st n c).getD 0
      ctrFab l 3 1 (netSend p st))
      (onCtx n (fun x => { x with
        unacked := x.unacked.mapIdx (fun i u => if i < keep then { u with resent := true } else u) }) s)

/-! ### Fabric events (R328) -/

/-- Fabric event detail (Table 10.20). -/
def fabricDetail (s : State) (code : Nat) (t : Tower) (port cause job ctx peerDev peerCtx psn : Nat) : List Byte :=
  leBytes code 2 ++ leBytes (towerNum t) 1 ++ leBytes port 1 ++ leBytes cause 2 ++ leBytes job 2 ++ leBytes ctx 2
    ++ leBytes peerDev 2 ++ leBytes peerCtx 2 ++ leBytes 0 2 ++ leBytes psn 4 ++ leBytes 0 4 ++ leBytes (tickOf s t % 2 ^ 48) 8

/-- Detail about a context. -/
def ctxDetail (s : State) (n : Nat) (c : Ctx) (code cause psn : Nat) : List Byte :=
  fabricDetail s code c.tower ((ctxEgress s n c).getD 0xFF) cause (if c.mirror then 0 else c.owner) n c.peerDev c.peerCtx psn

/-! ### The loss of a twin (R341, R350) -/

/-- MIRROR_TICK as reported: all ones without HOLDING (R343). -/
def mirrorTickField (w : Twin) : Nat := if w.holding then w.mirrorTick.getD (2 ^ 64 - 1) else 2 ^ 64 - 1

/-- TWIN_LOST detail (Table 11.11). -/
def twinDetail (s : State) (t : Tower) (cause : Nat) : List Byte :=
  let w := s.twin.get t
  leBytes evTwinLost 2 ++ leBytes (towerNum t) 1 ++ leBytes cause 1 ++ leBytes w.twinDev 2 ++ leBytes w.job 2
    ++ leBytes (w.committed.getD (2 ^ 64 - 1)) 8 ++ leBytes (mirrorTickField w) 8 ++ leBytes (tickOf s t % 2 ^ 48) 8

/-- A twin with nothing left to send and no stream half received. -/
def Twin.quiet (w : Twin) : Twin :=
  { w with rxBuf := [], rxBytes := 0, rxCrc := 0xFFFFFFFF, rxHeld := none, txQueue := [], txAcks := [], txRec := none, txPending := none,
           seedEnded := false, seedFull := false, isProtected := false }

/-- Close the mirror context of a tower, discarding what it has not sent. -/
def closeMirror (t : Tower) (s : State) : State :=
  let w := s.twin.get t
  let mine := match tabGet s.fab.ctxs w.ctx with
    | some c => c.mirror && decide (c.tower = t)
    | none => false
  (if mine then s.onFab (fun x => { x with ctxs := tabDel x.ctxs w.ctx }) else s).onTwin (fun p => p.mod t Twin.quiet)

/-- Add to a ring of 16. -/
def ringAdd (c : CommitRec) (r : List CommitRec) : List CommitRec := (r ++ [c]).drop (r.length + 1 - 16)

/-- A tower has committed a tick: its record enters the ring; the job's tick reports STATE 4 once every tower has (R340). A tick that ran
empty goes on to report STATE 6, as R41 says of it (DEDUCED, log 64). -/
def commitTick (t : Tower) (j : Job) (tick bytes : Nat) (c : CommitRec) (s : State) : State :=
  let s1 := s.onTwin (fun p => p.mod t (fun w => { w with
    ringTx := ringAdd c w.ringTx
    committed := some tick
    txPending := none
    lastStreamBytes := bytes
    lastCommitUs := (s.nowNs - w.settleEndNs) / 1000 }))
  if (towersOfPartition j.partition).all (fun u => decide ((s1.twin.get u).committed = some tick)) then
    s1.onJob j.id (onRec tick (fun r => { r with state := if r.state = 5 ∨ r.state = 6 then r.state else 4 }))
  else s1

/-- The tick's record says that it faulted. -/
def tickFaulted (j : Job) (tick : Nat) : Bool := j.records.any (fun r => decide (r.tick = tick ∧ r.state = 5))

/-- The commit record of a tick whose stream is under way. -/
def pendingRecord (tick : Nat) (w : Twin) : Option CommitRec :=
  (w.txRec.filter (fun c => decide (c.tick = tick))).orElse (fun _ => (w.txQueue.flatMap (·.recs)).findSome? (fun r => match r with
    | .commit c => if c.tick = tick then some c else none
    | .data .. => none
    | .hello .. => none))

/-- The tick that waited for a lost twin's ACK commits locally: now, or at the end of its COMMIT where that still runs (R340, R341;
DEDUCED, log 37). `w` is the tower's record before the loss. -/
def commitLost (t : Tower) (w : Twin) (s : State) : State :=
  match w.txPending.bind (fun n => pendingRecord n w), jobOfTower s t with
  | some c, some j =>
    if tickFaulted j c.tick ∨ (j.phase = .commit ∧ j.tick = c.tick) then s
    else commitTick t j c.tick (if c.streamBytes = 0 then 0 else c.streamBytes + 72) { c with flags := c.flags ||| 4 } s
  | _, _ => s

/-- End a restore or seed of a tower with a status (R346). -/
def restoreEnd (t : Tower) (status : Nat) (s : State) : State :=
  match (s.twin.get t).restore with
  | none => s
  | some r =>
    let s1 := s.onTwin (fun p => ⟨if p.t0.restore.map (·.mb) = some r.mb then { p.t0 with restore := none } else p.t0,
                                  if p.t1.restore.map (·.mb) = some r.mb then { p.t1 with restore := none } else p.t1⟩)
    match startedCmd s1 r.mb 0x0502 with
    | some c => complete c status [] s1
    | none => s1

/-- Queue the HELLO of a tower (R330, R337). Its OFFSET8 carries TOWERS in bits [1:0] and RECOVER in bit 2, for which Table 11.4 has no
field (DESIGN CHOICE, log 37). -/
def queueHello (t : Tower) (s : State) : State :=
  let w := s.twin.get t
  let rec_ : TxRec := .hello (w.bindTowers + (if w.recover then 4 else 0))
    [(s.hbm.cellar.get t).bytes, (s.hbm.mirror.get t).bytes, w.committed.getD (2 ^ 64 - 1), mirrorTickField w]
  s.onTwin (fun p => p.mod t (fun x => { x with
    helloSeen := false, helloAcked := false
    txQueue := x.txQueue ++ [{ kind := .hello, recs := [rec_], buf := [], made := 0, crc := 0xFFFFFFFF, sent := 0 }] }))

/-- Open the mirror context of a tower being bound and queue its HELLO. -/
def openMirror (t : Tower) (s : State) : State :=
  let w := s.twin.get t
  queueHello t (openCtx w.ctx 0 true t w.twinDev w.peerCtx 0 0 s)

/-- End a TWIN.BIND in progress with a status: the towers it names go back to OFF or LOST (R330, R342). -/
def bindFail (mb status : Nat) (s : State) : State :=
  let back := fun (w : Twin) => if w.bindMb = some mb then
      { w with bindMb := none, state := if w.wasLost then .lost else .off, helloSeen := false } else w
  let ts := bothTowers.filter (fun t => (s.twin.get t).bindMb = some mb)
  let s1 := ts.foldl (fun st t => closeMirror t st) s
  let s2 := s1.onTwin (fun p => ⟨back p.t0, back p.t1⟩)
  match startedCmd s2 mb 0x0500 with
  | some c => complete c status [] s2
  | none => s2

/-- A bound tower loses its twin: it posts TWIN_LOST, closes its mirror context and commits locally from then on. A binding still
waiting for HELLO opens its context anew when that enters ERROR, since R330 gives it 10 s (DEDUCED, log 37), and fails on NACK cause
4. -/
def twinLost (t : Tower) (cause : Nat) (s : State) : State :=
  let w := s.twin.get t
  match w.bindMb with
  | some mb =>
    if cause = 1 then openMirror t (closeMirror t s)
    else bindFail mb stTwinLost (postNotice evTwinLost w.job (twinDetail s t 4) s)
  | none =>
    if w.state = .bound ∨ w.state = .recovering then
      let s1 := postNotice evTwinLost w.job (twinDetail s t cause) s
      commitLost t w (restoreEnd t stTwinLost ((closeMirror t s1).onTwin (fun p => p.mod t (fun x => { x with
        state := .lost, lostCause := cause }))))
    else s

/-! ### Acknowledgement, retransmission, WAITING (R304, R305) -/

/-- A context enters ERROR: its owner's job faults, or its tower loses its twin. -/
def ctxError (n code cause psn : Nat) (s : State) : State :=
  match tabGet s.fab.ctxs n with
  | none => s
  | some c =>
    let s1 := onCtx n (fun x => { x with state := .error }) s
    if c.mirror then twinLost c.tower (if code = evFieldViolation then 3 else 1) s1
    else jobFault c.owner code (ctxDetail s n c code cause psn) s1

/-- A cut of RATE: the next rise comes 16 µs later; never below 1 GB/s (R308). -/
def cutRate (now rate : Nat) (c : Ctx) : Ctx := { c with rate := max rate 1000000000, recoverNs := now + 16000 }

/-- CNP: RATE × 7 ÷ 8, at most once per 8 µs. -/
def applyCnp (n : Nat) (s : State) : State :=
  onCtx n (fun c =>
    let due := match c.cutNs with
      | some k => decide (k + 8000 ≤ s.nowNs)
      | none => true
    if due then { cutRate s.nowNs (c.rate * 7 / 8) c with cutNs := some s.nowNs } else c) s

/-- RATE_RECOVERY: 16 µs have passed without a cut, and RATE goes an eighth of the way to its port's. -/
def rateRecovery (n : Nat) (s : State) : State :=
  match tabGet s.fab.ctxs n with
  | none => s
  | some c =>
    let s1 := s.timeTo c.recoverNs
    onCtx n (fun x => { x with
      rate := (7 * x.rate + ctxRate s n c) / 8
      recoverNs := x.recoverNs + 16000 }) s1

def execRateRecovery (ctx : Nat) (s : State) : Host.Outcome State Fault Refusal := .next (rateRecovery ctx s)

/-- A context's record after an ACK_PSN: what it covers is no longer held, the timer restarts, and an ACK of a packet that was not
resent gives a sample of SRTT. -/
def ackCtx (now ackPsn : Nat) (c : Ctx) : Ctx :=
  let k := psnDiff c.sndUna ackPsn
  if k = 0 ∨ c.unacked.length < k then c
  else
    let c1 := match c.unacked[k - 1]? with
      | some u => if u.resent then c else
          { c with srttNs := ((c.srttNs : Int) + (((now - u.sentNs : Nat) : Int) - (c.srttNs : Int)) / 8).toNat }
      | none => c
    { c1 with unacked := c.unacked.drop k, sndUna := ackPsn % 2 ^ 32, retries := 0, rtoNs := rtoOf c1.srttNs, timerNs := now }

/-- RETRANSMIT_TIMEOUT: the RTO expires; at the tenth timeout running the context enters ERROR. -/
def retransmitTimeout (n : Nat) (s : State) : State :=
  match tabGet s.fab.ctxs n with
  | none => s
  | some c =>
    if c.state ≠ .openS ∨ c.unacked = [] ∨ underReset s c.tower then s
    else
      let s1 := s.timeTo (c.timerNs + c.rtoNs)
      let s2 := onCtx n (fun x => { cutRate s1.nowNs (x.rate / 2) x with
        retries := x.retries + 1, rtoNs := min 2000000 (2 * x.rtoNs), timerNs := s1.nowNs }) s1
      if c.retries + 1 = 10 then ctxError n evContextTimeout 1 c.sndUna s2 else resend n c.unacked.length s2

def execRetransmitTimeout (ctx : Nat) (s : State) : Host.Outcome State Fault Refusal := .next (retransmitTimeout ctx s)

/-- A direction enters WAITING on NACK cause 2 or 3; cause 2 posts PARTITION_RESETTING once for the entry. -/
def enterWaiting (n cause : Nat) (s : State) : State :=
  match tabGet s.fab.ctxs n with
  | none => s
  | some c =>
    if c.state ≠ .openS then s
    else
      let s1 := onCtx n (fun x => { x with state := .waiting, waitNs := s.nowNs, waitResendNs := s.nowNs + 200000 }) s
      if cause = 2 then postNotice evPartitionResetting (if c.mirror then 0 else c.owner)
        (ctxDetail s n c evPartitionResetting 0 c.sndUna) s1
      else s1

/-- WAITING_RESEND: the oldest unacknowledged packet goes out again every 200 µs. -/
def waitingResend (n : Nat) (s : State) : State :=
  match tabGet s.fab.ctxs n with
  | none => s
  | some c =>
    if c.state ≠ .waiting ∨ underReset s c.tower then s
    else
      let s1 := s.timeTo c.waitResendNs
      resend n 1 (onCtx n (fun x => { x with waitResendNs := x.waitResendNs + 200000 }) s1)

def execWaitingResend (ctx : Nat) (s : State) : Host.Outcome State Fault Refusal := .next (waitingResend ctx s)

/-- WAITING_LIMIT: 2 s in WAITING. -/
def waitingLimit (n : Nat) (s : State) : State :=
  match tabGet s.fab.ctxs n with
  | none => s
  | some c =>
    if c.state ≠ .waiting then s else ctxError n evContextTimeout 2 c.sndUna (s.timeTo (c.waitNs + 2000000000))

def execWaitingLimit (ctx : Nat) (s : State) : Host.Outcome State Fault Refusal := .next (waitingLimit ctx s)

/-- ACK_DELAY_TIMER: 2 µs after the oldest accepted packet that is not yet acknowledged; a record still to be applied keeps its
packet's ACK back. Nothing is sent while the tower is under reset (R312). -/
def ackDelayTimer (n : Nat) (s : State) : State :=
  match tabGet s.fab.ctxs n with
  | none => s
  | some c =>
    match c.ackDueNs with
    | none => s
    | some k => if underReset s c.tower then s else sendAck n (s.timeTo k)

def execAckDelayTimer (ctx : Nat) (s : State) : Host.Outcome State Fault Refusal := .next (ackDelayTimer ctx s)

/-! ### Transfers (R311, R318) -/

/-- Reduction operation and type codes (Table 5.10). -/
def redOpCode (n : Nat) : RedOp := if n = 2 then .min else if n = 3 then .max else .add
def redTyCode (n : Nat) : RedTy := [RedTy.fp32, .bf16, .int32, .int64].getD n .fp32

/-- Sectors of a payload read at an address that hold a poisoned byte, numbered within it. -/
def payloadPoison (a n : Nat) (pz : List Nat) : List Nat :=
  (List.range (ceilDiv n 32)).filter (fun i => pz.any (fun k => decide (a + 32 * i < (k + 1) * 32 ∧ k * 32 < a + min n (32 * i + 32))))

/-- The number of packets a transfer takes. -/
def xferPackets (p : Nat) : Xfer → Nat
  | .put _ _ _ bytes _ _ _ => ceilDiv bytes p
  | .reply _ bs _ => ceilDiv bs.length p
  | .signal _ _ => 1
  | .get _ _ _ => 1

/-- PSN after the last packet of everything queued on a context. -/
def psnAfterQueue (s : State) (c : Ctx) : Nat :=
  psnAdd c.sndNxt ((c.queue.map (xferPackets (payloadSize s.fab.cfg))).foldl (· + ·) 0)

/-- The next packet of a transfer: address, operation codes, payload, poisoned sectors, LAST, and the transfer left. -/
def nextPacket (s : State) (job : Nat) (x : Xfer) : State × (Nat × Nat × Nat × Nat × Bool) × List Byte × List Nat × Option Xfer :=
  let p := payloadSize s.fab.cfg
  match x with
  | .put add la ra bytes op ty na =>
    let k := min p bytes
    let (s1, bs, pz) := floorRead (Agent.of 3) job la k s
    (s1, (if add then 2 else 1, ra, op, ty, na), bs, payloadPoison la k pz,
      if bytes ≤ p then none else some (.put add (la + k) (ra + k) (bytes - k) op ty na))
  | .reply ra bs pz =>
    (s, (5, ra, 0, 0, false), bs.take p, pz.filter (fun i => decide (i < p / 32)),
      if bs.length ≤ p then none else some (.reply (ra + p) (bs.drop p) ((pz.filter (fun i => decide (p / 32 ≤ i))).map (fun i => i - p / 32))))
  | .signal ra v => (s, (3, ra, 0, 0, false), leBytes v 8, [], none)
  | .get la ra bytes => (s, (4, ra, 0, 0, false), leBytes bytes 4 ++ leBytes 0 4 ++ leBytes la 8, [], none)

/-- Whether a context may send a new packet now: OPEN, fewer than 512 unacknowledged, its class not paused at the egress, its tower not
under reset (R302, R305, R309, R312). -/
def maySend (s : State) (n : Nat) (c : Ctx) : Bool :=
  decide (c.state = .openS ∧ c.unacked.length < 512) && s.fab.devId.isSome && !underReset s c.tower
    && match ctxEgress s n c with
      | some l => !((tabGet s.fab.ports l).map (fun p => bitOf p.paused (ctxClass s c))).getD false
      | none => true

/-- FABRIC_SEND on a job's context: the next packet of its first transfer, read now, when RATE allows it. -/
def sendTransfer (n : Nat) (s : State) : State :=
  match tabGet s.fab.ctxs n with
  | none => s
  | some c =>
    match c.queue with
    | [] => s
    | x :: rest =>
      if c.mirror || !maySend s n c then s
      else
        let s0 := s.timeTo c.sendNs
        let (s1, (op, addr, ro, rt, na), bs, pz, left) := nextPacket s0 c.owner x
        let p := { ctxPkt s1 n c op c.sndNxt with
          addr := addr, redOp := ro, redTy := rt, noAlloc := na, payload := bs, poison := pz,
          last := left.isNone, ackReq := left.isNone }
        sendReliable n p (onCtx n (fun y => { y with queue := (left.map (fun z => z :: rest)).getD rest }) s1)

end Sys2Proof.Machine
end

