-- ==== Sys2Proof/Machine/Seq.lean ====
section
/-! DEFINITION. The collective sequencer: programs, peers and chunks, transfers, WAIT, FENCE, LOOP (10_fabric.md R316 to R319). -/

namespace Sys2Proof.Machine

/-- A sequencer instruction (Table 10.11). -/
structure SeqInstr where
  op : Nat
  flags : Nat
  peer : Nat
  red : Nat
  axis : Nat
  cmul : Int
  cadd : Int
  laddr : Nat
  raddr : Nat
  bytes : Nat
  chunk : Nat
deriving DecidableEq, Repr

/-- Read an instruction. -/
def seqInstrOf (bs : List Byte) : SeqInstr :=
  { op := fieldAt bs 0 1, flags := fieldAt bs 1 1, peer := fieldAt bs 2 2, red := fieldAt bs 4 1, axis := fieldAt bs 5 1,
    cmul := (BitVec.ofNat 8 (fieldAt bs 6 1)).toInt, cadd := (BitVec.ofNat 8 (fieldAt bs 7 1)).toInt, laddr := fieldAt bs 8 8,
    raddr := fieldAt bs 0x10 8, bytes := fieldAt bs 0x18 4, chunk := fieldAt bs 0x1C 4 }

/-- Instructions of a program image. -/
def seqProgram (bs : List Byte) : List SeqInstr :=
  (List.range (fieldAt bs 4 4)).map (fun k => seqInstrOf (sliceBytes bs (64 + 32 * k) 32))

/-- The innermost LOOP that encloses an instruction: the first at or after it whose target does not lie beyond it. -/
def enclosing (ps : List SeqInstr) (k : Nat) : Option Nat :=
  (List.range ps.length).find? (fun n => decide (k ≤ n) && match ps[n]? with
    | some x => decide (x.op = 7 ∧ x.laddr % 65536 ≤ k)
    | none => false)

/-- Iterations the loop around an instruction makes; 1 outside any loop. -/
def iterations (ps : List SeqInstr) (k : Nat) : Nat := match (enclosing ps k).bind (fun n => ps[n]?) with
  | some x => x.bytes
  | none => 1

/-- Size and coordinate of an axis; 1 and 0 without a mesh or beyond its axes. -/
def meshAxis (m : Option Mesh) (a : Nat) : Nat × Nat := match m with
  | some x => (max 1 (x.sizes.getD a 1), x.coords.getD a 0)
  | none => (1, 0)

/-- Chunk index of iteration i. -/
def chunkOf (m : Option Mesh) (x : SeqInstr) (i : Nat) : Nat :=
  let (n, c) := meshAxis m x.axis
  (((c : Int) + x.cmul * (i : Int) + x.cadd) % (n : Int)).toNat

/-- Local and remote address in iteration i. -/
def seqLocal (m : Option Mesh) (x : SeqInstr) (i : Nat) : Nat :=
  x.laddr + (if bitOf x.flags 0 then chunkOf m x i * x.chunk else 0)
def seqRemote (m : Option Mesh) (x : SeqInstr) (i : Nat) : Nat :=
  x.raddr + (if bitOf x.flags 1 then chunkOf m x i * x.chunk else 0)

/-- Job-local context index of the peer in iteration i: 0xFFFF where the mesh names none. -/
def peerIndex (m : Option Mesh) (x : SeqInstr) (i : Nat) : Nat :=
  if bitOf x.peer 15 then
    let a := bitsOf x.peer 14 13
    let (n, c) := meshAxis m a
    let k := (c + bitsOf x.peer 11 0 + (if bitOf x.peer 12 then i else 0)) % n
    match m with
    | some y => (y.peers.getD a []).getD k 0xFFFF
    | none => 0xFFFF
  else bitsOf x.peer 13 0

/-- The open context of a job-local index. -/
def jobCtx (s : State) (job index : Nat) : Option Nat := (jobAt s job).bind (fun j => tabGet j.ctxIndex index)

/-- Reserved fields of an instruction, and its values, are as Tables 10.11 and 10.12 have them; `k` is its place. -/
def seqInstrOk (ps : List SeqInstr) (k : Nat) (x : SeqInstr) : Bool :=
  decide (1 ≤ x.op ∧ x.op ≤ 8 ∧ x.flags < 8) && (bitOf x.peer 15 || decide (x.peer < 0x4000))
    && (if x.op = 3 then decide (1 ≤ x.red % 16 ∧ x.red % 16 ≤ 3 ∧ x.red / 16 ≤ 3) else decide (x.red = 0))
    && (if x.op ≤ 3 then decide (x.bytes % 32 = 0 ∧ 32 ≤ x.bytes) else true)
    && (if x.op = 2 then decide (x.bytes ≤ 0x400000) else true)
    && (if x.op = 7 then decide (1 ≤ x.bytes ∧ x.bytes ≤ 65535 ∧ x.laddr < k) else true)
    && decide (x.chunk % 32 = 0 ∧ x.axis < 4)
    && decide (((List.range ps.length).filter (fun n => decide (k ≤ n) && match ps[n]? with
        | some y => decide (y.op = 7 ∧ y.laddr % 65536 ≤ k)
        | none => false)).length ≤ 2)

/-! ### Running programs -/

/-- The program of an item, if it runs. -/
def progOf (s : State) (job item : Nat) : Option Prog := s.eng.progs.find? (fun p => decide (p.job = job ∧ p.item = item))

/-- Change a program. -/
def onProg (job item : Nat) (f : Prog → Prog) (s : State) : State :=
  s.onEng (fun e => { e with progs := e.progs.map (fun p => if p.job = job ∧ p.item = item then f p else p) })

/-- The program's instructions, as the sequencer has fetched them. -/
def progCode (p : Prog) : List SeqInstr := seqProgram p.image

/-- Iteration number of the innermost loop around an instruction, from 0 (R317). -/
def iterOf (ps : List SeqInstr) (p : Prog) : Nat := match enclosing ps p.pc with
  | some n => ((p.loops.find? (fun l => decide (l.at_ = n))).map (·.done)).getD 0
  | none => 0

/-- A COLLECTIVE item takes a slot of its floor's sequencer with the program fetched for it (R316). -/
def progStart (job item towers : Nat) (image : List Byte) (s : State) : State :=
  s.onEng (fun e => { e with progs := e.progs ++ [⟨job, item, if towers = 2 then .t1 else .t0, 0, [], [], false, image⟩] })

/-- A program leaves its slot. -/
def progLeave (job item : Nat) (s : State) : State :=
  s.onEng (fun e => { e with progs := e.progs.filter (fun q => !decide (q.job = job ∧ q.item = item)) })

/-- The instruction an event row may run now: the program's next one, where it has the row's operation, the program is not blocked in a
WAIT, and its mesh. -/
def seqReady (s : State) (job item op : Nat) : Option (Prog × SeqInstr × Nat × Option Mesh) :=
  match progOf s job item with
  | none => none
  | some p =>
    match (progCode p)[p.pc]? with
    | none => none
    | some x =>
      if x.op = op ∧ p.blocked = false then some (p, x, iterOf (progCode p) p, (jobAt s job).bind (·.mesh)) else none

/-- Queue a transfer of a program on its peer's context and go on; a 65th outstanding one waits (R318). -/
def seqQueue (job item op : Nat) (mk : SeqInstr → Nat → Option Mesh → Xfer) (s : State) : State :=
  match seqReady s job item op with
  | none => s
  | some (p, x, i, m) =>
    if 64 ≤ p.outstanding.length then s
    else
      let s1 := onProg job item (fun q => { q with pc := q.pc + 1 }) s
      match jobCtx s job (peerIndex m x i) with
      | none => s1
      | some n =>
        match tabGet s.fab.ctxs n with
        | none => s1
        | some c =>
          let xf := mk x i m
          let reply := match xf with
            | .get la _ bytes => some (la, bytes)
            | _ => none
          let psn := psnAdd (psnAfterQueue s c) (xferPackets (payloadSize s.fab.cfg) xf)
          onProg job item (fun q => { q with outstanding := q.outstanding ++ [(n, psn, reply)] })
            (onCtx n (fun y => { y with queue := y.queue ++ [xf], replies := y.replies ++ reply.toList }) s1)

def execSeqPut (job item : Nat) (s : State) : Host.Outcome State Fault Refusal :=
  .next (seqQueue job item 1 (fun x i m => .put false (seqLocal m x i) (seqRemote m x i) x.bytes 0 0 (bitOf x.flags 2)) s)

def execSeqGet (job item : Nat) (s : State) : Host.Outcome State Fault Refusal :=
  .next (seqQueue job item 2 (fun x i m => .get (seqLocal m x i) (seqRemote m x i) x.bytes) s)

def execSeqPutRed (job item : Nat) (s : State) : Host.Outcome State Fault Refusal :=
  .next (seqQueue job item 3 (fun x i m =>
    .put true (seqLocal m x i) (seqRemote m x i) x.bytes (x.red % 16) (x.red / 16) (bitOf x.flags 2)) s)

def execSeqSignal (job item : Nat) (s : State) : Host.Outcome State Fault Refusal :=
  .next (seqQueue job item 4 (fun x i m => .signal (seqRemote m x i) x.laddr) s)

/-! ### WAIT (R318) -/

/-- Read the word of a WAIT; go on where it has reached its threshold, else stay blocked. -/
def waitTry (job item : Nat) (x : SeqInstr) (i : Nat) (m : Option Mesh) (s : State) : State :=
  let (s1, bs, _) := floorRead (Agent.of 3) job (seqLocal m x i) 8 s
  let v := (BitVec.ofNat 64 (leNat bs)).toInt
  let goal := (BitVec.ofNat 64 x.raddr).toInt + x.cmul * (i : Int)
  if goal ≤ v then onProg job item (fun q => { q with pc := q.pc + 1, blocked := false }) s1
  else onProg job item (fun q => { q with blocked := true }) s1

/-- SEQ_WAIT. -/
def seqWait (job item : Nat) (s : State) : State := match seqReady s job item 5 with
  | some (_, x, i, m) => waitTry job item x i m s
  | none => s

def execSeqWait (job item : Nat) (s : State) : Host.Outcome State Fault Refusal := .next (seqWait job item s)

/-- A blocked program's WAIT. -/
def blockedWait (s : State) (p : Prog) : Option (SeqInstr × Nat × Option Mesh) :=
  if p.blocked then
    ((progCode p)[p.pc]?).map (fun x => (x, iterOf (progCode p) p, (jobAt s p.job).bind (·.mesh)))
  else none

/-- SEQ_WAIT_POLL: a blocked WAIT re-reads its word. -/
def seqWaitPoll (job item : Nat) (s : State) : State :=
  match (progOf s job item).bind (blockedWait s) with
  | some (x, i, m) => waitTry job item x i m s
  | none => s

def execSeqWaitPoll (job item : Nat) (s : State) : Host.Outcome State Fault Refusal := .next (seqWaitPoll job item s)

/-- A SIGNAL or ADD has landed on bytes: WAITs on those lines re-read their words. -/
def wakeWaits (a n : Nat) (s : State) : State :=
  s.eng.progs.foldl (fun st p => match blockedWait st p with
    | some (x, i, m) =>
      if a / 256 ≤ seqLocal m x i / 256 ∧ seqLocal m x i / 256 ≤ (a + n - 1) / 256 then waitTry p.job p.item x i m st else st
    | none => st) s

/-! ### FENCE, LOOP and acknowledgement -/

/-- SEQ_FENCE: nothing of the program is outstanding. -/
def seqFence (job item : Nat) (s : State) : State := match seqReady s job item 6 with
  | some (p, _) => if p.outstanding = [] then onProg job item (fun q => { q with pc := q.pc + 1 }) s else s
  | none => s

def execSeqFence (job item : Nat) (s : State) : Host.Outcome State Fault Refusal := .next (seqFence job item s)

/-- SEQ_LOOP: back to the target until the iterations are done. -/
def seqLoop (job item : Nat) (s : State) : State := match seqReady s job item 7 with
  | none => s
  | some (p, x, _, _) =>
    let k := ((p.loops.find? (fun l => decide (l.at_ = p.pc))).map (·.done)).getD 0 + 1
    let rest := p.loops.filter (fun l => decide (l.at_ ≠ p.pc))
    onProg job item (fun q =>
      if k < x.bytes then { q with pc := x.laddr % 65536, loops := ⟨p.pc, x.laddr % 65536, k⟩ :: rest }
      else { q with pc := q.pc + 1, loops := rest }) s

def execSeqLoop (job item : Nat) (s : State) : Host.Outcome State Fault Refusal := .next (seqLoop job item s)

/-- Transfers of programs on a context that an ACK_PSN covers are no longer outstanding. -/
def progAcked (n ackPsn : Nat) (s : State) : State :=
  s.onEng (fun e => { e with progs := e.progs.map (fun p => { p with
    outstanding := p.outstanding.filter (fun o => !(decide (o.1 = n) && o.2.2.isNone && decide (psnDiff o.2.1 ackPsn < 2 ^ 31))) }) })

/-- A GET has written its data. -/
def progGot (n : Nat) (r : Nat × Nat) (s : State) : State :=
  s.onEng (fun e => { e with progs := e.progs.map (fun p => { p with
    outstanding := match p.outstanding.findIdx? (fun o => decide (o.1 = n ∧ o.2.2 = some r)) with
      | some k => p.outstanding.eraseIdx k
      | none => p.outstanding }) })

end Sys2Proof.Machine
end

