-- ==== Sys2Proof/Machine/Twins.lean ====
section
/-! DEFINITION. Twins: delta lists, the mirror stream out and in, commit records, the commit of a tick, TWIN commands
(11_twins.md R329 to R350). -/

namespace Sys2Proof.Machine

/-! ### Commit records (R339) -/

/-- Bytes 0x00 to 0x3B of a commit record. -/
def commitBody (c : CommitRec) : List Byte :=
  leBytes 0x54494D43 4 ++ leBytes c.job 2 ++ leBytes c.tower 1 ++ leBytes c.flags 1 ++ leBytes c.tick 8 ++ leBytes c.entries 4
    ++ leBytes 0 4 ++ leBytes c.dataBytes 8 ++ leBytes c.streamBytes 8 ++ leBytes c.streamCrc 4 ++ leBytes 0 4
    ++ leBytes c.boundaryNs 8 ++ leBytes 0 4

/-- A commit record's 64 bytes. -/
def commitBytes (c : CommitRec) : List Byte := commitBody c ++ leBytes (crc32c (commitBody c)) 4

/-- A commit record read from 64 bytes; none where MAGIC or CRC is wrong. -/
def commitOf (bs : List Byte) : Option CommitRec :=
  if fieldAt bs 0 4 = 0x54494D43 ∧ fieldAt bs 0x3C 4 = crc32c (bs.take 0x3C) then
    some { job := fieldAt bs 4 2, tower := fieldAt bs 6 1, flags := fieldAt bs 7 1, tick := fieldAt bs 8 8, entries := fieldAt bs 0x10 4,
           dataBytes := fieldAt bs 0x18 8, streamBytes := fieldAt bs 0x20 8, streamCrc := fieldAt bs 0x28 4,
           boundaryNs := fieldAt bs 0x30 8 }
  else none

/-! ### Delta lists (R334, R336) -/

/-- S, bytes of a delta table. -/
def deltaTable (dmax : Nat) : Nat := ceilDiv (64 + 16 * dmax) 4096 * 4096

/-- The records of a delta entry; none where it is malformed or leaves the cellar. -/
def deltaEntry (cellar : Nat) (bs : List Byte) : Option TxRec :=
  let off := fieldAt bs 0 8; let n := fieldAt bs 8 4; let kind := fieldAt bs 0xC 1; let half := fieldAt bs 0xD 1
  if off % 8 = 0 ∧ n % 8 = 0 ∧ 8 ≤ n ∧ n ≤ 65536 ∧ kind ≤ 1 ∧ zeroAt bs 0xE 2
      ∧ (if kind = 1 then 1 ≤ half ∧ half ≤ 128 else half = 0)
      ∧ off + n + (if kind = 1 then 256 * half else 0) ≤ cellar then
    some (.data kind off n half)
  else none

/-- All of a list, or none. -/
def allSome {α : Type} : List (Option α) → Option (List α)
  | [] => some []
  | none :: _ => none
  | some a :: r => (allSome r).map (fun l => a :: l)

/-- The floor reads the delta list of a tick in a tower's table, for its MIRROR holder: the records, or the fault of a list that it
refuses or that is poisoned (R244, R336). -/
def deltaList (s : State) (t : Tower) (tick : Nat) : State × Except Nat (List TxRec) :=
  let w := s.twin.get t
  let a := w.deltaAddr + (tick % 2) * deltaTable w.deltaMax
  let (s1, hd, pz) := floorRead (Agent.of 6) w.job a 64 s
  let n := fieldAt hd 4 4
  if pz ≠ [] then (s1, .error evPoisonConsumed)
  else if fieldAt hd 0 4 = 0x544C4544 ∧ fieldAt hd 8 8 = tick ∧ n ≤ w.deltaMax then
    let (s2, bs, pz2) := floorRead (Agent.of 6) w.job (a + 64) (16 * n) s1
    if pz2 ≠ [] then (s2, .error evPoisonConsumed)
    else match allSome ((List.range n).map (fun k => deltaEntry (s.hbm.cellar.get t).bytes (sliceBytes bs (16 * k) 16))) with
      | some rs => (s2, .ok rs)
      | none => (s2, .error evFieldViolation)
  else (s1, .error evFieldViolation)

/-- Cellar bytes of a record. -/
def recData : TxRec → Nat
  | .data kind _ n _ => if kind = 1 then 2 * n else n
  | _ => 0

/-! ### The stream out (R336, R337, R343) -/

/-- A record header (Table 11.4). -/
def recHeader (off8 kind words : Nat) (part : Bool) (half : Nat) : List Byte :=
  leBytes (off8 + kind * 2 ^ 37 + words * 2 ^ 40 + (if part then 2 ^ 54 else 0) + half * 2 ^ 56) 8

/-- Bytes with no poison. -/
def cleanBytes (bs : List Byte) : List (Byte × Bool) := bs.map (fun b => (b, false))

/-- Bytes read with the poison of their sectors. -/
def markBytes (a : Nat) (bs : List Byte) (pz : List Nat) : List (Byte × Bool) :=
  bs.mapIdx (fun i b => (b, pz.contains ((a + i) / 32)))

/-- Add bytes to what a stream has made. -/
def TxStream.add (x : TxStream) (bs : List (Byte × Bool)) : TxStream :=
  { x with buf := x.buf ++ bs, made := x.made + bs.length, crc := bs.foldl (fun c b => crcByte c b.1) x.crc }

/-- A pad record that brings a stream, with `more` bytes still to follow, to a 32-byte boundary. -/
def TxStream.pad (x : TxStream) (more : Nat) : TxStream :=
  let n := (32 - (x.made + more) % 32) % 32
  if n = 0 then x else x.add (cleanBytes (recHeader 0 3 (n / 8 - 1) false 0 ++ List.replicate (n - 8) 0#8))

/-- Largest piece of a range in one record. -/
abbrev recMax : Nat := 65536

/-- Make the next record of a stream into bytes, reading memory now. Records of kinds 0 and 1 carry PARTIAL while the tower is not
PROTECTED; a commit record takes FULL, its stream's length and CRC. -/
def makeRecord (t : Tower) (x : TxStream) (s : State) : TxStream × State :=
  let w := s.twin.get t
  match x.recs with
  | [] => (x, s)
  | .data kind off n half :: rest =>
    let k := min n recMax
    let base := if kind = 4 then (s.hbm.mirror.get t).base else (s.hbm.cellar.get t).base
    let (s1, bs, pz) := floorRead (Agent.of 6) 0 (base + off) k s
    let (s2, bs2, pz2) := if kind = 1 then floorRead (Agent.of 6) 0 (base + off + 256 * half) k s1 else (s1, [], [])
    let y := x.add (cleanBytes (recHeader (off / 8) kind (k / 8) (decide (kind ≠ 4) && !w.isProtected) half)
      ++ markBytes (base + off) bs pz ++ markBytes (base + off + 256 * half) bs2 pz2)
    let rest' := if k < n then .data kind (off + k) (n - k) half :: rest else rest
    let z := { y with recs := rest' }
    (if rest' = [] then z.pad 0 else z, s2)
  | .commit c :: rest =>
    let y := x.pad 72
    let c' := { c with
      flags := if (w.isProtected || w.seedFull) && decide (c.flags / 8 % 2 = 0) then c.flags ||| 16 else c.flags
      streamBytes := y.made, streamCrc := (y.crc ^^^ 0xFFFFFFFF#32).toNat }
    ({ y.add (cleanBytes (recHeader 0 2 8 false 0 ++ commitBytes c')) with recs := rest },
      s.onTwin (fun p => p.mod t (fun v => { v with txRec := some c' })))
  | .hello bits fs :: rest =>
    (({ x.add (cleanBytes (recHeader bits 5 4 false 0 ++ fs.flatMap (fun f => leBytes f 8))) with recs := rest }).pad 0, s)

/-- Make records until a packet can be cut or the stream is all made. -/
def makeMore (t : Tower) (p : Nat) : Nat → TxStream × State → TxStream × State
  | 0, r => r
  | n + 1, r => if r.1.recs = [] ∨ p ≤ r.1.buf.length then r else makeMore t p n (makeRecord t r.1 r.2)

/-- The next piece of a seed becomes a stream of its own when nothing else waits (R346). -/
def seedStream (t : Tower) (s : State) : State :=
  let w := s.twin.get t
  match w.txQueue, w.restore with
  | [], some r =>
    match r.seed, r.left with
    | true, (off, n) :: rest =>
      let k := min n recMax
      s.onTwin (fun p => p.mod t (fun v => { v with
        txQueue := [{ kind := .seed, recs := [.data 0 off k 0], buf := [], made := 0, crc := 0xFFFFFFFF, sent := 0 }]
        restore := some { r with left := if k < n then (off + k, n - k) :: rest else rest, sentBytes := r.sentBytes + k } }))
    | _, _ => s
  | _, _ => s

/-- A stream's last packet has gone out under a PSN: a seed's last stream ends the seed. -/
def streamSent (psn : Nat) (x : TxStream) (w : Twin) : Twin :=
  let excess := decide (x.kind = .seed) && (match w.restore with
    | some r => r.seed && decide (r.left = [])
    | none => false)
  { w with
    txQueue := w.txQueue.drop 1
    txAcks := w.txAcks ++ [(psnAdd psn 1, x.kind)]
    seedEnded := w.seedEnded || excess
    seedFull := w.seedFull || (excess && (w.restore.map (·.whole)).getD false) }

/-- FABRIC_SEND on a mirror context: the next packet of its first stream. -/
def sendMirror (n : Nat) (t : Tower) (s : State) : State :=
  let s0 := seedStream t s
  match tabGet s0.fab.ctxs n with
  | none => s
  | some c =>
    match (s0.twin.get t).txQueue with
    | [] => s
    | x0 :: _ =>
      if !maySend s0 n c then s
      else
        let p := payloadSize s0.fab.cfg
        let (x, s1) := makeMore t p (x0.recs.length + p) (x0, s0.timeTo c.sendNs)
        let bs := x.buf.take p
        let fin := decide (x.recs = [] ∧ x.buf.length ≤ p)
        let pz := (List.range (p / 32)).filter (fun i => ((bs.drop (32 * i)).take 32).any (·.2))
        let pkt := { ctxPkt s1 n c 1 c.sndNxt with addr := x.sent % 2 ^ 44, payload := bs.map (·.1), poison := pz, last := fin, ackReq := fin }
        let x' := { x with buf := x.buf.drop p, sent := x.sent + bs.length }
        sendReliable n pkt (s1.onTwin (fun q => q.mod t (fun w =>
          let w' := { w with txQueue := x' :: w.txQueue.drop 1 }
          if fin then streamSent c.sndNxt x' w' else w')))

/-- FABRIC_SEND. -/
def fabricSend (n : Nat) (s : State) : State := match mirrorTower s n with
  | some t => sendMirror n t s
  | none => sendTransfer n s

def execFabricSend (ctx : Nat) (s : State) : Host.Outcome State Fault Refusal := .next (fabricSend ctx s)

/-! ### The commit of a tick (R336, R340, R341) -/

/-- Flags of a tick's commit record: NO_MIRROR, or EMPTY where no sheaf was admitted. -/
def tickFlags (j : Job) : Nat := match j.sheaf with
  | none => 2
  | some sh => if sh.noMirror then 1 else 0

/-- A tick's commit record before it is sent. -/
def tickRecord (j : Job) (t : Tower) (flags entries bytes : Nat) : CommitRec :=
  { job := j.id, tower := towerNum t, flags := flags, tick := j.tick, entries := entries, dataBytes := bytes, streamBytes := 0, streamCrc := 0,
    boundaryNs := j.boundaryNs }

/-- Core fault detail with no core, for a delta list the floor refuses or finds poisoned (DEDUCED, log 37). -/
def deltaDetail (code : Nat) : List Byte :=
  issueDetail code noIndex

/-- The COMMIT work of one tower begins: an uncommitted earlier tick loses the twin; in BOUND the tick's list is read and its stream
queued. -/
def commitTower (j : Job) (t : Tower) (s : State) : State :=
  let s1 := if (s.twin.get t).txPending.isSome then twinLost t 2 s else s
  let s2 := s1.onTwin (fun p => p.mod t (fun w => { w with settleEndNs := s.nowNs, txRec := none }))
  let w := s2.twin.get t
  if w.state ≠ .bound then s2
  else
    let fl := tickFlags j
    match if fl = 0 then deltaList s2 t j.tick else (s2, .ok []) with
    | (s3, .error code) => jobFault j.id code (deltaDetail code) s3
    | (s3, .ok rs) =>
      let c := tickRecord j t fl rs.length ((rs.map recData).foldl (· + ·) 0)
      s3.onTwin (fun p => p.mod t (fun v => { v with
        txPending := if v.isProtected then some j.tick else none
        txQueue := v.txQueue ++ [{ kind := .tick j.tick v.isProtected v.seedEnded, recs := rs ++ [.commit c], buf := [], made := 0,
                                   crc := 0xFFFFFFFF, sent := 0 }] }))

/-- COMMIT begins for a job. -/
def commitWork (job : Nat) (s : State) : State := match jobAt s job with
  | none => s
  | some j => (towersOfPartition j.partition).foldl (fun st t => commitTower j t st) s

/-- COMMIT ends: towers that do not wait for an ACK commit locally. -/
def commitLocal (job : Nat) (s : State) : State := match jobAt s job with
  | none => s
  | some j =>
    (towersOfPartition j.partition).foldl (fun st t =>
      let w := st.twin.get t
      if w.txPending = some j.tick ∨ w.committed = some j.tick then st
      else
        let c := match w.txRec with
          | some r => if r.tick = j.tick then { r with flags := r.flags ||| 4 } else tickRecord j t (tickFlags j ||| 4) 0 0
          | none => tickRecord j t (tickFlags j ||| 4) 0 0
        commitTick t j j.tick (if c.streamBytes = 0 then 0 else c.streamBytes + 72) c st) s

/-- Ticks from a start tick on are run anew: what an earlier run still sends for them commits none (R345). -/
def Twin.rerun (start : Nat) (w : Twin) : Twin :=
  let k := fun (x : TxKind) => match x with
    | .tick n _ a => if start ≤ n then .tick n false a else x
    | .hello => x
    | .restore => x
    | .seed => x
  { w with
    txPending := w.txPending.filter (fun n => decide (n < start))
    txQueue := w.txQueue.map (fun x => { x with kind := k x.kind })
    txAcks := w.txAcks.map (fun a => (a.1, k a.2)) }

/-! ### Acknowledgements on mirror contexts (R340, R346) -/

/-- The result of TWIN.RESTORE. -/
def restoreResult (now : Nat) (r : Restore) (bytes : Nat) : List Byte :=
  leBytes bytes 8 ++ leBytes r.tick 8 ++ leBytes ((now - r.startNs) / 1000) 4 ++ leBytes 0 4

/-- A tower's part of a restore or seed is all acknowledged; the command completes with its last tower. -/
def restoreDone (t : Tower) (s : State) : State :=
  match (s.twin.get t).restore with
  | none => s
  | some r =>
    let s1 := s.onTwin (fun p => p.mod t (fun w => { w with restore := none, peerRecover := w.peerRecover && r.seed }))
    let u := otherTower t
    match (s1.twin.get u).restore with
    | some q =>
      if q.mb = r.mb then s1.onTwin (fun p => p.mod u (fun w => { w with restore := some { q with sentBytes := q.sentBytes + r.sentBytes } }))
      else match startedCmd s1 r.mb 0x0502 with
        | some c => complete c stDone (restoreResult s1.nowNs r r.sentBytes) s1
        | none => s1
    | none => match startedCmd s1 r.mb 0x0502 with
      | some c => complete c stDone (restoreResult s1.nowNs r r.sentBytes) s1
      | none => s1

/-- TWIN flags of a tower (Table 11.10). -/
def twinFlags (w : Twin) : Nat :=
  let r := w.restore.map (·.seed)
  (if w.isProtected ∧ w.state = .bound then 1 else 0) + (if w.holding then 2 else 0) + (if r = some true then 4 else 0)
    + (if w.untrusted then 8 else 0) + (if r = some false then 16 else 0)

/-- State number (Table 11.6). -/
def bindNum : BindSt → Nat
  | .off => 0
  | .pending => 1
  | .bound => 2
  | .lost => 3
  | .recovering => 4

/-- A tower's 16 bytes of the result of TWIN.BIND. -/
def bindHalf (w : Twin) : List Byte := leBytes (bindNum w.state) 1 ++ leBytes (twinFlags w) 1 ++ leBytes 0 6 ++ leBytes w.peerCellar 8

/-- R331: the state a tower enters after HELLO. -/
def helloState (w : Twin) : Twin :=
  if w.recover then { w with state := .recovering, isProtected := false, bindMb := none, lostCause := 0 }
  else { w with state := .bound, bindMb := none, lostCause := 0,
                isProtected := !w.untrusted && decide (w.committed.isSome ∧ w.committed = w.peerMirrorTick) }

/-- Judge a TWIN.BIND whose HELLOs have been exchanged (R330 step 4). -/
def bindJudge (mb : Nat) (s : State) : State :=
  let ts := bothTowers.filter (fun t => decide ((s.twin.get t).bindMb = some mb))
  let bad := ts.any (fun t =>
    let w := s.twin.get t
    w.helloSeen && w.helloAcked && (decide (w.peerTowers ≠ w.bindTowers) || decide ((s.hbm.mirror.get t).bytes < w.peerCellar)
      || decide (w.peerMirror < (s.hbm.cellar.get t).bytes)))
  if bad then bindFail mb stBadField s
  else if ts.all (fun t => (s.twin.get t).helloSeen && (s.twin.get t).helloAcked) then
    let s1 := s.onTwin (fun p => ⟨if p.t0.bindMb = some mb then helloState p.t0 else p.t0, if p.t1.bindMb = some mb then helloState p.t1 else p.t1⟩)
    match startedCmd s1 mb 0x0500 with
    | some c => complete c stDone (bothTowers.flatMap (fun t => if ts.contains t then bindHalf (s1.twin.get t) else List.replicate 16 0#8)) s1
    | none => s1
  else s

/-- What the acknowledgement of a stream does. -/
def streamAcked (t : Tower) (k : TxKind) (s : State) : State :=
  let w := s.twin.get t
  match k with
  | .hello =>
    let s1 := s.onTwin (fun p => p.mod t (fun x => { x with helloAcked := true }))
    match w.bindMb with
    | some mb => bindJudge mb s1
    | none => s1
  | .tick n prot after =>
    match jobOfTower s t with
    | none => s
    | some j =>
      if tickFaulted j n then s
      else
        let s1 := if after ∧ w.state = .bound then s.onTwin (fun p => p.mod t (fun x => { x with isProtected := true, seedEnded := false, seedFull := false })) else s
        match prot, w.txRec with
        | true, some c => if w.txPending = some n then commitTick t j n (c.streamBytes + 72) c s1 else s1
        | _, _ => s1
  | .restore => restoreDone t s
  | .seed =>
    let s1 := s.onTwin (fun p => p.mod t (fun x => { x with seedDone := min x.seedTotal (x.seedDone + recMax) }))
    let excess := (w.restore.map (fun r => r.seed && decide (r.left = []))).getD false
      && !(w.txQueue.any (fun x => decide (x.kind = .seed))) && !(w.txAcks.any (fun a => decide (a.2 = .seed)))
    if excess then restoreDone t s1 else s1

/-- Streams of a mirror context that an ACK_PSN covers. -/
def mirrorAcked (t : Tower) (ackPsn : Nat) (s : State) : State :=
  let w := s.twin.get t
  let isIn := fun (a : Nat × TxKind) => decide (psnDiff a.1 ackPsn < 2 ^ 31)
  (w.txAcks.filter isIn).foldl (fun st a => streamAcked t a.2 st)
    (s.onTwin (fun p => p.mod t (fun x => { x with txAcks := x.txAcks.filter (fun a => !isIn a) })))

/-! ### The stream in (R338, R343) -/

/-- What unpacking has come to. -/
inductive RxEnd where
  | more
  | held
  | refused
deriving DecidableEq, Repr

/-- The record at the head of what a tower has received. -/
structure RxRec where
  off : Nat
  kind : Nat
  part : Bool
  half : Nat
  data : List (Byte × Bool)
deriving DecidableEq, Repr

/-- The complete record at the head of a byte list. -/
def rxHead (buf : List (Byte × Bool)) : Option RxRec :=
  if buf.length < 8 then none
  else
    let h := leNat ((buf.take 8).map (·.1))
    let kind := bitsOf h 39 37
    let n := 8 * bitsOf h 53 40 * (if kind = 1 then 2 else 1)
    if buf.length < 8 + n then none
    else some { off := bitsOf h 36 0 * 8, kind := kind, part := bitOf h 54, half := bitsOf h 63 56, data := (buf.drop 8).take n }

/-- Drop the head record: its bytes count for STREAM_BYTES and STREAM_CRC. -/
def rxDrop (r : RxRec) (w : Twin) : Twin :=
  let n := 8 + r.data.length
  { w with rxBuf := w.rxBuf.drop n, rxBytes := w.rxBytes + n, rxCrc := (w.rxBuf.take n).foldl (fun c b => crcByte c b.1) w.rxCrc }

/-- Write a record's bytes to HBM in a region, as a NO_ALLOC write does (R275, R338); none where they leave it. -/
def rxStore (r : Region) (off : Nat) (bs : List (Byte × Bool)) (s : State) : Option State :=
  if r.bytes < off + bs.length then none
  else
    let a := r.base + off
    let pz := ((bs.mapIdx (fun i b => ((a + i) / 32, b.2))).filter (·.2)).map (·.1)
    some (if s.gate.pwr = .rest then hbmDirect (Agent.rxOf 6) a (bs.map (·.1)) pz s
      else engineWrite (Agent.rxOf 6) 0 true a (bs.map (·.1)) pz (fineInvalidate a bs.length s))

/-- Apply the records at the head one after another: ranges to the mirror cellar, kind 4 to the cellar; a commit record or a HELLO is
held for its own event. -/
def rxApply (t : Tower) : Nat → State → State × RxEnd
  | 0, s => (s, .more)
  | n + 1, s =>
    match rxHead (s.twin.get t).rxBuf with
    | none => (s, .more)
    | some r =>
      let next := fun (st : State) => rxApply t n (st.onTwin (fun p => p.mod t (rxDrop r)))
      if r.kind = 3 then next s
      else if r.kind = 2 then (if r.data.length = 64 then (s, .held) else (s, .refused))
      else if r.kind = 5 then (if r.data.length = 32 then (s, .held) else (s, .refused))
      else if r.kind = 4 then (match rxStore (s.hbm.cellar.get t) r.off r.data s with
        | some st => next st
        | none => (s, .refused))
      else if r.kind ≤ 1 then
        let reg := s.hbm.mirror.get t
        let k := if r.kind = 1 then r.data.length / 2 else r.data.length
        match (rxStore reg r.off (r.data.take k) s).bind (rxStore reg (r.off + 256 * r.half) (r.data.drop k)) with
        | some st => next (if r.part then st.onTwin (fun p => p.mod t (fun w => { w with holding := false })) else st)
        | none => (s, .refused)
      else (s, .refused)

/-- Forget a stream half received. -/
def rxClear (w : Twin) : Twin := { w with rxBuf := [], rxBytes := 0, rxCrc := 0xFFFFFFFF, rxHeld := none }

/-- A mirror packet's payload (R338): ADDR 0 begins a stream. Whether it is accepted, and the state after it. -/
def rxPacket (t : Tower) (p : Pkt) (s : State) : State × Bool :=
  let s1 := if p.addr = 0 ∧ (s.twin.get t).rxHeld.isNone then s.onTwin (fun q => q.mod t rxClear) else s
  let s2 := s1.onTwin (fun q => q.mod t (fun w => { w with
    rxBuf := w.rxBuf ++ p.payload.mapIdx (fun i b => (b, p.poison.contains (i / 32))) }))
  if (s2.twin.get t).rxHeld.isSome then (s2, true)
  else match rxApply t (s2.twin.get t).rxBuf.length s2 with
    | (s3, .more) => (s3, true)
    | (s3, .held) => (s3.onTwin (fun q => q.mod t (fun w => { w with rxHeld := some p.psn })), true)
    | (s3, .refused) => (s3.onTwin (fun q => q.mod t rxClear), false)

/-- Refuse a held record: NACK cause 4, and the packet counts as not accepted. -/
def rxRefuse (t : Tower) (s : State) : State :=
  let w := s.twin.get t
  match tabGet s.fab.ctxs w.ctx with
  | none => s
  | some c =>
    let psn := w.rxHeld.getD c.rcvNxt
    sendNack w.ctx c.peerDev c.peerCtx 4 psn
      ((onCtx w.ctx (fun x => { x with rcvNxt := psn, unackedRx := 0, ackDueNs := none }) s).onTwin (fun q => q.mod t rxClear))

/-- Go on after a held record has been applied: the records behind it, then the ACK it kept back. -/
def rxResume (t : Tower) (r : RxRec) (s : State) : State :=
  let w := s.twin.get t
  let s1 := s.onTwin (fun q => q.mod t (rxDrop r))
  match rxApply t (s1.twin.get t).rxBuf.length s1 with
  | (s2, .held) => s2
  | (s2, .refused) => rxRefuse t s2
  | (s2, .more) => sendAck w.ctx (s2.onTwin (fun q => q.mod t (fun x => { x with rxHeld := none })))

/-- The held record of a kind. -/
def heldRec (s : State) (t : Tower) (kind : Nat) : Option RxRec :=
  if (s.twin.get t).rxHeld.isSome then (rxHead (s.twin.get t).rxBuf).filter (fun r => decide (r.kind = kind)) else none

/-- What a valid commit record does at the receiver: the ring; HOLDING with FULL; the end of a restore (R338, R343, R346). -/
def applyCommit (c : CommitRec) (w : Twin) : Twin :=
  let w1 := { w with ringRx := ringAdd c w.ringRx }
  let w2 := if bitOf c.flags 4 then { w1 with holding := true, mirrorTick := some c.tick } else w1
  if bitOf c.flags 3 ∧ w2.state = .recovering then
    { w2 with committed := some c.tick, untrusted := false, state := .bound, isProtected := true }
  else w2

/-- COMMIT_RECORD: the held commit record is checked against the stream before it. -/
def commitRecord (t : Tower) (s : State) : State :=
  match heldRec s t 2 with
  | none => s
  | some r =>
    let w := s.twin.get t
    match commitOf (r.data.map (·.1)) with
    | none => rxRefuse t s
    | some c =>
      if c.streamBytes = w.rxBytes ∧ c.streamCrc = (w.rxCrc ^^^ 0xFFFFFFFF#32).toNat then
        rxResume t r (s.onTwin (fun q => q.mod t (applyCommit c)))
      else rxRefuse t s

def execCommitRecord (t : Tower) (s : State) : Host.Outcome State Fault Refusal := .next (commitRecord t s)

/-- HELLO: the twin's cellar, mirror cellar, ticks, towers and RECOVER are noted; a TWIN.BIND in progress is judged. -/
def helloRecord (t : Tower) (s : State) : State :=
  match heldRec s t 5 with
  | none => s
  | some r =>
    let bs := r.data.map (·.1)
    let opt := fun (v : Nat) => if v = 2 ^ 64 - 1 then none else some v
    let s1 := rxResume t r (s.onTwin (fun q => q.mod t (fun w => { w with
      helloSeen := true
      peerTowers := r.off / 8 % 4
      peerRecover := bitOf (r.off / 8) 2
      peerCellar := fieldAt bs 0 8
      peerMirror := fieldAt bs 8 8
      peerCommitted := opt (fieldAt bs 16 8)
      peerMirrorTick := opt (fieldAt bs 24 8) })))
    match (s1.twin.get t).bindMb with
    | some mb => bindJudge mb s1
    | none => s1

def execHello (t : Tower) (s : State) : Host.Outcome State Fault Refusal := .next (helloRecord t s)

/-! ### TWIN commands (R330, R346, R348, R349) -/

/-- Another TWIN command of a tower is in progress. -/
def twinBusy (s : State) (t : Tower) : Bool := (s.twin.get t).bindMb.isSome || (s.twin.get t).restore.isSome

/-- Parameters of a tower in TWIN.BIND: context, peer context, delta address. -/
def bindPar (c : Cmd) : Tower → Nat × Nat × Nat
  | .t0 => (par c 4 2, par c 6 2, par c 0x10 8)
  | .t1 => (par c 8 2, par c 0xA 2, par c 0x18 8)

/-- Check 3 of R330 for a tower. -/
def bindFieldBad (c : Cmd) (s : State) (t : Tower) : Bool :=
  let (n, peer, da) := bindPar c t
  if !bitOf (par c 0 1) (towerNum t) then decide (n ≠ 0 ∨ peer ≠ 0 ∨ da ≠ 0)
  else
    let cl := s.hbm.cellar.get t
    let job := ((jobOfTower s t).map (·.id)).getD 0
    let size := 2 * deltaTable (par c 0xC 4)
    decide (0x4000 ≤ n ∨ 0x4000 ≤ peer ∨ da % 4096 ≠ 0 ∨ cl.bytes = 0 ∨ (s.hbm.mirror.get t).bytes = 0)
      || !(rangeAllowed s job 0 cl.base cl.bytes && rangeAllowed s job 1 cl.base cl.bytes
          && rangeAllowed s job 0 da size && rangeAllowed s job 1 da size)
      || (tabGet s.fab.ctxs n).isSome

/-- The towers named break R329. -/
def bindTowersBad (c : Cmd) (s : State) (m : Nat) : Bool :=
  if s.jobs.partMode = 1 then
    decide ((m ≠ 1 ∧ m ≠ 2) ∨ (jobAt s c.job).map (fun j => partitionMask j.partition) ≠ some m)
  else decide (m ≠ 3)

/-- TWIN.BIND. -/
def twinBind (c : Cmd) (s : State) : State :=
  let m := par c 0 1
  let ts := towersOfMask m
  judged c
    [(decide (c.length ≠ 48), stBadLength), (ts.any (twinBusy s), stBusy),
     (s.fab.devId.isNone || s.hbm.globalHoming || ts.any (fun t =>
        let w := s.twin.get t
        match jobOfTower s t with
        | none => true
        | some j => decide ((w.state ≠ .off ∧ w.state ≠ .lost) ∨ (w.state = .off ∧ (j.state = .armed ∨ j.state = .running)))), stWrongState),
     (hdrBad c || decide (4 ≤ m) || decide (2 ≤ par c 1 1) || decide (0x2000 ≤ par c 2 2) || parRes c 0x20 16
        || decide (par c 0xC 4 = 0 ∨ 4194304 < par c 0xC 4) || bindTowersBad c s m || bothTowers.any (bindFieldBad c s)
        || decide (m = 3 ∧ par c 4 2 = par c 8 2), stBadField)]
    s
    (ts.foldl (fun st t =>
      let (n, peer, da) := bindPar c t
      openMirror t (st.onTwin (fun p => p.mod t (fun w => { w.quiet with
        wasLost := decide (w.state = .lost), state := .pending, twinDev := par c 2 2, job := ((jobOfTower s t).map (·.id)).getD 0
        ctx := n, peerCtx := peer, deltaMax := par c 0xC 4, deltaAddr := da, recover := bitOf (par c 1 1) 0
        bindMb := some c.mb, bindTowers := m, bindStartNs := s.nowNs, peerRecover := false, peerCellar := 0 })))) (markStarted c s))

def execTwinBind (mb : Nat) (s : State) : Host.Outcome State Fault Refusal := .next (runCmd 0x0500 mb twinBind s)

/-- TWIN_BIND_TIMEOUT: no HELLO within 10 s. -/
def twinBindTimeout (mb : Nat) (s : State) : State :=
  let ts := bothTowers.filter (fun t => decide ((s.twin.get t).bindMb = some mb))
  match ts with
  | [] => s
  | t :: _ =>
    let s1 := s.timeTo ((s.twin.get t).bindStartNs + 10000000000)
    bindFail mb stTwinLost (ts.foldl (fun st u => postNotice evTwinLost (st.twin.get u).job (twinDetail st u 4) st) s1)

def execTwinBindTimeout (mb : Nat) (s : State) : Host.Outcome State Fault Refusal := .next (twinBindTimeout mb s)

/-- Clear a binding. -/
def unbindTower (w : Twin) : Twin :=
  { w.quiet with state := .off, holding := false, twinDev := 0, job := 0, lostCause := 0, recover := false, peerRecover := false,
                 deltaMax := 0, deltaAddr := 0 }

/-- TWIN.UNBIND. A TWIN.BIND, restore or seed of the tower that still runs ends with TWIN_LOST (DESIGN CHOICE, log 37). -/
def twinUnbind (c : Cmd) (s : State) : State :=
  let ts := towersOfMask (par c 0 1)
  judged c
    [(decide (c.length ≠ 8), stBadLength),
     (hdrBad c || parRes c 1 7 || decide (par c 0 1 = 0 ∨ 4 ≤ par c 0 1) || ts.any (fun t => decide ((s.twin.get t).state = .off)), stBadField),
     (ts.any (fun t => decide ((s.twin.get t).state ≠ .lost) && match jobOfTower s t with
        | some j => decide (j.state = .armed ∨ j.state = .running)
        | none => false), stWrongState)]
    s
    (complete c stDone [] (ts.foldl (fun st t =>
      let s1 := match (st.twin.get t).bindMb with
        | some mb => bindFail mb stTwinLost st
        | none => restoreEnd t stTwinLost st
      (closeMirror t s1).onTwin (fun p => p.mod t unbindTower)) s))

def execTwinUnbind (mb : Nat) (s : State) : Host.Outcome State Fault Refusal := .next (runCmd 0x0501 mb twinUnbind s)

/-- Insert a range by offset. -/
def insertRange (r : Nat × Nat) : List (Nat × Nat) → List (Nat × Nat)
  | [] => [r]
  | x :: rest => if r.1 ≤ x.1 then r :: x :: rest else x :: insertRange r rest

/-- Ranges cover [0, n). -/
def coversAll (n : Nat) (rs : List (Nat × Nat)) : Bool :=
  decide (n ≤ (rs.foldr insertRange []).foldl (fun hi r => if r.1 ≤ hi then max hi (r.1 + r.2) else hi) 0)

/-- TWIN.RESTORE. -/
def twinRestore (c : Cmd) (s : State) : State :=
  let m := par c 0 1; let dir := par c 1 1; let n := par c 2 2
  let ts := towersOfMask m
  let rs := (List.range n).map (fun i => (par c (0x10 + 16 * i) 8, par c (0x18 + 16 * i) 8))
  let size := fun (t : Tower) => if dir = 0 then (s.twin.get t).peerCellar else (s.hbm.cellar.get t).bytes
  let plan := fun (t : Tower) => if n = 0 then [(0, size t)] else rs
  judged c
    [(decide (c.length < 16) || (decide (n ≤ 16) && decide (c.length ≠ 16 + 16 * n)), stBadLength),
     (hdrBad c || decide (m = 0 ∨ 4 ≤ m ∨ 2 ≤ dir ∨ 16 < n) || parRes c 4 12 || rs.any (fun r => decide (r.1 % 8 ≠ 0 ∨ r.2 % 8 ≠ 0)), stBadField),
     (ts.any (twinBusy s), stBusy),
     (ts.any (fun t =>
        let w := s.twin.get t
        if dir = 0 then !(w.holding && w.peerRecover && decide (w.state = .bound ∨ w.state = .recovering)) else decide (w.state ≠ .bound)), stWrongState),
     (ts.any (fun t => (plan t).any (fun r => decide (size t < r.1 + r.2))), stBadField)]
    s
    (let empty := fun (st : State) (t : Tower) => match (st.twin.get t).restore with
        | some r => if r.seed ∧ r.left = [] then restoreDone t st else st
        | none => st
     let tick := match ts with
        | t :: _ => if dir = 0 then mirrorTickField (s.twin.get t) else (s.twin.get t).committed.getD (2 ^ 64 - 1)
        | [] => 0
     ts.foldl empty (ts.foldl (fun st t =>
      let total := ((plan t).map (·.2)).foldl (· + ·) 0
      let close : CommitRec := { job := ((jobOfTower s t).map (·.id)).getD 0, tower := towerNum t, flags := 8,
                                 tick := mirrorTickField (s.twin.get t), entries := 0, dataBytes := total, streamBytes := 0, streamCrc := 0, boundaryNs := 0 }
      st.onTwin (fun p => p.mod t (fun w =>
        let r : Restore := { mb := c.mb, seed := decide (dir = 1), left := [], sentBytes := total, tick := tick, startNs := s.nowNs, whole := false }
        if dir = 0 then
          { w with
            restore := some r
            txQueue := w.txQueue ++ [{ kind := .restore, recs := (plan t).map (fun q => .data 4 q.1 q.2 0) ++ [.commit close], buf := [],
                                       made := 0, crc := 0xFFFFFFFF, sent := 0 }] }
        else
          { w with
            restore := some { r with left := (plan t).filter (fun q => decide (q.2 ≠ 0)), sentBytes := 0, whole := coversAll (size t) (plan t) }
            seedDone := 0, seedTotal := total, seedEnded := false, seedFull := false }))) (markStarted c s)))

def execTwinRestore (mb : Nat) (s : State) : Host.Outcome State Fault Refusal := .next (runCmd 0x0502 mb twinRestore s)

/-- A tower's 64 bytes of TWIN.STATUS (Table 11.10). -/
def twinStatusHalf (s : State) (t : Tower) : List Byte :=
  let w := s.twin.get t
  leBytes (bindNum w.state) 1 ++ leBytes (twinFlags w) 1 ++ leBytes (if w.state = .off then 0xFFFF else w.twinDev) 2
    ++ leBytes (((jobOfTower s t).map (·.id)).getD 0) 2 ++ leBytes w.lostCause 1 ++ leBytes 0 1
    ++ leBytes (w.committed.getD (2 ^ 64 - 1)) 8 ++ leBytes (mirrorTickField w) 8 ++ leBytes w.lastStreamBytes 8
    ++ leBytes w.lastCommitUs 4 ++ leBytes 0 4 ++ leBytes w.seedDone 8 ++ leBytes w.seedTotal 8 ++ leBytes 0 8

/-- TWIN.STATUS. -/
def twinStatus (c : Cmd) (s : State) : State :=
  judged c [(decide (c.length ≠ 0), stBadLength), (hdrBad c, stBadField)] s
    (complete c stDone (twinStatusHalf s .t0 ++ twinStatusHalf s .t1) s)

def execTwinStatus (mb : Nat) (s : State) : Host.Outcome State Fault Refusal := .next (runCmd 0x0503 mb twinStatus s)

end Sys2Proof.Machine
end

