-- ==== Sys2Proof/Machine/Receive.lean ====
section
/-! DEFINITION. Packets that arrive: the floor switch, the receive steps, and what each operation does (10_fabric.md R295 to R311). -/

namespace Sys2Proof.Machine

/-- Bytes a reliable packet touches at its address (R295). -/
def pktSpan (p : Pkt) : Nat :=
  if p.op = 4 then fieldAt p.payload 0 4 else if p.op = 3 then 8 else p.payload.length

/-- The size rules of R295; a packet that breaks them is refused at step 5 (DESIGN CHOICE, log 35). -/
def pktSized (c : PortCfg) (p : Pkt) : Bool :=
  if p.op = 3 then decide (p.payload.length = 8 ∧ p.addr % 8 = 0)
  else if p.op = 4 then
    let n := fieldAt p.payload 0 4
    decide (p.payload.length = 16 ∧ n % 32 = 0 ∧ 32 ≤ n ∧ n ≤ 0x400000 ∧ fieldAt p.payload 8 8 % 32 = 0)
  else decide (p.addr % 32 = 0 ∧ p.payload.length % 32 = 0 ∧ 32 ≤ p.payload.length ∧ p.payload.length ≤ payloadSize c)

/-- Core and byte of its local memory that an address of the local-memory window stands for (R88). -/
def windowAt (a : Nat) : Option (Nat × Nat) := if a < hbmTop ∨ isPinned a then none else Config.localWindow a

/-- Step 5 of Table 10.10 for a job's context; the local-memory window is written only by WRITE, to cores of the owner's partition. -/
def accessOk (s : State) (c : Ctx) (p : Pkt) : Bool :=
  pktSized s.fab.cfg p &&
    (if (windowAt p.addr).isSome then
      decide (p.op = 1) && bitOf c.access 3 && (List.range (pktSpan p)).all (fun i => match windowAt (p.addr + i), jobAt s c.owner with
        | some w, some j => (towersOfPartition j.partition).contains (towerOfCore w.1)
        | _, _ => false)
    else if p.op = 1 then bitOf c.access 0 && rangeAllowed s c.owner 1 p.addr (pktSpan p)
    else if p.op = 2 then bitOf c.access 2 && decide (1 ≤ p.redOp ∧ p.redOp ≤ 3 ∧ p.redTy ≤ 3) && rangeAllowed s c.owner 2 p.addr (pktSpan p)
    else if p.op = 3 then bitOf c.access 2 && rangeAllowed s c.owner 2 p.addr 8
    else if p.op = 4 then bitOf c.access 1 && rangeAllowed s c.owner 0 p.addr (pktSpan p)
    else c.replies.any (fun r => decide (r.1 ≤ p.addr ∧ p.addr + p.payload.length ≤ r.1 + r.2)))

/-- Poisoned sectors (address ÷ 32) of a packet. -/
def pktPoison (p : Pkt) : List Nat := (p.poison.filter (fun i => decide (32 * i < p.payload.length))).map (fun i => p.addr / 32 + i)

/-- Elements of an ADD. -/
def addOps (p : Pkt) : List LaneOp :=
  rowOps (redOpCode p.redOp) (redTyCode p.redTy) p.addr p.payload (fun i => (pktPoison p).contains ((p.addr + i) / 32))

/-- A byte stored in a core's local memory: in that of the crew that holds its place, if one does. -/
def coreStore (core off : Nat) (b : Byte) (pz : Bool) (s : State) : State :=
  match (tabGetD s.cores.cores core Core.empty).crews.find? (fun e =>
      decide (Config.crewBase e.2.uid ≤ off ∧ off < Config.crewBase e.2.uid + e.2.kernel.localKib * 1024)) with
  | some e => onCrew core e.1 (lmemWrite (off - Config.crewBase e.2.uid) [b] pz) s
  | none => s

/-- A WRITE through the local-memory window (R88, R310). -/
def windowStore (a : Nat) (bs : List Byte) (pz : List Nat) (s : State) : State :=
  (bs.mapIdx (fun i b => (a + i, b))).foldl (fun st e => match windowAt e.1 with
    | some w => coreStore w.1 w.2 e.2 (pz.contains (e.1 / 32)) st
    | none => st) s

/-- Step 6: apply a packet of a job's context (R311). What a WRITE, ADD, SIGNAL or READ_RESP brings is visible before the packet is
acknowledged (R303). -/
def applyPkt (n : Nat) (c : Ctx) (p : Pkt) (s : State) : State :=
  let g := Agent.rxOf 5
  if p.op = 1 then
    if (windowAt p.addr).isSome then windowStore p.addr p.payload (pktPoison p) s
    else if p.noAlloc then engineWrite g c.owner true p.addr p.payload (pktPoison p) s
    else floorWrite g c.owner p.addr p.payload (pktPoison p) s
  else if p.op = 2 then
    wakeWaits p.addr p.payload.length (engineReduce g c.owner p.noAlloc (redOpCode p.redOp) (redTyCode p.redTy) (addOps p) s)
  else if p.op = 3 then
    wakeWaits p.addr 8
      (engineReduce g c.owner false .add .int64 [⟨0, p.addr, BitVec.ofNat 64 (leNat p.payload), 0, false, false⟩] s)
  else if p.op = 4 then
    let k := pktSpan p
    let (s1, bs, pz) := floorRead (Agent.of 5) c.owner p.addr k s
    onCtx n (fun x => { x with queue := x.queue ++ [.reply (fieldAt p.payload 8 8) bs (payloadPoison p.addr k pz)] }) s1
  else
    let s1 := floorWrite g c.owner p.addr p.payload (pktPoison p) s
    if p.last then
      match c.replies.find? (fun r => decide (r.1 ≤ p.addr ∧ p.addr + p.payload.length = r.1 + r.2)) with
      | some r => progGot n r (onCtx n (fun x => { x with replies := x.replies.erase r }) s1)
      | none => s1
    else s1

/-- An accepted packet: RCV_NXT advances; an ACK goes out after the eighth, or after one with ACK_REQ, else within 2 µs (R302, R303). A
mirror packet with a record still to be applied is not acknowledged yet. -/
def accepted (n : Nat) (p : Pkt) (s : State) : State :=
  let s1 := onCtx n (fun x => { x with
    rcvNxt := psnAdd x.rcvNxt 1
    unackedRx := x.unackedRx + 1
    ackDueNs := some (x.ackDueNs.getD (s.nowNs + 2000)) }) s
  let held := match mirrorTower s1 n with
    | some t => (s1.twin.get t).rxHeld.isSome
    | none => false
  match tabGet s1.fab.ctxs n with
  | none => s1
  | some c => if !held && (p.ackReq || decide (8 ≤ c.unackedRx)) then sendAck n s1 else s1

/-- A NACK that answers a packet, counted at the port it came in by. -/
def refuse (port n : Nat) (p : Pkt) (cause ackPsn : Nat) (s : State) : State :=
  ctrFab port 4 1 (sendNack n p.src p.srcCtx cause ackPsn s)

/-- An ACK_PSN that has arrived: what it covers is acknowledged for the context, the programs and the mirror stream. -/
def takeAck (n ackPsn : Nat) (s : State) : State :=
  let s1 := progAcked n ackPsn (onCtx n (ackCtx s.nowNs ackPsn) s)
  match mirrorTower s1 n with
  | some t => mirrorAcked t ackPsn s1
  | none => s1

/-- Steps 3 to 6 of Table 10.10 for a packet whose context stands and whose peer agrees. -/
def receiveData (port n : Nat) (c : Ctx) (p : Pkt) (s0 : State) : State :=
  let s := traceFabric 6 n port c p s0
  if underReset s c.tower then refuse port n p 2 c.rcvNxt s
  else if c.mirror = false ∧ s.gate.pwr = .rest then refuse port n p 3 c.rcvNxt s
  else
    let s1 := takeAck n p.ackPsn s
    let d := psnDiff c.rcvNxt p.psn
    if d ≠ 0 then
      if 2 ^ 31 ≤ d then sendAck n s1
      else
        let due := match c.nackNs with
          | some k => decide (k + 4000 ≤ s.nowNs)
          | none => true
        if due then refuse port n p 1 (ackablePsn s1 c) (onCtx n (fun x => { x with nackNs := some s.nowNs }) s1) else s1
    else if c.mirror then
      if p.op = 1 ∧ pktSized s.fab.cfg p then
        (match rxPacket c.tower p s1 with
         | (s2, true) => accepted n p s2
         | (s2, false) => refuse port n p 4 c.rcvNxt s2)
      else refuse port n p 4 c.rcvNxt s1
    else if accessOk s1 c p then accepted n p (applyPkt n c p s1)
    else refuse port n p 4 c.rcvNxt s1

/-- A packet has been marked CE: in IPV6 in the traffic class, in RAW in FLAGS. -/
def isCe (c : PortCfg) (p : Pkt) : Bool := decide ((if isIpv6 c then (p.outer.ip.map (·.tclass)).getD 0 else p.ecn) % 4 = 3)

/-- CNP for a CE-marked packet, at most once per 8 µs for a context (R307), and none while its tower is under reset (R312). -/
def answerCe (port n : Nat) (c : Ctx) (p : Pkt) (s : State) : State :=
  let due := match c.cnpNs with
    | some k => decide (k + 8000 ≤ s.nowNs)
    | none => true
  if isCe s.fab.cfg p && due && !underReset s c.tower then
    ctrFab port 5 1 (netSend { ctxPkt s n c 8 0 with ackPsn := 0 } (onCtx n (fun x => { x with cnpNs := some s.nowNs }) s))
  else s

/-- An ACK, NACK or CNP for a context (R304, R305, R308). Nothing is resent while its tower is under reset (R312). -/
def receiveControl (n : Nat) (c : Ctx) (p : Pkt) (s : State) : State :=
  if p.op = 8 then applyCnp n s
  else if p.op = 6 then
    takeAck n p.ackPsn (if c.state = .waiting then onCtx n (fun x => { x with state := .openS, timerNs := s.nowNs }) s else s)
  else
    let cause := p.addr % 2 ^ 16
    if cause = 1 then
      let s1 := takeAck n p.ackPsn s
      match tabGet s1.fab.ctxs n with
      | some x => if underReset s1 c.tower then s1 else resend n x.unacked.length s1
      | none => s1
    else if cause = 2 ∨ cause = 3 then enterWaiting n cause s
    else if cause = 4 then ctxError n evFieldViolation 6 p.ackPsn s
    else s

/-- A packet for this device at its endpoint (Table 10.10, steps 1 and 2). -/
def receive (port : Nat) (p : Pkt) (s : State) : State :=
  if !crcOk s.fab.cfg p || !udpOk p then ctrFab port 7 1 s
  else
    let n := p.dstCtx
    match tabGet s.fab.ctxs n with
    | none => if p.op ≤ 5 then refuse port n p 3 0 s else s
    | some c =>
      let s1 := fetchCtx n c.tower s
      if c.peerDev ≠ p.src ∨ c.peerCtx ≠ p.srcCtx then ctrFab port 8 1 s1
      else if c.state = .error then (if p.op ≤ 5 then refuse port n p 3 c.rcvNxt s1 else s1)
      else if p.op ≤ 5 then receiveData port n c p (answerCe port n c p s1)
      else receiveControl n c p s1

/-- The switch takes the packets of a floor's ports that are up, and those of the device itself, once the device has an ID: link-local
operations are not routed, reserved ones and frames of another encapsulation are dropped (R291, R293, R295, R297). -/
def switchTakes (s : State) (port : Nat) (p : Pkt) : Bool :=
  s.fab.devId.isSome && decide (s.gate.pwr ≠ .dark ∧ 1 ≤ p.op ∧ p.op ≤ 8) && framed s.fab.cfg p
    && (portUp s port || decide (port = selfPort))

/-- A packet that the switch has taken: one for this device goes to its endpoint, any other takes its route, unless it has passed 16
devices (R298). -/
def switchPkt (port : Nat) (p : Pkt) (s : State) : State :=
  if some p.dst = s.fab.devId then receive port p s
  else if 16 ≤ p.hops then ctrFab port 9 1 s
  else match routeChoice s p.dst (pktHash p) with
    | none => ctrFab port 9 1 s
    | some (l, remote) => ctrFab l 2 (frameBytes s.fab.cfg p) (egressSend l (redress s l remote p) s)

/-- An arriving packet: it must fit the port's receive buffer (R309). -/
def arrive (port : Nat) (p : Pkt) (s : State) : State :=
  if !switchTakes s port p then s
  else if port = selfPort then switchPkt port p s
  else if !rxFits s port p then ctrFab port 6 1 s
  else switchPkt port p (rxEnter port p s)

def execFrameForward (port : Nat) (p : Pkt) (s : State) : Host.Outcome State Fault Refusal := .next (arrive port p s)

/-- An arrival of one operation. -/
def arriveOp (op port : Nat) (p : Pkt) (s : State) : State := if p.op = op then arrive port p s else s

def execWrite (port : Nat) (p : Pkt) (s : State) : Host.Outcome State Fault Refusal := .next (arriveOp 1 port p s)
def execAdd (port : Nat) (p : Pkt) (s : State) : Host.Outcome State Fault Refusal := .next (arriveOp 2 port p s)
def execSignal (port : Nat) (p : Pkt) (s : State) : Host.Outcome State Fault Refusal := .next (arriveOp 3 port p s)
def execReadReq (port : Nat) (p : Pkt) (s : State) : Host.Outcome State Fault Refusal := .next (arriveOp 4 port p s)
def execReadResp (port : Nat) (p : Pkt) (s : State) : Host.Outcome State Fault Refusal := .next (arriveOp 5 port p s)
def execAck (port : Nat) (p : Pkt) (s : State) : Host.Outcome State Fault Refusal := .next (arriveOp 6 port p s)
def execNack (port : Nat) (p : Pkt) (s : State) : Host.Outcome State Fault Refusal := .next (arriveOp 7 port p s)
def execCnp (port : Nat) (p : Pkt) (s : State) : Host.Outcome State Fault Refusal := .next (arriveOp 8 port p s)

/-- MIRROR_DELTA_RECORD: a WRITE that arrives for a mirror context of this device. -/
def mirrorDeltaRecord (port : Nat) (p : Pkt) (s : State) : State :=
  if some p.dst = s.fab.devId ∧ (mirrorTower s p.dstCtx).isSome then arriveOp 1 port p s else s

def execMirrorDeltaRecord (port : Nat) (p : Pkt) (s : State) : Host.Outcome State Fault Refusal := .next (mirrorDeltaRecord port p s)

end Sys2Proof.Machine
end

