-- ==== Sys2Proof/Machine/Ports.lean ====
section
/-! DEFINITION. Ports, neighbours, cable modules, PFC, and the FAB commands (10_fabric.md R284 to R290, R309, R321 to R327;
14_bringup.md R429, R432, R433). -/

namespace Sys2Proof.Machine

/-! ### READY (R433) -/

/-- S9 has passed: the device is at S10, ACTIVE at point 0, with its gate running from now (R384, R433). -/
def enterReady (s : State) : State :=
  let startUs := s.boot.elapsedUs
  noteStatus s { s with
    boot := { s.boot with
      stage := 10, failed := false, code := 0
      stages := tabPut (tabPut s.boot.stages 9 ⟨startUs, s.nowNs / 1000 - startUs, 0, 0⟩) 10 ⟨s.nowNs / 1000, 0, 0, 0⟩
      elapsedUs := s.nowNs / 1000 }
    gate := { s.gate with pwr := .active, commandedDark := false, cmdPoint := 0, on := true, windowNs := (s.nowNs / 10000 + 1) * 10000 } }

/-! ### Link state (R287) -/

/-- A module that holds down a port of a mode: an earlier CMIS revision, or no application for the mode (R290). -/
def moduleRefuses (r : CmisReport) (mode : Nat) : Bool := r.present && (!r.revisionOk || !r.applications.contains mode)

/-- What a connector's report says of a port in `mode`. -/
def Port.plugged (r : CmisReport) (mode : Nat) (p : Port) : Port :=
  { p with
    modulePresent := r.present, moduleMismatch := moduleRefuses r mode, moduleFault := r.present && r.fault
    cableSerial := if r.present then sliceBytes r.serial 0 16 else List.replicate 16 0x20#8 }

/-- A port being trained, its neighbour and delay unknown. -/
def Port.fresh (s : State) (l : Nat) : Port :=
  let p : Port :=
    { link := .training, enabled := true, upNs := 0, attemptNs := s.nowNs, neighbor := none, discoverWait := false, discoverSent := 0,
      discoverNs := 0, delayNs := 0, delaySamples := [], delayT1 := none, fecCorr := 0, fecUncorr := 0, paused := 0, held := [],
      egressDepth := [0, 0, 0, 0], egressNs := s.nowNs, capSent := [], rx := [0, 0, 0, 0], xoff := 0, modulePresent := false,
      moduleMismatch := false, moduleFault := false, cableSerial := List.replicate 16 0x20#8 }
  match tabGet s.fab.modules (l / 8) with
  | some r => p.plugged r (portMode s.fab.cfg l)
  | none => p

/-- A cable module holds the port down (R290). -/
def Port.blocked (p : Port) : Bool := p.moduleMismatch || p.moduleFault

/-- The carrier names a cage at a connector (Table 14.10). -/
def hasCage (s : State) (fx : Nat) : Bool :=
  s.boot.carrierRead && match s.flash.carrierEeprom with
    | some e => decide (fx < 6 ∧ e.getD (0x20 + 4 * fx) 0xFF#8 ≠ 0xFF#8)
    | none => false

/-- The two things the device writes to a module: low power, released where a port of the connector is enabled, and the applications of
its two port modes (R290). -/
def cmisWrite (fx : Nat) (low : Bool) (s : State) : State :=
  let mode := fun k => s.fab.cfg.modes.getD (2 * fx + k) 0 % 8
  if hasCage s fx then s.emit (.cmisControl fx (low || decide (mode 0 = 0 ∧ mode 1 = 0)) ⟨mode 0, mode 1⟩) else s

/-- The same to every connector. -/
def cmisApply (low : Bool) (s : State) : State := (List.range 6).foldl (fun st fx => cmisWrite fx low st) s

/-- A logical port that a lane of the fuse map leaves permanently down (R419). -/
def laneLost (s : State) (l : Nat) : Bool :=
  s.fuses.defects.any (fun d => decide (d.kind = 4 ∧ l ≤ d.index ∧ d.index < l + portLanes s.fab.cfg l))

/-- Every configured logical port starts training (R285, R322, R429), but for those that a lane keeps down. -/
def startPorts (s : State) : State :=
  cmisApply false (s.onFab (fun x => { x with
    ports := ((List.range 48).filter (fun l => isLogical x.cfg l && !laneLost s l)).map (fun l =>
      let p := Port.fresh s l
      (l, if p.blocked then { p with link := .down } else p)) }))

/-- Ports and switches stop (R297, R393). -/
def stopPorts (s : State) : State :=
  cmisApply true (s.onFab (fun x => { x with ports := x.ports.map (fun e => (e.1, { Port.fresh s e.1 with link := .down, enabled := false })) }))

/-- A port goes down: LINK_DOWN where it was up; it retrains at once unless its module holds it down. -/
def portDown (l cause : Nat) (s : State) : State :=
  match tabGet s.fab.ports l with
  | none => s
  | some p =>
    let q := Port.fresh s l
    let s1 := onPort l (fun _ => if q.blocked then { q with link := .down } else { q with fecCorr := p.fecCorr, fecUncorr := p.fecUncorr }) s
    if p.link = .up then
      postNotice evLinkDown 0 (fabricDetail s evLinkDown (towerOf (l / 24)) l cause 0 0xFFFF 0xFFFF 0xFFFF 0) s1
    else s1

/-- PORT_LINK_LOSS. -/
def portLinkLoss (l : Nat) (s : State) : State := if portUp s l then portDown l 1 s else s

def execPortLinkLoss (port : Nat) (s : State) : Host.Outcome State Fault Refusal := .next (portLinkLoss port s)

/-- FEC_UNCORRECTABLE_LIMIT: more than 1,024 uncorrectable codewords within 1 ms. -/
def fecLimit (l : Nat) (s : State) : State :=
  if portUp s l then portDown l 2 (onPort l (fun p => { p with fecUncorr := min 0xFFFFFFFF (p.fecUncorr + 1025) }) s) else s

def execFecUncorrectableLimit (port : Nat) (s : State) : Host.Outcome State Fault Refusal := .next (fecLimit port s)

/-- A port that may start an attempt: enabled, down, not held down by its module. -/
def mayTrain (p : Port) : Bool := p.enabled && decide (p.link = .down) && !p.blocked

/-- PORT_RETRAIN_ATTEMPT: 1 s after the start of the last one. -/
def portRetrain (l : Nat) (s : State) : State :=
  match tabGet s.fab.ports l with
  | some p =>
    if mayTrain p then
      let s1 := s.timeTo (p.attemptNs + 1000000000)
      onPort l (fun q => { q with link := .training, attemptNs := s1.nowNs }) s1
    else s
  | none => s

def execPortRetrainAttempt (port : Nat) (s : State) : Host.Outcome State Fault Refusal := .next (portRetrain port s)

/-- PORT_SIGNAL_DETECT: an attempt starts at once, and the cycle restarts from it. -/
def portSignal (l : Nat) (s : State) : State :=
  match tabGet s.fab.ports l with
  | some p => if mayTrain p then onPort l (fun q => { q with link := .training, attemptNs := s.nowNs }) s else s
  | none => s

def execPortSignalDetect (port : Nat) (s : State) : Host.Outcome State Fault Refusal := .next (portSignal port s)

/-! ### FAB.TOPO_EXPECT (R325, R432) -/

/-- The status of an expectation (16 spaces where this end has no managed module). -/
def topoStatus (s : State) (e : List Byte) : Nat :=
  let fl := fieldAt e 2 1
  match tabGet s.fab.ports (fieldAt e 0 1) with
  | none => if bitOf fl 2 then 0 else if bitOf fl 0 then 6 else 0
  | some p =>
    if bitOf fl 2 then (if p.neighbor.isSome then 5 else 0)
    else if p.link ≠ .up then (if bitOf fl 0 then 6 else 0)
    else match p.neighbor with
      | none => 1
      | some n =>
        if n.serial.take 12 ≠ sliceBytes e 4 12 then 2
        else if n.port ≠ fieldAt e 1 1 then 3
        else if bitOf fl 1 && decide (p.cableSerial ≠ sliceBytes e 0x10 16) then 4
        else 0

/-- Entries of the command. -/
def topoEntries (c : Cmd) : List (List Byte) := (List.range (par c 0 2)).map (fun i => sliceBytes c.params (8 + 32 * i) 32)

/-- No named port is still training or in its DISCOVER window. -/
def topoSettled (s : State) (c : Cmd) : Bool :=
  (topoEntries c).all (fun e => match tabGet s.fab.ports (fieldAt e 0 1) with
    | some p => decide (p.link ≠ .training) && !(decide (p.link = .up) && p.discoverWait)
    | none => true)

/-- Compare and complete: mismatches are posted; S9 passes on a full match, else stays failed. -/
def topoJudge (c : Cmd) (s : State) : State :=
  let st := (topoEntries c).map (fun e => (fieldAt e 0 1, topoStatus s e))
  let bad := st.filter (fun x => decide (x.2 ≠ 0))
  let s1 := bad.foldl (fun x b =>
    postNotice evTopologyMismatch 0 (fabricDetail x evTopologyMismatch (towerOf (b.1 / 24)) b.1 b.2 0 0xFFFF
      ((((tabGet x.fab.ports b.1).bind (·.neighbor)).map (·.dev)).getD 0xFFFF) 0xFFFF 0) x) (s.onFab (fun f => { f with topoHeld := none }))
  let s2 := complete c stDone (leBytes st.length 2 ++ leBytes bad.length 2 ++ leBytes 0 4 ++ st.map (fun x => BitVec.ofNat 8 x.2)) s1
  if s2.boot.stage = 9 then
    (if bad = [] then enterReady s2 else noteStatus s2 (s2.onBoot (fun b => { b with failed := true, code := 0x9001 })))
  else s2

/-- A zone at or above throttle makes a running stage wait (R418). -/
def stageWaits (s : State) : Bool := decide (s.boot.stage < 10) && s.therm.level.any (fun e => decide (2 ≤ e.2))

/-- Judge a held FAB.TOPO_EXPECT once S9 has begun and its ports have settled. -/
def topoTry (s : State) : State :=
  match s.fab.topoHeld.bind (fun mb => startedCmd s mb 0x0403) with
  | some c => if 9 ≤ s.boot.stage ∧ topoSettled s c ∧ !stageWaits s then topoJudge c s else s
  | none => s

/-- FAB.TOPO_EXPECT. -/
def fabTopoExpect (c : Cmd) (s : State) : State :=
  let n := par c 0 2
  let es := topoEntries c
  judged c
    [(decide (c.length < 8) || (decide (n ≤ 48) && decide (c.length ≠ 8 + 32 * n)), stBadLength),
     (hdrBad c || decide (n = 0 ∨ 48 < n) || parRes c 2 6
        || es.any (fun e => decide (48 ≤ fieldAt e 0 1 ∨ 8 ≤ fieldAt e 2 1 ∨ fieldAt e 3 1 ≠ 0)), stBadField),
     (decide (s.boot.stage < 8) || decide (s.boot.stage = 10 ∧ s.jobs.jobs ≠ []) || s.fab.topoHeld.isSome, stWrongState)]
    s
    (let s1 := (markStarted c s).onFab (fun x => { x with topoHeld := some c.mb })
     topoTry (if s1.boot.stage = 9 then noteStatus s1 (s1.onBoot (fun b => { b with failed := false })) else s1))

def execFabTopoExpect (mb : Nat) (s : State) : Host.Outcome State Fault Refusal := .next (runCmd 0x0403 mb fabTopoExpect s)

/-! ### Link-up, DELAY and DISCOVER (R288, R289) -/

/-- The two time stamps of a DELAY frame: t₁ and 0 in a request, t₂ and t₃ in its answer (DEDUCED, log 75). -/
def stampBytes (a b : Nat) : List Byte := leBytes a 8 ++ leBytes b 8

/-- PORT_TRAINING_END. -/
def portTrainingEnd (l : Nat) (up : Bool) (s : State) : State :=
  match tabGet s.fab.ports l with
  | none => s
  | some p =>
    if p.link ≠ .training then s
    else if up then
      topoTry (linkSend l 0x0B (stampBytes s.nowNs 0) (onPort l (fun q => { q with
        link := .up, upNs := s.nowNs, neighbor := none, discoverWait := true, discoverSent := 0, discoverNs := s.nowNs, delaySamples := []
        delayT1 := some s.nowNs, fecCorr := 0, fecUncorr := 0 }) s))
    else topoTry (onPort l (fun q => { q with link := .down }) s)

def execPortTrainingEnd (port : Nat) (up : Bool) (s : State) : Host.Outcome State Fault Refusal := .next (portTrainingEnd port up s)

/-- DELAY_REQ: answered at once, with the time it came and the time the answer leaves. -/
def delayReq (l at_ : Nat) (s : State) : State :=
  if portUp s l then let s1 := s.timeTo at_; linkSend l 0x0C (stampBytes at_ s1.nowNs) s1 else s

def execDelayReq (port _t1 at_ : Nat) (s : State) : Host.Outcome State Fault Refusal := .next (delayReq port at_ s)

/-- Insert into a rising list. -/
def insertInt (x : Int) : List Int → List Int
  | [] => [x]
  | y :: r => if x ≤ y then x :: y :: r else y :: insertInt x r

/-- Median of 16 samples: the mean of the middle two, in whole ns, rounded down (DEDUCED, log 75). -/
def median16 (xs : List Int) : Nat :=
  let ys := xs.foldr insertInt []
  ((ys.getD 7 0 + ys.getD 8 0) / 2).toNat

/-- DELAY_RESP: one of 16 exchanges; the last sets the delay, any other is followed by the next request. -/
def delayResp (l t2 t3 at_ : Nat) (s : State) : State :=
  match tabGet s.fab.ports l with
  | none => s
  | some p =>
    match p.delayT1 with
    | none => s
    | some t1 =>
      let s1 := s.timeTo at_
      let x := (((at_ : Int) - (t1 : Int)) - ((t3 : Int) - (t2 : Int))) / 2
      let xs := p.delaySamples ++ [x]
      if xs.length < 16 then
        linkSend l 0x0B (stampBytes s1.nowNs 0) (onPort l (fun q => { q with delaySamples := xs, delayT1 := some s1.nowNs }) s1)
      else onPort l (fun q => { q with delaySamples := [], delayT1 := none, delayNs := median16 xs }) s1

def execDelayResp (port t2 t3 at_ : Nat) (s : State) : Host.Outcome State Fault Refusal := .next (delayResp port t2 t3 at_ s)

/-- MODULE_SERIAL of the module EEPROM (Table 14.9). -/
def moduleSerial (s : State) : List Byte := sliceBytes s.flash.moduleEeprom 8 16

/-- DISCOVER_SEND: ten at 100 ms intervals after link-up, then one every 10 s. -/
def discoverSend (l : Nat) (s : State) : State :=
  match tabGet s.fab.ports l with
  | none => s
  | some p =>
    if p.link ≠ .up then s
    else
      let s1 := s.timeTo p.discoverNs
      let n := p.discoverSent + 1
      linkSend l 0x0A (discoverBytes
          { familyId := 0x00A7, member := 0x0009, devId := devField s, port := l, ready := decide (s.boot.stage = 10),
            moduleSerial := moduleSerial s, cableSerial := p.cableSerial })
        (onPort l (fun q => { q with discoverSent := n, discoverNs := s1.nowNs + (if n < 10 then 100000000 else 10000000000) }) s1)

def execDiscoverSend (port : Nat) (s : State) : Host.Outcome State Fault Refusal := .next (discoverSend port s)

/-- DISCOVER: its sender is the port's neighbour. -/
def discoverIn (l : Nat) (d : Discover) (s : State) : State :=
  if portUp s l then
    topoTry (onPort l (fun q => { q with
      neighbor := some { familyId := d.familyId, member := d.member, dev := d.devId, port := d.port, serial := d.moduleSerial }
      discoverWait := false }) s)
  else s

def execDiscover (port : Nat) (d : Discover) (s : State) : Host.Outcome State Fault Refusal := .next (discoverIn port d s)

/-- DISCOVER_TIMEOUT: none came within 2 s of link-up. -/
def discoverTimeout (l : Nat) (s : State) : State :=
  match tabGet s.fab.ports l with
  | none => s
  | some p =>
    if p.link = .up ∧ p.discoverWait then
      topoTry (onPort l (fun q => { q with discoverWait := false }) (s.timeTo (p.upNs + 2000000000)))
    else s

def execDiscoverTimeout (port : Nat) (s : State) : Host.Outcome State Fault Refusal := .next (discoverTimeout port s)

/-! ### Cable modules, PFC, Neighbor Solicitation (R290, R293, R309) -/

/-- What a connector's report makes of one of its ports. -/
def cmisPort (r : CmisReport) (l : Nat) (s : State) : State :=
  match tabGet s.fab.ports l with
  | none => s
  | some p =>
    let q := p.plugged r (portMode s.fab.cfg l)
    let s1 := onPort l (fun _ => q) s
    if !p.enabled then s1
    else if q.moduleMismatch && !p.moduleMismatch then portDown l 4 s1
    else if (q.moduleFault && !p.moduleFault) || (p.modulePresent && !r.present) then portDown l 3 s1
    else s1

/-- CMIS_POLL: once a second the flags and temperature of each module are read and its copy refreshed; an empty cage is polled. A module
found where none was has its low power and applications written. -/
def cmisPoll (fx : Nat) (r : CmisReport) (s : State) : State :=
  if !hasCage s fx ∨ s.gate.pwr = .dark ∧ s.boot.stage = 10 then s
  else
    let s1 := match tabGet s.fab.cmisNs fx with
      | some k => s.timeTo (k + 1000000000)
      | none => s
    let found := r.present && !((tabGet s.fab.modules fx).map (·.present)).getD false
    let s2 := s1.onFab (fun x => { x with
      cmisNs := tabPut x.cmisNs fx s1.nowNs, modules := tabPut x.modules fx { r with bytes := [] }
      cmis := if r.present then tabPut x.cmis fx (r.bytes.foldl (fun m b => memPut m b.1 b.2) []) else tabDel x.cmis fx })
    let s3 := (List.range 8).foldl (fun st i => cmisPort r (8 * fx + i) st) s2
    topoTry (if found && s.fab.ports.any (fun e => decide (e.1 / 8 = fx) && e.2.enabled) then cmisWrite fx false s3 else s3)

def execCmisPoll (fx : Nat) (r : CmisReport) (s : State) : Host.Outcome State Fault Refusal := .next (cmisPoll fx r s)

/-- PFC_FRAME: a class with PFC in effect pauses or goes on, and what was held leaves as there is room. -/
def pfcFrame (l cls : Nat) (xoff : Bool) (s : State) : State :=
  match tabGet s.fab.ports l with
  | none => s
  | some p =>
    if 2 ≤ cls ∨ !bitOf s.fab.cfg.pfcMask cls then s
    else
      let s1 := onPort l (fun q => { q with
        egressDepth := drained s l p, egressNs := s.nowNs
        paused := if xoff then q.paused ||| 2 ^ cls else q.paused - (q.paused &&& 2 ^ cls) }) s
      if xoff then s1 else releaseHeld l s1

def execPfcFrame (port cls : Nat) (xoff : Bool) (s : State) : Host.Outcome State Fault Refusal := .next (pfcFrame port cls xoff s)

/-- NEIGHBOR_SOLICITATION for an address of this device's own ports. -/
def neighborSolicit (l dev port : Nat) (s : State) : State :=
  if portUp s l ∧ s.fab.cfg.encap = 1 ∧ s.fab.devId = some dev ∧ isLogical s.fab.cfg port then
    s.emit (.neighborAdvert l (ip6Of s.fab.cfg dev port) (macOf dev port))
  else s

def execNeighborSolicitation (port targetDev targetPort : Nat) (s : State) : Host.Outcome State Fault Refusal :=
  .next (neighborSolicit port targetDev targetPort s)

/-! ### FAB.PORTS (R322) -/

/-- The settings of a parameter block: groups that FLAGS does not name keep theirs. -/
def portsOf (c : Cmd) (old : PortCfg) : PortCfg :=
  let fl := par c 0 4
  let bytes := fun (off n : Nat) => (List.range n).map (fun i => par c (off + i) 1)
  let a := if bitOf fl 0 then { old with modes := bytes 0x20 12 } else old
  let b := if bitOf fl 1 then { a with encap := par c 4 1, payload := par c 5 1, etherType := par c 6 2, udpPort := par c 8 2, vlan := par c 0xA 2, pfx := par c 0x18 8 } else a
  let d := if bitOf fl 2 then { b with pfcMask := par c 0xC 1, dscp := bytes 0x10 4, pcp := bytes 0x14 4 } else b
  if bitOf fl 3 then { d with gateways := (List.range 12).map (fun i => par c (0x30 + 6 * i) 6) } else d

/-- Values in range, mode 4 in pairs, one medium for a pair that shares it. -/
def portsBad (fl : Nat) (p : PortCfg) : Bool :=
  (bitOf fl 0 && (p.modes.any (fun m => decide (4 < m % 8 ∨ m / 8 % 2 ≠ 0 ∨ 2 < m / 16 % 4 ∨ 64 ≤ m))
      || (List.range 6).any (fun k =>
        let a := p.modes.getD (2 * k) 0; let b := p.modes.getD (2 * k + 1) 0
        decide ((a % 8 = 4 ∨ b % 8 = 4) ∧ a ≠ b))))
    || (bitOf fl 1 && decide (2 ≤ p.encap ∨ 3 ≤ p.payload ∨ p.etherType < 0x0600 ∨ p.etherType = 0x0800 ∨ p.etherType = 0x86DD
        ∨ p.etherType = 0x8100 ∨ p.etherType = 0x8808 ∨ p.udpPort = 0 ∨ 0xFFF ≤ p.vlan % 0x1000 ∨ p.vlan / 0x1000 % 8 ≠ 0))
    || (bitOf fl 2 && (decide (4 ≤ p.pfcMask) || p.dscp.any (fun d => decide (64 ≤ d)) || p.pcp.any (fun d => decide (8 ≤ d))))

/-- A port record (Table 10.16); a logical port that has not been started is down, and one that a lane keeps down has STATE 0 (R419). -/
def portRecord (s : State) (l : Nat) : List Byte :=
  match tabGet s.fab.ports l with
  | none =>
    let idle := isLogical s.fab.cfg l && !laneLost s l
    [if idle then 1 else 0, BitVec.ofNat 8 (if idle then portSpeed s.fab.cfg l else 0), 0xFF, 0] ++ leBytes 0xFFFF 2 ++ leBytes 0 10
  | some p =>
    let st := match p.link with
      | .down => 1
      | .training => 2
      | .up => 3
    leBytes st 1 ++ leBytes (portSpeed s.fab.cfg l) 1 ++ leBytes ((p.neighbor.map (·.port)).getD 0xFF) 1
      ++ leBytes ((if p.modulePresent then 1 else 0) + (if p.moduleMismatch then 2 else 0) + (if s.fab.cfg.pfcMask ≠ 0 then 4 else 0)) 1
      ++ leBytes ((p.neighbor.map (·.dev)).getD 0xFFFF) 2 ++ leBytes p.delayNs 2 ++ leBytes p.fecCorr 4 ++ leBytes p.fecUncorr 4

/-- The codewords that a port that is up has corrected, and failed to correct, since they were last counted: what its line does is open
(R287; log 75). -/
def countCodewords (s : State) : State :=
  { s with
    freeCtr := s.freeCtr + 96
    fab := { s.fab with ports := s.fab.ports.map (fun e => if e.2.link = .up then
      (e.1, { e.2 with fecCorr := min 0xFFFFFFFF (e.2.fecCorr + Config.openField (s.freeCtr + 2 * e.1))
                       fecUncorr := min 0xFFFFFFFF (e.2.fecUncorr + Config.openField (s.freeCtr + 2 * e.1 + 1)) }) else e) } }

/-- The result of FAB.PORTS. -/
def portsResult (s : State) : List Byte :=
  leBytes s.fab.cfg.encap 1 ++ leBytes s.fab.cfg.payload 1 ++ leBytes ((List.range 48).filter (portUp s)).length 2 ++ leBytes 0 12
    ++ (List.range 48).flatMap (portRecord s)

/-- FAB.PORTS. -/
def fabPorts (c : Cmd) (s : State) : State :=
  let fl := par c 0 4
  let p := portsOf c s.fab.cfg
  judged c
    [(decide (c.length ≠ 120), stBadLength),
     (hdrBad c || decide (16 ≤ fl) || parRes c 0xD 3 || parRes c 0x2C 4 || portsBad fl p, stBadField),
     (decide (fl % 4 ≠ 0 ∨ bitOf fl 3) && decide (s.jobs.jobs ≠ [] ∨ s.fab.ctxs ≠ []), stWrongState)]
    s
    (let s1 := if fl = 0 then s
        else { s with fab := { s.fab with cfg := p }, flash := { s.flash with ports := some p } }
     let s2 := countCodewords (if bitOf fl 0 then startPorts s1 else s1)
     topoTry (complete c stDone (portsResult s2) s2))

def execFabPorts (mb : Nat) (s : State) : Host.Outcome State Fault Refusal := .next (runCmd 0x0400 mb fabPorts s)

/-! ### FAB.SET_ID and FAB.ROUTES (R323, R324) -/

/-- FAB.SET_ID. -/
def fabSetId (c : Cmd) (s : State) : State :=
  let id := par c 0 2
  judged c
    [(decide (c.length ≠ 8), stBadLength),
     (hdrBad c || parRes c 2 6 || decide (8191 < id), stBadField),
     (decide (s.boot.stage ≠ 10 ∨ s.jobs.jobs ≠ [] ∨ s.fab.ctxs ≠ []), stWrongState),
     (s.fab.ports.any (fun e => decide ((e.2.neighbor.map (·.dev)) = some id)), stBadField)]
    s
    (complete c stDone [] (s.onFab (fun x => { x with devId := some id })))

def execFabSetId (mb : Nat) (s : State) : Host.Outcome State Fault Refusal := .next (runCmd 0x0401 mb fabSetId s)

/-- A route entry of 16 bytes. -/
def routeOf (bs : List Byte) : Route :=
  { valid := bitOf (fieldAt bs 0 1) 0, spray := bitOf (fieldAt bs 0 1) 1, count := fieldAt bs 1 1,
    egress := (List.range 4).map (fun i => fieldAt bs (4 + i) 1), remote := (List.range 4).map (fun i => fieldAt bs (8 + i) 1) }

/-- The entry's bytes. -/
def routeBytes (r : Option Route) : List Byte := match r with
  | none => leBytes 0 16
  | some r => leBytes ((if r.valid then 1 else 0) + (if r.spray then 2 else 0)) 1 ++ leBytes r.count 1 ++ leBytes 0 2
      ++ r.egress.flatMap (fun e => leBytes e 1) ++ r.remote.flatMap (fun e => leBytes e 1) ++ leBytes 0 4

/-- An entry that FAB.ROUTES refuses. -/
def routeBad (cfg : PortCfg) (bs : List Byte) : Bool :=
  let r := routeOf bs
  decide (4 ≤ fieldAt bs 0 1) || !zeroAt bs 2 2 || !zeroAt bs 0xC 4
    || (r.valid && (decide (r.count = 0 ∨ 4 < r.count) || (r.egress.take r.count).any (fun l => !isLogical cfg l)))

/-- FAB.ROUTES. -/
def fabRoutes (c : Cmd) (s : State) : State :=
  let first := par c 0 2; let n := par c 2 2; let rd := bitOf (par c 4 2) 0
  let es := (List.range n).map (fun i => sliceBytes c.params (8 + 16 * i) 16)
  judged c
    [(decide (c.length < 8) || (decide (1 ≤ n ∧ n ≤ 250) && decide (c.length ≠ (if rd then 8 else 8 + 16 * n))), stBadLength),
     (hdrBad c || decide (n = 0 ∨ 250 < n ∨ 2 ≤ par c 4 2 ∨ 8192 < first + n) || parRes c 6 2 || (!rd && es.any (routeBad s.fab.cfg)), stBadField),
     (s.fab.devId.isNone, stWrongState)]
    s
    (if rd then
      complete c stDone (leBytes first 2 ++ leBytes n 2 ++ leBytes 1 2 ++ leBytes 0 2
        ++ (List.range n).flatMap (fun i => routeBytes (tabGet s.fab.routes (first + i)))) s
     else
      complete c stDone [] (s.onFab (fun x => { x with
        routes := (es.foldl (fun (a : Nat × Tab Route) e =>
          (a.1 + 1, if e.all (· == 0#8) then tabDel a.2 a.1 else tabPut a.2 a.1 (routeOf e))) (first, x.routes)).2 })))

def execFabRoutes (mb : Nat) (s : State) : Host.Outcome State Fault Refusal := .next (runCmd 0x0402 mb fabRoutes s)

/-! ### FAB.CONTEXT (R326) -/

/-- A context's 32 bytes of QUERY. -/
def ctxRecord (s : State) (n : Nat) : List Byte := match tabGet s.fab.ctxs n with
  | none => leBytes n 2 ++ leBytes 0 30
  | some c =>
    let st := match c.state with
      | .openS => 1
      | .waiting => 2
      | .error => 3
    leBytes n 2 ++ leBytes st 1 ++ leBytes (towerNum c.tower) 1 ++ leBytes c.peerDev 2 ++ leBytes c.peerCtx 2 ++ leBytes c.sndNxt 4
      ++ leBytes c.sndUna 4 ++ leBytes c.rcvNxt 4 ++ leBytes (c.rate / 1000000) 4 ++ leBytes c.srttNs 4
      ++ leBytes (if c.mirror then 0 else c.owner) 2 ++ leBytes 0 2

/-- Entries repeat a key. -/
def repeats (xs : List Nat) : Bool := match xs with
  | [] => false
  | x :: r => r.contains x || repeats r

/-- Mesh of a SET_MESH block; none where it is malformed. -/
def meshOf (c : Cmd) : Option Mesh :=
  let n := par c 8 1
  let sizes := (List.range n).map (fun i => par c (0xC + 2 * i) 2)
  let coords := (List.range n).map (fun i => par c (0x14 + 2 * i) 2)
  let rows := (List.range n).map (fun a =>
    let off := (sizes.take a).foldl (· + ·) 0
    (List.range (sizes.getD a 0)).map (fun i => par c (0x20 + 2 * (off + i)) 2))
  let total := sizes.foldl (· + ·) 0
  if 1 ≤ n ∧ n ≤ 4 ∧ parRes c 9 3 = false ∧ parRes c 0x1C 4 = false ∧ parRes c (0xC + 2 * n) (8 - 2 * n) = false
      ∧ parRes c (0x14 + 2 * n) (8 - 2 * n) = false ∧ sizes.all (fun z => decide (1 ≤ z)) ∧ total ≤ 2000 ∧ sizes.foldl (· * ·) 1 ≤ 8192
      ∧ (sizes.zip coords).all (fun p => decide (p.2 < p.1))
      ∧ (rows.zip coords).all (fun p => (p.1.mapIdx (fun i v => if i = p.2 then decide (v = 0xFFFF) else decide (v < 0x4000))).all id) then
    some { sizes := sizes, coords := coords, peers := rows }
  else none

/-- Bytes a SET_MESH block must have. -/
def meshLength (c : Cmd) : Nat :=
  let n := min 4 (par c 8 1)
  0x20 + 2 * ((List.range n).map (fun i => par c (0xC + 2 * i) 2)).foldl (· + ·) 0

/-- Close contexts of a job and the indices that name them. -/
def closeCtxs (job : Nat) (ns : List Nat) (s : State) : State :=
  (s.onFab (fun x => { x with ctxs := x.ctxs.filter (fun e => !ns.contains e.1) })).onJob job (fun j => { j with
    ctxIndex := j.ctxIndex.filter (fun e => !ns.contains e.2) })

/-- FAB.CONTEXT. QUERY reads CTX alone and leaves the other fields of its entries unjudged (DEDUCED, log 65). -/
def fabContext (c : Cmd) (s : State) : State :=
  let act := par c 0 1; let n := par c 2 2
  let es := (List.range n).map (fun i => sliceBytes c.params (8 + 16 * i) 16)
  let ids := es.map (fun e => fieldAt e 0 2)
  let job := jobAt s c.job
  let lenBad := if act = 3 then decide (c.length < 0x20) || decide (c.length ≠ meshLength c)
    else decide (c.length < 8) || (decide (1 ≤ n ∧ n ≤ 250 ∧ act < 3) && decide (c.length ≠ 8 + 16 * n))
  let opened := fun (e : List Byte) =>
    decide (0x4000 ≤ fieldAt e 0 2 ∨ 0x4000 ≤ fieldAt e 2 2 ∨ 8191 < fieldAt e 4 2 ∨ 0x4000 ≤ fieldAt e 6 2 ∨ 2 ≤ fieldAt e 8 1
      ∨ 16 ≤ fieldAt e 9 1 ∨ 2 ≤ fieldAt e 0xA 1) || !zeroAt e 0xB 5
  let fieldBad := decide (4 ≤ act) || parRes c 1 1 || parRes c 4 4
    || (if act = 3 then decide (n ≠ 0) || (meshOf c).isNone
        else decide (n = 0 ∨ 250 < n ∨ (act = 2 ∧ 125 < n))
          || es.any (fun e => if act = 0 then opened e else decide (0x4000 ≤ fieldAt e 0 2) || (decide (act = 1) && !zeroAt e 2 14)))
  let useBad := match job with
    | none => false
    | some j =>
      if act = 0 then
        repeats ids || repeats (es.map (fun e => fieldAt e 2 2)) || es.any (fun e =>
          (tabGet s.fab.ctxs (fieldAt e 0 2)).isSome || (tabGet j.ctxIndex (fieldAt e 2 2)).isSome
            || !(towersOfPartition j.partition).contains (towerOf (fieldAt e 8 1)))
      else if act = 1 then ids.any (fun i => match tabGet s.fab.ctxs i with
        | some x => x.mirror || decide (x.owner ≠ c.job)
        | none => true)
      else false
  judged c
    [(lenBad, stBadLength), (hdrBad c || fieldBad || (decide (act ≠ 2) && job.isNone), stBadField),
     (decide (act ≠ 2) && (match job with
        | some j => decide (j.state = .armed ∨ j.state = .running)
        | none => false), stWrongState),
     (useBad, stBadField)]
    s
    (if act = 0 then
      complete c stDone [] (es.foldl (fun st e =>
        (openCtx (fieldAt e 0 2) c.job false (towerOf (fieldAt e 8 1)) (fieldAt e 4 2) (fieldAt e 6 2) (fieldAt e 9 1) (fieldAt e 0xA 1) st).onJob
          c.job (fun j => { j with ctxIndex := tabPut j.ctxIndex (fieldAt e 2 2) (fieldAt e 0 2) })) s)
     else if act = 1 then complete c stDone [] (closeCtxs c.job ids s)
     else if act = 2 then complete c stDone (ids.flatMap (ctxRecord s)) s
     else complete c stDone [] (s.onJob c.job (fun j => { j with mesh := meshOf c })))

def execFabContext (mb : Nat) (s : State) : Host.Outcome State Fault Refusal := .next (runCmd 0x0404 mb fabContext s)

/-! ### FAB.TICK_ROLE (R315, R327) -/

/-- A tree port that is not up, does not face a UZ9, or is too far. -/
def treePortBad (s : State) (l : Nat) : Bool := match tabGet s.fab.ports l with
  | none => true
  | some p => decide (p.link ≠ .up ∨ 500 < p.delayNs) || match p.neighbor with
    | some n => decide (n.familyId ≠ 0x00A7 ∨ n.member ≠ 0x0009)
    | none => true

/-- FAB.TICK_ROLE. -/
def fabTickRole (c : Cmd) (s : State) : State :=
  let role := par c 0 1; let up := par c 1 1; let path := par c 4 4; let down := par c 8 8
  let local_ := jobAt s c.job
  let ports := (if up < 48 then [up] else []) ++ portsOfMask down
  judged c
    [(decide (c.length ≠ 24), stBadLength),
     (hdrBad c || decide (4 ≤ role ∨ 2 ^ 48 ≤ down ∨ c.job = 0) || parRes c 2 2 || parRes c 0x10 8
        || (if role = 3 then decide (up ≠ 0xFF ∨ path ≠ 0 ∨ down ≠ 0)
            else (if role = 1 then decide (up ≠ 0xFF ∨ path = 0 ∨ 18000 < path) else decide (48 ≤ up ∨ path ≠ 0))
              || (if role = 2 then local_.isSome else local_.isNone)), stBadField),
     (match local_ with
        | some j => decide (j.state = .armed ∨ j.state = .running)
        | none => false, stWrongState),
     (decide (role ≠ 3) && ports.any (treePortBad s), stBadField),
     (decide (role ≠ 3 ∧ 64 ≤ s.jobs.roles.length ∧ (roleOf s c.job).isNone), stNoSpace)]
    s
    (let r : RoleRec := { role := if role = 1 then .master else if role = 2 then .relay else .follower, upPort := up, maxPathNs := path,
                          downMask := down }
     complete c stDone (leBytes (if role = 1 then settleUs path else 0) 4)
      (s.onJobs (fun x => { x with roles := if role = 3 then tabDel x.roles c.job else tabPut x.roles c.job r })))

def execFabTickRole (mb : Nat) (s : State) : Host.Outcome State Fault Refusal := .next (runCmd 0x0405 mb fabTickRole s)

end Sys2Proof.Machine
end

