-- ==== Sys2Proof/Machine/Crews.lean ====
section
/-! DEFINITION. Crews: dispatch and start, async copies and arrival counters, barriers, locks, and the exit of lanes (03_cores.md R79
to R84, R96 to R106; 09_tensors.md R264). -/

namespace Sys2Proof.Machine

/-! ### Occupancy and dispatch (R81, R82, R84) -/

/-- Gangs and lane registers of a quarter. -/
def quarterGangs (c : Core) (q : Nat) : Nat := c.gangs.countP (fun e => decide (e.2.quarter = q))
def quarterRegs (c : Core) (q : Nat) : Nat :=
  ((c.gangs.filter (fun e => decide (e.2.quarter = q))).map (fun e =>
    32 * ((tabGet c.crews (e.1 / 32)).map (fun w => w.kernel.regs)).getD 0)).foldl (· + ·) 0

/-- Place gangs one by one on the quarter with the most free slots and room for the registers, lowest on a tie. `load` holds gangs
and registers of each quarter. -/
def placeGangs (regs : Nat) : Nat → List (Nat × Nat) → Option (List Nat)
  | 0, _ => some []
  | n + 1, load =>
    let ok := fun q => let l := load.getD q (32, 0); decide (l.1 < 32) && decide (l.2 + 32 * regs ≤ 16384)
    let best := (List.range 4).foldl (fun (b : Option Nat) q =>
      if ok q then match b with
        | none => some q
        | some p => if (load.getD q (32, 0)).1 < (load.getD p (32, 0)).1 then some q else some p
      else b) none
    match best with
    | none => none
    | some q => (placeGangs regs n (load.set q ((load.getD q (32, 0)).1 + 1, (load.getD q (32, 0)).2 + 32 * regs))).map (q :: ·)

/-- Sum over the crews of a core. -/
def crewSum (c : Core) (f : Kernel → Nat) : Nat := (c.crews.map (fun e => f e.2.kernel)).foldl (· + ·) 0

/-- The quarters a crew's gangs would take on a core, none where it has no room (R84). -/
def roomFor (c : Core) (k : Kernel) (gangs : Nat) : Option (List Nat) :=
  if c.held ∨ 16 ≤ c.crews.length ∨ 512 < crewSum c (·.localKib) + k.localKib ∨ 16 < crewSum c (·.barriers) + k.barriers
      ∨ 64 < crewSum c (·.counters) + k.counters then none
  else placeGangs k.regs gangs ((List.range 4).map (fun q => (quarterGangs c q, quarterRegs c q)))

/-- Crews per core for crews of `g` gangs by the formula of R84. -/
def crewsPerCore (k : Kernel) (g : Nat) : Nat :=
  let gq := min 32 (if k.regs = 0 then 32 else 16384 / (32 * k.regs))
  let t := fun (lim d : Nat) (x : Nat) => if d = 0 then x else min x (lim / d)
  t 64 k.counters (t 16 k.barriers (t 512 k.localKib (min (4 * gq / g) 16)))

/-- GANG_START (R82). -/
def startGang (s : State) (d : Dispatch) (core slot g quarter : Nat) : Gang :=
  let tick := ((jobAt s d.job).map (·.tick)).getD 0
  let u := [(0, d.param), (1, d.param / 2 ^ 32), (2, d.next), (3, d.crews), (4, g), (5, d.gangs), (6, core), (7, slot), (8, tick),
    (9, tick / 2 ^ 32 % 65536)]
  { job := d.job, item := d.item, crew := slot, quarter := quarter,
    uregs := u.map (fun p => (p.1, BitVec.ofNat 32 p.2)), regs := [], poison := [], preds := [],
    frags := [(0, { pc := d.kernel.entry, mask := BitVec.allOnes 32, wait := .ready, calls := [], splits := [] })],
    exited := 0, draws := [], cvtFlags := 0, pend := [], order := 0, nextSplit := 0, stores := [],
    fenceWait := none }

/-- Start the next crew of an item on a core, whole (R81, R82, R84). -/
def startCrew (d : Dispatch) (core : Nat) (quarters : List Nat) (s : State) : State :=
  let c := coreAt s core
  let slot := ((List.range 16).find? (fun k => (tabGet c.crews k).isNone)).getD 0
  let first := if bitOf d.towers 0 then Tower.t0 else Tower.t1
  let idx := if towerOfCore core = first then core % 128 else (enabledCores s first).length + core % 128
  let crew : Crew :=
    { job := d.job, item := d.item, index := d.next, gangs := d.gangs, handle := d.handle, kernel := d.kernel,
      spillBase := d.spillBase, towers := d.towers, spillSlot := d.spillBase + (16 * idx + slot) * d.kernel.spillBytes,
      bars := [(0, { expect := 32 * d.gangs, phase := 0, arrived := [], lastPhase := [], stores := [] })], ctrs := [], lmem := [],
      lpoison := [], uid := s.cores.nextUid, exitedGangs := [] }
  let gs := quarters.mapIdx (fun i q => (slot * 32 + i, startGang s d core slot i q))
  onCore core (fun y => { y with
    crews := tabPut y.crews slot crew
    gangs := gs.foldl (fun m e => tabPut m e.1 e.2) y.gangs }) (s.onCores (fun x => { x with nextUid := x.nextUid + 1 }))

/-- The next core of a tower, round-robin, that has room (R81). -/
def nextCore (s : State) (d : Dispatch) (t : Tower) : Option (Nat × List Nat) :=
  let cs := enabledCores s t
  let n := cs.length
  (List.range n).findSome? (fun i =>
    let c := cs.getD ((d.lastCore.get t + 1 + i) % n) 0
    (roomFor (coreAt s c) d.kernel d.gangs).map (fun q => (c, q)))

/-- The tower and core of the item's next crew: the towers alternate while both have room. -/
def nextPlace (s : State) (d : Dispatch) : Option (Tower × Nat × List Nat) :=
  let ts := towersOfMask d.towers
  let order := if ts = bothTowers then [otherTower d.lastTower, d.lastTower] else ts
  order.findSome? (fun t => (nextCore s d t).map (fun p => (t, p.1, p.2)))

/-- Dispatch one crew of the first item that can place one. -/
def dispatchOne (s : State) : Option State :=
  s.cores.dispatch.findSome? (fun d =>
    (nextPlace s d).map (fun p =>
      let d1 := { d with next := d.next + 1, lastTower := p.1, lastCore := d.lastCore.set p.1 (p.2.1 % 128) }
      let s1 := startCrew d p.2.1 p.2.2 s
      s1.onCores (fun x => { x with
        dispatch := (x.dispatch.map (fun e => if e.job = d.job ∧ e.item = d.item then d1 else e)).filter (fun e =>
          decide (e.next < e.crews)) })))

/-- CREW_DISPATCH: crews start while some item has one that a core has room for; at most 4,096 crews are resident. -/
def dispatchCrews : Nat → State → State
  | 0, s => s
  | n + 1, s =>
    match dispatchOne s with
    | some s1 => dispatchCrews n s1
    | none => s

/-- A KERNEL item starts: its crews are dispatched from a core the manual leaves open (R81). -/
def startKernel (job item towers descAddr : Nat) (args : List Byte) (s : State) : State :=
  let handle := fieldAt args 0 2
  match (jobAt s job).bind (fun j => tabGet j.kernels handle) with
  | none => s
  | some k =>
    let at_ := fun t i => let n := (enabledCores s t).length; if n = 0 then 0 else Config.firstCore (s.freeCtr + i) % n
    let d : Dispatch :=
      { job := job, item := item, handle := handle, kernel := k, gangs := fieldAt args 2 1, crews := fieldAt args 4 4, next := 0,
        towers := towers, spillBase := fieldAt args 8 8, param := descAddr, lastCore := ⟨at_ .t0 0, at_ .t1 1⟩,
        lastTower := towerOf (Config.firstCore (s.freeCtr + 2) % 2) }
    dispatchCrews 4096 (s.draw.draw.draw.onCores (fun x => { x with dispatch := x.dispatch ++ [d] }))

/-! ### Fragments of a crew -/

/-- Change the gangs of a crew. -/
def onCrewGangs (slot : Nat) (f : Nat → Gang → Gang) (c : Core) : Core :=
  { c with gangs := c.gangs.map (fun e => if e.1 / 32 = slot then (e.1, f (e.1 % 32) e.2) else e) }

/-- Release the waiting fragments of a crew that a test picks: they go on at the next instruction. -/
def release (slot : Nat) (p : Wait → Bool) (c : Core) : Core :=
  onCrewGangs slot (fun _ y => settleGang { y with
    frags := y.frags.map (fun e => if p e.2.wait then (e.1, { e.2 with wait := .ready, pc := e.2.pc + 16 }) else e) }) c

/-! ### Arrival counters (R99) -/

/-- Value of a counter. -/
def ctrVal (c : Crew) (k : Nat) : W32 := tabGetD c.ctrs k 0#32

/-- (counter − n) is at least 0, read as signed. -/
def ctrReached (v n : W32) : Bool := decide (0 ≤ (v - n).toInt)

/-- Set a counter of a crew and release the fragments it satisfies. -/
def setCounter (core slot k : Nat) (v : W32) (s : State) : State :=
  onCore core (fun c =>
    release slot (fun w => match w with
      | .counter j n => decide (j = k) && ctrReached v n
      | _ => false) { c with crews := tabMod c.crews slot (fun y => { y with ctrs := tabPut y.ctrs k v }) }) s

/-- Add 1 to a counter of the crew with a number, if it is still resident. -/
def bumpCounter (core slot uid k : Nat) (s : State) : State :=
  match tabGet (coreAt s core).crews slot with
  | some c => if c.uid = uid then setCounter core slot k (ctrVal c k + 1#32) s else s
  | none => s

/-- A counter operand (R98, R110). -/
def counterChecked (a : Act) (k : Nat) (go : State) (s : State) : State :=
  if a.crew.kernel.counters ≤ k then illegal a 5 s else go

/-- ARV.SET and ARV.ADD. -/
def arvSet (g : FragRef) (c v : Src) (s : State) : State :=
  issueUniform g [c, v] (fun x st => counterChecked x (uniVal x c)
    (advance g (setCounter g.core g.slot (uniVal x c) (BitVec.ofNat 32 (uniVal x v)) st)) st) s

def execArvSet (g : FragRef) (c v : Src) (s : State) : Host.Outcome State Fault Refusal := .next (arvSet g c v s)

def arvAdd (g : FragRef) (c v : Src) (s : State) : State :=
  issueUniform g [c, v] (fun x st => counterChecked x (uniVal x c)
    (advance g (setCounter g.core g.slot (uniVal x c) (ctrVal x.crew (uniVal x c) + BitVec.ofNat 32 (uniVal x v)) st)) st) s

def execArvAdd (g : FragRef) (c v : Src) (s : State) : Host.Outcome State Fault Refusal := .next (arvAdd g c v s)

/-- ARV.WAIT. -/
def arvWait (g : FragRef) (c n : Src) (s : State) : State :=
  issueUniform g [c, n] (fun x st => counterChecked x (uniVal x c)
    (let m := BitVec.ofNat 32 (uniVal x n)
     if ctrReached (ctrVal x.crew (uniVal x c)) m then advance g st else waitFor g (.counter (uniVal x c) m) st) st) s

def execArvWait (g : FragRef) (c n : Src) (s : State) : Host.Outcome State Fault Refusal := .next (arvWait g c n s)

/-! ### Async copies (R97 to R99, R264) -/

/-- A byte count out of the range or not of the steps of R97; it faults as a misaligned operand does (DESIGN CHOICE, log 58). -/
def copyCountBad (n : Nat) : Bool := decide (n < 32) || decide (524288 < n) || decide (n % 32 ≠ 0)

/-- The global extent of a copy: the cause of its violation, if any. -/
def extentCause (s : State) (a : Act) (kind addr n : Nat) : Option Nat :=
  (pagesOf addr n).findSome? (fun p => accessCause s a kind (max p addr) (min (p + pageBytes) (addr + n) - max p addr))

/-- Requests of a core to the lines of a range that have not been served: a copy that reads them follows them (R202). -/
def coreStoresTo (s : State) (core addr n : Nat) : Bool :=
  bothTowers.any (fun t => (loftWaiting s t).any (fun r =>
    decide (r.core.map (·.1) = some core) && decide (addr < r.addr + 128 ∧ r.addr < addr + n) && (match r.kind with
      | .load _ => false
      | _ => true)))

/-- Put a copy in flight. -/
def addCopy (x : Act) (ctr : Nat) (toLocal toGlobal : Option (Nat × List Byte × List Nat)) (s : State) : State :=
  let id := s.cores.nextTag
  onCore x.g.core (fun c => { c with
    copies := c.copies ++ [{ id := id, slot := x.g.slot, uid := x.crew.uid, job := x.crew.job, item := x.crew.item, ctr := ctr,
                             toLocal := toLocal, toGlobal := toGlobal, landed := false }] })
    (s.onCores (fun y => { y with nextTag := id + 1 }))

/-- The async copy unit holds 256 copies: the gang waits at issue (R98). -/
def copyFull (s : State) (core : Nat) : Bool := decide (256 ≤ (coreAt s core).copies.length)

/-- Poisoned words of local memory that a range of bytes takes, at offsets from a destination. -/
def localWords (dst n : Nat) (bad : Nat → Bool) : List Nat :=
  ((List.range ((n + 31) / 32)).filter bad).flatMap (fun i => (List.range 8).map (fun w => dst / 4 + i * 8 + w))

/-- ACP.G2L. The source is read when the copy issues (DESIGN CHOICE, log 29). -/
def acpG2l (g : FragRef) (src : GAddr) (dst bytes ctr : Src) (s : State) : State :=
  issueUniform g [src.lo, src.hi, dst, bytes, ctr] (fun x st =>
    let a := gaddrVal x.gang 0 src; let d := uniVal x dst; let n := uniVal x bytes
    if mxstPending st g || copyFull st g.core || coreStoresTo st g.core a n then s
    else if copyCountBad n || decide (a % 32 ≠ 0) || decide (d % 32 ≠ 0) then coreFault x evCopyMisaligned x.frag.mask 0 st
    else match extentCause st x 0 a n with
      | some c => violation x c st
      | none =>
        if x.crew.kernel.localKib * 1024 < d + n then violation x 3 st
        else counterChecked x (uniVal x ctr)
          (let (st1, data, pz) := engineRead Agent.core x.crew.job a n st
           advance g (addCopy x (uniVal x ctr) (some (d, data, localWords d n (fun i => pz.contains (a / 32 + i)))) none st1)) st) s

def execAcpG2l (g : FragRef) (src : GAddr) (dst bytes ctr : Src) (s : State) : Host.Outcome State Fault Refusal :=
  .next (acpG2l g src dst bytes ctr s)

/-- Sectors of a destination whose source in local memory holds a poisoned word. -/
def localSectors (c : Crew) (src n dst : Nat) : List Nat :=
  ((List.range ((n + 31) / 32)).filter (fun i => lmemPoison c (src + 32 * i) 32)).map (fun i => dst / 32 + i)

/-- ACP.L2G. -/
def acpL2g (g : FragRef) (src : Src) (dst : GAddr) (bytes ctr : Src) (s : State) : State :=
  issueUniform g [src, dst.lo, dst.hi, bytes, ctr] (fun x st =>
    let a := uniVal x src; let d := gaddrVal x.gang 0 dst; let n := uniVal x bytes
    if mxstPending st g || copyFull st g.core then s
    else if copyCountBad n || decide (a % 32 ≠ 0) || decide (d % 32 ≠ 0) then coreFault x evCopyMisaligned x.frag.mask 0 st
    else match extentCause st x 1 d n with
      | some c => violation x c st
      | none =>
        if x.crew.kernel.localKib * 1024 < a + n then violation x 3 st
        else counterChecked x (uniVal x ctr)
          (advance g (addCopy x (uniVal x ctr) none (some (d, lmemRead x.crew a n, localSectors x.crew a n d)) st)) st) s

def execAcpL2g (g : FragRef) (src : Src) (dst : GAddr) (bytes ctr : Src) (s : State) : Host.Outcome State Fault Refusal :=
  .next (acpL2g g src dst bytes ctr s)

/-- ACP.L2L: an overlapping copy goes as through a buffer. -/
def acpL2l (g : FragRef) (src dst bytes ctr : Src) (s : State) : State :=
  issueUniform g [src, dst, bytes, ctr] (fun x st =>
    let a := uniVal x src; let d := uniVal x dst; let n := uniVal x bytes
    if mxstPending st g || copyFull st g.core then s
    else if copyCountBad n || decide (a % 32 ≠ 0) || decide (d % 32 ≠ 0) then coreFault x evCopyMisaligned x.frag.mask 0 st
    else if x.crew.kernel.localKib * 1024 < a + n ∨ x.crew.kernel.localKib * 1024 < d + n then violation x 3 st
    else counterChecked x (uniVal x ctr)
      (advance g (addCopy x (uniVal x ctr) (some (d, lmemRead x.crew a n,
        localWords d n (fun i => lmemPoison x.crew (a + 32 * i) 32))) none st)) st) s

def execAcpL2l (g : FragRef) (src dst bytes ctr : Src) (s : State) : Host.Outcome State Fault Refusal :=
  .next (acpL2l g src dst bytes ctr s)

/-- Read the rows of a box in order, elements beyond the tensor as zeros: the bytes, and the words of local memory they poison, a word
that takes one byte of a poisoned sector among them. -/
def boxRun (job d : Nat) (rows : List (Option Nat × Nat × Nat)) (s : State) : State × List Byte × List Nat :=
  rows.foldl (fun (acc : State × List Byte × List Nat) r =>
    match r.1 with
    | some a =>
      let (z, data, pz) := engineRead Agent.core job a r.2.1 acc.1
      let base := d + acc.2.1.length
      let bad := pz.flatMap (fun k => (cutRange 4 base r.2.1).filterMap (fun w =>
        if (a + (w.1 - base)) / 32 ≤ k ∧ k ≤ (a + (w.1 - base) + w.2 - 1) / 32 then some (w.1 / 4) else none))
      (z, acc.2.1 ++ data ++ List.replicate r.2.2 0#8, acc.2.2 ++ bad)
    | none => (acc.1, acc.2.1 ++ List.replicate r.2.2 0#8, acc.2.2)) (s, [], [])

/-- ACP.BOX: a box of a tensor whose descriptor lies in local memory, elements beyond the tensor as zeros (R264). A descriptor with
reserved values is taken as an undefined encoding (DEDUCED, log 27). -/
def acpBox (g : FragRef) (desc : Src) (origin extent : List Src) (dst ctr : Src) (s : State) : State :=
  issueUniform g ([desc, dst, ctr] ++ origin ++ extent) (fun x st =>
    let da := uniVal x desc
    let bs := lmemRead x.crew da 64
    let t := { tensorOf bs with shard := List.replicate 6 0 }
    let u := (unitOf t.dtype).1
    let o := origin.map (uniVal x); let e := extent.map (uniVal x); let d := uniVal x dst
    let rows := boxRows t o e
    let n := boxBytes t e
    let reads := rows.filterMap (fun r => r.1.map (fun a => (a, r.2.1)))
    let lo := (reads.map (·.1)).foldl min ((reads.head?.map (·.1)).getD 0)
    let hi := (reads.map (fun r => r.1 + r.2)).foldl max 0
    if mxstPending st g || copyFull st g.core || coreStoresTo st g.core lo (hi - lo) then s
    else if x.crew.kernel.localKib * 1024 < da + 64 then violation x 3 st
    else if lmemPoison x.crew da 64 then coreFault x evPoisonConsumed x.frag.mask 0 st
    else if !tensorOk (sliceBytes bs 0 0x39 ++ List.replicate 7 0) || decide (o.length < t.rank) || decide (e.length < t.rank) then illegal x 1 st
    else if !tensorAligned t || decide (da % 32 ≠ 0) || decide (d % 32 ≠ 0) || decide (o.getD 0 0 % u ≠ 0) || decide (e.getD 0 0 % u ≠ 0) then
      coreFault x evCopyMisaligned x.frag.mask 0 st
    else match (if reads = [] then none else extentCause st x 0 lo (hi - lo)) with
      | some c => violation x c st
      | none =>
        if x.crew.kernel.localKib * 1024 < d + n then violation x 3 st
        else counterChecked x (uniVal x ctr)
          (let run := boxRun x.crew.job d rows st
           advance g (addCopy x (uniVal x ctr) (some (d, run.2.1, run.2.2)) none run.1)) st) s

def execAcpBox (g : FragRef) (desc : Src) (origin extent : List Src) (dst ctr : Src) (s : State) :
    Host.Outcome State Fault Refusal := .next (acpBox g desc origin extent dst ctr s)

/-- Increment a counter for the landed copies at the head of its order. -/
def retireCopies (core slot uid ctr : Nat) : Nat → State → State
  | 0, s => s
  | n + 1, s =>
    match (coreAt s core).copies.find? (fun c => decide (c.slot = slot ∧ c.uid = uid ∧ c.ctr = ctr)) with
    | some c =>
      if c.landed then
        retireCopies core slot uid ctr n (bumpCounter core slot uid ctr (onCore core (fun y => { y with
          copies := y.copies.filter (fun z => z.id ≠ c.id) }) s))
      else s
    | none => s

/-- ASYNC_COPY_COMPLETE: the last byte of a copy lands; its counter is incremented in issue order (R99). -/
def asyncCopyComplete (core id : Nat) (s : State) : State :=
  match (coreAt s core).copies.find? (fun c => decide (c.id = id) && !c.landed) with
  | none => s
  | some c =>
    let resident := decide (((tabGet (coreAt s core).crews c.slot).map (·.uid)) = some c.uid)
    let s1 := match c.toLocal with
      | some (d, bs, pz) => if resident then onCrew core c.slot (fun y =>
          let y1 := lmemWrite d bs false y
          { y1 with lpoison := pz.foldl (fun m w => tabPut m w ()) y1.lpoison }) s else s
      | none => s
    let s2 := match c.toGlobal with
      | some (d, bs, pz) => engineWrite Agent.core c.job false d bs pz s1
      | none => s1
    retireCopies core c.slot c.uid c.ctr 256 (onCore core (fun y => { y with
      copies := y.copies.map (fun z => if z.id = id then { z with landed := true } else z) }) s2)

def execAsyncCopyComplete (core id : Nat) (s : State) : Host.Outcome State Fault Refusal := .next (asyncCopyComplete core id s)

/-! ### Barriers (R100 to R102) -/

/-- Lanes of a crew that have exited, numbered gang × 32 + lane. -/
def exitedLanes (c : Core) (slot : Nat) (w : Crew) : List Nat :=
  (List.range w.gangs).flatMap (fun g =>
    if w.exitedGangs.contains g then (List.range 32).map (fun l => g * 32 + l)
    else match tabGet c.gangs (slot * 32 + g) with
      | some y => (lanesOf y.exited).map (fun l => g * 32 + l)
      | none => [])

/-- A fragment of the crew waits for a barrier's current phase, or to arrive in its next. -/
def barWaited (c : Core) (slot b phase : Nat) : Bool :=
  c.gangs.any (fun e => decide (e.1 / 32 = slot) && e.2.frags.any (fun f => match f.2.wait with
    | .barrier k ps => decide (k = b) && ps.any (fun p => decide (p.2 = phase))
    | .rearrive k _ _ => decide (k = b)
    | _ => false))

/-- Lanes that wait to arrive in the next phase. -/
def rearriving (c : Core) (slot b : Nat) : List Nat :=
  c.gangs.flatMap (fun e => if e.1 / 32 = slot then e.2.frags.flatMap (fun f => match f.2.wait with
    | .rearrive k ls _ => if k = b then ls.map (fun l => e.1 % 32 * 32 + l) else []
    | _ => []) else [])

/-- Requests that arrivals in the phases before one release. -/
def releasedBy (bar : Bar) (phase : Nat) : List Nat := (bar.stores.filter (fun e => decide (e.1 < phase))).map (·.2)

/-- BAR_PHASE_COMPLETE: complete phases of a barrier while their arrivals reach the count. Waiters are released, the next phase opens,
and lanes that arrived twice arrive in it (R100, R101); the released go on when what the arrivals stored is visible in the crew (R96).
A phase whose count the exited lanes alone reach completes only when some lane arrives or waits (DESIGN CHOICE, log 59). -/
def barSettle (slot b : Nat) : Nat → Core → Core
  | 0, c => c
  | n + 1, c =>
    match tabGet c.crews slot with
    | none => c
    | some w =>
      match tabGet w.bars b with
      | none => c
      | some bar =>
        let ex := exitedLanes c slot w
        let count := bar.arrived.length + (ex.filter (fun l => !bar.arrived.contains l)).length
        if bar.expect ≤ count ∧ (bar.arrived ≠ [] ∨ barWaited c slot b bar.phase) then
          let p := bar.phase + 1
          let again := rearriving c slot b
          let bar1 : Bar := { bar with phase := p, arrived := again, lastPhase := again.foldl (fun m l => tabPut m l p) bar.lastPhase }
          let after : Wait := match releasedBy bar p with
            | [] => .ready
            | ids => .fence 0 ids
          let c1 : Core := { c with crews := tabPut c.crews slot { w with bars := tabPut w.bars b bar1 } }
          let c2 := onCrewGangs slot (fun _ y => settleGang { y with
            frags := y.frags.map (fun e => match e.2.wait with
              | .rearrive k ls thenWait =>
                if k = b then (if thenWait then (e.1, { e.2 with wait := .barrier b (ls.map (fun l => (l, p))) })
                  else (e.1, { e.2 with wait := .ready, pc := e.2.pc + 16 })) else e
              | .barrier k ps =>
                if k = b ∧ ps.all (fun q => decide (q.2 < p)) then (e.1, { e.2 with wait := after, pc := e.2.pc + 16 }) else e
              | _ => e) }) c1
          barSettle slot b n c2
        else c

/-- Settle every barrier of a crew. -/
def barSettleAll (slot : Nat) (c : Core) : Core := (List.range 16).foldl (fun x b => barSettle slot b 64 x) c

/-- A barrier operand: that of the lowest active lane (DEDUCED, log 27). -/
def barIndex (a : Act) (b : Src) : Nat := (srcVal a.gang ((lanesOf a.frag.mask).headD 0) b).toNat

/-- Misuse of a barrier (R102). -/
def barMisuse (a : Act) (s : State) : State := illegal a 3 s

/-- Set a barrier of a crew and settle it. -/
def setBar (g : FragRef) (b : Nat) (bar : Bar) (s : State) : State :=
  onCore g.core (barSettle g.slot b 64) (onCrew g.core g.slot (fun w => { w with bars := tabPut w.bars b bar }) s)

/-- BAR.INIT. A count outside 1 to 32 × G is misuse (DEDUCED, log 27); of the arrivals that make it one, those of exited lanes are left out
(DESIGN CHOICE, log 59). -/
def barInit (g : FragRef) (b n : Src) (s : State) : State :=
  issueUniform g [b, n] (fun x st =>
    let k := uniVal x b; let m := uniVal x n
    let old := tabGet x.crew.bars k
    if x.crew.kernel.barriers ≤ k ∨ m < 1 ∨ 32 * x.crew.gangs < m ∨ (old.map (·.arrived)).getD [] ≠ [] then barMisuse x st
    else advance g (setBar g k { expect := m, phase := (old.map (fun y => y.phase + 1)).getD 0, arrived := [],
                                 lastPhase := (old.map (·.lastPhase)).getD [], stores := (old.map (·.stores)).getD [] } st)) s

def execBarInit (g : FragRef) (b n : Src) (s : State) : Host.Outcome State Fault Refusal := .next (barInit g b n s)

/-- A request is not yet visible in either tower. -/
def isWaiting (s : State) (id : Nat) : Bool := stillWaits s .t0 id || stillWaits s .t1 id

/-- Arrival of the active lanes; a lane already arrived waits for the phase to complete and then arrives in the next (R101). -/
def barArrival (wait : Bool) (g : FragRef) (b : Src) (s : State) : State :=
  issue g (srcRegs [b]) (srcUregs [b]) [] (fun x st =>
    let k := barIndex x b
    match tabGet x.crew.bars k with
    | none => barMisuse x st
    | some bar =>
      if x.crew.kernel.barriers ≤ k then barMisuse x st
      else
        let ls := lanesOf x.frag.mask
        let id := fun l => g.gang * 32 + l
        let first := ls.filter (fun l => !bar.arrived.contains (id l))
        let again := ls.filter (fun l => bar.arrived.contains (id l))
        let bar1 := { bar with
          arrived := bar.arrived ++ first.map id
          lastPhase := first.foldl (fun m l => tabPut m (id l) bar.phase) bar.lastPhase
          stores := bar.stores.filter (fun e => isWaiting st e.2)
            ++ (x.gang.stores.filter (isWaiting st)).map (fun i => (if first = [] then bar.phase + 1 else bar.phase, i)) }
        if again ≠ [] then setBar g k bar1 (waitFor g (.rearrive k again wait) st)
        else if wait then setBar g k bar1 (waitFor g (.barrier k (ls.map (fun l => (l, bar.phase)))) st)
        else advance g (setBar g k bar1 st)) s

def execBarArrive (g : FragRef) (b : Src) (s : State) : Host.Outcome State Fault Refusal := .next (barArrival false g b s)
def execBarSync (g : FragRef) (b : Src) (s : State) : Host.Outcome State Fault Refusal := .next (barArrival true g b s)

/-- BAR.WAIT: the phases in which the active lanes last arrived. Lanes that have never arrived, and a barrier never initialised, wait for
nothing (DESIGN CHOICE, log 59). -/
def barWait (g : FragRef) (b : Src) (s : State) : State :=
  issue g (srcRegs [b]) (srcUregs [b]) [] (fun x st =>
    let k := barIndex x b
    if x.crew.kernel.barriers ≤ k then barMisuse x st
    else match tabGet x.crew.bars k with
      | none => advance g st
      | some bar =>
        let ps := (lanesOf x.frag.mask).filterMap (fun l => (tabGet bar.lastPhase (g.gang * 32 + l)).map (fun p => (l, p)))
        if ps.all (fun p => decide (p.2 < bar.phase)) then
          (match (releasedBy bar ((ps.map (·.2 + 1)).foldl max 0)).filter (isWaiting st) with
            | [] => advance g st
            | ids => advanceWait g (.fence 0 ids) st)
        else setBar g k bar (waitFor g (.barrier k ps) st)) s

def execBarWait (g : FragRef) (b : Src) (s : State) : Host.Outcome State Fault Refusal := .next (barWait g b s)

/-! ### Locks (R104 to R106) -/

/-- The tag of a lane (R104). -/
def lockTag (g : FragRef) (lane : Nat) : Nat := g.slot * 65536 + g.gang * 256 + lane + 1 + g.core * 2 ^ 32

/-- Address of a lock word in a lane. -/
def lockAddr (a : Act) (sp : LockSpace) (addr : GAddr) (l : Nat) : Nat :=
  match sp with
  | .crewLocal => (srcVal a.gang l addr.lo).toNat
  | .global => gaddrVal a.gang l addr

/-- Operands of a lock address. -/
def lockSrcs (sp : LockSpace) (addr : GAddr) : List Src :=
  match sp with
  | .crewLocal => [addr.lo]
  | .global => [addr.lo, addr.hi]

/-- A lock word, and whether it is poisoned. A global one is read at the loft; that lookup stands for the whole compare-and-swap. -/
def lockRead (g : FragRef) (job : Nat) (sp : LockSpace) (a : Nat) (s : State) : State × Nat × Bool :=
  match sp with
  | .crewLocal => match tabGet (coreAt s g.core).crews g.slot with
    | some c => (s, leNat (lmemRead c a 8), lmemPoison c a 8)
    | none => (s, 0, false)
  | .global =>
    let (s1, bs, pz) := engineRead Agent.core job a 8 s
    (s1, leNat bs, decide (pz ≠ []))

/-- Write a lock word. -/
def lockWrite (g : FragRef) (job : Nat) (sp : LockSpace) (a v : Nat) (s : State) : State :=
  match sp with
  | .crewLocal => onCrew g.core g.slot (lmemWrite a (leBytes v 8) false) s
  | .global => engineWrite { Agent.core with counted := false } job false a (leBytes v 8) [] s

/-- Checks of lock words: alignment, then the bound or the field map (R88 to R90, R104). -/
def lockChecked (a : Act) (sp : LockSpace) (addr : Nat → Nat) (k : State) (s : State) : State :=
  match sp with
  | .crewLocal => localChecked a 8 addr k s
  | .global => globalChecked a 2 8 addr k s

/-- Requests to a line that the loft has not served: a lock operation on it follows them in order (R202). -/
def lineBusy (s : State) (a : Nat) : Bool :=
  bothTowers.any (fun t => (loftWaiting s t).any (fun r => decide (r.addr / 128 = a / 128)))

/-- What a lock operation's lanes came to: those that succeeded, those that did not, those that found a poisoned word. -/
structure LockRes where
  won : List Nat
  lost : List Nat
  poisoned : List Nat
deriving DecidableEq, Repr

/-- Each lane in ascending order writes a value of its own where the word holds what it must. -/
def lockLanes (g : FragRef) (job : Nat) (sp : LockSpace) (want put : Nat → Nat) (las : List (Nat × Nat)) (s : State) :
    State × LockRes :=
  las.foldl (fun (acc : State × LockRes) p =>
    let (s1, v, pz) := lockRead g job sp p.2 acc.1
    if pz then (s1, { acc.2 with poisoned := acc.2.poisoned ++ [p.1] })
    else if v = want p.1 then (lockWrite g job sp p.2 (put p.1) s1, { acc.2 with won := acc.2.won ++ [p.1] })
    else (s1, { acc.2 with lost := acc.2.lost ++ [p.1] })) (s, ⟨[], [], []⟩)

/-- One attempt by lanes: the compare-and-swap of 0 with the lane's tag (R104). -/
def lockAttempt (g : FragRef) (job : Nat) (sp : LockSpace) (las : List (Nat × Nat)) (s : State) : State × LockRes :=
  lockLanes g job sp (fun _ => 0) (lockTag g) las s

/-- A poisoned lock word faults the lanes that take it: their predicate would derive from it (R108). -/
def lockPoison (a : Act) (r : LockRes) (k : State) (s : State) : State :=
  if r.poisoned = [] then k else coreFault a evPoisonConsumed (maskOf r.poisoned) 0 s

/-- A global lock word of some lane has requests before it. -/
def lockHeldUp (s : State) (sp : LockSpace) (las : List (Nat × Nat)) : Bool :=
  match sp with
  | .crewLocal => false
  | .global => las.any (fun p => lineBusy s p.2)

/-- After an attempt: the lanes that succeeded go on, with the predicate set; the others wait as a fragment at the LOCK.ACQ (R105). -/
def lockSplit (g : FragRef) (f : Frag) (sp : LockSpace) (p : Nat) (las : List (Nat × Nat)) (won : List Nat) (s : State) : State :=
  let lost := las.filter (fun q => !won.contains q.1)
  let w : Wait := .lock sp p lost (coreAt s g.core).cycles
  let s1 := onGang g (fun y => won.foldl (fun z l => setPred l p true z) y) s
  if lost = [] then advance g s1
  else if won = [] then waitFor g w s1
  else onGang g (fun y =>
    settleGang { y with
      frags := tabPut (tabPut y.frags g.frag { f.only won with pc := f.pc + 16, wait := .ready }) (freeEntry y)
        { f.only (lost.map (·.1)) with wait := w } }) s1

/-- LOCK.ACQ. -/
def lockAcq (g : FragRef) (sp : LockSpace) (p : Nat) (addr : GAddr) (s : State) : State :=
  let ss := lockSrcs sp addr
  issue g (srcRegs ss) (srcUregs ss) [p] (fun x st =>
    let las := (lanesOf x.frag.mask).map (fun l => (l, lockAddr x sp addr l))
    if lockHeldUp st sp las then s
    else consume x ss (lockChecked x sp (lockAddr x sp addr)
      (let (st1, r) := lockAttempt g x.crew.job sp las st
       lockPoison x r (lockSplit g x.frag sp p las r.won st1) st1) st) st) s

def execLockAcq (g : FragRef) (space : LockSpace) (p : Nat) (addr : GAddr) (s : State) : Host.Outcome State Fault Refusal :=
  .next (lockAcq g space p addr s)

/-- LOCK_RETRY_TIMEOUT: 256 cycles after its last attempt a parked fragment repeats the acquisition for its lanes. -/
def lockRetryTimeout (g : FragRef) (s : State) : State :=
  match actAt s g with
  | none => s
  | some x =>
    match x.frag.wait with
    | .lock sp p las since =>
      if lockHeldUp s sp las || !gangFree s g.core x.gang then s
      else
        let s1 := onCore g.core (fun c => { c with cycles := max c.cycles (since + 256) }) s
        let (s2, r) := lockAttempt g x.crew.job sp las s1
        lockPoison x r (lockSplit g x.frag sp p las r.won s2) s2
    | _ => s

def execLockRetryTimeout (g : FragRef) (s : State) : Host.Outcome State Fault Refusal := .next (lockRetryTimeout g s)

/-- LOCK.TRY: one attempt; the predicate tells which lanes succeeded (DEDUCED, log 27: it is cleared in the others). -/
def lockTry (g : FragRef) (sp : LockSpace) (p : Nat) (addr : GAddr) (s : State) : State :=
  let ss := lockSrcs sp addr
  issue g (srcRegs ss) (srcUregs ss) [p] (fun x st =>
    let las := (lanesOf x.frag.mask).map (fun l => (l, lockAddr x sp addr l))
    if lockHeldUp st sp las then s
    else consume x ss (lockChecked x sp (lockAddr x sp addr)
      (let (st1, r) := lockAttempt g x.crew.job sp las st
       lockPoison x r (writePreds x p ((lanesOf x.frag.mask).map (fun l => (l, r.won.contains l))) st1) st1) st) st) s

def execLockTry (g : FragRef) (space : LockSpace) (p : Nat) (addr : GAddr) (s : State) : Host.Outcome State Fault Refusal :=
  .next (lockTry g space p addr s)

/-- Wake the gang's fragments that wait for a lock: they may repeat their LOCK.ACQ. -/
def wakeLocks (y : Gang) : Gang :=
  { y with frags := y.frags.map (fun e => match e.2.wait with
      | .lock _ _ _ _ => (e.1, { e.2 with wait := .ready })
      | _ => e) }

/-- LOCK.REL: waits at issue for the gang's earlier stores at the lock's scope, writes 0 for each lane that holds its word, and wakes
the gang's waiting fragments; a lane that does not hold its word faults (R96, R106). -/
def lockRel (g : FragRef) (sp : LockSpace) (addr : GAddr) (s : State) : State :=
  let ss := lockSrcs sp addr
  issue g (srcRegs ss) (srcUregs ss) [] (fun x st =>
    let las := (lanesOf x.frag.mask).map (fun l => (l, lockAddr x sp addr l))
    let scope := if sp = .global then 2 else 0
    if lockHeldUp st sp las || storesWait st scope (towerOfCore g.core) x.gang.stores then s
    else consume x ss (lockChecked x sp (lockAddr x sp addr)
      (let (st1, r) := lockLanes g x.crew.job sp (lockTag g) (fun _ => 0) las st
       let st2 := onGang g wakeLocks st1
       lockPoison x r (if r.lost ≠ [] then coreFault x evIllegalInstr (maskOf r.lost) 7 st2 else advance g st2) st2) st) st) s

def execLockRel (g : FragRef) (space : LockSpace) (addr : GAddr) (s : State) : Host.Outcome State Fault Refusal :=
  .next (lockRel g space addr s)

/-! ### Exit (R83, R101) -/

/-- The gang has no fragment left: it ends, and with its last gang the crew. -/
def endGang (g : FragRef) (c : Core) : Core :=
  match tabGet c.gangs (gangKey g), tabGet c.crews g.slot with
  | some y, some w =>
    if y.frags = [] then
      let w1 := { w with exitedGangs := w.exitedGangs ++ [g.gang] }
      { c with
        gangs := tabDel c.gangs (gangKey g)
        crews := if w1.exitedGangs.length = w.gangs then tabDel c.crews g.slot else tabPut c.crews g.slot w1
        mxTaken := if w1.exitedGangs.length = w.gangs then mxStays [g.slot] c else c.mxTaken
        mxq := if w1.exitedGangs.length = w.gangs then c.mxq.map (fun e => (e.1, e.2.filter (fun m => m.slot ≠ g.slot))) else c.mxq
        chains := if w1.exitedGangs.length = w.gangs then c.chains.map (fun e => (e.1, e.2.filter (fun m => m.slot ≠ g.slot)))
          else c.chains }
    else c
  | _, _ => c

/-- EXIT: the fragment's lanes end and count as arrived at every barrier; a crew whose lanes have all exited frees its core for the
next crew. -/
def exitI (g : FragRef) (s : State) : State :=
  issue g [] [] [] (fun x st =>
    let ids := x.gang.stores.filter (isWaiting st)
    let st0 := onCrew g.core g.slot (fun w => { w with bars := w.bars.map (fun e =>
      (e.1, { e.2 with stores := e.2.stores ++ ids.map (fun i => (e.2.phase, i)) })) }) st
    let st1 := onGang g (fun y => settleGang { y with
      frags := tabDel y.frags g.frag, exited := y.exited ||| x.frag.mask }) st0
    dispatchCrews 4096 (onCore g.core (fun c => barSettleAll g.slot (endGang g c)) st1)) s

def execExit (g : FragRef) (s : State) : Host.Outcome State Fault Refusal := .next (exitI g s)

end Sys2Proof.Machine
end

