-- ==== Sys2Proof/Machine/Gate.lean ====
section
/-! DEFINITION. The gate: requests, reservations, the schedule, the fit clamp, releases and measured rates, operating points
(13_power.md R382 to R391). -/

namespace Sys2Proof.Machine

/-- The kernel rate factor applied to a base rate at a point, rounded up. -/
def atPoint (kind base point : Nat) : Nat := if kind = 1 then ceilDiv (base * pointPm point) 1000 else base

/-- The rate reserved for a class in a tower, before the kernel rate factor: the fuse rate until 256 measured grants have ended,
then the learned rate (R387). -/
def baseRate (s : State) (t : Tower) (c : Nat) : Nat :=
  let k := towerNum t * 16 + c
  if 256 ≤ tabGetD s.gate.ended k 0 then min (fuseRate c) ((tabGetD s.gate.measured k []).foldl max 0) else fuseRate c

/-- Bushels per window a grant holds in a tower at a point. -/
def grantHeld (g : Grant) (t : Tower) (point : Nat) : Nat :=
  if bitOf g.towers (towerNum t) then 10 * atPoint g.kind (g.rate.get t) point else 0

/-- held[t] at a point. -/
def heldAt (s : State) (t : Tower) (point : Nat) : Nat := (s.gate.grants.map (fun g => grantHeld g t point)).foldl (· + ·) 0

/-- The window budget under the caps, less the thermal clamp's closed towers (R388). -/
def fitsRoom (s : State) (t : Tower) (need point : Nat) : Bool :=
  decide (need + heldAt s t point + s.gate.debt.get t ≤ cappedBudget s t)

/-! ### Operating points (R383, R389) -/

/-- The lowest of the commanded point, the thermal clamp and the fit clamp; a closed tower runs at point 5 (R404). -/
def targetPoint (s : State) (t : Tower) : Nat :=
  if s.therm.closed.get t then 5
  else max (max s.gate.cmdPoint (s.gate.thermPoint.get t)) (s.gate.fitPoint.get t)

/-- The fastest point from the target on at which the reservations fit; the present point where none above it does. -/
def risePoint (s : State) (t : Tower) : Nat :=
  let now := s.gate.point.get t
  ((List.range now).filter (fun p => decide (targetPoint s t ≤ p) && fitsRoom s t 0 p)).headD now

/-- Move a tower toward its target: a fall takes effect at once and the rail slews down; a rise waits for the rail. -/
def retarget (t : Tower) (s : State) : State :=
  let now := s.gate.point.get t
  let tp := targetPoint s t
  if now < tp then noteStatus s (s.onGate (fun g => { g with point := g.point.set t tp, slew := g.slew.set t (some tp) }))
  else if risePoint s t < now then s.onGate (fun g => { g with slew := g.slew.set t (some (risePoint s t)) })
  else s

/-- Power or thermal event detail (Table 13.13). -/
def powerDetail (s : State) (code zone sensor level tempC dropMv waitUs tick : Nat) : List Byte :=
  leBytes code 2 ++ leBytes zone 1 ++ leBytes sensor 1 ++ leBytes level 1 ++ leBytes tempC 1 ++ leBytes dropMv 2
    ++ leBytes waitUs 4 ++ leBytes s.gate.limitW 4 ++ leBytes (tick % 2 ^ 48) 8

/-- POWER_CAPPED: at most one record per tower, cause and second (R391). No zone gives its TEMP_C, which is open (log 33). -/
def postCapped (t : Tower) (cause waitUs : Nat) (s : State) : State :=
  let k := towerNum t * 4 + cause
  let due := match tabGet s.gate.cappedNs k with
    | some n => decide (n + 1000000000 ≤ s.nowNs)
    | none => true
  if due then
    postNotice evPowerCapped (((jobOfTower s t).map (·.id)).getD 0)
      (powerDetail s evPowerCapped (towerNum t) 0xFF cause (Config.openField s.freeCtr % 256) 0 waitUs (tickOf s t))
      (s.onGate (fun g => { g with cappedNs := tabPut g.cappedNs k s.nowNs })).draw
  else s

/-- The fit clamp: the fastest point at which a base rate fits the tower's whole capped budget, 5 where none does (R389). -/
def fitPointFor (s : State) (t : Tower) (base : Nat) : Nat :=
  ((List.range 6).filter (fun p => decide (s.gate.cmdPoint ≤ p ∧ s.gate.thermPoint.get t ≤ p)
    && decide (10 * atPoint 1 base p ≤ cappedBudget s t))).headD 5

/-- Trace of a gate wait above 10 µs or of the fit clamp. -/
def traceGate (t : Tower) (c rate : Nat) (s : State) : State :=
  traceRec 2 t 4 (((jobOfTower s t).map (·.id)).getD 0) (tickOf s t)
    (leBytes c 1 ++ leBytes 0 3 ++ leBytes rate 4 ++ leBytes (heldAt s t (s.gate.point.get t)) 4 ++ leBytes (s.gate.debt.get t) 4) s

/-- Engage it for a kernel request of a class that exceeds the budget at the present point. -/
def fitClamp (t : Tower) (c base : Nat) (s : State) : State :=
  let p := fitPointFor s t base
  if s.gate.fitPoint.get t < p then
    traceGate t c base <| postCapped t 2 0 (retarget t (s.onGate (fun g => { g with fitPoint := g.fitPoint.set t p })))
  else s

/-- A kernel that needs the clamp: it holds a grant or heads the queue, and does not fit the budget without it. -/
def clampNeeded (s : State) (t : Tower) : Bool :=
  let p := max s.gate.cmdPoint (s.gate.thermPoint.get t)
  let excess := fun base => decide (cappedBudget s t < 10 * atPoint 1 base p)
  s.gate.grants.any (fun g => decide (g.kind = 1) && bitOf g.towers (towerNum t) && excess (g.rate.get t))
    || ((s.gate.queue.get t).head?.map (fun r => decide (r.kind = 1) && excess (baseRate s t r.eclass))).getD false

/-- The clamp lifts when no kernel needs it and the held reservations no longer exceed the budget (R389, R396). -/
def fitLift (t : Tower) (s : State) : State :=
  if decide (s.gate.fitPoint.get t ≠ 0) && !clampNeeded s t && decide (heldAt s t (s.gate.point.get t) ≤ cappedBudget s t) then
    retarget t (s.onGate (fun g => { g with fitPoint := g.fitPoint.set t 0 }))
  else s

/-! ### Requests and the schedule (R386, R388) -/

/-- A request of a STAGE item whose own tick has not begun. -/
def stageAhead (s : State) (r : GateReq) : Bool := decide (r.kind = 6 ∧ (jobAt s r.job).map (·.tick) ≠ some r.tick)

/-- A queue with a request added: a STAGE item of the next sheaf goes behind everything, any other request before those (R46). -/
def joinQueue (s : State) (r : GateReq) (q : List GateReq) : List GateReq :=
  if stageAhead s r then q ++ [r] else q.takeWhile (fun x => !stageAhead s x) ++ r :: q.dropWhile (fun x => !stageAhead s x)

/-- An operation asks the gate: both queues of a two-tower operation in one step. -/
def gateAsk (r : GateReq) (s : State) : State :=
  s.onGate (fun g => { g with
    queue := ⟨if bitOf r.towers 0 then joinQueue s r g.queue.t0 else g.queue.t0,
              if bitOf r.towers 1 then joinQueue s r g.queue.t1 else g.queue.t1⟩ })

/-- A release within the last 2 µs of the same towers and unit kind, at a rate that covers the operation's. -/
def handsOver (s : State) (r : GateReq) (rate : Pair Nat) : Bool :=
  s.gate.releases.any (fun h => decide (s.nowNs ≤ h.atNs + 2000 ∧ h.kind = r.kind ∧ h.towers = r.towers)
    && (towersOfMask r.towers).all (fun t => decide (rate.get t ≤ h.rate.get t)))

/-- Count a grant and note its wait, in its towers and in the record of its item's tick. -/
def noteWait (r : GateReq) (s : State) : State :=
  let w := s.nowNs - r.askNs
  let s0 := (towersOfMask r.towers).foldl (fun st t =>
    let s1 := ctrAdd 8 (towerNum t * 19 + 16) w (ctrAdd 8 (towerNum t * 19 + r.eclass) 1 st)
    if 10000 < w then traceGate t r.eclass (baseRate st t r.eclass) s1 else s1) s
  if w = 0 then s0
  else
    (s0.onJob r.job (onRec r.tick (fun x => { x with gateWaitNs := x.gateWaitNs + w }))).onGate (fun g => { g with
      waitNs := (towersOfMask r.towers).foldl (fun p t => p.mod t (· + w)) g.waitNs, lastWaitNs := some s.nowNs })

/-- The towers of a head request in order, up to the first without room: the fit clamp engages for a kernel that exceeds the whole budget
(R388, R389). Whether it fits in all of them. -/
def fitHead (r : GateReq) : List Tower → State → State × Bool
  | [], s => (s, true)
  | u :: us, s =>
    let base := baseRate s u r.eclass
    let s1 := if r.kind = 1 ∧ cappedBudget s u < 10 * atPoint 1 base (s.gate.point.get u) then fitClamp u r.eclass base s else s
    let p := s1.gate.point.get u
    if fitsRoom s1 u (10 * atPoint r.kind base p) p then fitHead r us s1 else (s1, false)

/-- Grant the head request of a tower, if it heads every queue it stands in and fits; none where it waits. -/
def grantHead (t : Tower) (s : State) : Option State :=
  match (s.gate.queue.get t).head? with
  | none => none
  | some r =>
    let ts := towersOfMask r.towers
    if ts.all (fun u => decide ((s.gate.queue.get u).head? = some r)) then
      let (s1, fits) := fitHead r ts s
      if fits then
        let base : Pair Nat := ⟨baseRate s1 .t0 r.eclass, baseRate s1 .t1 r.eclass⟩
        let scaled : Pair Nat := ⟨atPoint r.kind base.t0 s1.gate.point.t0, atPoint r.kind base.t1 s1.gate.point.t1⟩
        let start := if handsOver s1 r scaled then s1.nowNs else s1.nowNs + 2000
        some (noteWait r (s1.onGate (fun g => { g with
          queue := ts.foldl (fun q u => q.mod u (fun l => l.drop 1)) g.queue
          grants := g.grants ++ [⟨r.job, r.tick, r.item, r.kind, r.eclass, r.towers, base, start, false, s1.nowNs - r.askNs⟩] })))
      else if s1.gate.fitPoint = s.gate.fitPoint then none else some s1
    else none

/-- schedule(t): the fit clamp and the grants that a request, a release or a window start allows. -/
def scheduleTower (t : Tower) : Nat → State → State
  | 0, s => s
  | n + 1, s =>
    match grantHead t s with
    | some s1 => scheduleTower t n s1
    | none => s

/-- Schedule both towers, after lifting the clamps that no kernel needs and starting the rises that now fit (R383). -/
def gateSchedule (s : State) : State :=
  let n := s.gate.queue.t0.length + s.gate.queue.t1.length + 2
  scheduleTower .t0 n (scheduleTower .t1 n (scheduleTower .t0 n (retarget .t1 (retarget .t0 (fitLift .t1 (fitLift .t0 s))))))

/-- Remember a rate for a class in a tower. -/
def noteRate (t : Tower) (c rate : Nat) (g : GateSt) : GateSt :=
  let k := towerNum t * 16 + c
  let rs := tabGetD g.measured k [] ++ [rate]
  { g with ended := tabPut g.ended k (tabGetD g.ended k 0 + 1), measured := tabPut g.measured k (rs.drop (rs.length - 256)) }

/-- A grant ends: its reservation is released, its measured rate, the energy charged in each tower over its duration, is remembered
(R387, R388; log 32). -/
def gateRelease (job tick item energy : Nat) (s : State) : State :=
  match s.gate.grants.find? (fun g => decide (g.job = job ∧ g.tick = tick ∧ g.item = item)) with
  | none => s
  | some g =>
    let dur := max 1 (s.nowNs - g.startNs)
    let rate := ceilDiv (11 * energy * 1000) (10 * dur)
    let scaled : Pair Nat := ⟨atPoint g.kind g.rate.t0 s.gate.point.t0, atPoint g.kind g.rate.t1 s.gate.point.t1⟩
    s.onGate (fun x => (towersOfMask g.towers).foldl (fun y t => if g.started then noteRate t g.eclass rate y else y) { x with
      grants := x.grants.filter (fun y => !decide (y.job = job ∧ y.tick = tick ∧ y.item = item))
      releases := x.releases.filter (fun h => decide (s.nowNs ≤ h.atNs + 2000)) ++ [⟨s.nowNs, g.kind, g.towers, scaled⟩] })

/-- Learned rates and counts restart in towers (R387). -/
def restartRates (ts : List Tower) (g : GateSt) : GateSt :=
  let keep := fun (k : Nat) => !ts.any (fun t => decide (k / 16 = towerNum t))
  { g with ended := g.ended.filter (fun e => keep e.1), measured := g.measured.filter (fun e => keep e.1) }

/-- Gate waits of a tower in the running tick, those still going on included. -/
def waitSoFar (s : State) (t : Tower) : Nat :=
  s.gate.waitNs.get t + ((s.gate.queue.get t).map (fun r => s.nowNs - r.askNs)).foldl (· + ·) 0

/-- POWER_CAPPED cause 1: the waits pass 1 % of the RUN window. -/
def checkWaits (s : State) : State :=
  bothTowers.foldl (fun st t =>
    match (jobOfTower st t).bind (·.cfg) with
    | none => st
    | some c => if runUs c * 1000 < 100 * waitSoFar st t then postCapped t 1 (waitSoFar st t / 1000) st else st) s

/-- What the regulators measured over the window that ends (R390). -/
def windowEnd (t : Tower) (measured : Nat) (s : State) : State :=
  let excess : Int := (measured : Int) - 190 - (cappedBudget s t : Int)
  s.onGate (fun g => { g with
    energy := g.energy.set t measured
    debt := g.debt.mod t (fun d => ((d : Int) + excess).toNat)
    ended := if 0 < excess then g.grants.foldl (fun m x =>
      if bitOf x.towers (towerNum t) then tabPut m (towerNum t * 16 + x.eclass) 0 else m) g.ended else g.ended })

/-- A new limit takes effect: where held reservations exceed the budget, the point falls until they fit or is 5 (R396). -/
def applyLimit (s : State) : State :=
  match s.gate.nextLimit with
  | none => s
  | some w =>
    let s1 := s.onGate (fun g => { g with limitW := w, nextLimit := none })
    bothTowers.foldl (fun st t =>
      if cappedBudget st t < heldAt st t (st.gate.point.get t) then
        let p := ((List.range 6).filter (fun p => decide (st.gate.point.get t ≤ p) && decide (heldAt st t p ≤ cappedBudget st t))).headD 5
        postCapped t 3 0 (retarget t (st.onGate (fun g => { g with fitPoint := g.fitPoint.mod t (fun f => max f p) })))
      else st) s1

/-- GATE_WINDOW_START up to the schedule: the window before it is settled and a new limit applies. -/
def windowStart (m0 m1 : Nat) (s : State) : State :=
  let s1 := s.timeTo s.gate.windowNs
  let s2 := windowEnd .t1 m1 (windowEnd .t0 m0 s1)
  checkWaits (gateSchedule (applyLimit (s2.onGate (fun g => { g with windowNs := g.windowNs + 10000 }))))

/-- OP_POINT_CHANGE_END: the rail has slewed; a rise takes effect at the fastest point that still fits (R383). -/
def opPointEnd (t : Tower) (s : State) : State :=
  match s.gate.slew.get t with
  | none => s
  | some _ =>
    let now := s.gate.point.get t
    let s1 := s.onGate (fun g => { g with slew := g.slew.set t none })
    if targetPoint s t < now then noteStatus s (s1.onGate (fun g => { g with point := g.point.set t (risePoint s t) })) else s1

end Sys2Proof.Machine
end

