-- ==== Sys2Proof/Machine/Vector.lean ====
section
/-! DEFINITION. Vector, conversion, special-function, data-movement and control instructions of a core (03_cores.md R73, R82, R85 to
R87, R111; 04_matrix.md R114 to R123). -/

namespace Sys2Proof.Machine

/-! ### Integers (Table 3.2, R111) -/

/-- A comparison of integers. -/
def cmpHolds (c : Cmp) (lt eq : Bool) : Bool :=
  match c with
  | .eq => eq
  | .ne => !eq
  | .lt => lt
  | .le => lt || eq
  | .gt => !(lt || eq)
  | .ge => !lt

/-- Leading zeros and set bits of a word. -/
def clz32 (a : W32) : Nat := ((List.range 32).find? (fun i => a.getLsbD (31 - i))).getD 32
def popc32 (a : W32) : Nat := ((List.range 32).filter (fun i => a.getLsbD i)).length

/-- Signed or unsigned order. -/
def ltInt (signed : Bool) (a b : W32) : Bool := if signed then decide (a.toInt < b.toInt) else decide (a.toNat < b.toNat)

/-- Result of an integer instruction that writes a register; a shift by 32 or more is open (log 10). -/
def intResult (op : IntOp) (a b c : W32) : W32 :=
  match op with
  | .iadd => a + b
  | .isub => a - b
  | .imul => a * b
  | .imad => a * b + c
  | .imin sg => if ltInt sg b a then b else a
  | .imax sg => if ltInt sg a b then b else a
  | .shl => if 32 ≤ b.toNat then Config.wideShift 0 a b else a <<< b.toNat
  | .shr ar =>
    if 32 ≤ b.toNat then Config.wideShift (if ar then 2 else 1) a b
    else if ar then BitVec.sshiftRight a b.toNat else a >>> b.toNat
  | .and => a &&& b
  | .or => a ||| b
  | .xor => a ^^^ b
  | .not => ~~~ a
  | .popc => BitVec.ofNat 32 (popc32 a)
  | .clz => BitVec.ofNat 32 (clz32 a)
  | .iset c sg => if cmpHolds c (ltInt sg a b) (decide (a = b)) then 1#32 else 0#32

/-- Operands an integer instruction reads. -/
def intSources (op : IntOp) (a b c : Src) : List Src :=
  match op with
  | .imad => [a, b, c]
  | .not => [a]
  | .popc => [a]
  | .clz => [a]
  | _ => [a, b]

/-- The instruction writes a predicate. -/
def intToPred : IntOp → Bool
  | .iset _ _ => true
  | _ => false

/-- VECTOR_INTEGER_OP. -/
def vectorIntegerOp (g : FragRef) (op : IntOp) (dst : Nat) (a b c : Src) (s : State) : State :=
  let ss := intSources op a b c
  let regs := srcRegs ss ++ (if intToPred op then [] else [dst])
  issue g regs (srcUregs ss) (if intToPred op then [dst] else []) (fun x st =>
    let r := fun l => intResult op (srcVal x.gang l a) (srcVal x.gang l b) (srcVal x.gang l c)
    consume x ss
      (if intToPred op then writePreds x dst ((lanesOf x.frag.mask).map (fun l => (l, decide (r l ≠ 0#32)))) st
       else writeLanes x dst ((lanesOf x.frag.mask).map (fun l => (l, r l, false))) st) st) s

def execVectorIntegerOp (g : FragRef) (op : IntOp) (dst : Nat) (a b c : Src) (s : State) : Host.Outcome State Fault Refusal :=
  .next (vectorIntegerOp g op dst a b c s)

/-- IDIV and IREM (R111). -/
def divResult (rem signed : Bool) (a b : W32) : W32 :=
  if b = 0#32 then (if rem then a else 0xFFFFFFFF#32)
  else if signed then (if rem then BitVec.ofInt 32 (a.toInt.tmod b.toInt) else BitVec.ofInt 32 (a.toInt.tdiv b.toInt))
  else (if rem then BitVec.ofNat 32 (a.toNat % b.toNat) else BitVec.ofNat 32 (a.toNat / b.toNat))

/-- A register result of one or more sources. -/
def laneOp (g : FragRef) (dst : Nat) (ss : List Src) (f : Act → Nat → W32) (s : State) : State :=
  issue g (dst :: srcRegs ss) (srcUregs ss) [] (fun x st =>
    consume x ss (writeLanes x dst ((lanesOf x.frag.mask).map (fun l => (l, f x l, false))) st) st) s

/-- INTEGER_DIVIDE. -/
def integerDivide (g : FragRef) (rem signed : Bool) (dst : Nat) (a b : Src) (s : State) : State :=
  laneOp g dst [a, b] (fun x l => divResult rem signed (srcVal x.gang l a) (srcVal x.gang l b)) s

def execIntegerDivide (g : FragRef) (rem signed : Bool) (dst : Nat) (a b : Src) (s : State) : Host.Outcome State Fault Refusal :=
  .next (integerDivide g rem signed dst a b s)

/-! ### FP32 and packed 16-bit (Table 3.2) -/

/-- Bits of a NaN of a format whose payload and sign the manual leaves open, from a raw word (log 11). -/
def openNan (f : FloatFmt) (raw : Nat) : Nat :=
  if f.spec = 2 then
    packFields f (bitOf raw (f.eb + f.mb)) (2 ^ f.eb - 1) (if raw % 2 ^ f.mb = 0 then 1 else raw % 2 ^ f.mb)
  else packFields f (bitOf raw (f.eb + f.mb)) (2 ^ f.eb - 1) (2 ^ f.mb - 1)

/-- A value rounded to nearest even in a format, a NaN open. -/
def roundOpen (f : FloatFmt) (raw : Nat) (x : Num) : Nat := encodeFloat f .rn false (openNan f raw) x

/-- Number of an FP32 instruction among the open NaNs. -/
def fpNum : FpOp → Nat
  | .fadd => 0
  | .fmul => 1
  | .ffma => 2
  | .fmin => 3
  | .fmax => 4
  | .fabs => 5
  | .fneg => 6
  | .fset _ => 7

/-- FMIN and FMAX: open where an operand is NaN or the operands are zeros of both signs (log 12). -/
def fpMinMax (isMax : Bool) (a b : W32) : W32 :=
  let x := fp32 a; let y := fp32 b
  if isNan x || isNan y || (isZero x && isZero y && decide (a ≠ b)) then Config.minMax (if isMax then 1 else 0) a b
  else if (decide (numCmp x y < 0)) != isMax then a else b

/-- Result of an FP32 instruction that writes a register. -/
def fpResult (op : FpOp) (a b c : W32) : W32 :=
  let raw := (Config.nanBits (fpNum op) a b c).toNat
  match op with
  | .fadd => BitVec.ofNat 32 (roundOpen fmtFp32 raw (numAdd (fp32 a) (fp32 b)))
  | .fmul => BitVec.ofNat 32 (roundOpen fmtFp32 raw (numMul (fp32 a) (fp32 b)))
  | .ffma => BitVec.ofNat 32 (roundOpen fmtFp32 raw (numAdd (numMul (fp32 a) (fp32 b)) (fp32 c)))
  | .fmin => fpMinMax false a b
  | .fmax => fpMinMax true a b
  | .fabs => a &&& 0x7FFFFFFF#32
  | .fneg => a ^^^ 0x80000000#32
  | .fset _ => 0#32

/-- FSET: an unordered comparison holds only for NE (DEDUCED, log 27). -/
def fpCmp (c : Cmp) (a b : W32) : Bool :=
  let x := fp32 a; let y := fp32 b
  if isNan x || isNan y then decide (c = .ne)
  else cmpHolds c (decide (numCmp x y < 0)) (decide (numCmp x y = 0))

/-- Operands an FP32 instruction reads. -/
def fpSources (op : FpOp) (a b c : Src) : List Src :=
  match op with
  | .ffma => [a, b, c]
  | .fabs => [a]
  | .fneg => [a]
  | _ => [a, b]

/-- FP32_OP. -/
def fp32Op (g : FragRef) (op : FpOp) (dst : Nat) (a b c : Src) (s : State) : State :=
  let ss := fpSources op a b c
  match op with
  | .fset cm =>
    issue g (srcRegs ss) (srcUregs ss) [dst] (fun x st =>
      consume x ss (writePreds x dst ((lanesOf x.frag.mask).map (fun l =>
        (l, fpCmp cm (srcVal x.gang l a) (srcVal x.gang l b)))) st) st) s
  | _ => laneOp g dst ss (fun x l => fpResult op (srcVal x.gang l a) (srcVal x.gang l b) (srcVal x.gang l c)) s

def execFp32Op (g : FragRef) (op : FpOp) (dst : Nat) (a b c : Src) (s : State) : Host.Outcome State Fault Refusal :=
  .next (fp32Op g op dst a b c s)

/-- One half of a packed 16-bit instruction. -/
def halfResult (op : HalfOp) (f : FloatFmt) (raw a b c : Nat) : Nat :=
  let x := decodeFloat f a; let y := decodeFloat f b; let z := decodeFloat f c
  roundOpen f raw (match op with
    | .hadd2 => numAdd x y
    | .hmul2 => numMul x y
    | .hfma2 => numAdd (numMul x y) z)

/-- Both halves. -/
def packedResult (op : HalfOp) (isBf16 : Bool) (a b c : W32) : W32 :=
  let f := if isBf16 then fmtBf16 else fmtFp16
  let raw := (Config.nanBits 8 a b c).toNat
  BitVec.ofNat 32 (halfResult op f (raw % 65536) (a.toNat % 65536) (b.toNat % 65536) (c.toNat % 65536)
    + halfResult op f (raw / 65536) (a.toNat / 65536) (b.toNat / 65536) (c.toNat / 65536) * 65536)

/-- PACKED_16_OP. -/
def packed16Op (g : FragRef) (op : HalfOp) (isBf16 : Bool) (dst : Nat) (a b c : Src) (s : State) : State :=
  laneOp g dst (if op = .hfma2 then [a, b, c] else [a, b])
    (fun x l => packedResult op isBf16 (srcVal x.gang l a) (srcVal x.gang l b) (srcVal x.gang l c)) s

def execPacked16Op (g : FragRef) (op : HalfOp) (bf16 : Bool) (dst : Nat) (a b c : Src) (s : State) :
    Host.Outcome State Fault Refusal := .next (packed16Op g op bf16 dst a b c s)

/-- Number of a special function. -/
def sfNum : SfOp → Nat
  | .exp2 => 0
  | .log2 => 1
  | .rcp => 2
  | .rsq => 3
  | .sqrt => 4
  | .sin => 5
  | .cos => 6
  | .tanh => 7

/-- SPECIAL_FUNCTION: the manual states no accuracy, so the value is open (log 13). -/
def specialFunction (g : FragRef) (op : SfOp) (dst : Nat) (a : Src) (s : State) : State :=
  laneOp g dst [a] (fun x l => Config.special (sfNum op) (srcVal x.gang l a)) s

def execSpecialFunction (g : FragRef) (op : SfOp) (dst : Nat) (a : Src) (s : State) : Host.Outcome State Fault Refusal :=
  .next (specialFunction g op dst a s)

/-! ### CVT (R120 to R123) -/

/-- Rounding of the k-th element a lane converts. -/
def rndAt (rnd : Rnd) (seed : U64) (k : Nat) : Rounding :=
  match rnd with
  | .rn => .rn
  | .rz => .rz
  | .sr => .sr (draw16 seed k)

/-- A value in an element format, with the CVT exception flag: NaN into a format that has none gives +0 and sets it (R121). -/
def elemCode (e : Elem) (rd : Rounding) (sat : Bool) (raw : Nat) (v : Num) : Nat × Bool :=
  match floatFmt e with
  | some f => if isNan v && decide (f.spec = 0) then (0, true) else (encodeFloat f rd sat (openNan f raw) v, false)
  | none => (if e = .e8m0 then scaleCode rd raw v else toIntElem (elemBits e) rd v, false)

/-- Elements of a format that a lane's word holds for a conversion to or from another: a pair takes both halves, and an element of 16 bits or
less that a pair becomes or comes from lies beside its neighbour, as Table 4.4 packs them (DEDUCED, log 61). -/
def laneElems (f g : Fmt) : Nat :=
  match f, g with
  | .pair _, _ => 2
  | .scalar e, .pair _ => if elemBits e ≤ 16 then 2 else 1
  | _, _ => 1

/-- Values a lane converts: one, or `n` elements side by side. A block's X comes from the lowest active lane. -/
def cvtValues (f : Fmt) (n x w : Nat) : List Num :=
  match f with
  | .scalar e => (List.range n).map (fun i => elemValue e (w / 2 ^ (elemBits e * i)))
  | .pair e => [elemValue e (w % 65536), elemValue e (w / 65536)]
  | .mx e => [fromBlock e x 0 (bitsOf w 7 0)]
  | .sx4 => [fromBlock .e2m1 x (bitsOf w 17 16) (bitsOf w 7 0)]

/-- The lane form of a block's lane (Table 4.6). -/
def laneForm (x d code : Nat) : W32 := BitVec.ofNat 32 (code + x * 256 + d * 65536)

/-- Seed of a lane's generator (R123). -/
def seedOf (s : State) (a : Act) (lane : Nat) : U64 :=
  match jobAt s a.crew.job with
  | some j => laneSeed ((j.cfg.map (·.seed)).getD 0) j.tick a.crew.item a.crew.index a.g.gang lane
  | none => laneSeed 0 0 a.crew.item a.crew.index a.g.gang lane

/-- Results of a conversion by lane: register and exception flag. Where a pair meets a format that holds one element in a lane, what the
one element does not determine is open (log 61). -/
def cvtResults (s : State) (x : Act) (src dst : Fmt) (rnd : Rnd) (sat : Bool) (a : Src) : List (Nat × W32 × Bool) :=
  let ls := lanesOf x.frag.mask
  let shared := bitsOf (srcVal x.gang (ls.headD 0) a).toNat 15 8
  let ns := laneElems src dst; let nd := laneElems dst src
  let vals := fun l => cvtValues src ns shared (srcVal x.gang l a).toNat
  let rd := fun l k => rndAt rnd (seedOf s x l) (tabGetD x.gang.draws l 0 + k)
  let raw := fun l => (Config.nanBits 9 (srcVal x.gang l a) 0#32 0#32).toNat
  let block := fun (e : Elem) (sx : Bool) =>
    let vs := (List.range 32).map (fun l => if ls.contains l then (vals l).headD Num.zero else Num.zero)
    let b := toBlock e sx ((List.range 32).map (fun l => rd l 0)) vs
    ls.map (fun l => (l, laneForm b.1 (if sx then b.2.1.getD (l / 8) 0 else 0) (b.2.2.getD l 0), false))
  let elems := fun (e : Elem) => ls.map (fun l =>
    let w := elemBits e
    let cs := (List.range (min ns nd)).map (fun k =>
      elemCode e (rd l k) sat (raw l / 2 ^ (w * k) % 2 ^ w) ((vals l).getD k Num.zero))
    let high := if ns < nd then (Config.pairWord src dst (srcVal x.gang l a)).toNat / 2 ^ w * 2 ^ w else 0
    (l, BitVec.ofNat 32 ((cs.mapIdx (fun k c => c.1 * 2 ^ (w * k))).foldl (· + ·) high), cs.any (·.2)))
  if nd < ns then ls.map (fun l => (l, Config.pairWord src dst (srcVal x.gang l a), false))
  else match dst with
    | .scalar e => elems e
    | .pair e => elems e
    | .mx e => block e false
    | .sx4 => block .e2m1 true

/-- A pair is of a 16-bit format, a block of an element that has block form, and `.SR` converts to floating or block formats only
(R115, R120, R121). -/
def cvtOk (src dst : Fmt) (rnd : Rnd) : Bool :=
  let ok := fun (f : Fmt) => match f with
    | .scalar _ => true
    | .pair e => decide (e = .fp16 ∨ e = .bf16)
    | .mx e => decide (e = .e4m3 ∨ e = .e5m2 ∨ e = .e3m2 ∨ e = .e2m3 ∨ e = .e2m1 ∨ e = .int8)
    | .sx4 => true
  let toInt := match dst with
    | .scalar e => isIntElem e
    | _ => false
  ok src && ok dst && !(toInt && decide (rnd = .sr))

/-- CVT. -/
def cvt (g : FragRef) (src dst : Fmt) (rnd : Rnd) (sat : Bool) (d : Nat) (a : Src) (s : State) : State :=
  issue g (d :: srcRegs [a]) (srcUregs [a]) [] (fun x st =>
    if !cvtOk src dst rnd then illegal x 1 st
    else consume x [a]
      (let rs := cvtResults st x src dst rnd sat a
       let n := if rnd = .sr then laneElems src dst else 0
       let st1 := onGang g (fun y => { y with
         cvtFlags := y.cvtFlags ||| maskOf ((rs.filter (fun r => r.2.2)).map (·.1))
         draws := if n = 0 then y.draws
           else (lanesOf x.frag.mask).foldl (fun m l => tabPut m l (tabGetD m l 0 + n)) y.draws }) st
       writeLanes x d (rs.map (fun r => (r.1, r.2.1, false))) st1) st) s

def execCvt (g : FragRef) (src dst : Fmt) (rnd : Rnd) (sat : Bool) (d : Nat) (a : Src) (s : State) :
    Host.Outcome State Fault Refusal := .next (cvt g src dst rnd sat d a s)

/-! ### Data movement (R82, R87, R108) -/

/-- DATA_MOVE: MOV, SEL, and BCAST of the lowest active lane's value (DEDUCED, log 27). Poison moves with its data. -/
def dataMove (g : FragRef) (dst : Nat) (op : MoveOp) (s : State) : State :=
  match op with
  | .mov a => issue g (dst :: srcRegs [a]) (srcUregs [a]) [] (fun x st =>
      writeLanes x dst ((lanesOf x.frag.mask).map (fun l => (l, srcVal x.gang l a, srcPoison x.gang l a))) st) s
  | .sel p a b => issue g (dst :: srcRegs [a, b]) (srcUregs [a, b]) [p] (fun x st =>
      writeLanes x dst ((lanesOf x.frag.mask).map (fun l =>
        let y := if predVal x.gang l p then a else b
        (l, srcVal x.gang l y, srcPoison x.gang l y))) st) s
  | .bcast a => issue g (dst :: srcRegs [a]) (srcUregs [a]) [] (fun x st =>
      let h := (lanesOf x.frag.mask).headD 0
      writeLanes x dst ((lanesOf x.frag.mask).map (fun l => (l, srcVal x.gang h a, srcPoison x.gang h a))) st) s

def execDataMove (g : FragRef) (dst : Nat) (op : MoveOp) (s : State) : Host.Outcome State Fault Refusal :=
  .next (dataMove g dst op s)

/-- VOTE: the number of active lanes of the fragment whose predicate holds (R87; DEDUCED, log 27). -/
def vote (g : FragRef) (dst p : Nat) (s : State) : State :=
  issue g [dst] [] [p] (fun x st =>
    let n := ((lanesOf x.frag.mask).filter (fun l => predVal x.gang l p)).length
    writeLanes x dst ((lanesOf x.frag.mask).map (fun l => (l, BitVec.ofNat 32 n, false))) st) s

def execVote (g : FragRef) (dst p : Nat) (s : State) : Host.Outcome State Fault Refusal := .next (vote g dst p s)

/-- SHFL: each lane reads register `src` of the lane its operand names, as it stands; a lane number above 31 reads an open value
(log 28). -/
def shfl (g : FragRef) (dst src : Nat) (lane : Src) (s : State) : State :=
  issue g (dst :: src :: srcRegs [lane]) (srcUregs [lane]) [] (fun x st =>
    consume x [lane] (writeLanes x dst ((lanesOf x.frag.mask).map (fun l =>
      let k := (srcVal x.gang l lane).toNat
      if k < 32 then (l, regVal x.gang k src, regPoison x.gang k src)
      else (l, BitVec.ofNat 32 (Config.openField (st.freeCtr + l)), false))) st.draw) st) s

def execShfl (g : FragRef) (dst : Nat) (src : Nat) (lane : Src) (s : State) : Host.Outcome State Fault Refusal :=
  .next (shfl g dst src lane s)

/-- Cluster of a logical core (R72). -/
def clusterOf (s : State) (core : Nat) : Nat := (s.boot.coreMap.get (towerOfCore core)).getD (core % 128) 0 / 17

/-- SREG (R82, R121). -/
def sregVal (s : State) (x : Act) (l : Nat) (w : SRegName) : W32 :=
  let cyc := (coreAt s x.g.core).cycles
  match w with
  | .lane => BitVec.ofNat 32 l
  | .cluster => BitVec.ofNat 32 (clusterOf s x.g.core)
  | .cycleLo => BitVec.ofNat 32 cyc
  | .cycleHi => BitVec.ofNat 32 (cyc / 2 ^ 32)
  | .timeLo => BitVec.ofNat 32 s.nowNs
  | .timeHi => BitVec.ofNat 32 (s.nowNs / 2 ^ 32)
  | .cvtFlag => if x.gang.cvtFlags.getLsbD l then 1#32 else 0#32

/-- SREG. -/
def sreg (g : FragRef) (dst : Nat) (which : SRegName) (s : State) : State :=
  issue g [dst] [] [] (fun x st =>
    writeLanes x dst ((lanesOf x.frag.mask).map (fun l => (l, sregVal st x l which, false))) st) s

def execSreg (g : FragRef) (dst : Nat) (which : SRegName) (s : State) : Host.Outcome State Fault Refusal :=
  .next (sreg g dst which s)

/-! ### Control (R85 to R87) -/

/-- BRA: a divergent branch splits the fragment; the taken lanes form a new one. -/
def bra (g : FragRef) (p : Nat) (neg : Bool) (target reconv : Nat) (s : State) : State :=
  issue g [] [] [p] (fun x st =>
    let taken := (lanesOf x.frag.mask).filter (fun l => predVal x.gang l p != neg)
    let fall := (lanesOf x.frag.mask).filter (fun l => predVal x.gang l p == neg)
    if taken = [] then advance g st
    else if fall = [] then onGang g settleGang (onFrag g (fun f => { f with pc := target }) st)
    else onGang g (fun y =>
      let sp : Split := { id := y.nextSplit, reconv := reconv }
      let f0 : Frag := { x.frag.only fall with pc := x.frag.pc + 16, splits := sp :: x.frag.splits }
      let f1 : Frag := { x.frag.only taken with pc := target, splits := sp :: x.frag.splits }
      settleGang { y with frags := tabPut (tabPut y.frags g.frag f0) (freeEntry y) f1, nextSplit := y.nextSplit + 1 }) st) s

def execBra (g : FragRef) (p : Nat) (neg : Bool) (target reconv : Nat) (s : State) : Host.Outcome State Fault Refusal :=
  .next (bra g p neg target reconv s)

/-- RECONV: the fragment waits for the others of its branch; with no branch to reconverge it goes on. -/
def reconvI (g : FragRef) (s : State) : State :=
  issue g [] [] [] (fun x st =>
    match x.frag.splits.find? (fun sp => decide (sp.reconv = x.frag.pc)) with
    | some sp => onGang g settleGang (waitFor g (.reconv sp.id) st)
    | none => advance g st) s

def execReconv (g : FragRef) (s : State) : Host.Outcome State Fault Refusal := .next (reconvI g s)

/-- CALL: the return address of each lane is the next instruction. -/
def call (g : FragRef) (target : Nat) (s : State) : State :=
  issue g [] [] [] (fun x st =>
    onGang g settleGang (onFrag g (fun f => { f with
      calls := (lanesOf f.mask).foldl (fun m l => tabPut m l ((x.frag.pc + 16) :: tabGetD m l [])) f.calls
      pc := target }) st)) s

def execCall (g : FragRef) (target : Nat) (s : State) : Host.Outcome State Fault Refusal := .next (call g target s)

/-- The lanes of a fragment by the address they return to, in order of their first lane; none with no call to return from. -/
def returnGroups (f : Frag) : List (Option Nat × List Nat) :=
  (lanesOf f.mask).foldl (fun (gs : List (Option Nat × List Nat)) l =>
    let r := (tabGetD f.calls l []).head?
    if gs.any (fun e => decide (e.1 = r)) then gs.map (fun e => if e.1 = r then (e.1, e.2 ++ [l]) else e) else gs ++ [(r, [l])]) []

/-- Drop the innermost return address of every lane. -/
def popCalls (m : Tab (List Nat)) : Tab (List Nat) :=
  (m.map (fun e => (e.1, e.2.drop 1))).filter (fun e => e.2 ≠ [])

/-- RET. Lanes that return to different addresses, as a repack may have brought them together, go on as fragments of their own (DESIGN
CHOICE, log 25); with no call to return from, the program counter is open (log 28). -/
def ret (g : FragRef) (s : State) : State :=
  issue g [] [] [] (fun x st =>
    let back := fun (e : Option Nat × List Nat) =>
      let f := x.frag.only e.2
      { f with calls := popCalls f.calls, pc := e.1.getD (Config.openField st.freeCtr), wait := .ready }
    match returnGroups x.frag with
    | [] => st
    | e :: rest =>
      let st1 := onGang g (fun y => settleGang (rest.foldl (fun z r => { z with frags := tabPut z.frags (freeEntry z) (back r) })
        { y with frags := tabPut y.frags g.frag (back e) })) st
      if (e :: rest).any (fun r => decide (r.1 = none)) then st1.draw else st1) s

def execRet (g : FragRef) (s : State) : Host.Outcome State Fault Refusal := .next (ret g s)

/-- YIELD: the gang goes to the back of the issue order (R85). -/
def yield (g : FragRef) (s : State) : State :=
  issue g [] [] [] (fun x st =>
    let n := (coreAt st g.core).nextOrder + 1
    advance g (onGang g (fun y => { y with order := n }) (onCore g.core (fun c => { c with
      nextOrder := n
      lastIssue := tabPut c.lastIssue x.gang.quarter (n, gangKey g, g.frag) }) st))) s

def execYield (g : FragRef) (s : State) : Host.Outcome State Fault Refusal := .next (yield g s)

end Sys2Proof.Machine
end

