-- ==== Sys2Proof/Machine/Matrix.lean ====
section
/-! DEFINITION. The matrix array: MMA, its chains, MXLD, MXST and MXWAIT (04_matrix.md R124 to R140). -/

namespace Sys2Proof.Machine

/-! ### Formats, shapes and sizes (Tables 4.8 to 4.10) -/

/-- Operand classes of Table 4.8. -/
inductive MxClass where
  | f8 | f4 | i8 | i4 | b16 | f16
deriving DecidableEq, Repr

/-- The class of an operand format; none where MMA takes no such operand. -/
def mxClass : Fmt → Option MxClass
  | .sx4 => some .f4
  | .pair _ => none
  | .mx .e2m1 => some .f4
  | .mx .fp32 => none
  | .mx .fp16 => none
  | .mx .bf16 => none
  | .mx .e8m0 => none
  | .mx .int4 => none
  | .mx .int32 => none
  | .mx _ => some .f8
  | .scalar .e4m3 => some .f8
  | .scalar .e5m2 => some .f8
  | .scalar .e2m1 => some .f4
  | .scalar .int8 => some .i8
  | .scalar .int4 => some .i4
  | .scalar .bf16 => some .b16
  | .scalar .fp16 => some .f16
  | .scalar _ => none

/-- K of a pair, elements in a group, integer accumulation; none for a pair that is not listed (R126, R136). -/
def mmaPair (fa fb : Fmt) : Option (Nat × Nat × Bool) :=
  match mxClass fa, mxClass fb with
  | some .f8, some .f8 => some (256, 32, false)
  | some .f8, some .f4 => some (256, 32, false)
  | some .f4, some .f8 => some (256, 32, false)
  | some .f4, some .f4 => some (512, 32, false)
  | some .i8, some .i8 => some (256, 32, true)
  | some .i8, some .i4 => some (256, 32, true)
  | some .i4, some .i8 => some (256, 32, true)
  | some .i4, some .i4 => some (512, 32, true)
  | some .b16, some .b16 => some (128, 8, false)
  | some .f16, some .f16 => some (128, 8, false)
  | _, _ => none

/-- M and N of a shape. -/
def shapeMN : MmaShape → Nat × Nat
  | .m16n128 => (16, 128)
  | .m32n64 => (32, 64)
  | .m64n32 => (64, 32)
  | .m16n64 => (16, 64)
  | .m32n32 => (32, 32)

/-- C registers per lane. -/
def shapeRegs (sh : MmaShape) : Nat := (shapeMN sh).1 * (shapeMN sh).2 / 32

/-- Row size S (Table 4.10). -/
def mxRowBytes (f : Fmt) (k : Nat) : Nat := unitBytes f * (k / 32)

/-- A format that MXLD, MXST may name (R124). -/
def mxFmtOk : Fmt → Bool
  | .pair _ => false
  | .scalar .e8m0 => false
  | f => cvtOk f f .rn

/-! ### Arithmetic (R136 to R138) -/

/-- K elements of a row. -/
def mxRow (f : Fmt) (k : Nat) (bs : List Byte) : List Num :=
  (List.range (k / 32)).flatMap (fun u => unitValues f (sliceBytes bs (u * unitBytes f) (unitBytes f)))

/-- Lists of `n` elements cut from a list. -/
def chunks {α : Type} (n : Nat) (xs : List α) : List (List α) :=
  (List.range (ceilDiv xs.length n)).map (fun i => (xs.drop (i * n)).take n)

/-- A product that zero-gating suppresses. -/
def suppressed (p : Num × Num) : Bool := isZero p.1 || isZero p.2

/-- The sum of a group rounded once; a suppressed product adds zero. -/
def groupSum (ps : List (Num × Num)) : W32 :=
  toFp32 (numSum ((ps.filter (fun p => !suppressed p)).map (fun p => numMul p.1 p.2)))

/-- One output in FP32: groups are added in ascending K; the row's flag forces NaN. -/
def dotFloat (group : Nat) (acc : W32) (a b : List Num) : W32 :=
  let ps := a.zip b
  if ps.any (fun p => suppressed p && (isSpecial p.1 || isSpecial p.2)) then 0x7FC00000#32
  else (chunks group ps).foldl (fun c g => add32 c (groupSum g)) acc

/-- The integer an exact value is. -/
def numInt : Num → Int
  | .fin sg m e => signed sg (m * 2 ^ e.toNat)
  | _ => 0

/-- One output in INT32, modulo 2^32. -/
def dotInt (acc : W32) (a b : List Num) : W32 :=
  acc + BitVec.ofInt 32 ((a.zip b).foldl (fun (s : Int) p => s + numInt p.1 * numInt p.2) 0)

/-- The accumulators of a tile after one MMA (R128, R129). -/
def mmaTile (w : Crew) (sh : MmaShape) (fa fb : Fmt) (a b sa sb : Nat) (acc : Tab W32) : Tab W32 :=
  match mmaPair fa fb with
  | none => acc
  | some (k, group, int) =>
    let (m, n) := shapeMN sh
    let ra := (List.range m).map (fun i => mxRow fa k (lmemRead w (a + i * sa) (mxRowBytes fa k)))
    let rb := (List.range n).map (fun j => mxRow fb k (lmemRead w (b + j * sb) (mxRowBytes fb k)))
    (List.range m).foldl (fun t i => (List.range n).foldl (fun t j =>
      let key := j % 32 * 256 + i * (n / 32) + j / 32
      let c := tabGetD acc key 0#32
      tabPut t key (if int then dotInt c (ra.getD i []) (rb.getD j []) else dotFloat group c (ra.getD i []) (rb.getD j []))) t) []

/-! ### Queues and chains (R131, R132, R135) -/

/-- Queue and accumulator buffers of a quarter. -/
def mxQueue (c : Core) (q : Nat) : List MxEntry := tabGetD c.mxq q []
def mxChains (c : Core) (q : Nat) : List Chain := tabGetD c.chains q []

/-- Set them. -/
def setMxQueue (core q : Nat) (es : List MxEntry) (s : State) : State := onCore core (fun c => { c with mxq := tabPut c.mxq q es }) s
def setMxChains (core q : Nat) (es : List Chain) (s : State) : State :=
  onCore core (fun c => { c with chains := tabPut c.chains q es }) s

/-- An MMA without `.Z` continues a chain. -/
def chainFits (x : Chain) (slot gang : Nat) (sh : MmaShape) (int : Bool) (c : Nat) : Bool :=
  x.joinable && decide (x.slot = slot ∧ x.gang = gang ∧ x.sh = sh ∧ x.intAcc = int ∧ x.c = c)

/-- The pair accumulates in INT32. -/
def pairInt (fa fb : Fmt) : Bool := ((mmaPair fa fb).map (·.2.2)).getD false

/-- C as the registers of the gang hold it, by lane × 256 + offset from `c`. -/
def readC (s : State) (g : FragRef) (sh : MmaShape) (c : Nat) : Tab W32 :=
  match tabGet (coreAt s g.core).gangs (gangKey g) with
  | none => []
  | some y => (List.range 32).flatMap (fun l => (List.range (shapeRegs sh)).map (fun i => (l * 256 + i, regVal y l (c + i))))

/-- MX_FREEZE and MX_BUSY of an MMA: T − Tₐ and Tₐ (R133, R135). In how many cycles a local-memory instruction takes the fourth port is
open: the feeder's time lies between that at 512 and that at 384 bytes a cycle (log 30). -/
def countMma (core : Nat) (sh : MmaShape) (fa fb : Fmt) (s : State) : State :=
  let k := ((mmaPair fa fb).map (·.1)).getD 0
  let (m, n) := shapeMN sh
  let ta := m * n / 32
  let bytes := m * roundUp (mxRowBytes fa k) 32 + n * roundUp (mxRowBytes fb k) 32
  let tf := ceilDiv bytes 512 + Config.duration s.freeCtr % (ceilDiv bytes 384 - ceilDiv bytes 512 + 1)
  ctrAdd 1 (core * 2) (tf - ta) (ctrAdd 1 (core * 2 + 1) ta s.draw)

/-- Cycles that a drain held the array up: how many is open (R135; log 30). -/
def countFreeze (core : Nat) (s : State) : State := ctrAdd 1 (core * 2) (Config.duration s.freeCtr) s.draw

/-- An operand range of MMA holds a poisoned word. -/
def mmaPoison (w : Crew) (base rows stride size : Nat) : Bool :=
  (List.range rows).any (fun i => lmemPoison w (base + i * stride) size)

/-- An MMA takes a poisoned word of A or B: a fault of the fragment that issued it (R139). -/
def mmaFault (core : Nat) (e : MxEntry) (s : State) : State :=
  let c := coreAt s core
  match tabGet c.crews e.slot, tabGet c.gangs (e.slot * 32 + e.gang) with
  | some w, some y =>
    coreFault { g := ⟨core, e.slot, e.gang, e.frag⟩, crew := w, gang := y,
                frag := { pc := e.pc, mask := ~~~y.exited, wait := .ready, calls := [], splits := [] } }
      evPoisonConsumed (~~~y.exited) 0 s
  | _, _ => s

/-- The array is on the instruction at the head of a quarter's queue. An MMA that continues the last chain, or finds a buffer free, is
multiplied; another holds the array until a chain has drained, and an MXLD or MXST until its units have moved: none. Poison in A and B is
looked for as the array reads them, after the MXST before it (R134, R139). -/
def mxServe (core q : Nat) (e : MxEntry) (rest : List MxEntry) (s : State) : Option State :=
  let c := coreAt s core
  match e.op with
  | .mma sh fa fb z cr a b sa sb =>
    match tabGet c.crews e.slot with
    | none => some (setMxQueue core q rest s)
    | some w =>
      let chains := mxChains c q
      let int := pairInt fa fb
      let (m, n) := shapeMN sh
      let k := ((mmaPair fa fb).map (·.1)).getD 0
      if mmaPoison w a m sa (mxRowBytes fa k) || mmaPoison w b n sb (mxRowBytes fb k) then
        some (mmaFault core e (setMxQueue core q rest s))
      else match (if z then none else chains.getLast?.filter (fun x => chainFits x e.slot e.gang sh int cr)) with
        | some x => some (setMxQueue core q rest (setMxChains core q
            (chains.dropLast ++ [{ x with acc := mmaTile w sh fa fb a b sa sb x.acc, tags := x.tags ++ [e.tag] }])
            (countMma core sh fa fb s)))
        | none =>
          if chains.length < 2 then
            let acc := if z then [] else readC s ⟨core, e.slot, e.gang, 0⟩ sh cr
            let x : Chain :=
              { slot := e.slot, gang := e.gang, sh := sh, intAcc := int, c := cr, acc := mmaTile w sh fa fb a b sa sb acc,
                joinable := true, tags := [e.tag] }
            some (setMxQueue core q rest (setMxChains core q
              (chains.map (fun y => { y with joinable := false }) ++ [x]) (countMma core sh fa fb s)))
          else none
  | _ => none

/-- The quarters in the order in which the array turns to them. -/
def mxOrder (c : Core) : List Nat := (List.range 4).map (fun i => (c.mxLast + 1 + i) % 4)

/-- The array takes instructions from the heads of the four queues round-robin, one at a time (R131). -/
def mxAdvance (core : Nat) : Nat → State → State
  | 0, s => s
  | n + 1, s =>
    let c := coreAt s core
    match c.mxTaken with
    | none =>
      match (mxOrder c).find? (fun q => decide (mxQueue c q ≠ [])) with
      | none => s
      | some q => mxAdvance core n (onCore core (fun y => { y with mxTaken := some q, mxLast := q }) s)
    | some q =>
      let free := onCore core (fun y => { y with mxTaken := none })
      match mxQueue c q with
      | [] => mxAdvance core n (free s)
      | e :: rest =>
        match mxServe core q e rest s with
        | some s1 => mxAdvance core n (free s1)
        | none => s

/-- Steps that serve every entry of the four queues. -/
abbrev mxSteps : Nat := 20

/-- The last matrix instruction of a quarter is an MMA of the gang that the next one continues. -/
def continues (c : Core) (q slot gang : Nat) (sh : MmaShape) (int : Bool) (cr : Nat) : Bool :=
  match (mxQueue c q).getLast? with
  | some e =>
    match e.op with
    | .mma sh1 fa fb _ c1 _ _ _ _ =>
      decide (e.slot = slot ∧ e.gang = gang ∧ sh1 = sh ∧ c1 = cr ∧ pairInt fa fb = int)
    | _ => false
  | none => (((mxChains c q).getLast?).map (fun x => chainFits x slot gang sh int cr)).getD false

/-! ### Issue (R125, R130) -/

/-- Issue a matrix instruction: from a fragment that holds every live lane, into a queue that has room. -/
def issueMatrix (g : FragRef) (us : List Nat) (body : Act → State → State) (s : State) : State :=
  issue g [] us [] (fun x st =>
    if decide (x.frag.mask ≠ ~~~x.gang.exited) || decide (2 ≤ (mxQueue (coreAt st g.core) x.gang.quarter).length) then s
    else body x st) s

/-- A fragment's registers lie within REGS. -/
def fragRegsBad (x : Act) (c n : Nat) : Bool := decide (x.crew.kernel.regs < c + n)

/-- Without USES_MMA. -/
def noMma (x : Act) : Bool := !bitOf x.crew.kernel.flags 0

/-- Enter the queue and go on. -/
def mxEnter (x : Act) (op : MxOp) (tag : Nat) (s : State) : State :=
  let q := x.gang.quarter
  let es := mxQueue (coreAt s x.g.core) q
    ++ [{ slot := x.g.slot, gang := x.g.gang, frag := x.g.frag, pc := x.frag.pc, op := op, tag := tag }]
  mxAdvance x.g.core mxSteps (setMxQueue x.g.core q es (advance x.g s))

/-- The next operation number. -/
def takeTag (s : State) : State × Nat := (s.onCores (fun x => { x with nextTag := x.nextTag + 1 }), s.cores.nextTag)

/-- MMA. -/
def mma (g : FragRef) (sh : MmaShape) (fa fb : Fmt) (z : Bool) (c ua ub us : Nat) (s : State) : State :=
  issueMatrix g [ua, ub, us] (fun x st =>
    match mmaPair fa fb with
    | none => illegal x 1 st
    | some (k, _, int) =>
      let (m, n) := shapeMN sh
      let a := (uregVal x.gang ua).toNat * 32; let b := (uregVal x.gang ub).toNat * 32
      let sa := bitsOf (uregVal x.gang us).toNat 15 0 * 32; let sb := bitsOf (uregVal x.gang us).toNat 31 16 * 32
      let ra := mxRowBytes fa k; let rb := mxRowBytes fb k
      let limit := x.crew.kernel.localKib * 1024
      let regs := regRun c (shapeRegs sh)
      let cont := !z && continues (coreAt st g.core) x.gang.quarter g.slot g.gang sh int c
      if noMma x then illegal x 6 st
      else if fragRegsBad x c (shapeRegs sh) then illegal x 4 st
      else if !cont && pendBusy x.gang regs then s
      else if sa < ra ∨ sb < rb then illegal x 1 st
      else if limit < a + (m - 1) * sa + ra ∨ limit < b + (n - 1) * sb + rb then violation x 3 st
      else if !z && !cont && (List.range 32).any (fun l => regs.any (regPoison x.gang l)) then
        coreFault x evPoisonConsumed x.frag.mask 0 st
      else
        let (st1, tag) := takeTag st
        mxEnter x (.mma sh fa fb z c a b sa sb) tag (onGang g (addPend c (shapeRegs sh) tag) st1)) s

def execMma (g : FragRef) (sh : MmaShape) (fa fb : Fmt) (z : Bool) (c ua ub us : Nat) (s : State) :
    Host.Outcome State Fault Refusal := .next (mma g sh fa fb z c ua ub us s)

/-- The chain of a quarter that the next entry of its queue continues is not yet written (R132). -/
def chainGoesOn (c : Core) (q : Nat) (x : Chain) (rest : List Chain) : Bool :=
  decide (rest = []) && match mxQueue c q with
    | e :: _ => match e.op with
      | .mma sh fa fb z cr _ _ _ _ => !z && chainFits x e.slot e.gang sh (pairInt fa fb) cr
      | _ => false
    | [] => false

/-- MMA_CHAIN_DRAIN: the oldest chain of a quarter is written to its C registers, and they are released. -/
def mmaChainDrain (core q : Nat) (s0 : State) : State :=
  let s := mxAdvance core mxSteps s0
  match mxChains (coreAt s core) q with
  | [] => s
  | x :: rest =>
    if chainGoesOn (coreAt s core) q x rest then s
    else
      let g : FragRef := ⟨core, x.slot, x.gang, 0⟩
      let st := if (coreAt s core).mxTaken = some q ∧ rest ≠ [] then countFreeze core s else s
      mxAdvance core mxSteps (setMxChains core q rest (onGang g (fun y =>
        x.tags.foldl (fun z t => dropPend t z)
          (x.acc.foldl (fun z (e : Nat × W32) => setReg (e.1 / 256) (x.c + e.1 % 256) e.2 false z) y)) st))

def execMmaChainDrain (core quarter : Nat) (s : State) : Host.Outcome State Fault Refusal := .next (mmaChainDrain core quarter s)

/-- Checks of MXLD and MXST: the named format, the count, the registers and the local-memory extent. -/
def mxMoveChecked (x : Act) (fmt : Fmt) (c a n : Nat) (bad : Bool) (k : State) (s : State) : State :=
  if !mxFmtOk fmt || bad || decide (n = 0 ∨ 64 < n) then illegal x 1 s
  else if noMma x then illegal x 6 s
  else if fragRegsBad x c n then illegal x 4 s
  else if x.crew.kernel.localKib * 1024 < a + n * unitBytes fmt then violation x 3 s
  else k

/-- MXLD. -/
def mxld (g : FragRef) (fmt : Fmt) (c ua n : Nat) (s : State) : State :=
  issueMatrix g [ua] (fun x st =>
    let a := (uregVal x.gang ua).toNat * 32
    if pendBusy x.gang (regRun c n) then s
    else mxMoveChecked x fmt c a n false
      (let (st1, tag) := takeTag st
       mxEnter x (.mxld fmt c a n) tag (onGang g (addPend c n tag) st1)) st) s

def execMxld (g : FragRef) (fmt : Fmt) (c ua n : Nat) (s : State) : Host.Outcome State Fault Refusal := .next (mxld g fmt c ua n s)

/-- A value an MXLD expands a unit's element to: INT32 for an integer element, else FP32. -/
def mxldWord (f : Fmt) (v : Num) : W32 :=
  match f with
  | .scalar e => if isIntElem e then BitVec.ofInt 32 (numInt v)
      else BitVec.ofNat 32 (roundOpen fmtFp32 (Config.nanBits 10 0#32 0#32 0#32).toNat v)
  | _ => BitVec.ofNat 32 (roundOpen fmtFp32 (Config.nanBits 10 0#32 0#32 0#32).toNat v)

/-- One unit of an MXST: packed bytes of the 32 lanes' register, whether it is poisoned, and the lanes whose exception flag is set.
An integer element converts from INT32, every other from FP32 (DEDUCED, log 30). -/
def mxstUnit (s : State) (x : Act) (fmt : Fmt) (rnd : Rnd) (sat : Bool) (r i : Nat) : List Byte × Bool × List Nat :=
  let rd := fun l => rndAt rnd (seedOf s x l) (tabGetD x.gang.draws l 0 + i)
  let raw := fun l => regVal x.gang l r
  let pz := (List.range 32).any (fun l => regPoison x.gang l r)
  let block := fun (e : Elem) (sx : Bool) =>
    (blockBytes sx e (toBlock e sx ((List.range 32).map rd) ((List.range 32).map (fun l => fp32 (raw l)))), pz, ([] : List Nat))
  match fmt with
  | .mx e => block e false
  | .sx4 => block .e2m1 true
  | f =>
    let e := fmtElem f
    let cs := (List.range 32).map (fun l =>
      elemCode e (rd l) sat (Config.nanBits 11 (raw l) 0#32 0#32).toNat
        (if isIntElem e then elemValue .int32 (raw l).toNat else fp32 (raw l)))
    (packElems (elemBits e) (cs.map (·.1)), pz, (List.range 32).filter (fun l => (cs.getD l (0, false)).2))

/-- MXST: the registers are read and converted at issue; the writes come with MXLD_MXST_COMPLETE. -/
def mxst (g : FragRef) (fmt : Fmt) (rnd : Rnd) (sat : Bool) (ua c n : Nat) (s : State) : State :=
  issueMatrix g [ua] (fun x st =>
    let a := (uregVal x.gang ua).toNat * 32
    if pendBusy x.gang (regRun c n) then s
    else mxMoveChecked x fmt c a n (!cvtOk fmt fmt rnd)
      (let us := (List.range n).map (fun i => mxstUnit st x fmt rnd sat (c + i) i)
       let st1 := onGang g (fun y => { y with
         cvtFlags := us.foldl (fun m u => m ||| maskOf u.2.2) y.cvtFlags
         draws := if rnd = .sr then (List.range 32).foldl (fun m l => tabPut m l (tabGetD m l 0 + n)) y.draws else y.draws }) st
       let (st2, tag) := takeTag st1
       mxEnter x (.mxst (us.mapIdx (fun i u => (a + i * unitBytes fmt, u.1, u.2.1)))) tag st2) st) s

def execMxst (g : FragRef) (fmt : Fmt) (rnd : Rnd) (sat : Bool) (ua c n : Nat) (s : State) :
    Host.Outcome State Fault Refusal := .next (mxst g fmt rnd sat ua c n s)

/-- MXLD_MXST_COMPLETE: the MXLD or MXST that the array has taken from a quarter moves its units (R131, R134, R139). How long an MXST
waited for a port is open (R135). -/
def mxldMxstComplete (core q : Nat) (s0 : State) : State :=
  let s := mxAdvance core mxSteps s0
  match (if (coreAt s core).mxTaken = some q then mxQueue (coreAt s core) q else []) with
  | [] => s
  | e :: rest =>
    let g : FragRef := ⟨core, e.slot, e.gang, 0⟩
    let next := fun (st : State) => mxAdvance core mxSteps (onCore core (fun y => { y with mxTaken := none }) (setMxChains core q
      ((mxChains (coreAt st core) q).map (fun y => { y with joinable := false })) (setMxQueue core q rest st)))
    match e.op with
    | .mma _ _ _ _ _ _ _ _ _ => s
    | .mxld f c a n =>
      match tabGet (coreAt s core).crews e.slot with
      | none => next s
      | some w => next (onGang g (fun y => dropPend e.tag ((List.range n).foldl (fun z i =>
          let off := a + i * unitBytes f
          let pz := lmemPoison w off (unitBytes f)
          let vs := unitValues f (lmemRead w off (unitBytes f))
          (List.range 32).foldl (fun z l => setReg l (c + i) (mxldWord f (vs.getD l Num.zero)) pz z) z) y)) s)
    | .mxst us => next (onCrew core e.slot (fun w => us.foldl (fun z u => lmemWrite u.1 u.2.1 u.2.2 z) w) (countFreeze core s))

def execMxldMxstComplete (core quarter : Nat) (s : State) : Host.Outcome State Fault Refusal :=
  .next (mxldMxstComplete core quarter s)

/-- A matrix instruction of the gang has not finished. -/
def mxBusy (c : Core) (slot gang : Nat) : Bool :=
  c.mxq.any (fun e => e.2.any (fun m => decide (m.slot = slot ∧ m.gang = gang)))
    || c.chains.any (fun e => e.2.any (fun m => decide (m.slot = slot ∧ m.gang = gang)))

/-- MXWAIT. -/
def mxwait (g : FragRef) (s0 : State) : State :=
  let s := mxAdvance g.core mxSteps s0
  issue g [] [] [] (fun x st =>
    if decide (x.frag.mask ≠ ~~~x.gang.exited) then s
    else if noMma x then illegal x 6 st
    else if mxBusy (coreAt st g.core) g.slot g.gang then s
    else advance g st) s

def execMxwait (g : FragRef) (s : State) : Host.Outcome State Fault Refusal := .next (mxwait g s)

end Sys2Proof.Machine
end

