-- ==== Sys2Proof/Machine/Press.lean ====
section
/-! DEFINITION. The press: sweep descriptors, the sweep queues, validation, passes and the online softmax, records and their merge,
append-quantize, and SWP.POST (05_press.md R143 to R173, 03_cores.md R107). -/

namespace Sys2Proof.Machine

/-! ### Descriptor headers (R146, R151) -/

/-- Read a header (Table 5.5). -/
def sweepHdrOf (bs : List Byte) : SweepHdr :=
  { mode := fieldAt bs 4 1, kvfmt := fieldAt bs 5 1, shape := fieldAt bs 6 1, g := fieldAt bs 7 1, dk := fieldAt bs 8 2,
    dv := fieldAt bs 0x0A 2, entries := fieldAt bs 0x0C 4, tableAddr := fieldAt bs 0x10 8, pages := fieldAt bs 0x18 4,
    flags := fieldAt bs 0x1C 4, pageAddr := fieldAt bs 0x20 8, outAddr := fieldAt bs 0x28 8, finalAddr := fieldAt bs 0x30 8,
    scale := fieldAt bs 0x38 4 }

/-- Widths and queries of Table 5.4. -/
def sweepShapeOk (h : SweepHdr) : Bool :=
  if h.shape = 0 then [64, 96, 128, 160, 192, 224, 256].contains h.dk && decide (h.dv = h.dk)
  else decide (h.shape = 1 ∧ 64 ≤ h.dk ∧ h.dk ≤ 640 ∧ h.dk % 32 = 0 ∧ 32 ≤ h.dv ∧ h.dv ≤ min 512 h.dk ∧ h.dv % 32 = 0)

/-- The fields lie in Table 5.5 and Table 5.4, reserved ones 0. For APPEND only SR, and no output, is taken to be allowed (DEDUCED,
log 31). -/
def sweepHdrOk (bs : List Byte) : Bool :=
  let h := sweepHdrOf bs
  decide (fieldAt bs 0 4 = 0x44505753 ∧ h.kvfmt ≤ 2 ∧ h.tableAddr % 32 = 0) && zeroAt bs 0x3C 4 && sweepShapeOk h
    && (if h.mode = 2 then
          decide (h.g = 0 ∧ 1 ≤ h.entries ∧ h.entries ≤ 65536 ∧ h.pages = 0 ∧ h.pageAddr = 0 ∧ (h.flags = 0 ∨ h.flags = 8)
            ∧ h.outAddr = 0 ∧ h.finalAddr = 0)
        else
          decide (h.mode ≤ 1 ∧ 1 ≤ h.g ∧ h.g ≤ (if h.shape = 0 then 16 else 64) ∧ 1 ≤ h.entries ∧ h.entries ≤ 8192
            ∧ 1 ≤ h.pages ∧ h.pages ≤ (if h.mode = 0 then 2097152 else 65535) ∧ h.flags < 8 ∧ h.pageAddr % 16 = 0
            ∧ h.outAddr % 32 = 0 ∧ h.finalAddr % 32 = 0)
          && (decide (h.outAddr ≠ 0) || (bitOf h.flags 1 && !bitOf h.flags 0)) && (bitOf h.flags 1 || decide (h.finalAddr = 0)))

/-- Element format of KV rows. -/
def kvFmt (code : Nat) : Fmt := if code = 0 then .scalar .bf16 else if code = 1 then .scalar .e4m3 else .sx4

/-- Row size of `n` elements, and half size H (R144). -/
def kvRow (code n : Nat) : Nat := unitBytes (kvFmt code) * (n / 32)
def kvHalf (h : SweepHdr) : Nat := roundUp ((if h.shape = 0 then 64 else 32) * kvRow h.kvfmt h.dk) 256

/-! ### Table entries (R152, R153, R164) -/

/-- The entries that tables hold. -/
def sweepGroups (h : SweepHdr) (tab : List Byte) : List SwGroup :=
  (List.range h.entries).map (fun i =>
    let b := sliceBytes tab (32 * i) 32
    { qaddr := fieldAt b 0 8, pos := fieldAt b 8 4, window := fieldAt b 0x0C 4, first := fieldAt b 0x10 4,
      count := fieldAt b 0x14 4, outIndex := fieldAt b 0x18 4, seq := fieldAt b 0x1C 2, clean := zeroAt b 0x1E 2 })
def sweepPages (h : SweepHdr) (tab : List Byte) : List SwPage :=
  (List.range h.pages).map (fun i =>
    let b := sliceBytes tab (16 * i) 16
    { addr := fieldAt b 0 8, tok0 := fieldAt b 8 4, valid := fieldAt b 0x0C 1, clean := zeroAt b 0x0D 3 })
def sweepAppends (h : SweepHdr) (tab : List Byte) : List SwAppend :=
  (List.range h.entries).map (fun i =>
    let b := sliceBytes tab (32 * i) 32
    { src := fieldAt b 0 8, page := fieldAt b 8 8, token := fieldAt b 0x10 1, clean := zeroAt b 0x11 15 })

/-! ### Validation (R149, R171) -/

/-- A fault found for an operation: code, unit, cause, entry, address. -/
structure SwFault where
  code : Nat
  unit : Nat
  cause : Nat
  entry : Nat
  addr : Nat
deriving DecidableEq, Repr

/-- Page-set entries of an item; none for a posted sweep, which is not held to them. -/
def sweepDecl (s : State) (o : SweepOp) : Option (List PageSet) :=
  if o.posted.isSome then none
  else (jobAt s o.job).bind (fun j => j.sheaf.map (fun sh =>
    match sh.items[o.item]? with
    | some i => (sh.pagesets.drop i.psFirst).take i.psCount
    | none => []))

/-- Checks of one entry in ascending cause: malformed, its extents, its page, its declarations, then the last cause (DEDUCED,
log 31). -/
def sweepEntry (s : State) (t : Tower) (o : SweepOp) (entryAddr : Nat) (bad1 : Bool) (ext : List (Nat × Nat × Nat))
    (page : Option (Nat × Nat)) (late : Option Nat) : Option (Nat × Nat) :=
  let map := ((jobAt s o.job).map (·.map)).getD []
  let hh := kvHalf o.hdr
  let decl : Option (Nat × Nat × Nat) := match sweepDecl s o with
    | none => none
    | some ps =>
      (ext ++ (match page with
        | some (p, acc) => [(p, hh, acc), (p + 0x100000, hh, acc)]
        | none => [])).find? (fun (x : Nat × Nat × Nat) => !declared ps x.2.2 x.1 x.2.1)
  if bad1 then some (1, entryAddr)
  else match ext.find? (fun x => !rangeAllowed s o.job x.2.2 x.1 x.2.1) with
    | some x => some (2, x.1)
    | none =>
      let pg := match page with
        | none => none
        | some (p, acc) =>
          if !declared map acc p hh then some (2, p)
          else if (bayAt s p).map (fun (b : Bay) => decide (b.job = o.job ∧ b.layout = 1)) ≠ some true then some (3, p)
          else if (pinLoc 1 p).1 ≠ towerNum t then some (4, p)
          else if p % 256 ≠ 0 ∨ 0x100000 < (p - pinBase) % pageBytes + hh then some (5, p)
          else none
      match pg with
      | some f => some f
      | none =>
        match decl with
        | some x => some (6, x.1)
        | none => late.map (fun c => (c, entryAddr))

/-- A poisoned table is consumed by the queue (R245): its first poisoned sector. -/
def tablePoison (a size : Nat) (pz : List Nat) : Option SwFault :=
  pz.head?.map (fun k => ⟨evPoisonConsumed, 0xFFFF, 0, (k * 32 - a) / size, max a (k * 32)⟩)

/-- Validation of every entry. -/
def sweepValidate (s : State) (t : Tower) (o : SweepOp) : Option SwFault :=
  let h := o.hdr
  let mk := fun (i : Nat) (f : Nat × Nat) => (⟨evFieldViolation, 0xFFFF, f.1, i, f.2⟩ : SwFault)
  let slots := (jobAt s o.job).map (fun j => (j.seqFirst, j.seqCount))
  if h.mode = 2 then
    (o.appends.mapIdx (fun i e => (sweepEntry s t o (h.tableAddr + 32 * i) (!e.clean)
      [(e.src, 2 * (h.dk + (if h.shape = 0 then h.dv else 0)), 0)] (some (e.page, 1))
      (if 63 < e.token then some 7 else none)).map (mk i))).findSome? id
  else
    ((o.groups.mapIdx (fun i e =>
      let bad := !e.clean || decide (e.qaddr % 32 ≠ 0) ||
        (if h.mode = 0 then decide (e.count = 0 ∨ 65535 < e.count ∨ h.pages < e.first + e.count)
         else decide (e.first ≠ 0 ∨ e.count ≠ 0))
      let outs := (if h.outAddr = 0 then [] else (h.outAddr + e.outIndex * recordBytes h, h.g * recordBytes h, 1) ::
          (if bitOf h.flags 0 then [(h.outAddr + e.outIndex * recordBytes h, h.g * recordBytes h, 0)] else []))
        ++ (if bitOf h.flags 1 then [(h.finalAddr + e.outIndex * 2 * h.dv, h.g * 2 * h.dv, 1)] else [])
      let seqBad := match slots with
        | some (f, n) => decide (e.seq < f ∨ f + n ≤ e.seq)
        | none => true
      (sweepEntry s t o (h.tableAddr + 32 * i) bad ((e.qaddr, 2 * h.dk * h.g, 0) :: outs) none
        (if seqBad then some 8 else none)).map (mk i))).findSome? id).orElse (fun _ =>
    (o.pages.mapIdx (fun i e => (sweepEntry s t o (h.pageAddr + 16 * i) (!e.clean) [] (some (e.addr, 0))
      (if e.valid = 0 ∨ 64 < e.valid then some 7 else none)).map (mk i))).findSome? id)

/-- The queue reads the tables of an operation and validates what they hold (R149): the operation with its entries, and the fault. The
reads are charged to CORE (DEDUCED, log 31). -/
def sweepTables (t : Tower) (o : SweepOp) (s : State) : State × SweepOp × Option SwFault :=
  let h := o.hdr
  let (s1, tab, tp) := engineRead Agent.core o.job h.tableAddr (32 * h.entries) s
  let (s2, pages, pp) := if h.mode = 2 then (s1, [], []) else engineRead Agent.core o.job h.pageAddr (16 * h.pages) s1
  let o1 := if h.mode = 2 then { o with appends := sweepAppends h tab }
    else { o with groups := sweepGroups h tab, pages := sweepPages h pages }
  (s2, o1, ((tablePoison h.tableAddr 32 tp).orElse (fun _ => tablePoison h.pageAddr 16 pp)).orElse (fun _ => sweepValidate s2 t o1))

/-! ### Passes (R155 to R158) -/

/-- State of a query in one unit: maximum, sum, accumulator, rows consumed, NaN, no unmasked row yet. -/
structure QState where
  m : W32
  l : W32
  o : List W32
  tokens : Nat
  nan : Bool
  empty : Bool
deriving DecidableEq, Repr

/-- −∞. -/
abbrev negInf32 : W32 := 0xFF800000#32

/-- The state a query starts with. -/
def QState.start (dv : Nat) : QState := { m := negInf32, l := 0, o := List.replicate dv 0#32, tokens := 0, nan := false, empty := true }

/-- The larger of two FP32 values. -/
def max32 (a b : W32) : W32 := if numCmp (fp32 a) (fp32 b) < 0 then b else a

/-- Difference in FP32. -/
def sub32 (a b : W32) : W32 := toFp32 (numAdd (fp32 a) (numNeg (fp32 b)))

/-- round_w: BF16 for BF16 pages, else the grid of E4M3 × 2⁻⁷. -/
def roundW (kv : Nat) (p : W32) : Num :=
  if kv = 0 then bf16 (toBf16 (fp32 p))
  else numScale (-7) (decodeFloat fmtE4m3 (encodeFloat fmtE4m3 .rn true (nanCanon fmtE4m3) (numScale 7 (fp32 p))))

/-- One query over the unmasked rows (key, value) of a page (R156, R157). -/
def passQuery (kv : Nat) (sigma : W32) (q : List Num) (rows : List (List Num × List Num)) (st : QState) : QState :=
  let ss := rows.map (fun r => (mul32 sigma (dotFloat 32 0#32 q r.1), r.2))
  let st1 := { st with tokens := st.tokens + rows.length, empty := st.empty && decide (rows = []) }
  let bad := ss.any (fun p => isNan (fp32 p.1) || decide (p.1 = 0x7F800000#32) || p.2.any isSpecial)
  if st.nan || bad then { st1 with nan := true }
  else
    let mp := (ss.map (·.1)).foldl max32 negInf32
    if mp = negInf32 then st1
    else
      let mn := max32 st.m mp
      let c := exp2Press (sub32 st.m mn)
      let l0 := mul32 st.l c
      let o0 := st.o.map (fun x => mul32 x c)
      let (l1, o1) := ss.foldl (fun (acc : W32 × List W32) p =>
        let w := roundW kv (exp2Press (sub32 p.1 mn))
        (toFp32 (numAdd (fp32 acc.1) w), (acc.2.zip p.2).map (fun ov => toFp32 (numAdd (fp32 ov.1) (numMul w ov.2))))) (l0, o0)
      { st1 with m := mn, l := l1, o := o1 }

/-- A query row of BF16 elements as the units take it, with its score scale σ (R155). For a row with a NaN or an infinity the
manual gives no e; it is open (log 31). -/
def convertQuery (s : State) (h : SweepHdr) (bs : List Byte) : List Num × W32 :=
  let q := mxRow (.scalar .bf16) h.dk bs
  let scale := fp32 (BitVec.ofNat 32 h.scale)
  if h.kvfmt = 0 then (q, toFp32 scale)
  else
    let mx := (q.map magOf).foldl magMax (0, 0)
    let e : Int := if q.any isSpecial then (Config.openField s.freeCtr : Int) - 300
      else if mx.1 = 0 then 0 else floorLog2 mx.1 mx.2 - 7
    (q.map (fun x => decodeFloat fmtE4m3 (encodeFloat fmtE4m3 .rn true (nanCanon fmtE4m3) (numScale (-e) x))), toFp32 (numScale e scale))

/-- Row t of a page: addresses of the key and the value part. -/
def pageRow (h : SweepHdr) (page t : Nat) : Nat × Nat :=
  let r := kvRow h.kvfmt h.dk
  if h.shape = 0 then (page + t * r, page + 0x100000 + t * r)
  else let a := if t < 32 then page + t * r else page + 0x100000 + (t - 32) * r; (a, a)

/-- A row is masked for a group (R156). -/
def rowMasked (h : SweepHdr) (e : SwGroup) (p : SwPage) (t : Nat) : Bool :=
  decide (p.valid ≤ t) || (bitOf h.flags 2 && decide (e.pos < p.tok0 + t))
    || (decide (e.window ≠ 0) && decide (p.tok0 + t + e.window ≤ e.pos))

/-- Unmasked rows of a page for a group. -/
def pageTokens (h : SweepHdr) (e : SwGroup) (p : SwPage) : List Nat := (List.range 64).filter (fun t => !rowMasked h e p t)

/-- Keys and values of rows. -/
def pageData (s : State) (h : SweepHdr) (page : Nat) (ts : List Nat) : List (List Num × List Num) :=
  let r := kvRow h.kvfmt h.dk
  ts.map (fun t =>
    let (ka, va) := pageRow h page t
    let k := mxRow (kvFmt h.kvfmt) h.dk (viewBytes s ka r)
    (k, if h.shape = 0 then mxRow (kvFmt h.kvfmt) h.dk (viewBytes s va r) else k.take h.dv))

/-- Bank column of a page. -/
def pageColumn (a : Nat) : Nat := (pinLoc 1 a).2.1

/-- Page entries of a group: its run, or every page. -/
def groupPages (h : SweepHdr) (ps : List SwPage) (e : SwGroup) : List (Nat × SwPage) :=
  let all := ps.mapIdx (fun i p => (i, p))
  if h.mode = 0 then (all.drop e.first).take e.count else all

/-! ### Records and the merge (R159 to R161) -/

/-- merge(a, b). -/
def mergeQ (a b : QState) : QState :=
  if a.empty then b
  else if b.empty then a
  else
    let m := max32 a.m b.m
    let fa := exp2Press (sub32 a.m m); let fb := exp2Press (sub32 b.m m)
    { m := m, l := add32 (mul32 a.l fa) (mul32 b.l fb),
      o := (a.o.zip b.o).map (fun p => add32 (mul32 p.1 fa) (mul32 p.2 fb)), tokens := a.tokens + b.tokens, nan := a.nan || b.nan,
      empty := false }

/-- A record passes its sibling by where a unit has none. -/
def mergeOpt : Option QState → Option QState → Option QState
  | none, b => b
  | a, none => a
  | some a, some b => some (mergeQ a b)

/-- The press reduction tree over 2^k units from unit b. -/
def mergeTree (f : Nat → Option QState) : Nat → Nat → Option QState
  | 0, b => f b
  | k + 1, b => mergeOpt (mergeTree f k b) (mergeTree f k (b + 2 ^ k))

/-- Bytes of a record. M, L and O of a NaN record are open (log 31). -/
def recordOut (s : State) (q : QState) (seq head : Nat) : List Byte :=
  let w := fun (i : Nat) (v : W32) => leBytes (if q.nan then Config.openField (s.freeCtr + i) else v.toNat) 4
  w 0 q.m ++ w 1 q.l ++ leBytes q.tokens 4 ++ leBytes ((if q.empty then 1 else 0) + (if q.nan then 2 else 0)) 4
    ++ leBytes seq 2 ++ leBytes head 1 ++ leBytes 0 13 ++ (q.o.mapIdx (fun i v => w (2 + i) v)).flatten

/-- The record a range holds. EMPTY goes by its flag. -/
def recordIn (bs : List Byte) (dv : Nat) : QState :=
  let fl := fieldAt bs 0x0C 4
  { m := BitVec.ofNat 32 (fieldAt bs 0 4), l := BitVec.ofNat 32 (fieldAt bs 4 4),
    o := (List.range dv).map (fun i => BitVec.ofNat 32 (fieldAt bs (0x20 + 4 * i) 4)),
    tokens := fieldAt bs 8 4, nan := bitOf fl 1, empty := bitOf fl 0 }

/-- final(r) as BF16. -/
def finalRow (q : QState) : List Byte :=
  q.o.flatMap (fun x => leBytes (if q.nan then 0x7FC0 else if q.empty then 0 else toBf16 (fp32 (div32 x q.l))) 2)

/-! ### An attention operation -/

/-- First poisoned sector among byte ranges. -/
def firstPoison (s : State) (rs : List (Nat × Nat)) : Option Nat := rs.findSome? (fun r => ((viewPoison s r.1 r.2).head?).map (· * 32))

/-- Poison that a group's passes or its root consume (R172). -/
def groupPoison (s : State) (h : SweepHdr) (ps : List SwPage) (i : Nat) (e : SwGroup) : Option SwFault :=
  let r := kvRow h.kvfmt h.dk
  let col := ((groupPages h ps e).head?.map (fun p => pageColumn p.2.addr)).getD 0xFFFF
  ((firstPoison s [(e.qaddr, 2 * h.dk * h.g)]).map (fun a => (⟨evPoisonConsumed, col, 0, i, a⟩ : SwFault))).orElse (fun _ =>
    ((groupPages h ps e).findSome? (fun p =>
      (firstPoison s ((pageTokens h e p.2).flatMap (fun t => [((pageRow h p.2.addr t).1, r), ((pageRow h p.2.addr t).2, r)]))).map
        (fun a => (⟨evPoisonConsumed, pageColumn p.2.addr, 0, p.1, a⟩ : SwFault)))).orElse (fun _ =>
      if bitOf h.flags 0 then
        (firstPoison s [(h.outAddr + e.outIndex * recordBytes h, h.g * recordBytes h)]).map (fun a => ⟨evPoisonConsumed, 0xFFFF, 0, i, a⟩)
      else none))

/-- The tree's result for one query of a group. -/
def queryResult (s : State) (h : SweepHdr) (ps : List SwPage) (e : SwGroup) (head : Nat) : QState :=
  let (q, sigma) := convertQuery s h (viewBytes s (e.qaddr + 2 * h.dk * head) (2 * h.dk))
  let mine := groupPages h ps e
  let unit := fun c =>
    let here := mine.filter (fun p => decide (pageColumn p.2.addr = c))
    if here = [] then none
    else some (here.foldl (fun st p => passQuery h.kvfmt sigma q (pageData s h p.2.addr (pageTokens h e p.2)) st) (QState.start h.dv))
  (mergeTree unit 9 0).getD (QState.start h.dv)

/-- What the root writes for one query: record and output row (R161). -/
def rootWrites (s : State) (h : SweepHdr) (e : SwGroup) (head : Nat) (tree : QState) : List (Nat × List Byte) :=
  let idx := e.outIndex + head
  let ra := h.outAddr + idx * recordBytes h
  let r := if bitOf h.flags 0 then mergeQ (recordIn (viewBytes s ra (recordBytes h)) h.dv) tree else tree
  (if h.outAddr = 0 then [] else [(ra, recordOut s r e.seq head)])
    ++ (if bitOf h.flags 1 then [(h.finalAddr + idx * 2 * h.dv, finalRow r)] else [])

/-- Cycles of a pass of `q` queries (R166). -/
def passCycles (h : SweepHdr) (q : Nat) : Nat :=
  let a := if h.kvfmt = 2 then 4096 else if h.kvfmt = 1 then 2048 else 1024
  max (ceilDiv (kvHalf h) 128) (max (ceilDiv (q * 64 * (h.dk + h.dv)) a) (ceilDiv (65 * q) 64)) + 2

/-- Passes of an operation as numbers of queries, one per pass. -/
def passList (h : SweepHdr) (gs : List SwGroup) (pages : Nat) : List Nat :=
  if h.mode = 0 then gs.flatMap (fun e => List.replicate e.count h.g)
  else
    let per := 64 / max 1 h.g
    ((List.range (ceilDiv gs.length per)).map (fun b => min per (gs.length - b * per) * h.g)).flatMap (fun q => List.replicate pages q)

/-- Bytes of the rows of one half of a page, without its padding (R144). -/
def kvRows (h : SweepHdr) : Nat := (if h.shape = 0 then 64 else 32) * kvRow h.kvfmt h.dk

/-- PRESS_PASSES, PRESS_BUSY, PRESS_READ_BYTES. -/
def countPasses (t : Tower) (h : SweepHdr) (ql : List Nat) (s : State) : State :=
  ctrAdd 2 (towerNum t * 4) ql.length (ctrAdd 2 (towerNum t * 4 + 1) ((ql.map (passCycles h)).foldl (· + ·) 0)
    (ctrAdd 2 (towerNum t * 4 + 2) (ql.length * 2 * kvRows h) s))

/-- What an operation reads before it writes: query rows, the rows of its pages, the records it merges. -/
def sweepReads (o : SweepOp) : List (Nat × Nat) :=
  let h := o.hdr
  o.groups.map (fun e => (e.qaddr, 2 * h.dk * h.g))
    ++ o.pages.flatMap (fun p => [(p.addr, kvRows h), (p.addr + 0x100000, kvRows h)])
    ++ (if bitOf h.flags 0 then o.groups.map (fun e => (h.outAddr + e.outIndex * recordBytes h, h.g * recordBytes h)) else [])

/-- Run a PRIVATE or SHARED sweep: the fault that its reads bring to light, or none and everything is written. -/
def runSweep (t : Tower) (o : SweepOp) (s : State) : State × Option SwFault :=
  let h := o.hdr
  let st1 := (sweepReads o).foldl (fun st r => (engineRead Agent.core o.job r.1 r.2 st).1) s
  match (o.groups.mapIdx (fun i e => groupPoison st1 h o.pages i e)).findSome? id with
  | some f => (st1, some f)
  | none =>
    let ws := o.groups.map (fun e => (List.range h.g).map (fun k => (e, k, queryResult st1 h o.pages e k)))
    (countPasses t h (passList h o.groups o.pages.length) (ws.flatten.foldl (fun st w =>
      (rootWrites st h w.1 w.2.1 w.2.2).foldl (fun z p => engineWrite Agent.core o.job false p.1 p.2 [] z) st.draw) st1), none)

/-! ### Append-quantize (R164, R165) -/

/-- A row of BF16 elements in a page format; `k` draws have been taken. -/
def appendRow (h : SweepHdr) (seed : U64) (k : Nat) (bs : List Byte) : List Byte :=
  if h.kvfmt = 0 then bs
  else
    let vs := mxRow (.scalar .bf16) h.dk bs
    if h.kvfmt = 1 then vs.flatMap (fun v =>
      leBytes (encodeFloat fmtE4m3 .rn true (openNan fmtE4m3 (Config.nanBits 12 0#32 0#32 0#32).toNat) v) 1)
    else (List.range (h.dk / 32)).flatMap (fun b =>
      let rds := (List.range 32).map (fun i => if bitOf h.flags 3 then Rounding.sr (draw16 seed (k + 32 * b + i)) else Rounding.rn)
      blockBytes true .e2m1 (toBlock .e2m1 true rds ((vs.drop (32 * b)).take 32)))

/-- Rows an entry stores: source, destination address. -/
def appendMoves (h : SweepHdr) (e : SwAppend) : List (Nat × Nat) :=
  let r := kvRow h.kvfmt h.dk
  if h.shape = 0 then [(e.src, e.page + e.token * r), (e.src + 2 * h.dk, e.page + 0x100000 + e.token * r)]
  else [(e.src, if e.token < 32 then e.page + e.token * r else e.page + 0x100000 + (e.token - 32) * r)]

/-- Run an APPEND: entries in ascending order. A poisoned source row poisons its destination (DEDUCED, log 31). -/
def runAppend (t : Tower) (o : SweepOp) (s : State) : State :=
  let h := o.hdr
  let es := o.appends
  let j := jobAt s o.job
  let seed := fun i => appendSeed (((j.bind (·.cfg)).map (·.seed)).getD 0) ((j.map (·.tick)).getD 0) o.item i
  let st := (es.mapIdx (fun i e => (i, e))).foldl (fun st p =>
    ((appendMoves h p.2).mapIdx (fun k m => (k, m))).foldl (fun z m =>
      let (z1, bs, pz) := engineRead Agent.core o.job m.2.1 (2 * h.dk) z
      let out := appendRow h (seed p.1) (m.1 * h.dk) bs
      engineWrite Agent.core o.job false m.2.2 out (if pz = [] then [] else sectorsOf m.2.2 out.length) z1) st) s
  ctrAdd 2 (towerNum t * 4 + 1) (8 * es.length) st

/-! ### The sweep queue (R147, R148, R150) -/

/-- Bank columns of an operation. -/
def sweepColumns (o : SweepOp) : List Nat :=
  if o.hdr.mode = 2 then o.appends.map (fun e => pageColumn e.page) else o.pages.map (fun p => pageColumn p.addr)

/-- An earlier operation of the queue must complete first: it has work on one of the units, or a range the root would write. -/
def sweepBlocked (earlier : List SweepOp) (o : SweepOp) : Bool :=
  earlier.any (fun e => (sweepColumns e).any (fun c => (sweepColumns o).contains c)
    || (sweepOuts e).any (fun x => (sweepOuts o).any (fun y => rangesMeet x.1 x.2 y.1 y.2)))

/-- Energy class of an item. -/
def itemClass (s : State) (job item : Nat) : Nat :=
  ((jobAt s job).bind (fun j => j.sheaf.bind (fun sh => sh.items[item]?.map (·.eclass)))).getD 0

/-- Press fault detail (Table 5.11). -/
def pressDetail (t : Tower) (o : SweepOp) (f : SwFault) : List Byte :=
  leBytes f.code 2 ++ leBytes (towerNum t) 1 ++ leBytes o.hdr.mode 1 ++ leBytes f.unit 2 ++ leBytes f.cause 2 ++ leBytes o.item 4
    ++ leBytes f.entry 4 ++ leBytes f.addr 8 ++ leBytes ((o.posted.map (·.1)).getD 0xFFFF) 2 ++ leBytes 0 6

/-- A header that admission or posting let through and that Table 5.5 does not allow: cause 1, no entry, where the header lies. -/
def headerFault (bs : List Byte) (at_ : Nat) : Option SwFault :=
  if sweepHdrOk bs then none else some ⟨evFieldViolation, 0xFFFF, 1, noIndex, at_⟩

/-- An item of the running sheaf ends with fault status. -/
def faultItem (job item code : Nat) (s : State) : State :=
  let s := match jobAt s job with
    | some j => match j.sheaf.bind (fun sh => sh.items[item]?) with
      | some i => traceItemEnd j item code i s
      | none => s
    | none => s
  s.onJob job (fun j => { j with sheaf := j.sheaf.map (fun sh =>
    { sh with items := sh.items.modify item (fun x => { x with st := .faulted }) }) })

/-- A press fault of an operation: its item, where it is one's, ends with fault status, and the job faults (R170). -/
def pressFault (t : Tower) (o : SweepOp) (f : SwFault) (s : State) : State :=
  jobFault o.job f.code (pressDetail t o f) (if o.posted.isSome then s else faultItem o.job o.item f.code s)

/-- An operation enters the queue, which validates its entries; that of an item asks the gate, unless its class is 0 (R149, R150, R386). -/
def sweepEnter (t : Tower) (o : SweepOp) (s : State) : State :=
  let c := itemClass s o.job o.item
  let free := o.posted.isSome || decide (c = 0)
  let (s1, o1, f) := sweepTables t { o with granted := free } s
  match f with
  | some f => pressFault t o f s1
  | none =>
    let s2 := s1.onPress (fun p => { p with queues := p.queues.mod t (· ++ [o1]) })
    if free then s2 else gateAsk { job := o.job, tick := ((jobAt s o.job).map (·.tick)).getD 0, item := o.item, kind := 2, eclass := c, towers := 2 ^ towerNum t, askNs := s.nowNs } s2

/-- An operation of a header, before its tables are read. -/
def sweepOpOf (job item : Nat) (posted : Option (Nat × Nat × Nat × Nat)) (bs : List Byte) : SweepOp :=
  { job := job, item := item, posted := posted, hdr := sweepHdrOf bs, granted := false, groups := [], pages := [], appends := [] }

/-- A SWEEP item starts: its header is fetched, and its operation enters the queue, where there is room for it. -/
def sweepStart (t : Tower) (job item descAddr : Nat) (s : State) : State :=
  let (s1, bs, pz) := fineRead 1 job descAddr 64 s
  let o := sweepOpOf job item none bs
  match (if pz ≠ [] then some ⟨evPoisonConsumed, 0xFFFF, 0, noIndex, descAddr⟩ else headerFault bs descAddr) with
  | some f => pressFault t o f s1
  | none => sweepEnter t o s1

/-- The sweep queue of a tower has a free entry. -/
def sweepRoom (s : State) (t : Tower) : Bool := decide ((s.press.queues.get t).length < 64)

/-- An operation leaves the queue. -/
def sweepLeave (t : Tower) (i : Nat) (s : State) : State := s.onPress (fun p => { p with queues := p.queues.mod t (·.eraseIdx i) })

/-- A press fault of an operation in the queue: it ends, its grant and request with it. -/
def sweepFaulted (t : Tower) (i : Nat) (o : SweepOp) (f : SwFault) (s : State) : State :=
  pressFault t o f (sweepLeave t i (s.onGate (fun g => { g with
    queue := ⟨g.queue.t0.filter (fun r => !(o.posted.isNone && decide (r.job = o.job ∧ r.item = o.item))),
              g.queue.t1.filter (fun r => !(o.posted.isNone && decide (r.job = o.job ∧ r.item = o.item)))⟩
    grants := g.grants.filter (fun r => !(o.posted.isNone && decide (r.job = o.job ∧ r.item = o.item))) })))

/-! ### SWP.POST (R107) -/

/-- SWP.POST: header extents are checked; the descriptor is copied; while the queue is full the gang waits. A malformed header is
reported by the queue with the press detail, ADDR its offset in local memory (DEDUCED, log 31). -/
def swpPost (g : FragRef) (d c : Src) (s : State) : State :=
  issueUniform g [d, c] (fun x st =>
    let t := towerOfCore g.core
    let off := uniVal x d
    let bs := lmemRead x.crew off 64
    let h := sweepHdrOf bs
    if mxstPending st g || !sweepRoom st t then s
    else if !bitOf x.crew.kernel.flags 1 then illegal x 6 st
    else if x.crew.kernel.localKib * 1024 < off + 64 then violation x 3 st
    else if lmemPoison x.crew off 64 then coreFault x evPoisonConsumed x.frag.mask 0 st
    else counterChecked x (uniVal x c)
      (if (sweepExtents h).any (fun e => !rangeAllowed st x.crew.job e.2.2 e.1 e.2.1) then violation x 5 st
       else
        let o := sweepOpOf x.crew.job x.crew.item (some (g.core, g.slot, x.crew.uid, uniVal x c)) bs
        match headerFault bs off with
        | some f => advance g (pressFault t o f st)
        | none => advance g (sweepEnter t o st)) st) s

def execSwpPost (g : FragRef) (d c : Src) (s : State) : Host.Outcome State Fault Refusal := .next (swpPost g d c s)

end Sys2Proof.Machine
end

