-- ==== Sys2Proof/Machine/Items.lean ====
section
/-! DEFINITION. Sheaf items: eligibility, the request at the gate, start and completion, and the gate's own events (02_ticks.md R33,
R35, R39, R46 to R48; 13_power.md R386 to R391; 10_fabric.md R316, R318, R319; 16_observe.md R469, R472). -/

namespace Sys2Proof.Machine

/-! ### Extents of descriptors (R35, R80, R149, R278, R319) -/

/-- Enabled cores of the towers of a mask. -/
def coresOfMask (s : State) (m : Nat) : Nat := ((towersOfMask m).map (fun t => (enabledCores s t).length)).foldl (· + ·) 0

/-- The kernel a KERNEL item names. -/
def itemKernel (s : State) (job : Nat) (i : Item) : Option Kernel :=
  (jobAt s job).bind (fun j => tabGet j.kernels (fieldAt i.args 0 2))

/-- Extents of a KERNEL item: parameter block and spill region (R80). -/
def kernelExtents (s : State) (job : Nat) (i : Item) : List (Nat × Nat × Nat) :=
  let spill := match itemKernel s job i with
    | some k => if bitOf k.flags 2 then 16 * coresOfMask s i.towers * k.spillBytes else 0
    | none => 0
  let b := fieldAt i.args 8 8
  (if i.descBytes = 0 then [] else [(i.descAddr, i.descBytes, 0)]) ++ (if spill = 0 then [] else [(b, spill, 0), (b, spill, 1)])

/-- Iterations in which an instruction's chunk takes every value it takes. -/
def chunkTurns (m : Option Mesh) (ps : List SeqInstr) (k : Nat) (x : SeqInstr) : Nat := min (iterations ps k) (meshAxis m x.axis).1

/-- Local bounding range of an instruction over all iterations: PUT, PUT_RED and WAIT read, GET writes (R319). -/
def seqExtents (m : Option Mesh) (ps : List SeqInstr) : List (Nat × Nat × Nat) :=
  (ps.mapIdx (fun k x =>
    if x.op = 1 ∨ x.op = 2 ∨ x.op = 3 ∨ x.op = 5 then
      let as_ := (List.range (chunkTurns m ps k x)).map (seqLocal m x)
      let lo := as_.foldl min (as_.headD x.laddr)
      let hi := as_.foldl max 0
      [(lo, hi + (if x.op = 5 then 8 else x.bytes) - lo, if x.op = 2 then 1 else 0)]
    else [])).flatten

/-- Extents of an item's descriptor: first byte, bytes, access. -/
def itemExtents (s : State) (job : Nat) (i : Item) : List (Nat × Nat × Nat) :=
  if i.kind = 1 then kernelExtents s job i
  else if i.kind = 2 then sweepExtents (sweepHdrOf (viewBytes s i.descAddr 64))
  else if i.kind = 5 then seqExtents ((jobAt s job).bind (·.mesh)) (seqProgram (viewBytes s i.descAddr i.descBytes))
  else if i.kind = 0 then [] else copyRanges (copyDescOf (viewBytes s i.descAddr i.descBytes))

/-- Page-set entries of an item of a sheaf. -/
def pagesOfItem (sh : Sheaf) (i : Item) : List PageSet := (sh.pagesets.drop i.psFirst).take i.psCount

/-- Every extent lies in the item's own declarations. -/
def itemDeclared (s : State) (job : Nat) (ps : List PageSet) (i : Item) : Bool :=
  (itemExtents s job i).all (fun x => declared ps x.2.2 x.1 x.2.1)

/-! ### STAGE items of the next sheaf (R47) -/

/-- Pages a STAGE item reads and writes, by the bounding ranges of its source and destination. -/
def stagePages (s : State) (i : Item) : List Nat × List Nat :=
  let d := copyDescOf (viewBytes s i.descAddr i.descBytes)
  (pagesOf d.src.base (tensorSpan d.src), if d.op = 5 then [] else pagesOf d.dst.base (tensorSpan d.dst))

/-- The running sheaf declares a source page with write or reduce access, or a destination page at all. -/
def stageClash (s : State) (i : Item) (running : Sheaf) : Bool :=
  let (src, dst) := stagePages s i
  src.any (fun p => running.pagesets.any (fun e => entryHolds e p && decide (e.access / 2 ≠ 0)))
    || dst.any (fun p => running.pagesets.any (fun e => entryHolds e p))

/-- A STAGE item of the next sheaf may start. -/
def stageMay (s : State) (j : Job) (i : Item) : Bool := match j.sheaf with
  | none => true
  | some sh => !unfinished j.sheaf || !stageClash s i sh

/-! ### Eligibility and start (R33, R39, R386) -/

/-- Every predecessor has completed. -/
def predsDone (sh : Sheaf) (i : Item) : Bool := i.preds.all (fun p => decide ((sh.items[p]?).map (·.st) = some .done))

/-- Only STAGE items hold an item up. -/
def waitsForStage (sh : Sheaf) (i : Item) : Bool :=
  !predsDone sh i && i.preds.all (fun p => match sh.items[p]? with
    | some x => decide (x.st = .done ∨ x.kind = 6)
    | none => true)

/-- A floor's sequencer has a free slot: programs that run, and items that ask the gate for one, hold theirs. -/
def seqSlotFree (s : State) (t : Tower) : Bool :=
  let asking := s.jobs.jobs.map (fun e => ((e.2.sheaf.map (·.items)).getD []).countP (fun i =>
    decide (i.kind = 5 ∧ i.st = .queued ∧ bitOf i.towers (towerNum t))))
  decide ((s.eng.progs.filter (fun p => decide (p.tower = t))).length + asking.foldl (· + ·) 0 < 16)

/-- An item waits, its predecessors are done, and its window is open: RUN for items of the running sheaf. -/
def itemReady (s : State) (j : Job) (sh : Sheaf) (i : Item) : Bool :=
  decide (i.st = .waiting ∨ i.st = .eligible) && decide (i.holds = 0) && predsDone sh i
    && (if some sh.tick = j.sheaf.map (·.tick) then decide (j.phase = .run) else decide (i.kind = 6) && stageMay s j i)
    && (decide (i.kind ≠ 5) || (towersOfMask i.towers).all (seqSlotFree s))

/-- An item that is no press or copy item faults as it is issued. -/
def issueFault (job item code : Nat) (s : State) : State := jobFault job code (issueDetail code item) (faultItem job item code s)

/-- Trace of an item's start. -/
def traceItemStart (job item waitNs : Nat) (i : Item) (s : State) : State :=
  if i.trace then
    traceRec 0 (if bitOf i.towers 0 then .t0 else .t1) 1 job (((jobAt s job).map (·.tick)).getD 0)
      (leBytes item 4 ++ leBytes i.kind 1 ++ leBytes i.eclass 1 ++ leBytes 0 2 ++ leBytes (min 0xFFFFFFFF waitNs) 4 ++ leBytes 0 4) s
  else s

/-- A press item whose header's extents are no longer declared: cause 6, as validation reports it, at the first of them. -/
def sweepUndeclared (t : Tower) (job tick item : Nat) (i : Item) (s : State) : State :=
  let b := viewBytes s i.descAddr 64
  let a := ((sweepExtents (sweepHdrOf b)).find? (fun x => !declared (itemPages s job tick item) x.2.2 x.1 x.2.1)).map (·.1)
  pressFault t (sweepOpOf job item none b) ⟨evFieldViolation, 0xFFFF, 6, noIndex, a.getD i.descAddr⟩ s

/-- The tower of an item that runs on one. -/
def itemTower (i : Item) : Tower := if i.towers = 2 then .t1 else .t0

/-- A COLLECTIVE item starts: its program is fetched through the fabric-descriptor class of FINE. -/
def collectiveStart (job item : Nat) (i : Item) (s : State) : State :=
  let (s1, b, pz) := fineRead 2 job i.descAddr i.descBytes s
  if pz = [] then progStart job item i.towers b s1 else issueFault job item evPoisonConsumed s1

/-- An item starts: its extents are checked again and its unit takes it (R35). -/
def startItem (job tick item waitNs : Nat) (s : State) : State :=
  match itemAt s job tick item with
  | none => s
  | some i =>
    let s1 := traceItemStart job item waitNs i (onItem job tick item (fun x => { x with st := .running, startNs := s.nowNs }) s)
    let ok := itemDeclared s1 job (itemPages s1 job tick item) i
    if i.kind = 1 then
      if ok then startKernel job item i.towers i.descAddr i.args s1 else issueFault job item evFieldViolation s1
    else if i.kind = 2 then
      if ok then sweepStart (itemTower i) job item i.descAddr s1 else sweepUndeclared (itemTower i) job tick item i s1
    else if i.kind = 5 then
      if ok then collectiveStart job item i s1 else issueFault job item evFieldViolation s1
    else copyStart job tick item i s1

/-- A SWEEP item starts where its tower's queue has a free entry and no other waits for one; else it waits to start (R147). -/
def sweepIssue (job tick item : Nat) (i : Item) (s : State) : State :=
  let t := itemTower i
  if sweepRoom s t && decide (s.press.waiting.get t = []) then startItem job tick item 0 s
  else (onItem job tick item (fun x => { x with st := .queued }) s).onPress (fun p => { p with
    waiting := p.waiting.mod t (· ++ [(job, tick, item)]) })

/-- Start the SWEEP items that wait for a tower's queue, in order, as it has room and their window is open. -/
def startWaiting (t : Tower) : Nat → State → State
  | 0, s => s
  | n + 1, s =>
    match (s.press.waiting.get t).find? (fun w => decide ((jobAt s w.1).map (·.phase) = some .run)) with
    | none => s
    | some w =>
      if sweepRoom s t then
        startWaiting t n (startItem w.1 w.2.1 w.2.2 0 (s.onPress (fun p => { p with waiting := p.waiting.mod t (·.filter (fun x => decide (x ≠ w))) })))
      else s

/-- Start what both towers' sweep queues have room for. -/
def startSweeps (s : State) : State := bothTowers.foldl (fun st t => startWaiting t (st.press.waiting.get t).length st) s

/-- The dumps an item's completion starts hold its successors (R472). -/
def dumpHold (job tick item : Nat) (s : State) : State :=
  let n := s.obs.dumps.countP (fun d => decide (d.job = job ∧ d.tick = tick ∧ d.item = some item ∧ d.startNs = none))
  if n = 0 then s
  else
    (s.onObs (fun o => { o with dumps := o.dumps.map (fun d =>
      if d.job = job ∧ d.tick = tick ∧ d.item = some item ∧ d.startNs = none then { d with startNs := some s.nowNs } else d) })).onJob job
      (fun j => { j with sheaf := j.sheaf.map (fun sh => { sh with items := sh.items.map (fun i =>
        if i.preds.contains item then { i with holds := i.holds + n } else i) }) })

/-- What comes next for an item that is ready: a JOIN is done; a SWEEP goes to its queue; an item of class 0 starts; any other asks the
gate. -/
def issueItem (job tick item : Nat) (i : Item) (s : State) : State :=
  if i.kind = 0 then
    let s1 := traceItemStart job item 0 i (onItem job tick item (fun x => { x with st := .done, startNs := s.nowNs }) s)
    dumpHold job tick item (match jobAt s1 job with
      | some j => traceItemEnd j item 0 { i with startNs := s.nowNs } s1
      | none => s1)
  else if i.kind = 2 then sweepIssue job tick item i s
  else if i.eclass = 0 then startItem job tick item 0 s
  else gateAsk { job := job, tick := tick, item := item, kind := i.kind, eclass := i.eclass, towers := i.towers, askNs := s.nowNs }
    (onItem job tick item (fun x => { x with st := .queued }) s)

/-- The first item of a sheaf that is ready. -/
def firstReady (s : State) (j : Job) (o : Option Sheaf) : Option (Nat × Nat × Item) :=
  o.bind (fun sh => ((sh.items.mapIdx (fun k i => (k, i))).find? (fun p => itemReady s j sh p.2)).map (fun p => (sh.tick, p.1, p.2)))

/-- Issue items of a job that are ready, those of the running sheaf first. -/
def pumpJob (job : Nat) : Nat → State → State
  | 0, s => s
  | n + 1, s =>
    match (jobAt s job).bind (fun j => if j.state = .running ∨ j.state = .armed then (firstReady s j j.sheaf).orElse (fun _ => firstReady s j j.next) else none) with
    | some (tick, k, i) => pumpJob job n (issueItem job tick k i s)
    | none => s

/-- Items of the running and the next sheaf. -/
def itemTotal (j : Job) : Nat := ((j.sheaf.map (·.items.length)).getD 0) + ((j.next.map (·.items.length)).getD 0)

/-- An item whose predecessors are done but for STAGE items begins to wait for them: counted once (R48, R208). -/
def noteStageWaits (job : Nat) (s : State) : State :=
  match jobAt s job with
  | none => s
  | some j =>
    match j.sheaf with
    | none => s
    | some sh =>
      if j.phase ≠ .run then s
      else (sh.items.mapIdx (fun k i => (k, i))).foldl (fun st p =>
        if p.2.kind ≠ 6 ∧ p.2.stageSince = none ∧ waitsForStage sh p.2 then
          let s1 := (onItem job sh.tick p.1 (fun x => { x with stageSince := some s.nowNs }) st).onJob job
            (onRec sh.tick (fun r => { r with stageWaits := r.stageWaits + 1 }))
          s1.onLoft (fun x => { x with
            tw := (towersOfMask p.2.towers).foldl (fun q t => q.mod t (fun w => { w with stageWaits := w.stageWaits + 1 })) x.tw })
        else if p.2.stageSince.isSome ∧ predsDone sh p.2 ∧ p.2.st = .waiting then
          let d := s.nowNs - p.2.stageSince.getD s.nowNs
          (onItem job sh.tick p.1 (fun x => { x with st := .eligible }) st).onLoft (fun x => { x with
            tw := (towersOfMask p.2.towers).foldl (fun q t => q.mod t (fun w => { w with stageWaitNs := w.stageWaitNs + d })) x.tw })
        else st) s

/-- Issue what every job has ready. -/
def pumpAll (s : State) : State :=
  s.jobs.jobs.foldl (fun st e => pumpJob e.1 (itemTotal e.2 + 1) (noteStageWaits e.1 st)) s

/-! ### Grants (R388) -/

/-- A grant's operation may start: its item's window is open (R33). A SWEEP's item has started already. -/
def grantMay (s : State) (g : Grant) : Bool := match jobAt s g.job with
  | none => false
  | some j => decide (g.kind = 2 ∨ j.phase = .run) || decide (g.kind = 6 ∧ j.sheaf.map (·.tick) ≠ some g.tick)

/-- The operation of a grant starts. -/
def startGrant (g : Grant) (s : State) : State :=
  let s1 := s.onGate (fun x => { x with grants := x.grants.map (fun y =>
    if y.job = g.job ∧ y.tick = g.tick ∧ y.item = g.item then { y with started := true, startNs := s.nowNs } else y) })
  if g.kind = 2 then
    let f := fun (q : List SweepOp) => q.map (fun o => if o.job = g.job ∧ o.item = g.item ∧ o.posted = none then { o with granted := true } else o)
    s1.onPress (fun p => { p with queues := ⟨f p.queues.t0, f p.queues.t1⟩ })
  else startItem g.job g.tick g.item g.waitNs s1

/-- Start the grants whose notice is over. -/
def startDue (s : State) : State :=
  (s.gate.grants.filter (fun g => !g.started && decide (g.startNs ≤ s.nowNs) && grantMay s g)).foldl (fun st g => startGrant g st) s

/-- Issue, schedule, and start what needs no notice: after a request, a release or a change of window. -/
def advanceItems (s : State) : State := startDue (gateSchedule (pumpAll (startDue (gateSchedule (pumpAll (startSweeps s))))))

/-- GATE_WINDOW_START. -/
def gateWindow (m0 m1 : Nat) (s : State) : State := if s.gate.on then startDue (windowStart m0 m1 s) else s

def execGateWindowStart (measured0 measured1 : Nat) (s : State) : Host.Outcome State Fault Refusal := .next (gateWindow measured0 measured1 s)

/-- GATE_NOTICE_END: time goes on to the end of the first notice, and its operation starts. -/
def gateNoticeEnd (s : State) : State :=
  match (s.gate.grants.filter (fun g => !g.started && grantMay s g)).map (·.startNs) with
  | [] => s
  | t :: ts => startDue (s.timeTo (ts.foldl min t))

def execGateNoticeEnd (s : State) : Host.Outcome State Fault Refusal := .next (gateNoticeEnd s)

/-! ### Completion -/

/-- An item has completed. -/
def itemDone (job tick item : Nat) (s : State) : State :=
  let s1 := match jobAt s job, itemAt s job tick item with
    | some j, some i => traceItemEnd j item 0 i s
    | _, _ => s
  advanceItems (dumpHold job tick item (onItem job tick item (fun x => { x with st := .done }) s1))

/-- An item that runs, of the running sheaf. -/
def itemRuns (s : State) (job item kind : Nat) : Option Nat :=
  (jobAt s job).bind (fun j => j.sheaf.bind (fun sh => (sh.items[item]?).bind (fun i =>
    if i.kind = kind ∧ i.st = .running then some sh.tick else none)))

/-- Work of a KERNEL item that is still going on: crews to dispatch or resident, async copies, stores and reductions on their way,
posted sweeps. -/
def kernelBusy (s : State) (job item : Nat) : Bool :=
  s.cores.dispatch.any (fun d => decide (d.job = job ∧ d.item = item))
    || s.cores.cores.any (fun c => c.2.crews.any (fun w => decide (w.2.job = job ∧ w.2.item = item))
        || c.2.copies.any (fun a => decide (a.job = job ∧ a.item = item)))
    || bothTowers.any (fun t => (loftWaiting s t).any (fun r =>
        decide (r.job = job ∧ r.core.map (·.2) = some item) && (match r.kind with
          | .load _ => false
          | _ => true))
      || (s.press.queues.get t).any (fun o => decide (o.job = job ∧ o.item = item) && o.posted.isSome))

/-- KERNEL_ITEM_COMPLETE (R111's counterpart: every crew has exited and its writes are visible). -/
def kernelComplete (job item energy : Nat) (s : State) : State :=
  match itemRuns s job item 1 with
  | some tick => if kernelBusy s job item then s else itemDone job tick item (gateRelease job tick item energy s)
  | none => s

def execKernelItemComplete (job item energy : Nat) (s : State) : Host.Outcome State Fault Refusal := .next (kernelComplete job item energy s)

/-- SWEEP_OP_COMPLETE: an operation of the queue that waits for no earlier one and holds its grant runs to its end, or faults. -/
def sweepOpComplete (t : Tower) (index energy : Nat) (s : State) : State :=
  match (s.press.queues.get t)[index]? with
  | none => s
  | some o =>
    if !o.granted || sweepBlocked ((s.press.queues.get t).take index) o then s
    else
      match if o.hdr.mode = 2 then (runAppend t o s, none) else runSweep t o s with
      | (s1, some f) => advanceItems (sweepFaulted t index o f s1)
      | (s1, none) =>
        let s2 := sweepLeave t index s1
        match o.posted with
        | some (core, slot, uid, ctr) => advanceItems (bumpCounter core slot uid ctr s2)
        | none =>
          let tick := ((jobAt s2 o.job).map (·.tick)).getD 0
          itemDone o.job tick o.item (gateRelease o.job tick o.item energy s2)

def execSweepOpComplete (t : Tower) (index energy : Nat) (s : State) : Host.Outcome State Fault Refusal := .next (sweepOpComplete t index energy s)

/-- COPY_ITEM_COMPLETE. -/
def copyItemComplete (job item energy : Nat) (s : State) : State :=
  match copyFinished s job item with
  | some r =>
    itemDone job r.tick item (gateRelease job r.tick item energy (s.onEng (fun e => { e with runs := e.runs.filter (fun x => !sameRun x r) })))
  | none => s

def execCopyItemComplete (job item energy : Nat) (s : State) : Host.Outcome State Fault Refusal := .next (copyItemComplete job item energy s)

/-- SEQ_END: everything the program queued is acknowledged or written, and the item completes. -/
def seqEnd (job item energy : Nat) (s : State) : State :=
  match seqReady s job item 8, itemRuns s job item 5 with
  | some (p, _), some tick => if p.outstanding = [] then itemDone job tick item (gateRelease job tick item energy (progLeave job item s)) else s
  | _, _ => s

def execSeqEnd (job item energy : Nat) (s : State) : Host.Outcome State Fault Refusal := .next (seqEnd job item energy s)

end Sys2Proof.Machine
end

