-- ==== Sys2Proof/Machine/Host.lean ====
section
/-! DEFINITION. The PCI Express function, BAR0 and BAR2, mailbox handoff and take, and the 0x01xx commands
(12_host.md R351 to R377). -/

namespace Sys2Proof.Machine

/-! ### BAR0 accesses (R354, R357, R371) -/

/-- A BAR access reaches the device: the link is up, Memory Space Enable is set and the function is in D0. -/
def barOk (s : State) : Bool := s.host.pcie.linkUp && s.host.pcie.memSpace && !s.host.pcie.d3hot && decide (2 ≤ s.boot.stage)

/-- MB_DONE_SUMMARY_CLEAR. -/
def mbDoneClear (v : BitVec 64) (s : State) : State :=
  if barOk s then s.onHost (fun h => { h with doneSum := h.doneSum &&& ~~~ v }) else s

def execMbDoneSummaryClear (value : BitVec 64) (s : State) : Host.Outcome State Fault Refusal := .next (mbDoneClear value s)

/-- DEV_FAULT_CLEAR: HOST_RESET, JOB_FAULT and EVENT_LOST are W1C (Table 12.6). -/
def devFaultClear (v : BitVec 32) (s : State) : State :=
  if barOk s then
    noteStatus s (s.onHost (fun h => { h with
      hostReset := h.hostReset && !v.getLsbD 18, jobFault := h.jobFault && !v.getLsbD 19, eventLost := h.eventLost && !v.getLsbD 20 }))
  else s

def execDevFaultClear (value : BitVec 32) (s : State) : Host.Outcome State Fault Refusal := .next (devFaultClear value s)

/-- Bytes of a write that a mailbox stores: none of MB_CTRL, none of a mailbox the device owns (R364). -/
def mbWrite (off : Nat) (data : List Byte) (s : State) : State :=
  (cutAt 0x1000 off data).foldl (fun st p =>
    let mb := p.1 / 0x1000; let o := p.1 % 0x1000
    if st.host.own.getLsbD mb then st
    else mbStore st mb (max o 4) (p.2.drop (4 - o))) s

/-- A write of a naturally aligned register of 4 or 8 bytes. -/
def regAligned (off : Nat) (data : List Byte) : Bool :=
  decide ((data.length = 4 ∨ data.length = 8) ∧ off % data.length = 0)

/-- BAR2_APERTURE with some of its bytes written. -/
def apertureWrite (off : Nat) (data : List Byte) (s : State) : State :=
  s.onHost (fun h => { h with
    aperture := BitVec.ofNat 44 (leNat (overlay (leBytes h.aperture.toNat 8) (off - 0x50020) data)) })

/-- REGISTER_WRITE: mailbox bytes, the MSI-X table and BAR2_APERTURE are stored; a byte elsewhere, a register that is read only or
has a row of its own, and an access that no register takes are discarded. -/
def registerWrite (off : Nat) (data : List Byte) (s : State) : State :=
  if !barOk s then s
  else if off + data.length ≤ 0x40000 then mbWrite off data s
  else if !regAligned off data then s
  else if 0x60000 ≤ off ∧ off + data.length ≤ 0x60800 then
    msixFlush (s.onHost (fun h => { h with msixTable := memWrite h.msixTable (off - 0x60000) data }))
  else if 0x50020 ≤ off ∧ off + data.length ≤ 0x50028 then apertureWrite off data s
  else s

def execRegisterWrite (offset : Nat) (data : List Byte) (s : State) : Host.Outcome State Fault Refusal := .next (registerWrite offset data s)

/-! ### Configuration space and the link (R352 to R356) -/

/-- AER's bit for a poisoned TLP in the Uncorrectable Error Status, as the PCI Express Base Specification numbers it (PRESUMED, log 70). -/
abbrev aerPoisonBit : Nat := 12

/-- Bus Master Enable is cleared or the link is reset: a dump that is on its way into host memory will complete with fault status. -/
def cutTransfers (s : State) : State :=
  s.onObs (fun o => { o with dumps := o.dumps.map (fun d => if d.toHost ∧ d.startNs.isSome then { d with cut := true } else d) })

/-- CONFIG_SPACE_WRITE: BAR2 takes only the sizes of R356; writing 1 to AER's bit for a poisoned TLP clears it. -/
def configWrite (w : CfgWrite) (s : State) : State :=
  let put := fun (f : PcieCfg → PcieCfg) => s.onHost (fun h => { h with pcie := f h.pcie })
  if !s.host.pcie.linkUp then s
  else match w with
    | .memorySpaceEnable on => put (fun p => { p with memSpace := on })
    | .busMasterEnable on =>
      let s1 := put (fun p => { p with busMaster := on })
      if on then msixFlush s1 else cutTransfers s1
    | .bar2Size gib => if [64, 128, 256, 512, 1024, 2048].contains gib then put (fun p => { p with bar2Gib := gib }) else s
    | .msixControl e m => msixFlush (put (fun p => { p with msixEnable := e, msixMask := m }))
    | .dState d => put (fun p => { p with d3hot := d })
    | .aerStatus v => put (fun p => { p with aerPoisoned := p.aerPoisoned && !v.getLsbD aerPoisonBit })
    | .other _ => s

def execConfigSpaceWrite (w : CfgWrite) (s : State) : Host.Outcome State Fault Refusal := .next (configWrite w s)

/-- HOT_RESET: only the PCIe controller and the configuration space are reset; the link trains again at once. -/
def hotReset (s : State) : State :=
  if s.host.pcie.linkUp then
    noteStatus s ((cutTransfers s).onHost (fun h => { h with
      pcie := { HostSt.reset.pcie with linkUp := true, linkRate := h.pcie.linkRate, linkWidth := h.pcie.linkWidth }
      msixTable := HostSt.reset.msixTable
      msixPba := 0
      hostReset := true }))
  else s

def execHotReset (s : State) : Host.Outcome State Fault Refusal := .next (hotReset s)

/-- MSIX_STATUS_VECTOR: one message of vector 64 for the changes since the last, at least 100 µs after it. -/
def msixStatus (at_ : Nat) (s : State) : State :=
  if s.host.statusChange then
    let due := match s.host.vec64Ns with
      | some n => n + 100000
      | none => 0
    let s1 := s.timeTo (max at_ due)
    msixSend (s1.onHost (fun h => { h with statusChange := false, vec64Ns := some s1.nowNs })) 64
  else s

def execMsixStatusVector (at_ : Nat) (s : State) : Host.Outcome State Fault Refusal := .next (msixStatus at_ s)

/-! ### BAR2 (R360, R361, R394) -/

/-- What serves a BAR2 access. -/
inductive Bar2Target where
  | bulk | direct | bay | nothing
deriving DecidableEq, Repr

/-- The target of a local address (Table 12.11): in a DARK that POWER.STATE entered nothing, in REST no bay, and HBM past BULK. -/
def bar2Target (s : State) (a : Nat) : Bar2Target :=
  if s.gate.commandedDark then .nothing
  else if isPinned a then (if (bayAt s a).isSome ∧ s.gate.pwr ≠ .rest then .bay else .nothing)
  else if unbacked s a ∨ inMirror s a ∨ inMcRegion s a then .nothing
  else if s.gate.pwr = .rest then .direct else .bulk

/-- Count an access of the last row of Table 12.11 at the tower its address would be homed on, tower 0 outside HBM. -/
def countUnbacked (a : Nat) (s : State) : State := ctrHbm (if a < hbmTop then homeTower s a else .t0) 31 1 s

/-- The addresses of a BAR2 access in pieces of one 64-byte block, the access held to the window. -/
def bar2Pieces (s : State) (off : Nat) (data : List Byte) : List (Nat × List Byte) :=
  cutAt 64 (bar2Base s + off) (data.take (s.host.pcie.bar2Gib * 2 ^ 30 - off))

/-- Count a BAR2 access that meets the last row of Table 12.11. -/
def bar2Count (ps : List (Nat × List Byte)) (s : State) : State :=
  match ps.find? (fun p => decide (bar2Target s p.1 = .nothing)) with
  | some p => countUnbacked p.1 s
  | none => s

/-- An access that the function does not take: an Unsupported Request, none where the link is down. -/
def refuseAccess (off : Nat) (s : State) : State := if s.host.pcie.linkUp then s.emit (.unsupported off) else s

/-- AER logs a poisoned TLP. -/
def logPoisoned (s : State) : State := s.onHost (fun h => { h with pcie := { h.pcie with aerPoisoned := true } })

/-- One piece of a read: data, whether poisoned. -/
def bar2Piece (p : Nat × List Byte) (s : State) : State × List Byte × Bool :=
  match bar2Target s p.1 with
  | .nothing => (s, List.replicate p.2.length 0xFF#8, false)
  | .direct =>
    let (s1, d, z) := hbmReadNow (Agent.rxOf 7) 0 (blockOf p.1) s
    (s1, sliceBytes d (p.1 % 64) p.2.length, decide (z ≠ []))
  | .bulk => let (s1, d, z) := engineRead (Agent.rxOf 7) 0 p.1 p.2.length s; (s1, d, decide (z ≠ []))
  | .bay => let (s1, d, z) := engineRead (Agent.rxOf 7) 0 p.1 p.2.length s; (s1, d, decide (z ≠ []))

/-- BAR2_READ: poisoned data are undefined, and the completion says so (Table 8.4). -/
def bar2Read (off n : Nat) (s : State) : State :=
  if !barOk s then refuseAccess off s
  else
    let ps := bar2Pieces s off (List.replicate n 0#8)
    let (s1, d, z) := ps.foldl (fun (acc : State × List Byte × Bool) p =>
      let (st, d, z) := bar2Piece p acc.1
      (st, acc.2.1 ++ d, acc.2.2 || z)) (bar2Count ps s, [], false)
    if z then (s1.emit (.bar2Data off ((List.range d.length).map (fun i => Config.leftByte s1.freeCtr i)) true)).draw
    else s1.emit (.bar2Data off d false)

def execBar2Read (offset length : Nat) (s : State) : Host.Outcome State Fault Refusal := .next (bar2Read offset length s)

/-- BAR2_WRITE: a poisoned TLP poisons every sector it touches. -/
def bar2Write (off : Nat) (data : List Byte) (poisoned : Bool) (s : State) : State :=
  if !barOk s then refuseAccess off s
  else
    let ps := bar2Pieces s off data
    let s0 := if poisoned then logPoisoned s else s
    ps.foldl (fun st p =>
      let zs := if poisoned then sectorsOf p.1 p.2.length else []
      match bar2Target st p.1 with
      | .nothing => st
      | .direct => hbmDirect (Agent.rxOf 7) p.1 p.2 zs st
      | .bulk => engineWrite (Agent.rxOf 7) 0 false p.1 p.2 zs (fineInvalidate p.1 p.2.length st)
      | .bay => engineWrite (Agent.rxOf 7) 0 false p.1 p.2 zs st) (bar2Count ps s0)

def execBar2Write (offset : Nat) (data : List Byte) (poisoned : Bool) (s : State) : Host.Outcome State Fault Refusal :=
  .next (bar2Write offset data poisoned s)

/-! ### Mailboxes (R363 to R370) -/

/-- MB.ACL of a mailbox. -/
def aclOf (s : State) (mb : Nat) : Acl := tabGetD s.host.acl mb { groups := 2, job := 0 }

/-- The command a mailbox holds. -/
def capture (s : State) (mb handoffNs : Nat) : Cmd :=
  let h := mbRead s mb 0 64
  let len := fieldAt h 6 2
  { mb := mb, opcode := fieldAt h 4 2, length := len, tag := fieldAt h 8 4, job := fieldAt h 0xE 2, flags := fieldAt h 0x10 4,
    hdrReserved := !zeroAt h 0x16 2 || !zeroAt h 0x1C 36, params := mbRead s mb 0x40 (min len 4032), handoffNs := handoffNs,
    takeNs := s.nowNs, started := false }

/-- MAILBOX_HANDOFF: OWN becomes 1 and the command waits for the MC; under the boot ROM mailboxes 1 to 63 complete at once
(R370). -/
def handoff (mb at_ : Nat) (s : State) : State :=
  if !barOk s || decide (64 ≤ mb) || s.host.own.getLsbD mb then s
  else
    let s1 := s.timeTo at_
    let s2 := s1.onHost (fun h => { h with
      own := h.own ||| BitVec.ofNat 64 (2 ^ mb)
      mbArea := memPut h.mbArea (mb * 0x1000) 1#8
      handed := h.handed ++ [{ mb := mb, atNs := s1.nowNs, acl := aclOf s1 mb }] })
    if s2.boot.recovery ∧ mb ≠ 0 then
      complete (capture s2 mb s1.nowNs) stWrongState []
        (s2.onHost (fun h => { h with handed := h.handed.filter (fun x => decide (x.mb ≠ mb)) }))
    else s2

def execMailboxHandoff (mb : Nat) (at_ : Nat) (s : State) : Host.Outcome State Fault Refusal := .next (handoff mb at_ s)

/-- Commands of Table 12.20 that mailbox 0 alone carries. -/
def onlyZero : List Nat :=
  [0x0104, 0x0206, 0x0207, 0x0302, 0x0304, 0x0305, 0x0306, 0x0307, 0x0400, 0x0401, 0x0402, 0x0403, 0x0404, 0x0405, 0x0500, 0x0501,
    0x0502, 0x0600, 0x0601, 0x0602, 0x0603, 0x0700, 0x0802, 0x0900, 0x0902, 0x0905, 0x0906, 0x0908, 0x0A00, 0x0A01]

/-- Commands of Table 12.20 marked ACL. -/
def byAcl : List Nat :=
  [0x0100, 0x0101, 0x0103, 0x0200, 0x0201, 0x0202, 0x0203, 0x0204, 0x0205, 0x0300, 0x0301, 0x0303, 0x0503, 0x0604, 0x0701, 0x0702,
    0x0703, 0x0800, 0x0801, 0x0901, 0x0903, 0x0904, 0x0907, 0x0A02]

/-- The mailbox may not carry the command (R365 checks 3 and 4). -/
def notPrivileged (c : Cmd) (a : Acl) : Bool :=
  if c.mb = 0 then false
  else if c.mb = 63 then decide (c.opcode ≠ 0x0102 ∨ c.job ≠ 0)
  else !byAcl.contains c.opcode || !bitOf a.groups (c.opcode / 256) || decide (c.job ≠ 0 ∧ a.job ≠ 0xFFFF ∧ a.job ≠ c.job)

/-- A partition that a partition reset covers (R414). -/
def inReset (p : PartReset) (partition : Nat) : Bool := decide (p.partition = 0 ∨ p.partition = partition)

/-- The command names a job whose partition is being reset (R409 step 1). DEV.EVENTS names none (R374). -/
def namesResetting (s : State) (c : Cmd) : Bool := match s.boot.part, jobAt s c.job with
  | some p, some j => decide (c.opcode ≠ 0x0102 ∧ c.job ≠ 0) && inReset p j.partition
  | _, _ => false

/-- The device does not accept the command in its present stage or state: under the boot ROM (R370), before S10 (R424), in a DARK that
POWER.STATE entered (R394). -/
def notServed (s : State) (c : Cmd) : Bool :=
  let g := c.opcode / 256
  if s.boot.recovery then !(([0x0100, 0x0701, 0x0700, 0x0A00, 0x0A01, 0x0A02] : List Nat).contains c.opcode)
  else if s.boot.stage < 10 then !(([1, 7, 8, 10] : List Nat).contains g) && !(([0x0400, 0x0403, 0x0604, 0x0901] : List Nat).contains c.opcode)
  else s.gate.commandedDark && !(([1, 6, 7] : List Nat).contains g) && decide (c.opcode ≠ 0x0A02)

/-- The status with which a taken command ends before its own checks, if any. -/
def takeStatus (s : State) (c : Cmd) (a : Acl) : Option Nat :=
  firstFail
    [(decide (4032 < c.length), stBadLength),
     (!(onlyZero ++ byAcl ++ [0x0102]).contains c.opcode, stBadOpcode),
     (notPrivileged c a, stNotPrivileged),
     (namesResetting s c, stBusy),
     (notServed s c, stWrongState)]

/-- COMMAND_TAKE: the oldest handoff is taken within the bound of Table 12.16, if the boot ROM or the MC serves. -/
def commandTake (at_ : Nat) (s : State) : State :=
  match s.host.handed with
  | [] => s
  | x :: rest =>
    if s.host.mcDown || !(s.boot.recovery || s.host.mcRuns) then s
    else
      let s1 := s.timeTo (min at_ (x.atNs + (if s.boot.recovery then 100000 else 10000)))
      let c := capture s1 x.mb x.atNs
      let s2 := s1.onHost (fun h => { h with
        handed := rest
        mbArea := memWrite h.mbArea (x.mb * 0x1000 + 0x0C) (leBytes stPending 2)
        taken := tabPut h.taken x.mb c })
      match takeStatus s2 c x.acl with
      | some st => complete c st [] s2
      | none => s2

def execCommandTake (at_ : Nat) (s : State) : Host.Outcome State Fault Refusal := .next (commandTake at_ s)

/-! ### DEV.INFO to MB.ACL (R372 to R376) -/

/-- ABI: of the running image's header, under the boot ROM an open value (log 40). -/
def abi (s : State) : Nat := if s.trust.runHeader = [] then Config.openField s.freeCtr % 65536 else fieldAt s.trust.runHeader 6 2

/-- Usable bank columns of a tower in a range of columns. -/
def columnsIn (s : State) (t : Tower) (lo hi : Nat) : Nat :=
  ((List.range hi).filter (fun c => decide (lo ≤ c) && !(s.loft.tw.get t).retired.contains c)).length

/-- The pin ceiling of a tower (R417). -/
def pinCeiling (s : State) (t : Tower) : Nat := 7 * columnsIn s t 0 384 + 6 * columnsIn s t 384 512

/-- CLUSTER_FIRST of a cluster: enabled cores of the clusters before it. -/
def clusterFirst (s : State) (t : Tower) (k : Nat) : Nat :=
  min 128 ((s.boot.coreMap.get t).countP (fun p => decide (p / 17 < k)))

/-- A tower's block of DEV.INFO. -/
def towerInfo (s : State) (t : Tower) : List Byte :=
  leBytes (enabledCores s t).length 2 ++ leBytes (columnsIn s t 0 512) 2 ++ leBytes (columnsIn s t 0 512) 2 ++ leBytes (pinCeiling s t) 2
    ++ leBytes (columnsIn s t 384 512) 2 ++ leBytes 8 2 ++ leBytes (backedBytes s t / 2 ^ 20) 4 ++ leBytes 8 1 ++ leBytes 6 1
    ++ (List.range 8).flatMap (fun k => leBytes (clusterFirst s t k) 1) ++ leBytes 0 6

/-- The family parameter block (Table 0.3): the sums of the towers' fields. -/
def familyBlock (s : State) : List Byte :=
  let both := fun (f : Tower → Nat) => f .t0 + f .t1
  leBytes 0x00A7 2 ++ leBytes 0x0009 2 ++ leBytes s.fuses.stepping 1 ++ leBytes s.fuses.screen 1 ++ leBytes 2 1 ++ leBytes s.jobs.partMode 1
    ++ leBytes (both (fun t => (enabledCores s t).length)) 2 ++ leBytes (both (fun t => columnsIn s t 0 512)) 2
    ++ leBytes (both (fun t => columnsIn s t 0 512)) 2 ++ leBytes 16 2 ++ leBytes (both (fun t => backedBytes s t / 2 ^ 20)) 4
    ++ leBytes (both (pinCeiling s)) 4 ++ leBytes 12 2 ++ leBytes 8192 2 ++ leBytes 2700 2 ++ leBytes (abi s) 2 ++ leBytes 0 32

/-- DEV.INFO from the boot ROM: identity alone. -/
def romInfo (s : State) : List Byte :=
  leBytes 0x00A7 2 ++ leBytes 0x0009 2 ++ leBytes s.fuses.stepping 1 ++ leBytes s.fuses.screen 1 ++ leBytes 0 24 ++ leBytes (abi s) 2
    ++ leBytes 0 96

/-- Result of DEV.INFO (Table 12.17). -/
def infoResult (s : State) : List Byte :=
  let p := s.host.pcie; let rom := s.boot.recovery
  (if rom then romInfo s else familyBlock s ++ towerInfo s .t0 ++ towerInfo s .t1)
    ++ sliceBytes s.flash.moduleEeprom 8 16 ++ leBytes s.fuses.serial 8
    ++ (if rom then leBytes 0 4 else leBytes p.linkRate 1 ++ leBytes p.linkWidth 1 ++ leBytes p.bar2Gib 2) ++ leBytes 0 36

/-- DEV.INFO. -/
def devInfo (c : Cmd) (s : State) : State :=
  judged c [(decide (c.length ≠ 0), stBadLength), (hdrBad c, stBadField)] s (complete c stDone (infoResult s) s)

def execDevInfo (mb : Nat) (s : State) : Host.Outcome State Fault Refusal := .next (runCmd 0x0100 mb devInfo s)

/-- A tower's record of DEV.STATUS. -/
def statusTower (s : State) (t : Tower) : List Byte :=
  match jobOfTower s t with
  | none => leBytes 0 2 ++ leBytes 0 1 ++ leBytes 0xFF 1 ++ leBytes 0 12
  | some j =>
    let role := match roleOf s j.id with
      | none => 0xFF
      | some r => match r.role with
        | .follower => 0
        | .master => 1
        | .relay => 2
    leBytes j.id 2 ++ leBytes (jobStateNum j.state) 1 ++ leBytes role 1 ++ leBytes (j.tick % 2 ^ 48) 8 ++ leBytes 0 4

/-- Result of DEV.STATUS (R373). -/
def statusResult (s : State) : List Byte :=
  leBytes (devStage s) 4 ++ leBytes (devFault s) 4 ++ leBytes (devPowerState s) 4 ++ leBytes (devThermState s) 4
    ++ leBytes s.jobs.partMode 1 ++ leBytes 0 3 ++ leBytes s.ev.queue.length 4 ++ statusTower s .t0 ++ statusTower s .t1 ++ leBytes 0 8

/-- DEV.STATUS. -/
def devStatus (c : Cmd) (s : State) : State :=
  judged c [(decide (c.length ≠ 0), stBadLength), (hdrBad c, stBadField)] s (complete c stDone (statusResult s) s)

def execDevStatus (mb : Nat) (s : State) : Host.Outcome State Fault Refusal := .next (runCmd 0x0101 mb devStatus s)

/-- DEV.EVENTS. -/
def devEvents (c : Cmd) (s : State) : State :=
  let n := par c 0 2; let wait := bitOf c.flags 1
  judged c
    [(decide (c.length ≠ 8), stBadLength),
     (c.hdrReserved || decide (c.flags / 4 ≠ 0) || (wait && decide (c.mb ≠ 63)) || decide (n = 0 ∨ 62 < n) || parRes c 2 2, stBadField)]
    s
    (if wait ∧ s.ev.queue = [] then markStarted c s else eventsReturn c n s)

def execDevEvents (mb : Nat) (s : State) : Host.Outcome State Fault Refusal := .next (runCmd 0x0102 mb devEvents s)

/-- DEV.EVENTS_WAIT_TIMEOUT: MAX_WAIT_MS has passed with no record. -/
def eventsTimeout (s : State) : State :=
  match startedCmd s 63 0x0102 with
  | some c => if par c 4 4 = 0 then s else let s1 := s.timeTo (c.takeNs + par c 4 4 * 1000000); eventsReturn c (par c 0 2) s1
  | none => s

def execDevEventsWaitTimeout (s : State) : Host.Outcome State Fault Refusal := .next (eventsTimeout s)

/-- DEV.TIME. -/
def devTime (c : Cmd) (s : State) : State :=
  judged c [(decide (c.length ≠ 0), stBadLength), (hdrBad c, stBadField)] s
    (complete c stDone (leBytes c.takeNs 8 ++ leBytes s.nowNs 8) s)

def execDevTime (mb : Nat) (s : State) : Host.Outcome State Fault Refusal := .next (runCmd 0x0103 mb devTime s)

/-- An entry of MB.ACL that is out of range. -/
def aclBad (e : List Byte) : Bool :=
  decide (fieldAt e 0 1 = 0 ∨ 62 < fieldAt e 0 1 ∨ fieldAt e 1 1 ≠ 0 ∨ fieldAt e 6 2 ≠ 0 ∨ fieldAt e 2 2 % 2 ≠ 0 ∨ 2048 ≤ fieldAt e 2 2)

/-- The 62 entries in force. -/
def aclResult (s : State) : List Byte :=
  (List.range 62).flatMap (fun i =>
    let a := aclOf s (i + 1)
    leBytes (i + 1) 1 ++ leBytes 0 1 ++ leBytes a.groups 2 ++ leBytes a.job 2 ++ leBytes 0 2)

/-- MB.ACL. -/
def mbAcl (c : Cmd) (s : State) : State :=
  let n := par c 0 1
  let es := (List.range n).map (fun i => sliceBytes c.params (8 + 8 * i) 8)
  judged c
    [(decide (c.length < 8) || (decide (n ≤ 62) && decide (c.length ≠ 8 + 8 * n)), stBadLength),
     (hdrBad c || decide (62 < n) || parRes c 1 7 || es.any aclBad, stBadField)]
    s
    (let s1 := s.onHost (fun h => { h with
        acl := es.foldl (fun m e => tabPut m (fieldAt e 0 1) { groups := fieldAt e 2 2, job := fieldAt e 4 2 }) h.acl })
     complete c stDone (aclResult s1) s1)

def execMbAcl (mb : Nat) (s : State) : Host.Outcome State Fault Refusal := .next (runCmd 0x0104 mb mbAcl s)

/-! ### The MC's heartbeat and watchdog (R358, R359) -/

/-- MC_HEARTBEAT_TICK. -/
def heartbeatTick (s : State) : State :=
  if s.host.mcRuns then
    let s1 := s.timeTo (s.host.heartbeatNs + 1000000)
    s1.onHost (fun h => { h with heartbeat := h.heartbeat + 1, heartbeatNs := s1.nowNs })
  else s

def execMcHeartbeatTick (s : State) : Host.Outcome State Fault Refusal := .next (heartbeatTick s)

/-- MC_WATCHDOG: the heartbeat of a started MC has held still for 100 ms. -/
def mcWatchdog (s : State) : State :=
  if s.host.mcRuns then
    let s1 := s.timeTo (s.host.heartbeatNs + 100000000)
    noteStatus s1 (s1.onHost (fun h => { h with mcRuns := false, mcDown := true }))
  else s

def execMcWatchdog (s : State) : Host.Outcome State Fault Refusal := .next (mcWatchdog s)

end Sys2Proof.Machine
end

