-- ==== Sys2Proof/Machine/Power.lean ====
section
/-! DEFINITION. Power states, the power limit, thermal settings, bond drops and telemetry (13_power.md R383, R392 to R396, R402 to
R406). -/

namespace Sys2Proof.Machine

/-! ### Operating points (R383) -/

/-- The effective points follow a change of the commanded point or of a clamp. -/
def retargetBoth (s : State) : State := retarget .t1 (retarget .t0 s)

def execOpPointChangeEnd (t : Tower) (s : State) : Host.Outcome State Fault Refusal := .next (advanceItems (opPointEnd t s))

/-! ### Crack detection (R404) -/

/-- Tower of a die zone, in the order of DEV_THERM_STATE. -/
def towerOfZone (z : Nat) : Tower :=
  if [1, 3, 6, 7, 9].contains z then .t1 else if 18 ≤ z then .t1 else .t0

/-- Note an excess drop, the largest of the last 10 ms. -/
def noteDrop (zone mv : Nat) (s : State) : State :=
  s.onTherm (fun x => { x with
    dropMv := match tabGet x.dropMv zone with
      | some (v, n) => if mv ≤ v ∧ s.nowNs ≤ n + 10000000 then x.dropMv else tabPut x.dropMv zone (mv, s.nowNs)
      | none => tabPut x.dropMv zone (mv, s.nowNs) })

/-- Detail of POWER_BOND_DROP. -/
def dropDetail (s : State) (zone mv cause : Nat) : List Byte :=
  powerDetail s evPowerBondDrop zone 0xFF cause (celsius (tabGetD s.therm.zoneC zone 0)) mv 0 (tickOf s (towerOfZone zone))

/-- Trace of a power clamp change. -/
def traceDrop (zone cause : Nat) (s : State) : State :=
  let t := towerOfZone zone
  traceRec 4 t 7 (((jobOfTower s t).map (·.id)).getD 0) (tickOf s t)
    (leBytes evPowerBondDrop 2 ++ leBytes cause 1 ++ leBytes zone 1 ++ leBytes (s.gate.point.get t) 1 ++ leBytes 0 3 ++ leBytes (capPm s t) 2
      ++ leBytes 0 6) s

/-- Cause 1: a notice, and the bond cap of the tower becomes 700 per mille. -/
def dropCap (zone mv : Nat) (s : State) : State :=
  postNotice evPowerBondDrop 0 (dropDetail s zone mv 1)
    (traceDrop zone 1 (s.onGate (fun g => { g with capBond := g.capBond.set (towerOfZone zone) 700 })))

/-- Cause 2: a job fault of every job of the tower, which closes: its cap is 0 and its point 5. -/
def dropClose (zone mv : Nat) (s : State) : State :=
  let t := towerOfZone zone
  let s1 := traceDrop zone 2 (retarget t (s.onTherm (fun x => { x with closed := x.closed.set t true })))
  match jobOfTower s1 t with
  | some j => jobFault j.id evPowerBondDrop (dropDetail s1 zone mv 2) s1
  | none => postEvent 1 evPowerBondDrop 0 (dropDetail s1 zone mv 2) s1

/-- POWER_BOND_DROP: an excess drop of a die held over 50 µs. -/
def powerBondDrop (zone mv : Nat) (s : State) : State :=
  if 10 ≤ zone then s
  else
    let s1 := noteDrop zone mv s
    if 60 < mv then dropClose zone mv s1 else if 25 < mv then dropCap zone mv s1 else s1

def execPowerBondDrop (zone mv : Nat) (s : State) : Host.Outcome State Fault Refusal := .next (powerBondDrop zone mv s)

/-- A closed tower that leaves REST is measured again under a test load: below 25 mV it reopens, to 60 mV with the cause-1 cap, above it
stays closed and is posted again. -/
def remeasure (drops : List (Nat × Nat)) (t : Tower) (s : State) : State :=
  if s.therm.closed.get t then
    let mine := drops.filter (fun d => decide (d.1 < 10 ∧ towerOfZone d.1 = t))
    let worst := mine.foldl (fun (a : Nat × Nat) d => if a.2 < d.2 then d else a) (towerNum t, 0)
    let s1 := mine.foldl (fun st d => noteDrop d.1 d.2 st) s
    let opened := retarget t (s1.onTherm (fun x => { x with closed := x.closed.set t false }))
    if worst.2 < 25 then opened else if worst.2 ≤ 60 then dropCap worst.1 worst.2 opened else dropClose worst.1 worst.2 s1
  else s

/-! ### POWER.STATE (R392 to R395) -/

/-- Cores of towers drain: copies on their way to HBM or to a pinned bay land, and what waits at the lofts is served (R111). -/
def drainCores (ts : List Tower) (s : State) : State :=
  let mine := s.cores.cores.filter (fun e => ts.contains (towerOf (e.1 / 128)))
  let s1 := mine.foldl (fun st e => (e.2.copies.filter (·.toGlobal.isSome)).foldl (fun z c => asyncCopyComplete e.1 c.id z) st) s
  ts.foldl (fun st t => drainTower t st) s1

/-- Cores of towers lose their contents: crews, registers, local memory, L1R. -/
def clearCores (ts : List Tower) (s : State) : State :=
  s.onCores (fun x => { x with
    cores := (x.cores.filter (fun e => !ts.contains (towerOf (e.1 / 128)) || e.2.held)).map (fun e =>
      if ts.contains (towerOf (e.1 / 128)) then (e.1, { Core.empty with held := e.2.held }) else e) })

/-- Jobs that an IDLE or REST device could not run. -/
def anyJobRuns (s : State) : Bool := s.jobs.jobs.any (fun e => decide (e.2.state = .armed ∨ e.2.state = .running))

/-- A transition is accepted (Table 13.8). -/
def transitionOk (s : State) (dst : PwrState) : Bool :=
  match dst with
  | .dark => decide (s.jobs.jobs = []) && !anyBound s
  | .idle => !(decide (s.gate.pwr = .active ∨ s.gate.pwr = .trim) && anyJobRuns s)
  | .rest => decide (s.gate.pwr = .dark) || !anyJobRuns s
  | .active => true
  | .trim => true

/-- Result of POWER.STATE. -/
def powerResult (s : State) (us : Nat) : List Byte :=
  leBytes (pwrNum s.gate.pwr) 1 ++ leBytes s.gate.cmdPoint 1 ++ leBytes 0 2 ++ leBytes us 4

/-- POWER.STATE. -/
def powerState (c : Cmd) (s : State) : State :=
  let st := par c 0 1; let op := par c 1 1
  judged c
    [(decide (c.length ≠ 8), stBadLength),
     (hdrBad c || decide (4 < st) || decide (if st = 1 then op = 0 ∨ 5 < op else op ≠ 0) || parRes c 2 6, stBadField),
     (s.gate.change.isSome, stBusy)]
    s
    (if pwrOf st = s.gate.pwr ∧ op = s.gate.cmdPoint then complete c stDone (powerResult s 0) s
     else if !transitionOk s (pwrOf st) then complete c stWrongState [] s
     else
       advanceItems (retargetBoth ((markStarted c s).onGate (fun g => { g with
         change := some { mb := c.mb, target := pwrOf st, point := op, startNs := s.nowNs }
         cmdPoint := op }))))

def execPowerState (mb : Nat) (s : State) : Host.Outcome State Fault Refusal := .next (runCmd 0x0600 mb powerState s)

/-- Stacks enter or leave self-refresh. -/
def selfRefresh (on : Bool) (s : State) : State :=
  s.onHbm (fun h => { h with hbmStacks := h.hbmStacks.map (fun e => (e.1, { e.2 with selfRefresh := on })) })

/-- Lofts lose power: nothing is left in their arrays. -/
def loftPowerOff (s : State) : State :=
  s.onLoft (fun x => { x with bulk := [], pinMem := [], pinPoison := [], flips := [] })

/-- The calibration record is written to flash, for this stepping (R455). -/
def writeCalibration (s : State) : State := s.onFlash (fun f => { f with calibration := some s.fuses.stepping })

/-- What entering a state does (Table 13.8); entry into DARK writes the calibration record (R455). -/
def enterState (dst : PwrState) (s : State) : State :=
  match dst with
  | .rest => if s.gate.pwr = .dark then s else clearCores bothTowers (flushTowers bothTowers (drainCores bothTowers s))
  | .dark => (stopPorts (selfRefresh true (loftPowerOff (clearCores bothTowers (flushTowers bothTowers (drainCores bothTowers (writeCalibration s))))))).onGate (fun g => { g with
      commandedDark := true })
  | .idle => s
  | .active => s
  | .trim => s

/-- What leaving a state does: from REST the core runtime broadcast, from DARK lofts filled with zeros and ports that train again. -/
def leaveState (drops : List (Nat × Nat)) (s : State) : State :=
  match s.gate.pwr with
  | .rest => remeasure drops .t1 (remeasure drops .t0 (clearCores bothTowers s))
  | .dark => startPorts ((selfRefresh false s).onGate (fun g => { g with commandedDark := false }))
  | .idle => s
  | .active => s
  | .trim => s

/-- POWER_TRANSITION_END. -/
def powerTransitionEnd (at_ : Nat) (drops : List (Nat × Nat)) (s : State) : State :=
  match s.gate.change with
  | none => s
  | some ch =>
    let s1 := s.timeTo at_
    let s2 := enterState ch.target (leaveState drops s1)
    let s3 := noteStatus s2 (s2.onGate (fun g => { g with pwr := ch.target, change := none }))
    let s4 := advanceItems (opPointEnd .t1 (opPointEnd .t0 s3))
    match startedCmd s4 ch.mb 0x0600 with
    | some c => complete c stDone (powerResult s4 (timeUs s4.nowNs ch.startNs)) s4
    | none => s4

def execPowerTransitionEnd (at_ : Nat) (dropsMv : List (Nat × Nat)) (s : State) : Host.Outcome State Fault Refusal :=
  .next (powerTransitionEnd at_ dropsMv s)

/-! ### POWER.LIMIT (R396) -/

/-- Window budget of a tower under a limit and its bond cap (R384). -/
def budgetUnder (s : State) (limitW : Nat) (t : Tower) : Nat := bondBudget (s.onGate (fun g => { g with limitW := limitW })) t

/-- PKG_BUDGET_W of a limit: 95 % of it. Which neighbour is given where that is no whole number is open (log 43). -/
def packageShare (s : State) (l : Nat) : Nat := l * 95 / 100 + (if l * 95 % 100 = 0 then 0 else Config.openField s.freeCtr % 2)

/-- POWER.LIMIT. -/
def powerLimit (c : Cmd) (s : State) : State :=
  let w := par c 0 4
  judged c
    [(decide (c.length ≠ 8), stBadLength), (hdrBad c || decide (w ≠ 0 ∧ (w < 1500 ∨ 3600 < w)) || parRes c 4 4, stBadField)]
    s
    (let s1 := if w = 0 then s else s.onGate (fun g => { g with nextLimit := some w })
     let l := s1.gate.nextLimit.getD s1.gate.limitW
     complete c stDone
      (leBytes l 4 ++ leBytes (packageShare s1 l) 4 ++ leBytes (budgetUnder s1 l .t0) 2 ++ leBytes (budgetUnder s1 l .t1) 2 ++ leBytes 0 4) s1)

def execPowerLimit (mb : Nat) (s : State) : Host.Outcome State Fault Refusal := .next (runCmd 0x0601 mb powerLimit s)

/-! ### THERM.THRESH and SENSOR.MASK (R398, R402, R403) -/

/-- Kind of a zone: 0 rafter, 1 press, 2 floor, 3 loft, 4 HBM. -/
def zoneKind (z : Nat) : Nat := if z < 2 then 0 else if z < 4 then 1 else if z < 8 then 3 else if z < 10 then 2 else 4

/-- Warn, throttle and shutdown levels by kind (Table 13.10). -/
def warnBase : List Int := [95, 95, 95, 90, 85]
def throttleBase : List Int := [105, 105, 105, 100, 95]
def shutdownBase : List Int := [115, 115, 115, 110, 105]

/-- Levels in force. -/
def warnOf (s : State) (k : Nat) : Int := warnBase.getD k 0 - s.therm.lowerWarn.getD k 0
def throttleOf (s : State) (k : Nat) : Int := throttleBase.getD k 0 - s.therm.lowerThrottle.getD k 0
def shutdownOf (k : Nat) : Int := shutdownBase.getD k 0

/-- THERM.THRESH. -/
def thermThresh (c : Cmd) (s : State) : State :=
  let on := bitOf (par c 0 1) 0
  let lw := (List.range 5).map (fun k => par c (1 + k) 1); let lt := (List.range 5).map (fun k => par c (6 + k) 1)
  judged c
    [(decide (c.length ≠ 16), stBadLength),
     (hdrBad c || decide (2 ≤ par c 0 1) || parRes c 0x0B 5
        || (on && ((lw ++ lt).any (fun v => decide (20 < v)) || (List.range 5).any (fun k =>
          decide (throttleBase.getD k 0 - (lt.getD k 0 : Int) ≤ warnBase.getD k 0 - (lw.getD k 0 : Int))))), stBadField)]
    s
    (let s1 := if on then s.onTherm (fun x => { x with lowerWarn := lw, lowerThrottle := lt }) else s
     complete c stDone
      ((List.range 5).flatMap (fun k => leBytes (warnOf s1 k).toNat 1) ++ (List.range 5).flatMap (fun k => leBytes (throttleOf s1 k).toNat 1)
        ++ (List.range 5).flatMap (fun k => leBytes (shutdownOf k).toNat 1) ++ leBytes 0 1) s1)

def execThermThresh (mb : Nat) (s : State) : Host.Outcome State Fault Refusal := .next (runCmd 0x0602 mb thermThresh s)

/-- Sensors of a zone (R397). -/
def sensorCount (z : Nat) : Nat := [16, 16, 8, 8, 4, 4, 4, 4, 8, 8].getD z 1

/-- A sensor before its first report. -/
def Sensor.fresh : Sensor := { value := none, heldNs := 0, others := [], failed := false, openRef := false }

def sensorAt (s : State) (z i : Nat) : Sensor := tabGetD s.therm.sensors (z * 16 + i) Sensor.fresh

def masked (s : State) (z i : Nat) : Bool := bitOf (tabGetD s.therm.masks z 0) i

/-- Failed sensors of a zone, one bit each. -/
def failedBits (s : State) (z : Nat) : Nat :=
  (((List.range (sensorCount z)).filter (fun i => (sensorAt s z i).failed)).map (fun i => 2 ^ i)).foldl (· + ·) 0

/-- Healthy, unmasked sensors of a zone. -/
def healthyCount (s : State) (z : Nat) : Nat :=
  (List.range (sensorCount z)).countP (fun i => !(sensorAt s z i).failed && !masked s z i)

/-- SENSOR.MASK. Masks are stored in flash. -/
def sensorMask (c : Cmd) (s : State) : State :=
  let z := par c 0 1; let i := par c 1 1; let act := par c 2 1
  judged c
    [(decide (c.length ≠ 8), stBadLength),
     (hdrBad c || decide (10 ≤ z ∨ sensorCount z ≤ i ∨ 3 ≤ act) || parRes c 3 5
        || (decide (act = 0) && !(sensorAt s z i).failed), stBadField),
     (decide (act = 0 ∧ healthyCount s z < 3), stWrongState)]
    s
    (let m := tabGetD s.therm.masks z 0
     let m1 := if act = 0 then m ||| 2 ^ i else if act = 1 then m - (m &&& 2 ^ i) else m
     let s1 := if act = 2 then s
       else { s with therm := { s.therm with masks := tabPut s.therm.masks z m1 }, flash := { s.flash with masks := tabPut s.flash.masks z m1 } }
     complete c stDone (leBytes (failedBits s1 z) 2 ++ leBytes m1 2 ++ leBytes (healthyCount s1 z) 1 ++ leBytes 0 3) s1)

def execSensorMask (mb : Nat) (s : State) : Host.Outcome State Fault Refusal := .next (runCmd 0x0603 mb sensorMask s)

/-! ### TELEM.READ (R405) -/

/-- Largest excess drop of a die in the last 10 ms. -/
def dropNow (s : State) (z : Nat) : Nat := match tabGet s.therm.dropMv z with
  | some (v, n) => if s.nowNs ≤ n + 10000000 then v else 0
  | none => 0

/-- Result of TELEM.READ (Table 13.12). -/
def telemResult (s : State) : List Byte :=
  let m := s.mod; let g := s.gate
  leBytes m.inputMv 4 ++ leBytes m.inputMa 4 ++ leBytes (m.inputMv * m.inputMa / 1000000) 4 ++ leBytes m.pkgMv 4 ++ leBytes m.pkgMa 4
    ++ leBytes g.limitW 4 ++ leBytes (windowBudget g.limitW) 2 ++ leBytes (windowBudget g.limitW) 2 ++ leBytes (capPm s .t0) 2 ++ leBytes (capPm s .t1) 2
    ++ leBytes g.point.t0 1 ++ leBytes g.point.t1 1 ++ leBytes 0 2 ++ leBytes m.towerW.t0 4 ++ leBytes m.towerW.t1 4
    ++ leBytes g.debt.t0 4 ++ leBytes g.debt.t1 4 ++ leBytes 0 12
    ++ (List.range 26).flatMap (fun z => leBytes (celsius (tabGetD s.therm.zoneC z 0)) 1) ++ leBytes 0 6
    ++ (List.range 10).flatMap (fun z => leBytes (failedBits s z) 2)
    ++ leBytes (((List.range 16).filter (fun i => (sensorAt s (10 + i) 0).failed)).map (fun i => 2 ^ i) |>.foldl (· + ·) 0) 2
    ++ (List.range 10).flatMap (fun z => leBytes (tabGetD s.therm.masks z 0) 2) ++ leBytes 0 6
    ++ (List.range 10).flatMap (fun z => leBytes (min 255 (dropNow s z)) 1) ++ leBytes 0 6

/-- TELEM.READ. -/
def telemRead (c : Cmd) (s : State) : State :=
  judged c [(decide (c.length ≠ 0), stBadLength), (hdrBad c, stBadField)] s (complete c stDone (telemResult s) s)

def execTelemRead (mb : Nat) (s : State) : Host.Outcome State Fault Refusal := .next (runCmd 0x0604 mb telemRead s)

end Sys2Proof.Machine
end

