-- ==== Sys2Proof/Machine/Jobs.lean ====
section
/-! DEFINITION. Jobs, their configuration, arming and stopping, kernel images, and the records of ticks (02_ticks.md R62 to R67, R69;
03_cores.md R75 to R78). -/

namespace Sys2Proof.Machine

/-! ### Faults of the tick (R55, R57, R70) -/

/-- This device's part of a job ends in a job fault: FAULT goes to the master, or the master sends ABORT, and the job is FAULTED. -/
def faultStop (job code item : Nat) (detail : List Byte) (s : State) : State :=
  let s1 := jobFault job code detail s
  match jobAt s1 job with
  | some j => if j.state = .armed ∨ j.state = .running then stopJob job .faulted .faulted 5 code item s1 else s1
  | none => s1

/-- A job fault of the tick itself. Its detail names no ORIGIN: Table 2.21 does not say whether a device that raises it is the one that
sent FAULT (DESIGN CHOICE, log 64). -/
def tickFault (job code cause : Nat) (s : State) : State :=
  match jobAt s job with
  | none => s
  | some j =>
    if j.state = .armed ∨ j.state = .running then
      faultStop job code (lowestUnfinished j.sheaf) (tickDetail j code cause 0 0xFFFF (lowestUnfinished j.sheaf)) s
    else s

/-! ### JOB.CREATE and JOB.DESTROY (R63, R64) -/

/-- A page-set entry's layout (Table 2.6). -/
def pageSetOf (b : List Byte) : PageSet := { space := fieldAt b 0 1, access := fieldAt b 1 1, count := fieldAt b 4 4, base := fieldAt b 8 8 }

/-- An entry's format fails. -/
def pageSetBad (b : List Byte) : Bool :=
  decide (2 ≤ fieldAt b 0 1 ∨ fieldAt b 1 1 = 0 ∨ 8 ≤ fieldAt b 1 1 ∨ fieldAt b 2 2 ≠ 0 ∨ fieldAt b 4 4 = 0 ∨ fieldAt b 8 8 % pageBytes ≠ 0)

/-- Bytes an entry declares. -/
def entryRegion (e : PageSet) : Region := { base := e.base, bytes := e.count * pageBytes }

/-- Its pages are not all backed HBM pages in service, or bays of the window. A page recorded for retirement counts from the next DEVICE
reset (R251). -/
def entryUnbacked (s : State) (e : PageSet) : Bool :=
  let hi := e.base + e.count * pageBytes
  if e.space = 1 then decide (e.base < pinBase ∨ pinBase + 0x400000000 < hi)
  else decide (hbmTop < hi) || (List.range e.count).any (fun i =>
    unbacked s (e.base + i * pageBytes) || ((tabGet s.hbm.retiredPages (e.base / pageBytes + i)).map (·.1)).getD false)

/-- A split job's entry with a page or bay of the other tower (R23). -/
def entryForeign (s : State) (t : Tower) (e : PageSet) : Bool :=
  (List.range e.count).any (fun i => decide (homeTower s (e.base + i * pageBytes) ≠ t))

/-- The field map breaks a rule of R63. -/
def mapBad (s : State) (partition : Nat) (map : List PageSet) : Bool :=
  map.any (fun e =>
    s.jobs.jobs.any (fun j => j.2.map.any (fun o => meets e.base (e.count * pageBytes) (entryRegion o)))
      || meets e.base (e.count * pageBytes) s.hbm.mirror.t0 || meets e.base (e.count * pageBytes) s.hbm.mirror.t1
      || meets e.base (e.count * pageBytes) (mcRegion s.hbm.globalHoming) || entryUnbacked s e
      || (decide (partition ≠ 0) && entryForeign s (if partition = 2 then .t1 else .t0) e))
    || (decide (partition ≠ 0) && s.hbm.globalHoming)

/-- A new job. -/
def Job.fresh (id partition seqFirst seqCount : Nat) (map : List PageSet) : Job :=
  { id := id, partition := partition, seqFirst := seqFirst, seqCount := seqCount, map := map, state := .created, cfg := none, startTick := 0,
    tick := 0, boundaryNs := 0, firstNs := none, runEndNs := 0, settleUs := 0, phase := .idle, sUs := 0, lastDUs := 0, started := false,
    epoch := 0, sentHold := false, overrunPosted := false, holds := [], seqno := 0, lastSeq := none, actedSeq := none, pathNs := 0, misses := 0,
    tickSeen := none, abortSent := false, stopAt := none, repeats := [], sheaf := none, next := none, admission := none, records := [],
    kernels := [], kernelLog := List.replicate 32 0, quota := ⟨none, none⟩, mesh := none, ctxIndex := [] }

/-- The partition rules forbid the job. -/
def partitionBad (s : State) (p : Nat) : Bool :=
  if p = 0 then decide (s.jobs.jobs ≠ [])
  else s.jobs.jobs.any (fun j => decide (j.2.partition = 0 ∨ j.2.partition = p))

/-- JOB.CREATE. -/
def jobCreate (c : Cmd) (s : State) : State :=
  let id := par c 0 2; let p := par c 2 1; let first := par c 4 2; let count := par c 6 2; let n := par c 8 4
  let es := (List.range n).map (fun i => sliceBytes c.params (16 + 16 * i) 16)
  judged c
    [(decide (c.length < 16) || decide (1 ≤ n ∧ n ≤ 250 ∧ c.length ≠ 16 + 16 * n), stBadLength),
     (hdrBad c || decide (n = 0 ∨ 250 < n) || parRes c 3 1 || parRes c 0xC 4 || decide (id = 0 ∨ id = 0xFFFF) || (jobAt s id).isSome
        || decide (2 < p ∨ count = 0 ∨ 8192 < first + count)
        || s.jobs.jobs.any (fun j => decide (first < j.2.seqFirst + j.2.seqCount ∧ j.2.seqFirst < first + count))
        || es.any pageSetBad, stBadField),
     (partitionBad s p, stWrongState),
     (mapBad s p (es.map pageSetOf), stBadField)]
    s
    (complete c stDone [] ((((towersOfPartition p).foldl (fun st t => towerForJob t st) s).onJobs (fun x => { x with
      jobs := tabPut x.jobs id (Job.fresh id p first count (es.map pageSetOf))
      partMode := if x.jobs = [] then (if p = 0 then 0 else 1) else x.partMode })).onGate (restartRates (towersOfPartition p))))

def execJobCreate (mb : Nat) (s : State) : Host.Outcome State Fault Refusal := .next (runCmd 0x0206 mb jobCreate s)

/-- The job of a command is in none of some states. -/
def notIn (j : Option Job) (ok : List JobState) : Bool := match j with
  | some x => !ok.contains x.state
  | none => true

/-- A tower of the job is bound (R332). -/
def jobBound (s : State) (j : Job) : Bool := (towersOfPartition j.partition).any (fun t => decide ((s.twin.get t).state ≠ .off))

/-- JOB.DESTROY. -/
def jobDestroy (c : Cmd) (s : State) : State :=
  let j := jobAt s c.job
  judged c
    [(decide (c.length ≠ 0), stBadLength), (j.isNone, stBadField),
     (notIn j [.created, .configured, .stopped, .faulted] || (j.map (jobBound s)).getD false, stWrongState), (hdrBad c, stBadField)]
    s
    (let bays := (s.loft.bays.filter (fun e => decide (e.2.job = c.job))).map (·.1)
     let s1 := (bays.foldl (fun acc b => unpinBay b acc) (s, [], 0)).1
     let s2 := closeCtxs c.job ((s1.fab.ctxs.filter (fun e => decide (e.2.owner = c.job ∧ e.2.mirror = false))).map (·.1)) s1
     complete c stDone [] (s2.onJobs (fun x => { x with jobs := tabDel x.jobs c.job })))

def execJobDestroy (mb : Nat) (s : State) : Host.Outcome State Fault Refusal := .next (runCmd 0x0207 mb jobDestroy s)

/-! ### TICK.CONFIG (R65) -/

/-- TICK.CONFIG. -/
def tickConfig (c : Cmd) (s : State) : State :=
  let j := jobAt s c.job
  let k : TickCfg := { periodUs := par c 0 4, commitPm := par c 4 2, gleanPm := par c 6 2, stretchPm := par c 8 2,
                       seed := BitVec.ofNat 64 (par c 0x10 8), crc := crc32c (sliceBytes c.params 0 10) }
  judged c
    [(decide (c.length ≠ 32), stBadLength), (j.isNone, stBadField), (notIn j [.created, .configured, .stopped, .faulted], stWrongState),
     (hdrBad c || decide (k.periodUs < 2000 ∨ 200000 < k.periodUs ∨ k.commitPm < 20 ∨ 100 < k.commitPm ∨ k.gleanPm < 10 ∨ 100 < k.gleanPm
        ∨ 1000 < k.stretchPm ∨ 200 < k.commitPm + k.gleanPm) || parRes c 0xA 6 || parRes c 0x18 8, stBadField)]
    s
    (complete c stDone
      (leBytes (runUs k) 4 ++ leBytes (commitUs k) 4 ++ leBytes (gleanUs k) 4 ++ leBytes (cminUs k) 4 ++ leBytes (stretchMax k) 4 ++ leBytes k.crc 4)
      (s.onJob c.job (fun x => { x with cfg := some k, state := .configured })))

def execTickConfig (mb : Nat) (s : State) : Host.Outcome State Fault Refusal := .next (runCmd 0x0200 mb tickConfig s)

/-! ### TICK.START (R66, R313, R344) -/

/-- A role that starts a job: master or follower. -/
def startRole (s : State) (job : Nat) : Option RoleRec :=
  (roleOf s job).bind (fun r => if r.role = .relay then none else some r)

/-- A tower of the job refuses the start (R342, R344). -/
def startRefused (s : State) (j : Job) (resume : Bool) : Bool :=
  (towersOfPartition j.partition).any (fun t =>
    let w := s.twin.get t
    decide (w.state = .recovering) || (resume && (w.untrusted || w.committed.isNone)))

/-- START_TICK − 1 is a tower's committed tick or one less. -/
def resumeOk (s : State) (j : Job) (start : Nat) : Bool :=
  (towersOfPartition j.partition).all (fun t => match (s.twin.get t).committed with
    | some k => decide (start = k + 1 ∨ start = k)
    | none => false)

/-- The tick before a tick number. -/
def tickBefore (n : Nat) : Nat := if n = 0 then 2 ^ 48 - 1 else n - 1

/-- The job is armed for a start tick. The SEQNO of the master's last beacon stays known (R58). -/
def armJob (start : Nat) (first : Option Nat) (settle : Nat) (j : Job) : Job :=
  { discardNext j with
    state := .armed, startTick := start, tick := tickBefore start, firstNs := first, boundaryNs := first.getD 0, settleUs := settle
    phase := .idle, sUs := 0, lastDUs := 0, started := false, epoch := j.epoch + 1, sentHold := false, overrunPosted := false, holds := []
    actedSeq := none, pathNs := 0, misses := 0, tickSeen := none, abortSent := false, stopAt := none, repeats := [], sheaf := none }

/-- The twins of a job's towers run its ticks from a start tick on anew. -/
def rerunTwins (j : Option Job) (start : Nat) (s : State) : State := match j with
  | some x => (towersOfPartition x.partition).foldl (fun st t => st.onTwin (fun p => p.mod t (Twin.rerun start))) s
  | none => s

/-- TICK.START. -/
def tickStart (c : Cmd) (s : State) : State :=
  let j := jobAt s c.job
  let start := par c 0 8; let at0 := par c 8 8; let fl := par c 0x10 4; let resume := bitOf fl 0
  let role := startRole s c.job
  let master := isMaster s c.job
  let settle := if master then (role.map (fun r => settleUs r.maxPathNs)).getD 0 else 0
  let first := if at0 = 0 then c.takeNs + 2000000 else at0
  judged c
    [(decide (c.length ≠ 24), stBadLength), (j.isNone, stBadField),
     (notIn j [.configured, .stopped, .faulted] || role.isNone || s.fab.devId.isNone || decide (s.gate.pwr ≠ .active ∧ s.gate.pwr ≠ .trim)
        || (j.map (fun x => startRefused s x resume)).getD true || s.obs.shutdown, stWrongState),
     (hdrBad c || decide (2 ^ 48 ≤ start ∨ 2 ≤ fl) || parRes c 0x14 4 || (!master && decide (at0 ≠ 0))
        || (master && decide (at0 ≠ 0 ∧ at0 < c.takeNs + 1000000))
        || (master && decide (((j.bind (·.cfg)).map cminUs).getD 0 < settle + 20))
        || (resume && !(j.map (fun x => resumeOk s x start)).getD false), stBadField)]
    s
    (let s1 := (rerunTwins j start s).onJob c.job (armJob start (if master then some first else none) settle)
     complete c stDone (leBytes settle 4 ++ leBytes 0 4 ++ leBytes (if master then first else 0) 8) (if resume then restartCtxs c.job s1 else s1))

def execTickStart (mb : Nat) (s : State) : Host.Outcome State Fault Refusal := .next (runCmd 0x0201 mb tickStart s)

/-! ### TICK.STOP (R67) -/

/-- The destination bays of STAGE items of the next sheaf that have not completed are undefined. -/
def cancelStages (job : Nat) (s : State) : State :=
  match (jobAt s job).bind (·.next) with
  | none => s
  | some sh =>
    (((sh.items.filter (fun i => decide (i.kind = 6 ∧ i.st ≠ .done))).flatMap (fun i => (stagePages s i).2)).filter
      (fun p => isPinned p)).foldl (fun st p => undefine p pageBytes st) s

/-- The job stops without a fault: its sheafs are discarded and the running tick's record takes state 7 where its items stop. -/
def stopClean (job : Nat) (st : JobState) (s : State) : State := stopJob job st .stopped 7 0 noIndex (cancelStages job s)

/-- An armed job is disarmed. -/
def disarm (job : Nat) (s : State) : State :=
  (stopClean job .configured s).onJob job (fun j => { j with firstNs := none, repeats := [] })

/-- TICK.STOP. -/
def tickStop (c : Cmd) (s : State) : State :=
  let j := jobAt s c.job
  let last := par c 0 8
  let running := decide (j.map (·.state) = some .running)
  let now := (j.map (·.tick)).getD 0
  judged c
    [(decide (c.length ≠ 8), stBadLength), (j.isNone, stBadField),
     (notIn j [.armed, .running] || (running && !isMaster s c.job), stWrongState),
     (hdrBad c || decide (2 ^ 48 ≤ last) || (if running then decide (last ≠ 0 ∧ last < now) else decide (last ≠ 0)), stBadField)]
    s
    (complete c stDone []
      (if running then s.onJob c.job (fun x => { x with stopAt := some (if last = 0 then now else last) }) else disarm c.job s))

def execTickStop (mb : Nat) (s : State) : Host.Outcome State Fault Refusal := .next (runCmd 0x0202 mb tickStop s)

/-! ### SHEAF.STATUS (R69) -/

/-- The record of a tick as of now: the running tick's counts are those reached, waits still going on at the gate included. -/
def recNow (s : State) (j : Job) (r : TickRec) : TickRec :=
  if j.state = .running ∧ r.tick = j.tick then
    { r with
      itemsDone := (j.sheaf.map itemsDone).getD 0, sUs := j.sUs, dUs := (j.cfg.map (fun c => delayOf c j.sUs)).getD 0
      gateWaitNs := r.gateWaitNs + waitsNow s j.id j.tick }
  else r

/-- Result of SHEAF.STATUS (Table 2.19). -/
def recordResult (r : TickRec) : List Byte :=
  leBytes r.state 1 ++ leBytes (if r.critFlag then 1 else 0) 1 ++ leBytes r.faultCode 2 ++ leBytes r.itemsDone 4 ++ leBytes r.itemsTotal 4
    ++ leBytes r.faultItem 4 ++ leBytes r.sUs 4 ++ leBytes r.dUs 4 ++ leBytes r.stageWaits 4 ++ leBytes (min 0xFFFFFFFF (r.gateWaitNs / 1000)) 4 ++ leBytes r.boundaryNs 8

/-- SHEAF.STATUS. -/
def sheafStatus (c : Cmd) (s : State) : State :=
  let j := jobAt s c.job
  judged c
    [(decide (c.length ≠ 8), stBadLength), (j.isNone, stBadField), (notIn j [.armed, .running, .stopped, .faulted], stWrongState),
     (hdrBad c || decide (2 ^ 48 ≤ par c 0 8), stBadField)]
    s
    (let r := (j.bind (fun x => (x.records.find? (fun r => decide (r.tick = par c 0 8))).map (recNow s x))).getD
        { TickRec.fresh 0 with faultItem := noIndex }
     complete c stDone (recordResult r) s)

def execSheafStatus (mb : Nat) (s : State) : Host.Outcome State Fault Refusal := .next (runCmd 0x0204 mb sheafStatus s)

/-! ### KERNEL.LOAD (R76 to R78, R447, R451) -/

/-- A kernel image header (Table 3.4) of a loaded image. -/
def kernelOf (addr : Nat) (img meas : List Byte) : Kernel :=
  { addr := addr, bytes := fieldAt img 8 4, flags := fieldAt img 6 2, codeOffset := fieldAt img 0xC 4, codeBytes := fieldAt img 0x10 4,
    entry := fieldAt img 0x14 4, regs := fieldAt img 0x18 2, localKib := fieldAt img 0x1A 2, barriers := fieldAt img 0x1C 1,
    counters := fieldAt img 0x1D 1, gangSizes := fieldAt img 0x1E 1, eclass := fieldAt img 0x1F 1, spillBytes := fieldAt img 0x20 4,
    paramBytes := fieldAt img 0x24 4, measurement := meas }

/-- A header field is out of range, or the CRC does not match. -/
def kernelBad (abi bytes : Nat) (img : List Byte) : Bool :=
  let k := kernelOf 0 img []
  let so := fieldAt img 0x28 4; let sb := fieldAt img 0x2C 4
  decide (fieldAt img 0 4 ≠ 0x4C4E524B ∨ fieldAt img 4 2 ≠ abi ∨ 8 ≤ k.flags ∨ k.bytes ≠ bytes ∨ k.bytes < 128 ∨ 2 ^ 24 < k.bytes
      ∨ k.codeOffset % 256 ≠ 0 ∨ k.codeOffset < 128 ∨ k.codeBytes % 16 ≠ 0 ∨ k.bytes < k.codeOffset + k.codeBytes
      ∨ k.entry % 16 ≠ 0 ∨ k.codeBytes ≤ k.entry)
    || decide (k.regs < 8 ∨ 256 < k.regs ∨ k.regs % 8 ≠ 0 ∨ 512 < k.localKib ∨ k.localKib % 4 ≠ 0 ∨ k.barriers = 0 ∨ 16 < k.barriers
      ∨ 64 < k.counters ∨ k.gangSizes = 0 ∨ 64 ≤ k.gangSizes ∨ 16 ≤ k.eclass ∨ k.spillBytes % 4096 ≠ 0 ∨ 4096 < k.paramBytes)
    || (!bitOf k.flags 2 && decide (k.spillBytes ≠ 0)) || decide (so ≠ 0 ∧ k.bytes < so + sb)
    || !zeroAt img 0x34 12 || !zeroAt img 0x60 32
    || decide (crc32c (imageZeroed img 0x30 so (if so = 0 then 0 else sb)) ≠ fieldAt img 0x30 4)

/-- Keys the running image signs kernels with. -/
def kernelKeys (s : State) : Nat := fieldAt s.trust.runHeader 0x38 1

/-- The device requires signed kernels, and the image's signature block does not verify (R447). -/
def kernelUnsigned (s : State) (img : List Byte) : Bool :=
  let so := fieldAt img 0x28 4; let sb := fieldAt img 0x2C 4; let slot := fieldAt img (so + 4) 1
  decide (kernelKeys s ≠ 0) && (decide (so = 0 ∨ kernelKeys s ≤ slot)
    || !blockVerifies (sliceBytes s.trust.runHeader (0x40 + 32 * slot) 32) img so sb)

/-- An admitted or running sheaf names a handle. -/
def handleNamed (j : Job) (h : Nat) : Bool :=
  let live := fun (o : Option Sheaf) => match o with
    | some sh => sh.items.any (fun i => decide (i.kind = 1 ∧ fieldAt i.args 0 2 = h))
    | none => false
  (live j.sheaf && decide (j.state = .running)) || live j.next

/-- Result of KERNEL.LOAD (Table 3.6). -/
def kernelResult (k : Kernel) (h : Nat) : List Byte :=
  sliceBytes k.measurement 0 32 ++ leBytes h 2
    ++ (List.range 6).flatMap (fun i => leBytes (if bitOf k.gangSizes i then crewsPerCore k (2 ^ i) else 0) 1) ++ leBytes 0 8

/-- KERNEL.LOAD. -/
def kernelLoad (c : Cmd) (s : State) : State :=
  let j := jobAt s c.job
  let h := par c 0 2; let fl := par c 2 2; let bytes := par c 4 4; let addr := par c 8 8; let un := bitOf fl 0
  let held := (j.bind (fun x => tabGet x.kernels h)).isSome
  let img := if un ∨ 2 ^ 24 < bytes then [] else viewBytes s addr bytes
  judged c
    [(decide (c.length ≠ 16), stBadLength), (j.isNone, stBadField), (s.obs.shutdown, stWrongState), (held && (j.map (fun x => handleNamed x h)).getD false, stBusy),
     (hdrBad c || decide (1023 < h ∨ 2 ≤ fl)
        || (if un then decide (addr ≠ 0 ∨ bytes ≠ 0) || !held
            else decide (addr % 256 ≠ 0 ∨ bytes < 128 ∨ 2 ^ 24 < bytes) || !rangeAllowed s c.job 0 addr bytes
              || kernelBad (fieldAt s.trust.runHeader 6 2) bytes img), stBadField),
     (!un && kernelUnsigned s img, stSigInvalid)]
    s
    (if un then complete c stDone (leBytes 0 32 ++ leBytes h 2 ++ leBytes 0 14) (s.onJob c.job (fun x => { x with kernels := tabDel x.kernels h }))
     else
       let so := fieldAt img 0x28 4
       let k := kernelOf addr img (imageDigest img so (if so = 0 then 0 else fieldAt img 0x2C 4))
       complete c stDone (kernelResult k h) (s.onJob c.job (fun x => { x with
         kernels := tabPut x.kernels h k
         kernelLog := sha256 (x.kernelLog ++ k.measurement ++ leBytes h 2) })))

def execKernelLoad (mb : Nat) (s : State) : Host.Outcome State Fault Refusal := .next (runCmd 0x0205 mb kernelLoad s)

end Sys2Proof.Machine
end

