-- ==== Sys2Proof/Machine/Admission.lean ====
section
/-! DEFINITION. SHEAF.SUBMIT and the end of an admission: format, the four checks of Table 2.7, and the result (02_ticks.md R35 to
R45, R68; 03_cores.md R79, R80; 05_press.md R147; 09_tensors.md R277 to R279; 10_fabric.md R319). -/

namespace Sys2Proof.Machine

/-! ### The result (Table 2.18) -/

/-- A result of SHEAF.SUBMIT. -/
structure AdmRes where
  stage : Nat
  reason : Nat
  item : Nat
  entry : Nat
  figures : List Nat
deriving DecidableEq, Repr

/-- No figures: check 4 was not reached. -/
def AdmRes.early (stage reason item entry : Nat) : AdmRes := { stage := stage, reason := reason, item := item, entry := entry, figures := [0, 0, 0, 0, 0] }

/-- The 40 bytes of a result: CRIT_US, BUSHELS and CAP follow the indices. -/
def admBytes (r : AdmRes) (admitUs : Nat) : List Byte :=
  leBytes r.stage 2 ++ leBytes r.reason 2 ++ leBytes r.item 4 ++ leBytes r.entry 4
    ++ (List.range 5).flatMap (fun i => leBytes (r.figures.getD i 0) 4) ++ leBytes (min admitUs 0xFFFFFFFF) 4 ++ leBytes 0 4

/-- Complete a submission, ADMIT_US being the time since its take. -/
def admComplete (c : Cmd) (status : Nat) (r : AdmRes) (s : State) : State :=
  complete c status (admBytes r ((s.nowNs - c.takeNs) / 1000)) s

/-! ### SHEAF.SUBMIT (R41, R45, R62, R68) -/

/-- The job's state takes a submission for a tick at a handoff. -/
def submitOpen (j : Job) (tick handoffNs : Nat) : Bool :=
  decide (j.next.map (·.tick) ≠ some tick)
    && (if j.state = .running then
          decide (tick = j.tick + 1 ∧ handoffNs ≤ j.boundaryNs + ((j.cfg.map (·.periodUs)).getD 0) * 500)
        else decide (j.state = .armed ∧ tick = j.startTick) && (match j.firstNs with
          | some f => decide (handoffNs ≤ f)
          | none => true))

/-- SHEAF.SUBMIT: refused at once for its length, its job, the state, or an admission under way; else its admission runs. -/
def sheafSubmit (c : Cmd) (s : State) : State :=
  let tick := par c 0x10 8
  if c.length ≠ 24 then complete c stBadLength [] s
  else match jobAt s c.job with
    | none => admComplete c stBadField (AdmRes.early 0 stBadField noIndex noIndex) s
    | some j =>
      if !submitOpen j tick c.handoffNs then admComplete c stWrongState (AdmRes.early 0 stWrongState noIndex noIndex) s
      else if j.admission.isSome then admComplete c stBusy (AdmRes.early 0 stBusy noIndex noIndex) s
      else (markStarted c s).onJob c.job (fun x => { x with
        admission := some { mb := c.mb, handoffNs := c.handoffNs, takeNs := c.takeNs, tick := tick, addr := par c 0 8,
                            bytes := par c 8 4, wasState := x.state, epoch := x.epoch } })

def execSheafSubmit (mb : Nat) (s : State) : Host.Outcome State Fault Refusal := .next (runCmd 0x0203 mb sheafSubmit s)

/-! ### The format (R42) -/

/-- A part of the sheaf lies behind the header and inside TOTAL_BYTES, its offset a multiple of `m`. -/
def partBad (off size m total : Nat) : Bool := decide (off % m ≠ 0) || (decide (size ≠ 0) && decide (off < 64 ∨ total < off + size))

/-- End of a part; 64 for an empty one. -/
def partEnd (off size : Nat) : Nat := if size = 0 then 64 else off + size

/-- Step 1: the header. -/
def headerBad (abiNow job : Nat) (a : Admission) (b : List Byte) : Bool :=
  let total := fieldAt b 0x10 4; let ni := fieldAt b 0x14 4; let io := fieldAt b 0x18 4; let np := fieldAt b 0x1C 4
  let po := fieldAt b 0x20 4; let so := fieldAt b 0x24 4; let sb := fieldAt b 0x28 4
  decide (fieldAt b 0 4 ≠ 0x46454853 ∨ fieldAt b 4 2 ≠ abiNow ∨ fieldAt b 6 2 ≠ job ∨ fieldAt b 8 8 ≠ a.tick ∨ 2 ^ 48 ≤ a.tick
      ∨ total ≠ a.bytes ∨ total < 64 ∨ 2 ^ 26 < total ∨ a.addr % 64 ≠ 0 ∨ 65534 < ni ∨ 2 ≤ fieldAt b 0x2E 2)
    || !zeroAt b 0x38 8 || partBad io (64 * ni) 64 total || partBad po (16 * np) 16 total || partBad so sb 1 total
    || decide (so = 0 ∧ sb ≠ 0) || decide (max (partEnd io (64 * ni)) (max (partEnd po (16 * np)) (partEnd so sb)) ≠ total)
    || decide (crc32c (overlay b 0x34 (leBytes 0 4)) ≠ fieldAt b 0x34 4)

/-- An item as it stands in memory (Table 2.4). -/
def itemOf (b : List Byte) : Item :=
  { kind := fieldAt b 0 1, towers := fieldAt b 1 1, eclass := fieldAt b 2 1, trace := bitOf (fieldAt b 3 1) 0, estNs := fieldAt b 4 4,
    psFirst := fieldAt b 8 4, psCount := fieldAt b 0xC 4,
    preds := ((List.range 4).map (fun k => fieldAt b (0x10 + 2 * k) 2)).filter (· ≠ 0xFFFF),
    descAddr := fieldAt b 0x20 8, descBytes := fieldAt b 0x28 4, args := sliceBytes b 0x2C 20, st := .waiting, startNs := 0,
    stageSince := none, holds := 0 }

/-- ARGS as the kind's table lays them out (R79, R147, R267, R316). -/
def argsBad (i : Item) : Bool :=
  if i.kind = 1 then
    !zeroAt i.args 3 1 || !zeroAt i.args 0x10 4 || !(([1, 2, 4, 8, 16, 32] : List Nat).contains (fieldAt i.args 2 1))
      || decide (fieldAt i.args 4 4 = 0 ∨ 2 ^ 31 < fieldAt i.args 4 4)
  else !zeroAt i.args 0 20

/-- Step 2: item k of `all`, with its bytes. -/
def itemBad (entries : Nat) (all : List Item) (k : Nat) (i : Item) (b : List Byte) : Bool :=
  decide (6 < i.kind ∨ i.towers = 0 ∨ 4 ≤ i.towers ∨ 16 ≤ i.eclass ∨ 2 ≤ fieldAt b 3 1 ∨ (i.estNs = 0 ∧ i.kind ≠ 0)
      ∨ entries < i.psFirst + i.psCount)
    || !zeroAt b 0x18 8 || argsBad i
    || i.preds.any (fun p => decide (k ≤ p) || (decide (i.kind = 6) && decide ((all[p]?).map (·.kind) ≠ some 6)))
    || (decide (i.kind = 0) && decide (i.eclass ≠ 0 ∨ i.descAddr ≠ 0 ∨ i.descBytes ≠ 0))

/-- The sheaf of a submission, or its first format failure: item and entry. -/
def sheafFormat (abiNow job : Nat) (cmdBad : Bool) (a : Admission) (b : List Byte) : Sum Sheaf (Nat × Nat) :=
  if cmdBad || headerBad abiNow job a b then .inr (noIndex, noIndex)
  else
    let ni := fieldAt b 0x14 4; let np := fieldAt b 0x1C 4
    let ibs := (List.range ni).map (fun k => sliceBytes b (fieldAt b 0x18 4 + 64 * k) 64)
    let pbs := (List.range np).map (fun k => sliceBytes b (fieldAt b 0x20 4 + 16 * k) 16)
    let items := ibs.map itemOf
    match (ibs.mapIdx (fun k x => itemBad np items k (itemOf x) x)).findIdx? id, pbs.findIdx? pageSetBad with
    | some k, _ => .inr (k, noIndex)
    | none, some k => .inr (noIndex, k)
    | none, none => .inl
        { tick := a.tick, addr := a.addr, bytes := a.bytes, critEst := fieldAt b 0x30 4, critUs := 0, noMirror := bitOf (fieldAt b 0x2E 2) 0,
          seqActive := fieldAt b 0x2C 2, symOff := fieldAt b 0x24 4, symBytes := fieldAt b 0x28 4, items := items,
          pagesets := pbs.map pageSetOf }

/-! ### Check 1: the field map -/

/-- An entry stays inside the field map, in its address space, with no more access than the map allows. -/
def entryInMap (s : State) (job : Nat) (e : PageSet) : Bool :=
  decide ((e.space = 1) = isPinned e.base)
    && (List.range 3).all (fun k => !bitOf e.access k || rangeAllowed s job k e.base (e.count * pageBytes))

/-- Extents of an item's descriptor lie in the field map. -/
def extentsInMap (s : State) (job : Nat) (xs : List (Nat × Nat × Nat)) : Bool := xs.all (fun x => rangeAllowed s job x.2.2 x.1 x.2.1)

/-- R80's part of check 1. The spill region must lie in pinned bays. -/
def kernelInMap (s : State) (job : Nat) (i : Item) : Bool := match itemKernel s job i with
  | none => false
  | some k =>
    let g := fieldAt i.args 2 1; let spill := fieldAt i.args 8 8
    bitOf k.gangSizes g.log2 && decide (i.descBytes ≤ k.paramBytes) && (bitOf k.flags 2 == decide (spill ≠ 0))
      && extentsInMap s job (kernelExtents s job i) && (decide (spill = 0) || isPinned spill)

/-- R147's part of check 1, and the header and extents admission reads (R149). -/
def sweepInMap (s : State) (job : Nat) (i : Item) : Bool :=
  let b := viewBytes s i.descAddr 64
  decide (i.towers ≠ 3 ∧ i.descBytes = 64) && rangeAllowed s job 0 i.descAddr 64 && sweepHdrOk b && extentsInMap s job (sweepExtents (sweepHdrOf b))

/-- Table 9.7: the reason of the first test that fails. -/
def copyInMap (s : State) (job : Nat) (i : Item) : Option Nat :=
  let b := viewBytes s i.descAddr i.descBytes
  let d := copyDescOf b
  if i.descBytes ≠ descBytesOf d.op || !rangeAllowed s job 0 i.descAddr i.descBytes || decide (i.descAddr % 32 ≠ 0) then some evFieldViolation
  else if !copyTest2 i.kind b then some evFieldViolation
  else if !copyTest3 d then some evCopyMisaligned
  else if !copyTest4 d then some evCopyBadShard
  else if !extentsInMap s job (copyRanges d) then some evFieldViolation
  else if !copyTest6 d then some evCopyOverlap
  else none

/-- The peers an instruction names are open contexts of the job. -/
def peersGiven (s : State) (job : Nat) (ps : List SeqInstr) (k : Nat) (x : SeqInstr) : Bool :=
  let m := (jobAt s job).bind (·.mesh)
  let turns := if bitOf x.peer 15 then min (iterations ps k) (meshAxis m (bitsOf x.peer 14 13)).1 else 1
  decide (5 ≤ x.op) || ((!bitOf x.peer 15 || m.isSome) && (List.range turns).all (fun i =>
    match (jobCtx s job (peerIndex m x i)).bind (fun n => tabGet s.fab.ctxs n) with
    | some c => decide (c.state = .openS)
    | none => false))

/-- R316 and R319's part of check 1. -/
def collectiveInMap (s : State) (job : Nat) (i : Item) : Bool :=
  let b := viewBytes s i.descAddr i.descBytes
  let n := fieldAt b 4 4
  decide (i.towers ≠ 3 ∧ fieldAt b 0 4 = 0x4C4C4F43 ∧ 1 ≤ n ∧ n ≤ 1024 ∧ i.descBytes = 64 + 32 * n) && zeroAt b 8 56
    && rangeAllowed s job 0 i.descAddr i.descBytes
    && ((seqProgram b).mapIdx (fun k x => seqInstrOk (seqProgram b) k x && peersGiven s job (seqProgram b) k x)).all id

/-- The MC reads an item's descriptor at admission: one of the items it lays out, inside the field map. A kernel's parameter block is
its own. -/
def descRead (s : State) (job : Nat) (i : Item) : Bool := decide (2 ≤ i.kind) && rangeAllowed s job 0 i.descAddr i.descBytes

/-- The reason for which an item fails check 1; POISON_CONSUMED where its descriptor is poisoned (R244). -/
def itemCheck1 (s : State) (j : Job) (i : Item) : Option Nat :=
  let no := fun (ok : Bool) => if ok then none else some evFieldViolation
  if decide (j.partition ≠ 0) && decide (i.towers ≠ partitionMask j.partition) then some evFieldViolation
  else if i.kind = 0 then none
  else if descRead s j.id i && decide (viewPoison s i.descAddr i.descBytes ≠ []) then some evPoisonConsumed
  else if i.kind = 1 then no (kernelInMap s j.id i)
  else if i.kind = 2 then no (sweepInMap s j.id i)
  else if i.kind = 5 then no (collectiveInMap s j.id i)
  else copyInMap s j.id i

/-! ### Checks 2 and 3 -/

/-- The reason for which an item fails check 2. -/
def itemCheck2 (s : State) (job : Nat) (sh : Sheaf) (i : Item) : Option Nat :=
  if itemDeclared s job (pagesOfItem sh i) i then none
  else some (if i.kind = 3 ∨ i.kind = 4 ∨ i.kind = 6 then evCopyUndeclared else evFieldViolation)

/-- Which limit of Table 2.8 an item counts against, and that limit per tower. -/
def itemGroup (kind : Nat) : Nat × Nat :=
  if kind = 1 then (1, 16384) else if kind = 2 then (2, 32768) else if kind = 5 then (5, 4096) else if kind = 0 then (0, 65536) else (3, 32768)

/-- Items of a group in a tower, up to and with item k. COLLECTIVE items count together. -/
def groupCount (items : List Item) (k : Nat) (g : Nat) (t : Tower) : Nat :=
  (items.take (k + 1)).countP (fun i => decide ((itemGroup i.kind).1 = g) && (decide (g = 5) || bitOf i.towers (towerNum t)))

/-- An item breaks a limit of check 3. -/
def itemCheck3 (s : State) (job : Nat) (sh : Sheaf) (k : Nat) (i : Item) : Bool :=
  let g := itemGroup i.kind
  decide (65536 < i.psCount) || (towersOfMask i.towers).any (fun t => decide (g.2 < groupCount sh.items k g.1 t))
    || (decide (i.kind = 1) && (match itemKernel s job i with
      | some x => decide (crewsPerCore x (fieldAt i.args 2 1) = 0)
      | none => false))

/-! ### Check 4: the budget (R44, R385) -/

/-- Source bytes a copy item reads from HBM (R279). -/
def hbmSourceBytes (s : State) (d : CopyDesc) : Nat :=
  if inWindow d.src then 0
  else if d.op = 5 then (warmLines d).length * 256
  else if hasIndex d.op then
    (List.range (d.idx.ext.getD 0 0)).countP (fun k => decide (indexVal s d k ≠ 256 ^ indexBytes d - 1)) * ((sliceRows d).length * rowBytes d.src)
  else movesBytes (copyMoves d)

/-- The least class of an item (Table 2.5, R80). -/
def leastClass (s : State) (job : Nat) (i : Item) : Nat :=
  if i.kind = 0 then 0
  else if i.kind = 1 then ((itemKernel s job i).map (·.eclass)).getD 0
  else if i.kind = 2 ∨ i.kind = 5 then 1
  else if 1000000000 < hbmSourceBytes s (copyDescOf (viewBytes s i.descAddr i.descBytes)) then 1 else 0

/-- The class of an item is not allowed. -/
def classBad (s : State) (job : Nat) (i : Item) : Bool := decide (i.eclass < leastClass s job i) || decide (i.kind ≠ 1 ∧ 12 ≤ i.eclass)

/-- Longest path to the end of each item, in order. -/
def pathEnds : List Item → List Nat → List Nat
  | [], ends => ends
  | i :: is, ends =>
    let w := if i.kind = 0 ∨ i.kind = 6 then 0 else i.estNs
    pathEnds is (ends ++ [w + (i.preds.map (fun p => ends.getD p 0)).foldl max 0])

/-- crit of R44, ns. -/
def critNs (items : List Item) : Nat := (pathEnds items []).foldl max 0

/-- e[t] of R44, bushels. -/
def sheafEnergy (s : State) (t : Tower) (items : List Item) : Nat :=
  (items.map (fun i => if i.eclass = 0 ∨ i.kind = 6 ∨ !bitOf i.towers (towerNum t) then 0
    else ceilDiv (atPoint i.kind (fuseRate i.eclass) (s.gate.point.get t) * i.estNs) 1000)).foldl (· + ·) 0

/-- cap[t] of R44, bushels. -/
def sheafCap (s : State) (t : Tower) (c : TickCfg) : Nat := bondBudget s t * (runUs c / 10)

/-- A figure as its four-byte field holds it; one that does not fit is free (log 43). -/
def figure (s : State) (k v : Nat) : Nat := if v < 2 ^ 32 then v else Config.openField (s.freeCtr + k) % 2 ^ 32

/-- CRIT_US, BUSHELS_T0, BUSHELS_T1, CAP_T0, CAP_T1: a path of no whole µs is given as one of its neighbours (log 43). -/
def sheafFigures (s : State) (c : TickCfg) (items : List Item) : List Nat :=
  let crit := critNs items
  let us := crit / 1000 + (if crit % 1000 = 0 then 0 else Config.openField s.freeCtr % 2)
  [figure s 1 us, figure s 2 (sheafEnergy s .t0 items), figure s 3 (sheafEnergy s .t1 items), figure s 4 (sheafCap s .t0 c),
   figure s 5 (sheafCap s .t1 c)]

/-! ### The checks in order (R42) -/

/-- The first check that fails, as the result it gives; none where the sheaf is admitted, with the figures. -/
def runChecks (s : State) (j : Job) (c : TickCfg) (sh : Sheaf) : AdmRes × Bool :=
  let item := fun (f : Nat → Item → Option Nat) => (sh.items.mapIdx (fun k i => (f k i).map (fun r => (k, r)))).findSome? id
  let fail := fun (st : Nat) (x : Nat × Nat) => (AdmRes.early st x.2 x.1 noIndex, false)
  if !rangeAllowed s j.id 0 sh.addr sh.bytes then (AdmRes.early 1 evFieldViolation noIndex noIndex, false)
  else match sh.pagesets.findIdx? (fun e => !entryInMap s j.id e) with
    | some k => (AdmRes.early 1 evFieldViolation noIndex k, false)
    | none =>
      match item (fun _ i => itemCheck1 s j i) with
      | some x => fail 1 x
      | none =>
        match item (fun _ i => itemCheck2 s j.id sh i) with
        | some x => fail 2 x
        | none =>
          if decide (1048576 < sh.pagesets.length) || decide (j.seqCount < sh.seqActive) then (AdmRes.early 3 stNoSpace noIndex noIndex, false)
          else match item (fun k i => if itemCheck3 s j.id sh k i then some stNoSpace else none) with
            | some x => fail 3 x
            | none =>
              let figs := sheafFigures s c sh.items
              let excess := fun (k : Nat) => ({ AdmRes.early 4 evPowerCapped k noIndex with figures := figs }, false)
              match item (fun _ i => if classBad s j.id i then some evPowerCapped else none) with
              | some x => excess x.1
              | none =>
                if runUs c * 1000 < critNs sh.items || bothTowers.any (fun t => decide (sheafCap s t c < sheafEnergy s t sh.items)) then excess noIndex
                else ({ AdmRes.early 0 0 noIndex noIndex with figures := figs }, true)

/-! ### The end of an admission (R41, R45, R46) -/

/-- The sheaf is admitted: the job keeps it for its tick, with a record. -/
def admitSheaf (job : Nat) (sh : Sheaf) (s : State) : State :=
  let crit := critNs sh.items
  let est := sh.critEst * 1000
  let flag := decide (crit < (max est crit - min est crit) * 10)
  s.onJob job (fun j => addRec { TickRec.fresh sh.tick with state := 1, critFlag := flag, itemsTotal := sh.items.length }
    { j with next := some { sh with critUs := ceilDiv crit 1000 } })

/-- The job has left the state in which the submission was accepted, or its tick has begun. -/
def admissionLate (j : Job) (a : Admission) : Bool :=
  decide (j.state ≠ a.wasState ∨ j.epoch ≠ a.epoch) || (decide (j.state = .running) && decide (a.tick ≤ j.tick))

/-- The submission of a job that no longer exists. -/
def orphanSubmit (s : State) (job : Nat) : Option Cmd :=
  (s.host.taken.find? (fun e => decide (e.2.opcode = 0x0203 ∧ e.2.job = job) && e.2.started)).map (·.2)

/-- The MC fetches what a submission names, as far as it lies in the field map: the bytes and their poisoned sectors. -/
def sheafFetch (job addr n : Nat) (s : State) : State × List Byte × List Nat :=
  if rangeAllowed s job 0 addr n then fineRead 1 job addr n s else (s, viewBytes s addr n, [])

/-- The MC has read a poisoned part of a sheaf, of an item where one is named: the job faults and the sheaf is not kept (R244; DEDUCED,
log 66). -/
def sheafPoisoned (c : Cmd) (job item : Nat) (s : State) : State :=
  admComplete c stWrongState (AdmRes.early 0 0 noIndex noIndex) (jobFault job evPoisonConsumed (issueDetail evPoisonConsumed item) s)

/-- The checks of a sheaf whose format holds, after its descriptors have been fetched. -/
def admitChecked (c : Cmd) (j : Job) (sh : Sheaf) (late : Bool) (s0 : State) : State :=
  let s := (sh.items.filter (descRead s0 j.id)).foldl (fun st i => (fineRead 1 j.id i.descAddr i.descBytes st).1) s0
  let (r, ok) := runChecks s j (j.cfg.getD { periodUs := 20000, commitPm := 40, gleanPm := 20, stretchPm := 250, seed := 0, crc := 0 }) sh
  if r.reason = evPoisonConsumed then sheafPoisoned c j.id r.item s
  else if late then admComplete c stWrongState r s.draw
  else if ok then advanceItems (admComplete c stDone r (admitSheaf j.id sh s.draw))
  else admComplete c stBadField r s.draw

/-- ADMISSION_END, no later than 200 µs and 40 ns for each item and entry after the take. -/
def admissionEnd (job at_ : Nat) (s : State) : State :=
  match (jobAt s job).bind (fun j => j.admission.map (fun a => (j, a))) with
  | none => match orphanSubmit s job with
    | some c => admComplete c stWrongState (AdmRes.early 0 0 noIndex noIndex) (s.timeTo at_)
    | none => s
  | some (j, a) =>
    match startedCmd s a.mb 0x0203 with
    | none => s.onJob job (fun x => { x with admission := none })
    | some c =>
      let (s0, b, pz) := sheafFetch job a.addr (if a.bytes ≤ 2 ^ 26 then a.bytes else 64) s
      let s1 := (s0.timeTo (min at_ (a.takeNs + 200000 + 40 * (fieldAt b 0x14 4 + fieldAt b 0x1C 4)))).onJob job (fun x => { x with admission := none })
      let late := admissionLate j a
      if pz ≠ [] then sheafPoisoned c job noIndex s1
      else match sheafFormat (abi s) job (hdrBad c || parRes c 0xC 4) a b with
        | .inr (item, entry) => admComplete c (if late then stWrongState else stBadField) (AdmRes.early 0 stBadField item entry) s1
        | .inl sh => admitChecked c j sh late s1

def execAdmissionEnd (job at_ : Nat) (s : State) : Host.Outcome State Fault Refusal := .next (admissionEnd job at_ s)

end Sys2Proof.Machine
end

