-- ==== Sys2Proof/Machine/Ticks.lean ====
section
/-! DEFINITION. The tick: boundary, end of RUN, stretch, settle, COMMIT and GLEAN (02_ticks.md R30 to R56, 06_loft.md R206 to R208,
16_observe.md R454 to R457, R471, R472). -/

namespace Sys2Proof.Machine

/-! ### Dumps at a boundary (R471, R472) -/

/-- The MC fetches part of a sheaf's symbol table; a poisoned one faults the job (R244). -/
def symbolRead (job : Nat) (sh : Sheaf) (n : Nat) (s : State) : State × List Byte :=
  let (s1, b, pz) := fineRead 1 job (sh.addr + sh.symOff) n s
  if pz = [] then (s1, b) else (jobFault job evPoisonConsumed (issueDetail evPoisonConsumed noIndex) s1, List.replicate n 0#8)

/-- The symbol entry of a name in a sheaf's table: STEP and DESC. -/
def symbolOf (job : Nat) (sh : Sheaf) (name : List Byte) (s : State) : State × Option (Nat × Nat) :=
  if sh.symOff = 0 then (s, none)
  else
    let (s1, h) := symbolRead job sh 16 s
    if fieldAt h 0 4 ≠ 0x4D595353 then (s1, none)
    else
      let (s2, b) := symbolRead job sh sh.symBytes s1
      (s2, ((List.range (min (fieldAt b 4 4) ((sh.symBytes - 16) / 64))).map (fun k => sliceBytes b (16 + 64 * k) 64)).findSome? (fun e =>
        if e.take 40 = name then some (fieldAt e 0x28 4, fieldAt e 0x30 8) else none))

/-- The dumps armed for a tick are looked up; an absent name ends its dump with STATE 1. -/
def dumpsLookup (job tick : Nat) (s : State) : State :=
  (s.obs.dumps.filter (fun d => decide (d.job = job ∧ d.tick = tick))).foldl (fun st d =>
    match (match (jobAt st job).bind (·.sheaf) with
      | some sh => symbolOf job sh d.name st
      | none => (st, none)) with
    | (s1, some (step, desc)) => s1.onObs (fun o => { o with dumps := o.dumps.map (fun x =>
        if x.mb = d.mb then { x with item := some step, desc := desc } else x) })
    | (s1, none) => dumpEnd d (dumpResult 1 noIndex 0 0 0 0) s1) s

/-! ### The boundary (R30, R53, R59, R67) -/

/-- When the job's next boundary falls, where it is known. -/
def nextBoundaryNs (j : Job) : Option Nat :=
  if j.state = .armed then j.firstNs
  else match j.cfg with
    | some c => if j.state = .running ∧ (j.phase = .commit ∨ j.phase = .glean) then some (j.boundaryNs + (c.periodUs + delayOf c j.sUs) * 1000) else none
    | none => none

/-- The tick that begins at the next boundary. -/
def nextTick (j : Job) : Nat := if j.state = .armed then j.startTick else j.tick + 1

/-- The master sends TICK for a tick. -/
def sendTick (job tick timeNs dUs : Nat) (stop : Bool) (s : State) : State :=
  let (s1, q) := nextSeq s job
  beaconDown s1 job (newBeacon s1 2 job tick timeNs (dUs * 1000) 0 q 0 stop false)

/-- The counts of a tower's loft for a tick that begins: what was staged for it is known. -/
def loftBoundary (w : LoftT) : LoftT :=
  { w with
    lookups := 0, misses := 0, stalls := 0, stallBanks := [], hotPosted := false, stageBytes := w.stageNext, stageNext := 0
    stageUsed := 0, stageLate := 0, stageWaits := 0, stageWaitNs := 0, stageEarly := 0 }

/-- The read-only caches of a tower at a boundary: every L1R, and FINE but for the MC's lines, are invalidated (R91, R197). -/
def dropReadOnly (t : Tower) (s : State) : State :=
  (s.onLoft (fun x => { x with tw := x.tw.mod t (fun w => { w with fine := w.fine.filter (·.2.mc) }) })).onCores (fun x => { x with
    cores := x.cores.map (fun e => if towerOf (e.1 / 128) = t then (e.1, { e.2 with l1r := [] }) else e) })

/-- What a boundary does to the towers of a job: counts restart, read-only copies go, and a pending controller mode takes effect. -/
def towerBoundary (t : Tower) (s : State) : State :=
  hbmBoundary t (dropReadOnly t ((s.onLoft (fun x => { x with tw := x.tw.mod t loftBoundary })).onGate (fun g => { g with
    waitNs := g.waitNs.set t 0 })))

/-- STOPPED at the boundary that ends the last tick: the next sheaf is discarded, the record of the last tick stands. -/
def stopAfter (job : Nat) (s : State) : State :=
  let ts := ((jobAt s job).map (fun j => towersOfPartition j.partition)).getD []
  dumpsLost job (fun _ => true) ((dropUnits job (cancelStages job (ts.foldl (fun st t => towerBoundary t st) s))).onJob job (fun j =>
    { discardNext j with state := .stopped, phase := .idle, epoch := j.epoch + 1, holds := [], stopAt := none,
                         repeats := j.repeats.filter (fun r => decide (r.beacon.type = 6)) }))

/-- The job's part of a boundary: tick n begins with its sheaf, or empty. -/
def beginTick (n atNs : Nat) (j : Job) : Job :=
  let sh := j.next.bind (fun x => if x.tick = n then some x else none)
  let old := (j.records.find? (fun r => decide (r.tick = n))).getD (TickRec.fresh n)
  addRec { old with state := if sh.isSome then 2 else 6, boundaryNs := atNs }
    { j with
      state := .running, tick := n, boundaryNs := atNs, phase := .run, sUs := 0, sentHold := false, overrunPosted := false, holds := []
      sheaf := sh, next := none
      runEndNs := atNs + ((j.cfg.map runUs).getD 0) * 1000 }

/-- A tick begins. -/
def startTick (job n atNs : Nat) (s : State) : State :=
  let s1 := s.onJob job (beginTick n atNs)
  match jobAt s1 job with
  | none => s1
  | some j =>
    let s2 := traceBeacon j 0 0 (if isMaster s1 job then sendTick job n atNs j.lastDUs false s1 else s1)
    let s3 := (towersOfPartition j.partition).foldl (fun st t => towerBoundary t st) s2
    advanceItems (dumpsLookup job n (s3.onObs (fun o => { o with
      stageArmed := (towersOfPartition j.partition).foldl (fun p t => p.set t false) o.stageArmed })))

/-! ### GLEAN (R54, R454 to R457) -/

/-- The power state lets winnow slices run. -/
def winnowPowered (s : State) : Bool := decide (s.gate.pwr ≠ .rest ∧ s.gate.pwr ≠ .dark)

/-- Slice kinds that are enabled, from 1; a forced unit is tested whatever ENABLE says. -/
def sliceKinds (s : State) (t : Tower) : List Nat :=
  let w := s.obs.winnow.get t
  (List.range 4).filterMap (fun k =>
    if bitOf s.obs.winnowEnable k || (decide (k = 0) && w.forcedLoft.isSome) || (decide (k = 1) && w.forcedPress.isSome) then some (k + 1) else none)

/-- The loft unit of a cursor: die (0 A, 1 B) and bank; 1,024 slices make a pass. -/
def loftUnit (n : Nat) : Nat × Nat := (n % 2, n / 2 % 512)

/-- The first loft unit from a cursor whose column is in service. -/
def loftCursorFrom (s : State) (t : Tower) (n : Nat) : Nat :=
  ((List.range 1024).map (fun i => (n + i) % 1024)).find? (fun k => !(s.loft.tw.get t).retired.contains (loftUnit k).2) |>.getD n

/-- The loft unit a slice tests now: a forced one, or the cursor's. -/
def loftSliceUnit (s : State) (t : Tower) : Nat × Nat :=
  let w := s.obs.winnow.get t
  match w.forcedLoft with
  | some u => (u / 512 % 2, u % 512)
  | none => loftUnit (loftCursorFrom s t w.loftCursor)

/-- Values collected over enough data are applied; the rest is kept (Table 16.1). -/
def gleanValues (t : Tower) (s : State) : State :=
  let hbm := decide (4096 ≤ s.obs.gleanHbm.get t)
  let gate := decide (10000 ≤ s.obs.gleanRunUs.get t)
  switchTower t (s.onObs (fun o => { o with
    gleanHbm := if hbm then o.gleanHbm.set t 0 else o.gleanHbm
    gleanRunUs := if gate then o.gleanRunUs.set t 0 else o.gleanRunUs
    gleaned := o.gleaned.mod t (fun n => n + (if hbm then 1 else 0) + (if gate then 1 else 0)) }))

/-- The slices of a GLEAN start; the bank a loft slice tests is redirected to the spare bank (R458). -/
def startSlices (t : Tower) (s : State) : State :=
  if !winnowPowered s then s
  else
    let ks := sliceKinds s t
    let u := loftSliceUnit s t
    (s.onObs (fun o => { o with winnow := o.winnow.mod t (fun w => { w with kinds := ks, active := if ks.contains 1 then [u.1 * 512 + u.2] else [] }) })).onLoft
      (fun x => { x with tw := x.tw.mod t (fun w => { w with redirect := if ks.contains 1 then some u else none }) })

/-- A GLEAN window of a tower. -/
def gleanTower (t : Tower) (s : State) : State := startSlices t (gleanValues t s)

/-- A GLEAN that a stretch consumed: its slices are skipped. -/
def skipTower (t : Tower) (s : State) : State :=
  s.onObs (fun o => { o with winnow := o.winnow.mod t (fun w => { w with skipped := (w.skipped + (sliceKinds s t).length) % 2 ^ 32 }) })

/-! ### COMMIT_END (R32, R54, R340) -/

/-- COMMIT_END: the tick commits locally where no twin does, and GLEAN begins if it has at least 100 µs left. -/
def commitEnd (job : Nat) (s : State) : State :=
  match jobAt s job with
  | none => s
  | some j =>
    match j.cfg with
    | none => s
    | some c =>
      if j.state ≠ .running ∨ j.phase ≠ .commit then s
      else
        let s1 := commitLocal job (s.timeTo (j.runEndNs + commitLeft c j.sUs * 1000))
        (towersOfPartition j.partition).foldl (fun st t => if 100 ≤ gleanLeft c j.sUs then gleanTower t st else skipTower t st)
          (s1.onJob job (fun x => { x with phase := .glean }))

def execCommitEnd (job : Nat) (s : State) : Host.Outcome State Fault Refusal := .next (commitEnd job s)

/-- TICK_BOUNDARY: the master stops after the last tick, a counter that would pass 48 bits faults, else the next tick begins. -/
def tickBoundary (job : Nat) (s0 : State) : State :=
  let s := commitEnd job s0
  match jobAt s job with
  | none => s
  | some j =>
    match nextBoundaryNs j with
    | none => s
    | some t =>
      let s1 := s.timeTo t
      let n := nextTick j
      let excess : Bool := match j.stopAt with
        | some l => decide (l < n) && isMaster s job && decide (j.state = .running)
        | none => false
      if excess then advanceItems (stopAfter job (sendTick job n t j.lastDUs true s1))
      else if n = 2 ^ 48 then advanceItems (tickFault job evTickFault 5 s1)
      else startTick job n t s1

def execTickBoundary (job : Nat) (s : State) : Host.Outcome State Fault Refusal := .next (tickBoundary job s)

/-! ### The end of RUN (R33, R49, R50, R55, R103) -/

/-- Time an unfinished item still needs, ns. -/
def itemLeft (now : Nat) (i : Item) : Nat := match i.st with
  | .running => if i.kind = 0 then 0 else max 10000 (i.estNs - (now - i.startNs))
  | .waiting => if i.kind = 0 then 0 else i.estNs
  | .eligible => if i.kind = 0 then 0 else i.estNs
  | .queued => i.estNs
  | .notice => i.estNs
  | .written => 10000
  | .done => 0
  | .faulted => 0
  | .stopped => 0

/-- Longest remaining path to the end of each item, in order. -/
def pathsLeft (now : Nat) : List Item → List Nat → List Nat
  | [], ends => ends
  | i :: is, ends => pathsLeft now is (ends ++ [itemLeft now i + (i.preds.map (fun p => ends.getD p 0)).foldl max 0])

/-- The remaining time HOLD carries (R49). -/
def remainingNs (now : Nat) (sh : Option Sheaf) : Nat :=
  min 0xFFFFFFFF ((pathsLeft now ((sh.map (·.items)).getD []) []).foldl max 0)

/-- The first gang of a job that a barrier blocks, in ascending core, crew slot and gang: the fragment and the barrier. -/
def blockedGang (s : State) (job : Nat) : Option (Act × Nat) :=
  s.cores.cores.findSome? (fun c => c.2.gangs.findSome? (fun g => if g.2.job ≠ job then none else g.2.frags.findSome? (fun f =>
    let a := fun (b : Nat) => (actAt s { core := c.1, slot := g.1 / 32, gang := g.1 % 32, frag := f.1 }).map (fun x => (x, b))
    match f.2.wait with
    | .barrier b _ => a b
    | .rearrive b _ true => a b
    | _ => none)))

/-- The allowance is spent with items unfinished: BARRIER_STALL where a gang is blocked, else TICK_FAULT cause 1. -/
def allowanceSpent (job : Nat) (s : State) : State :=
  match blockedGang s job with
  | some (a, b) => faultStop job evBarrierStall a.crew.item (coreDetail a evBarrierStall a.frag.mask 0 b) s
  | none => tickFault job evTickFault 1 s

/-- RUN_END. -/
def runEnd (job : Nat) (s : State) : State :=
  match jobAt s job with
  | none => s
  | some j =>
    match j.cfg with
    | none => s
    | some c =>
      if j.state ≠ .running ∨ j.phase ≠ .run then s
      else
        let s1 := s.timeTo j.runEndNs
        let left := allowance c - j.sUs
        if unfinished j.sheaf && decide (left = 0) then advanceItems (allowanceSpent job s1)
        else
          let s2 := s1.onJob job (fun x => { x with phase := .settle })
          if unfinished j.sheaf then
            let rem := remainingNs s2.nowNs j.sheaf
            let s3 := s2.onJob job (fun x => { x with sentHold := true })
            if isMaster s job then s3.onJob job (fun x => { x with holds := x.holds ++ [rem] })
            else beaconUp s3 job (newBeacon s3 3 job j.tick s3.nowNs rem 0 (j.lastSeq.getD 0) 0 false false)
          else s2

def execRunEnd (job : Nat) (s : State) : Host.Outcome State Fault Refusal := .next (runEnd job s)

/-- The move of the end of RUN for a largest remaining time, within what is left of the allowance, µs (R50). -/
def stretchMove (left remNs : Nat) : Nat := min left (max (roundUp remNs 10000 / 1000) 100)

/-- The end of RUN moves to a later time; the tick has stretched by `su` in all. -/
def applyStretch (job su endNs : Nat) (s : State) : State :=
  advanceItems (s.onJob job (fun x => { x with sUs := su, runEndNs := endNs, phase := .run }))

/-- STRETCH_DECISION. -/
def stretchDecision (job : Nat) (s : State) : State :=
  match jobAt s job with
  | none => s
  | some j =>
    match j.cfg with
    | none => s
    | some c =>
      let left := allowance c - j.sUs
      if j.state ≠ .running ∨ j.phase ≠ .settle ∨ !isMaster s job then s
      else
        let s1 := (s.timeTo (j.runEndNs + j.settleUs * 500)).onJob job (fun x => { x with holds := [] })
        if j.holds = [] ∨ left = 0 then s1
        else
          let move := stretchMove left (j.holds.foldl max 0)
          let (s2, q) := nextSeq s1 job
          let e := j.runEndNs + move * 1000
          applyStretch job (j.sUs + move) e
            (sendSet s2 job (newBeacon s2 4 job j.tick e ((j.sUs + move) * 1000) 0 q 0 false false) 1 2000)

def execStretchDecision (job : Nat) (s : State) : Host.Outcome State Fault Refusal := .next (stretchDecision job s)

/-! ### SETTLE_END: the tick's RUN is over (R49, R55, R206 to R208) -/

/-- Set a counter of an enabled group. -/
def ctrSet (group pos n : Nat) (s : State) : State :=
  if s.obs.ctrEnable.getLsbD (group - 1) then
    s.onObs (fun o => { o with ctrs := tabPut o.ctrs (group * 65536 + pos) (BitVec.ofNat 64 n) })
  else s

/-- BULK slots in use in a tower. -/
def bulkSlots (s : State) (t : Tower) : Nat :=
  ((s.loft.bulk.filter (fun e => decide (e.2.tower = t))).map (fun e => encSlots e.2.enc)).foldl (· + ·) 0

/-- The ten counters of Table 6.13 report the tick that closes. -/
def closeStaging (t : Tower) (s : State) : State :=
  let w := s.loft.tw.get t
  if s.obs.stageArmed.get t then s
  else
    ([w.stageBytes, w.stageUsed, w.stageBytes - w.stageUsed, w.stageLate, w.stageWaits, w.stageWaitNs, w.stageEarly, w.lookups, w.misses,
      bulkSlots s t].mapIdx (fun k v => (k, v))).foldl (fun st p => ctrSet 3 (towerNum t * 10 + p.1) p.2 st) s

/-- The thrash monitor judges the tick, unless THRASH_PCT turns it off (R185); granules staged for it are forgotten. -/
def closeLoft (pct tick : Nat) (w : LoftT) : LoftT :=
  let excess := decide (pct ≠ 0 ∧ 65536 ≤ w.lookups ∧ pct * w.lookups < 100 * w.misses)
  { w with
    lastLookups := w.lookups, lastMisses := w.misses
    overTicks := if excess then w.overTicks + 1 else 0
    thrashPosted := excess && w.thrashPosted
    granules := w.granules.filter (fun g => decide (tick < g.2.2)) }

/-- What the close of RUN does to the towers of a job. -/
def closeTower (c : TickCfg) (su tick : Nat) (t : Tower) (s : State) : State :=
  ((closeStaging t s).onLoft (fun x => { x with tw := x.tw.mod t (closeLoft x.thrashPct tick) })).onObs (fun o => { o with
    gleanRunUs := o.gleanRunUs.mod t (· + runUs c + su) })

/-- Items that the end of RUN finds unfinished go on only under a stretch (R33): what works on the tick's sheaf stops, STAGE items of
the next go on (DEDUCED, log 67). -/
def endRun (job tick : Nat) (s : State) : State :=
  (dropWork job (fun n => decide (n = tick)) (traceRunning job 0 (closeWaits job tick s))).onJob job (fun j => { j with
    sheaf := j.sheaf.map (endItems .stopped) })

/-- SETTLE_END: no STRETCH has come; the tick's record is finished and COMMIT begins. -/
def settleEnd (job : Nat) (s : State) : State :=
  match jobAt s job with
  | none => s
  | some j =>
    match j.cfg with
    | none => s
    | some c =>
      if j.state ≠ .running ∨ j.phase ≠ .settle then s
      else
        let s1 := postOverrun job (s.timeTo (j.runEndNs + j.settleUs * 1000))
        let s2 := (if unfinished j.sheaf then endRun job j.tick s1 else s1).onJob job (fun x => onRec x.tick (fun r => { r with
          state := if r.state = 6 then 6 else 3, itemsDone := (x.sheaf.map itemsDone).getD 0, sUs := x.sUs, dUs := delayOf c x.sUs })
          { x with phase := .commit, lastDUs := delayOf c x.sUs })
        let s3 := (towersOfPartition j.partition).foldl (fun st t => closeTower c j.sUs j.tick t st) s2
        let s4 := commitWork job (dumpsLost job (fun d => decide (d.tick = j.tick) && d.startNs.isNone) s3)
        if unfinished j.sheaf then advanceItems s4 else s4

def execSettleEnd (job : Nat) (s : State) : Host.Outcome State Fault Refusal := .next (settleEnd job s)

/-! ### GLEAN without a job (R456) -/

/-- A tower that no armed or running job has. -/
def towerIdle (s : State) (t : Tower) : Bool := match jobOfTower s t with
  | some j => decide (j.state ≠ .armed ∧ j.state ≠ .running)
  | none => true

/-- IDLE_GLEAN_WINDOW: every 20 ms of the time base, from S10. -/
def idleGleanWindow (t : Tower) (s : State) : State :=
  if s.boot.stage ≠ 10 ∨ !towerIdle s t then s
  else
    let due := max s.nowNs (s.jobs.idleGlean.get t)
    gleanTower t ((s.timeTo due).onJobs (fun x => { x with idleGlean := x.idleGlean.set t (due + 20000000) }))

def execIdleGleanWindow (t : Tower) (s : State) : Host.Outcome State Fault Refusal := .next (idleGleanWindow t s)

/-! ### WINNOW_SLICE_END (R457 to R461) -/

/-- Detail of WINNOW_FAIL (Table 16.4). -/
def winnowDetail (w : WinnowFail) : List Byte :=
  leBytes evWinnowFail 2 ++ leBytes w.tower 1 ++ leBytes w.kind 1 ++ leBytes w.unit 2 ++ leBytes w.detail 2 ++ leBytes w.tick 8

/-- A failure is posted and logged; the log keeps the newest 64. -/
def winnowFail (t : Tower) (kind unit detail : Nat) (s : State) : State :=
  let w : WinnowFail := { tower := towerNum t, kind := kind, unit := unit, detail := min detail 0xFFFF, tick := tickOf s t }
  postNotice evWinnowFail 0 (winnowDetail w) (s.onObs (fun o => { o with
    winnowLog := (w :: o.winnowLog).take 64
    winnow := o.winnow.mod t (fun x => { x with fails := (x.fails + 1) % 2 ^ 32 }) }))

/-- The slice of a kind has ended. -/
def sliceOver (t : Tower) (kind : Nat) (f : WinnowT → WinnowT) (s : State) : State :=
  s.onObs (fun o => { o with winnow := o.winnow.mod t (fun w => f { w with kinds := w.kinds.filter (· ≠ kind), run := (w.run + 1) % 2 ^ 32 }) })

/-- TEST.WINNOW results: ENABLE, then each tower's cursors and tallies (R461). -/
def winnowResult (s : State) : List Byte :=
  leBytes s.obs.winnowEnable 1 ++ leBytes 0 15 ++ bothTowers.flatMap (fun t =>
    let w := s.obs.winnow.get t
    let u := loftUnit w.loftCursor
    leBytes (u.1 * 512 + u.2) 2 ++ leBytes w.pressCursor 2 ++ leBytes w.run 4 ++ leBytes w.skipped 4 ++ leBytes w.fails 4)

/-- A forced slice has ended; with none left the command that forced it completes. -/
def forcedOver (t : Tower) (s : State) : State :=
  let w := s.obs.winnow.get t
  match w.forceMb with
  | none => s
  | some mb =>
    if w.forcedLoft.isSome ∨ w.forcedPress.isSome then s
    else
      let s1 := s.onObs (fun o => { o with winnow := o.winnow.mod t (fun x => { x with forceMb := none }) })
      match startedCmd s1 mb 0x0905 with
      | some c => complete c stDone (winnowResult s1) s1
      | none => s1

/-- A loft slice ends: the bank comes back, lines with failing cells take line entries. -/
def loftSliceEnd (t : Tower) (cells : Nat) (lines : List Nat) (s : State) : State :=
  let w := s.obs.winnow.get t
  let (die, bank) := loftSliceUnit s t
  let s1 := (sliceOver t 1 (fun x => { x with
      active := [], forcedLoft := none
      loftCursor := if w.forcedLoft.isSome then x.loftCursor else (loftCursorFrom s t x.loftCursor + 1) % 1024 }) s).onLoft (fun x => { x with
    tw := x.tw.mod t (fun y => { y with redirect := none }) })
  let s2 := lines.foldl (fun st l => loftLineRepair (towerNum t * 2 + die) bank l 3 st) s1
  forcedOver t (if cells = 0 then s2 else winnowFail t 1 (die * 512 + bank) cells s2)

/-- A press slice ends. -/
def pressSliceEnd (t : Tower) (ok : Bool) (s : State) : State :=
  let w := s.obs.winnow.get t
  let unit := w.forcedPress.getD w.pressCursor
  let s1 := sliceOver t 2 (fun x => { x with
    forcedPress := none, pressCursor := if w.forcedPress.isSome then x.pressCursor else (x.pressCursor + 1) % 512 }) s
  forcedOver t (if ok then s1 else winnowFail t 2 unit 0 s1)

/-- Wires whose margin gleaning measured below the limit are persistently failing, with or without spare slices; a group with no free
spare is not measured (R246, R454). -/
def marginsLow (wires : List (GroupRef × Nat)) (s : State) : State :=
  wires.foldl (fun st f => if freeSpares (groupAt st f.1) = [] then st else markWire f.1 f.2 st) s

/-- A spare slice ends: spares that failed loopback are never assigned. -/
def spareSliceEnd (t : Tower) (failed : List (GroupRef × Nat)) (s : State) : State :=
  let s1 := sliceOver t 3 (fun x => { x with spareCursor := (x.spareCursor + 1) % 16 }) s
  failed.foldl (fun st f =>
    winnowFail t 3 (f.1.iface * 4096 + f.1.group) (f.2 % 2) (setGroup f.1 (let b := groupAt st f.1
      { b with unusable := if b.unusable.contains (72 + f.2 % 2) then b.unusable else b.unusable ++ [72 + f.2 % 2] }) st)) s1

/-- A reference slice ends: sensors out of tolerance report open. -/
def refSliceEnd (t : Tower) (sensors : List (Nat × Nat)) (regs : List Nat) (s : State) : State :=
  let s1 := sliceOver t 4 id s
  let s2 := sensors.foldl (fun st p => winnowFail t 4 (p.1 * 256 + p.2) 0 (st.onTherm (fun x => { x with
    sensors := tabPut x.sensors (p.1 * 16 + p.2) { (tabGetD x.sensors (p.1 * 16 + p.2) Sensor.fresh) with openRef := true } }))) s1
  regs.foldl (fun st r => winnowFail t 5 r 0 st) s2

/-- WINNOW_SLICE_END: a slice that runs ends with a result; with the spares' come the margins gleaning has measured. -/
def winnowSliceEnd (t : Tower) (r : SliceResult) (s : State) : State :=
  let has := fun (k : Nat) => (s.obs.winnow.get t).kinds.contains k
  match r with
  | .loft cells lines => if has 1 then loftSliceEnd t cells lines s else s
  | .press ok => if has 2 then pressSliceEnd t ok s else s
  | .spares failed wires => marginsLow wires (if has 3 then spareSliceEnd t failed s else s)
  | .references sensors regs => if has 4 then refSliceEnd t sensors regs s else s

def execWinnowSliceEnd (t : Tower) (r : SliceResult) (s : State) : Host.Outcome State Fault Refusal := .next (winnowSliceEnd t r s)

end Sys2Proof.Machine
end

