-- ==== Sys2Proof/Machine/Beacons.lean ====
section
/-! DEFINITION. Beacons: receipt, forwarding, what a device does on each type, copies, misses, and the step of the time base
(02_ticks.md R57 to R61; 10_fabric.md R314). -/

namespace Sys2Proof.Machine

/-! ### The step of the time base (R60) -/

/-- A time that is still to come, or that a running interval is measured from, on the stepped time base. -/
def shiftNs (d : Int) (t : Nat) : Nat := ((t : Int) + d).toNat
def shiftOpt (d : Int) (t : Option Nat) : Option Nat := t.map (shiftNs d)

/-- Times of a sheaf's items. -/
def shiftSheaf (d : Int) (sh : Sheaf) : Sheaf :=
  { sh with items := sh.items.map (fun i => { i with startNs := shiftNs d i.startNs, stageSince := shiftOpt d i.stageSince }) }

/-- Times of a job. Records of ticks keep what they say. -/
def shiftJob (d : Int) (j : Job) : Job :=
  { j with
    boundaryNs := shiftNs d j.boundaryNs, firstNs := shiftOpt d j.firstNs, runEndNs := shiftNs d j.runEndNs
    repeats := j.repeats.map (fun r => { r with nextNs := shiftNs d r.nextNs })
    sheaf := j.sheaf.map (shiftSheaf d), next := j.next.map (shiftSheaf d)
    admission := j.admission.map (fun a => { a with handoffNs := shiftNs d a.handoffNs, takeNs := shiftNs d a.takeNs }) }

/-- Times of a port and of a context. -/
def shiftPort (d : Int) (p : Port) : Port :=
  { p with upNs := shiftNs d p.upNs, attemptNs := shiftNs d p.attemptNs, discoverNs := shiftNs d p.discoverNs
           delayT1 := shiftOpt d p.delayT1, egressNs := shiftNs d p.egressNs, capSent := p.capSent.map (fun c => (shiftNs d c.1, c.2)) }
def shiftCtx (d : Int) (c : Ctx) : Ctx :=
  { c with
    unacked := c.unacked.map (fun u => { u with sentNs := shiftNs d u.sentNs }), timerNs := shiftNs d c.timerNs
    ackDueNs := shiftOpt d c.ackDueNs, nackNs := shiftOpt d c.nackNs, cnpNs := shiftOpt d c.cnpNs, cutNs := shiftOpt d c.cutNs
    recoverNs := shiftNs d c.recoverNs, waitNs := shiftNs d c.waitNs, waitResendNs := shiftNs d c.waitResendNs, sendNs := shiftNs d c.sendNs }

/-- Times of a twin binding. -/
def shiftTwin (d : Int) (w : Twin) : Twin :=
  { w with bindStartNs := shiftNs d w.bindStartNs, settleEndNs := shiftNs d w.settleEndNs
           restore := w.restore.map (fun r => { r with startNs := shiftNs d r.startNs }) }

/-- Times of the gate. -/
def shiftGate (d : Int) (g : GateSt) : GateSt :=
  let q := fun (rs : List GateReq) => rs.map (fun r => { r with askNs := shiftNs d r.askNs })
  { g with
    queue := ⟨q g.queue.t0, q g.queue.t1⟩, grants := g.grants.map (fun x => { x with startNs := shiftNs d x.startNs })
    releases := g.releases.map (fun x => { x with atNs := shiftNs d x.atNs }), cappedNs := g.cappedNs.map (fun e => (e.1, shiftNs d e.2))
    lastWaitNs := shiftOpt d g.lastWaitNs, windowNs := shiftNs d g.windowNs
    change := g.change.map (fun c => { c with startNs := shiftNs d c.startNs }) }

/-- Times of the thermal monitor. -/
def shiftTherm (d : Int) (x : ThermSt) : ThermSt :=
  { x with
    sensors := x.sensors.map (fun e => (e.1, { e.2 with heldNs := shiftNs d e.2.heldNs }))
    atFiveNs := ⟨shiftOpt d x.atFiveNs.t0, shiftOpt d x.atFiveNs.t1⟩, pointNs := ⟨shiftNs d x.pointNs.t0, shiftNs d x.pointNs.t1⟩
    caps := x.caps.map (fun e => (e.1, (e.2.1, shiftNs d e.2.2))), dropMv := x.dropMv.map (fun e => (e.1, (e.2.1, shiftNs d e.2.2))) }

/-- Times the host attachment measures from. -/
def shiftHost (d : Int) (h : HostSt) : HostSt :=
  { h with
    handed := h.handed.map (fun x => { x with atNs := shiftNs d x.atNs })
    taken := h.taken.map (fun e => (e.1, { e.2 with handoffNs := shiftNs d e.2.handoffNs, takeNs := shiftNs d e.2.takeNs }))
    heartbeatNs := shiftNs d h.heartbeatNs, vec64Ns := shiftOpt d h.vec64Ns }

/-- Times of the HBM channels and of the sightings of errors. -/
def shiftHbm (d : Int) (h : HbmSt) : HbmSt :=
  let q := fun (rs : List HbmReq) => rs.map (fun r => { r with enterNs := shiftNs d r.enterNs })
  { h with
    chans := h.chans.map (fun e => (e.1, { e.2 with input := q e.2.input, queue := q e.2.queue, side := q e.2.side }))
    pinTally := h.pinTally.map (fun e => (e.1, (e.2.1.map (shiftNs d), e.2.2)))
    sightings := h.sightings.map (fun e => (e.1, e.2.map (fun x => (x.1, shiftNs d x.2.1, x.2.2)))) }

/-- The time base steps by `d` at once. What is under way keeps its place in time: its times step with it. -/
def stepTime (d : Int) (s : State) : State :=
  { s with
    nowNs := shiftNs d s.nowNs
    jobs := { s.jobs with
      jobs := s.jobs.jobs.map (fun e => (e.1, shiftJob d e.2)), idleGlean := ⟨shiftNs d s.jobs.idleGlean.t0, shiftNs d s.jobs.idleGlean.t1⟩ }
    fab := { s.fab with
      ports := s.fab.ports.map (fun e => (e.1, shiftPort d e.2)), ctxs := s.fab.ctxs.map (fun e => (e.1, shiftCtx d e.2))
      cmisNs := s.fab.cmisNs.map (fun e => (e.1, shiftNs d e.2)) }
    twin := ⟨shiftTwin d s.twin.t0, shiftTwin d s.twin.t1⟩
    gate := shiftGate d s.gate, therm := shiftTherm d s.therm, host := shiftHost d s.host, hbm := shiftHbm d s.hbm
    loft := { s.loft with sightings := s.loft.sightings.map (fun e => (e.1, e.2.map (fun x => (x.1, shiftNs d x.2.1, x.2.2)))) }
    boot := { s.boot with
      part := s.boot.part.map (fun p => { p with startNs := shiftNs d p.startNs })
      coreReset := s.boot.coreReset.map (fun c => (c.1, c.2.1, shiftNs d c.2.2)) }
    trust := { s.trust with writing := s.trust.writing.map (fun w => { w with startNs := shiftNs d w.startNs }) }
    obs := { s.obs with dumps := s.obs.dumps.map (fun x => { x with startNs := shiftOpt d x.startNs }) } }

/-! ### Receipt (R58, R59, R314) -/

/-- A type that travels from the master down the tree. -/
def downType (t : Nat) : Bool := decide (t = 1 ∨ t = 2 ∨ t = 4 ∨ t = 6)

/-- The beacon is dropped: CRC, type, role, port or hops. -/
def beaconBad (s : State) (port : Nat) (b : Beacon) : Bool :=
  decide (b.crc ≠ beaconCrc b) || decide (b.type = 0 ∨ 6 < b.type ∨ 16 ≤ b.hops) || (match roleOf s b.jobId with
    | none => true
    | some r => if downType b.type then decide (r.role = .master ∨ port ≠ r.upPort) else !bitOf r.downMask port)

/-- CORRECTION_NS with the delay of the arrival port. -/
def corrected (s : State) (port : Nat) (b : Beacon) : Beacon :=
  { b with correctionNs := (b.correctionNs + ((tabGet s.fab.ports port).map (·.delayNs)).getD 0) % 2 ^ 32 }

/-- Send a beacon on: down, or up toward the master; the device's own residence time is added. -/
def forwardBeacon (b : Beacon) (s : State) : State :=
  let f := { b with hops := b.hops + 1, correctionNs := (b.correctionNs + Config.residenceNs s.freeCtr) % 2 ^ 32 }
  if downType b.type then beaconDown s.draw b.jobId f else beaconUp s.draw b.jobId f

/-- A device has a part in a job: a master or follower role, and the job. -/
def hasPart (s : State) (job : Nat) : Bool := match roleOf s job with
  | some r => decide (r.role ≠ .relay) && (jobAt s job).isSome
  | none => false

/-- A beacon of a type arrives at a port: dropped and counted, or traced, forwarded, and acted on once for each SEQNO. -/
def beaconIn (type port : Nat) (b : Beacon) (at_ : Nat) (act : Beacon → State → State) (s0 : State) : State :=
  let s := s0.timeTo at_
  if b.type ≠ type ∨ !portUp s port then s
  else if beaconBad s port b then ctrFab port 10 1 s
  else
    let x := corrected s port b
    let s1 := traceJobBeacon b.jobId b.type b.arg0 s
    let s2 := if downType type || !isMaster s b.jobId then forwardBeacon x s1 else s1
    if !hasPart s b.jobId then s2
    else if downType type then
      let s3 := s2.onJob b.jobId (fun j => { j with lastSeq := some b.seqno, actedSeq := some b.seqno })
      if ((jobAt s b.jobId).bind (·.actedSeq)) = some b.seqno then s3 else advanceItems (act x s3)
    else if isMaster s b.jobId then advanceItems (act x s2) else s2

/-! ### What each type does -/

/-- START on a follower: a differing configuration faults; else the time base steps and the first boundary is placed (R34, R60). A START
of another tick than the one the follower was armed for is ignored (DESIGN CHOICE, log 64). -/
def onStart (b : Beacon) (s : State) : State :=
  match jobAt s b.jobId with
  | none => s
  | some j =>
    if j.state ≠ .armed ∨ b.tick ≠ j.startTick ∨ j.firstNs.isSome then s
    else if some b.arg0 ≠ j.cfg.map (·.crc) then tickFault b.jobId evTickFault 4 s
    else
      let theta : Int := (s.nowNs : Int) - b.correctionNs - ((b.timeNs : Int) - b.leadNs)
      (stepTime (-theta) s).onJob b.jobId (fun x => { x with
        firstNs := some b.timeNs, boundaryNs := b.timeNs, settleUs := b.arg1, pathNs := b.correctionNs })

def execStartBeacon (port : Nat) (b : Beacon) (at_ : Nat) (s : State) : Host.Outcome State Fault Refusal := .next (beaconIn 1 port b at_ onStart s)

/-- The slew a measured offset calls for: at most 100 ns toward zero. -/
def slewOf (off : Int) : Int := max (-100) (min 100 off)

/-- D a follower has applied to the boundary of a tick: the one it now runs, or the next. -/
def appliedDUs (j : Job) (tick : Nat) : Nat :=
  if j.state = .running ∧ tick = j.tick + 1 then (j.cfg.map (fun c => delayOf c j.sUs)).getD 0 else j.lastDUs

/-- BEACON_MISS: a follower's tick has had no TICK 20 µs after its boundary plus the path delay; the second in a row faults. -/
def beaconMiss (job : Nat) (s : State) : State :=
  match jobAt s job with
  | none => s
  | some j =>
    if j.state ≠ .running ∨ j.tickSeen = some j.tick ∨ (startRole s job).isNone ∨ isMaster s job then s
    else
      let s1 := (s.timeTo (j.boundaryNs + 20000 + j.pathNs)).onJob job (fun x => { x with misses := x.misses + 1, tickSeen := some x.tick })
      if 1 ≤ j.misses then advanceItems (tickFault job evBeaconLost 1 s1) else s1

/-- A TICK comes more than 20 µs after its boundary plus the path delay. -/
def tickLate (s : State) (b : Beacon) : Bool := match jobAt s b.jobId with
  | some j => decide (j.state = .running ∧ b.tick = j.tick ∧ j.boundaryNs + 20000 + j.pathNs < s.nowNs)
  | none => false

/-- TICK on a follower (R60, R61, R66, R67). A late one has been missed, and leaves the count of misses. -/
def onTick (b : Beacon) (s0 : State) : State :=
  let s := if tickLate s0 b then beaconMiss b.jobId s0 else s0
  match jobAt s b.jobId with
  | none => s
  | some j =>
    if j.state = .armed ∧ j.firstNs.isNone then
      if b.tick = j.startTick then tickFault b.jobId evBeaconLost 2 s else s
    else if j.state ≠ .armed ∧ j.state ≠ .running then s
    else
      let off : Int := (s.nowNs : Int) - b.correctionNs - b.timeNs
      let s1 := { s with nowNs := shiftNs (-(slewOf off)) s.nowNs }
      let s2 := s1.onJob b.jobId (fun x => { x with misses := if x.tickSeen = some b.tick then x.misses else 0, tickSeen := some b.tick })
      if b.arg0 ≠ appliedDUs j b.tick * 1000 then tickFault b.jobId evTickFault 3 s2
      else if !b.stop then s2
      else if j.state = .running ∧ b.tick = j.tick then stopClean b.jobId .stopped s2
      else stopAfter b.jobId s2

def execTickBeacon (port : Nat) (b : Beacon) (at_ : Nat) (s : State) : Host.Outcome State Fault Refusal := .next (beaconIn 2 port b at_ onTick s)

/-- HOLD at the master: the remaining time of its tick is collected from the end of RUN, as far as the devices' times agree (R60), to half
the settle interval after it (R49). -/
def onHold (b : Beacon) (s : State) : State :=
  s.onJob b.jobId (fun j =>
    if j.state = .running ∧ b.tick = j.tick ∧ j.runEndNs ≤ s.nowNs + 250 ∧ s.nowNs ≤ j.runEndNs + j.settleUs * 500 then
      { j with holds := j.holds ++ [b.arg0] }
    else j)

def execHoldBeacon (port : Nat) (b : Beacon) (at_ : Nat) (s : State) : Host.Outcome State Fault Refusal := .next (beaconIn 3 port b at_ onHold s)

/-- STRETCH on a follower: the end of RUN moves later (R50, R56). -/
def onStretch (b : Beacon) (s0 : State) : State :=
  let s := match jobAt s0 b.jobId with
    | some j => if j.phase = .run ∧ j.runEndNs ≤ s0.nowNs then runEnd b.jobId s0 else s0
    | none => s0
  match jobAt s b.jobId with
  | none => s
  | some j =>
    if j.state = .running ∧ b.tick = j.tick ∧ j.phase = .settle ∧ j.sUs < b.arg0 / 1000 then applyStretch b.jobId (b.arg0 / 1000) b.timeNs s
    else s

def execStretchBeacon (port : Nat) (b : Beacon) (at_ : Nat) (s : State) : Host.Outcome State Fault Refusal :=
  .next (beaconIn 4 port b at_ onStretch s)

/-- FAULT at the master: the first of an episode is broadcast as ABORT, which the master applies too (R57). The event it posts of it is
that of an ABORT received (DESIGN CHOICE, log 64). -/
def onFault (b : Beacon) (s : State) : State :=
  match jobAt s b.jobId with
  | none => s
  | some j =>
    if (j.state = .armed ∨ j.state = .running) ∧ j.abortSent = false then
      let code := b.arg0 % 65536
      masterAbort b.jobId code b.origin
        (postEvent 1 evTickFault b.jobId (tickDetail j evTickFault 2 code b.origin (lowestUnfinished j.sheaf)) s)
    else s

def execFaultBeacon (port : Nat) (b : Beacon) (at_ : Nat) (s : State) : Host.Outcome State Fault Refusal := .next (beaconIn 5 port b at_ onFault s)

/-- ABORT on a follower (R57). -/
def onAbort (b : Beacon) (s : State) : State :=
  match jobAt s b.jobId with
  | none => s
  | some j =>
    if j.state = .armed ∨ j.state = .running then
      abortReceived b.jobId (b.arg0 % 65536) (b.arg1 % 8192) s
    else s

def execAbortBeacon (port : Nat) (b : Beacon) (at_ : Nat) (s : State) : Host.Outcome State Fault Refusal := .next (beaconIn 6 port b at_ onAbort s)

/-! ### Sending (R59) and missing (R61) -/

/-- START_SEND: the first START of an armed master, at once or 1 s before the first boundary. -/
def startSend (job : Nat) (s : State) : State :=
  match jobAt s job with
  | none => s
  | some j =>
    match j.firstNs with
    | none => s
    | some first =>
      if j.state ≠ .armed ∨ j.started ∨ !isMaster s job then s
      else
        let s1 := s.timeTo (first - 1000000000)
        let (s2, q) := nextSeq s1 job
        let b := newBeacon s2 1 job j.startTick first ((j.cfg.map (·.crc)).getD 0) j.settleUs q (first - s2.nowNs) false false
        sendSet (s2.onJob job (fun x => { x with started := true })) job b 2 100000

def execStartSend (job : Nat) (s : State) : Host.Outcome State Fault Refusal := .next (startSend job s)

/-- The set whose next copy is due first. -/
def dueSet (rs : List RepeatSet) : Option (Nat × RepeatSet) :=
  (rs.mapIdx (fun k r => (k, r))).foldl (fun b p => match b with
    | none => some p
    | some q => if p.2.nextNs < q.2.nextNs then some p else some q) none

/-- BEACON_REPEAT_SEND: the next copy of a set. -/
def beaconRepeat (job : Nat) (s : State) : State :=
  match (jobAt s job).bind (fun j => dueSet j.repeats) with
  | none => s
  | some (k, r) =>
    let s1 := s.timeTo r.nextNs
    let b := Beacon.sealed { r.beacon with repeated := true, leadNs := if r.beacon.type = 1 then r.beacon.timeNs - s1.nowNs else 0 }
    beaconDown (s1.onJob job (fun j => { j with
      repeats := if r.left ≤ 1 then j.repeats.eraseIdx k else j.repeats.set k { r with left := r.left - 1, nextNs := r.nextNs + r.gapNs } })) job b

def execBeaconRepeatSend (job : Nat) (s : State) : Host.Outcome State Fault Refusal := .next (beaconRepeat job s)

def execBeaconMiss (job : Nat) (s : State) : Host.Outcome State Fault Refusal := .next (beaconMiss job s)

end Sys2Proof.Machine
end

