-- ==== Sys2Proof/Machine/Observe.lean ====
section
/-! DEFINITION. Counters, trace, tensor dumps, the winnow and shutdown tests, and the calibration record (16_observe.md R455, R461
to R472). -/

namespace Sys2Proof.Machine

/-! ### Counters (R465 to R467) -/

/-- Groups whose bit a mask has, from 1. -/
def groupsOfMask (m : Nat) : List Nat := ((List.range 8).filter (fun g => bitOf m g)).map (· + 1)

/-- CTR.CONFIG. -/
def ctrConfig (c : Cmd) (s : State) : State :=
  let fl := par c 0 1; let en := par c 1 1; let clr := par c 2 1
  judged c
    [(decide (c.length ≠ 8), stBadLength), (hdrBad c || decide (4 ≤ fl) || parRes c 3 5, stBadField)]
    s
    (let s1 := if bitOf fl 1 then s.onObs (fun o => { o with ctrs := o.ctrs.filter (fun e => !(groupsOfMask clr).contains (e.1 / 65536)) }) else s
     let s2 := if bitOf fl 0 then s1.onObs (fun o => { o with
         ctrEnable := BitVec.ofNat 8 en
         stageArmed := if bitOf en 2 && !o.ctrEnable.getLsbD 2 then ⟨true, true⟩ else o.stageArmed }) else s1
     complete c stDone (leBytes s2.obs.ctrEnable.toNat 1 ++ leBytes 0 7) s2)

def execCtrConfig (mb : Nat) (s : State) : Host.Outcome State Fault Refusal := .next (runCmd 0x0900 mb ctrConfig s)

/-- Offset and counters of a group in a snapshot slot (Table 16.6). -/
def groupPlace (g : Nat) : Nat × Nat :=
  [(0, 0), (0x100, 512), (0x1100, 8), (0x1140, 20), (0x11E0, 64), (0x13E0, 130), (0x17F0, 8), (0x1830, 528), (0x28B0, 38)].getD g (0, 0)

/-- The bytes of a slot: header, then the groups; one that is not captured reads 0. -/
def snapBytes (s : State) (seq mask : Nat) : List Byte :=
  leBytes 0x53525443 4 ++ leBytes seq 4 ++ leBytes s.nowNs 8 ++ leBytes (devTick s .t0) 8 ++ leBytes (devTick s .t1) 8
    ++ leBytes mask 1 ++ leBytes s.obs.ctrEnable.toNat 1 ++ List.replicate 0xDE 0#8
    ++ (List.range 8).flatMap (fun i => (List.range (groupPlace (i + 1)).2).flatMap (fun k =>
        if bitOf mask i then leBytes (tabGetD s.obs.ctrs ((i + 1) * 65536 + k) 0).toNat 8 else leBytes 0 8))

/-- CTR.READ. -/
def ctrRead (c : Cmd) (s : State) : State :=
  let slot := par c 0 2; let gs := par c 2 1
  judged c
    [(decide (c.length ≠ 8), stBadLength), (hdrBad c || decide (4031 < slot) || parRes c 3 5, stBadField)]
    s
    (let seq := (s.obs.ctrSeq + 1) % 2 ^ 32
     let mask := if gs = 0 then s.obs.ctrEnable.toNat else gs
     complete c stDone (leBytes seq 4 ++ leBytes 0 4 ++ leBytes s.nowNs 8) (s.onObs (fun o => { o with
       ctrSeq := seq, snap := memWrite o.snap (slot * 0x4000) (snapBytes s seq mask) })))

def execCtrRead (mb : Nat) (s : State) : Host.Outcome State Fault Refusal := .next (runCmd 0x0901 mb ctrRead s)

/-! ### Trace (R468, R470) -/

/-- A record's 32 bytes (Table 16.8). -/
def traceBytes (r : TraceRec) : List Byte :=
  leBytes r.timeNs 8 ++ leBytes r.type 1 ++ leBytes (r.tower * 128) 1 ++ leBytes r.job 2 ++ leBytes r.tick 4 ++ sliceBytes r.data 0 16

/-- The device may write host memory (R352). -/
def hostWritable (s : State) : Bool := s.host.pcie.busMaster && s.host.pcie.linkUp && !s.host.pcie.d3hot

/-- Records that fit before the ring's write offset comes within 4 KiB of the read offset. -/
def ringRoom (s : State) (b : TraceT) : Nat :=
  (s.obs.ringBytes - 4096 - (b.writeOff + s.obs.ringBytes - b.readOff) % s.obs.ringBytes) / 32

/-- Store bytes in a ring: HBM as the HOST holder, or host memory. -/
def ringStore (toHost : Bool) (a : Nat) (bs : List Byte) (s : State) : State :=
  if toHost then s.emit (.hostWrite a bs) else engineWrite (Agent.of 7) 0 false a bs [] s

/-- Drain a tower's buffer into its ring, as far as the ring has room. A transfer to the host that fails disables tracing and counts what
the buffer held as dropped. -/
def traceDrainTower (t : Tower) (s : State) : State :=
  let b := s.obs.trace.get t
  let n := min b.buf.length (ringRoom s b)
  if n = 0 then s
  else if s.obs.traceHost && !hostWritable s then
    s.onObs (fun o => { o with
      traceOn := false
      trace := ⟨{ o.trace.t0 with dropped := o.trace.t0.dropped + o.trace.t0.buf.length, buf := [] },
                { o.trace.t1 with dropped := o.trace.t1.dropped + o.trace.t1.buf.length, buf := [] }⟩ })
  else
    let bs := (b.buf.take n).flatMap traceBytes
    let first := min bs.length (s.obs.ringBytes - b.writeOff)
    let s1 := ringStore s.obs.traceHost (b.base + b.writeOff) (bs.take first) s
    let s2 := if bs.length = first then s1 else ringStore s.obs.traceHost b.base (bs.drop first) s1
    s2.onObs (fun o => { o with trace := o.trace.mod t (fun x => { x with
      buf := x.buf.drop n, writeOff := (x.writeOff + 32 * n) % o.ringBytes }) })

/-- A buffer of 4 KiB or more drains. -/
def traceFull (s : State) (t : Tower) : Bool := decide (128 ≤ (s.obs.trace.get t).buf.length)

/-- TRACE_AUTO_DRAIN: at 4 KiB, or 1 ms after the oldest record. -/
def traceAutoDrain (t : Tower) (s : State) : State :=
  match (s.obs.trace.get t).buf with
  | [] => s
  | r :: _ => if s.obs.ringBytes = 0 then s else traceDrainTower t (if traceFull s t then s else s.timeTo (r.timeNs + 1000000))

def execTraceAutoDrain (t : Tower) (s : State) : Host.Outcome State Fault Refusal := .next (traceAutoDrain t s)

/-- An HBM ring is backed and lies outside every field map, mirror cellar and the MC firmware region. -/
def ringOk (s : State) (a n : Nat) : Bool :=
  decide (a + n ≤ hbmTop) && !(pagesOf a n).any (unbacked s) && !meets a n (mcRegion s.hbm.globalHoming)
    && !meets a n s.hbm.mirror.t0 && !meets a n s.hbm.mirror.t1
    && !s.jobs.jobs.any (fun j => j.2.map.any (fun e => meets a n (entryRegion e)))

/-- TRACE.CONFIG. With ENABLE clear the buffers drain and tracing is off; the ring keeps its settings (log 45). -/
def traceConfig (c : Cmd) (s : State) : State :=
  let fl := par c 0 1; let src := par c 1 1; let n := par c 4 4; let b0 := par c 8 8; let b1 := par c 0x10 8
  let on := bitOf fl 0; let host := bitOf fl 1
  let same := decide (n = s.obs.ringBytes ∧ b0 = s.obs.trace.t0.base ∧ b1 = s.obs.trace.t1.base ∧ host = s.obs.traceHost)
  judged c
    [(decide (c.length ≠ 24), stBadLength),
     (hdrBad c || decide (4 ≤ fl ∨ 64 ≤ src) || parRes c 2 2
        || (on && (decide (n < 65536 ∨ 0x40000000 < n ∨ n % 4096 ≠ 0 ∨ b0 % 4096 ≠ 0 ∨ b1 % 4096 ≠ 0)
          || (!host && (!ringOk s b0 n || !ringOk s b1 n)))), stBadField),
     (on && s.obs.traceOn && !same, stWrongState)]
    s
    (if on then
       complete c stDone [] (s.onObs (fun o => { o with
         traceOn := true, traceCfg := true, traceHost := host, traceSrc := src, ringBytes := n
         trace := if same then o.trace
           else ⟨{ o.trace.t0 with base := b0, readOff := 0, writeOff := 0 }, { o.trace.t1 with base := b1, readOff := 0, writeOff := 0 }⟩ }))
     else
       let s1 := if s.obs.traceOn then traceDrainTower .t1 (traceDrainTower .t0 s) else s
       complete c stDone [] (s1.onObs (fun o => { o with traceOn := false })))

def execTraceConfig (mb : Nat) (s : State) : Host.Outcome State Fault Refusal := .next (runCmd 0x0902 mb traceConfig s)

/-- TRACE.DRAIN. -/
def traceDrain (c : Cmd) (s : State) : State :=
  let r0 := par c 0 4; let r1 := par c 4 4; let fl := par c 8 4
  judged c
    [(decide (c.length ≠ 16), stBadLength), (hdrBad c || decide (2 ≤ fl) || parRes c 0xC 4, stBadField),
     (!s.obs.traceCfg, stWrongState), (decide (s.obs.ringBytes ≤ r0 ∨ s.obs.ringBytes ≤ r1), stBadField)]
    s
    (let s1 := s.onObs (fun o => { o with trace := ⟨{ o.trace.t0 with readOff := r0 }, { o.trace.t1 with readOff := r1 }⟩ })
     let s2 := bothTowers.foldl (fun st t => if bitOf fl 0 || traceFull st t then traceDrainTower t st else st) s1
     let tr := s2.obs.trace
     complete c stDone (leBytes tr.t0.writeOff 4 ++ leBytes tr.t1.writeOff 4 ++ leBytes tr.t0.dropped 4 ++ leBytes tr.t1.dropped 4) s2)

def execTraceDrain (mb : Nat) (s : State) : Host.Outcome State Fault Refusal := .next (runCmd 0x0903 mb traceDrain s)

/-! ### Dumps (R472) -/

/-- DEBUG.DUMP: arms a dump; it completes when the copy ends or the tick ends without it. -/
def debugDump (c : Cmd) (s : State) : State :=
  let j := jobAt s c.job
  let tick := par c 0x28 8; let dest := par c 0x30 8; let bytes := par c 0x38 8; let fl := par c 0x40 4
  judged c
    [(decide (c.length ≠ 72), stBadLength), (j.isNone, stBadField), (notIn j [.armed, .running], stWrongState),
     (hdrBad c || decide (2 ≤ fl ∨ 2 ^ 48 ≤ tick ∨ dest % 32 ≠ 0) || parRes c 0x44 4
        || (match j with
          | some x => if x.state = .armed then decide (tick < x.startTick) else decide (tick ≤ x.tick)
          | none => true)
        || (!bitOf fl 0 && !rangeAllowed s c.job 1 dest bytes), stBadField),
     (decide (16 ≤ s.obs.dumps.length), stNoSpace)]
    s
    ((markStarted c s).onObs (fun o => { o with dumps := o.dumps ++ [
      { mb := c.mb, job := c.job, name := sliceBytes c.params 0 40, tick := tick, dest := dest, maxBytes := bytes, toHost := bitOf fl 0,
        item := none, desc := 0, startNs := none, cut := false }] }))

def execDebugDump (mb : Nat) (s : State) : Host.Outcome State Fault Refusal := .next (runCmd 0x0904 mb debugDump s)

/-- Read rows one after another, as a copy's source: the bytes, those of poisoned sectors 0, and how many poisoned sectors there are. -/
def dumpRows (g : Agent) (job n : Nat) : List Nat → State → State × List Byte × Nat
  | [], s => (s, [], 0)
  | a :: as_, s =>
    let (s1, bs, pz) := floorRead g job a n s
    let clean := bs.mapIdx (fun i b => if pz.contains ((a + i) / 32) then 0#8 else b)
    let (s2, rest, k) := dumpRows g job n as_ s1
    (s2, clean ++ rest, pz.length + k)

/-- Copy a dump's tensor: STATE, bytes copied, poisoned sectors. A descriptor that is no tensor, or is poisoned, which faults the job
(R244), has an open STATE (log 45). -/
def dumpCopy (d : Dump) (s0 : State) : State × Nat × Nat × Nat :=
  let g := Agent.past (if d.toHost then 7 else 3) false
  let (s, db, pz) := floorRead g d.job d.desc 64 s0
  let t := tensorOf db
  let rows := (tuples ((t.ext.take t.rank).drop 1)).map (rowAddr t)
  let size := rows.length * rowBytes t
  let bad := Config.openField s.freeCtr % 5
  if pz ≠ [] then (jobFault d.job evPoisonConsumed (issueDetail evPoisonConsumed (d.item.getD noIndex)) s.draw, bad, 0, 0)
  else if !tensorOk db then (s.draw, bad, 0, 0)
  else if d.maxBytes < size then (s, 3, 0, 0)
  else if (d.toHost && (d.cut || !hostWritable s)) || (!d.toHost && !rangeAllowed s d.job 1 d.dest size) then (s, 4, 0, 0)
  else
    let (s1, bs, k) := dumpRows g d.job (rowBytes t) rows s
    (if d.toHost then s1.emit (.hostWrite d.dest bs) else floorWrite (Agent.of 3) d.job d.dest bs [] s1, 0, size, k)

/-- The items a dump held are released. -/
def dumpRelease (d : Dump) (item : Nat) (s : State) : State :=
  s.onJob d.job (fun j => { j with sheaf := j.sheaf.map (fun sh =>
    if sh.tick = d.tick then { sh with items := sh.items.map (fun i => if i.preds.contains item then { i with holds := i.holds - 1 } else i) }
    else sh) })

/-- DUMP_COPY_END: the copy of a dump whose item has completed ends. -/
def dumpCopyEnd (job item : Nat) (s : State) : State :=
  match s.obs.dumps.find? (fun d => decide (d.job = job ∧ d.item = some item) && d.startNs.isSome) with
  | none => s
  | some d =>
    let start := d.startNs.getD s.nowNs
    let hold := s.nowNs - start
    let (s1, st, n, k) := dumpCopy d s
    let s2 := traceRec 5 (((jobAt s1 job).map jobTower).getD .t0) 8 job d.tick
      (leBytes item 4 ++ leBytes n 8 ++ leBytes (min hold 0xFFFFFFFF) 4) s1
    advanceItems (dumpRelease d item (dumpEnd d (dumpResult st item n k hold start) s2))

def execDumpCopyEnd (job item : Nat) (s : State) : Host.Outcome State Fault Refusal := .next (dumpCopyEnd job item s)

/-! ### Tests (R461, R462, R464) -/

/-- TEST.WINNOW. Without FORCE the fields that serve it are reserved (R8). -/
def testWinnow (c : Cmd) (s : State) : State :=
  let fl := par c 0 1; let en := par c 1 1; let tn := par c 2 1; let bank := par c 4 2; let unit := par c 6 2
  let force := bitOf fl 1; let t := towerOf tn
  let retired := (s.loft.tw.get t).retired
  judged c
    [(decide (c.length ≠ 8), stBadLength),
     (hdrBad c || decide (4 ≤ fl ∨ 16 ≤ en) || parRes c 3 1
        || (force && (decide (1 < tn ∨ (bank ≠ 0xFFFF ∧ 1024 ≤ bank) ∨ (unit ≠ 0xFFFF ∧ 512 ≤ unit))
          || (decide (bank ≠ 0xFFFF) && retired.contains (bank % 512)) || retired.contains unit))
        || (!force && decide (tn ≠ 0 ∨ bank ≠ 0 ∨ unit ≠ 0)), stBadField),
     (force && (s.obs.winnow.get t).forceMb.isSome, stBusy)]
    s
    (let s1 := if bitOf fl 0 then s.onObs (fun o => { o with winnowEnable := en }) else s
     if force ∧ (bank ≠ 0xFFFF ∨ unit ≠ 0xFFFF) then
       (markStarted c s1).onObs (fun o => { o with winnow := o.winnow.mod t (fun w => { w with
         forcedLoft := if bank = 0xFFFF then none else some bank
         forcedPress := if unit = 0xFFFF then none else some unit
         forceMb := some c.mb }) })
     else complete c stDone (winnowResult s1) s1)

def execTestWinnow (mb : Nat) (s : State) : Host.Outcome State Fault Refusal := .next (runCmd 0x0905 mb testWinnow s)

/-- Physical cores in service: tower and number. -/
def coresInService (s : State) : List (Tower × Nat) :=
  bothTowers.flatMap (fun t => (((s.boot.coreMap.get t).take 128).map (fun p => (t, p))))

/-- Every core is held in reset. -/
def holdCores (s : State) : State :=
  (bothTowers.flatMap (fun t => enabledCores s t)).foldl (fun st c => onCore c (fun _ => { Core.empty with held := true }) st)
    (s.onObs (fun o => { o with shutdown := true }))

/-- TEST.SHUTDOWN_PREP, with the cores whose signature was wrong. -/
def testShutdownPrep (failed : List (Tower × Nat)) (flashOk : Bool) (c : Cmd) (s : State) : State :=
  judged c
    [(decide (c.length ≠ 8), stBadLength),
     (decide (s.gate.pwr = .rest ∨ s.gate.pwr = .dark) || anyJobRuns s, stWrongState),
     (s.gate.change.isSome || s.boot.part.isSome || s.boot.coreReset.isSome || s.trust.writing.isSome, stBusy),
     (hdrBad c || parRes c 0 8, stBadField), (!flashOk, stDeviceFault)]
    s
    (let cores := coresInService s
     complete c stDone [] (holdCores ((writeCalibration s.draw).onFlash (fun f => { f with
       testState := 1, testTested := cores.length, testFailed := cores.filter (fun x => failed.contains x), testBoot := f.bootCount
       testMs := Config.duration s.freeCtr % 501 }))))

def execTestShutdownPrep (mb : Nat) (failedCores : List (Tower × Nat)) (flashOk : Bool) (s : State) : Host.Outcome State Fault Refusal :=
  .next (runCmd 0x0906 mb (testShutdownPrep failedCores flashOk) s)

/-- The shutdown record. -/
def shutdownResult (s : State) : List Byte :=
  let f := s.flash
  leBytes f.testState 1 ++ leBytes 0 1 ++ leBytes f.testTested 2 ++ leBytes f.testFailed.length 2 ++ leBytes 0 2 ++ leBytes f.testBoot 4
    ++ leBytes f.testMs 4 ++ f.testFailed.flatMap (fun x => leBytes (towerNum x.1 * 32768 + x.2 % 256) 2)

/-- The winnow log. -/
def winnowLogResult (s : State) : List Byte :=
  leBytes s.obs.winnowLog.length 4 ++ leBytes 0 12 ++ s.obs.winnowLog.flatMap (fun w => (winnowDetail w).drop 2 ++ leBytes 0 2)

/-- TEST.RESULTS. -/
def testResults (c : Cmd) (s : State) : State :=
  judged c
    [(decide (c.length ≠ 8), stBadLength), (hdrBad c || decide (1 < par c 0 1) || parRes c 1 7, stBadField)]
    s
    (complete c stDone (if par c 0 1 = 0 then shutdownResult s else winnowLogResult s) s)

def execTestResults (mb : Nat) (s : State) : Host.Outcome State Fault Refusal := .next (runCmd 0x0907 mb testResults s)

/-- CALIBRATION_RECORD_WRITE: hourly while the device is ACTIVE or TRIM (R455). -/
def calibrationWrite (s : State) : State :=
  if s.boot.stage = 10 ∧ (s.gate.pwr = .active ∨ s.gate.pwr = .trim) then writeCalibration s else s

def execCalibrationRecordWrite (s : State) : Host.Outcome State Fault Refusal := .next (calibrationWrite s)

end Sys2Proof.Machine
end

