-- ==== Sys2Proof/Machine/Reset.lean ====
section
/-! DEFINITION. The five reset levels: RESET.LEVEL, partition and CORE resets, the DEVICE and COLD resets (14_bringup.md R407 to R414,
R435; 06_loft.md R205; 12_host.md R353, R359, R371). -/

namespace Sys2Proof.Machine

/-! ### DEVICE and COLD (R371, R411 to R413, R435) -/

/-- Writes and other requests in the HBM controllers at a DEVICE reset: a write whole in a queue completes, every other write is discarded
whole and counted (R412). A floor reduction counts as a discarded write (DEDUCED, log 46). -/
def channelDrain (s : State) : State × Nat :=
  let whole := fun (r : HbmReq) => r.isWrite && !isAdder r && decide (r.data.length = 64)
  let queued := s.hbm.chans.flatMap (fun e => (e.2.queue ++ e.2.side).foldr insertReq [])
  let ports := s.hbm.chans.flatMap (fun e => e.2.input)
  ((queued.filter whole).foldl (fun st r => hbmStoreBlock r.addr r.data r.poisoned st) s,
   (queued.filter (fun r => !whole r)).countP (fun r => r.isWrite || isAdder r) + ports.countP (fun r => r.isWrite || isAdder r))

/-- Dirty loft lines: tower and line address (R205). -/
def dirtyLines (s : State) : List (Tower × Nat) :=
  (s.loft.bulk.filter (fun e => decide (e.2.dirty ≠ 0#4))).map (fun e => (e.2.tower, e.1))
    ++ bothTowers.flatMap (fun t => (s.loft.tw.get t).wb.flatMap (fun e =>
      (e.2.filter (fun w => decide (w.dirty ≠ 0#4))).map (fun w => (t, w.la))))

/-- A line lies in the cellar of a tower. -/
def inCellar (s : State) (u : Tower) (la : Nat) : Bool := meets (la * 256) 256 (s.hbm.cellar.get u)

/-- The cellar of a tower is untrusted after a DEVICE reset that discards these lines (R344). -/
def cellarLost (s : State) (ls : List (Tower × Nat)) (u : Tower) : Bool :=
  (s.twin.get u).untrusted || ls.any (fun l => inCellar s u l.2)

/-- Transfers that a DEVICE reset completes with fault status (log 46). -/
def transfersInFlight (s : State) : Nat :=
  s.eng.runs.length + s.press.queues.t0.length + s.press.queues.t1.length
    + ((s.cores.cores.map (fun e => e.2.copies.length)).foldl (· + ·) 0)

/-- Zone of a latched thermal shutdown. -/
def latchedZone (s : State) : Nat := (s.mod.latch.map (·.1)).getD 0xFF

/-- Its reading. -/
def latchedC (s : State) : Nat := (s.mod.latch.map (·.2)).getD 0

/-- Bits of the towers whose cellars are untrusted. -/
def untrustedBits (f : Tower → Bool) : Nat := (if f .t0 then 1 else 0) + (if f .t1 then 2 else 0)

/-- The report of a DEVICE reset (Table 14.13). -/
def deviceReport (source dropped : Nat) (s : State) : ResetReport :=
  let ls := dirtyLines s
  let of := fun (t : Tower) => ls.filter (fun l => decide (l.1 = t))
  let disc := fun (t : Tower) => (of t).length
  let cel := fun (t : Tower) => ((of t).filter (fun l => inCellar s .t0 l.2 || inCellar s .t1 l.2)).length
  { level := 3, source := source, untrusted := untrustedBits (cellarLost s ls), thermZone := latchedZone s
    thermC := latchedC s, stacksLost := 0,
    discarded := ⟨disc .t0, disc .t1⟩, cellarDisc := ⟨cel .t0, cel .t1⟩, faulted := transfersInFlight s, writesDropped := dropped }

/-- What a tower's twin keeps: the ring of received records, HOLDING with MIRROR_TICK, and the untrusted mark (R332, R344). -/
def twinKept (w : Twin) (lost : Bool) : Twin :=
  { Twin.off with holding := w.holding, mirrorTick := w.mirrorTick, ringRx := w.ringRx, untrusted := lost }

/-- A stack in self-refresh, not yet confirmed. -/
def Stack.asleep (x : Stack) : Stack := { Stack.fresh with selfRefresh := true, lost := x.lost }

/-- The state after a DEVICE reset, at time zero of bring-up: what Table 14.1 keeps, and State.reset for the rest. -/
def afterDevice (r : ResetReport) (lost : Tower → Bool) (s : State) : State :=
  { State.reset with
    freeCtr := s.freeCtr, mod := s.mod, flash := s.flash, fuses := s.fuses, out := s.out, pending := s.pending
    host := { HostSt.reset with
      mbArea := s.host.mbArea, stale := s.host.stale, own := s.host.own, doneSum := s.host.doneSum, handed := s.host.handed
      taken := s.host.taken, msixTable := s.host.msixTable, msixPba := s.host.msixPba, pcie := { s.host.pcie with linkUp := false } }
    ev := s.ev
    hbm := { HbmSt.reset with
      mem := s.hbm.mem, marks := s.hbm.marks, rate := s.hbm.rate, failedPins := s.hbm.failedPins
      hbmStacks := s.hbm.hbmStacks.map (fun e => (e.1, e.2.asleep)) }
    twin := ⟨twinKept s.twin.t0 (lost .t0), twinKept s.twin.t1 (lost .t1)⟩
    trust := { TrustSt.reset with key2Count := s.trust.key2Count }
    therm := { State.reset.therm with closed := s.therm.closed }
    boot := { BootSt.reset with running := true, cold := false, report := r, calHeld := true } }

/-- A DEVICE reset: every owned mailbox completes with DEVICE_FAULT, armed and running jobs send FAULT, the HBM queues drain and dirty
lines are discarded (R412). -/
def deviceReset (source : Nat) (s : State) : State :=
  let s1 := failMailboxes stDeviceFault s
  let (s2, dropped) := channelDrain s1
  let r := deviceReport source dropped s2
  let lost := cellarLost s2 (dirtyLines s2)
  let s3 := (s2.jobs.jobs.map (·.1)).foldl (fun st j => tickFault j evTickFault 7 st) s2
  afterDevice r lost (rehome false s3)

/-- A COLD reset: flash, fuses and the always-on module state stay (R407, R413). A tower closed by a bond drop is measured again at S3
(R404). -/
def coldReset (source : Nat) (running : Bool) (s : State) : State :=
  { State.reset with
    freeCtr := s.freeCtr, mod := s.mod, flash := s.flash, fuses := s.fuses, out := s.out, pending := s.pending
    trust := { TrustSt.reset with key2Count := s.trust.key2Count }
    therm := { State.reset.therm with closed := s.therm.closed }
    boot := { BootSt.reset with
      running := running
      report := { ResetReport.cold with source := source, thermZone := latchedZone s, thermC := latchedC s } } }

/-- DEV_RESET_KEY: a write of the key to DEV_RESET (R359). Any other value does nothing. -/
def devResetKey (v : BitVec 32) (s : State) : State := if barOk s ∧ v = 0x0000D15E#32 then deviceReset 1 s else s

def execDevResetKey (value : BitVec 32) (s : State) : Host.Outcome State Fault Refusal := .next (devResetKey value s)

/-- PERST_ASSERT: a COLD reset while the rail is on, and the rail stays on (R353, R489). -/
def perstAssert (s : State) : State :=
  let s1 := s.onMod (fun m => { m with perst := true })
  if s.mod.rail ∧ !s.mod.perst then coldReset 2 false s1 else s1

def execPerstAssert (s : State) : Host.Outcome State Fault Refusal := .next (perstAssert s)

/-- STACK_SELF_REFRESH_TIMEOUT: a stack that has not confirmed self-refresh entry within 1 ms of a DEVICE reset is lost, and so is the trust
in its tower's cellars (R413). -/
def stackTimeout (stack : Nat) (s : State) : State :=
  match tabGet s.hbm.hbmStacks stack with
  | some x =>
    if s.boot.running ∧ !s.boot.cold ∧ s.boot.stage = 0 ∧ x.selfRefresh ∧ !x.lost then
      let t := towerOfStack stack
      let s1 := (s.onHbm (fun h => { h with hbmStacks := tabPut h.hbmStacks stack { x with lost := true } })).onTwin
        (fun p => p.mod t (fun w => { w with untrusted := true }))
      s1.onBoot (fun b => { b with report := { b.report with
        stacksLost := b.report.stacksLost ||| 2 ^ stack
        untrusted := b.report.untrusted ||| 2 ^ towerNum t } })
    else s
  | none => s

def execStackSelfRefreshTimeout (stack : Nat) (s : State) : Host.Outcome State Fault Refusal := .next (stackTimeout stack s)

/-! ### Partition resets (R205, R409, R410) -/

/-- A sheaf item that the units hold. -/
def itemInFlight (i : Item) : Bool :=
  match i.st with
  | .waiting => false
  | .eligible => false
  | .queued => true
  | .notice => true
  | .running => true
  | .written => true
  | .done => false
  | .faulted => false
  | .stopped => false

/-- Sheaf items of a job in flight. -/
def jobInFlight (j : Job) : Nat :=
  let n := fun (o : Option Sheaf) => match o with
    | some sh => sh.items.countP itemInFlight
    | none => 0
  n j.sheaf + n j.next

/-- Jobs of a partition. -/
def jobsOfPartition (s : State) (partition : Nat) : List Job :=
  (s.jobs.jobs.map (·.2)).filter (fun j => decide (partition = 0 ∨ partition = j.partition))

/-- End a taken command with DEVICE_FAULT, and what it has under way (R409 step 1). -/
def abandon (c : Cmd) (s : State) : State :=
  let s1 := bindFail c.mb stDeviceFault s
  let s2 := bothTowers.foldl (fun st t => if (st.twin.get t).restore.map (·.mb) = some c.mb then restoreEnd t stDeviceFault st else st) s1
  let s3 := (s2.onLoft (fun x => { x with waiting := tabDel x.waiting c.mb })).onObs (fun o => { o with
    dumps := o.dumps.filter (fun d => decide (d.mb ≠ c.mb)) })
  let s4 := s3.onJobs (fun j => { j with jobs := j.jobs.map (fun e =>
    (e.1, if e.2.admission.map (·.mb) = some c.mb then { e.2 with admission := none } else e.2)) })
  if (tabGet s4.host.taken c.mb).isSome then complete c stDeviceFault [] s4 else s4

/-- Start a COMPUTE or TOWER reset: started press reductions finish, jobs fault, their commands end, and the reset runs until
PARTITION_RESET_END (R173, R409). -/
def startPartReset (c : Cmd) (tower : Bool) (partition : Nat) (s : State) : State :=
  let js := jobsOfPartition s partition
  let n := ((js.filter (fun j => decide (j.state = .armed ∨ j.state = .running))).map jobInFlight).foldl (· + ·) 0
  let p : PartReset := { mb := c.mb, towerLevel := tower, partition := partition, startNs := s.nowNs, faultedItems := n }
  let s0 := (towersOfPartition partition).foldl (fun st t => finishReductions t st) (markStarted c s)
  let s1 := js.foldl (fun st j => tickFault j.id evTickFault 6 st) s0
  let mine := (s1.host.taken.map (·.2)).filter (fun x => decide (x.mb ≠ c.mb ∧ x.opcode ≠ 0x0102 ∧ x.job ≠ 0)
    && js.any (fun j => decide (j.id = x.job)))
  (mine.foldl (fun st x => abandon x st) s1).onBoot (fun b => { b with part := some p })

/-- Cores that fail the runtime's check leave service: they enter the flash map and the tower's cores are numbered anew (R425). -/
def mapOutCores (sub : Nat) (failed : List (Tower × Nat)) (s : State) : State :=
  let gone := bothTowers.flatMap (fun t => ((s.boot.coreMap.get t).filter (fun p => failed.contains (t, p))).map (fun p => (t, p)))
  { s with
    boot := { s.boot with
      coreMap := ⟨s.boot.coreMap.t0.filter (fun p => !failed.contains (.t0, p)), s.boot.coreMap.t1.filter (fun p => !failed.contains (.t1, p))⟩ }
    flash := { s.flash with defects := s.flash.defects ++ gone.map (fun x => ⟨1, true, towerNum x.1, 5, x.2, sub⟩) } }

/-- Bytes a write-back of towers carries: those of the dirty lines whose path has not faulted. -/
def towersDirtyBytes (ts : List Tower) (s : State) : Nat :=
  ((s.loft.bulk.filter (fun e => ts.contains e.2.tower && !pathFaulted s e.1)).map (fun e => dirtyBytes e.2.dirty)).foldl (· + ·) 0
    + ((ts.flatMap (fun t => (s.loft.tw.get t).wb.flatMap (fun e =>
      (e.2.filter (fun w => !pathFaulted s w.la)).map (fun w => dirtyBytes w.dirty)))).foldl (· + ·) 0)

/-- A TOWER reset of a loft: its bays are unpinned and lost, frame tables and predictors are initial, and the tick's counts and staging
restart (R205, R410). -/
def resetLoft (t : Tower) (s : State) : State :=
  let bays := (s.loft.bays.filter (fun e => decide (e.1 / 4096 = towerNum t))).map (·.1)
  let s1 := (bays.foldl (fun a b => unpinBay b a) (s, ([] : List Nat), 0)).1
  s1.onLoft (fun x => { x with
    tw := x.tw.mod t (fun w => { LoftT.empty with
      retired := w.retired }) })

/-- What a TOWER reset does beyond COMPUTE (R410). -/
def towerLevelEnd (ts : List Tower) (s : State) : State :=
  (ts.foldl (fun st t => restartSamples t (resetLoft t st)) s).onGate (restartRates ts)

/-- Result of RESET.LEVEL (Table 14.4). -/
def resetResult (us discarded wb faulted : Nat) : List Byte :=
  leBytes us 4 ++ leBytes discarded 4 ++ leBytes wb 8 ++ leBytes faulted 4 ++ leBytes 0 4

/-- PARTITION_RESET_END: the cores have drained, the lofts have acted, the dies are reset, the runtime is in every core again (R409 steps 3
to 6). Dirty lines whose path has faulted are discarded and counted (R205). -/
def partitionResetEnd (at_ : Nat) (failed : List (Tower × Nat)) (s : State) : State :=
  match s.boot.part with
  | none => s
  | some p =>
    let ts := towersOfPartition p.partition
    let s1 := drainCores ts (s.timeTo at_)
    let (f, lost) := ts.foldl (fun a t => flushTower t a) (s1, 0)
    let s2 := clearCores ts f
    let s3 := if p.towerLevel then towerLevelEnd ts s2 else s2
    let s4 := (mapOutCores 2 (failed.filter (fun x => ts.contains x.1)) s3).onBoot (fun b => { b with part := none })
    match startedCmd s4 p.mb 0x0700 with
    | some c => complete c stDone (resetResult (timeUs s4.nowNs p.startNs) lost (towersDirtyBytes ts s1) p.faultedItems) s4
    | none => s4

def execPartitionResetEnd (at_ : Nat) (failedCores : List (Tower × Nat)) (s : State) : Host.Outcome State Fault Refusal :=
  .next (partitionResetEnd at_ failedCores s)

/-- CORE_RESET_END: the core's registers, crews, local memory, L1R, copies and barriers are clear (R407). -/
def coreResetEnd (at_ : Nat) (s : State) : State :=
  match s.boot.coreReset with
  | none => s
  | some (mb, core, start) =>
    let s1 := s.timeTo at_
    let s2 := (onCore core (fun k => { Core.empty with held := k.held }) s1).onBoot (fun b => { b with coreReset := none })
    match startedCmd s2 mb 0x0700 with
    | some c => complete c stDone (resetResult (timeUs s2.nowNs start) 0 0 0) s2
    | none => s2

def execCoreResetEnd (at_ : Nat) (s : State) : Host.Outcome State Fault Refusal := .next (coreResetEnd at_ s)

/-! ### RESET.LEVEL (R411, R414) -/

/-- A job of a core's tower is ARMED or RUNNING. -/
def coreBusy (s : State) (core : Nat) : Bool := match jobOfTower s (towerOf (core / 128)) with
  | some j => decide (j.state = .armed ∨ j.state = .running)
  | none => false

/-- A logical core ID of the device (R72). -/
def coreExists (s : State) (core : Nat) : Bool := (enabledCores s (towerOf (core / 128))).contains core

/-- RESET.LEVEL. -/
def resetLevel (c : Cmd) (s : State) : State :=
  let lv := par c 0 1; let p := par c 1 1; let core := par c 2 2
  judged c
    [(decide (c.length ≠ 8), stBadLength),
     (hdrBad c || decide (3 < lv) || parRes c 4 4
        || (if lv = 1 ∨ lv = 2 then decide (2 < p) || decide (s.jobs.partMode = 0 ∧ p ≠ 0) else decide (p ≠ 0))
        || (if lv = 0 then !s.boot.recovery && !coreExists s core else decide (core ≠ 0)), stBadField),
     (decide (lv ≠ 3) && (s.boot.recovery || decide (s.gate.pwr = .rest ∨ s.gate.pwr = .dark) || (decide (lv = 0) && coreBusy s core)), stWrongState),
     (s.boot.part.isSome || s.boot.coreReset.isSome, stBusy)]
    s
    (if lv = 3 then deviceReset 0 (complete c stDone [] s)
     else if lv = 0 then (markStarted c s).onBoot (fun b => { b with coreReset := some (c.mb, core, s.nowNs) })
     else startPartReset c (decide (lv = 2)) p s)

def execResetLevel (mb : Nat) (s : State) : Host.Outcome State Fault Refusal := .next (runCmd 0x0700 mb resetLevel s)

end Sys2Proof.Machine
end

