-- ==== Sys2Proof/Machine/Thermal.lean ====
section
/-! DEFINITION. Temperature sampling, sensor failure, levels, clamps and shutdown (13_power.md R397 to R401; 07_cellar.md R222). -/

namespace Sys2Proof.Machine

/-- Level of one zone. -/
def levelOf (s : State) (z : Nat) : Nat := tabGetD s.therm.level z 0

/-! ### Sensors (R397, R401) -/

/-- A zone that gives no reading: its die is off, or its stack is not yet trained (log 42). -/
def zoneOff (s : State) (z : Nat) : Bool :=
  decide (z < 4 ∧ s.gate.pwr = .rest) || (decide (z < 8) && s.gate.commandedDark) || decide (10 ≤ z ∧ s.boot.stage < 6)

/-- A report of a sensor: its reading, since when it has held it; an open or absent one has failed. -/
def readSensor (now : Nat) (v : Option Int) (x : Sensor) : Sensor :=
  match v with
  | none => { x with value := none, heldNs := now, others := [], failed := true }
  | some r => if x.value = some r then x else { x with value := some r, heldNs := now, others := [] }

/-- Apply one report. -/
def applyReport (s : State) (r : SensorReport) : State :=
  if 26 ≤ r.zone ∨ sensorCount r.zone ≤ r.sensor ∨ zoneOff s r.zone then s
  else s.onTherm (fun t => { t with
    sensors := tabPut t.sensors (r.zone * 16 + r.sensor) (readSensor s.nowNs r.value (sensorAt s r.zone r.sensor)) })

/-- Present readings of the other sensors of a sensor's zone. -/
def otherReadings (s : State) (k : Nat) : List (Nat × Int) :=
  ((List.range (sensorCount (k / 16))).filter (fun i => decide (i ≠ k % 16))).filterMap (fun i =>
    (sensorAt s (k / 16) i).value.map (fun v => (i, v)))

/-- The least and greatest readings of the other sensors since a sensor has held its value. -/
def noteOthers (s : State) (k : Nat) (x : Sensor) : Sensor :=
  { x with others := (otherReadings s k).foldl (fun m o =>
      tabPut m o.1 (match tabGet x.others o.1 with
        | some (lo, hi) => (min lo o.2, max hi o.2)
        | none => (o.2, o.2))) x.others }

/-- A sensor has failed: open, out of range, out of its reference, or stuck for 60 s while another of its zone moved by 5 °C. -/
def sensorBad (now : Nat) (x : Sensor) : Bool :=
  x.failed || x.openRef
    || (match x.value with
        | some v => decide (v < -20 ∨ 150 < v)
        | none => false)
    || (decide (x.heldNs + 60000000000 ≤ now) && x.others.any (fun e => decide (e.2.1 + 5 ≤ e.2.2)))

/-- Judge a sensor at a sample. -/
def judgeSensor (s : State) (k : Nat) : State :=
  let x := noteOthers s k (sensorAt s (k / 16) (k % 16))
  s.onTherm (fun t => { t with sensors := tabPut t.sensors k { x with failed := sensorBad s.nowNs x } })

/-- Sensors that have failed. -/
def failedSensors (s : State) : List Nat := (s.therm.sensors.filter (fun e => e.2.failed)).map (·.1)

/-- Detail of a thermal event. -/
def thermDetail (s : State) (code z sensor level : Nat) : List Byte :=
  powerDetail s code z sensor level (celsius (tabGetD s.therm.zoneC z 0)) 0 0 (tickOf s (towerOfZone z))

/-- The reading of a zone: the highest of its unmasked sensors, a failed one counting as the zone's throttle level. -/
def zoneReading (s : State) (z : Nat) : Option Int :=
  ((List.range (sensorCount z)).filterMap (fun i =>
    let x := sensorAt s z i
    if masked s z i then none else if x.failed then some (throttleOf s (zoneKind z)) else x.value)).foldl
      (fun (a : Option Int) v => some (match a with
        | some m => max m v
        | none => v)) none

/-! ### Levels (R398) -/

/-- A level is reached, or held because the reading has not fallen 5 °C below it. -/
def levelOn (held : Bool) (threshold x : Int) : Bool := decide (threshold ≤ x) || (held && decide (threshold - 5 < x))

/-- The level of a zone at a reading. -/
def levelAt (s : State) (z old : Nat) (x : Int) : Nat :=
  let k := zoneKind z
  if levelOn (decide (3 ≤ old)) (shutdownOf k) x then 3
  else if levelOn (decide (2 ≤ old)) (throttleOf s k) x then 2
  else if levelOn (decide (1 ≤ old)) (warnOf s k) x then 1 else 0

/-- Thermal events are posted once the MC has started (R424). -/
def thermPost (code z level : Nat) (s : State) : State :=
  if 7 ≤ s.boot.stage then postNotice code 0 (thermDetail s code z 0xFF level) s else s

/-- Judge a zone: its reading and level, THERM_WARN on reaching warn, THERM_THROTTLE on reaching throttle. -/
def judgeZone (s : State) (z : Nat) : State :=
  match (if zoneOff s z then none else zoneReading s z) with
  | none => s.onTherm (fun t => { t with zoneC := tabDel t.zoneC z, level := tabDel t.level z })
  | some x =>
    let old := levelOf s z
    let new := levelAt s z old x
    let s1 := s.onTherm (fun t => { t with zoneC := tabPut t.zoneC z x, level := tabPut t.level z new })
    let s2 := if old = 0 ∧ new ≠ 0 then thermPost evThermWarn z 1 s1 else s1
    if old < 2 ∧ 2 ≤ new then thermPost evThermThrottle z 2 s2 else s2

/-! ### Clamps (R399) -/

/-- Zone of a tower's rafter. -/
def rafterZone (t : Tower) : Nat := towerNum t

/-- Throttle level of a zone at the last sample: what THERM.THRESH sets applies from the next (R402). -/
def throttleNow (s : State) (z : Nat) : Int := throttleBase.getD (zoneKind z) 0 - s.therm.clampThrottle.getD (zoneKind z) 0

/-- A zone reads at or above its throttle level. -/
def zoneHot (s : State) (z : Nat) : Bool := match tabGet s.therm.zoneC z with
  | some x => decide (throttleNow s z ≤ x)
  | none => false

/-- A zone reads below its throttle level less 5 °C. -/
def zoneCool (s : State) (z : Nat) : Bool := match tabGet s.therm.zoneC z with
  | some x => decide (x < throttleNow s z - 5)
  | none => true

/-- Clamped zones of a tower. -/
def clampsOf (s : State) (t : Tower) : List Nat := s.therm.clamped.filter (fun z => decide (towerOfZone z = t))

/-- Cap step of a zone, per mille, and when it last stepped. -/
def capOf (s : State) (z : Nat) : Nat × Nat := tabGetD s.therm.caps z (1000, 0)

/-- The lowest of the cap steps of a tower's zones (R404). -/
def lowestCap (s : State) (t : Tower) : Nat := ((clampsOf s t).map (fun z => (capOf s z).1)).foldl min 1000

/-- A zone that has reached throttle is clamped from now, first step 1 ms later (DEDUCED, log 42); clamps run from S10 (R418). -/
def engage (s : State) (z : Nat) : State :=
  if s.boot.stage = 10 ∧ 2 ≤ levelOf s z ∧ zoneHot s z ∧ !s.therm.clamped.contains z then
    let t := towerOfZone z
    s.onTherm (fun x => { x with
      clamped := x.clamped ++ [z]
      pointNs := if z = rafterZone t then x.pointNs.set t s.nowNs else x.pointNs
      caps := tabPut x.caps z (1000, s.nowNs) })
  else s

/-- The clamp of a zone has fully lifted. -/
def clampLifted (s : State) (z : Nat) : Bool :=
  let t := towerOfZone z
  zoneCool s z && decide ((capOf s z).1 = 1000) && (decide (z ≠ rafterZone t) || decide (s.gate.thermPoint.get t = 0))

/-- Lift a clamp whose steps have all eased: THERM_THROTTLE with level 0. -/
def lift (s : State) (z : Nat) : State :=
  if s.therm.clamped.contains z ∧ clampLifted s z then
    thermPost evThermThrottle z 0 (s.onTherm (fun t => { t with clamped := t.clamped.filter (· ≠ z), caps := tabDel t.caps z }))
  else s

def liftClamps (s : State) : State := s.therm.clamped.foldl lift s

/-- The cap after a step down and after a step of easing. -/
def capDown (c : Nat) : Nat := if 750 < c then 750 else if 500 < c then 500 else 250
def capUp (c : Nat) : Nat := if c < 500 then 500 else if c < 750 then 750 else 1000

/-- When the point clamp of a tower next steps, and to which point: one below the tower's point each 1 ms while the rafter is at throttle, one
back each 10 ms once it is cool. A clamp point the commanded point already reaches is lifted (log 42). -/
def pointStep (s : State) (t : Tower) : Option (Nat × Nat) :=
  let z := rafterZone t; let p := s.gate.thermPoint.get t
  let eased := if p - 1 ≤ s.gate.cmdPoint then 0 else p - 1
  if !s.therm.clamped.contains z then none
  else if zoneHot s z ∧ p < 5 then some (s.therm.pointNs.get t + 1000000, min 5 (max p (s.gate.point.get t) + 1))
  else if zoneCool s z ∧ p ≠ 0 then some (s.therm.pointNs.get t + 10000000, eased)
  else none

/-- When the cap step of a clamped zone next moves, and to what: down each 1 ms while the zone is at throttle, the rafter's only once it still
is 10 ms after its clamp reached point 5; up each 10 ms once the zone is cool. -/
def zoneStep (s : State) (t : Tower) (z : Nat) : Option (Nat × Nat) :=
  let (cap, last) := capOf s z
  if zoneHot s z ∧ 250 < cap then
    if z = rafterZone t then (s.therm.atFiveNs.get t).map (fun n => (max (n + 10000000) (last + 1000000), capDown cap))
    else some (last + 1000000, capDown cap)
  else if zoneCool s z ∧ cap < 1000 then some (last + 10000000, capUp cap)
  else none

/-- The zones of a tower whose cap step will move, each with when and to what. -/
def capSteps (s : State) (t : Tower) : List (Nat × Nat × Nat) := (clampsOf s t).filterMap (fun z => (zoneStep s t z).map (fun d => (z, d)))

/-- Trace of a thermal or power clamp change. -/
def traceThermal (t : Tower) (s : State) : State :=
  let z := (clampsOf s t).headD (rafterZone t)
  traceRec 4 t 7 (((jobOfTower s t).map (·.id)).getD 0) (tickOf s t)
    (leBytes evThermThrottle 2 ++ leBytes (levelOf s z) 1 ++ leBytes z 1 ++ leBytes (s.gate.point.get t) 1 ++ leBytes 0 3 ++ leBytes (capPm s t) 2
      ++ leBytes 0 6) s

/-- Take the point step that is due. -/
def stepPoint (t : Tower) (p : Nat) (s : State) : State :=
  { s with
    gate := { s.gate with thermPoint := s.gate.thermPoint.set t p }
    therm := { s.therm with
      pointNs := s.therm.pointNs.set t s.nowNs
      atFiveNs := s.therm.atFiveNs.set t (if p = 5 then some s.nowNs else none) } }

/-- A zone takes its cap step: the tower's cap is the lowest of its zones'. -/
def stepZone (t : Tower) (z c : Nat) (s : State) : State :=
  let s1 := s.onTherm (fun x => { x with caps := tabPut x.caps z (c, s.nowNs) })
  s1.onGate (fun g => { g with capTherm := g.capTherm.set t (lowestCap s1 t) })

/-- THERMAL_CLAMP_STEP: the next step of a tower's clamps, with every other that is due then. -/
def thermalClampStep (t : Tower) (s : State) : State :=
  let p := pointStep s t; let cs := capSteps s t
  match (p.map (·.1)).toList ++ cs.map (·.2.1) with
  | [] => s
  | d :: ds =>
    let s1 := s.timeTo (ds.foldl min d)
    let s2 := match p with
      | some a => if a.1 ≤ s1.nowNs then stepPoint t a.2 s1 else s1
      | none => s1
    let s3 := cs.foldl (fun st e => if e.2.1 ≤ s1.nowNs then stepZone t e.1 e.2.2 st else st) s2
    advanceItems (noteStatus s (liftClamps (traceThermal t (retarget t s3))))

def execThermalClampStep (t : Tower) (s : State) : Host.Outcome State Fault Refusal := .next (thermalClampStep t s)

/-! ### Shutdown (R400) and THERMAL_SAMPLE -/

/-- The package rail is off. -/
def railOff (s : State) : State := s.onMod (fun m => { m with rail := false, powerGood := false })

/-- Thermal shutdown: the rail goes off, THERMTRIP# is asserted, and the zone and its reading latch; everything else is lost. -/
def thermalShutdown (z : Nat) (s : State) : State :=
  let c := celsius (tabGetD s.therm.zoneC z 0)
  coldReset 5 false (((railOff s).onMod (fun m => { m with latch := some (z, c) })).emit (.thermtrip true))

/-- Refresh rate of a stack by its report (R222). -/
def stackRefresh (s : State) (i : Nat) : State :=
  let x := sensorAt s (10 + i) 0
  let set := fun (on : Bool) => s.onHbm (fun h => { h with hbmStacks := tabMod h.hbmStacks i (fun y => { y with refresh2x := on }) })
  if zoneOff s (10 + i) then s
  else if x.failed then set true
  else match x.value with
    | some v => if 85 ≤ v then set true else if v < 80 then set false else s
    | none => s

/-- Post SENSOR_FAILED for the sensors that failed at this sample; a failed sensor stays failed, so each posts once. -/
def postFailed (before : List Nat) (s : State) : State :=
  ((failedSensors s).filter (fun k => !before.contains k)).foldl (fun st k =>
    postNotice evSensorFailed 0 (thermDetail st evSensorFailed (k / 16) (k % 16) (levelOf st (k / 16))) st) s

/-- The levels of THERM.THRESH apply from this sample on (R402). -/
def thresholdsApply (s : State) : State := s.onTherm (fun t => { t with clampThrottle := t.lowerThrottle })

/-- THERMAL_SAMPLE: the sensors are read, their failures and the zones' levels judged; sensors the sample does not list keep their
reading (log 42). -/
def thermalSample (at_ : Nat) (reports : List SensorReport) (s : State) : State :=
  if !s.mod.rail || !s.boot.running || decide (s.boot.stage < 3) then s
  else
    let before := failedSensors s
    let s1 := reports.foldl applyReport (s.timeTo at_)
    let s2 := (s1.therm.sensors.map (·.1)).foldl judgeSensor s1
    let s3 := postFailed before ((List.range 26).foldl judgeZone (thresholdsApply s2))
    match (List.range 26).find? (fun z => decide (levelOf s3 z = 3)) with
    | some z => thermalShutdown z s3
    | none =>
      let s4 := (List.range 16).foldl stackRefresh ((List.range 26).foldl engage s3)
      topoTry (advanceItems (noteStatus s (retargetBoth (liftClamps s4))))

def execThermalSample (at_ : Nat) (reports : List SensorReport) (s : State) : Host.Outcome State Fault Refusal :=
  .next (thermalSample at_ reports s)

end Sys2Proof.Machine
end

