-- ==== Sys2Proof/Machine/Trust.lean ====
section
/-! DEFINITION. Firmware images and their commands, the identity key, attestation (15_trust.md R436 to R453). -/

namespace Sys2Proof.Machine

/-! ### The firmware image (R440, R441) -/

/-- Bytes of the image slot and of the staging buffer. -/
abbrev slotBytes : Nat := 25165824

/-- A section lies after the header and before the signature block. -/
def sectionOk (h : List Byte) (off sig : Nat) : Bool :=
  let o := fieldAt h off 4; let n := fieldAt h (off + 4) 4
  decide (256 ≤ o ∧ o + n ≤ sig)

/-- Two sections do not overlap. -/
def sectionsApart (h : List Byte) (a b : Nat) : Bool :=
  let x := fieldAt h a 4; let n := fieldAt h (a + 4) 4; let y := fieldAt h b 4; let m := fieldAt h (b + 4) 4
  decide (n = 0 ∨ m = 0 ∨ x + n ≤ y ∨ y + m ≤ x)

/-- Check 1 of Table 15.5: MAGIC, FORMAT, sizes, sections and reserved fields obey R440. -/
def imageHeaderOk (h : List Byte) : Bool :=
  let n := fieldAt h 8 4; let sig := fieldAt h 0x30 4; let k := fieldAt h 0x38 1
  decide (fieldAt h 0 4 = 0x594E5247 ∧ fieldAt h 4 2 = 1 ∧ 4096 ≤ n ∧ n ≤ slotBytes ∧ n % 256 = 0 ∧ fieldAt h 0xC 1 ≤ 64)
    && decide (sig + fieldAt h 0x34 4 = n ∧ k ≤ 4 ∧ fieldAt h 0x39 1 < 16) && zeroAt h 0xE 2 && zeroAt h 0x3A 2 && zeroAt h 0xE0 32
    && zeroAt h (0x40 + 32 * k) (128 - 32 * k)
    && sectionOk h 0x18 sig && sectionOk h 0x20 sig && sectionOk h 0x28 sig && decide (fieldAt h 0x24 4 ≤ 65536)
    && sectionsApart h 0x18 0x20 && sectionsApart h 0x18 0x28 && sectionsApart h 0x20 0x28

/-- The CRC of an image matches (check 2). -/
def imageCrcOk (img : List Byte) : Bool :=
  decide (crc32c (imageZeroed img 0x3C (fieldAt img 0x30 4) (fieldAt img 0x34 4)) = fieldAt img 0x3C 4)

/-- The key slot is not revoked and the signature block verifies (check 3). -/
def imageSigOk (s : State) (img : List Byte) : Bool :=
  let slot := fieldAt img 0xD 1; let off := fieldAt img 0x30 4
  decide (slot < 4) && !s.fuses.revoked.getLsbD slot && decide (fieldAt img (off + 4) 1 = slot)
    && blockVerifies (s.fuses.keyHash.getD slot []) img off (fieldAt img 0x34 4)

/-- SVN is at least SVN_FLOOR (check 4). -/
def imageSvnOk (s : State) (img : List Byte) : Bool := decide (s.fuses.svnFloor ≤ fieldAt img 0xC 1)

/-- Bytes of an image that a slot or the buffer holds: as its header counts them. -/
def imageBytes (m : Memory) : List Byte := memRead m 0 (min slotBytes (max 256 (fieldAt (memRead m 0 256) 8 4)))

/-- Boot verification: the failure code, 0 where the image may run (Table 15.5). -/
def bootVerify (s : State) : Nat :=
  let h := memRead s.flash.image 0 256
  if !imageHeaderOk h then 0x6001
  else
    let img := imageBytes s.flash.image
    if !imageCrcOk img then 0x6001 else if !imageSigOk s img then 0x6002 else if !imageSvnOk s img then 0x6003 else 0

/-- The digest that measures an image (R439). -/
def imageMeas (img : List Byte) : List Byte := imageDigest img (fieldAt img 0x30 4) (fieldAt img 0x34 4)

/-! ### FW.STAGE, FW.COMMIT, FW.VERSION, FW.ROLLBACK_COMMIT (R442 to R446) -/

/-- FW.STAGE. -/
def fwStage (c : Cmd) (s : State) : State :=
  let off := par c 0 4; let n := par c 4 4; let fl := par c 8 4
  let have_ := if bitOf fl 0 then 0 else s.trust.staged
  judged c
    [(decide (c.length < 16) || (decide (1 ≤ n ∧ n ≤ 4016) && decide (c.length ≠ 16 + n)), stBadLength),
     (hdrBad c || decide (n < 1 ∨ 4016 < n ∨ 2 ≤ fl ∨ off ≠ have_ ∨ slotBytes < off + n) || parRes c 0xC 4, stBadField),
     (decide (s.boot.stage < 6), stWrongState), (s.trust.writing.isSome, stBusy)]
    s
    (complete c stDone (leBytes (have_ + n) 4) (s.onTrust (fun t => { t with
      stage := memWrite (if bitOf fl 0 then [] else t.stage) off (sliceBytes c.params 0x10 n), staged := have_ + n })))

def execFwStage (mb : Nat) (s : State) : Host.Outcome State Fault Refusal := .next (runCmd 0x0A00 mb fwStage s)

/-- Result of FW.COMMIT. -/
def commitResult (img : List Byte) (ms : Nat) : List Byte :=
  imageMeas img ++ leBytes (fieldAt img 0xC 1) 1 ++ leBytes (fieldAt img 0xD 1) 1 ++ leBytes 0 2 ++ leBytes ms 4

/-- FW.COMMIT: the checks, then the slot is erased and its body written; FLASH_WRITE_END writes the header and completes. -/
def fwCommit (c : Cmd) (s : State) : State :=
  let n := par c 0 4; let fl := par c 4 4
  let img := imageBytes s.trust.stage
  judged c
    [(decide (c.length ≠ 16), stBadLength), (hdrBad c || decide (2 ≤ fl) || parRes c 8 8, stBadField),
     (decide (s.boot.stage < 6 ∨ s.trust.staged = 0), stWrongState), (s.trust.writing.isSome, stBusy),
     (decide (n ≠ s.trust.staged ∨ n ≠ fieldAt img 8 4) || !imageHeaderOk img || !imageCrcOk img, stBadField),
     (!imageSigOk s img, stSigInvalid), (!imageSvnOk s img, stRollback)]
    s
    (if bitOf fl 0 then complete c stDone (commitResult img 0) s
     else ((markStarted c s).onFlash (fun f => { f with image := s.trust.stage.filter (fun e => decide (256 ≤ e.1)) })).onTrust (fun t => { t with
       writing := some { mb := c.mb, startNs := s.nowNs } }))

def execFwCommit (mb : Nat) (s : State) : Host.Outcome State Fault Refusal := .next (runCmd 0x0A01 mb fwCommit s)

/-- FLASH_WRITE_END: the header is in place and the readback matches, or the write failed and the slot stays without a header. WRITE_MS is
open within the 90 s bound (log 48). -/
def flashWriteEnd (ok : Bool) (s : State) : State :=
  match s.trust.writing with
  | none => s
  | some w =>
    let s1 := s.onTrust (fun t => { t with writing := none })
    let s2 := if ok then s1.onFlash (fun f => { f with image := s1.trust.stage }) else s1
    match startedCmd s2 w.mb 0x0A01 with
    | some c =>
      if ok then complete c stDone (commitResult (imageBytes s2.trust.stage) (Config.duration s2.freeCtr % 90001)) s2
      else complete c stDeviceFault [] s2
    | none => s2

def execFlashWriteEnd (ok : Bool) (s : State) : Host.Outcome State Fault Refusal := .next (flashWriteEnd ok s)

/-- A field of the running image's header, 0 under the ROM. -/
def runField (s : State) (off n : Nat) : Nat := if s.trust.runHeader = [] then 0 else fieldAt s.trust.runHeader off n

/-- The leaf record that counts (R449). -/
def leafNow (f : FlashSt) : Option LeafRec :=
  if f.leafA.valid ∧ (!f.leafB.valid ∨ f.leafB.seq ≤ f.leafA.seq) then some f.leafA else if f.leafB.valid then some f.leafB else none

/-- Leaves left in the block in use. -/
def blockLeft (s : State) : Nat := match leafNow s.flash with
  | some r => if r.block + 1 = s.fuses.idBlocks then 256 - r.next else 0
  | none => 0

/-- Top-tree leaves not used. -/
def leavesLeft (s : State) : Nat := (4096 - s.fuses.idBlocks) * 256 + blockLeft s

/-- FW.VERSION: ROM_VERSION is open (log 48). -/
def fwVersion (c : Cmd) (s : State) : State :=
  let rom := decide (s.trust.runHeader = [])
  let slot := memRead s.flash.image 0 256
  judged c [(decide (c.length ≠ 0), stBadLength), (hdrBad c, stBadField)] s
    (complete c stDone
      (leBytes (runField s 0x10 8) 8 ++ leBytes (runField s 0xC 1) 1 ++ leBytes (if rom then 0xFF else runField s 0xD 1) 1
        ++ leBytes (Config.openField 0) 2
        ++ leBytes ((if rom then 1 else 0) + (if imageHeaderOk slot then 2 else 0) + (if runField s 0x38 1 = 0 then 0 else 4)) 4
        ++ sliceBytes slot 0x10 8 ++ sliceBytes slot 0xC 1 ++ leBytes s.fuses.svnFloor 1 ++ leBytes s.fuses.revoked.toNat 1 ++ leBytes 0 1
        ++ leBytes (if rom then 0 else leavesLeft s) 4 ++ sliceBytes s.trust.fwMeas 0 32 ++ s.fuses.keyHash.flatMap (fun k => sliceBytes k 0 32)) s)

def execFwVersion (mb : Nat) (s : State) : Host.Outcome State Fault Refusal := .next (runCmd 0x0A02 mb fwVersion s)

/-- FW.ROLLBACK_COMMIT: raise SVN_FLOOR to the running image's SVN, and blow the REVOKED bits it names. Counters never decrease (R437). -/
def fwRollbackCommit (c : Cmd) (s : State) : State :=
  let svn := par c 0 1; let fl := par c 1 1
  let kill := if bitOf fl 0 then runField s 0x39 1 else 0
  let rev := s.fuses.revoked ||| BitVec.ofNat 4 kill
  judged c
    [(decide (c.length ≠ 8), stBadLength),
     (hdrBad c || decide (2 ≤ fl ∨ svn ≠ runField s 0xC 1) || parRes c 2 6
        || (bitOf fl 0 && (bitOf kill (runField s 0xD 1) || decide (rev = 0xF#4))), stBadField),
     (decide ((memGet s.flash.image 0xC).toNat < svn), stWrongState)]
    s
    (let s1 := s.onFuses (fun f => { f with svnFloor := max f.svnFloor svn, revoked := rev })
     complete c stDone (leBytes s1.fuses.svnFloor 1 ++ leBytes s1.fuses.revoked.toNat 1 ++ leBytes 0 6) s1)

def execFwRollbackCommit (mb : Nat) (s : State) : Host.Outcome State Fault Refusal := .next (runCmd 0x0802 mb fwRollbackCommit s)

/-! ### The identity key (R448 to R450) -/

/-- Take the next top leaf: a block is reserved in fuses when the record names none, and the record of the leaf after it is written to the
older copy before the leaf signs. None where no leaf is left. -/
def takeLeaf (s : State) : Option (Nat × State) :=
  let f := s.flash
  let now := leafNow f
  let seq := (now.map (·.seq)).getD 0 + 1
  let write := fun (block next : Nat) (st : State) => st.onFlash (fun g =>
    let r : LeafRec := { seq := seq, block := block, next := next, valid := true }
    if g.leafA.valid ∧ (!g.leafB.valid ∨ g.leafB.seq ≤ g.leafA.seq) then { g with leafB := r } else { g with leafA := r })
  if 0 < blockLeft s then
    match now with
    | some r => some (256 * r.block + r.next, write r.block (r.next + 1) s)
    | none => none
  else if s.fuses.idBlocks < 4096 then
    some (256 * s.fuses.idBlocks, write s.fuses.idBlocks 1 (s.onFuses (fun u => { u with idBlocks := u.idBlocks + 1 })))
  else none

/-- Generate a second-level key, signed by one top leaf (R450). Nothing happens when no leaf is left. -/
def newKey (s : State) : State :=
  match takeLeaf s with
  | some (q, s1) => s1.onTrust (fun t => { t with key2 := some (t.key2Count + 1, q, 0), key2Count := t.key2Count + 1 })
  | none => s.onTrust (fun t => { t with key2 := none })

/-- The HSS signature of a quote: levels, the top signature, the second-level public key, its signature (R450, RFC 8554). The hash values
are open: the private keys and randomizers are the engine's own (log 19). -/
def hssSignature (gen top used : Nat) : List Byte :=
  let free := fun (a b n : Nat) => (List.range n).map (fun i => Config.sigByte (4 * gen + a) b i)
  beBytes 1 4 ++ beBytes top 4 ++ beBytes 4 4 ++ free 0 top 1120 ++ beBytes 8 4 ++ free 1 top 640
    ++ beBytes 6 4 ++ beBytes 4 4 ++ (List.range 48).map (fun i => Config.keyByte gen i)
    ++ beBytes used 4 ++ beBytes 4 4 ++ free 2 used 1120 ++ beBytes 6 4 ++ free 3 used 320

/-- ID_CACHE_REBUILD_END: the cache is whole, and the key the start needs is generated. -/
def idCacheRebuildEnd (s : State) : State :=
  if s.trust.rebuilding then newKey (s.onTrust (fun t => { t with rebuilding := false })) else s

def execIdCacheRebuildEnd (s : State) : Host.Outcome State Fault Refusal := .next (idCacheRebuildEnd s)

/-! ### Measurements and quotes (R451, R452) -/

/-- The stored settings of CELLAR.CONFIG in its parameter layout (Table 7.6). -/
def cellarSettings (f : FlashSt) : List Byte :=
  leBytes 0 4 ++ leBytes (if f.globalHoming then 1 else 0) 1 ++ leBytes 0 3 ++ leBytes f.rate 1 ++ leBytes 0 7
    ++ [f.cellar.t0, f.cellar.t1, f.mirror.t0, f.mirror.t1].flatMap (fun r => leBytes r.base 8 ++ leBytes r.bytes 8)

/-- The stored port settings in the parameter layout of FAB.PORTS (R322). -/
def portSettings (p : PortCfg) : List Byte :=
  leBytes 0 4 ++ leBytes p.encap 1 ++ leBytes p.payload 1 ++ leBytes p.etherType 2 ++ leBytes p.udpPort 2 ++ leBytes p.vlan 2 ++ leBytes p.pfcMask 1
    ++ leBytes 0 3 ++ p.dscp.flatMap (fun d => leBytes d 1) ++ p.pcp.flatMap (fun d => leBytes d 1) ++ leBytes p.pfx 8
    ++ p.modes.flatMap (fun m => leBytes m 1) ++ leBytes 0 4 ++ p.gateways.flatMap (fun g => leBytes g 6)

/-- The stored masks, one SENSOR.MASK block for each masked sensor (R403). -/
def maskSettings (m : Tab Nat) : List Byte :=
  m.flatMap (fun e => ((List.range 16).filter (fun i => bitOf e.2 i)).flatMap (fun i => leBytes e.1 1 ++ leBytes i 1 ++ leBytes 0 6))

/-- CONFIG_MEAS. SVN_FLOOR, REVOKED and KERNEL_KEYS are one byte each, as in Tables 15.4 and 15.6; FLAGS, controller modes and REFRESH, which are
not stored, are 0 (DEDUCED, log 48). -/
def configMeas (s : State) : List Byte :=
  sha256 (leBytes s.fuses.svnFloor 1 ++ leBytes s.fuses.revoked.toNat 1 ++ leBytes (runField s 0x38 1) 1 ++ sliceBytes s.trust.runHeader 0x40 128
    ++ cellarSettings s.flash ++ portSettings (s.flash.ports.getD PortCfg.factory) ++ maskSettings s.flash.masks)

/-- The signed body of a quote (Table 15.7, bytes 0x00 to 0xD7). -/
def quoteBody (s : State) (job : Nat) (nonce : List Byte) : List Byte :=
  leBytes 0x544F5551 4 ++ leBytes 1 2 ++ leBytes job 2 ++ leBytes s.fuses.serial 8 ++ leBytes s.flash.bootCount 4 ++ leBytes (runField s 0xC 1) 1
    ++ leBytes s.fuses.svnFloor 1 ++ leBytes s.fuses.revoked.toNat 1 ++ leBytes 0 1 ++ leBytes s.nowNs 8 ++ sliceBytes nonce 0 32
    ++ sliceBytes s.trust.fwMeas 0 32 ++ sliceBytes s.trust.runtimeMeas 0 32 ++ configMeas s
    ++ (if job = 0 then leBytes 0 32 else sliceBytes (((jobAt s job).map (·.kernelLog)).getD []) 0 32) ++ leBytes (runField s 0x10 8) 8
    ++ leBytes 3284 4 ++ leBytes 0 12

/-- A second-level key with a signature left, generated if none is. -/
def readyKey (s : State) : State := match s.trust.key2 with
  | some (_, _, n) => if n < 1024 then s else newKey s
  | none => newKey s

/-- ATTEST.QUOTE; a key that has made its last signature is followed by a new one (R450). -/
def attestQuote (c : Cmd) (s : State) : State :=
  judged c
    [(decide (c.length ≠ 40), stBadLength), (hdrBad c || parRes c 0x20 8 || (decide (c.job ≠ 0) && (jobAt s c.job).isNone), stBadField),
     (s.trust.rebuilding, stBusy), ((readyKey s).trust.key2.isNone, stNoSpace)]
    s
    (let s1 := readyKey s
     match s1.trust.key2 with
     | some (gen, top, n) =>
       complete c stDone (quoteBody s1 c.job (sliceBytes c.params 0 32) ++ hssSignature gen top n)
         (readyKey (s1.onTrust (fun t => { t with key2 := some (gen, top, n + 1) })))
     | none => s1)

def execAttestQuote (mb : Nat) (s : State) : Host.Outcome State Fault Refusal := .next (runCmd 0x0800 mb attestQuote s)

/-- ATTEST.CERT: the certificate of Table 15.8, or DEVICE_FAULT where it cannot be read. -/
def attestCert (c : Cmd) (s : State) : State :=
  judged c [(decide (c.length ≠ 0), stBadLength), (hdrBad c, stBadField), (s.flash.cert.isNone, stDeviceFault)] s
    (complete c stDone ((s.flash.cert.getD []).take 4032) s)

def execAttestCert (mb : Nat) (s : State) : Host.Outcome State Fault Refusal := .next (runCmd 0x0801 mb attestCert s)

end Sys2Proof.Machine
end

