-- ==== Sys2Proof/Machine/Bringup.lean ====
section
/-! DEFINITION. The bring-up stages, defect maps, identity memories and BRINGUP.REPORT (14_bringup.md R415 to R434). -/

namespace Sys2Proof.Machine

/-! ### The work of the stages (R419 to R429) -/

/-- Defects of a kind in a tower, of both maps (Table 14.8). -/
def defectsOf (s : State) (kind : Nat) (t : Tower) : List Nat :=
  ((s.fuses.defects ++ s.flash.defects).filter (fun d => decide (d.kind = kind ∧ d.tower = towerNum t))).map (·.index)

/-- A pending shutdown test record is applied: each core that failed enters the flash map (R463). -/
def applyTestRecord (f : FlashSt) : FlashSt :=
  if f.testState = 1 then
    { f with testState := 2, defects := f.defects ++ f.testFailed.map (fun x => ⟨1, true, towerNum x.1, 5, x.2, 1⟩) }
  else f

/-- Physical cores of a tower that neither map names (R419). -/
def coresLeft (s : State) (t : Tower) : List Nat := (List.range 136).filter (fun p => !(defectsOf s 1 t).contains p)

/-- Bank columns of a tower that either map names. -/
def columnsOut (s : State) (t : Tower) : List Nat := (List.range 512).filter (fun c => (defectsOf s 3 t).contains c)

/-- The minimum configuration (R417). -/
def minimumMet (s : State) : Bool :=
  bothTowers.all (fun t => decide (96 ≤ (enabledCores s t).length ∧ (s.loft.tw.get t).retired.length ≤ 64))

/-- A module or carrier EEPROM is readable: MAGIC, FORMAT and CRC (Tables 14.9 and 14.10). -/
def eepromOk (magic : Nat) (e : List Byte) : Bool :=
  decide (e.length = 256 ∧ fieldAt e 0 4 = magic ∧ fieldAt e 4 1 = 1 ∧ crc32c (e.take 252) = fieldAt e 0xFC 4)

/-- The code of a failed minimum, else 0. -/
def minimumCode (code : Nat) (s : State) : Nat := if minimumMet s then 0 else code

/-- What a stage's work leaves: the state, a failure code and the units it mapped out. -/
structure StageWork where
  st : State
  code : Nat
  mapped : Nat
deriving DecidableEq, Repr

/-- S1: the test record, the merged defect maps, the module EEPROM. -/
def stage1 (s : State) : StageWork :=
  let s1 := s.onFlash applyTestRecord
  let s2 := { s1 with
    boot := { s1.boot with coreMap := ⟨coresLeft s1 .t0, coresLeft s1 .t1⟩ }
    loft := { s1.loft with tw := ⟨{ s1.loft.tw.t0 with retired := columnsOut s1 .t0 }, { s1.loft.tw.t1 with retired := columnsOut s1 .t1 }⟩ } }
  { st := s2
    code := if eepromOk 0x4D5A4441 s.flash.moduleEeprom then minimumCode 0x1003 s2 else 0x1004
    mapped := 272 - s2.boot.coreMap.t0.length - s2.boot.coreMap.t1.length + s2.loft.tw.t0.retired.length + s2.loft.tw.t1.retired.length }

/-- S2: the PCIe link is up, at a rate and width the link partners agree on (log 41). -/
def stage2 (s : State) : StageWork :=
  { st := (s.onHost (fun h => { h with pcie := { h.pcie with
      linkUp := true, linkRate := 1 + Config.openField s.freeCtr % 7, linkWidth := 2 ^ (Config.openField (s.freeCtr + 1) % 5) } })).draw.draw
    code := 0, mapped := 0 }

/-- S3: the regulators of a closed tower measure again under a test load (R404). The manual does not name the stage: the regulators start at
S3 (DEDUCED, log 69). -/
def stage3 (drops : List (Nat × Nat)) (s : State) : StageWork :=
  { st := bothTowers.foldl (fun st t => remeasure drops t st) s, code := 0, mapped := 0 }

/-- S4: spare assignments and retired groups from flash; a group that fails training is retired (R421). -/
def stage4 (failed : List GroupRef) (s : State) : StageWork :=
  let s1 := s.onVl (fun v => { v with groups := s.flash.groups })
  let s2 := failed.foldl (fun st g => retireGroup g 4 0xFF st) s1
  { st := s2, code := minimumCode 0x4001 s2, mapped := failed.length }

/-- A line that failed its march test at S5: a line entry, or its bank column out of service when the die has no free entry (R422). -/
def bootLine (s : State) (l : Nat × Nat × Nat) : State :=
  let die := l.1; let bank := l.2.1; let t := towerOf (die / 2)
  if (tabGet s.loft.lineTable (lineKey die bank l.2.2)).isSome then s
  else if 64 ≤ (lineEntries s die).length then
    (if (s.loft.tw.get t).retired.contains bank then s
     else (retireColumn t bank s).1.onFlash (fun f => { f with defects := f.defects ++ [⟨3, true, towerNum t, 0xFF, bank, 2⟩] }))
  else (addLine 4 die bank l.2.2 s).2

/-- HBM bytes outside the lost stacks: a lost stack's contents are not guaranteed, and are as after power-on (R413, log 3). -/
def dropLost (s : State) : State :=
  let lost := fun (a : Nat) => ((tabGet s.hbm.hbmStacks (locOf s a).stack).map (·.lost)).getD false
  s.onHbm (fun h => { h with
    mem := h.mem.filter (fun e => !lost e.1)
    marks := h.marks.filter (fun e => !lost (e.1 * 64)) })

/-- S5: the lofts are zero, the tables reloaded, failed lines repaired; the stacks are trained at the rate they all passed, their failed pins
repaired, refresh at the 2× rate (R422, R423). -/
def stage5 (r : StageEnd) (s : State) : StageWork :=
  let s1 := s.onLoft (fun x => { x with lineTable := s.flash.lineTable, bulk := [], bays := [], pinMem := [], pinPoison := [], flips := [] })
  let out := s1.loft.tw.t0.retired.length + s1.loft.tw.t1.retired.length
  let s2 := dropLost (r.failedLines.foldl bootLine s1)
  let rate := min r.rate s.flash.rate
  let s3 := { s2 with
    hbm := { s2.hbm with
      rate := rate, failedPins := [], repairs := s2.flash.repairs
      retiredPages := s2.flash.retiredPages.map (fun e => (e.1, (true, e.2.2)))
      badSpares := r.badSpares.foldl (fun m b => tabPut m b.1 (tabGetD m b.1 [] ++ [b.2])) []
      hbmStacks := (List.range 16).map (fun i => (i, { Stack.fresh with confirmed := true })) }
    boot := { s2.boot with rateFallback := decide (rate < s2.flash.rate), calHeld := false } }
  { st := s3, code := minimumCode 0x5003 s3, mapped := s3.loft.tw.t0.retired.length + s3.loft.tw.t1.retired.length - out }

/-- The MC's first acts (R424): BOOT_COUNT, a latched shutdown's cause, the stored configuration of Table 14.14. -/
def mcStart (s : State) : State :=
  let r := s.boot.report
  let s1 := { s with
    flash := { s.flash with
      bootCount := (s.flash.bootCount + 1) % 2 ^ 32
      thermCause := if r.thermZone = 0xFF then s.flash.thermCause else some r.thermZone }
    host := { s.host with mcRuns := true, heartbeatNs := s.nowNs }
    therm := { s.therm with masks := s.flash.masks } }
  let s2 := if r.thermZone = 0xFF then s1
    else postDeviceFault evThermShutdown (powerDetail s1 evThermShutdown r.thermZone 0xFF 3 r.thermC 0 0 0) s1
  (rehome s2.flash.globalHoming s2).onHbm (fun h => { h with cellar := s2.flash.cellar, mirror := s2.flash.mirror })

/-- S6: the image is verified and measured, the MC starts, the identity key is made ready (R424, R441, R448). The staged copy of the image in the
MC firmware region is not read again. -/
def stage6 (rebuild : Bool) (s : State) : StageWork :=
  let code := bootVerify s
  if code ≠ 0 then { st := s, code := code, mapped := 0 }
  else
    let img := imageBytes s.flash.image
    let s1 := mcStart ((s.onTrust (fun t => { t with
      fwMeas := imageMeas img, runHeader := img.take 256, rebuilding := rebuild })).onBoot (fun b => { b with recovery := false }))
    { st := if rebuild then s1 else newKey s1, code := 0, mapped := 0 }

/-- S7: the core runtime is in every core; cores that fail its check are mapped out (R425). -/
def stage7 (failed : List (Tower × Nat)) (s : State) : StageWork :=
  let gone := (coresInService s).filter (fun x => failed.contains x)
  let img := imageBytes s.flash.image
  let s1 := mapOutCores 2 failed ((s.onCores (fun x => { x with runtime := ⟨true, true⟩ })).onTrust (fun t => { t with
    runtimeMeas := sha256 (sliceBytes img (fieldAt img 0x20 4) (min 65536 (fieldAt img 0x24 4))) }))
  { st := s1, code := minimumCode 0x7001 s1, mapped := gone.length }

/-- S8 begins: the carrier EEPROM is read, the stored port settings apply, or the factory settings, and the ports start (R428, R429). -/
def enterS8 (s : State) : State :=
  match s.flash.carrierEeprom with
  | some e =>
    if eepromOk 0x435A4441 e then
      startPorts { s with
        boot := { s.boot with carrierRead := true, factoryPorts := s.flash.ports.isNone }
        fab := { s.fab with cfg := s.flash.ports.getD PortCfg.factory } }
    else s.onBoot (fun b => { b with failed := true, code := 0x8001 })
  | none => s.onBoot (fun b => { b with failed := true, code := 0x8001 })

/-- S8 ends: the ports still training have ended their first attempt. -/
def stage8 (up : List Nat) (s : State) : StageWork :=
  { st := (s.fab.ports.filter (fun e => decide (e.2.link = .training))).foldl (fun st e => portTrainingEnd e.1 (up.contains e.1) st) s
    code := 0, mapped := 0 }

/-- The work of the running stage. -/
def stageWork (r : StageEnd) (s : State) : StageWork :=
  match s.boot.stage with
  | 1 => stage1 s
  | 2 => stage2 s
  | 3 => stage3 r.drops s
  | 4 => stage4 r.failedGroups s
  | 5 => stage5 r s
  | 6 => stage6 r.rebuildIdCache s
  | 7 => stage7 r.failedCores s
  | 8 => stage8 r.portsUp s
  | _ => { st := s, code := 0, mapped := 0 }

/-! ### BRINGUP_STAGE_END (R415, R416) -/

/-- A code of Table 14.6 names its stage in its top digit. -/
def codeStage (code : Nat) : Nat := code / 4096

/-- The stage fails and holds (R416). -/
def stageFail (code mapped : Nat) (s : State) : State :=
  noteStatus s (s.onBoot (fun b => { b with
    failed := true, code := code, stages := tabPut b.stages b.stage ⟨b.elapsedUs, 0, code, mapped⟩ }))

/-- The next stage begins: the ROM serves mailbox 0 from S2 (R370), ports start at S8, S9 judges a held FAB.TOPO_EXPECT (R432). -/
def stageNext (mapped : Nat) (s : State) : State :=
  let now := s.nowNs / 1000
  let n := s.boot.stage + 1
  let s1 := noteStatus s (s.onBoot (fun b => { b with
    stage := n
    stages := tabPut (tabPut b.stages b.stage ⟨b.elapsedUs, now - b.elapsedUs, 0, mapped⟩) n ⟨now, 0, 0, 0⟩
    elapsedUs := now, recovery := b.recovery || decide (n = 2) }))
  if n = 8 then
    let s2 := enterS8 s1
    if s2.boot.failed then stageFail s2.boot.code 0 s2 else s2
  else if n = 9 then topoTry s1 else s1

/-- BRINGUP_STAGE_END: the running stage's work ends, in success or with a failure code. -/
def bringupStageEnd (r : StageEnd) (s : State) : State :=
  if !s.boot.running || s.boot.failed || decide (9 ≤ s.boot.stage) || stageWaits s || decide (r.code ≠ 0 ∧ codeStage r.code ≠ s.boot.stage) then s
  else
    let s1 := s.timeTo ((s.boot.elapsedUs + r.durationUs) * 1000)
    if r.code ≠ 0 then stageFail r.code 0 s1
    else
      let w := stageWork r s1
      if w.code ≠ 0 then stageFail w.code w.mapped w.st else stageNext w.mapped w.st

def execBringupStageEnd (r : StageEnd) (s : State) : Host.Outcome State Fault Refusal := .next (bringupStageEnd r s)

/-! ### BRINGUP.REPORT (R434) -/

/-- The reset report (Table 14.13). -/
def resetReportBytes (r : ResetReport) : List Byte :=
  leBytes r.level 1 ++ leBytes r.source 1 ++ leBytes r.untrusted 1 ++ leBytes r.thermZone 1 ++ leBytes r.stacksLost 2 ++ leBytes 0 2
    ++ leBytes r.discarded.t0 4 ++ leBytes r.discarded.t1 4 ++ leBytes r.cellarDisc.t0 4 ++ leBytes r.cellarDisc.t1 4
    ++ leBytes r.faulted 4 ++ leBytes r.writesDropped 4 ++ leBytes 0 32

/-- The result of BRINGUP.REPORT. -/
def bringupResult (s : State) : List Byte :=
  let b := s.boot
  let bit := fun (x : Bool) (n : Nat) => if x then n else 0
  leBytes b.stage 1 ++ leBytes (bit b.failed 1 + bit b.recovery 2 + bit b.cold 4 + bit b.factoryPorts 8 + bit b.rateFallback 16) 1 ++ leBytes b.code 2
    ++ leBytes s.flash.bootCount 4 ++ leBytes s.hbm.rate 1 ++ leBytes 0 7
    ++ (List.range 11).flatMap (fun i =>
      let r := tabGetD b.stages i ⟨0, 0, 0, 0⟩
      leBytes r.startUs 4 ++ leBytes r.durationUs 4 ++ leBytes r.code 2 ++ leBytes r.mappedOut 2 ++ leBytes 0 4)
    ++ resetReportBytes b.report

/-- BRINGUP.REPORT. -/
def bringupReport (c : Cmd) (s : State) : State :=
  judged c [(decide (c.length ≠ 0), stBadLength), (hdrBad c, stBadField)] s (complete c stDone (bringupResult s) s)

def execBringupReport (mb : Nat) (s : State) : Host.Outcome State Fault Refusal := .next (runCmd 0x0701 mb bringupReport s)

/-! ### FUSE.READ (R420) -/

/-- An entry (Table 14.7). -/
def defectBytes (d : Defect) : List Byte :=
  leBytes d.kind 1 ++ leBytes (if d.flash then 1 else 0) 1 ++ leBytes d.tower 1 ++ leBytes d.die 1 ++ leBytes d.index 2 ++ leBytes d.sub 2

/-- FUSE.READ: the fuse map's entries, then the flash map's. -/
def fuseRead (c : Cmd) (s : State) : State :=
  let start := par c 0 4; let fl := par c 4 1
  let all := (if fl = 2 then [] else s.fuses.defects) ++ (if fl = 1 then [] else s.flash.defects)
  let out := (all.drop start).take 502
  judged c [(decide (c.length ≠ 8), stBadLength), (hdrBad c || decide (2 < fl) || parRes c 5 3, stBadField)] s
    (complete c stDone (leBytes all.length 4 ++ leBytes out.length 4 ++ leBytes 0 8 ++ out.flatMap defectBytes) s)

def execFuseRead (mb : Nat) (s : State) : Host.Outcome State Fault Refusal := .next (runCmd 0x0703 mb fuseRead s)

/-! ### IDENT.READ (R430) -/

/-- What an identity memory gives: present, CRC valid, the copy's time, the bytes. -/
structure Ident where
  present : Bool
  crcOk : Bool
  readNs : Nat
  bytes : Nat → Byte

/-- End of a stage, ns from time zero. -/
def stageEndNs (s : State) (i : Nat) : Nat :=
  let r := tabGetD s.boot.stages i ⟨0, 0, 0, 0⟩
  (r.startUs + r.durationUs) * 1000

/-- Key of a cable module's byte: the lower page at 0 to 127, upper pages by bank and page. -/
def cmisKey (bank page off : Nat) : Nat := if off < 128 then off else (bank * 256 + page) * 256 + off

/-- The copy of a cable module covers the lower page and upper pages 00h, 01h, 02h, 10h and 11h. -/
def cmisCopied (bank page off n : Nat) : Bool := decide (off + n ≤ 128) || (decide (bank = 0) && [0, 1, 2, 0x10, 0x11].contains page)

/-- The copy, or the live reading, that a source gives; none where it has not been read since time zero. Whether a stack's or a cable module's
CRC is valid the manual leaves open (log 47). -/
def identOf (s : State) (src idx bank page off n : Nat) (live : Option CmisReport) : Option Ident :=
  let free := decide (Config.openField s.freeCtr % 2 = 1)
  let absent : Ident := { present := false, crcOk := false, readNs := s.nowNs, bytes := fun i => Config.leftByte s.freeCtr i }
  if src = 0 then
    if 2 ≤ s.boot.stage then some { present := true, crcOk := eepromOk 0x4D5A4441 s.flash.moduleEeprom, readNs := stageEndNs s 1, bytes := fun i => s.flash.moduleEeprom.getD i 0#8 }
    else none
  else if src = 1 then
    (if s.boot.stage < 8 then none
     else match s.flash.carrierEeprom with
       | some e => some { present := true, crcOk := eepromOk 0x435A4441 e, readNs := stageEndNs s 7, bytes := fun i => e.getD i 0#8 }
       | none => some absent)
  else if src = 2 then
    (if 6 ≤ s.boot.stage then some { present := true, crcOk := free, readNs := stageEndNs s 5, bytes := fun i => (tabGetD s.flash.stackId idx []).getD i 0#8 } else none)
  else if s.boot.stage < 8 then none
  else if !hasCage s idx then some absent
  else match live with
    | some r =>
      if r.present then some { present := true, crcOk := free, readNs := s.nowNs, bytes := fun i => ((r.bytes.find? (fun b => b.1 = cmisKey bank page i)).map (·.2)).getD 0#8 }
      else some absent
    | none => match tabGet s.fab.cmisNs idx with
      | none => none
      | some k => match tabGet s.fab.cmis idx with
        | none => some { absent with readNs := k }
        | some m => if cmisCopied bank page off n then some { present := true, crcOk := free, readNs := k, bytes := fun i => memGet m (cmisKey bank page i) } else none

/-- IDENT.READ. For SOURCE 0 to 2, whose memories Table 14.11 does not say can be read now, LIVE is ignored (DESIGN CHOICE, log 68). -/
def identRead (r : CmisReport) (c : Cmd) (s : State) : State :=
  let src := par c 0 1; let idx := par c 1 1; let fl := par c 2 1; let page := par c 3 1; let bank := par c 4 1
  let off := par c 6 2; let n := par c 8 2
  let live := decide (src = 3) && bitOf fl 0
  let id := identOf s src idx bank page off n (if live then some r else none)
  judged c
    [(decide (c.length ≠ 16), stBadLength),
     (hdrBad c || decide (3 < src ∨ 2 ≤ fl ∨ 255 < off ∨ n < 1 ∨ 256 < off + n) || parRes c 5 1 || parRes c 0xA 6
        || (if src = 2 then decide (15 < idx ∨ 16 < off + n) else if src = 3 then decide (5 < idx) else decide (idx ≠ 0))
        || (decide (src ≠ 3) && (decide (page ≠ 0) || decide (bank ≠ 0))), stBadField),
     (id.isNone, stWrongState)]
    s
    (match id with
     | some x =>
       complete c stDone
         (leBytes n 2 ++ leBytes ((if x.present then 1 else 0) + (if x.crcOk then 2 else 0) + (if live ∧ x.present then 4 else 0)) 1 ++ leBytes 0 1
           ++ leBytes (min 0xFFFFFFFF ((s.nowNs - x.readNs) / 1000000)) 4 ++ leBytes 0 8 ++ (List.range n).map (fun i => x.bytes (off + i))) s
     | none => s)

def execIdentRead (mb : Nat) (live : CmisReport) (s : State) : Host.Outcome State Fault Refusal := .next (runCmd 0x0702 mb (identRead live) s)

end Sys2Proof.Machine
end

