-- ==== Sys2Proof/Machine/Module.lean ====
section
/-! DEFINITION. Power sequencing, MODULE_OFF, I3C addressing and telemetry, the test access port (17_module.md R478 to R489; 14_bringup.md
R415, R431; 13_power.md R400). -/

namespace Sys2Proof.Machine

/-! ### Power sequencing (R415, R488, R489) -/

/-- Time zero of bring-up: the latest of power-good, the deassertion of PERST# and PWR_EN. The tick time base restarts (R413). -/
def timeZero (s : State) : State :=
  let m := s.mod
  if m.rail ∧ m.powerGood ∧ m.pwrEn ∧ !m.perst ∧ !s.boot.running then
    { s with
      nowNs := 0
      boot := { s.boot with running := true, elapsedUs := 0, stages := [] } }
  else s

/-- The package rail is enabled: PWR_EN is acted on with standby and input good, no latch and no MODULE_OFF in force (R488). -/
def railOn (s : State) : State :=
  let m := s.mod
  if m.input = .good ∧ m.pwrEn ∧ m.latch = none ∧ !m.moduleOff then s.onMod (fun x => { x with rail := true }) else s

/-- The package rail goes off: a COLD reset where it was on. -/
def railLost (source : Nat) (s : State) : State := if s.mod.rail then coldReset source false (railOff s) else s

/-- INPUT_RISE: the input rises above 46 V and standby comes up; a start is reported as SOURCE 4. -/
def inputRise (s : State) : State :=
  if s.mod.input = .off then railOn (coldReset 4 false (s.onMod (fun m => { m with input := .good }))) else s

def execInputRise (s : State) : Host.Outcome State Fault Refusal := .next (inputRise s)

/-- PWR_EN_ASSERT: PWR_EN having been deasserted, MODULE_OFF is over (R484). -/
def pwrEnAssert (s : State) : State :=
  if s.mod.pwrEn then s
  else
    let s1 := s.onMod (fun m => { m with pwrEn := true, moduleOff := m.moduleOff && !m.moduleOffCycled, moduleOffCycled := false })
    timeZero (railOn s1)

def execPwrEnAssert (s : State) : Host.Outcome State Fault Refusal := .next (pwrEnAssert s)

/-- PWR_EN_DEASSERT: the package rail goes off; the latches clear only when it stays deasserted for 1 s. -/
def pwrEnDeassert (s : State) : State :=
  if s.mod.pwrEn then railLost 3 (s.onMod (fun m => { m with pwrEn := false, moduleOffCycled := m.moduleOff })) else s

def execPwrEnDeassert (s : State) : Host.Outcome State Fault Refusal := .next (pwrEnDeassert s)

/-- THERMTRIP_LATCH_CLEAR: PWR_EN has been deasserted for 1 s. -/
def latchClear (s : State) : State :=
  if s.mod.pwrEn then s
  else
    let s1 := s.onMod (fun m => { m with latch := none, moduleOff := false, moduleOffCycled := false })
    if s.mod.latch.isSome then s1.emit (.thermtrip false) else s1

def execThermtripLatchClear (s : State) : Host.Outcome State Fault Refusal := .next (latchClear s)

/-- PACKAGE_RAIL_POWER_GOOD. -/
def railGood (s : State) : State := if s.mod.rail then timeZero (s.onMod (fun m => { m with powerGood := true })) else s

def execPackageRailPowerGood (s : State) : Host.Outcome State Fault Refusal := .next (railGood s)

/-- PERST_DEASSERT. -/
def perstDeassert (s : State) : State := timeZero (s.onMod (fun m => { m with perst := false }))

def execPerstDeassert (s : State) : Host.Outcome State Fault Refusal := .next (perstDeassert s)

/-- INPUT_UNDERVOLTAGE: below 45 V for 100 µs the package rail goes off. -/
def inputUndervoltage (s : State) : State :=
  if s.mod.input = .good then railLost 4 (s.onMod (fun m => { m with input := .low })) else s

def execInputUndervoltage (s : State) : Host.Outcome State Fault Refusal := .next (inputUndervoltage s)

/-- INPUT_RETURN: above 47 V the package rail comes back, if PWR_EN is asserted. -/
def inputReturn (s : State) : State :=
  if s.mod.input = .low then timeZero (railOn (s.onMod (fun m => { m with input := .good }))) else s

def execInputReturn (s : State) : Host.Outcome State Fault Refusal := .next (inputReturn s)

/-- STANDBY_LOSS: below 36 V the always-on logic loses its state: latch, MODULE_OFF, the I3C address, the telemetry registers. -/
def standbyLoss (s : State) : State :=
  if s.mod.input = .off then s
  else
    let m := s.mod
    let s1 := coldReset 4 false { s with
      mod := { ModuleSt.reset with
        input := .off, pwrEn := m.pwrEn, perst := m.perst
        inputMv := m.inputMv, inputMa := m.inputMa, pkgMv := m.pkgMv, pkgMa := m.pkgMa, towerW := m.towerW } }
    if m.latch.isSome then s1.emit (.thermtrip false) else s1

def execStandbyLoss (s : State) : Host.Outcome State Fault Refusal := .next (standbyLoss s)

/-- MODULE_OFF: a private write of 0x80 and the bytes 0xFF, 0xD0 at the module's dynamic address; any other write is ignored. In a latched
shutdown it sets only its flag (R484). -/
def moduleOff (offset d0 d1 : Byte) (s : State) : State :=
  if s.mod.i3cAddr.isSome ∧ s.mod.input ≠ .off ∧ offset = 0x80#8 ∧ d0 = 0xFF#8 ∧ d1 = 0xD0#8 then
    railLost 3 (s.onMod (fun m => { m with moduleOff := true, moduleOffCycled := !m.pwrEn }))
  else s

def execModuleOff (offset d0 d1 : Byte) (s : State) : Host.Outcome State Fault Refusal := .next (moduleOff offset d0 d1 s)

/-! ### I3C and JTAG (R431, R482, R483) -/

/-- A hexadecimal digit's value. -/
def hexValue (b : Byte) : Nat := if b.toNat < 0x3A then b.toNat - 0x30 else b.toNat - 0x37

/-- The module's sequence number: characters 8 to 15 of MODULE_SERIAL (Table 14.9). -/
def sequenceNumber (eeprom : List Byte) : Nat := (sliceBytes eeprom 0x10 8).foldl (fun n b => n * 16 + hexValue b) 0 % 2 ^ 32

/-- The 48-bit Provisioned ID: the manufacturer ID, 1, the sequence number (R431). -/
def provisionedId (eeprom : List Byte) : Nat := 0x02A7 * 2 ^ 33 + 2 ^ 32 + sequenceNumber eeprom

/-- ENTDAA: a target without a dynamic address sends its Provisioned ID, BCR and DCR, and takes the address that the controller gives. -/
def entdaa (addr : BitVec 7) (s : State) : State :=
  if s.mod.input ≠ .off ∧ s.mod.i3cAddr = none then
    (s.onMod (fun m => { m with i3cAddr := some addr })).emit (.i3cIdentity (provisionedId s.flash.moduleEeprom) 0 0)
  else s

def execEntdaa (addr : BitVec 7) (s : State) : Host.Outcome State Fault Refusal := .next (entdaa addr s)

/-- RSTDAA: a broadcast, answered from standby power. -/
def rstdaa (s : State) : State := if s.mod.input ≠ .off then s.onMod (fun m => { m with i3cAddr := none }) else s

def execRstdaa (s : State) : Host.Outcome State Fault Refusal := .next (rstdaa s)

/-- TAP_INSTRUCTION: any other code selects BYPASS; EXTEST is accepted only while PWR_EN is deasserted, and otherwise leaves the selection as it
is (DESIGN CHOICE, log 49). -/
def tapInstruction (ir : TapIr) (s : State) : State :=
  if s.mod.input = .off then s
  else
    let set := fun (x : TapIr) => s.onMod (fun m => { m with tap := x })
    match ir with
    | .bypass => set .bypass
    | .other => set .bypass
    | .samplePreload => set .samplePreload
    | .idcode => (set .idcode).emit (.tapIdcode 0x1A09054F)
    | .extest => if s.mod.pwrEn then s else set .extest

def execTapInstruction (ir : TapIr) (s : State) : Host.Outcome State Fault Refusal := .next (tapInstruction ir s)

/-- The telemetry registers 0x00 to 0x3F (Table 17.5). -/
def telemetryBytes (s : State) (seq : Nat) (beat : Bool) : List Byte :=
  let m := s.mod
  leBytes 0x4D4C4554 4 ++ leBytes 1 1
    ++ leBytes ((if m.rail then 1 else 0) + (if m.latch.isSome then 2 else 0) + (if m.moduleOff then 4 else 0) + (if beat then 8 else 0)) 1
    ++ leBytes seq 2 ++ leBytes (devStage s) 4 ++ leBytes (devPowerState s) 4 ++ leBytes (devThermState s) 4 ++ leBytes m.inputMv 2
    ++ leBytes (m.inputMv * m.inputMa / 1000000) 2 ++ leBytes s.gate.limitW 2 ++ leBytes (latchedZone s) 1 ++ leBytes (latchedC s) 1 ++ leBytes 0 4
    ++ sliceBytes s.flash.moduleEeprom 8 16 ++ leBytes 0 16

/-- I3C_TELEMETRY_REFRESH: the regulators' readings are taken and the registers refreshed, SEQ one higher. -/
def telemetryRefresh (inputMv inputMa pkgMv pkgMa w0 w1 : Nat) (s : State) : State :=
  if s.mod.input = .off then s
  else
    let moved := s.host.mcRuns && decide (s.host.heartbeat ≠ s.mod.telemBeat)
    let age := if moved then 0 else min 10 (s.mod.telemBeatAge + 1)
    let seq := (s.mod.telemSeq + 1) % 65536
    let s1 := s.onMod (fun m => { m with
      inputMv := inputMv, inputMa := inputMa, pkgMv := pkgMv, pkgMa := pkgMa, towerW := ⟨w0, w1⟩
      telemSeq := seq, telemBeat := s.host.heartbeat, telemBeatAge := age })
    s1.onMod (fun m => { m with telem := telemetryBytes s1 seq (decide (age < 10)) })

def execI3cTelemetryRefresh (inputMv inputMa pkgMv pkgMa towerW0 towerW1 : Nat) (s : State) : Host.Outcome State Fault Refusal :=
  .next (telemetryRefresh inputMv inputMa pkgMv pkgMa towerW0 towerW1 s)

end Sys2Proof.Machine
end

