-- ==== Sys2Proof/Machine/Dispatch.lean ====
section
/-! DEFINITION. What each command does: one arm per row of spec/opcode_table.json. -/

namespace Sys2Proof.Machine

def exec (i : Instr) (s : State) : Host.Outcome State Fault Refusal :=
  match i with
  | .devInfo mb => Sys2Proof.Machine.execDevInfo mb s
  | .devStatus mb => Sys2Proof.Machine.execDevStatus mb s
  | .devEvents mb => Sys2Proof.Machine.execDevEvents mb s
  | .devTime mb => Sys2Proof.Machine.execDevTime mb s
  | .mbAcl mb => Sys2Proof.Machine.execMbAcl mb s
  | .tickConfig mb => Sys2Proof.Machine.execTickConfig mb s
  | .tickStart mb => Sys2Proof.Machine.execTickStart mb s
  | .tickStop mb => Sys2Proof.Machine.execTickStop mb s
  | .sheafSubmit mb => Sys2Proof.Machine.execSheafSubmit mb s
  | .admissionEnd job at_ => Sys2Proof.Machine.execAdmissionEnd job at_ s
  | .sheafStatus mb => Sys2Proof.Machine.execSheafStatus mb s
  | .kernelLoad mb => Sys2Proof.Machine.execKernelLoad mb s
  | .jobCreate mb => Sys2Proof.Machine.execJobCreate mb s
  | .jobDestroy mb => Sys2Proof.Machine.execJobDestroy mb s
  | .loftPin mb => Sys2Proof.Machine.execLoftPin mb s
  | .loftUnpin mb => Sys2Proof.Machine.execLoftUnpin mb s
  | .loftQuota mb => Sys2Proof.Machine.execLoftQuota mb s
  | .loftFlush mb => Sys2Proof.Machine.execLoftFlush mb s
  | .cellarConfig mb => Sys2Proof.Machine.execCellarConfig mb s
  | .memRemap mb => Sys2Proof.Machine.execMemRemap mb s
  | .memScrub mb => Sys2Proof.Machine.execMemScrub mb s
  | .bwBudget mb => Sys2Proof.Machine.execBwBudget mb s
  | .fabPorts mb => Sys2Proof.Machine.execFabPorts mb s
  | .fabSetId mb => Sys2Proof.Machine.execFabSetId mb s
  | .fabRoutes mb => Sys2Proof.Machine.execFabRoutes mb s
  | .fabTopoExpect mb => Sys2Proof.Machine.execFabTopoExpect mb s
  | .fabContext mb => Sys2Proof.Machine.execFabContext mb s
  | .fabTickRole mb => Sys2Proof.Machine.execFabTickRole mb s
  | .twinBind mb => Sys2Proof.Machine.execTwinBind mb s
  | .twinBindTimeout mb => Sys2Proof.Machine.execTwinBindTimeout mb s
  | .twinUnbind mb => Sys2Proof.Machine.execTwinUnbind mb s
  | .twinRestore mb => Sys2Proof.Machine.execTwinRestore mb s
  | .twinStatus mb => Sys2Proof.Machine.execTwinStatus mb s
  | .powerState mb => Sys2Proof.Machine.execPowerState mb s
  | .powerTransitionEnd at_ dropsMv => Sys2Proof.Machine.execPowerTransitionEnd at_ dropsMv s
  | .powerLimit mb => Sys2Proof.Machine.execPowerLimit mb s
  | .thermThresh mb => Sys2Proof.Machine.execThermThresh mb s
  | .sensorMask mb => Sys2Proof.Machine.execSensorMask mb s
  | .telemRead mb => Sys2Proof.Machine.execTelemRead mb s
  | .resetLevel mb => Sys2Proof.Machine.execResetLevel mb s
  | .partitionResetEnd at_ failedCores => Sys2Proof.Machine.execPartitionResetEnd at_ failedCores s
  | .bringupReport mb => Sys2Proof.Machine.execBringupReport mb s
  | .identRead mb live => Sys2Proof.Machine.execIdentRead mb live s
  | .fuseRead mb => Sys2Proof.Machine.execFuseRead mb s
  | .attestQuote mb => Sys2Proof.Machine.execAttestQuote mb s
  | .attestCert mb => Sys2Proof.Machine.execAttestCert mb s
  | .fwRollbackCommit mb => Sys2Proof.Machine.execFwRollbackCommit mb s
  | .ctrConfig mb => Sys2Proof.Machine.execCtrConfig mb s
  | .ctrRead mb => Sys2Proof.Machine.execCtrRead mb s
  | .traceConfig mb => Sys2Proof.Machine.execTraceConfig mb s
  | .traceDrain mb => Sys2Proof.Machine.execTraceDrain mb s
  | .debugDump mb => Sys2Proof.Machine.execDebugDump mb s
  | .dumpCopyEnd job item => Sys2Proof.Machine.execDumpCopyEnd job item s
  | .testWinnow mb => Sys2Proof.Machine.execTestWinnow mb s
  | .testShutdownPrep mb failedCores flashOk => Sys2Proof.Machine.execTestShutdownPrep mb failedCores flashOk s
  | .testResults mb => Sys2Proof.Machine.execTestResults mb s
  | .eccInject mb => Sys2Proof.Machine.execEccInject mb s
  | .fwStage mb => Sys2Proof.Machine.execFwStage mb s
  | .fwCommit mb => Sys2Proof.Machine.execFwCommit mb s
  | .fwVersion mb => Sys2Proof.Machine.execFwVersion mb s
  | .mailboxHandoff mb at_ => Sys2Proof.Machine.execMailboxHandoff mb at_ s
  | .commandTake at_ => Sys2Proof.Machine.execCommandTake at_ s
  | .mbDoneSummaryClear value => Sys2Proof.Machine.execMbDoneSummaryClear value s
  | .devFaultClear value => Sys2Proof.Machine.execDevFaultClear value s
  | .devResetKey value => Sys2Proof.Machine.execDevResetKey value s
  | .registerWrite offset data => Sys2Proof.Machine.execRegisterWrite offset data s
  | .configSpaceWrite w => Sys2Proof.Machine.execConfigSpaceWrite w s
  | .bar2Read offset length => Sys2Proof.Machine.execBar2Read offset length s
  | .bar2Write offset data poisoned => Sys2Proof.Machine.execBar2Write offset data poisoned s
  | .perstAssert => Sys2Proof.Machine.execPerstAssert s
  | .hotReset => Sys2Proof.Machine.execHotReset s
  | .msixStatusVector at_ => Sys2Proof.Machine.execMsixStatusVector at_ s
  | .devEventsWaitTimeout => Sys2Proof.Machine.execDevEventsWaitTimeout s
  | .tickBoundary job => Sys2Proof.Machine.execTickBoundary job s
  | .runEnd job => Sys2Proof.Machine.execRunEnd job s
  | .stretchDecision job => Sys2Proof.Machine.execStretchDecision job s
  | .settleEnd job => Sys2Proof.Machine.execSettleEnd job s
  | .commitEnd job => Sys2Proof.Machine.execCommitEnd job s
  | .winnowSliceEnd t r => Sys2Proof.Machine.execWinnowSliceEnd t r s
  | .idleGleanWindow t => Sys2Proof.Machine.execIdleGleanWindow t s
  | .startBeacon port b at_ => Sys2Proof.Machine.execStartBeacon port b at_ s
  | .tickBeacon port b at_ => Sys2Proof.Machine.execTickBeacon port b at_ s
  | .holdBeacon port b at_ => Sys2Proof.Machine.execHoldBeacon port b at_ s
  | .stretchBeacon port b at_ => Sys2Proof.Machine.execStretchBeacon port b at_ s
  | .faultBeacon port b at_ => Sys2Proof.Machine.execFaultBeacon port b at_ s
  | .abortBeacon port b at_ => Sys2Proof.Machine.execAbortBeacon port b at_ s
  | .beaconRepeatSend job => Sys2Proof.Machine.execBeaconRepeatSend job s
  | .beaconMiss job => Sys2Proof.Machine.execBeaconMiss job s
  | .gateWindowStart measured0 measured1 => Sys2Proof.Machine.execGateWindowStart measured0 measured1 s
  | .gateNoticeEnd => Sys2Proof.Machine.execGateNoticeEnd s
  | .holderBudgetWindowEnd t holder => Sys2Proof.Machine.execHolderBudgetWindowEnd t holder s
  | .kernelItemComplete job item energy => Sys2Proof.Machine.execKernelItemComplete job item energy s
  | .sweepOpComplete t index energy => Sys2Proof.Machine.execSweepOpComplete t index energy s
  | .copyPieceDone job item => Sys2Proof.Machine.execCopyPieceDone job item s
  | .copyItemComplete job item energy => Sys2Proof.Machine.execCopyItemComplete job item energy s
  | .vectorIntegerOp g op dst a b c => Sys2Proof.Machine.execVectorIntegerOp g op dst a b c s
  | .integerDivide g rem signed dst a b => Sys2Proof.Machine.execIntegerDivide g rem signed dst a b s
  | .fp32Op g op dst a b c => Sys2Proof.Machine.execFp32Op g op dst a b c s
  | .packed16Op g op bf16 dst a b c => Sys2Proof.Machine.execPacked16Op g op bf16 dst a b c s
  | .cvt g src dst rnd sat d a => Sys2Proof.Machine.execCvt g src dst rnd sat d a s
  | .specialFunction g op dst a => Sys2Proof.Machine.execSpecialFunction g op dst a s
  | .dataMove g dst op => Sys2Proof.Machine.execDataMove g dst op s
  | .vote g dst p => Sys2Proof.Machine.execVote g dst p s
  | .shfl g dst src lane => Sys2Proof.Machine.execShfl g dst src lane s
  | .sreg g dst which => Sys2Proof.Machine.execSreg g dst which s
  | .bra g p neg target reconv => Sys2Proof.Machine.execBra g p neg target reconv s
  | .reconv g => Sys2Proof.Machine.execReconv g s
  | .call g target => Sys2Proof.Machine.execCall g target s
  | .ret g => Sys2Proof.Machine.execRet g s
  | .exit g => Sys2Proof.Machine.execExit g s
  | .yield g => Sys2Proof.Machine.execYield g s
  | .ldl g width dst addr => Sys2Proof.Machine.execLdl g width dst addr s
  | .stl g width src addr => Sys2Proof.Machine.execStl g width src addr s
  | .atoml g op ty dst addr val cmp => Sys2Proof.Machine.execAtoml g op ty dst addr val cmp s
  | .ld g width dst addr => Sys2Proof.Machine.execLd g width dst addr s
  | .ldRo g width dst addr => Sys2Proof.Machine.execLdRo g width dst addr s
  | .globalLoadReturn id => Sys2Proof.Machine.execGlobalLoadReturn id s
  | .st g width src addr => Sys2Proof.Machine.execSt g width src addr s
  | .atom g op ty o sc dst addr val cmp => Sys2Proof.Machine.execAtom g op ty o sc dst addr val cmp s
  | .red g op ty o sc addr val => Sys2Proof.Machine.execRed g op ty o sc addr val s
  | .acpG2l g src dst bytes ctr => Sys2Proof.Machine.execAcpG2l g src dst bytes ctr s
  | .acpL2g g src dst bytes ctr => Sys2Proof.Machine.execAcpL2g g src dst bytes ctr s
  | .acpL2l g src dst bytes ctr => Sys2Proof.Machine.execAcpL2l g src dst bytes ctr s
  | .acpBox g desc origin extent dst ctr => Sys2Proof.Machine.execAcpBox g desc origin extent dst ctr s
  | .asyncCopyComplete core id => Sys2Proof.Machine.execAsyncCopyComplete core id s
  | .barInit g b n => Sys2Proof.Machine.execBarInit g b n s
  | .barArrive g b => Sys2Proof.Machine.execBarArrive g b s
  | .barWait g b => Sys2Proof.Machine.execBarWait g b s
  | .barSync g b => Sys2Proof.Machine.execBarSync g b s
  | .arvSet g c v => Sys2Proof.Machine.execArvSet g c v s
  | .arvAdd g c v => Sys2Proof.Machine.execArvAdd g c v s
  | .arvWait g c n => Sys2Proof.Machine.execArvWait g c n s
  | .lockAcq g space p addr => Sys2Proof.Machine.execLockAcq g space p addr s
  | .lockRetryTimeout g => Sys2Proof.Machine.execLockRetryTimeout g s
  | .lockTry g space p addr => Sys2Proof.Machine.execLockTry g space p addr s
  | .lockRel g space addr => Sys2Proof.Machine.execLockRel g space addr s
  | .fenceCrew g => Sys2Proof.Machine.execFenceCrew g s
  | .fenceTower g => Sys2Proof.Machine.execFenceTower g s
  | .fenceDevice g => Sys2Proof.Machine.execFenceDevice g s
  | .fenceSys g => Sys2Proof.Machine.execFenceSys g s
  | .invalRo g => Sys2Proof.Machine.execInvalRo g s
  | .mma g sh fa fb z c ua ub us => Sys2Proof.Machine.execMma g sh fa fb z c ua ub us s
  | .mmaChainDrain core quarter => Sys2Proof.Machine.execMmaChainDrain core quarter s
  | .mxld g fmt c ua n => Sys2Proof.Machine.execMxld g fmt c ua n s
  | .mxst g fmt rnd sat ua c n => Sys2Proof.Machine.execMxst g fmt rnd sat ua c n s
  | .mxwait g => Sys2Proof.Machine.execMxwait g s
  | .swpPost g d c => Sys2Proof.Machine.execSwpPost g d c s
  | .memorySideReduction t id => Sys2Proof.Machine.execMemorySideReduction t id s
  | .loftAccess t col flips => Sys2Proof.Machine.execLoftAccess t col flips s
  | .bulkFillComplete t col => Sys2Proof.Machine.execBulkFillComplete t col s
  | .writebackAccepted t col => Sys2Proof.Machine.execWritebackAccepted t col s
  | .fineFillComplete t => Sys2Proof.Machine.execFineFillComplete t s
  | .loftThrash t => Sys2Proof.Machine.execLoftThrash t s
  | .bankHot t => Sys2Proof.Machine.execBankHot t s
  | .hbmRequest stack ch => Sys2Proof.Machine.execHbmRequest stack ch s
  | .hbmAccessComplete stack ch err innerCorrected => Sys2Proof.Machine.execHbmAccessComplete stack ch err innerCorrected s
  | .hbmAgePriority stack ch => Sys2Proof.Machine.execHbmAgePriority stack ch s
  | .hbmRefresh stack bank => Sys2Proof.Machine.execHbmRefresh stack bank s
  | .floorReduction stack ch => Sys2Proof.Machine.execFloorReduction stack ch s
  | .hbmPinFailed stack ch pc pin => Sys2Proof.Machine.execHbmPinFailed stack ch pc pin s
  | .hbmBlockRepair addr source => Sys2Proof.Machine.execHbmBlockRepair addr source s
  | .hbmRowRepair addr => Sys2Proof.Machine.execHbmRowRepair addr s
  | .loftLineRepair die bank line source => Sys2Proof.Machine.execLoftLineRepair die bank line source s
  | .scrubPatrol unit addr err => Sys2Proof.Machine.execScrubPatrol unit addr err s
  | .vlReplay g failed sectors => Sys2Proof.Machine.execVlReplay g failed sectors s
  | .vlWireFailing g wire => Sys2Proof.Machine.execVlWireFailing g wire s
  | .vlClockLoss g => Sys2Proof.Machine.execVlClockLoss g s
  | .portLinkLoss port => Sys2Proof.Machine.execPortLinkLoss port s
  | .fecUncorrectableLimit port => Sys2Proof.Machine.execFecUncorrectableLimit port s
  | .portRetrainAttempt port => Sys2Proof.Machine.execPortRetrainAttempt port s
  | .portSignalDetect port => Sys2Proof.Machine.execPortSignalDetect port s
  | .portTrainingEnd port up => Sys2Proof.Machine.execPortTrainingEnd port up s
  | .delayReq port t1 at_ => Sys2Proof.Machine.execDelayReq port t1 at_ s
  | .delayResp port t2 t3 at_ => Sys2Proof.Machine.execDelayResp port t2 t3 at_ s
  | .discoverSend port => Sys2Proof.Machine.execDiscoverSend port s
  | .discover port d => Sys2Proof.Machine.execDiscover port d s
  | .discoverTimeout port => Sys2Proof.Machine.execDiscoverTimeout port s
  | .cmisPoll fx r => Sys2Proof.Machine.execCmisPoll fx r s
  | .frameForward port p => Sys2Proof.Machine.execFrameForward port p s
  | .neighborSolicitation port targetDev targetPort => Sys2Proof.Machine.execNeighborSolicitation port targetDev targetPort s
  | .pfcFrame port cls xoff => Sys2Proof.Machine.execPfcFrame port cls xoff s
  | .write port p => Sys2Proof.Machine.execWrite port p s
  | .add port p => Sys2Proof.Machine.execAdd port p s
  | .signal port p => Sys2Proof.Machine.execSignal port p s
  | .readReq port p => Sys2Proof.Machine.execReadReq port p s
  | .readResp port p => Sys2Proof.Machine.execReadResp port p s
  | .ack port p => Sys2Proof.Machine.execAck port p s
  | .nack port p => Sys2Proof.Machine.execNack port p s
  | .cnp port p => Sys2Proof.Machine.execCnp port p s
  | .mirrorDeltaRecord port p => Sys2Proof.Machine.execMirrorDeltaRecord port p s
  | .commitRecord t => Sys2Proof.Machine.execCommitRecord t s
  | .hello t => Sys2Proof.Machine.execHello t s
  | .ackDelayTimer ctx => Sys2Proof.Machine.execAckDelayTimer ctx s
  | .retransmitTimeout ctx => Sys2Proof.Machine.execRetransmitTimeout ctx s
  | .waitingResend ctx => Sys2Proof.Machine.execWaitingResend ctx s
  | .waitingLimit ctx => Sys2Proof.Machine.execWaitingLimit ctx s
  | .rateRecovery ctx => Sys2Proof.Machine.execRateRecovery ctx s
  | .seqPut job item => Sys2Proof.Machine.execSeqPut job item s
  | .seqGet job item => Sys2Proof.Machine.execSeqGet job item s
  | .seqPutRed job item => Sys2Proof.Machine.execSeqPutRed job item s
  | .seqSignal job item => Sys2Proof.Machine.execSeqSignal job item s
  | .seqWait job item => Sys2Proof.Machine.execSeqWait job item s
  | .seqWaitPoll job item => Sys2Proof.Machine.execSeqWaitPoll job item s
  | .seqFence job item => Sys2Proof.Machine.execSeqFence job item s
  | .seqLoop job item => Sys2Proof.Machine.execSeqLoop job item s
  | .seqEnd job item energy => Sys2Proof.Machine.execSeqEnd job item energy s
  | .thermalSample at_ reports => Sys2Proof.Machine.execThermalSample at_ reports s
  | .thermalClampStep t => Sys2Proof.Machine.execThermalClampStep t s
  | .opPointChangeEnd t => Sys2Proof.Machine.execOpPointChangeEnd t s
  | .powerBondDrop zone mv => Sys2Proof.Machine.execPowerBondDrop zone mv s
  | .calibrationRecordWrite => Sys2Proof.Machine.execCalibrationRecordWrite s
  | .stackSelfRefreshTimeout stack => Sys2Proof.Machine.execStackSelfRefreshTimeout stack s
  | .bringupStageEnd r => Sys2Proof.Machine.execBringupStageEnd r s
  | .mcHeartbeatTick => Sys2Proof.Machine.execMcHeartbeatTick s
  | .mcWatchdog => Sys2Proof.Machine.execMcWatchdog s
  | .inputRise => Sys2Proof.Machine.execInputRise s
  | .pwrEnAssert => Sys2Proof.Machine.execPwrEnAssert s
  | .pwrEnDeassert => Sys2Proof.Machine.execPwrEnDeassert s
  | .inputUndervoltage => Sys2Proof.Machine.execInputUndervoltage s
  | .standbyLoss => Sys2Proof.Machine.execStandbyLoss s
  | .moduleOff offset d0 d1 => Sys2Proof.Machine.execModuleOff offset d0 d1 s
  | .entdaa addr => Sys2Proof.Machine.execEntdaa addr s
  | .rstdaa => Sys2Proof.Machine.execRstdaa s
  | .tapInstruction ir => Sys2Proof.Machine.execTapInstruction ir s
  | .traceAutoDrain t => Sys2Proof.Machine.execTraceAutoDrain t s
  | .perstDeassert => Sys2Proof.Machine.execPerstDeassert s
  | .packageRailPowerGood => Sys2Proof.Machine.execPackageRailPowerGood s
  | .inputReturn => Sys2Proof.Machine.execInputReturn s
  | .thermtripLatchClear => Sys2Proof.Machine.execThermtripLatchClear s
  | .startSend job => Sys2Proof.Machine.execStartSend job s
  | .fabricSend ctx => Sys2Proof.Machine.execFabricSend ctx s
  | .mxldMxstComplete core quarter => Sys2Proof.Machine.execMxldMxstComplete core quarter s
  | .flashWriteEnd ok => Sys2Proof.Machine.execFlashWriteEnd ok s
  | .coreResetEnd at_ => Sys2Proof.Machine.execCoreResetEnd at_ s
  | .idCacheRebuildEnd => Sys2Proof.Machine.execIdCacheRebuildEnd s
  | .i3cTelemetryRefresh inputMv inputMa pkgMv pkgMa towerW0 towerW1 => Sys2Proof.Machine.execI3cTelemetryRefresh inputMv inputMa pkgMv pkgMa towerW0 towerW1 s

end Sys2Proof.Machine
end

