-- ==== Sys2Proof/Safety.lean ====
section
/-! DEFINITION. What a safe run keeps, and the words in which the statements say when a command meets its conditions: the byte memories in
canonical form, the fused counters never decreasing, the command a mailbox holds. -/

namespace Sys2Proof.Machine

/-- Every byte memory of the state: mailboxes, MSI-X table, HBM, pinned bays, image slot, staging buffer, snapshot window, cable pages. -/
def State.memories (s : State) : List Memory :=
  [s.host.mbArea, s.host.msixTable, s.hbm.mem, s.loft.pinMem, s.flash.image, s.trust.stage, s.obs.snap] ++ s.fab.cmis.map (·.2)

/-- Every byte memory is in canonical form: equal contents are equal data. -/
def State.memoriesWf (s : State) : Bool := s.memories.all Memory.wf

/-- Fused counters of a later state are no lower, and no blown bit is cleared (R437). -/
def fusesKept (s t : State) : Bool :=
  decide (s.fuses.svnFloor ≤ t.fuses.svnFloor) && decide (s.fuses.idBlocks ≤ t.fuses.idBlocks)
    && decide (s.fuses.revoked &&& t.fuses.revoked = s.fuses.revoked)

/-- Mailbox `mb` holds command `c` of an opcode, taken and not yet run (R364). -/
abbrev Waiting (s : State) (mb opcode : Nat) (c : Cmd) : Prop :=
  tabGet s.host.taken mb = some c ∧ c.mb = mb ∧ c.opcode = opcode ∧ c.started = false

/-- Mailbox `mb` holds command `c` of an opcode, running (R366). -/
abbrev Running (s : State) (mb opcode : Nat) (c : Cmd) : Prop :=
  tabGet s.host.taken mb = some c ∧ c.mb = mb ∧ c.opcode = opcode ∧ c.started = true

/-- LENGTH is `n`, the reserved bytes of the header are 0 and FLAGS holds at most IRQ (R8, Table 12.12). -/
abbrev Plain (c : Cmd) (n : Nat) : Prop := c.length = n ∧ c.hdrReserved = false ∧ c.flags < 2

/-- A parameter range is all 0. -/
abbrev ZeroPar (c : Cmd) (off n : Nat) : Prop := zeroAt c.params off n = true

/-- A fragment issues an instruction naming lane registers `rs`, uniform registers `us` and predicates `ps`: fences that are satisfied having
let go, it is resident and ready, it has its quarter's turn, no named register has a result pending or lies beyond REGS (R74, R75, R85, R110).
`a` is the fragment, `s1` the state with the cycle counted and the place issued from noted. -/
def Issues (s : State) (g : FragRef) (rs us ps : List Nat) (a : Act) (s1 : State) : Prop :=
  actAt (wakeFences g s) g = some a ∧ fragReady (wakeFences g s) a = true ∧ hasTurn (wakeFences g s) a = true ∧ pendBusy a.gang rs = false
    ∧ (∀ u ∈ us, u ≤ 63) ∧ (∀ p ∈ ps, p ≤ 7) ∧ (∀ r ∈ rs, r < a.crew.kernel.regs)
    ∧ s1 = onCore g.core (fun c => { c with
        cycles := c.cycles + 1, lastIssue := tabPut c.lastIssue a.gang.quarter (a.gang.order, gangKey g, g.frag) }) (wakeFences g s)

/-- The same for a gang-uniform instruction: no operand is a lane register (R75). -/
def IssuesUniform (s : State) (g : FragRef) (ss : List Src) (a : Act) (s1 : State) : Prop :=
  Issues s g [] (srcUregs ss) [] a s1 ∧ ss.all isUniform = true

/-- The same for a matrix instruction: the fragment holds every live lane and the quarter's queue has room (R125, R130). -/
def IssuesMatrix (s : State) (g : FragRef) (us : List Nat) (a : Act) (s1 : State) : Prop :=
  Issues s g [] us [] a s1 ∧ a.frag.mask = ~~~a.gang.exited ∧ (mxQueue (coreAt s1 g.core) a.gang.quarter).length < 2

/-- No active lane takes a poisoned source (R108). -/
abbrev Clean (a : Act) (ss : List Src) : Prop := ∀ l ∈ lanesOf a.frag.mask, ∀ x ∈ ss, srcPoison a.gang l x = false

/-- Every active lane's local access is aligned and within LOCAL_KIB (R88, R110). -/
abbrev LocalOk (a : Act) (width : Nat) (addr : Nat → Nat) : Prop :=
  widthOk width = true ∧ ∀ l ∈ lanesOf a.frag.mask, addr l % width = 0 ∧ addr l + width ≤ a.crew.kernel.localKib * 1024

/-- Every active lane's global access is aligned and allowed (R89, R90, R110). -/
abbrev GlobalOk (s : State) (a : Act) (kind width : Nat) (addr : Nat → Nat) : Prop :=
  ∀ l ∈ lanesOf a.frag.mask, addr l % width = 0 ∧ accessCause s a kind (addr l) width = none

/-- A packet that arrives at a port, or from the device itself, is taken by the switch and, at a port, fits its receive buffer; `s0` is the state
with it entered (R297, R309). -/
def Enters (s : State) (port : Nat) (p : Pkt) (s0 : State) : Prop :=
  switchTakes s port p = true ∧ ((port = selfPort ∧ s0 = s) ∨ (port ≠ selfPort ∧ rxFits s port p = true ∧ s0 = rxEnter port p s))

/-- A command that stands for the arrival of a packet: the row of its operation, or the switch's own. -/
def Arrival (port : Nat) (p : Pkt) (k : Instr) : Prop :=
  k = .frameForward port p ∨ (p.op, k) ∈ [(1, Instr.write port p), (2, .add port p), (3, .signal port p), (4, .readReq port p),
    (5, .readResp port p), (6, .ack port p), (7, .nack port p), (8, .cnp port p)]

/-- A packet for this device whose checks hold, of the peer of an existing context that is not in ERROR (Table 10.10, steps 1 and 2). -/
def ForContext (s : State) (p : Pkt) (n : Nat) (c : Ctx) : Prop :=
  s.fab.devId = some p.dst ∧ crcOk s.fab.cfg p = true ∧ udpOk p = true ∧ p.dstCtx = n ∧ tabGet s.fab.ctxs n = some c ∧ c.peerDev = p.src
    ∧ c.peerCtx = p.srcCtx ∧ c.state ≠ .error

end Sys2Proof.Machine
end

