-- ==== Sys2Proof/Certificates/Slice0/Obligations.lean ====
section
/-! DEFINITION. The statements for the provers. A statement about a command gives the next state its rules give; `complete` is the completion of a
mailbox command, stated once in Obligations.CompletionWritesMailbox. -/

open Sys2Proof Sys2Proof.Machine

/-! ### The host's side: status commands, handoff and take, registers, BAR2 -/

/-- DEV.INFO, DEV.STATUS, DEV.TIME and MB.ACL complete with DONE; the first three change nothing else; DEV.TIME gives the tick time base at
the take and at completion (R375); MB.ACL replaces the entries it names, none where COUNT is 0, and returns all 62 (R376). -/
def Obligations.DeviceQueriesComplete : Prop :=
  (∀ s mb c, Waiting s mb 0x0100 c → Plain c 0 → exec (.devInfo mb) s = .next (complete c stDone (infoResult s) s))
  ∧ (∀ s mb c, Waiting s mb 0x0101 c → Plain c 0 → exec (.devStatus mb) s = .next (complete c stDone (statusResult s) s))
  ∧ (∀ s mb c, Waiting s mb 0x0103 c → Plain c 0 →
      exec (.devTime mb) s = .next (complete c stDone (leBytes c.takeNs 8 ++ leBytes s.nowNs 8) s))
  ∧ (∀ s mb c n es t, Waiting s mb 0x0104 c → Plain c (8 + 8 * n) → par c 0 1 = n → n ≤ 62 → ZeroPar c 1 7 →
      es = (List.range n).map (fun i => sliceBytes c.params (8 + 8 * i) 8) →
      (∀ e ∈ es, 1 ≤ fieldAt e 0 1 ∧ fieldAt e 0 1 ≤ 62 ∧ fieldAt e 1 1 = 0 ∧ fieldAt e 2 2 % 2 = 0 ∧ fieldAt e 2 2 < 2048 ∧ fieldAt e 6 2 = 0) →
      t = s.onHost (fun h => { h with
        acl := es.foldl (fun m e => tabPut m (fieldAt e 0 1) { groups := fieldAt e 2 2, job := fieldAt e 4 2 }) h.acl }) →
      exec (.mbAcl mb) s = .next (complete c stDone (aclResult t) t))

/-- DEV.EVENTS removes and returns up to MAX records, oldest first, and clears LOST; with WAIT, which mailbox 63 alone has, and no record
queued it stays with the device until a record is queued, which it then takes, or MAX_WAIT_MS has passed, with none (R374). -/
def Obligations.EventsReturned : Prop :=
  (∀ s mb c, Waiting s mb 0x0102 c → c.length = 8 → c.hdrReserved = false → (c.flags < 2 ∨ (mb = 63 ∧ c.flags / 2 = 1 ∧ s.ev.queue ≠ [])) → 1 ≤ par c 0 2 → par c 0 2 ≤ 62 → ZeroPar c 2 2 →
      exec (.devEvents mb) s =
        .next (complete c stDone (eventsResult s (par c 0 2))
          (s.onEv (fun e => { e with queue := e.queue.drop (par c 0 2), lost := 0 }))))
  ∧ (∀ s c, Waiting s 63 0x0102 c → c.length = 8 → c.hdrReserved = false → c.flags / 2 = 1 → 1 ≤ par c 0 2 → par c 0 2 ≤ 62 → ZeroPar c 2 2 →
      s.ev.queue = [] →
      exec (.devEvents 63) s =
        .next (s.onHost (fun h => { h with taken := tabPut h.taken 63 { c with started := true } })))
  ∧ (∀ s c sev code job detail, Running s 63 0x0102 c → s.ev.queue = [] → 1 ≤ par c 0 2 →
      ∃ t, postEvent sev code job detail s = t ∧ t.ev.queue = [] ∧ t.ev.lost = 0 ∧ tabGet t.host.taken 63 = none)
  ∧ (∀ s c, Running s 63 0x0102 c → par c 4 4 ≠ 0 →
      exec .devEventsWaitTimeout s =
        .next (complete c stDone (eventsResult s (par c 0 2))
          ((s.timeTo (c.takeNs + par c 4 4 * 1000000)).onEv (fun e => { e with queue := e.queue.drop (par c 0 2), lost := 0 }))))

/-- A completion writes RESULT, RESULT_LENGTH, TIME_US and STATUS, then clears OWN and sets DONE (R364 steps 4 and 5): what the host then
reads in the mailbox, every other byte of the mailbox area as before, and nothing else but the mailbox's own bookkeeping; with IRQ in
FLAGS the mailbox's MSI-X vector follows (R368). The mailbox area is in canonical form (Obligations.MemoriesStayCanonical). -/
def Obligations.CompletionWritesMailbox : Prop :=
  (∀ (s t : State) (c : Cmd) (status : Nat) (result : List Byte), Memory.wf s.host.mbArea = true → c.mb < 64 → result.length ≤ 4032 →
    status < 65536 → c.flags % 2 = 0 → t = complete c status result s →
      memRead t.host.mbArea (c.mb * 0x1000 + 0x40) result.length = result
      ∧ memRead t.host.mbArea (c.mb * 0x1000 + 0x14) 2 = leBytes result.length 2
      ∧ memRead t.host.mbArea (c.mb * 0x1000 + 0x18) 4 = leBytes (timeUs s.nowNs c.handoffNs) 4
      ∧ memRead t.host.mbArea (c.mb * 0x1000 + 0x0C) 2 = leBytes status 2
      ∧ memRead t.host.mbArea (c.mb * 0x1000) 4 = [0#8, 0#8, 0#8, 0#8]
      ∧ (∀ a, (a < c.mb * 0x1000 ∨ (c.mb * 0x1000 + 4 ≤ a ∧ a < c.mb * 0x1000 + 0x0C) ∨ (c.mb * 0x1000 + 0x0E ≤ a ∧ a < c.mb * 0x1000 + 0x14)
          ∨ (c.mb * 0x1000 + 0x16 ≤ a ∧ a < c.mb * 0x1000 + 0x18) ∨ (c.mb * 0x1000 + 0x1C ≤ a ∧ a < c.mb * 0x1000 + 0x40)
          ∨ c.mb * 0x1000 + 0x40 + result.length ≤ a) → memGet t.host.mbArea a = memGet s.host.mbArea a)
      ∧ t.host.own = s.host.own &&& ~~~ BitVec.ofNat 64 (2 ^ c.mb) ∧ t.host.doneSum = s.host.doneSum ||| BitVec.ofNat 64 (2 ^ c.mb)
      ∧ t.host.taken = tabDel s.host.taken c.mb
      ∧ t = { s with freeCtr := s.freeCtr + 1, host := { s.host with
              mbArea := t.host.mbArea, own := t.host.own, doneSum := t.host.doneSum, taken := t.host.taken, stale := t.host.stale } })
  ∧ (∀ (s : State) (c : Cmd) (status : Nat) (result : List Byte), c.flags % 2 = 1 →
      complete c status result s = msixSend (complete { c with flags := 0 } status result s) c.mb)

/-- MAILBOX_HANDOFF sets OWN, in MB_CTRL and in MB_OWN_SUMMARY, and puts the mailbox at the end of the handoffs with its MB.ACL entry of that
moment (R364, R376); under the boot ROM a mailbox other than 0 completes at once with WRONG_STATE (R370); a mailbox the device owns is not
handed over again. COMMAND_TAKE takes the oldest, within the bound of Table 12.16, and sets STATUS to PENDING (R364 step 3); a command that fails
a check of R365 completes with its status. -/
def Obligations.HandoffAndTake : Prop :=
  (∀ s mb at_, barOk s = true → mb < 64 → s.host.own.getLsbD mb = false → s.boot.recovery = false ∨ mb = 0 →
      exec (.mailboxHandoff mb at_) s =
        .next ((s.timeTo at_).onHost (fun h => { h with
          own := h.own ||| BitVec.ofNat 64 (2 ^ mb)
          mbArea := memPut h.mbArea (mb * 0x1000) 1#8
          handed := h.handed ++ [{ mb := mb, atNs := max s.nowNs at_, acl := tabGetD h.acl mb { groups := 2, job := 0 } }] })))
  ∧ (∀ s mb at_ t, barOk s = true → mb < 64 → s.host.own.getLsbD mb = false → s.boot.recovery = true → mb ≠ 0 →
      t = (s.timeTo at_).onHost (fun h => { h with
        own := h.own ||| BitVec.ofNat 64 (2 ^ mb), mbArea := memPut h.mbArea (mb * 0x1000) 1#8
        handed := h.handed.filter (fun x => decide (x.mb ≠ mb)) }) →
      exec (.mailboxHandoff mb at_) s = .next (complete (capture t mb (max s.nowNs at_)) stWrongState [] t))
  ∧ (∀ s mb at_, s.host.own.getLsbD mb = true → exec (.mailboxHandoff mb at_) s = .next s)
  ∧ (∀ s at_ x rest c t t1, s.host.handed = x :: rest → s.host.mcDown = false → s.boot.recovery = true ∨ s.host.mcRuns = true →
      t1 = s.timeTo (min at_ (x.atNs + (if s.boot.recovery then 100000 else 10000))) → c = capture t1 x.mb x.atNs →
      t = t1.onHost (fun h => { h with
        handed := rest
        mbArea := memWrite h.mbArea (x.mb * 0x1000 + 0x0C) [1#8, 0#8]
        taken := tabPut h.taken x.mb c }) →
      takeStatus t c x.acl = none → exec (.commandTake at_) s = .next t)
  ∧ (∀ s at_ x rest c t t1 st, s.host.handed = x :: rest → s.host.mcDown = false → s.boot.recovery = true ∨ s.host.mcRuns = true →
      t1 = s.timeTo (min at_ (x.atNs + (if s.boot.recovery then 100000 else 10000))) → c = capture t1 x.mb x.atNs →
      t = t1.onHost (fun h => { h with
        handed := rest
        mbArea := memWrite h.mbArea (x.mb * 0x1000 + 0x0C) [1#8, 0#8]
        taken := tabPut h.taken x.mb c }) →
      takeStatus t c x.acl = some st → exec (.commandTake at_) s = .next (complete c st [] t))

/-- The checks of a taken command in their order (R365): LENGTH over 4,032 first, then an opcode that is not assigned, then a mailbox that
may not carry the command: a mailbox other than 0 and 63 carries a command of Table 12.20 only with its group's bit and its job. -/
def Obligations.TakeChecksInOrder : Prop :=
  (∀ s c a, 4032 < c.length → takeStatus s c a = some 0x0102)
  ∧ (∀ s c a, c.length ≤ 4032 → (onlyZero ++ byAcl ++ [0x0102]).contains c.opcode = false → takeStatus s c a = some 0x0101)
  ∧ (∀ s c a, c.length ≤ 4032 → onlyZero.contains c.opcode = true → c.mb ≠ 0 → takeStatus s c a = some 0x0403)
  ∧ (∀ s c a, c.length ≤ 4032 → byAcl.contains c.opcode = true → c.mb ≠ 0 → c.mb ≠ 63 →
      (a.groups.testBit (c.opcode / 256) = false ∨ (c.job ≠ 0 ∧ a.job ≠ 0xFFFF ∧ a.job ≠ c.job)) → takeStatus s c a = some 0x0403)
  ∧ (∀ s c a, c.length ≤ 4032 → c.mb = 63 → (onlyZero ++ byAcl).contains c.opcode = true → takeStatus s c a = some 0x0403)
  ∧ (∀ s c a, c.length ≤ 4032 → c.mb = 0 → (onlyZero ++ byAcl ++ [0x0102]).contains c.opcode = true → s.boot.part = none →
      s.boot.recovery = false → s.boot.stage = 10 → s.gate.commandedDark = false → takeStatus s c a = none)

/-- Writing 1 to bits of MB_DONE_SUMMARY and DEV_FAULT clears them and no others (Tables 12.6, 12.14); a write of a mailbox the device owns
leaves it unchanged (R364); BAR2_APERTURE and the settings of the configuration space take what is written, the BAR2 size one of its six sizes
(R356). A BAR2 access that does not reach the device is answered as unsupported (R354). An access of one 64-byte block goes to HBM through BULK, at REST
to HBM itself, or to the pinned bay (Table 12.11), and a poisoned write, which AER logs, poisons the sectors it touches (R361); where nothing backs the address a read gives 0xFF and a
write is discarded, each counted once. -/
def Obligations.RegisterWritesComplete : Prop :=
  (∀ s v, barOk s = true → exec (.mbDoneSummaryClear v) s = .next (s.onHost (fun h => { h with doneSum := h.doneSum &&& ~~~ v })))
  ∧ (∀ s v, barOk s = true →
      exec (.devFaultClear v) s =
        .next (noteStatus s (s.onHost (fun h => { h with
          hostReset := h.hostReset && !v.getLsbD 18, jobFault := h.jobFault && !v.getLsbD 19, eventLost := h.eventLost && !v.getLsbD 20 }))))
  ∧ (∀ s mb off data, barOk s = true → mb < 64 → off + data.length ≤ 0x1000 → data ≠ [] → s.host.own.getLsbD mb = true →
      exec (.registerWrite (mb * 0x1000 + off) data) s = .next s)
  ∧ (∀ s mb off data, barOk s = true → mb < 64 → 4 ≤ off → off + data.length ≤ 0x1000 → data ≠ [] → s.host.own.getLsbD mb = false →
      exec (.registerWrite (mb * 0x1000 + off) data) s =
        .next (s.onHost (fun h => { h with
          mbArea := memWrite h.mbArea (mb * 0x1000 + off) data
          stale := tabMod h.stale mb (fun p => (p.1, cutRanges p.2 off (off + data.length))) })))
  ∧ (∀ s data, barOk s = true → data.length = 8 →
      exec (.registerWrite 0x50020 data) s = .next (s.onHost (fun h => { h with aperture := BitVec.ofNat 44 (leNat data) })))
  ∧ (∀ s on, s.host.pcie.linkUp = true →
      exec (.configSpaceWrite (.memorySpaceEnable on)) s =
        .next (s.onHost (fun h => { h with pcie := { h.pcie with memSpace := on } })))
  ∧ (∀ s g, s.host.pcie.linkUp = true → g ∈ [64, 128, 256, 512, 1024, 2048] →
      exec (.configSpaceWrite (.bar2Size g)) s = .next (s.onHost (fun h => { h with pcie := { h.pcie with bar2Gib := g } })))
  ∧ (∀ s g, s.host.pcie.linkUp = true → g ∉ [64, 128, 256, 512, 1024, 2048] → exec (.configSpaceWrite (.bar2Size g)) s = .next s)
  ∧ (∀ s on, s.host.pcie.linkUp = true →
      exec (.configSpaceWrite (.busMasterEnable on)) s =
        .next ((if on then msixFlush else cutTransfers) (s.onHost (fun h => { h with pcie := { h.pcie with busMaster := on } }))))
  ∧ (∀ s e m, s.host.pcie.linkUp = true →
      exec (.configSpaceWrite (.msixControl e m)) s =
        .next (msixFlush (s.onHost (fun h => { h with pcie := { h.pcie with msixEnable := e, msixMask := m } }))))
  ∧ (∀ s d, s.host.pcie.linkUp = true →
      exec (.configSpaceWrite (.dState d)) s = .next (s.onHost (fun h => { h with pcie := { h.pcie with d3hot := d } })))
  ∧ (∀ s off n, barOk s = false → s.host.pcie.linkUp = true → exec (.bar2Read off n) s = .next (s.emit (.unsupported off)))
  ∧ (∀ s off data p, barOk s = false → s.host.pcie.linkUp = true → exec (.bar2Write off data p) s = .next (s.emit (.unsupported off)))
  ∧ (∀ s off n, barOk s = true → 0 < n → n ≤ 64 → off % 64 = 0 → off + n ≤ s.host.pcie.bar2Gib * 2 ^ 30 → bar2Base s % 64 = 0 →
      bar2Target s (bar2Base s + off) = .nothing →
      exec (.bar2Read off n) s =
        .next ((countUnbacked (bar2Base s + off) s).emit (.bar2Data off (List.replicate n 0xFF#8) false)))
  ∧ (∀ s off data, barOk s = true → 0 < data.length → data.length ≤ 64 → off % 64 = 0 → off + data.length ≤ s.host.pcie.bar2Gib * 2 ^ 30 →
      bar2Base s % 64 = 0 → bar2Target s (bar2Base s + off) = .nothing →
      exec (.bar2Write off data false) s = .next (countUnbacked (bar2Base s + off) s))
  ∧ (∀ s off n t d z, barOk s = true → 0 < n → n ≤ 64 → off % 64 = 0 → off + n ≤ s.host.pcie.bar2Gib * 2 ^ 30 → bar2Base s % 64 = 0 →
      bar2Target s (bar2Base s + off) = .bulk ∨ bar2Target s (bar2Base s + off) = .bay →
      engineRead (Agent.rxOf 7) 0 (bar2Base s + off) n s = (t, d, z) →
      exec (.bar2Read off n) s = .next (if z = [] then t.emit (.bar2Data off d false)
        else (t.emit (.bar2Data off ((List.range d.length).map (fun i => Config.leftByte t.freeCtr i)) true)).draw))
  ∧ (∀ s off n t d z, barOk s = true → 0 < n → n ≤ 64 → off % 64 = 0 → off + n ≤ s.host.pcie.bar2Gib * 2 ^ 30 → bar2Base s % 64 = 0 →
      bar2Target s (bar2Base s + off) = .direct → hbmReadNow (Agent.rxOf 7) 0 (blockOf (bar2Base s + off)) s = (t, d, z) →
      exec (.bar2Read off n) s = .next (if z = [] then t.emit (.bar2Data off (sliceBytes d 0 n) false)
        else (t.emit (.bar2Data off ((List.range n).map (fun i => Config.leftByte t.freeCtr i)) true)).draw))
  ∧ (∀ s off data p zs s0, barOk s = true → s0 = (if p then logPoisoned s else s) → 0 < data.length → data.length ≤ 64 → off % 64 = 0 →
      off + data.length ≤ s.host.pcie.bar2Gib * 2 ^ 30 →
      bar2Base s % 64 = 0 → zs = (if p then sectorsOf (bar2Base s + off) data.length else []) →
      (bar2Target s (bar2Base s + off) = .bulk → exec (.bar2Write off data p) s =
        .next (engineWrite (Agent.rxOf 7) 0 false (bar2Base s + off) data zs (fineInvalidate (bar2Base s + off) data.length s0)))
      ∧ (bar2Target s (bar2Base s + off) = .bay → exec (.bar2Write off data p) s =
        .next (engineWrite (Agent.rxOf 7) 0 false (bar2Base s + off) data zs s0))
      ∧ (bar2Target s (bar2Base s + off) = .direct → exec (.bar2Write off data p) s =
        .next (hbmDirect (Agent.rxOf 7) (bar2Base s + off) data zs s0)))
  ∧ (∀ s, (logPoisoned s).host.pcie.aerPoisoned = true)
  ∧ (∀ s v, s.host.pcie.linkUp = true →
      exec (.configSpaceWrite (.aerStatus v)) s =
        .next (s.onHost (fun h => { h with pcie := { h.pcie with aerPoisoned := h.pcie.aerPoisoned && !v.getLsbD 12 } })))

/-- A hot reset puts the PCIe function's configuration, the MSI-X table and its pending bits back to reset and sets HOST_RESET; the link trains
again (at once: the model's choice, log 76), a dump on its way into host memory will complete with fault status, and nothing else of the device
changes (R353). -/
def Obligations.HotResetScope : Prop :=
  ∀ s t, s.host.pcie.linkUp = true →
    t = (cutTransfers s).onHost (fun h => { h with
      pcie := { memSpace := false, busMaster := false, bar2Gib := 64, msixEnable := false, msixMask := false, d3hot := false, linkUp := true,
                linkRate := h.pcie.linkRate, linkWidth := h.pcie.linkWidth, aerPoisoned := false }
      msixTable := HostSt.reset.msixTable
      msixPba := 0
      hostReset := true }) →
    exec .hotReset s = .next (noteStatus s t) ∧ (∀ v, v < 128 → msixMasked t v = true)
    ∧ t.obs.dumps.map (fun d => { d with cut := false }) = s.obs.dumps.map (fun d => { d with cut := false })
    ∧ (∀ d ∈ t.obs.dumps, d.toHost = true → d.startNs.isSome = true → d.cut = true)

/-- The heartbeat counts once a millisecond while the MC runs; 100 ms without a count sets MC_DOWN and stops the MC (R358, R359). MSIX_STATUS_VECTOR
reports all changes so far with one message of vector 64, no sooner than 100 µs after the last (R368): with the function's vectors enabled it is
sent. -/
def Obligations.HeartbeatAndWatchdog : Prop :=
  (∀ s, s.host.mcRuns = true →
      exec .mcHeartbeatTick s =
        .next ((s.timeTo (s.host.heartbeatNs + 1000000)).onHost (fun h => { h with
          heartbeat := h.heartbeat + 1, heartbeatNs := max s.nowNs (s.host.heartbeatNs + 1000000) })))
  ∧ (∀ s, s.host.mcRuns = true →
      exec .mcWatchdog s =
        .next (noteStatus (s.timeTo (s.host.heartbeatNs + 100000000))
          ((s.timeTo (s.host.heartbeatNs + 100000000)).onHost (fun h => { h with mcRuns := false, mcDown := true }))))
  ∧ (∀ s t, (watched s = watched t → noteStatus s t = t)
    ∧ (watched s ≠ watched t → noteStatus s t = t.onHost (fun h => { h with statusChange := true })))
  ∧ (∀ s at_ last, s.host.statusChange = true → s.host.vec64Ns = some last → s.host.pcie.busMaster = true → s.host.pcie.msixEnable = true →
    s.host.pcie.msixMask = false → msixMasked s 64 = false →
    exec (.msixStatusVector at_) s =
      .next (((s.timeTo (max at_ (last + 100000))).onHost (fun h => { h with
        statusChange := false, vec64Ns := some (max s.nowNs (max at_ (last + 100000))) })).emit (.msix 64)))

/-! ### Jobs, ticks and beacons -/

/-- JOB.CREATE makes the job it describes, in state CREATED with nothing else of its own, and sets the partition mode where it is the first;
its towers restart their latency samples and gate rates and reset their predictors, and their frame tables are initial where no bay is pinned
(R63, R188, R192, R226). JOB.DESTROY removes a job that is not armed or running and has no bound tower, and with it its bays, its contexts but the
mirror's, and its quota (R64). -/
def Obligations.JobCommandsComplete : Prop :=
  (∀ s mb c id p first count n es, Waiting s mb 0x0206 c → Plain c (16 + 16 * n) → par c 8 4 = n → 1 ≤ n → n ≤ 250 →
      es = (List.range n).map (fun i => sliceBytes c.params (16 + 16 * i) 16) → ZeroPar c 3 1 → ZeroPar c 0xC 4 →
      par c 0 2 = id → par c 2 1 = p → par c 4 2 = first → par c 6 2 = count → id ≠ 0 → id ≠ 0xFFFF → jobAt s id = none →
      p ≤ 2 → 1 ≤ count → first + count ≤ 8192 →
      (∀ e ∈ s.jobs.jobs, e.2.seqFirst + e.2.seqCount ≤ first ∨ first + count ≤ e.2.seqFirst) →
      (∀ e ∈ es, pageSetBad e = false) → partitionBad s p = false → mapBad s p (es.map pageSetOf) = false →
      exec (.jobCreate mb) s =
        .next (complete c stDone [] ((((towersOfPartition p).foldl (fun st t => towerForJob t st) s).onJobs (fun x => { x with
          jobs := tabPut x.jobs id (Job.fresh id p first count (es.map pageSetOf))
          partMode := if x.jobs = [] then (if p = 0 then 0 else 1) else x.partMode })).onGate (restartRates (towersOfPartition p)))))
  ∧ (∀ t s, ((towerForJob t s).loft.tw.get t).predictor = []
      ∧ ((∀ e ∈ s.loft.bays, e.1 / 4096 ≠ towerNum t) → ∀ e ∈ ((towerForJob t s).loft.tw.get t).frames, e.2 = frameInit e.1)
      ∧ (∀ e ∈ (towerForJob t s).hbm.holders, e.1 / 16 = towerNum t → e.2.samples = 0))
  ∧ (∀ s mb c j s1, Waiting s mb 0x0207 c → Plain c 0 → jobAt s c.job = some j → j.state ∈ [.created, .configured, .stopped, .faulted] →
      (∀ t ∈ towersOfPartition j.partition, (s.twin.get t).state = .off) →
      s1 = (((s.loft.bays.filter (fun e => decide (e.2.job = c.job))).map (·.1)).foldl (fun acc b => unpinBay b acc) (s, [], 0)).1 →
      exec (.jobDestroy mb) s = .next (complete c stDone []
        ((closeCtxs c.job ((s1.fab.ctxs.filter (fun e => decide (e.2.owner = c.job ∧ e.2.mirror = false))).map (·.1)) s1).onJobs
          (fun x => { x with jobs := tabDel x.jobs c.job }))))
  ∧ (∀ s mb c j, Waiting s mb 0x0207 c → Plain c 0 → jobAt s c.job = some j → j.state ∈ [.created, .configured, .stopped, .faulted] →
      (∀ t ∈ towersOfPartition j.partition, (s.twin.get t).state = .off) →
      ∃ t, exec (.jobDestroy mb) s = .next t ∧ jobAt t c.job = none ∧ (∀ e ∈ t.loft.bays, e.2.job ≠ c.job)
        ∧ (∀ e ∈ t.fab.ctxs, e.2.owner = c.job → e.2.mirror = true))

/-- TICK.CONFIG configures the job with the values given and returns the window lengths they make (R65). TICK.START arms it: a master for the
first boundary it names, or 2 ms after the take, a follower for a boundary to come; with RESUME the job's contexts start again (R66, R344). TICK.STOP
at the master of a running job stops it at LAST_TICK, and disarms an armed one (R67). SHEAF.STATUS returns the record of a tick, and STATE 0 for an
unknown one (R69). -/
def Obligations.TickCommandsComplete : Prop :=
  (∀ s mb c j k, Waiting s mb 0x0200 c → Plain c 32 → jobAt s c.job = some j → j.state ∈ [.created, .configured, .stopped, .faulted] →
      k = { periodUs := par c 0 4, commitPm := par c 4 2, gleanPm := par c 6 2, stretchPm := par c 8 2, seed := BitVec.ofNat 64 (par c 0x10 8)
            crc := crc32c (sliceBytes c.params 0 10) } →
      2000 ≤ k.periodUs → k.periodUs ≤ 200000 → 20 ≤ k.commitPm → k.commitPm ≤ 100 → 10 ≤ k.gleanPm → k.gleanPm ≤ 100 → k.stretchPm ≤ 1000 →
      k.commitPm + k.gleanPm ≤ 200 → ZeroPar c 0xA 6 → ZeroPar c 0x18 8 →
      exec (.tickConfig mb) s =
        .next (complete c stDone
          (leBytes (runUs k) 4 ++ leBytes (commitUs k) 4 ++ leBytes (gleanUs k) 4 ++ leBytes (cminUs k) 4 ++ leBytes (stretchMax k) 4 ++ leBytes k.crc 4)
          (s.onJob c.job (fun x => { x with cfg := some k, state := .configured }))))
  ∧ (∀ s mb c j r k first, Waiting s mb 0x0201 c → Plain c 24 → jobAt s c.job = some j → j.state ∈ [.configured, .stopped, .faulted] → j.cfg = some k →
      roleOf s c.job = some r → r.role = .master → s.fab.devId.isSome = true → s.gate.pwr = .active ∨ s.gate.pwr = .trim →
      par c 0x10 4 ≤ 1 → startRefused s j (decide (par c 0x10 4 = 1)) = false → (par c 0x10 4 = 1 → resumeOk s j (par c 0 8) = true) →
      s.obs.shutdown = false → par c 0 8 < 2 ^ 48 → par c 8 8 = 0 ∨ c.takeNs + 1000000 ≤ par c 8 8 → ZeroPar c 0x14 4 →
      settleUs r.maxPathNs + 20 ≤ cminUs k → first = (if par c 8 8 = 0 then c.takeNs + 2000000 else par c 8 8) →
      exec (.tickStart mb) s =
        .next (complete c stDone (leBytes (settleUs r.maxPathNs) 4 ++ leBytes 0 4 ++ leBytes first 8)
          ((if par c 0x10 4 = 1 then restartCtxs c.job else id)
            ((rerunTwins (some j) (par c 0 8) s).onJob c.job (armJob (par c 0 8) (some first) (settleUs r.maxPathNs))))))
  ∧ (∀ s mb c j r, Waiting s mb 0x0201 c → Plain c 24 → jobAt s c.job = some j → j.state ∈ [.configured, .stopped, .faulted] →
      roleOf s c.job = some r → r.role = .follower → s.fab.devId.isSome = true → s.gate.pwr = .active ∨ s.gate.pwr = .trim →
      par c 0x10 4 ≤ 1 → startRefused s j (decide (par c 0x10 4 = 1)) = false → (par c 0x10 4 = 1 → resumeOk s j (par c 0 8) = true) →
      s.obs.shutdown = false → par c 0 8 < 2 ^ 48 → par c 8 8 = 0 → ZeroPar c 0x14 4 →
      exec (.tickStart mb) s =
        .next (complete c stDone (leBytes 0 4 ++ leBytes 0 4 ++ leBytes 0 8)
          ((if par c 0x10 4 = 1 then restartCtxs c.job else id) ((rerunTwins (some j) (par c 0 8) s).onJob c.job (armJob (par c 0 8) none 0)))))
  ∧ (∀ start first settle j, (armJob start first settle j).state = .armed ∧ (armJob start first settle j).startTick = start
      ∧ (armJob start first settle j).firstNs = first ∧ (armJob start first settle j).sheaf = none ∧ (armJob start first settle j).next = none
      ∧ (armJob start first settle j).cfg = j.cfg ∧ (armJob start first settle j).map = j.map)
  ∧ (∀ s mb c j, Waiting s mb 0x0202 c → Plain c 8 → jobAt s c.job = some j → j.state = .running → isMaster s c.job = true → par c 0 8 < 2 ^ 48 →
      j.tick ≤ par c 0 8 ∨ par c 0 8 = 0 →
      exec (.tickStop mb) s = .next (complete c stDone []
        (s.onJob c.job (fun x => { x with stopAt := some (if par c 0 8 = 0 then j.tick else par c 0 8) }))))
  ∧ (∀ s mb c j, Waiting s mb 0x0202 c → Plain c 8 → jobAt s c.job = some j → j.state = .armed → par c 0 8 = 0 →
      exec (.tickStop mb) s = .next (complete c stDone [] (disarm c.job s)))
  ∧ (∀ s mb c j, Waiting s mb 0x0204 c → Plain c 8 → jobAt s c.job = some j → j.state ∈ [.armed, .running, .stopped, .faulted] →
      par c 0 8 < 2 ^ 48 →
      ((∀ r ∈ j.records, r.tick ≠ par c 0 8) →
        exec (.sheafStatus mb) s = .next (complete c stDone (recordResult { TickRec.fresh 0 with faultItem := noIndex }) s))
      ∧ (∀ r, j.records.find? (fun x => decide (x.tick = par c 0 8)) = some r →
        exec (.sheafStatus mb) s = .next (complete c stDone (recordResult (recNow s j r)) s)))

/-- The windows of a tick fill its period, and the rest of a stretch of S µs past GLEAN and the shortest COMMIT is the boundary's delay (R31,
R51). The master's STRETCH moves the end of RUN later by the largest remaining time collected, rounded up to 10 µs and at least 100 µs, never
past what is left of the allowance (R50), and tells the tree in one pair of STRETCH beacons. -/
def Obligations.StretchAbsorbed : Prop :=
  (∀ (k : TickCfg) (su : Nat), 2000 ≤ k.periodUs → k.periodUs ≤ 200000 → 20 ≤ k.commitPm → 10 ≤ k.gleanPm → k.commitPm + k.gleanPm ≤ 200 →
    su ≤ allowance k →
    runUs k + commitUs k + gleanUs k = k.periodUs
    ∧ cminUs k ≤ commitUs k ∧ 100 ≤ gleanUs k ∧ k.gleanPm * k.periodUs ≤ 1000 * gleanUs k
    ∧ gleanLeft k su + commitLeft k su + su = gleanUs k + commitUs k + delayOf k su
    ∧ (su ≤ gleanUs k → commitLeft k su = commitUs k ∧ delayOf k su = 0) ∧ cminUs k ≤ commitLeft k su ∧ delayOf k su ≤ stretchMax k)
  ∧ (∀ s job j k s2 q, jobAt s job = some j → j.cfg = some k → j.state = .running → j.phase = .settle → isMaster s job = true → j.holds ≠ [] →
      j.sUs < allowance k → nextSeq ((s.timeTo (j.runEndNs + j.settleUs * 500)).onJob job (fun x => { x with holds := [] })) job = (s2, q) →
      exec (.stretchDecision job) s =
        .next (applyStretch job (j.sUs + stretchMove (allowance k - j.sUs) (j.holds.foldl max 0))
          (j.runEndNs + stretchMove (allowance k - j.sUs) (j.holds.foldl max 0) * 1000)
          (sendSet s2 job (newBeacon s2 4 job j.tick (j.runEndNs + stretchMove (allowance k - j.sUs) (j.holds.foldl max 0) * 1000)
            ((j.sUs + stretchMove (allowance k - j.sUs) (j.holds.foldl max 0)) * 1000) 0 q 0 false false) 1 2000)))
  ∧ (∀ left rem, stretchMove left rem ≤ left ∧ (left < 100 → stretchMove left rem = left)
      ∧ (100 ≤ left → 100 ≤ stretchMove left rem)
      ∧ (stretchMove left rem < left → rem ≤ stretchMove left rem * 1000 ∧ stretchMove left rem % 10 = 0
          ∧ (100 < stretchMove left rem → stretchMove left rem * 1000 < rem + 10000)))

/-- SHEAF.SUBMIT taken in time starts an admission, and is WRONG_STATE otherwise; its end completes the command: with DONE, the sheaf admitted for
its tick, when every check passes; with BAD_FIELD and the first failure, the sheaf not admitted, otherwise; and with WRONG_STATE where the job has left
the state it was submitted in or the tick has begun (R41, R42, R68). -/
def Obligations.AdmissionCompletes : Prop :=
  (∀ s mb c j, Waiting s mb 0x0203 c → c.length = 24 → jobAt s c.job = some j → submitOpen j (par c 0x10 8) c.handoffNs = true → j.admission = none →
      exec (.sheafSubmit mb) s =
        .next ((markStarted c s).onJob c.job (fun x => { x with
          admission := some { mb := c.mb, handoffNs := c.handoffNs, takeNs := c.takeNs, tick := par c 0x10 8, addr := par c 0 8,
                              bytes := par c 8 4, wasState := x.state, epoch := x.epoch } })))
  ∧ (∀ s mb c j, Waiting s mb 0x0203 c → c.length = 24 → jobAt s c.job = some j → submitOpen j (par c 0x10 8) c.handoffNs = false →
      exec (.sheafSubmit mb) s = .next (admComplete c stWrongState (AdmRes.early 0 stWrongState noIndex noIndex) s))
  ∧ (∀ s at_ job j a c k s0 b t, jobAt s job = some j → j.admission = some a → Running s a.mb 0x0203 c → j.cfg = some k →
      sheafFetch job a.addr (if a.bytes ≤ 2 ^ 26 then a.bytes else 64) s = (s0, b, []) →
      t = (s0.timeTo (min at_ (a.takeNs + 200000 + 40 * (fieldAt b 0x14 4 + fieldAt b 0x1C 4)))).onJob job (fun x => { x with admission := none }) →
      (∀ item entry, sheafFormat (abi s) job (hdrBad c || parRes c 0xC 4) a b = .inr (item, entry) →
        exec (.admissionEnd job at_) s =
          .next (admComplete c (if admissionLate j a then stWrongState else stBadField) (AdmRes.early 0 stBadField item entry) t))
      ∧ (∀ sh r ok s1, sheafFormat (abi s) job (hdrBad c || parRes c 0xC 4) a b = .inl sh →
        s1 = (sh.items.filter (descRead t j.id)).foldl (fun st i => (fineRead 1 j.id i.descAddr i.descBytes st).1) t →
        runChecks s1 j k sh = (r, ok) → r.reason ≠ evPoisonConsumed →
        exec (.admissionEnd job at_) s =
          .next (if admissionLate j a then admComplete c stWrongState r s1.draw
            else if ok then advanceItems (admComplete c stDone r (admitSheaf j.id sh s1.draw))
            else admComplete c stBadField r s1.draw)))

/-- KERNEL.LOAD of a valid image loads it under its handle, with its measurement extended into the job's kernel log, and returns measurement,
handle and crews per core; where the running image names kernel keys the image's signature block must verify, and SIG_INVALID is the answer where it
does not (R76 to R78, R447); with UNLOAD it removes the handle. -/
def Obligations.KernelLoadCompletes : Prop :=
  (∀ s mb c j img k, Waiting s mb 0x0205 c → Plain c 16 → jobAt s c.job = some j → s.obs.shutdown = false →
      tabGet j.kernels (par c 0 2) = none ∨ handleNamed j (par c 0 2) = false → par c 0 2 ≤ 1023 → par c 2 2 = 0 → par c 8 8 % 256 = 0 →
      128 ≤ par c 4 4 → par c 4 4 ≤ 2 ^ 24 →
      rangeAllowed s c.job 0 (par c 8 8) (par c 4 4) = true → img = viewBytes s (par c 8 8) (par c 4 4) →
      kernelBad (fieldAt s.trust.runHeader 6 2) (par c 4 4) img = false →
      k = kernelOf (par c 8 8) img (imageDigest img (fieldAt img 0x28 4) (if fieldAt img 0x28 4 = 0 then 0 else fieldAt img 0x2C 4)) →
      (kernelUnsigned s img = false → exec (.kernelLoad mb) s =
        .next (complete c stDone (kernelResult k (par c 0 2)) (s.onJob c.job (fun x => { x with
          kernels := tabPut x.kernels (par c 0 2) k
          kernelLog := sha256 (x.kernelLog ++ k.measurement ++ leBytes (par c 0 2) 2) }))))
      ∧ (kernelUnsigned s img = true → exec (.kernelLoad mb) s = .next (complete c stSigInvalid [] s)))
  ∧ (∀ s mb c j k, Waiting s mb 0x0205 c → Plain c 16 → jobAt s c.job = some j → s.obs.shutdown = false →
      tabGet j.kernels (par c 0 2) = some k → handleNamed j (par c 0 2) = false → par c 0 2 ≤ 1023 → par c 2 2 = 1 → par c 8 8 = 0 → par c 4 4 = 0 →
      exec (.kernelLoad mb) s =
        .next (complete c stDone (leBytes 0 32 ++ leBytes (par c 0 2) 2 ++ leBytes 0 14)
          (s.onJob c.job (fun x => { x with kernels := tabDel x.kernels (par c 0 2) }))))

/-- A tick begins at its boundary unless the master stops before it or its number would pass 48 bits (R30, R53, R59, R67); a boundary that comes in
COMMIT ends COMMIT first. RUN ends after the RUN window and settles; with items unfinished the master keeps the remaining time, a follower sends it in
HOLD, and a spent allowance faults (R33, R49, R55). A decision without HOLD changes nothing else. The end of SETTLE finishes the record, stops what is
unfinished, and COMMIT begins (R31, R33); the end of COMMIT begins GLEAN, whose slices run where at least 100 µs are left, and are skipped else (R54). -/
def Obligations.TickPhases : Prop :=
  (∀ s job j f, jobAt s job = some j → j.state = .armed → j.firstNs = some f →
      exec (.tickBoundary job) s = .next (if j.startTick = 2 ^ 48 then advanceItems (tickFault job evTickFault 5 (s.timeTo f))
        else startTick job j.startTick f (s.timeTo f)))
  ∧ (∀ s s1 job j k at_, s1 = commitEnd job s → jobAt s1 job = some j → j.state = .running → j.phase = .glean → j.cfg = some k →
      at_ = j.boundaryNs + (k.periodUs + delayOf k j.sUs) * 1000 →
      ((∀ l, j.stopAt = some l → j.tick < l ∨ isMaster s1 job = false) →
        exec (.tickBoundary job) s = .next (if j.tick + 1 = 2 ^ 48 then advanceItems (tickFault job evTickFault 5 (s1.timeTo at_))
          else startTick job (j.tick + 1) at_ (s1.timeTo at_)))
      ∧ (∀ l, j.stopAt = some l → l ≤ j.tick → isMaster s1 job = true →
        exec (.tickBoundary job) s =
          .next (advanceItems (stopAfter job (sendTick job (j.tick + 1) at_ j.lastDUs true (s1.timeTo at_))))))
  ∧ (∀ n at_ j k sh, j.cfg = some k → j.next = some sh → sh.tick = n →
      (beginTick n at_ j).state = .running ∧ (beginTick n at_ j).tick = n ∧ (beginTick n at_ j).phase = .run ∧ (beginTick n at_ j).boundaryNs = at_
      ∧ (beginTick n at_ j).runEndNs = at_ + runUs k * 1000 ∧ (beginTick n at_ j).sheaf = some sh ∧ (beginTick n at_ j).next = none
      ∧ (beginTick n at_ j).sUs = 0 ∧ (beginTick n at_ j).holds = [])
  ∧ (∀ s job j k t, jobAt s job = some j → j.cfg = some k → j.state = .running → j.phase = .run →
      t = (s.timeTo j.runEndNs).onJob job (fun x => { x with phase := .settle }) →
      (unfinished j.sheaf = false → exec (.runEnd job) s = .next t)
      ∧ (unfinished j.sheaf = true → allowance k ≤ j.sUs →
        exec (.runEnd job) s = .next (advanceItems (allowanceSpent job (s.timeTo j.runEndNs))))
      ∧ (unfinished j.sheaf = true → j.sUs < allowance k → isMaster s job = true →
        exec (.runEnd job) s = .next ((t.onJob job (fun x => { x with sentHold := true })).onJob job
          (fun x => { x with holds := x.holds ++ [remainingNs t.nowNs j.sheaf] })))
      ∧ (unfinished j.sheaf = true → j.sUs < allowance k → isMaster s job = false →
        exec (.runEnd job) s = .next (beaconUp (t.onJob job (fun x => { x with sentHold := true })) job
          (newBeacon (t.onJob job (fun x => { x with sentHold := true })) 3 job j.tick t.nowNs (remainingNs t.nowNs j.sheaf) 0 (j.lastSeq.getD 0) 0
            false false))))
  ∧ (∀ s job j k, jobAt s job = some j → j.cfg = some k → j.state = .running → j.phase = .settle → isMaster s job = true →
      j.holds = [] ∨ allowance k ≤ j.sUs →
      exec (.stretchDecision job) s = .next ((s.timeTo (j.runEndNs + j.settleUs * 500)).onJob job (fun x => { x with holds := [] })))
  ∧ (∀ s job j k s1 s2 s4, jobAt s job = some j → j.cfg = some k → j.state = .running → j.phase = .settle →
      s1 = postOverrun job (s.timeTo (j.runEndNs + j.settleUs * 1000)) →
      s2 = (if unfinished j.sheaf then endRun job j.tick s1 else s1).onJob job (fun x => onRec x.tick (fun r => { r with
        state := if r.state = 6 then 6 else 3, itemsDone := (x.sheaf.map itemsDone).getD 0, sUs := x.sUs, dUs := delayOf k x.sUs })
        { x with phase := .commit, lastDUs := delayOf k x.sUs }) →
      s4 = commitWork job (dumpsLost job (fun d => decide (d.tick = j.tick) && d.startNs.isNone)
        ((towersOfPartition j.partition).foldl (fun st t => closeTower k j.sUs j.tick t st) s2)) →
      exec (.settleEnd job) s = .next (if unfinished j.sheaf then advanceItems s4 else s4))
  ∧ (∀ s job j k, jobAt s job = some j → j.cfg = some k → j.state = .running → j.phase = .commit →
      exec (.commitEnd job) s =
        .next ((towersOfPartition j.partition).foldl (fun st t => if 100 ≤ gleanLeft k j.sUs then gleanTower t st else skipTower t st)
          ((commitLocal job (s.timeTo (j.runEndNs + commitLeft k j.sUs * 1000))).onJob job (fun x => { x with phase := .glean }))))

/-- A beacon of any type arrives: at a port that is down it is lost; one that fails its CRC-32C, its type, role, port or hops is dropped and counted; any
other is traced, its CORRECTION_NS takes the delay of the arrival port, and it is sent on, but not by the master what comes up to it; a device with a part in
the job acts once on each SEQNO of the types that come down, and the master on each that comes up (R58, R59, R314). -/
def Obligations.BeaconsReceived : Prop :=
  (∀ s port b at_, exec (.startBeacon port b at_) s = .next (beaconIn 1 port b at_ onStart s)
      ∧ exec (.tickBeacon port b at_) s = .next (beaconIn 2 port b at_ onTick s)
      ∧ exec (.holdBeacon port b at_) s = .next (beaconIn 3 port b at_ onHold s)
      ∧ exec (.stretchBeacon port b at_) s = .next (beaconIn 4 port b at_ onStretch s)
      ∧ exec (.faultBeacon port b at_) s = .next (beaconIn 5 port b at_ onFault s)
      ∧ exec (.abortBeacon port b at_) s = .next (beaconIn 6 port b at_ onAbort s))
  ∧ (∀ s n port b at_ act, portUp (s.timeTo at_) port = false → beaconIn n port b at_ act s = s.timeTo at_)
  ∧ (∀ s n port b at_ act, b.type = n → portUp (s.timeTo at_) port = true → beaconBad (s.timeTo at_) port b = true →
      beaconIn n port b at_ act s = ctrFab port 10 1 (s.timeTo at_))
  ∧ (∀ s n port b at_ act x t, b.type = n → portUp (s.timeTo at_) port = true → beaconBad (s.timeTo at_) port b = false →
      x = { b with correctionNs := (b.correctionNs + ((tabGet s.fab.ports port).map (·.delayNs)).getD 0) % 2 ^ 32 } →
      t = traceJobBeacon b.jobId n b.arg0 (s.timeTo at_) →
      (downType n = true → hasPart s b.jobId = true → ((jobAt s b.jobId).bind (·.actedSeq)) ≠ some b.seqno →
        beaconIn n port b at_ act s = advanceItems (act x ((forwardBeacon x t).onJob b.jobId (fun j => { j with
          lastSeq := some b.seqno, actedSeq := some b.seqno }))))
      ∧ (downType n = true → hasPart s b.jobId = true → ((jobAt s b.jobId).bind (·.actedSeq)) = some b.seqno →
        beaconIn n port b at_ act s = (forwardBeacon x t).onJob b.jobId (fun j => { j with lastSeq := some b.seqno, actedSeq := some b.seqno }))
      ∧ (downType n = false → isMaster s b.jobId = true → hasPart s b.jobId = true → beaconIn n port b at_ act s = advanceItems (act x t))
      ∧ (isMaster s b.jobId = false → (downType n = true → hasPart s b.jobId = false) → beaconIn n port b at_ act s = forwardBeacon x t))

/-- What a device does on each beacon: START places the first boundary on a time base stepped by −θ, and a differing configuration CRC faults
(R34, R60); TICK slews the time base by at most 100 ns (R60) and ends the miss count unless it comes too late, when it is a miss (R61); a differing D
faults; STOP ends the job (R67); a follower without START loses the beacon; HOLD is collected for the running tick up to half its settle (R49; its lower
bound is the model's, log 71); a follower's RUN goes on to the time a STRETCH names (R50); the first FAULT of an episode makes the master broadcast one
ABORT and stop its part (the event it posts is the model's choice, log 64); ABORT stops a device's part (R57). -/
def Obligations.BeaconEffects : Prop :=
  (∀ s b j k, jobAt s b.jobId = some j → j.state = .armed → b.tick = j.startTick → j.firstNs = none → j.cfg = some k →
      (b.arg0 = k.crc → onStart b s = (stepTime (-((s.nowNs : Int) - b.correctionNs - ((b.timeNs : Int) - b.leadNs))) s).onJob b.jobId (fun x => { x with
        firstNs := some b.timeNs, boundaryNs := b.timeNs, settleUs := b.arg1, pathNs := b.correctionNs }))
      ∧ (b.arg0 ≠ k.crc → onStart b s = tickFault b.jobId evTickFault 4 s)
      ∧ onTick b s = tickFault b.jobId evBeaconLost 2 s)
  ∧ (∀ s b j, jobAt s b.jobId = some j → j.state = .running ∨ j.state = .armed ∧ j.firstNs.isSome = true → tickLate s b = false →
      ∃ d : Int, -100 ≤ d ∧ d ≤ 100 ∧ ((s.nowNs : Int) - b.correctionNs - b.timeNs = 0 → d = 0)
        ∧ (0 < (s.nowNs : Int) - b.correctionNs - b.timeNs → d < 0) ∧ ((s.nowNs : Int) - b.correctionNs - b.timeNs < 0 → 0 < d)
        ∧ ∀ t, t = { s with nowNs := ((s.nowNs : Int) + d).toNat }.onJob b.jobId (fun x => { x with
              misses := if x.tickSeen = some b.tick then x.misses else 0, tickSeen := some b.tick }) →
          (b.arg0 = appliedDUs j b.tick * 1000 → b.stop = false → onTick b s = t)
          ∧ (b.arg0 ≠ appliedDUs j b.tick * 1000 → onTick b s = tickFault b.jobId evTickFault 3 t)
          ∧ (b.arg0 = appliedDUs j b.tick * 1000 → b.stop = true → j.state = .running → b.tick = j.tick →
            onTick b s = stopClean b.jobId .stopped t)
          ∧ (b.arg0 = appliedDUs j b.tick * 1000 → b.stop = true → b.tick ≠ j.tick → onTick b s = stopAfter b.jobId t))
  ∧ (∀ s b j, jobAt s b.jobId = some j → tickLate s b = true → j.tickSeen ≠ some j.tick → (startRole s b.jobId).isSome = true →
      isMaster s b.jobId = false → j.misses = 0 → onTick b s = onTick b (beaconMiss b.jobId s))
  ∧ (∀ s b, onHold b s =
      s.onJob b.jobId (fun j => if j.state = .running ∧ b.tick = j.tick ∧ j.runEndNs ≤ s.nowNs + 250 ∧ s.nowNs ≤ j.runEndNs + j.settleUs * 500
        then { j with holds := j.holds ++ [b.arg0] } else j))
  ∧ (∀ s b j, jobAt s b.jobId = some j → j.state = .running → j.phase = .settle → b.tick = j.tick → j.sUs < b.arg0 / 1000 →
      onStretch b s =
        advanceItems (s.onJob b.jobId (fun x => { x with sUs := b.arg0 / 1000, runEndNs := b.timeNs, phase := .run })))
  ∧ (∀ s b j, jobAt s b.jobId = some j → (j.state = .armed ∨ j.state = .running) → j.abortSent = false →
      onFault b s = masterAbort b.jobId (b.arg0 % 65536) b.origin
        (postEvent 1 evTickFault b.jobId (tickDetail j evTickFault 2 (b.arg0 % 65536) b.origin (lowestUnfinished j.sheaf)) s))
  ∧ (∀ s b j, jobAt s b.jobId = some j → j.abortSent = true → onFault b s = s)
  ∧ (∀ s b j, jobAt s b.jobId = some j → (j.state = .armed ∨ j.state = .running) →
      onAbort b s = abortReceived b.jobId (b.arg0 % 65536) (b.arg1 % 8192) s)
  ∧ (∀ s b j, jobAt s b.jobId = some j → j.state ≠ .armed → j.state ≠ .running → onAbort b s = s ∧ onFault b s = s ∧ onTick b s = s)

/-- An armed master sends START as a set of copies from 1 s before the first boundary, and further copies at their gap until the set is sent (R59);
each copy carries REPEAT and its own lead and CRC. A running follower counts one miss 20 µs after its boundary plus the path delay, and the second in a
row is BEACON_LOST (R61). -/
def Obligations.BeaconsSent : Prop :=
  (∀ s job j first s2 q, jobAt s job = some j → j.state = .armed → j.started = false → j.firstNs = some first → isMaster s job = true →
      nextSeq (s.timeTo (first - 1000000000)) job = (s2, q) →
      exec (.startSend job) s =
        .next (sendSet (s2.onJob job (fun x => { x with started := true })) job
          (newBeacon s2 1 job j.startTick first ((j.cfg.map (·.crc)).getD 0) j.settleUs q (first - s2.nowNs) false false) 2 100000))
  ∧ (∀ s job j k r, jobAt s job = some j → dueSet j.repeats = some (k, r) →
      exec (.beaconRepeatSend job) s =
        .next (beaconDown ((s.timeTo r.nextNs).onJob job (fun x => { x with
            repeats := if r.left ≤ 1 then x.repeats.eraseIdx k else x.repeats.set k { r with left := r.left - 1, nextNs := r.nextNs + r.gapNs } })) job
          (Beacon.sealed { r.beacon with repeated := true, leadNs := if r.beacon.type = 1 then r.beacon.timeNs - max s.nowNs r.nextNs else 0 })))
  ∧ (∀ s job j r t, jobAt s job = some j → j.state = .running → j.tickSeen ≠ some j.tick → roleOf s job = some r → r.role = .follower →
      t = (s.timeTo (j.boundaryNs + 20000 + j.pathNs)).onJob job (fun x => { x with misses := x.misses + 1, tickSeen := some x.tick }) →
      exec (.beaconMiss job) s = .next (if 1 ≤ j.misses then advanceItems (tickFault job evBeaconLost 1 t) else t))

/-- A winnow slice that runs ends with its result (R457): the press slice moves its cursor and fails its unit where the signature differs; a
forced one ends its command with the result of the command; the loft slice gives the bank back, moves its cursor to the next unit whose column is in
service and repairs lines with failing cells; the spare slice keeps failing spares unused; the reference slice opens sensors out of tolerance. A slice that
does not run changes nothing, but margins measured below the limit mark their wires (R246, R454). An idle tower gleans every 20 ms (R456). -/
def Obligations.WinnowSlices : Prop :=
  (∀ s t, (s.obs.winnow.get t).kinds.contains 1 = false → ∀ cells lines, exec (.winnowSliceEnd t (.loft cells lines)) s = .next s)
  ∧ (∀ s t, (s.obs.winnow.get t).kinds.contains 2 = false → ∀ ok, exec (.winnowSliceEnd t (.press ok)) s = .next s)
  ∧ (∀ s t, (s.obs.winnow.get t).kinds.contains 3 = false → ∀ failed wires,
      exec (.winnowSliceEnd t (.spares failed wires)) s = .next (marginsLow wires s))
  ∧ (∀ s t, (s.obs.winnow.get t).kinds.contains 4 = false → ∀ sensors regs, exec (.winnowSliceEnd t (.references sensors regs)) s = .next s)
  ∧ (∀ s t ok s1, (s.obs.winnow.get t).kinds.contains 2 = true → (s.obs.winnow.get t).forcedPress = none → (s.obs.winnow.get t).forceMb = none →
      s1 = s.onObs (fun o => { o with winnow := o.winnow.mod t (fun w => { w with
          pressCursor := (w.pressCursor + 1) % 512, forcedPress := none, kinds := w.kinds.filter (· ≠ 2), run := (w.run + 1) % 2 ^ 32 }) }) →
      exec (.winnowSliceEnd t (.press ok)) s = .next (if ok then s1 else winnowFail t 2 (s.obs.winnow.get t).pressCursor 0 s1))
  ∧ (∀ s t u mb c s1, (s.obs.winnow.get t).kinds.contains 2 = true → (s.obs.winnow.get t).forcedPress = some u →
      (s.obs.winnow.get t).forcedLoft = none → (s.obs.winnow.get t).forceMb = some mb →
      s1 = s.onObs (fun o => { o with winnow := o.winnow.mod t (fun w => { w with
          forcedPress := none, forceMb := none, kinds := w.kinds.filter (· ≠ 2), run := (w.run + 1) % 2 ^ 32 }) }) →
      startedCmd s1 mb 0x0905 = some c → exec (.winnowSliceEnd t (.press true)) s = .next (complete c stDone (winnowResult s1) s1))
  ∧ (∀ s t cells lines s1, (s.obs.winnow.get t).kinds.contains 1 = true → (s.obs.winnow.get t).forcedLoft = none → (s.obs.winnow.get t).forceMb = none →
      s1 = lines.foldl (fun st l => loftLineRepair (towerNum t * 2 + (loftSliceUnit s t).1) (loftSliceUnit s t).2 l 3 st)
        ((s.onObs (fun o => { o with winnow := o.winnow.mod t (fun w => { w with
          active := [], forcedLoft := none, kinds := w.kinds.filter (· ≠ 1), run := (w.run + 1) % 2 ^ 32,
          loftCursor := (loftCursorFrom s t w.loftCursor + 1) % 1024 }) })).onLoft (fun x => { x with
            tw := x.tw.mod t (fun y => { y with redirect := none }) })) →
      exec (.winnowSliceEnd t (.loft cells lines)) s = .next (forcedOver t
        (if cells = 0 then s1 else winnowFail t 1 ((loftSliceUnit s t).1 * 512 + (loftSliceUnit s t).2) cells s1)))
  ∧ (∀ s t failed wires, (s.obs.winnow.get t).kinds.contains 3 = true →
      exec (.winnowSliceEnd t (.spares failed wires)) s =
        .next (marginsLow wires (failed.foldl (fun st f =>
          winnowFail t 3 (f.1.iface * 4096 + f.1.group) (f.2 % 2) (setGroup f.1
            { (groupAt st f.1) with unusable := if (groupAt st f.1).unusable.contains (72 + f.2 % 2) then (groupAt st f.1).unusable
                                                else (groupAt st f.1).unusable ++ [72 + f.2 % 2] } st))
          (sliceOver t 3 (fun x => { x with spareCursor := (x.spareCursor + 1) % 16 }) s))))
  ∧ (∀ s t sensors regs, (s.obs.winnow.get t).kinds.contains 4 = true →
      exec (.winnowSliceEnd t (.references sensors regs)) s =
        .next (regs.foldl (fun st r => winnowFail t 5 r 0 st) (sensors.foldl (fun st p => winnowFail t 4 (p.1 * 256 + p.2) 0 (st.onTherm (fun x => { x with
          sensors := tabPut x.sensors (p.1 * 16 + p.2) { (tabGetD x.sensors (p.1 * 16 + p.2) Sensor.fresh) with openRef := true } })))
          (s.onObs (fun o => { o with winnow := o.winnow.mod t (fun w => { w with
            kinds := w.kinds.filter (· ≠ 4), run := (w.run + 1) % 2 ^ 32 }) })))))
  ∧ (∀ s t, s.boot.stage = 10 → towerIdle s t = true →
      exec (.idleGleanWindow t) s =
        .next (gleanTower t ((s.timeTo (max s.nowNs (s.jobs.idleGlean.get t))).onJobs (fun x => { x with
          idleGlean := x.idleGlean.set t (max s.nowNs (s.jobs.idleGlean.get t) + 20000000) }))))
/-! ### Items, the gate, power and temperature -/

/-- POWER.LIMIT sets the limit that applies from the next gate window, or only reads it, and returns it, its sustained share and the budgets (R396);
a POWER.STATE that names the state and point the device has completes at once, another starts its transition where Table 13.8 accepts it and is
WRONG_STATE elsewhere (R393); THERM.THRESH sets and returns the levels of each zone kind (R402); SENSOR.MASK masks or unmasks a sensor, in flash too, or
reads the masks (R403); TELEM.READ returns the telemetry (R405). -/
def Obligations.PowerCommandsComplete : Prop :=
  (∀ s mb c w l t, Waiting s mb 0x0601 c → Plain c 8 → par c 0 4 = w → w = 0 ∨ 1500 ≤ w ∧ w ≤ 3600 → ZeroPar c 4 4 →
      t = (if w = 0 then s else s.onGate (fun g => { g with nextLimit := some w })) → l = t.gate.nextLimit.getD t.gate.limitW →
      exec (.powerLimit mb) s =
        .next (complete c stDone
          (leBytes l 4 ++ leBytes (packageShare t l) 4 ++ leBytes (budgetUnder t l .t0) 2 ++ leBytes (budgetUnder t l .t1) 2 ++ [0#8, 0#8, 0#8, 0#8]) t))
  ∧ (∀ s mb c, Waiting s mb 0x0600 c → Plain c 8 → par c 0 1 ≤ 4 → (if par c 0 1 = 1 then 1 ≤ par c 1 1 ∧ par c 1 1 ≤ 5 else par c 1 1 = 0) → ZeroPar c 2 6 →
      s.gate.change = none →
      (pwrOf (par c 0 1) = s.gate.pwr ∧ par c 1 1 = s.gate.cmdPoint → exec (.powerState mb) s = .next (complete c stDone (powerResult s 0) s))
      ∧ (¬ (pwrOf (par c 0 1) = s.gate.pwr ∧ par c 1 1 = s.gate.cmdPoint) → transitionOk s (pwrOf (par c 0 1)) = true →
        exec (.powerState mb) s =
          .next (advanceItems (retargetBoth ((markStarted c s).onGate (fun g => { g with
            change := some { mb := c.mb, target := pwrOf (par c 0 1), point := par c 1 1, startNs := s.nowNs }, cmdPoint := par c 1 1 })))))
      ∧ (¬ (pwrOf (par c 0 1) = s.gate.pwr ∧ par c 1 1 = s.gate.cmdPoint) → transitionOk s (pwrOf (par c 0 1)) = false →
        exec (.powerState mb) s = .next (complete c stWrongState [] s)))
  ∧ (∀ s mb c lw lt t, Waiting s mb 0x0602 c → Plain c 16 → par c 0 1 = 1 → ZeroPar c 0x0B 5 → lw = (List.range 5).map (fun k => par c (1 + k) 1) →
      lt = (List.range 5).map (fun k => par c (6 + k) 1) → (∀ k, k < 5 → lw.getD k 0 ≤ 20 ∧ lt.getD k 0 ≤ 20 ∧
        warnBase.getD k 0 - (lw.getD k 0 : Int) < throttleBase.getD k 0 - (lt.getD k 0 : Int)) →
      t = s.onTherm (fun x => { x with lowerWarn := lw, lowerThrottle := lt }) →
      exec (.thermThresh mb) s =
        .next (complete c stDone
          ((List.range 5).flatMap (fun k => leBytes (warnBase.getD k 0 - (lw.getD k 0 : Int)).toNat 1)
            ++ (List.range 5).flatMap (fun k => leBytes (throttleBase.getD k 0 - (lt.getD k 0 : Int)).toNat 1)
            ++ [115#8, 115#8, 115#8, 110#8, 105#8] ++ [0#8]) t))
  ∧ (∀ s mb c, Waiting s mb 0x0602 c → Plain c 16 → par c 0 1 = 0 → ZeroPar c 0x0B 5 →
      exec (.thermThresh mb) s =
        .next (complete c stDone
          ((List.range 5).flatMap (fun k => leBytes (warnOf s k).toNat 1) ++ (List.range 5).flatMap (fun k => leBytes (throttleOf s k).toNat 1)
            ++ [115#8, 115#8, 115#8, 110#8, 105#8] ++ [0#8]) s))
  ∧ (∀ s mb c z i act m t, Waiting s mb 0x0603 c → Plain c 8 → par c 0 1 = z → par c 1 1 = i → par c 2 1 = act → act ≤ 2 → ZeroPar c 3 5 → z < 10 →
      i < sensorCount z → (act = 0 → (sensorAt s z i).failed = true ∧ 3 ≤ healthyCount s z) →
      m = (if act = 0 then tabGetD s.therm.masks z 0 ||| 2 ^ i
        else if act = 1 then tabGetD s.therm.masks z 0 - (tabGetD s.therm.masks z 0 &&& 2 ^ i) else tabGetD s.therm.masks z 0) →
      t = (if act = 2 then s
        else (s.onTherm (fun x => { x with masks := tabPut x.masks z m })).onFlash (fun x => { x with masks := tabPut x.masks z m })) →
      exec (.sensorMask mb) s =
        .next (complete c stDone (leBytes (failedBits t z) 2 ++ leBytes m 2 ++ leBytes (healthyCount t z) 1 ++ [0#8, 0#8, 0#8]) t))
  ∧ (∀ s mb c, Waiting s mb 0x0604 c → Plain c 0 → exec (.telemRead mb) s = .next (complete c stDone (telemResult s) s))

/-- The end of a power transition puts its state in force: DEV_POWER_STATE.STATE shows it, CHANGING is clear, and the POWER.STATE command, where it
still runs, completes with the state, the point and the time it took (R393). Without a transition nothing ends. -/
def Obligations.PowerTransitionEnds : Prop :=
  (∀ s at_ drops, s.gate.change = none → exec (.powerTransitionEnd at_ drops) s = .next s)
  ∧ (∀ s at_ drops ch s2 s4, s.gate.change = some ch → s2 = enterState ch.target (leaveState drops (s.timeTo at_)) →
      s4 = advanceItems (opPointEnd .t1 (opPointEnd .t0 (noteStatus s2 (s2.onGate (fun g => { g with pwr := ch.target, change := none }))))) →
      (∀ c, startedCmd s4 ch.mb 0x0600 = some c →
        exec (.powerTransitionEnd at_ drops) s = .next (complete c stDone (powerResult s4 (timeUs s4.nowNs ch.startNs)) s4))
      ∧ (startedCmd s4 ch.mb 0x0600 = none → exec (.powerTransitionEnd at_ drops) s = .next s4))

/-- Time goes on to the end of the first notice, and what is due starts; a grant of a tower never exceeds what its budget leaves after the
reservations held and the debt (R388). -/
def Obligations.GateWindows : Prop :=
  (∀ s t ts, (s.gate.grants.filter (fun x => !x.started && grantMay s x)).map (·.startNs) = t :: ts →
      exec .gateNoticeEnd s = .next (startDue (s.timeTo (ts.foldl min t))))
  ∧ (∀ s, s.gate.grants.filter (fun x => !x.started && grantMay s x) = [] → exec .gateNoticeEnd s = .next s)
  ∧ (∀ s s' t u g, grantHead t s = some s' → s'.gate.grants.length = s.gate.grants.length + 1 → s'.gate.grants.getLast? = some g →
      g.towers.testBit (towerNum u) = true → heldAt s' u (s'.gate.point.get u) + s'.gate.debt.get u ≤ cappedBudget s' u)

/-- The debt of a window (R390): what the regulators measured over the capped budget and the tower's half of the reserve is carried; what is below
repays it; while it lasts it is room that later windows lack; and where the excess is above 0, every class held in the tower counts no measured grant, so
its rate is the fuse rate again. A window start settles both towers' windows, goes to the next, and then applies a new limit and serves the queues;
while the gate is off nothing happens. -/
def Obligations.WindowDebt : Prop :=
  (∀ s m0 m1, s.gate.on = false → exec (.gateWindowStart m0 m1) s = .next s)
  ∧ (∀ s m0 m1, s.gate.on = true →
      exec (.gateWindowStart m0 m1) s =
        .next (startDue (checkWaits (gateSchedule (applyLimit
          ((windowEnd .t1 m1 (windowEnd .t0 m0 (s.timeTo s.gate.windowNs))).onGate (fun g => { g with windowNs := g.windowNs + 10000 })))))))
  ∧ (∀ s t (m : Nat) (excess : Int), excess = (m : Int) - 190 - ((windowBudget s.gate.limitW * capPm s t / 1000 : Nat) : Int) →
      ((windowEnd t m s).gate.debt.get t : Int) = max 0 ((s.gate.debt.get t : Int) + excess)
      ∧ (windowEnd t m s).gate.debt.get (otherTower t) = s.gate.debt.get (otherTower t)
      ∧ (excess ≤ 0 → (windowEnd t m s).gate.ended = s.gate.ended)
      ∧ (0 < excess → ∀ c, c < 16 → (∃ g ∈ s.gate.grants, g.towers.testBit (towerNum t) = true ∧ g.eclass = c) →
          tabGetD (windowEnd t m s).gate.ended (towerNum t * 16 + c) 0 = 0 ∧ baseRate (windowEnd t m s) t c = fuseRate c)
      ∧ (0 < excess → ∀ c, c < 16 → (∀ g ∈ s.gate.grants, g.towers.testBit (towerNum t) = true → g.eclass ≠ c) →
          (∀ g ∈ s.gate.grants, g.eclass < 16) →
          tabGetD (windowEnd t m s).gate.ended (towerNum t * 16 + c) 0 = tabGetD s.gate.ended (towerNum t * 16 + c) 0))
  ∧ (∀ s t need point, fitsRoom s t need point = true ↔
      (need : Int) ≤ ((windowBudget s.gate.limitW * capPm s t / 1000 : Nat) : Int) - heldAt s t point - s.gate.debt.get t)

/-- An operation that has ended releases what it held at the gate; its item completes and what it held up goes on: a KERNEL item once its crews
have exited and its writes are visible, a SWEEP once it has run (a posted one bumps its counter, one that faults ends with its fault, one that waits for
its grant or an earlier operation stays), a COPY, TEDDER or STAGE item once its pieces are written, a COLLECTIVE item at END with nothing outstanding. -/
def Obligations.ItemsComplete : Prop :=
  (∀ s job item energy tick, itemRuns s job item 1 = some tick → kernelBusy s job item = false →
      exec (.kernelItemComplete job item energy) s = .next (itemDone job tick item (gateRelease job tick item energy s)))
  ∧ (∀ s job item energy tick, itemRuns s job item 1 = some tick → kernelBusy s job item = true →
      exec (.kernelItemComplete job item energy) s = .next s)
  ∧ (∀ s t index energy o, (s.press.queues.get t)[index]? = some o → o.granted = false ∨ sweepBlocked ((s.press.queues.get t).take index) o = true →
      exec (.sweepOpComplete t index energy) s = .next s)
  ∧ (∀ s t index energy o s1 s2, (s.press.queues.get t)[index]? = some o → o.granted = true →
      sweepBlocked ((s.press.queues.get t).take index) o = false →
      (if o.hdr.mode = 2 then (runAppend t o s, none) else runSweep t o s) = (s1, none) → s2 = sweepLeave t index s1 →
      (o.posted = none → exec (.sweepOpComplete t index energy) s =
        .next (itemDone o.job (((jobAt s2 o.job).map (·.tick)).getD 0) o.item
          (gateRelease o.job (((jobAt s2 o.job).map (·.tick)).getD 0) o.item energy s2)))
      ∧ (∀ core slot uid ctr, o.posted = some (core, slot, uid, ctr) →
        exec (.sweepOpComplete t index energy) s = .next (advanceItems (bumpCounter core slot uid ctr s2))))
  ∧ (∀ s t index energy o s1 f, (s.press.queues.get t)[index]? = some o → o.granted = true →
      sweepBlocked ((s.press.queues.get t).take index) o = false → o.hdr.mode ≠ 2 → runSweep t o s = (s1, some f) →
      exec (.sweepOpComplete t index energy) s = .next (advanceItems (sweepFaulted t index o f s1)))
  ∧ (∀ s job item energy r, copyFinished s job item = some r →
      exec (.copyItemComplete job item energy) s =
        .next (itemDone job r.tick item (gateRelease job r.tick item energy (s.onEng (fun e => { e with runs := e.runs.filter (fun x => !sameRun x r) })))))
  ∧ (∀ s job item energy p x tick, seqReady s job item 8 = some (p, x) → itemRuns s job item 5 = some tick → p.outstanding = [] →
      exec (.seqEnd job item energy) s = .next (itemDone job tick item (gateRelease job tick item energy (progLeave job item s))))
  ∧ (∀ s job tick item energy, ∀ g ∈ (gateRelease job tick item energy s).gate.grants, ¬ (g.job = job ∧ g.tick = tick ∧ g.item = item))

/-- A thermal sample reads the sensors, judges failures and zones, and sets clamps and the refresh rate of the stacks; a zone that reaches its shutdown
level takes the package rail off, latches the zone, asserts THERMTRIP# and loses what was not in flash (R397 to R401). A clamp takes the step that is due
first: the rafter's point falls by one each millisecond while it is at throttle, and steps back each 10 ms once it is cool; another zone steps its
cap down to 750, 500 and 250 per mille and back likewise, and the tower has the lowest (R399, R404). A zone's level is 3
at its shutdown level, 2 at throttle, 1 at warn, else 0; reaching is inclusive (R398), and a level once reached is held until the reading is 5 °C below
it (log 42). -/
def Obligations.ThermalCommands : Prop :=
  (∀ s at_ reports, s.mod.rail = false ∨ s.boot.running = false ∨ s.boot.stage < 3 → exec (.thermalSample at_ reports) s = .next s)
  ∧ (∀ s at_ reports s3, s.mod.rail = true → s.boot.running = true → 3 ≤ s.boot.stage →
      s3 = postFailed (failedSensors s) ((List.range 26).foldl judgeZone
        (thresholdsApply (((reports.foldl applyReport (s.timeTo at_)).therm.sensors.map (·.1)).foldl judgeSensor (reports.foldl applyReport (s.timeTo at_))))) →
      (List.range 26).find? (fun z => decide (levelOf s3 z = 3)) = none →
      exec (.thermalSample at_ reports) s =
        .next (topoTry (advanceItems (noteStatus s (retargetBoth (liftClamps ((List.range 16).foldl stackRefresh ((List.range 26).foldl engage s3))))))))
  ∧ (∀ s at_ reports s3 z, s.mod.rail = true → s.boot.running = true → 3 ≤ s.boot.stage →
      s3 = postFailed (failedSensors s) ((List.range 26).foldl judgeZone
        (thresholdsApply (((reports.foldl applyReport (s.timeTo at_)).therm.sensors.map (·.1)).foldl judgeSensor (reports.foldl applyReport (s.timeTo at_))))) →
      (List.range 26).find? (fun z => decide (levelOf s3 z = 3)) = some z →
      ∃ t, exec (.thermalSample at_ reports) s = .next t ∧ t.mod.rail = false ∧ t.mod.powerGood = false
        ∧ t.mod.latch = some (z, celsius (tabGetD s3.therm.zoneC z 0)) ∧ t.jobs.jobs = [] ∧ t.pending = s.pending)
  ∧ (∀ s t, pointStep s t = none → capSteps s t = [] → exec (.thermalClampStep t) s = .next s)
  ∧ (∀ s t due p, pointStep s t = some (due, p) → capSteps s t = [] →
      exec (.thermalClampStep t) s =
        .next (advanceItems (noteStatus s (liftClamps (traceThermal t (retarget t (stepPoint t p (s.timeTo due))))))))
  ∧ (∀ s t due z c, pointStep s t = none → capSteps s t = [(z, due, c)] →
      exec (.thermalClampStep t) s =
        .next (advanceItems (noteStatus s (liftClamps (traceThermal t (retarget t (stepZone t z c (s.timeTo due))))))))
  ∧ (∀ s t d1 d2 p z c s1 s2, pointStep s t = some (d1, p) → capSteps s t = [(z, d2, c)] → s1 = s.timeTo (min d1 d2) →
      s2 = (if d1 ≤ s1.nowNs then stepPoint t p s1 else s1) →
      exec (.thermalClampStep t) s =
        .next (advanceItems (noteStatus s (liftClamps (traceThermal t (retarget t (if d2 ≤ s1.nowNs then stepZone t z c s2 else s2)))))))
  ∧ (∀ s t p, s.therm.clamped.contains (rafterZone t) = true → s.gate.thermPoint.get t = p →
      (zoneHot s (rafterZone t) = true → p < 5 →
        pointStep s t = some (s.therm.pointNs.get t + 1000000, min 5 (max p (s.gate.point.get t) + 1)))
      ∧ (zoneHot s (rafterZone t) = false → zoneCool s (rafterZone t) = true → s.gate.cmdPoint + 1 < p →
        pointStep s t = some (s.therm.pointNs.get t + 10000000, p - 1)))
  ∧ (∀ s z old x, (∀ k, k < 5 → warnOf s k < throttleOf s k) →
    (shutdownOf (zoneKind z) ≤ x → levelAt s z old x = 3)
    ∧ (throttleOf s (zoneKind z) ≤ x → x < shutdownOf (zoneKind z) - 5 → levelAt s z old x = 2)
    ∧ (warnOf s (zoneKind z) ≤ x → x < throttleOf s (zoneKind z) - 5 → levelAt s z old x = 1)
    ∧ (x ≤ warnOf s (zoneKind z) - 5 → levelAt s z old x = 0)
    ∧ (x < warnOf s (zoneKind z) → old = 0 → levelAt s z old x = 0)
    ∧ levelAt s z old x ≤ 3)
  ∧ (∀ s t z cap last, z ≠ rafterZone t → capOf s z = (cap, last) →
      (zoneHot s z = true → 250 < cap → zoneStep s t z = some (last + 1000000, if 750 < cap then 750 else if 500 < cap then 500 else 250))
      ∧ (zoneHot s z = false → zoneCool s z = true → cap < 1000 →
        zoneStep s t z = some (last + 10000000, if cap < 500 then 500 else if cap < 750 then 750 else 1000)))
  ∧ (∀ s t z c, s.therm.clamped.contains z = true → towerOfZone z = t → (∀ y ∈ s.therm.clamped, towerOfZone y = t → y ≠ z → c ≤ (capOf s y).1) → c ≤ 1000 →
      (stepZone t z c s).gate.capTherm.get t = c)

/-- A power bond drop up to 25 mV is only noted; above it, to 60 mV, the tower is capped at 700 per mille; above 60 mV the tower closes: it runs at
point 5, its cap is 0, and its job faults (R404). A rail that has slewed for a rise takes the fastest point that fits (R383). -/
def Obligations.BondDropsAndPoints : Prop :=
  (∀ s zone mv, 10 ≤ zone → exec (.powerBondDrop zone mv) s = .next s)
  ∧ (∀ s zone mv, zone < 10 → mv ≤ 25 → exec (.powerBondDrop zone mv) s = .next (noteDrop zone mv s))
  ∧ (∀ s zone mv, zone < 10 → 25 < mv → mv ≤ 60 →
      ∃ t, exec (.powerBondDrop zone mv) s = .next t ∧ t.gate.capBond.get (towerOfZone zone) = 700
        ∧ (s.therm.closed.get (towerOfZone zone) = false → capPm t (towerOfZone zone) = min (s.gate.capTherm.get (towerOfZone zone)) 700)
        ∧ t.gate.capBond.get (otherTower (towerOfZone zone)) = s.gate.capBond.get (otherTower (towerOfZone zone)))
  ∧ (∀ s zone mv x s1, zone < 10 → 60 < mv → x = towerOfZone zone →
      s1 = traceDrop zone 2 (retarget x ((noteDrop zone mv s).onTherm (fun y => { y with closed := y.closed.set x true }))) →
      capPm s1 x = 0 ∧ targetPoint s1 x = 5
      ∧ (∀ j, jobOfTower s1 x = some j → exec (.powerBondDrop zone mv) s = .next (jobFault j.id evPowerBondDrop (dropDetail s1 zone mv 2) s1))
      ∧ (jobOfTower s1 x = none → exec (.powerBondDrop zone mv) s = .next (postEvent 1 evPowerBondDrop 0 (dropDetail s1 zone mv 2) s1)))
  ∧ (∀ s t, s.gate.slew.get t = none → exec (.opPointChangeEnd t) s = .next (advanceItems s))
  ∧ (∀ s t p, s.gate.slew.get t = some p → s.gate.point.get t ≤ targetPoint s t →
      exec (.opPointChangeEnd t) s = .next (advanceItems (s.onGate (fun g => { g with slew := g.slew.set t none }))))
  ∧ (∀ s t p, s.gate.slew.get t = some p → targetPoint s t < s.gate.point.get t →
      exec (.opPointChangeEnd t) s =
        .next (advanceItems (noteStatus s ((s.onGate (fun g => { g with slew := g.slew.set t none })).onGate (fun g => { g with
          point := g.point.set t (risePoint s t) })))))
/-! ### Reset, bring-up, identity, trust, the module -/

/-- A DEVICE reset leaves the jobs, cores, fabric, gate, counters and tests as after reset, at stage 0 with bring-up running, and a report of
level 3; flash, fuses and the module's own state stay (R407, R412, R435). DEV_RESET starts it on its key and on nothing else (R359). -/
def Obligations.DeviceResetLeaves : Prop :=
  (∀ s source, (deviceReset source s).jobs = JobsSt.reset ∧ (deviceReset source s).cores = CoresSt.reset ∧ (deviceReset source s).fab = FabSt.reset
      ∧ (deviceReset source s).gate = GateSt.reset ∧ (deviceReset source s).obs = ObsSt.reset ∧ (deviceReset source s).loft = LoftSt.reset
      ∧ (deviceReset source s).boot.stage = 0 ∧ (deviceReset source s).boot.running = true ∧ (deviceReset source s).boot.cold = false
      ∧ (deviceReset source s).boot.report.level = 3 ∧ (deviceReset source s).boot.report.source = source ∧ (deviceReset source s).nowNs = 0
      ∧ (deviceReset source s).flash = s.flash ∧ (deviceReset source s).fuses = s.fuses ∧ (deviceReset source s).mod = s.mod
      ∧ (deviceReset source s).pending = s.pending)
  ∧ (∀ s, barOk s = true → exec (.devResetKey 0x0000D15E#32) s = .next (deviceReset 1 s))
  ∧ (∀ s v, v ≠ 0x0000D15E#32 → exec (.devResetKey v) s = .next s)

/-- RESET.LEVEL: level 3 is a DEVICE reset, its command having completed; level 0 resets one core; levels 1 and 2 a partition. The resets that run
complete their command at their end with the time they took; a partition's drains its cores, writes its dirty lines back and counts those it cannot
(R205, R407, R409, R414). A stack that has not confirmed self-refresh within 1 ms of a DEVICE
reset is lost, with the trust in the cellars of its tower (R413). -/
def Obligations.ResetCommandsComplete : Prop :=
  (∀ s mb c, Waiting s mb 0x0700 c → Plain c 8 → par c 0 1 = 3 → par c 1 1 = 0 → par c 2 2 = 0 → ZeroPar c 4 4 → s.boot.part = none → s.boot.coreReset = none →
      exec (.resetLevel mb) s = .next (deviceReset 0 (complete c stDone [] s)))
  ∧ (∀ s mb c, Waiting s mb 0x0700 c → Plain c 8 → par c 0 1 = 0 → par c 1 1 = 0 → coreExists s (par c 2 2) = true → ZeroPar c 4 4 →
      s.boot.part = none → s.boot.coreReset = none → s.boot.recovery = false → s.gate.pwr ≠ .rest → s.gate.pwr ≠ .dark → coreBusy s (par c 2 2) = false →
      exec (.resetLevel mb) s =
        .next ((markStarted c s).onBoot (fun b => { b with coreReset := some (c.mb, par c 2 2, s.nowNs) })))
  ∧ (∀ s mb c lv p, Waiting s mb 0x0700 c → Plain c 8 → par c 0 1 = lv → lv = 1 ∨ lv = 2 → par c 1 1 = p → p ≤ 2 → (s.jobs.partMode = 0 → p = 0) →
      par c 2 2 = 0 → ZeroPar c 4 4 → s.boot.part = none → s.boot.coreReset = none → s.boot.recovery = false → s.gate.pwr ≠ .rest → s.gate.pwr ≠ .dark →
      exec (.resetLevel mb) s = .next (startPartReset c (decide (lv = 2)) p s))
  ∧ (∀ s at_, s.boot.coreReset = none → exec (.coreResetEnd at_) s = .next s)
  ∧ (∀ s at_ mb core start c s2, s.boot.coreReset = some (mb, core, start) → Running s mb 0x0700 c →
      s2 = (onCore core (fun k => { Core.empty with held := k.held }) (s.timeTo at_)).onBoot (fun b => { b with coreReset := none }) →
      exec (.coreResetEnd at_) s = .next (complete c stDone (resetResult (timeUs (max s.nowNs at_) start) 0 0 0) s2))
  ∧ (∀ s at_ failed, s.boot.part = none → exec (.partitionResetEnd at_ failed) s = .next s)
  ∧ (∀ s at_ failed p ts s1 f lost s4, s.boot.part = some p → ts = towersOfPartition p.partition → s1 = drainCores ts (s.timeTo at_) →
      ts.foldl (fun a t => flushTower t a) (s1, 0) = (f, lost) →
      s4 = (mapOutCores 2 (failed.filter (fun x => ts.contains x.1))
        (if p.towerLevel then towerLevelEnd ts (clearCores ts f) else clearCores ts f)).onBoot (fun b => { b with part := none }) →
      (∀ c, startedCmd s4 p.mb 0x0700 = some c → exec (.partitionResetEnd at_ failed) s =
        .next (complete c stDone (resetResult (timeUs s4.nowNs p.startNs) lost (towersDirtyBytes ts s1) p.faultedItems) s4))
      ∧ (startedCmd s4 p.mb 0x0700 = none → exec (.partitionResetEnd at_ failed) s = .next s4))
  ∧ (∀ s i x, tabGet s.hbm.hbmStacks i = some x → s.boot.running = true → s.boot.cold = false → s.boot.stage = 0 → x.selfRefresh = true → x.lost = false →
      ∃ t, exec (.stackSelfRefreshTimeout i) s = .next t ∧ tabGet t.hbm.hbmStacks i = some { x with lost := true }
        ∧ (t.twin.get (towerOfStack i)).untrusted = true ∧ t.boot.report.stacksLost = s.boot.report.stacksLost ||| 2 ^ i
        ∧ t.boot.report.untrusted = s.boot.report.untrusted ||| 2 ^ towerNum (towerOfStack i)
        ∧ t.twin.get (otherTower (towerOfStack i)) = s.twin.get (otherTower (towerOfStack i)) ∧ t.hbm.mem = s.hbm.mem)
  ∧ (∀ s i x, tabGet s.hbm.hbmStacks i = some x →
      s.boot.running = false ∨ s.boot.cold = true ∨ s.boot.stage ≠ 0 ∨ x.selfRefresh = false ∨ x.lost = true →
      exec (.stackSelfRefreshTimeout i) s = .next s)

/-- A running stage that ends with a failure code holds, FAILED with that code; one whose work succeeds gives way to the next, and both leave their
record (R415, R416); at S6 an image that boot verification refuses fails the stage with its code and starts no MC (R424). Boot verification names the
first check an image fails: header or CRC 0x6001, signature 0x6002, SVN 0x6003 (Table 15.5, R441). -/
def Obligations.BringupStages : Prop :=
  (∀ s r, s.boot.running = true → s.boot.failed = false → s.boot.stage < 9 → stageWaits s = false → r.code ≠ 0 → codeStage r.code = s.boot.stage →
      ∃ t, exec (.bringupStageEnd r) s = .next t ∧ t.boot.failed = true ∧ t.boot.code = r.code ∧ t.boot.stage = s.boot.stage
        ∧ t.nowNs = max s.nowNs ((s.boot.elapsedUs + r.durationUs) * 1000))
  ∧ (∀ s r w, s.boot.running = true → s.boot.failed = false → s.boot.stage < 9 → stageWaits s = false → r.code = 0 →
      w = stageWork r (s.timeTo ((s.boot.elapsedUs + r.durationUs) * 1000)) →
      exec (.bringupStageEnd r) s = .next (if w.code = 0 then stageNext w.mapped w.st else stageFail w.code w.mapped w.st))
  ∧ (∀ s r, s.boot.running = false ∨ s.boot.failed = true ∨ 9 ≤ s.boot.stage ∨ stageWaits s = true ∨ r.code ≠ 0 ∧ codeStage r.code ≠ s.boot.stage →
      exec (.bringupStageEnd r) s = .next s)
  ∧ (∀ s r, s.boot.running = true → s.boot.failed = false →
      s.boot.stage = 0 ∨ s.boot.stage = 3 ∧ s.therm.closed.t0 = false ∧ s.therm.closed.t1 = false → stageWaits s = false → r.code = 0 →
      ∃ t, exec (.bringupStageEnd r) s = .next t ∧ t.boot.stage = s.boot.stage + 1 ∧ t.boot.failed = false
        ∧ t.boot.elapsedUs = max s.nowNs ((s.boot.elapsedUs + r.durationUs) * 1000) / 1000
        ∧ t.boot.recovery = s.boot.recovery ∧ t.flash = s.flash ∧ t.hbm = s.hbm ∧ t.loft = s.loft ∧ t.jobs = s.jobs)
  ∧ (∀ s r, s.boot.running = true → s.boot.failed = false → s.boot.stage = 6 → stageWaits s = false → r.code = 0 →
      bootVerify (s.timeTo ((s.boot.elapsedUs + r.durationUs) * 1000)) ≠ 0 →
      ∃ t, exec (.bringupStageEnd r) s = .next t ∧ t.boot.failed = true
        ∧ t.boot.code = bootVerify (s.timeTo ((s.boot.elapsedUs + r.durationUs) * 1000)) ∧ t.host.mcRuns = s.host.mcRuns ∧ t.trust = s.trust)
  ∧ (∀ s : State,
    (imageHeaderOk (memRead s.flash.image 0 256) = false → bootVerify s = 0x6001)
    ∧ (imageHeaderOk (memRead s.flash.image 0 256) = true → imageCrcOk (imageBytes s.flash.image) = false → bootVerify s = 0x6001)
    ∧ (imageHeaderOk (memRead s.flash.image 0 256) = true → imageCrcOk (imageBytes s.flash.image) = true → imageSigOk s (imageBytes s.flash.image) = false →
        bootVerify s = 0x6002)
    ∧ (imageHeaderOk (memRead s.flash.image 0 256) = true → imageCrcOk (imageBytes s.flash.image) = true → imageSigOk s (imageBytes s.flash.image) = true →
        (bootVerify s = 0 ↔ s.fuses.svnFloor ≤ fieldAt (imageBytes s.flash.image) 0xC 1))
    ∧ (∀ slot, fieldAt (imageBytes s.flash.image) 0xD 1 = slot → slot < 4 → s.fuses.revoked.getLsbD slot = true → bootVerify s ≠ 0))

/-- BRINGUP.REPORT, IDENT.READ and FUSE.READ complete with what they read and change nothing else; IDENT.READ is WRONG_STATE where the memory has not
been read since time zero, and takes LIVE for a cable module alone (R420, R430, R434; LIVE of other sources is the model's choice, log 68). -/
def Obligations.BringupReadsComplete : Prop :=
  (∀ s mb c, Waiting s mb 0x0701 c → Plain c 0 → exec (.bringupReport mb) s = .next (complete c stDone (bringupResult s) s))
  ∧ (∀ s mb c r src idx bank page n off live, Waiting s mb 0x0702 c → Plain c 16 → par c 0 1 = src → par c 1 1 = idx → par c 2 1 ≤ 1 → par c 3 1 = page →
      par c 4 1 = bank → ZeroPar c 5 1 → par c 6 2 = off → par c 8 2 = n → ZeroPar c 0xA 6 → 1 ≤ n → off ≤ 255 → off + n ≤ 256 → src ≤ 3 →
      (src < 2 → idx = 0) → (src = 2 → idx ≤ 15 ∧ off + n ≤ 16) → (src = 3 → idx ≤ 5) → (src ≠ 3 → page = 0 ∧ bank = 0) →
      live = decide (src = 3 ∧ par c 2 1 = 1) →
      (identOf s src idx bank page off n (if live then some r else none) = none → exec (.identRead mb r) s = .next (complete c stWrongState [] s))
      ∧ (∀ x, identOf s src idx bank page off n (if live then some r else none) = some x →
        exec (.identRead mb r) s =
          .next (complete c stDone
            (leBytes n 2 ++ leBytes ((if x.present then 1 else 0) + (if x.crcOk then 2 else 0) + (if live ∧ x.present then 4 else 0)) 1 ++ leBytes 0 1
              ++ leBytes (min 0xFFFFFFFF ((s.nowNs - x.readNs) / 1000000)) 4 ++ leBytes 0 8
              ++ (List.range n).map (fun i => x.bytes (off + i))) s)))
  ∧ (∀ s off n, 2 ≤ s.boot.stage → ∃ x, identOf s 0 0 0 0 off n none = some x ∧ x.present = true
      ∧ x.crcOk = eepromOk 0x4D5A4441 s.flash.moduleEeprom ∧ x.bytes = fun i => s.flash.moduleEeprom.getD i 0#8)
  ∧ (∀ s mb c all, Waiting s mb 0x0703 c → Plain c 8 → par c 4 1 ≤ 2 → ZeroPar c 5 3 →
      all = (if par c 4 1 = 2 then [] else s.fuses.defects) ++ (if par c 4 1 = 1 then [] else s.flash.defects) →
      exec (.fuseRead mb) s =
        .next (complete c stDone
          (leBytes all.length 4 ++ leBytes ((all.drop (par c 0 4)).take 502).length 4 ++ leBytes 0 8
            ++ ((all.drop (par c 0 4)).take 502).flatMap defectBytes) s))

/-- FW.STAGE adds its bytes at STAGED, or restarts the buffer; FW.COMMIT of a good image writes the slot's body and leaves the header to the end of the
write, which completes the command, with DEVICE_FAULT where it failed; CHECK_ONLY completes at once; FW.VERSION reports; FW.ROLLBACK_COMMIT raises
SVN_FLOOR to the running image's SVN, never lowering it, and blows the REVOKED bits it names (R437, R442 to R446). -/
def Obligations.FirmwareCommandsComplete : Prop :=
  (∀ s mb c n have_, Waiting s mb 0x0A00 c → Plain c (16 + n) → par c 4 4 = n → 1 ≤ n → n ≤ 4016 → par c 8 4 ≤ 1 →
      have_ = (if par c 8 4 = 1 then 0 else s.trust.staged) → par c 0 4 = have_ → have_ + n ≤ slotBytes → ZeroPar c 0xC 4 → 6 ≤ s.boot.stage →
      s.trust.writing = none →
      exec (.fwStage mb) s =
        .next (complete c stDone (leBytes (have_ + n) 4) (s.onTrust (fun t => { t with
          stage := memWrite (if par c 8 4 = 1 then [] else t.stage) have_ (sliceBytes c.params 0x10 n), staged := have_ + n }))))
  ∧ (∀ s mb c img, Waiting s mb 0x0A01 c → Plain c 16 → img = imageBytes s.trust.stage → par c 4 4 ≤ 1 → ZeroPar c 8 8 → 6 ≤ s.boot.stage → s.trust.staged ≠ 0 →
      s.trust.writing = none → par c 0 4 = s.trust.staged → fieldAt img 8 4 = s.trust.staged → imageHeaderOk img = true → imageCrcOk img = true →
      imageSigOk s img = true → imageSvnOk s img = true →
      (par c 4 4 = 1 → exec (.fwCommit mb) s = .next (complete c stDone (commitResult img 0) s))
      ∧ (par c 4 4 = 0 → exec (.fwCommit mb) s =
        .next (((markStarted c s).onFlash (fun f => { f with image := s.trust.stage.filter (fun e => decide (256 ≤ e.1)) })).onTrust (fun t => { t with
          writing := some { mb := c.mb, startNs := s.nowNs } }))))
  ∧ (∀ s ok, s.trust.writing = none → exec (.flashWriteEnd ok) s = .next s)
  ∧ (∀ s w c, s.trust.writing = some w → Running s w.mb 0x0A01 c →
      exec (.flashWriteEnd false) s = .next (complete c stDeviceFault [] (s.onTrust (fun t => { t with writing := none })))
      ∧ exec (.flashWriteEnd true) s =
        .next (complete c stDone (commitResult (imageBytes s.trust.stage) (Config.duration s.freeCtr % 90001))
          ((s.onTrust (fun t => { t with writing := none })).onFlash (fun f => { f with image := s.trust.stage }))))
  ∧ (∀ s mb c, Waiting s mb 0x0A02 c → Plain c 0 → s.fuses.keyHash.length = 4 → ∃ res, res.length = 192 ∧ exec (.fwVersion mb) s = .next (complete c stDone res s))
  ∧ (∀ s mb c svn rev, Waiting s mb 0x0802 c → Plain c 8 → par c 0 1 = svn → par c 1 1 ≤ 1 → svn = runField s 0xC 1 → ZeroPar c 2 6 →
      svn ≤ (memGet s.flash.image 0xC).toNat →
      rev = s.fuses.revoked ||| BitVec.ofNat 4 (if par c 1 1 = 1 then runField s 0x39 1 else 0) →
      (par c 1 1 = 1 → (runField s 0x39 1).testBit (runField s 0xD 1) = false ∧ rev ≠ 0xF#4) →
      exec (.fwRollbackCommit mb) s =
        .next (complete c stDone (leBytes (max s.fuses.svnFloor svn) 1 ++ leBytes rev.toNat 1 ++ leBytes 0 6)
          (s.onFuses (fun f => { f with svnFloor := max f.svnFloor svn, revoked := rev }))))

/-- ATTEST.QUOTE signs, for a job or none, with the second-level key, or with a new one where its signatures are used up, and uses up one of its
signatures; ATTEST.CERT returns the certificate, DEVICE_FAULT where it cannot be read; the end of a rebuild makes the key (R448 to R453). -/
def Obligations.AttestationCompletes : Prop :=
  (∀ s mb c gen top n, Waiting s mb 0x0800 c → Plain c 40 → ZeroPar c 0x20 8 → c.job = 0 ∨ (jobAt s c.job).isSome = true → s.trust.rebuilding = false →
      (readyKey s).trust.key2 = some (gen, top, n) →
      exec (.attestQuote mb) s =
        .next (complete c stDone (quoteBody (readyKey s) c.job (sliceBytes c.params 0 32) ++ hssSignature gen top n)
          (readyKey ((readyKey s).onTrust (fun t => { t with key2 := some (gen, top, n + 1) })))))
  ∧ (∀ s mb c, Waiting s mb 0x0800 c → Plain c 40 → ZeroPar c 0x20 8 → c.job = 0 ∨ (jobAt s c.job).isSome = true → s.trust.rebuilding = false →
      (readyKey s).trust.key2 = none → exec (.attestQuote mb) s = .next (complete c stNoSpace [] s))
  ∧ (∀ s gen top n, s.trust.key2 = some (gen, top, n) → n < 1024 → readyKey s = s)
  ∧ (∀ gen top n, (hssSignature gen top n).length = 3284)
  ∧ (∀ s mb c cert, Waiting s mb 0x0801 c → Plain c 0 → s.flash.cert = some cert →
      exec (.attestCert mb) s = .next (complete c stDone (cert.take 4032) s))
  ∧ (∀ s mb c, Waiting s mb 0x0801 c → Plain c 0 → s.flash.cert = none → exec (.attestCert mb) s = .next (complete c stDeviceFault [] s))
  ∧ (∀ s, exec .idCacheRebuildEnd s = .next (if s.trust.rebuilding then newKey (s.onTrust (fun t => { t with rebuilding := false })) else s))
  ∧ (∀ s q t, takeLeaf s = some (q, t) → t.fuses.idBlocks = s.fuses.idBlocks ∨ t.fuses.idBlocks = s.fuses.idBlocks + 1)

/-- The package rail goes on when PWR_EN is asserted with the input good, no thermal latch and no MODULE_OFF in force; time zero is reached with the
rail good, PWR_EN asserted and PERST# deasserted; losing the rail, or asserting PERST# on it, is a COLD reset (R353, R400, R415, R484, R488,
R489). -/
def Obligations.PowerSequence : Prop :=
  (∀ s, s.mod.input = .good → s.mod.pwrEn = false → s.mod.latch = none → s.mod.moduleOff = false → s.mod.powerGood = false → s.boot.running = false →
      exec .pwrEnAssert s =
        .next (s.onMod (fun m => { m with pwrEn := true, moduleOff := false, moduleOffCycled := false, rail := true })))
  ∧ (∀ s, s.mod.input = .good → s.mod.pwrEn = false → s.mod.latch.isSome = true → s.mod.rail = false →
      ∃ t, exec .pwrEnAssert s = .next t ∧ t.mod.rail = false ∧ t.mod.pwrEn = true)
  ∧ (∀ s, s.mod.rail = true → s.mod.pwrEn = true → s.mod.perst = false → s.boot.running = false →
      ∃ t, exec .packageRailPowerGood s = .next t ∧ t.mod.powerGood = true ∧ t.boot.running = true ∧ t.nowNs = 0)
  ∧ (∀ s, s.mod.rail = true → s.mod.pwrEn = true → s.mod.powerGood = true → s.boot.running = false →
      ∃ t, exec .perstDeassert s = .next t ∧ t.mod.perst = false ∧ t.boot.running = true ∧ t.nowNs = 0)
  ∧ (∀ s, s.mod.rail = true → s.mod.perst = false →
      ∃ t, exec .perstAssert s = .next t ∧ t = coldReset 2 false (s.onMod (fun m => { m with perst := true })) ∧ t.mod.rail = true)
  ∧ (∀ s, s.mod.rail = false ∨ s.mod.perst = true → exec .perstAssert s = .next (s.onMod (fun m => { m with perst := true })))
  ∧ (∀ s, s.mod.rail = false → exec .packageRailPowerGood s = .next s)
  ∧ (∀ s, s.mod.pwrEn = true → exec .pwrEnAssert s = .next s)
  ∧ (∀ s, s.mod.pwrEn = false → exec .pwrEnDeassert s = .next s)
  ∧ (∀ s, s.mod.pwrEn = true → s.mod.rail = true →
      exec .pwrEnDeassert s = .next (coldReset 3 false (s.onMod (fun m => { m with
        pwrEn := false, moduleOffCycled := m.moduleOff, rail := false, powerGood := false }))))
  ∧ (∀ s, s.mod.pwrEn = true → s.mod.rail = false →
      exec .pwrEnDeassert s = .next (s.onMod (fun m => { m with pwrEn := false, moduleOffCycled := m.moduleOff })))
  ∧ (∀ s, s.mod.input = .good → s.mod.rail = false → exec .inputUndervoltage s = .next (s.onMod (fun m => { m with input := .low })))
  ∧ (∀ s, s.mod.input ≠ .good → exec .inputUndervoltage s = .next s)
  ∧ (∀ s, s.mod.input = .good → s.mod.rail = true →
      exec .inputUndervoltage s = .next (coldReset 4 false (s.onMod (fun m => { m with input := .low, rail := false, powerGood := false }))))
  ∧ (∀ s, s.mod.input = .low → s.mod.pwrEn = true → s.mod.latch = none → s.mod.moduleOff = false → s.mod.powerGood = false →
      exec .inputReturn s = .next (s.onMod (fun m => { m with input := .good, rail := true })))
  ∧ (∀ s, s.mod.input ≠ .low → exec .inputReturn s = .next s)
  ∧ (∀ s, s.mod.input = .low → s.mod.pwrEn = false → exec .inputReturn s = .next (s.onMod (fun m => { m with input := .good })))
  ∧ (∀ s, s.mod.input ≠ .off → exec .inputRise s = .next s)
  ∧ (∀ s, s.mod.input = .off → s.mod.pwrEn = true → s.mod.latch = none → s.mod.moduleOff = false →
      exec .inputRise s = .next ((coldReset 4 false (s.onMod (fun m => { m with input := .good }))).onMod (fun m => { m with rail := true })))
  ∧ (∀ s, s.mod.input = .off → s.mod.pwrEn = false →
      exec .inputRise s = .next (coldReset 4 false (s.onMod (fun m => { m with input := .good }))))
  ∧ (∀ s, s.mod.pwrEn = true → exec .thermtripLatchClear s = .next s)
  ∧ (∀ s, s.mod.pwrEn = false → s.mod.latch.isSome = true →
      exec .thermtripLatchClear s =
        .next ((s.onMod (fun m => { m with latch := none, moduleOff := false, moduleOffCycled := false })).emit (.thermtrip false)))
  ∧ (∀ s, s.mod.pwrEn = false → s.mod.latch = none →
      exec .thermtripLatchClear s = .next (s.onMod (fun m => { m with latch := none, moduleOff := false, moduleOffCycled := false })))
  ∧ (∀ s, s.mod.input ≠ .off → ∃ t, exec .standbyLoss s = .next t ∧ t.mod.input = .off ∧ t.mod.latch = none ∧ t.mod.i3cAddr = none
      ∧ t.mod.moduleOff = false ∧ t.mod.pwrEn = s.mod.pwrEn ∧ t.mod.perst = s.mod.perst ∧ t.flash = s.flash ∧ t.fuses = s.fuses ∧ t.jobs.jobs = [])
  ∧ (∀ s source on, (coldReset source on s).flash = s.flash ∧ (coldReset source on s).fuses = s.fuses ∧ (coldReset source on s).hbm = HbmSt.reset
      ∧ (coldReset source on s).ev = EvSt.reset ∧ (coldReset source on s).boot.report.level = 4 ∧ (coldReset source on s).boot.report.source = source)

/-- MODULE_OFF takes the rail off on its three bytes at the module's dynamic address, and any other write is ignored (R484); ENTDAA gives an address
to a target without one, which sends its Provisioned ID of the manufacturer and MODULE_SERIAL's eight hexadecimal digits with BCR and DCR 0, RSTDAA takes it away (R431); an unassigned JTAG code selects BYPASS and IDCODE shifts out 0x1A09054F (R482); a telemetry
refresh takes the readings and counts SEQ (R483). -/
def Obligations.ModuleBuses : Prop :=
  (∀ s, s.mod.i3cAddr.isSome = true → s.mod.input ≠ .off → s.mod.rail = true →
      exec (.moduleOff 0x80#8 0xFF#8 0xD0#8) s =
        .next (coldReset 3 false (s.onMod (fun m => { m with moduleOff := true, moduleOffCycled := !m.pwrEn, rail := false, powerGood := false }))))
  ∧ (∀ s, s.mod.i3cAddr.isSome = true → s.mod.input ≠ .off → s.mod.rail = false →
      exec (.moduleOff 0x80#8 0xFF#8 0xD0#8) s = .next (s.onMod (fun m => { m with moduleOff := true, moduleOffCycled := !m.pwrEn })))
  ∧ (∀ s o d0 d1, s.mod.i3cAddr = none → exec (.moduleOff o d0 d1) s = .next s)
  ∧ (∀ s o d0 d1, (o ≠ 0x80#8 ∨ d0 ≠ 0xFF#8 ∨ d1 ≠ 0xD0#8) → exec (.moduleOff o d0 d1) s = .next s)
  ∧ (∀ s a, s.mod.input ≠ .off → s.mod.i3cAddr = none → exec (.entdaa a) s =
      .next ((s.onMod (fun m => { m with i3cAddr := some a })).emit (.i3cIdentity (0x02A7 * 2 ^ 33 + 2 ^ 32 + sequenceNumber s.flash.moduleEeprom) 0 0)))
  ∧ (∀ s a b, s.mod.i3cAddr = some b → exec (.entdaa a) s = .next s)
  ∧ (∀ s (x : TapIr), s.mod.input ≠ .off → x = .bypass ∨ x = .samplePreload ∨ x = .extest ∧ s.mod.pwrEn = false →
      exec (.tapInstruction x) s = .next (s.onMod (fun m => { m with tap := x })))
  ∧ (∀ s, s.mod.input ≠ .off → exec .rstdaa s = .next (s.onMod (fun m => { m with i3cAddr := none })))
  ∧ (∀ s, s.mod.input ≠ .off → exec (.tapInstruction .other) s = .next (s.onMod (fun m => { m with tap := .bypass })))
  ∧ (∀ s, s.mod.input ≠ .off →
      exec (.tapInstruction .idcode) s = .next ((s.onMod (fun m => { m with tap := .idcode })).emit (.tapIdcode 0x1A09054F)))
  ∧ (∀ s, s.mod.input ≠ .off → s.mod.pwrEn = true → exec (.tapInstruction .extest) s = .next s)
  ∧ (∀ s v a pv pa w0 w1, s.mod.input ≠ .off → ∃ t, exec (.i3cTelemetryRefresh v a pv pa w0 w1) s = .next t
      ∧ t.mod.telemSeq = (s.mod.telemSeq + 1) % 65536 ∧ t.mod.inputMv = v ∧ t.mod.inputMa = a ∧ t.mod.pkgMv = pv ∧ t.mod.pkgMa = pa
      ∧ t.mod.towerW = ⟨w0, w1⟩ ∧ t.mod.telem.length = 64 ∧ fieldAt t.mod.telem 0 4 = 0x4D4C4554
      ∧ fieldAt t.mod.telem 6 2 = (s.mod.telemSeq + 1) % 65536 ∧ t.mod.latch = s.mod.latch ∧ t.host = s.host ∧ t.gate = s.gate)
  ∧ (∀ (head tail : List Byte) (ds : List Nat), head.length = 16 → ds.length = 8 → (∀ d ∈ ds, d < 16) →
      sequenceNumber (head ++ ds.map (fun d => BitVec.ofNat 8 (if d < 10 then 0x30 + d else 0x37 + d)) ++ tail) = ds.foldl (fun n d => n * 16 + d) 0)
/-! ### Observation -/

/-- CTR.CONFIG enables groups, clears groups, or both, and every counter it does not clear keeps its value; CTR.READ writes a snapshot of the groups it
names, or of those enabled, into its slot with the next sequence number; a counter counts only while its group is enabled (R465 to R467). -/
def Obligations.CounterCommandsComplete : Prop :=
  (∀ s mb c t u, Waiting s mb 0x0900 c → Plain c 8 → par c 0 1 < 4 → ZeroPar c 3 5 →
      t = (if par c 0 1 / 2 = 1 then s.onObs (fun o => { o with ctrs := o.ctrs.filter (fun e => !(groupsOfMask (par c 2 1)).contains (e.1 / 65536)) }) else s) →
      u = (if par c 0 1 % 2 = 1 then t.onObs (fun o => { o with
        ctrEnable := BitVec.ofNat 8 (par c 1 1)
        stageArmed := if (par c 1 1).testBit 2 && !o.ctrEnable.getLsbD 2 then ⟨true, true⟩ else o.stageArmed }) else t) →
      exec (.ctrConfig mb) s = .next (complete c stDone (leBytes u.obs.ctrEnable.toNat 1 ++ leBytes 0 7) u))
  ∧ (∀ s mb c mask, Waiting s mb 0x0901 c → Plain c 8 → par c 0 2 ≤ 4031 → ZeroPar c 3 5 →
      mask = (if par c 2 1 = 0 then s.obs.ctrEnable.toNat else par c 2 1) →
      exec (.ctrRead mb) s =
        .next (complete c stDone (leBytes ((s.obs.ctrSeq + 1) % 2 ^ 32) 4 ++ leBytes 0 4 ++ leBytes s.nowNs 8)
          (s.onObs (fun o => { o with
            ctrSeq := (s.obs.ctrSeq + 1) % 2 ^ 32
            snap := memWrite o.snap (par c 0 2 * 0x4000) (snapBytes s ((s.obs.ctrSeq + 1) % 2 ^ 32) mask) }))))
  ∧ (∀ s group pos n, s.obs.ctrEnable.getLsbD (group - 1) = false → ctrAdd group pos n s = s)
  ∧ (∀ s group pos n, s.obs.ctrEnable.getLsbD (group - 1) = true →
      ctrAdd group pos n s = s.onObs (fun o => { o with
        ctrs := tabPut o.ctrs (group * 65536 + pos) (tabGetD o.ctrs (group * 65536 + pos) 0 + BitVec.ofNat 64 n) }))
  ∧ (∀ s seq mask, (snapBytes s seq mask).length ≤ 0x4000)

/-- TRACE.CONFIG turns tracing on with its ring, in host memory or in HBM that no job has, or drains the buffers and turns it off; TRACE.DRAIN moves the
read offsets, drains what is full or all it is asked to, and gives back the write offsets and drops; a buffer drains by itself at 4 KiB or 1 ms after
its oldest record; a record that finds the buffer full is dropped and counted (R468 to R470). -/
def Obligations.TraceCommandsComplete : Prop :=
  (∀ s mb c n host same, Waiting s mb 0x0902 c → Plain c 24 → par c 0 1 = (if host then 3 else 1) → par c 1 1 < 64 → ZeroPar c 2 2 → par c 4 4 = n → 65536 ≤ n →
      n ≤ 0x40000000 → n % 4096 = 0 → par c 8 8 % 4096 = 0 → par c 0x10 8 % 4096 = 0 →
      (host = false → ringOk s (par c 8 8) n = true ∧ ringOk s (par c 0x10 8) n = true) →
      same = decide (n = s.obs.ringBytes ∧ par c 8 8 = s.obs.trace.t0.base ∧ par c 0x10 8 = s.obs.trace.t1.base ∧ host = s.obs.traceHost) →
      s.obs.traceOn = false ∨ same = true →
      exec (.traceConfig mb) s =
        .next (complete c stDone [] (s.onObs (fun o => { o with
          traceOn := true, traceCfg := true, traceHost := host, traceSrc := par c 1 1, ringBytes := n
          trace := if same then o.trace else
            ⟨{ o.trace.t0 with base := par c 8 8, readOff := 0, writeOff := 0 }, { o.trace.t1 with base := par c 0x10 8, readOff := 0, writeOff := 0 }⟩ }))))
  ∧ (∀ s mb c, Waiting s mb 0x0902 c → Plain c 24 → par c 0 1 = 0 ∨ par c 0 1 = 2 → par c 1 1 < 64 → ZeroPar c 2 2 →
      exec (.traceConfig mb) s =
        .next (complete c stDone [] ((if s.obs.traceOn then traceDrainTower .t1 (traceDrainTower .t0 s) else s).onObs (fun o => { o with
          traceOn := false }))))
  ∧ (∀ s mb c s1 s2, Waiting s mb 0x0903 c → Plain c 16 → par c 8 4 ≤ 1 → ZeroPar c 0xC 4 → s.obs.traceCfg = true → par c 0 4 < s.obs.ringBytes →
      par c 4 4 < s.obs.ringBytes →
      s1 = s.onObs (fun o => { o with trace := ⟨{ o.trace.t0 with readOff := par c 0 4 }, { o.trace.t1 with readOff := par c 4 4 }⟩ }) →
      s2 = bothTowers.foldl (fun st t => if decide (par c 8 4 = 1) || traceFull st t then traceDrainTower t st else st) s1 →
      exec (.traceDrain mb) s =
        .next (complete c stDone
          (leBytes s2.obs.trace.t0.writeOff 4 ++ leBytes s2.obs.trace.t1.writeOff 4 ++ leBytes s2.obs.trace.t0.dropped 4 ++ leBytes s2.obs.trace.t1.dropped 4) s2))
  ∧ (∀ s t r rs, (s.obs.trace.get t).buf = r :: rs → s.obs.ringBytes ≠ 0 →
      exec (.traceAutoDrain t) s = .next (traceDrainTower t (if 127 ≤ rs.length then s else s.timeTo (r.timeNs + 1000000))))
  ∧ (∀ s t, (s.obs.trace.get t).buf = [] ∨ s.obs.ringBytes = 0 → exec (.traceAutoDrain t) s = .next s)
  ∧ (∀ r b, b.lossPending = 0 → b.buf.length < 8192 → traceAdd r b = ({ b with buf := b.buf ++ [r] }, true))
  ∧ (∀ r b, b.lossPending = 0 → b.buf.length = 8192 → traceAdd r b = ({ b with dropped := b.dropped + 1, lossPending := 1 }, false))

/-- DEBUG.DUMP arms a dump of a coming tick, to host memory or to HBM the job may write, at most 16, and completes when its copy ends, with the items it
held released (R472). -/
def Obligations.DumpCommandsComplete : Prop :=
  (∀ s mb c j host, Waiting s mb 0x0904 c → Plain c 72 → jobAt s c.job = some j →
      j.state = .running ∧ j.tick < par c 0x28 8 ∨ j.state = .armed ∧ j.startTick ≤ par c 0x28 8 → par c 0x40 4 = (if host then 1 else 0) →
      par c 0x28 8 < 2 ^ 48 → par c 0x30 8 % 32 = 0 → ZeroPar c 0x44 4 →
      (host = false → rangeAllowed s c.job 1 (par c 0x30 8) (par c 0x38 8) = true) →
      (s.obs.dumps.length < 16 → exec (.debugDump mb) s =
        .next ((markStarted c s).onObs (fun o => { o with dumps := o.dumps ++ [
          { mb := c.mb, job := c.job, name := sliceBytes c.params 0 40, tick := par c 0x28 8, dest := par c 0x30 8, maxBytes := par c 0x38 8, toHost := host
            item := none, desc := 0, startNs := none, cut := false }] })))
      ∧ (16 ≤ s.obs.dumps.length → exec (.debugDump mb) s = .next (complete c stNoSpace [] s)))
  ∧ (∀ s job item, (∀ d ∈ s.obs.dumps, d.job = job → d.item = some item → d.startNs = none) → exec (.dumpCopyEnd job item) s = .next s)
  ∧ (∀ s job item d start s1 st n k, s.obs.dumps.find? (fun d => decide (d.job = job ∧ d.item = some item) && d.startNs.isSome) = some d →
      d.startNs = some start → dumpCopy d s = (s1, st, n, k) →
      exec (.dumpCopyEnd job item) s =
        .next (advanceItems (dumpRelease d item (dumpEnd d (dumpResult st item n k (s.nowNs - start) start)
          (traceRec 5 (((jobAt s1 job).map jobTower).getD .t0) 8 job d.tick
            (leBytes item 4 ++ leBytes n 8 ++ leBytes (min (s.nowNs - start) 0xFFFFFFFF) 4) s1)))))

/-- TEST.WINNOW sets ENABLE where told and returns the cursors and tallies, and with FORCE waits for the slices it names; TEST.SHUTDOWN_PREP writes the
calibration record and the result of the core test to flash and holds every core in reset, or is DEVICE_FAULT where the flash fails; TEST.RESULTS returns
a record (R455, R461, R462, R464). -/
def Obligations.TestCommandsComplete : Prop :=
  (∀ s mb c t, Waiting s mb 0x0905 c → Plain c 8 → par c 0 1 ≤ 1 → par c 1 1 < 16 → ZeroPar c 2 6 →
      t = (if par c 0 1 = 1 then s.onObs (fun o => { o with winnowEnable := par c 1 1 }) else s) →
      exec (.testWinnow mb) s = .next (complete c stDone (winnowResult t) t))
  ∧ (∀ s mb c t tn bank unit, Waiting s mb 0x0905 c → Plain c 8 → par c 0 1 = 2 ∨ par c 0 1 = 3 → par c 1 1 < 16 → par c 2 1 = tn → tn ≤ 1 → ZeroPar c 3 1 →
      par c 4 2 = bank → par c 6 2 = unit → bank = 0xFFFF ∨ bank < 1024 ∧ (s.loft.tw.get (towerOf tn)).retired.contains (bank % 512) = false →
      unit = 0xFFFF ∨ unit < 512 → (s.loft.tw.get (towerOf tn)).retired.contains unit = false →
      (s.obs.winnow.get (towerOf tn)).forceMb = none →
      t = (if par c 0 1 = 3 then s.onObs (fun o => { o with winnowEnable := par c 1 1 }) else s) →
      exec (.testWinnow mb) s =
        .next (if bank = 0xFFFF ∧ unit = 0xFFFF then complete c stDone (winnowResult t) t
          else (markStarted c t).onObs (fun o => { o with winnow := o.winnow.mod (towerOf tn) (fun w => { w with
            forcedLoft := if bank = 0xFFFF then none else some bank, forcedPress := if unit = 0xFFFF then none else some unit, forceMb := some c.mb }) })))
  ∧ (∀ s mb c failed, Waiting s mb 0x0906 c → Plain c 8 → ZeroPar c 0 8 → s.gate.pwr ≠ .rest → s.gate.pwr ≠ .dark → anyJobRuns s = false → s.gate.change = none →
      s.boot.part = none → s.boot.coreReset = none → s.trust.writing = none →
      exec (.testShutdownPrep mb failed true) s =
        .next (complete c stDone [] (holdCores ((writeCalibration s.draw).onFlash (fun f => { f with
          testState := 1, testTested := (coresInService s).length, testFailed := (coresInService s).filter (fun x => failed.contains x), testBoot := f.bootCount
          testMs := Config.duration s.freeCtr % 501 }))))
      ∧ exec (.testShutdownPrep mb failed false) s = .next (complete c stDeviceFault [] s))
  ∧ (∀ s mb c, Waiting s mb 0x0907 c → Plain c 8 → par c 0 1 = 0 → ZeroPar c 1 7 →
      exec (.testResults mb) s = .next (complete c stDone (shutdownResult s) s))
  ∧ (∀ s mb c, Waiting s mb 0x0907 c → Plain c 8 → par c 0 1 = 1 → ZeroPar c 1 7 →
      exec (.testResults mb) s = .next (complete c stDone (winnowLogResult s) s))
  ∧ (∀ s, s.boot.stage = 10 → s.gate.pwr = .active ∨ s.gate.pwr = .trim →
      exec .calibrationRecordWrite s = .next (s.onFlash (fun f => { f with calibration := some s.fuses.stepping })))
  ∧ (∀ s, s.gate.pwr = .idle ∨ s.gate.pwr = .rest ∨ s.gate.pwr = .dark → exec .calibrationRecordWrite s = .next s)

/-- An event takes the next SEQ, is queued behind the others, and sets LAST_CODE and JOB_FAULT where it is a fault; a full queue of 1,024 drops a notice,
and drops the oldest notice for a fault (R374, Table 12.6). -/
def Obligations.EventsQueued : Prop :=
  (∀ s sev code job detail t, s.ev.queue.length < 1024 → startedCmd s 63 0x0102 = none → t = postEvent sev code job detail s →
      t.ev.queue = s.ev.queue ++ [{ seq := s.ev.seq, severity := sev, job := job, timeNs := s.nowNs, code := code, detail := detail.take 48 }]
      ∧ t.ev.seq = (s.ev.seq + 1) % 2 ^ 32 ∧ t.ev.lost = s.ev.lost ∧ t.host.lastCode = (if sev = 0 then s.host.lastCode else code)
      ∧ t.host.jobFault = (s.host.jobFault || decide (sev = 1)) ∧ t.host.eventLost = s.host.eventLost ∧ t.jobs = s.jobs ∧ t.gate = s.gate)
  ∧ (∀ r e, 1024 ≤ e.queue.length → r.severity = 0 → eventInsert r e = ({ e with lost := e.lost + 1 }, true))
  ∧ (∀ r e i, 1024 ≤ e.queue.length → r.severity ≠ 0 → e.queue.findIdx? (fun x => decide (x.severity = 0)) = some i →
      eventInsert r e = ({ e with queue := e.queue.eraseIdx i ++ [r], lost := e.lost + 1 }, true))
  ∧ (∀ r e, e.queue.length ≤ 1024 → (eventInsert r e).1.queue.length ≤ 1024)
/-! ### Loft, cellar, integrity -/

/-- LOFT.PIN takes a run of bays for the job and completes when the lines evicted have been written back, or answers OVER_QUOTA past the quota,
PIN_CEILING where a column would keep no BULK frame, BUSY while a loft command of the job runs (R182, R183, R185); a converted bay is pinned and reads 0
everywhere (R183). LOFT.UNPIN gives the frames back (R184), LOFT.QUOTA sets quotas and thresholds (R185, R206, R207), LOFT.FLUSH cleans the lines of a
range, of a job or of the device (R203, R204). -/
def Obligations.LoftCommandsComplete : Prop :=
  (∀ s mb c j addr count t bays, Waiting s mb 0x0300 c → Plain c 16 → par c 0 8 = addr → par c 8 4 = count → par c 0xC 1 < 2 → ZeroPar c 0xD 3 →
      jobAt s c.job = some j → runBad addr count = false → t = towerOf (bayNum addr / 4096) → bays = runBays addr count →
      bays.findIdx? (bayBad s c.job) = none →
      ((∀ n, j.quota.get t = some n → pinsOf s c.job t + count ≤ n) → ceilingBad s t bays = none → loftBusy s c.job = false →
        ∀ s1 las wb, bays.foldl (fun a b => convertFrame t c.job (par c 0xC 1) b a) (s, [], 0) = (s1, las, wb) →
        exec (.loftPin mb) s =
          .next (loftWait c (las.filter (fun la => lineBuffered s1 t (bulkColumn s1 t la) la)) (pinResult s1 c.job t noIndex wb) s1))
      ∧ (∀ n, j.quota.get t = some n → n < pinsOf s c.job t + count →
        exec (.loftPin mb) s = .next (complete c stOverQuota (pinResult s c.job t noIndex 0) s))
      ∧ ((∀ n, j.quota.get t = some n → pinsOf s c.job t + count ≤ n) → ∀ i, ceilingBad s t bays = some i →
        exec (.loftPin mb) s = .next (complete c stPinCeiling (pinResult s c.job t i 0) s))
      ∧ ((∀ n, j.quota.get t = some n → pinsOf s c.job t + count ≤ n) → ceilingBad s t bays = none → loftBusy s c.job = true →
        exec (.loftPin mb) s = .next (complete c stBusy (pinResult s c.job t noIndex 0) s)))
  ∧ (∀ t job layout b s las wb x, Memory.wf s.loft.pinMem = true → s.loft.tw.t0.reducing = [] → s.loft.tw.t1.reducing = [] →
      x = (convertFrame t job layout b (s, las, wb)).1 →
      tabGet x.loft.bays b = some { job := job, layout := layout }
      ∧ (∀ a, pinBase + b * pageBytes ≤ a → a < pinBase + (b + 1) * pageBytes → memGet x.loft.pinMem a = 0#8)
      ∧ (∀ a, a < pinBase + b * pageBytes ∨ pinBase + (b + 1) * pageBytes ≤ a → memGet x.loft.pinMem a = memGet s.loft.pinMem a))
  ∧ (∀ s mb c addr count t bays, Waiting s mb 0x0301 c → Plain c 16 → par c 0 8 = addr → par c 8 4 = count → ZeroPar c 0xC 4 →
      (jobAt s c.job).isSome = true → runBad addr count = false → t = towerOf (bayNum addr / 4096) → bays = runBays addr count →
      (∀ b ∈ bays, (tabGet s.loft.bays b).map (·.job) = some c.job) →
      (loftBusy s c.job = false → (∀ b ∈ bays, sheafDeclares s c.job (pinBase + b * pageBytes) = false) →
        ∀ s1 las wb, bays.foldl (fun a b => unpinBay b a) (s, [], 0) = (s1, las, wb) →
        exec (.loftUnpin mb) s =
          .next (loftWait c (las.filter (fun la => lineBuffered s1 t (bulkColumn s1 t la) la)) (leBytes (pinsOf s1 c.job t) 2 ++ leBytes count 2) s1))
      ∧ ((loftBusy s c.job = true ∨ ∃ b ∈ bays, sheafDeclares s c.job (pinBase + b * pageBytes) = true) →
        exec (.loftUnpin mb) s = .next (complete c stBusy [] s)))
  ∧ (∀ s mb c fl s1 t, Waiting s mb 0x0302 c → Plain c 16 → par c 0 2 = fl → fl ≤ 7 → ZeroPar c 7 1 → ZeroPar c 0xC 4 →
      (c.job ≠ 0 ∨ fl.testBit 0 = true → (jobAt s c.job).isSome = true) →
      (fl.testBit 0 = true → (par c 2 2 ≤ 3456 ∨ par c 2 2 = 0xFFFF) ∧ (par c 4 2 ≤ 3456 ∨ par c 4 2 = 0xFFFF)) → (fl.testBit 1 = true → par c 6 1 ≤ 100) →
      s1 = (if fl.testBit 0 then s.onJob c.job (fun j => { j with
        quota := ⟨if par c 2 2 = 0xFFFF then none else some (par c 2 2), if par c 4 2 = 0xFFFF then none else some (par c 4 2)⟩ }) else s) →
      t = s1.onLoft (fun x => { x with
        thrashPct := if fl.testBit 1 then par c 6 1 else x.thrashPct, bankhotMin := if fl.testBit 2 then par c 8 4 else x.bankhotMin }) →
      exec (.loftQuota mb) s = .next (complete c stDone (quotaResult t c.job) t))
  ∧ (∀ s mb c fl rs, Waiting s mb 0x0303 c → Plain c 24 → par c 0x10 4 = fl → fl ≤ 3 → ZeroPar c 0x14 4 →
      (fl.testBit 1 = true → c.job = 0 → c.mb = 0) → (fl.testBit 1 = false ∨ c.job ≠ 0 → (jobAt s c.job).isSome = true) →
      (fl.testBit 1 = false → par c 0 8 % 256 = 0 ∧ par c 8 8 % 256 = 0 ∧ 0 < par c 8 8 ∧ par c 0 8 + par c 8 8 ≤ hbmTop ∧
        ∀ p ∈ pagesOf (par c 0 8) (par c 8 8), ∃ j ∈ jobAt s c.job, ∃ e ∈ j.map, e.space = 0 ∧ entryHolds e p = true) → loftBusy s c.job = false →
      rs = (if fl.testBit 1 = false then [(par c 0 8, par c 8 8)] else if c.job = 0 then [(0, hbmTop)]
        else ((((jobAt s c.job).map (·.map)).getD []).filter (fun e => decide (e.space = 0))).map (fun e => (e.base, e.count * pageBytes))) →
      ∀ s1 waits wb gone s2, (linesIn s rs).foldl (fun a la => cleanLine (fl.testBit 0) la a) (s.draw, [], 0, 0) = (s1, waits, wb, gone) →
      s2 = (if fl.testBit 0 then fineDrop rs s1 else s1) →
      ∃ waitNs, ((∀ la ∈ linesIn s rs, ∃ l, tabGet s.loft.bulk la = some l ∧ l.locked = false) → waitNs = 0) ∧
        exec (.loftFlush mb) s = .next (loftWait c (bufferedIn s2 rs) (leBytes wb 8 ++ leBytes gone 4 ++ leBytes waitNs 4) s2))
  ∧ (∀ c las res s, las ≠ [] → loftWait c las res s = (markStarted c s).onLoft (fun x => { x with waiting := tabPut x.waiting c.mb (c.job, las, res) }))
  ∧ (∀ c res s, c.opcode ≠ 0x0300 → loftWait c [] res s = complete { c with started := true } stDone res (markStarted c s))

/-- CELLAR.CONFIG sets the groups FLAGS names, homing with the lofts and channels emptied, regions in flash and in force, and refuses a homing change
while a job exists or a tower is bound (R231 to R233); BW.BUDGET sets what FLAGS names of a holder in the towers named (R234); MEM.REMAP lists and adds
repairs (R252); MEM.SCRUB sets the patrol's pace and scrubs a range (R254); ECC.INJECT arms and disarms a flip-mask register (R255). -/
def Obligations.MemoryCommandsComplete : Prop :=
  (∀ s mb c fl cel mir glob s1 s2 s3 t, Waiting s mb 0x0304 c → Plain c 80 → par c 0 4 = fl → fl ≤ 15 → par c 4 1 ≤ 1 → par c 5 1 ≤ 1 → par c 6 1 ≤ 1 →
      par c 7 1 ≤ 1 → par c 8 1 ≤ 4 → ZeroPar c 9 7 → (fl.testBit 0 = false → ZeroPar c 4 1) → (fl.testBit 1 = false → ZeroPar c 5 3) →
      (fl.testBit 2 = false → ZeroPar c 8 1) → (fl.testBit 3 = false → ZeroPar c 0x10 64) →
      cel = ⟨⟨par c 0x10 8, par c 0x18 8⟩, ⟨par c 0x20 8, par c 0x28 8⟩⟩ → mir = ⟨⟨par c 0x30 8, par c 0x38 8⟩, ⟨par c 0x40 8, par c 0x48 8⟩⟩ →
      glob = (if fl.testBit 0 then decide (par c 4 1 = 1) else s.hbm.globalHoming) →
      (fl.testBit 0 = true → s.jobs.jobs = [] ∧ anyBound s = false) → (fl.testBit 3 = true → anyBound s = false ∧ regionsOk s glob cel mir = true) →
      s1 = (if fl.testBit 0 then rehome glob (drainChans (flushTowers bothTowers s)) else s) →
      s2 = (if fl.testBit 1 then setMode .t1 (decide (par c 6 1 = 1), decide (par c 7 1 = 1))
        (setMode .t0 (decide (par c 5 1 = 1), decide (par c 7 1 = 1)) s1) else s1) →
      s3 = s2.onFlash (fun f => { f with
        rate := if fl.testBit 2 then par c 8 1 else f.rate, globalHoming := if fl.testBit 0 then glob else f.globalHoming
        cellar := if fl.testBit 3 then cel else f.cellar, mirror := if fl.testBit 3 then mir else f.mirror }) →
      t = (if fl.testBit 3 then s3.onHbm (fun h => { h with cellar := cel, mirror := mir }) else s3) →
      exec (.cellarConfig mb) s = .next (complete c stDone (cellarResult t) t))
  ∧ (∀ s mb c, Waiting s mb 0x0304 c → Plain c 80 → par c 0 4 = 1 → par c 4 1 ≤ 1 → ZeroPar c 5 11 → ZeroPar c 0x10 64 →
      s.jobs.jobs ≠ [] ∨ anyBound s = true → exec (.cellarConfig mb) s = .next (complete c stWrongState [] s))
  ∧ (∀ s mb c h tw fl t, Waiting s mb 0x0307 c → Plain c 16 → par c 0 1 = h → h ≤ 8 → par c 1 1 = tw → tw ≤ 3 → par c 2 1 = fl → fl ≤ 7 → par c 3 1 ≤ 7 →
      (fl.testBit 1 = true → par c 4 4 = 0 ∨ 200 ≤ par c 4 4 ∧ par c 4 4 ≤ 1000000) → ZeroPar c 0xC 4 →
      t = (towersOfMask tw).foldl (fun st u => onHolder u h (fun r => { r with
        basePrio := if fl.testBit 0 then par c 3 1 else r.basePrio
        targetNs := if fl.testBit 1 then par c 4 4 else r.targetNs, samples := if fl.testBit 1 then 0 else r.samples
        mean16 := if fl.testBit 1 then par c 4 4 * 16 else r.mean16
        budgetMbps := if fl.testBit 2 then par c 8 4 else r.budgetMbps }) st) s →
      exec (.bwBudget mb) s = .next (complete c stDone (budgetHalf t .t0 h ++ budgetHalf t .t1 h) t))
  ∧ (∀ s mb c act unit es, Waiting s mb 0x0305 c → Plain c 16 → par c 0 1 = act → act ≤ 2 → par c 1 1 = unit →
      unit ≤ (if act = 0 then 15 else if act = 1 then 3 else 0) → ZeroPar c 4 4 → par c 8 8 = 0 → es = remapList s act unit →
      exec (.memRemap mb) s =
        .next (complete c stDone (leBytes es.length 4 ++ leBytes ((es.drop (par c 2 2)).take 251).length 4 ++ leBytes 0 8
          ++ ((es.drop (par c 2 2)).take 251).flatMap id) s))
  ∧ (∀ s mb c act unit addr r, Waiting s mb 0x0305 c → Plain c 16 → par c 0 1 = act → 3 ≤ act → act ≤ 5 → par c 1 1 = unit → par c 2 2 = 0 → ZeroPar c 4 4 →
      par c 8 8 = addr → (act ≤ 4 → unit ≤ 15 ∧ unbacked s addr = false ∧ (locOf s addr).stack = unit) → (act = 5 → unit ≤ 3 ∧ addr < 2 ^ 24) →
      r = (if act = 3 then addBlock 0 addr s else if act = 4 then addRow 0 addr s else addLine 0 unit (addr / 2 ^ 15 % 512) (addr % 2 ^ 15) s) →
      exec (.memRemap mb) s = .next (complete c (if r.1 then stDone else stNoSpace) (leBytes (remapTotal r.2 act unit) 4) r.2))
  ∧ (∀ s mb c fl s1 s2 x y, Waiting s mb 0x0306 c → Plain c 32 → par c 0 1 = fl → fl ≤ 7 → par c 1 1 ≤ 1 → ZeroPar c 2 2 → ZeroPar c 0xC 4 →
      (fl.testBit 0 = true → (par c 4 4 = 0 ∨ 60 ≤ par c 4 4 ∧ par c 4 4 ≤ 10080) ∧ (par c 8 4 = 0 ∨ 10 ≤ par c 8 4 ∧ par c 8 4 ≤ 3600)) →
      (fl.testBit 1 = true → par c 0x10 8 % pageBytes = 0 ∧ par c 0x18 8 % pageBytes = 0 ∧ par c 0x18 8 ≤ 0x1000000000 ∧
        par c 0x10 8 + par c 0x18 8 ≤ hbmTop ∧ ∀ p ∈ pagesOf (par c 0x10 8) (par c 0x18 8), unbacked s p = false) →
      (fl.testBit 1 = false → ZeroPar c 0x10 16) →
      s1 = s.onHbm (fun h => { h with
        hbmPassMin := if fl.testBit 0 then par c 4 4 else h.hbmPassMin, loftPassS := if fl.testBit 0 then par c 8 4 else h.loftPassS
        detect := if fl.testBit 2 then decide (par c 1 1 = 1) else h.detect }) →
      (if fl.testBit 1 then scrubRange (par c 0x10 8) (par c 0x18 8) s1 else (s1, 0, 0)) = (s2, x, y) →
      exec (.memScrub mb) s =
        .next (complete c stDone (leBytes (if fl.testBit 1 then par c 0x18 8 else 0) 8 ++ leBytes x 4 ++ leBytes y 4 ++ leBytes s2.hbm.hbmPassMin 4
            ++ leBytes s2.hbm.loftPassS 4 ++ leBytes (if s2.hbm.detect then 1 else 0) 1 ++ leBytes 0 7) s2))
  ∧ (∀ s mb c fl a, Waiting s mb 0x0908 c → Plain c 88 → par c 0 1 = 0 → par c 1 1 = fl → par c 2 2 = 0 → ZeroPar c 4 4 → par c 8 8 = a → a % 64 = 0 →
      unbacked s a = false → ZeroPar c 0x54 4 →
      (fl ≤ 1 → tabGet s.hbm.armed (locOf s a).stack = none →
        exec (.eccInject mb) s =
          .next (complete c stDone [] (s.onHbm (fun h => { h with
            armed := tabPut h.armed (locOf s a).stack
              { poison := decide (fl = 1), addr := a, group := 0, dataMask := sliceBytes c.params 0x10 64, checkMask := sliceBytes c.params 0x50 8 } }))))
      ∧ (fl = 2 ∨ fl = 3 → exec (.eccInject mb) s =
        .next (complete c stDone [] (s.onHbm (fun h => { h with armed := tabDel h.armed (locOf s a).stack })))))
  ∧ (∀ s mb c fl u a, Waiting s mb 0x0908 c → Plain c 88 → par c 0 1 = 1 → par c 1 1 = fl → par c 2 2 = u → u ≤ 3 → ZeroPar c 4 4 → par c 8 8 = a → a < 2 ^ 29 →
      ZeroPar c 0x18 56 → ZeroPar c 0x51 7 →
      (fl ≤ 1 → tabGet s.hbm.armed (16 + u) = none →
        exec (.eccInject mb) s =
          .next (complete c stDone [] (s.onHbm (fun h => { h with
            armed := tabPut h.armed (16 + u)
              { poison := decide (fl = 1), addr := wordKey u (bitsOf a 23 15) (bitsOf a 14 0) (bitsOf a 28 24), group := u
                dataMask := sliceBytes c.params 0x10 64, checkMask := sliceBytes c.params 0x50 8 } }))))
      ∧ (fl = 2 ∨ fl = 3 → exec (.eccInject mb) s = .next (complete c stDone [] (s.onHbm (fun h => { h with armed := tabDel h.armed (16 + u) })))))
  ∧ (∀ s mb c fl u k, Waiting s mb 0x0908 c → Plain c 88 → par c 0 1 = 2 → par c 1 1 = fl → par c 2 2 = u → u % 4096 < groupsOf (bitsOf u 14 12) → ZeroPar c 4 4 →
      par c 8 8 = 0 → ZeroPar c 0x18 56 → ZeroPar c 0x51 7 → k = 20 + 6 * bitsOf u 15 15 + bitsOf u 14 12 →
      (fl = 0 → tabGet s.hbm.armed k = none →
        exec (.eccInject mb) s =
          .next (complete c stDone [] (s.onHbm (fun h => { h with
            armed := tabPut h.armed k { poison := false, addr := 0, group := u % 4096, dataMask := sliceBytes c.params 0x10 64,
                                        checkMask := sliceBytes c.params 0x50 8 } }))))
      ∧ (fl = 2 → exec (.eccInject mb) s = .next (complete c stDone [] (s.onHbm (fun h => { h with armed := tabDel h.armed k })))))

/-- The loft's events: one request of a column is served at a time, requests to one line in order (R202), with the cells' errors it reads; a reduction
runs at its press unit (R169); a filled line is placed where a waiter allocates, its waiters are served in order and held misses issue (R199, R200); the
oldest write-back leaves where its channel takes requests (R201), a FINE sector pair is installed (R196); thrash and hot banks are posted once (R206,
R207). The encoding of a packed line is the one with the fewest slots that applies (R190). -/
def Obligations.LoftEventsComplete : Prop :=
  (∀ s t col flips s1, s1 = s.onLoft (fun x => { x with
        flips := flips.foldl (fun f p => tabPut f p.1 (tabGetD f p.1 0#72 ^^^ p.2)) x.flips }) →
      (∀ r s2, nextServed t col s1 = some (r, s2) → exec (.loftAccess t col flips) s = .next (leaveArrivals t r.id s2))
      ∧ (nextServed t col s1 = none → exec (.loftAccess t col flips) s = .next s1))
  ∧ (∀ s t col r s2, nextServed t col s = some (r, s2) →
      r ∈ (s.loft.tw.get t).arrivals ∧ reqColumn s t r = col ∧ serveRequest t col r s = some s2
      ∧ (∀ x ∈ (s.loft.tw.get t).arrivals.takeWhile (fun x => x.id ≠ r.id), reqLine x ≠ reqLine r)
      ∧ (∀ x ∈ (s.loft.tw.get t).reducing, reqLine x ≠ reqLine r) ∧ (holdOf s t col).length < 8)
  ∧ (∀ s t id r, (s.loft.tw.get t).reducing.find? (fun r => decide (r.id = id)) = some r →
      exec (.memorySideReduction t id) s = .next (runReduction t r s))
  ∧ (∀ s t id, (∀ r ∈ (s.loft.tw.get t).reducing, r.id ≠ id) → exec (.memorySideReduction t id) s = .next s)
  ∧ (∀ s t col m d p served, (missOf s t col).find? (fillReady s) = some m → mergeFill s (tabGet s.loft.bulk m.la) m.quarters = (d, p) →
      served = (if m.waiters.any (fun r => r.agent.alloc) = false then some (answerReads m.la d p m.waiters s)
        else (match tabGet s.loft.bulk m.la with
          | some l => if l.valid = 0xF#4 then some s else mergeLine m.la l d p (m.waiters.any (fun r => r.agent.staged)) s
          | none => placeLine t m.la d 0xF#4 0#4 p (m.waiters.any (fun r => r.agent.staged)) true s).bind
            (fun s1 => m.waiters.foldl (fun o r => o.bind (serveWaiter r)) (some s1))) →
      (∀ s2, served = some s2 → exec (.bulkFillComplete t col) s =
        .next (issueHeld t col 8 (setMiss t col ((missOf s2 t col).filter (fun x => x.la ≠ m.la)) s2)))
      ∧ (served = none → exec (.bulkFillComplete t col) s = .next s))
  ∧ (∀ s t col, (missOf s t col).find? (fillReady s) = none → exec (.bulkFillComplete t col) s = .next s)
  ∧ (∀ s t col e rest k s1 c s2, wbOf s t col = e :: rest → k = chanOf s (e.la * 256) → s1 = acceptAll k (chanAt s k).input.length s → c = chanAt s1 k →
      s2 = wbPop t col s1 →
      exec (.writebackAccepted t col) s =
        .next (if c.input = [] ∧ c.side.length < 16 ∧ c.queue.length < 128 then acceptAll k (chanAt s2 k).input.length s2 else s1))
  ∧ (∀ s t col e rest, wbOf s t col = e :: rest →
      wbPop t col s = loftWaited e.la (writeBackQuarters e.la e.data e.dirty e.poison
        (s.onLoft (fun x => { x with tw := x.tw.mod t (fun w => { w with wb := putList w.wb col rest }) }))))
  ∧ (∀ s t col, wbOf s t col = [] → exec (.writebackAccepted t col) s = .next s)
  ∧ (∀ s t m, (s.loft.tw.get t).fineMiss.find? (fun m => m.arrived) = some m →
      exec (.fineFillComplete t) s =
        .next (fineInstall t m.lf (if m.sector = 0 then 0x3#4 else 0xC#4) m.mc
          (s.onLoft (fun x => { x with tw := x.tw.mod t (fun w => { w with
            fineMiss := w.fineMiss.filter (fun y => !decide (y.lf = m.lf ∧ y.sector = m.sector)) }) }))))
  ∧ (∀ s t, (s.loft.tw.get t).fineMiss.find? (fun m => m.arrived) = none → exec (.fineFillComplete t) s = .next s)
  ∧ (∀ s t, s.loft.thrashPct ≠ 0 → 8 ≤ (s.loft.tw.get t).overTicks → (s.loft.tw.get t).thrashPosted = false →
      exec (.loftThrash t) s =
        .next (postNotice evLoftThrash (((jobOfTower s t).map (·.id)).getD 0)
          (loftDetail evLoftThrash t (if (s.loft.tw.get t).lastLookups = 0 then 0 else (s.loft.tw.get t).lastMisses * 1000 / (s.loft.tw.get t).lastLookups)
            (tickOf s t) (s.loft.tw.get t).lastLookups 0xFF 0xFF 0xFF)
          (s.onLoft (fun x => { x with tw := x.tw.mod t (fun y => { y with thrashPosted := true }) }))))
  ∧ (∀ s t, s.loft.thrashPct = 0 ∨ (s.loft.tw.get t).overTicks < 8 ∨ (s.loft.tw.get t).thrashPosted = true → exec (.loftThrash t) s = .next s)
  ∧ (∀ s t k, s.loft.bankhotMin ≠ 0 → s.loft.bankhotMin ≤ (s.loft.tw.get t).stalls → (s.loft.tw.get t).hotPosted = false →
      worstBank (s.loft.tw.get t).stallBanks = k →
      exec (.bankHot t) s =
        .next (postNotice evBankHot (((jobOfTower s t).map (·.id)).getD 0)
          (loftDetail evBankHot t 0 (tickOf s t) (s.loft.tw.get t).stalls (k / 4096) (k / 128 % 32) (k % 128))
          (s.onLoft (fun x => { x with tw := x.tw.mod t (fun y => { y with hotPosted := true }) }))))
  ∧ (∀ s t, s.loft.bankhotMin = 0 ∨ (s.loft.tw.get t).stalls < s.loft.bankhotMin ∨ (s.loft.tw.get t).hotPosted = true → exec (.bankHot t) s = .next s)
  ∧ (∀ bs, encApplies (encBest bs) bs = true ∧ ∀ c, c < 10 → encApplies c bs = true →
      encSlots (encBest bs) < encSlots c ∨ (encSlots (encBest bs) = encSlots c ∧ encBest bs ≤ c))

/-- The channel controllers: a request enters the queue where its limits allow, else the side list (R216); the one served is in block order (R217); a
request of 20 µs goes before younger ones (R218); a holder over budget has priority 0 and no priority passes 7 (R225, R228); a refresh closes its
rows, or is put off while the bank has requests, 7 times at most (R222); an adder reads and writes its block (R229, R230). -/
def Obligations.HbmChannelsComplete : Prop :=
  (∀ s stack ch k s1 c, k = stack * 32 + ch → s1 = promoteSide k (chanAt s k).side s → c = chanAt s1 k →
      (c.input = [] ∨ 16 ≤ c.side.length → exec (.hbmRequest stack ch) s = .next s1)
      ∧ (∀ r rest s2, c.input = r :: rest → c.side.length < 16 →
        s2 = s1.onHbm (fun h => { h with chans := tabMod h.chans k (fun x => { x with input := rest }) }) →
        (limitsAllow s1 c.queue r = false →
          exec (.hbmRequest stack ch) s = .next (ctrHbm (towerOfStack stack) 30 1 (s2.onHbm
            (fun h => { h with chans := tabMod h.chans k (fun x => { x with side := x.side ++ [r] }) }))))
        ∧ (limitsAllow s1 c.queue r = true → 128 ≤ c.queue.length → exec (.hbmRequest stack ch) s = .next s1)
        ∧ (limitsAllow s1 c.queue r = true → c.queue.length < 128 → exec (.hbmRequest stack ch) s = .next (acceptReq k r s2))))
  ∧ (∀ s stack c ok r, selectReq s stack c ok = some r → r ∈ c.queue ∧ inBlockOrder c r = true ∧ ok r = true)
  ∧ (∀ s stack ch err inner, stackServes s stack = false →
      exec (.hbmAccessComplete stack ch err inner) s = .next s ∧ exec (.floorReduction stack ch) s = .next s)
  ∧ (∀ s stack ch k err inner, k = stack * 32 + ch → stackServes s stack = true →
      (selectReq s stack (chanAt s k) (fun r => !isAdder r) = none → exec (.hbmAccessComplete stack ch err inner) s = .next s)
      ∧ (∀ r, selectReq s stack (chanAt s k) (fun r => !isAdder r) = some r →
        exec (.hbmAccessComplete stack ch err inner) s =
          .next (hbmServe k r (s.nowNs - r.enterNs) err (if inner && !r.isWrite then 1 else 0) s.draw))
      ∧ (selectReq s stack (chanAt s k) isAdder = none → exec (.floorReduction stack ch) s = .next s)
      ∧ (∀ r, selectReq s stack (chanAt s k) isAdder = some r →
        ∃ inn, inn ≤ 1 ∧ exec (.floorReduction stack ch) s = .next (hbmServe k r 0 [] inn s.draw)))
  ∧ (∀ s k r ns err inner t s1 s2, t = towerOfStack (k / 32) →
      s1 = countServed s t r (chanAt s k) (s.onHbm (fun h => { h with chans := tabMod h.chans k (servedChan s t r) })) →
      s2 = s1.onObs (fun o => { o with gleanHbm := if inRun s1 t then o.gleanHbm.mod t (· + 1) else o.gleanHbm }) →
      (∀ op ty job ops ret, r.src = .adder op ty job ops ret →
        hbmServe k r ns err inner s = floorReduce r.holder job r.addr op ty ops ret (ctrInner (k / 32) inner s2))
      ∧ (isAdder r = false → r.isWrite = true → hbmServe k r ns err inner s =
        hbmStoreBlock r.addr (mergeWrite r (hbmData s2 r.addr)).1 (mergeWrite r (hbmData s2 r.addr)).2
          (beatMeets t 1 (k / 32 % 8 * 32 + k % 32) s2))
      ∧ (isAdder r = false → r.isWrite = false → ∀ s4 data poison,
        readWithErrors r err (ctrInner (k / 32) inner (beatMeets t 0 (k / 32 % 8 * 32 + k % 32) s2)) = (s4, data, poison) →
        hbmServe k r ns err inner s = deliver r.addr r.src data poison (onHolder t r.holder (latSample ns) s4)))
  ∧ (∀ s stack ch c r rest, tabGet s.hbm.chans (stack * 32 + ch) = some c → c.queue = r :: rest → r.aged = false → ¬ (r.holder = 4 ∧ r.early = true) →
      ∃ t, exec (.hbmAgePriority stack ch) s = .next t ∧ t.nowNs = max s.nowNs (r.enterNs + 20000)
        ∧ (∃ d, tabGet t.hbm.chans (stack * 32 + ch) = some d ∧ d.queue.head? = some { r with aged := true }) ∧ t.jobs = s.jobs ∧ t.loft = s.loft)
  ∧ (∀ s stack ch, (∀ r ∈ (chanAt s (stack * 32 + ch)).queue, r.aged = true ∨ r.holder = 4 ∧ r.early = true) →
      exec (.hbmAgePriority stack ch) s = .next s)
  ∧ (∀ r u, prioOf r u ≤ 7 ∧ (overBudget r = true → prioOf r u = 0) ∧ (r.budgetMbps = 0xFFFFFFFF → overBudget r = false))
  ∧ (∀ s stack bank st n, stack < 16 → tabGetD s.hbm.hbmStacks stack Stack.fresh = st → st.lost = false → st.selfRefresh = false →
      bank.isNone = (s.hbm.mixed.get (towerOfStack stack) && s.hbm.allBank.get (towerOfStack stack)) → tabGetD st.postponed (bank.getD 128) 0 = n →
      (bankWaits s stack bank = true → n < 7 → exec (.hbmRefresh stack bank) s =
        .next (s.onHbm (fun h => { h with
          hbmStacks := tabPut h.hbmStacks stack { st with postponed := tabPut st.postponed (bank.getD 128) (n + 1) } })))
      ∧ (bankWaits s stack bank = false ∨ 7 ≤ n → ∃ t, exec (.hbmRefresh stack bank) s = .next t
        ∧ (∀ ch c, ch < 32 → tabGet s.hbm.chans (stack * 32 + ch) = some c →
            tabGet t.hbm.chans (stack * 32 + ch) = some { c with openRows := match bank with
              | some b => tabDel c.openRows b
              | none => [] })
        ∧ t.hbm.mem = s.hbm.mem ∧ t.loft = s.loft ∧ t.jobs = s.jobs))
  ∧ (∀ s stack bank, bank.isNone ≠ (s.hbm.mixed.get (towerOfStack stack) && s.hbm.allBank.get (towerOfStack stack)) →
      exec (.hbmRefresh stack bank) s = .next s)
  ∧ (∀ s t h u, u = s.timeTo (roundUp s.nowNs 10000) →
      (h ≤ 8 → exec (.holderBudgetWindowEnd t h) s =
        .next (onHolder t h (fun r => { r with windowBytes := 0 }) (if overBudget (holderOf u t h) then ctrHbm t (18 + h) 1 u else u)))
      ∧ (8 < h → exec (.holderBudgetWindowEnd t h) s = .next s))

/-- Repairs are kept in a table of 32 blocks a stack, 16 spare rows a bank and 64 lines a die, with their copy in flash, and a full one is reported
(R250, R251); a pin whose corrected accesses have reached the limit is marked failed (R239); the patrol scrubs a block or a loft line (R253); a bond
group spares its failing wires and is retired on its third replay failure, with no spare left, or on clock loss (R242, R246, R247). -/
def Obligations.RepairsComplete : Prop :=
  (∀ s a src, ((tabGetD s.hbm.sightings (a / 64) []).any (fun e => e.2.2) = true →
        exec (.hbmBlockRepair a src) s = .next (addBlock src a (s.onHbm (fun h => { h with sightings := tabDel h.sightings (a / 64) }))).2)
      ∧ ((tabGetD s.hbm.sightings (a / 64) []).any (fun e => e.2.2) = false →
        exec (.hbmBlockRepair a src) s = .next (if src = 4 then (addBlock 4 a s).2 else s)))
  ∧ (∀ s a src l n, l = locOf s a → blockRepaired s l = false → n = ((repairsOf s l.stack).filter (fun r => decide (r.kind = 1))).length →
      (n < 32 → addBlock src a s = (true, setRepairs l.stack (repairsOf s l.stack ++ [⟨1, l.channel, bankByte l, src, l.row, blockInRow l, s.nowNs⟩])
          (correctBlock a (hbmCharge (homeTower s a) 8 false 64 s))))
      ∧ (32 ≤ n → addBlock src a s = (false, remapFullHbm (eventSource src s) src a s.draw)))
  ∧ (∀ s a l k src, l = locOf s a → 4 ≤ (blockEntries s l).length → (repairsOf s l.stack).any (fun r => decide (r.kind = 2) && sameRow l r) = false →
      src = (((blockEntries s l).getLast?).map (·.source)).getD 0 →
      (freeSpareRow s a = some k → exec (.hbmRowRepair a) s =
        .next (setRepairs l.stack ((repairsOf s l.stack).filter (fun r => !(decide (r.kind = 1) && sameRow l r)) ++
            [⟨2, l.channel, bankByte l, src, l.row, k, s.nowNs⟩])
          ((rowBlocks s a).foldl (fun st b => hbmCharge (homeTower s b) 8 true 64 (correctBlock b (hbmCharge (homeTower s b) 8 false 64 st))) s)))
      ∧ (freeSpareRow s a = none → exec (.hbmRowRepair a) s = .next (remapFullHbm (eventSource src s) src a s.draw)))
  ∧ (∀ s a l, l = locOf s a → (blockEntries s l).length < 4 → exec (.hbmRowRepair a) s = .next s)
  ∧ (∀ s die bank line src ks, ks = (List.range 32).map (fun w => wordKey die bank line w) →
      (src = 3 ∨ src = 4 ∨ ks.any (fun k => (tabGetD s.loft.sightings k []).any (fun e => e.2.2)) = true →
        exec (.loftLineRepair die bank line src) s =
          .next (addLine src die bank line (s.onLoft (fun x => { x with sightings := ks.foldl (fun m k => tabDel m k) x.sightings }))).2)
      ∧ (src ≠ 3 → src ≠ 4 → ks.any (fun k => (tabGetD s.loft.sightings k []).any (fun e => e.2.2)) = false →
        exec (.loftLineRepair die bank line src) s = .next s))
  ∧ (∀ s die bank line src tab, tabGet s.loft.lineTable (lineKey die bank line) = none →
      tab = tabPut s.loft.lineTable (lineKey die bank line) (src, s.nowNs) →
      ((lineEntries s die).length < 64 → addLine src die bank line s =
        (true, ((correctLine die bank line s).onLoft (fun x => { x with lineTable := tab })).onFlash (fun f => { f with lineTable := tab })))
      ∧ (64 ≤ (lineEntries s die).length → addLine src die bank line s = (false, remapFullLoft (eventSource src s) die bank line s.draw)))
  ∧ (∀ s stack ch pc pin k pins, k = stack * 64 + ch * 2 + pc → pins = tabGetD s.hbm.failedPins k [] →
      ((tabGetD s.hbm.pinTally (k * 32 + pin) ([], false)).2 = true → pin ∉ pins →
        exec (.hbmPinFailed stack ch pc pin) s =
          .next (setRepairs stack (repairsOf s stack ++ [⟨4, ch, pc * 64, 2, pin, 0, s.nowNs⟩]) (s.onHbm (fun h => { h with
            failedPins := tabPut h.failedPins k (pins ++ [pin]), pinTally := tabDel h.pinTally (k * 32 + pin) }))))
      ∧ ((tabGetD s.hbm.pinTally (k * 32 + pin) ([], false)).2 = false ∨ pin ∈ pins → exec (.hbmPinFailed stack ch pc pin) s = .next s))
  ∧ (∀ s unit a err s1, unit < 16 → s.hbm.hbmPassMin ≠ 0 → unbacked s a = false → (locOf s a).stack = unit →
      s1 = setMarks a (xorMarks (tabGetD s.hbm.marks (a / 64) []) err) s →
      ∃ inn, inn ≤ 1 ∧ exec (.scrubPatrol unit a err) s = .next (ctrScrub (homeTower s a) 64 (scrubBlock a
        (ctrInner unit inn (hbmCharge (homeTower s a) 8 false 64 s1.draw))).1))
  ∧ (∀ s unit a err die, 16 ≤ unit → unit < 20 → s.hbm.loftPassS ≠ 0 → a < 2 ^ 24 → die = unit - 16 →
      exec (.scrubPatrol unit a err) s =
        .next (if (s.obs.winnow.get (towerOf (die / 2))).active.contains (die % 2 * 512 + a / 2 ^ 15) then s
          else scrubLine die (a / 2 ^ 15) (a % 2 ^ 15) (lineErrors die (a / 2 ^ 15) (a % 2 ^ 15) err s)))
  ∧ (∀ s g failed zs s1 b, s1 = ctrVl g 1 1 (beatFlip g s) → b = groupAt s1 g → b.retired = false →
      (failed = false → exec (.vlReplay g failed zs) s = .next (if b.failures = 0 then s1 else setGroup g { b with failures := 0 } s1))
      ∧ (failed = true → b.failures < 2 → exec (.vlReplay g failed zs) s = .next (setGroup g { b with failures := b.failures + 1 } s1))
      ∧ (failed = true → 2 ≤ b.failures → ∃ wire, wire < 72 ∧
        exec (.vlReplay g failed zs) s = .next (retireGroup g 2 wire (poisonBeat g.iface zs s1.draw))))
  ∧ (∀ s g wire, exec (.vlWireFailing g wire) s = .next (markWire g wire (ctrVl g 0 16 (beatFlip g s))))
  ∧ (∀ s g wire, wire < 72 → groupAt s g = BondGroup.fresh → markWire g wire s = setGroup g { BondGroup.fresh with failing := [wire] } s)
  ∧ (∀ s g w1 w2 w, w < 72 → w ≠ w1 → w ≠ w2 → groupAt s g = { BondGroup.fresh with sparesUsed := [(w1, 72), (w2, 73)] } →
      markWire g w s = retireGroup g 1 w s)
  ∧ (∀ s g s1 s2 n s3, (groupAt s g).retired = false → s1 = setGroup g { groupAt s g with retired := true } s →
      (if g.iface = 2 ∨ g.iface = 3 then retireColumn g.tower (mappedOut g) s1 else (s1, 0)) = (s2, n) →
      s3 = s2.onFlash (fun f => { f with
        defects := f.defects ++ [⟨6, true, towerNum g.tower, 0xFF, groupIndex g, 3⟩]
          ++ (if g.iface = 2 ∨ g.iface = 3 then [⟨3, true, towerNum g.tower, 0xFF, mappedOut g, 1⟩] else []) }) →
      (∀ j, jobOfTower s3 g.tower = some j →
        exec (.vlClockLoss g) s = .next (jobFault j.id evBondGroupDegraded (bondDetail s3 g 3 0xFF n) s3))
      ∧ (jobOfTower s3 g.tower = none → exec (.vlClockLoss g) s = .next (postNotice evBondGroupDegraded 0 (bondDetail s3 g 3 0xFF n) s3)))

/-- The mappings of R211 and R212 are one to one: an address of HBM is found again from its place, so no two addresses share a place. -/
def Obligations.HbmMappingOneToOne : Prop :=
  (∀ a, a < hbmTop → addrLocal (locLocal a) = a)
  ∧ (∀ a, a < hbmTop → addrGlobal (locGlobal a) = a)
  ∧ (∀ a, a < hbmTop → (locLocal a).stack < 16 ∧ (locLocal a).channel < 32 ∧ (locLocal a).pc < 2 ∧ (locLocal a).bank < 64 ∧ (locLocal a).row < 20480
      ∧ (locLocal a).column < 4 ∧ (locLocal a).byte < 256 ∧ ((locLocal a).stack < 8 ↔ a < hbmTower1))
  ∧ (∀ a, a < hbmTop → (locGlobal a).stack < 16 ∧ (locGlobal a).channel < 32 ∧ (locGlobal a).pc < 2 ∧ (locGlobal a).bank < 64
      ∧ (locGlobal a).row < 20480 ∧ (locGlobal a).column < 4 ∧ (locGlobal a).byte < 256)
/-! ### Fabric, twins, collectives -/

/-- FAB.PORTS reports every port and sets the groups FLAGS names, with their copy in flash; with new modes every logical port that no lane defect holds
down starts training, its neighbour and delay unknown (R287, R322). FAB.SET_ID gives the device its ID at S10 with no job and no context, unless a neighbour
has it (R323); FAB.ROUTES writes and reads entries (R324); FAB.TOPO_EXPECT waits for its stage, is judged once its ports have settled, and passes it on a full
match, or leaves it failed (R325, R432, R433); FAB.CONTEXT opens, closes and queries contexts and sets the mesh (R302, R326); FAB.TICK_ROLE gives and clears
a role (R315, R327). -/
def Obligations.FabricCommandsComplete : Prop :=
  (∀ s mb c fl p s1 s2, Waiting s mb 0x0400 c → Plain c 120 → par c 0 4 = fl → fl ≤ 15 → ZeroPar c 0xD 3 → ZeroPar c 0x2C 4 →
      p = portsOf c s.fab.cfg → portsBad fl p = false →
      (fl.testBit 0 ∨ fl.testBit 1 ∨ fl.testBit 3 → s.jobs.jobs = [] ∧ s.fab.ctxs = []) →
      s1 = (if fl = 0 then s else { s with fab := { s.fab with cfg := p }, flash := { s.flash with ports := some p } }) →
      s2 = countCodewords (if fl.testBit 0 then startPorts s1 else s1) →
      exec (.fabPorts mb) s = .next (topoTry (complete c stDone (portsResult s2) s2)))
  ∧ (∀ s mb c fl, Waiting s mb 0x0400 c → Plain c 120 → par c 0 4 = fl → fl ≤ 15 → ZeroPar c 0xD 3 → ZeroPar c 0x2C 4 →
      portsBad fl (portsOf c s.fab.cfg) = false → fl.testBit 0 = true ∨ fl.testBit 1 = true ∨ fl.testBit 3 = true → s.jobs.jobs ≠ [] ∨ s.fab.ctxs ≠ [] →
      exec (.fabPorts mb) s = .next (complete c stWrongState [] s))
  ∧ (∀ s l, (isLogical s.fab.cfg l = true → laneLost s l = false →
        ∃ q, tabGet (startPorts s).fab.ports l = some q ∧ q.enabled = true ∧ q.neighbor = none ∧ q.delayNs = 0
          ∧ q.link = (if q.blocked then .down else .training))
      ∧ (isLogical s.fab.cfg l = false ∨ laneLost s l = true → tabGet (startPorts s).fab.ports l = none))
  ∧ (∀ s mb c id, Waiting s mb 0x0401 c → Plain c 8 → par c 0 2 = id → id ≤ 8191 → ZeroPar c 2 6 →
      (s.boot.stage = 10 → s.jobs.jobs = [] → s.fab.ctxs = [] → (∀ e ∈ s.fab.ports, (e.2.neighbor.map (·.dev)) ≠ some id) →
        exec (.fabSetId mb) s = .next (complete c stDone [] (s.onFab (fun x => { x with devId := some id }))))
      ∧ (s.boot.stage = 10 → s.jobs.jobs = [] → s.fab.ctxs = [] → (∃ e ∈ s.fab.ports, (e.2.neighbor.map (·.dev)) = some id) →
        exec (.fabSetId mb) s = .next (complete c stBadField [] s))
      ∧ (s.boot.stage ≠ 10 ∨ s.jobs.jobs ≠ [] ∨ s.fab.ctxs ≠ [] → exec (.fabSetId mb) s = .next (complete c stWrongState [] s)))
  ∧ (∀ s mb c first n es, Waiting s mb 0x0402 c → Plain c (8 + 16 * n) → par c 0 2 = first → par c 2 2 = n → 1 ≤ n → n ≤ 250 → par c 4 2 = 0 →
      first + n ≤ 8192 → ZeroPar c 6 2 → es = (List.range n).map (fun i => sliceBytes c.params (8 + 16 * i) 16) →
      (∀ e ∈ es, routeBad s.fab.cfg e = false) → s.fab.devId.isSome = true → tabWf s.fab.routes = true →
      ∃ r, exec (.fabRoutes mb) s = .next (complete c stDone [] (s.onFab (fun x => { x with routes := r })))
        ∧ (∀ i e, es[i]? = some e → tabGet r (first + i) = if e.all (· == 0#8) then none else some (routeOf e))
        ∧ (∀ i, i < first ∨ first + n ≤ i → tabGet r i = tabGet s.fab.routes i))
  ∧ (∀ s mb c first n, Waiting s mb 0x0402 c → Plain c 8 → par c 0 2 = first → par c 2 2 = n → 1 ≤ n → n ≤ 250 → par c 4 2 = 1 → first + n ≤ 8192 →
      ZeroPar c 6 2 → s.fab.devId.isSome = true →
      exec (.fabRoutes mb) s =
        .next (complete c stDone (leBytes first 2 ++ leBytes n 2 ++ leBytes 1 2 ++ leBytes 0 2
          ++ (List.range n).flatMap (fun i => routeBytes (tabGet s.fab.routes (first + i)))) s))
  ∧ (∀ s mb c n s1, Waiting s mb 0x0403 c → par c 0 2 = n → 1 ≤ n → n ≤ 48 → Plain c (8 + 32 * n) → ZeroPar c 2 6 →
      (∀ e ∈ topoEntries c, fieldAt e 0 1 < 48 ∧ fieldAt e 2 1 < 8 ∧ fieldAt e 3 1 = 0) →
      (8 ≤ s.boot.stage → (s.boot.stage = 10 → s.jobs.jobs = []) → s.fab.topoHeld = none →
        s1 = (markStarted c s).onFab (fun x => { x with topoHeld := some c.mb }) →
        exec (.fabTopoExpect mb) s =
          .next (topoTry (if s.boot.stage = 9 then noteStatus s1 (s1.onBoot (fun b => { b with failed := false })) else s1)))
      ∧ (s.boot.stage < 8 ∨ (s.boot.stage = 10 ∧ s.jobs.jobs ≠ []) ∨ s.fab.topoHeld.isSome = true →
        exec (.fabTopoExpect mb) s = .next (complete c stWrongState [] s)))
  ∧ (∀ s c mb, s.fab.topoHeld = some mb → Running s mb 0x0403 c →
      (9 ≤ s.boot.stage → topoSettled s c = true → stageWaits s = false → topoTry s = topoJudge c s)
      ∧ (s.boot.stage < 9 ∨ topoSettled s c = false ∨ stageWaits s = true → topoTry s = s))
  ∧ (∀ s c t, t = complete c stDone (leBytes (topoEntries c).length 2 ++ leBytes 0 2 ++ leBytes 0 4
        ++ List.replicate (topoEntries c).length 0#8) (s.onFab (fun f => { f with topoHeld := none })) → (∀ e ∈ topoEntries c, topoStatus s e = 0) →
      (s.boot.stage = 9 → topoJudge c s = enterReady t) ∧ (s.boot.stage ≠ 9 → topoJudge c s = t))
  ∧ (∀ s c, s.boot.stage = 9 → (∃ e ∈ topoEntries c, topoStatus s e ≠ 0) →
      (topoJudge c s).boot.stage = 9 ∧ (topoJudge c s).boot.failed = true ∧ (topoJudge c s).boot.code = 0x9001 ∧ (topoJudge c s).fab.topoHeld = none)
  ∧ (∀ s e p n, tabGet s.fab.ports (fieldAt e 0 1) = some p → p.link = .up → p.neighbor = some n → (fieldAt e 2 1).testBit 2 = false →
      topoStatus s e = (if n.serial.take 12 ≠ sliceBytes e 4 12 then 2 else if n.port ≠ fieldAt e 1 1 then 3
        else if (fieldAt e 2 1).testBit 1 ∧ p.cableSerial ≠ sliceBytes e 0x10 16 then 4 else 0))
  ∧ (∀ s mb c n j es, Waiting s mb 0x0404 c → par c 2 2 = n → 1 ≤ n → n ≤ 250 → Plain c (8 + 16 * n) → par c 0 1 = 0 → ZeroPar c 1 1 → ZeroPar c 4 4 →
      es = (List.range n).map (fun i => sliceBytes c.params (8 + 16 * i) 16) → jobAt s c.job = some j → j.state ≠ .armed → j.state ≠ .running →
      (∀ e ∈ es, fieldAt e 0 2 < 0x4000 ∧ fieldAt e 2 2 < 0x4000 ∧ fieldAt e 4 2 ≤ 8191 ∧ fieldAt e 6 2 < 0x4000 ∧ fieldAt e 8 1 < 2 ∧ fieldAt e 9 1 < 16
        ∧ fieldAt e 0xA 1 < 2 ∧ zeroAt e 0xB 5 = true ∧ tabGet s.fab.ctxs (fieldAt e 0 2) = none ∧ tabGet j.ctxIndex (fieldAt e 2 2) = none
        ∧ towerOf (fieldAt e 8 1) ∈ towersOfPartition j.partition) →
      (es.map (fun e => fieldAt e 0 2)).Nodup → (es.map (fun e => fieldAt e 2 2)).Nodup →
      exec (.fabContext mb) s = .next (complete c stDone [] (es.foldl (fun st e =>
        (openCtx (fieldAt e 0 2) c.job false (towerOf (fieldAt e 8 1)) (fieldAt e 4 2) (fieldAt e 6 2) (fieldAt e 9 1) (fieldAt e 0xA 1) st).onJob
          c.job (fun x => { x with ctxIndex := tabPut x.ctxIndex (fieldAt e 2 2) (fieldAt e 0 2) })) s)))
  ∧ (∀ s n owner m t dev peer access tc, ∃ c, tabGet (openCtx n owner m t dev peer access tc s).fab.ctxs n = some c ∧ c.state = .openS ∧ c.sndNxt = 0
      ∧ c.sndUna = 0 ∧ c.rcvNxt = 0 ∧ c.owner = owner ∧ c.tower = t ∧ c.peerDev = dev ∧ c.peerCtx = peer ∧ c.access = access ∧ c.tc = tc ∧ c.srttNs = 10000
      ∧ c.rtoNs = 28000 ∧ c.rate = ctxRate s n c)
  ∧ (∀ s mb c j n es, Waiting s mb 0x0404 c → par c 2 2 = n → 1 ≤ n → n ≤ 250 → Plain c (8 + 16 * n) → par c 0 1 = 1 → ZeroPar c 1 1 → ZeroPar c 4 4 →
      es = (List.range n).map (fun i => sliceBytes c.params (8 + 16 * i) 16) → jobAt s c.job = some j → j.state ≠ .armed → j.state ≠ .running →
      (∀ e ∈ es, fieldAt e 0 2 < 0x4000 ∧ zeroAt e 2 14 = true ∧
        ∃ x, tabGet s.fab.ctxs (fieldAt e 0 2) = some x ∧ x.mirror = false ∧ x.owner = c.job) →
      exec (.fabContext mb) s = .next (complete c stDone [] (closeCtxs c.job (es.map (fun e => fieldAt e 0 2)) s)))
  ∧ (∀ s mb c n es, Waiting s mb 0x0404 c → par c 2 2 = n → 1 ≤ n → n ≤ 125 → Plain c (8 + 16 * n) → par c 0 1 = 2 → ZeroPar c 1 1 → ZeroPar c 4 4 →
      es = (List.range n).map (fun i => sliceBytes c.params (8 + 16 * i) 16) → (∀ e ∈ es, fieldAt e 0 2 < 0x4000) →
      exec (.fabContext mb) s = .next (complete c stDone (es.flatMap (fun e => ctxRecord s (fieldAt e 0 2))) s))
  ∧ (∀ s mb c j m, Waiting s mb 0x0404 c → Plain c (meshLength c) → par c 0 1 = 3 → ZeroPar c 1 1 → par c 2 2 = 0 → ZeroPar c 4 4 → meshOf c = some m →
      jobAt s c.job = some j → j.state ≠ .armed → j.state ≠ .running →
      exec (.fabContext mb) s = .next (complete c stDone [] (s.onJob c.job (fun x => { x with mesh := some m }))))
  ∧ (∀ s mb c role up path down k, Waiting s mb 0x0405 c → Plain c 24 → par c 0 1 = role → par c 1 1 = up → par c 4 4 = path → par c 8 8 = down →
      ZeroPar c 2 2 → ZeroPar c 0x10 8 → c.job ≠ 0 → down < 2 ^ 48 →
      (role = 1 ∧ up = 0xFF ∧ 1 ≤ path ∧ path ≤ 18000 ∧ (jobAt s c.job).isSome = true ∧ k = .master)
        ∨ (role = 2 ∧ up < 48 ∧ path = 0 ∧ jobAt s c.job = none ∧ k = .relay)
        ∨ (role = 0 ∧ up < 48 ∧ path = 0 ∧ (jobAt s c.job).isSome = true ∧ k = .follower) →
      (∀ j, jobAt s c.job = some j → j.state ≠ .armed ∧ j.state ≠ .running) →
      (∀ l, (l = up ∧ up < 48) ∨ l ∈ portsOfMask down → ∃ p n, tabGet s.fab.ports l = some p ∧ p.link = .up ∧ p.delayNs ≤ 500 ∧ p.neighbor = some n
        ∧ n.familyId = 0x00A7 ∧ n.member = 0x0009) →
      (s.jobs.roles.length < 64 ∨ (roleOf s c.job).isSome = true →
        exec (.fabTickRole mb) s = .next (complete c stDone (leBytes (if role = 1 then settleUs path else 0) 4) (s.onJobs (fun x => { x with
          roles := tabPut x.roles c.job { role := k, upPort := up, maxPathNs := path, downMask := down } }))))
      ∧ (64 ≤ s.jobs.roles.length → roleOf s c.job = none → exec (.fabTickRole mb) s = .next (complete c stNoSpace [] s)))
  ∧ (∀ s mb c, Waiting s mb 0x0405 c → Plain c 24 → par c 0 1 = 3 → par c 1 1 = 0xFF → ZeroPar c 2 22 → c.job ≠ 0 →
      ((∀ j, jobAt s c.job = some j → j.state ≠ .armed ∧ j.state ≠ .running) →
        exec (.fabTickRole mb) s = .next (complete c stDone (leBytes 0 4) (s.onJobs (fun x => { x with roles := tabDel x.roles c.job }))))
      ∧ ((∃ j, jobAt s c.job = some j ∧ (j.state = .armed ∨ j.state = .running)) →
        exec (.fabTickRole mb) s = .next (complete c stWrongState [] s)))

/-- Ports. Loss of the link or more than 1,024 uncorrectable codewords in 1 ms take an up port down, LINK_DOWN with cause 1 or 2, and it trains anew
(R287); a port that is down trains again after 1 s or on a signal. After training, 16 delay exchanges, whose median is the port's delay (R288), and DISCOVER:
ten at 100 ms, then one every 10 s, naming the neighbour, with a window of 2 s (R289). CMIS_POLL takes a module's report: a mismatch takes the port down
with cause 4, a fault or a removal with cause 3 (R290). PFC pauses and resumes a class with PFC (R309). A Neighbor Solicitation for an address of the
device is answered in IPV6 encapsulation (R293). What a port sends while nothing holds its class back goes out at once and is counted (R296, R328). -/
def Obligations.PortEventsComplete : Prop :=
  (∀ s l, (portUp s l = true → exec (.portLinkLoss l) s = .next (portDown l 1 s)
        ∧ exec (.fecUncorrectableLimit l) s =
          .next (portDown l 2 (onPort l (fun p => { p with fecUncorr := min 0xFFFFFFFF (p.fecUncorr + 1025) }) s)))
      ∧ (portUp s l = false → exec (.portLinkLoss l) s = .next s ∧ exec (.fecUncorrectableLimit l) s = .next s))
  ∧ (∀ s l p cause q, tabGet s.fab.ports l = some p → p.link = .up → q = Port.fresh s l →
      portDown l cause s = postNotice evLinkDown 0 (fabricDetail s evLinkDown (towerOf (l / 24)) l cause 0 0xFFFF 0xFFFF 0xFFFF 0)
        (onPort l (fun _ => if q.blocked then { q with link := .down } else { q with fecCorr := p.fecCorr, fecUncorr := p.fecUncorr }) s))
  ∧ (∀ s l, (Port.fresh s l).link = .training ∧ (Port.fresh s l).neighbor = none ∧ (Port.fresh s l).delayNs = 0
      ∧ (Port.fresh s l).attemptNs = s.nowNs)
  ∧ (∀ s l p, tabGet s.fab.ports l = some p →
      (p.enabled = true → p.link = .down → p.blocked = false →
        exec (.portRetrainAttempt l) s =
          .next (onPort l (fun q => { q with link := .training, attemptNs := max s.nowNs (p.attemptNs + 1000000000) })
            (s.timeTo (p.attemptNs + 1000000000)))
        ∧ exec (.portSignalDetect l) s = .next (onPort l (fun q => { q with link := .training, attemptNs := s.nowNs }) s))
      ∧ (p.enabled = false ∨ p.link ≠ .down ∨ p.blocked = true →
        exec (.portRetrainAttempt l) s = .next s ∧ exec (.portSignalDetect l) s = .next s))
  ∧ (∀ s l p, tabGet s.fab.ports l = some p → p.link = .training →
      exec (.portTrainingEnd l true) s =
        .next (topoTry (linkSend l 0x0B (stampBytes s.nowNs 0) (onPort l (fun q => { q with
          link := .up, upNs := s.nowNs, neighbor := none, discoverWait := true, discoverSent := 0, discoverNs := s.nowNs, delaySamples := []
          delayT1 := some s.nowNs, fecCorr := 0, fecUncorr := 0 }) s)))
      ∧ exec (.portTrainingEnd l false) s = .next (topoTry (onPort l (fun q => { q with link := .down }) s)))
  ∧ (∀ s l t1 at_, (portUp s l = true →
        exec (.delayReq l t1 at_) s = .next (linkSend l 0x0C (stampBytes at_ (max s.nowNs at_)) (s.timeTo at_)))
      ∧ (portUp s l = false → exec (.delayReq l t1 at_) s = .next s))
  ∧ (∀ s l p (t1 t2 t3 at_ : Nat) xs, tabGet s.fab.ports l = some p → p.delayT1 = some t1 →
      xs = p.delaySamples ++ [(((at_ : Int) - (t1 : Int)) - ((t3 : Int) - (t2 : Int))) / 2] →
      (p.delaySamples.length < 15 → exec (.delayResp l t2 t3 at_) s =
        .next (linkSend l 0x0B (stampBytes (max s.nowNs at_) 0)
          (onPort l (fun q => { q with delaySamples := xs, delayT1 := some (max s.nowNs at_) }) (s.timeTo at_))))
      ∧ (15 ≤ p.delaySamples.length → exec (.delayResp l t2 t3 at_) s =
        .next (onPort l (fun q => { q with delaySamples := [], delayT1 := none, delayNs := median16 xs }) (s.timeTo at_))))
  ∧ (∀ s l p (s1 : State) n, tabGet s.fab.ports l = some p → p.link = .up → s1 = s.timeTo p.discoverNs → n = p.discoverSent + 1 →
      exec (.discoverSend l) s = .next (linkSend l 0x0A (discoverBytes
          { familyId := 0x00A7, member := 0x0009, devId := devField s1, port := l, ready := decide (s1.boot.stage = 10), moduleSerial := moduleSerial s1
            cableSerial := p.cableSerial })
        (onPort l (fun q => { q with
          discoverSent := n, discoverNs := max s.nowNs p.discoverNs + (if n < 10 then 100000000 else 10000000000) }) s1)))
  ∧ (∀ s l d, (portUp s l = true →
        exec (.discover l d) s = .next (topoTry (onPort l (fun q => { q with
          neighbor := some { familyId := d.familyId, member := d.member, dev := d.devId, port := d.port, serial := d.moduleSerial }
          discoverWait := false }) s)))
      ∧ (portUp s l = false → exec (.discover l d) s = .next s))
  ∧ (∀ s l p, tabGet s.fab.ports l = some p →
      (p.link = .up → p.discoverWait = true →
        exec (.discoverTimeout l) s = .next (topoTry (onPort l (fun q => { q with discoverWait := false }) (s.timeTo (p.upNs + 2000000000)))))
      ∧ (p.link ≠ .up ∨ p.discoverWait = false → exec (.discoverTimeout l) s = .next s))
  ∧ (∀ s l p q, tabGet s.fab.ports l = some q → q.link = .up → q.held = [] → (q.paused).testBit (pktClass p) = false →
      capRoom s l q (pktClass p) (frameBytes s.fab.cfg p) = true →
      ∃ x, (egressSend l p s).out = s.out ++ [.packet l x] ∧ (2 ≤ pktClass p → x = p)
        ∧ (x = p ∨ (x = markCe s.fab.cfg p ∧ isEct s.fab.cfg p = true ∧ 0x20000 < (drained s l q).getD (pktClass p) 0))
        ∧ (egressSend l p s).obs = (ctrFab l 0 (frameBytes s.fab.cfg p) s).obs)
  ∧ (∀ s fx r s1 s2 s3, hasCage s fx = true → s.gate.pwr ≠ .dark ∨ s.boot.stage ≠ 10 →
      s1 = (match tabGet s.fab.cmisNs fx with
        | some k => s.timeTo (k + 1000000000)
        | none => s) →
      s2 = s1.onFab (fun x => { x with
        cmisNs := tabPut x.cmisNs fx s1.nowNs, modules := tabPut x.modules fx { r with bytes := [] }
        cmis := if r.present then tabPut x.cmis fx (r.bytes.foldl (fun m b => memPut m b.1 b.2) []) else tabDel x.cmis fx }) →
      s3 = (List.range 8).foldl (fun st i => cmisPort r (8 * fx + i) st) s2 →
      exec (.cmisPoll fx r) s = .next (topoTry (
        if r.present = true ∧ (∀ m, tabGet s.fab.modules fx = some m → m.present = false) ∧ (∃ e ∈ s.fab.ports, e.1 / 8 = fx ∧ e.2.enabled = true)
        then cmisWrite fx false s3 else s3)))
  ∧ (∀ s fx r, hasCage s fx = false ∨ (s.gate.pwr = .dark ∧ s.boot.stage = 10) → exec (.cmisPoll fx r) s = .next s)
  ∧ (∀ s l p r q s1, tabGet s.fab.ports l = some p → q = p.plugged r (portMode s.fab.cfg l) → s1 = onPort l (fun _ => q) s →
      (p.enabled = true → q.moduleMismatch = true → p.moduleMismatch = false → cmisPort r l s = portDown l 4 s1)
      ∧ (p.enabled = true → q.moduleMismatch = false ∨ p.moduleMismatch = true → (q.moduleFault = true ∧ p.moduleFault = false) ∨ (p.modulePresent = true ∧ r.present = false) →
        cmisPort r l s = portDown l 3 s1)
      ∧ (q.moduleMismatch = true ↔ r.present = true ∧ (r.revisionOk = false ∨ portMode s.fab.cfg l ∉ r.applications)))
  ∧ (∀ s l p cls, tabGet s.fab.ports l = some p → cls < 2 → (s.fab.cfg.pfcMask).testBit cls = true →
      exec (.pfcFrame l cls true) s =
        .next (onPort l (fun q => { q with egressDepth := drained s l p, egressNs := s.nowNs, paused := q.paused ||| 2 ^ cls }) s)
      ∧ exec (.pfcFrame l cls false) s =
        .next (releaseHeld l (onPort l (fun q => { q with
          egressDepth := drained s l p, egressNs := s.nowNs, paused := q.paused - (q.paused &&& 2 ^ cls) }) s)))
  ∧ (∀ s l cls x, 2 ≤ cls ∨ (s.fab.cfg.pfcMask).testBit cls = false → exec (.pfcFrame l cls x) s = .next s)
  ∧ (∀ s l dev port,
      (portUp s l = true → s.fab.cfg.encap = 1 → s.fab.devId = some dev → isLogical s.fab.cfg port = true →
        exec (.neighborSolicitation l dev port) s = .next (s.emit (.neighborAdvert l (ip6Of s.fab.cfg dev port) (macOf dev port))))
      ∧ (portUp s l = false ∨ s.fab.cfg.encap ≠ 1 ∨ s.fab.devId ≠ some dev ∨ isLogical s.fab.cfg port = false →
        exec (.neighborSolicitation l dev port) s = .next s))
  ∧ (∀ c d l, d < 8192 → l < 48 → macOf d l = 0x02A700000000 + d * 65536 + l ∧ ip6Of c d l = c.pfx * 2 ^ 64 + 0x00A7 * 2 ^ 48 + d * 65536 + l)

/-- A packet the switch has taken and the port's buffer holds. A reliable one in order is applied, accepted and acknowledged, or refused with cause 4 where the
context's rights do not cover it (R302, R303, R310, R311); one ahead is answered by NACK of cause 1 at most once in 4 µs, one behind by an ACK; under a
partition reset cause 2, in REST or for a FREE or ERROR context cause 3; a bad CRC or checksum, and a peer that does not agree, are dropped and counted (Table
10.10); a CE mark is answered by CNP (R307). A packet for another device takes its route with HOPS one higher, or is dropped (R297, R298). ACK, NACK
and CNP act on their context (R304, R305, R308). What the buffer has no room for is dropped (R309). -/
def Obligations.PacketsReceived : Prop :=
  (∀ s port p n c k s0 s1 s2, Arrival port p k → 1 ≤ p.op → p.op ≤ 5 → Enters s port p s0 → ForContext s p n c → s1 = fetchCtx n c.tower s0 →
      underReset s1 c.tower = false → isCe s1.fab.cfg p = false → s1.gate.pwr ≠ .rest ∨ c.mirror = true →
      s2 = takeAck n p.ackPsn (traceFabric 6 n port c p s1) →
      (c.mirror = false → psnDiff c.rcvNxt p.psn = 0 → accessOk s2 c p = true → exec k s = .next (accepted n p (applyPkt n c p s2)))
      ∧ (c.mirror = false → psnDiff c.rcvNxt p.psn = 0 → accessOk s2 c p = false → exec k s = .next (refuse port n p 4 c.rcvNxt s2))
      ∧ (2 ^ 31 ≤ psnDiff c.rcvNxt p.psn → exec k s = .next (sendAck n s2))
      ∧ (0 < psnDiff c.rcvNxt p.psn → psnDiff c.rcvNxt p.psn < 2 ^ 31 → (∀ x, c.nackNs = some x → x + 4000 ≤ s1.nowNs) →
        exec k s = .next (refuse port n p 1 (ackablePsn s2 c) (onCtx n (fun x => { x with nackNs := some s1.nowNs }) s2)))
      ∧ (0 < psnDiff c.rcvNxt p.psn → psnDiff c.rcvNxt p.psn < 2 ^ 31 → (∃ x, c.nackNs = some x ∧ s1.nowNs < x + 4000) → exec k s = .next s2))
  ∧ (∀ s port p n c k s0 s1, Arrival port p k → 1 ≤ p.op → p.op ≤ 5 → Enters s port p s0 → ForContext s p n c → s1 = fetchCtx n c.tower s0 →
      isCe s1.fab.cfg p = false →
      (underReset s1 c.tower = true → exec k s = .next (refuse port n p 2 c.rcvNxt (traceFabric 6 n port c p s1)))
      ∧ (underReset s1 c.tower = false → c.mirror = false → s1.gate.pwr = .rest →
        exec k s = .next (refuse port n p 3 c.rcvNxt (traceFabric 6 n port c p s1))))
  ∧ (∀ s port p, Arrival port p (.frameForward port p)
      ∧ (∀ op k, (op, k) ∈ [(1, Instr.write port p), (2, .add port p), (3, .signal port p), (4, .readReq port p), (5, .readResp port p), (6, .ack port p),
          (7, .nack port p), (8, .cnp port p)] → (p.op = op → Arrival port p k) ∧ (p.op ≠ op → exec k s = .next s)))
  ∧ (∀ s port n c p, isCe s.fab.cfg p = true →
      ((∀ k, c.cnpNs = some k → k + 8000 ≤ s.nowNs) → underReset s c.tower = false →
        answerCe port n c p s = ctrFab port 5 1 (netSend { ctxPkt s n c 8 0 with ackPsn := 0 } (onCtx n (fun x => { x with cnpNs := some s.nowNs }) s)))
      ∧ ((∃ k, c.cnpNs = some k ∧ s.nowNs < k + 8000) ∨ underReset s c.tower = true → answerCe port n c p s = s))
  ∧ (∀ s n p c, tabGet s.fab.ctxs n = some c → ∃ x, tabGet (accepted n p s).fab.ctxs n = some x ∧ x.rcvNxt = psnAdd c.rcvNxt 1)
  ∧ (∀ s n c p, windowAt p.addr = none →
      (p.op = 1 → p.noAlloc = false → applyPkt n c p s = floorWrite (Agent.rxOf 5) c.owner p.addr p.payload (pktPoison p) s)
      ∧ (p.op = 1 → p.noAlloc = true → applyPkt n c p s = engineWrite (Agent.rxOf 5) c.owner true p.addr p.payload (pktPoison p) s)
      ∧ (p.op = 2 → applyPkt n c p s = wakeWaits p.addr p.payload.length
          (engineReduce (Agent.rxOf 5) c.owner p.noAlloc (redOpCode p.redOp) (redTyCode p.redTy) (addOps p) s))
      ∧ (p.op = 3 → applyPkt n c p s = wakeWaits p.addr 8
          (engineReduce (Agent.rxOf 5) c.owner false .add .int64 [⟨0, p.addr, BitVec.ofNat 64 (leNat p.payload), 0, false, false⟩] s))
      ∧ (p.op = 4 → ∀ s1 bs pz, floorRead (Agent.of 5) c.owner p.addr (fieldAt p.payload 0 4) s = (s1, bs, pz) →
        applyPkt n c p s = onCtx n (fun x => { x with
          queue := x.queue ++ [.reply (fieldAt p.payload 8 8) bs (payloadPoison p.addr (fieldAt p.payload 0 4) pz)] }) s1)
      ∧ (p.op = 5 → p.last = false → applyPkt n c p s = floorWrite (Agent.rxOf 5) c.owner p.addr p.payload (pktPoison p) s))
  ∧ (∀ s port p k s0 s1, Arrival port p k → Enters s port p s0 → s.fab.devId = some p.dst → s1 = ctrFab port 7 1 s0 →
      (crcOk s.fab.cfg p = false ∨ udpOk p = false → exec k s = .next s1)
      ∧ (crcOk s.fab.cfg p = true → udpOk p = true → tabGet s.fab.ctxs p.dstCtx = none →
          exec k s = .next (if p.op ≤ 5 then refuse port p.dstCtx p 3 0 s0 else s0))
      ∧ (∀ c s2, crcOk s.fab.cfg p = true → udpOk p = true → tabGet s.fab.ctxs p.dstCtx = some c → s2 = fetchCtx p.dstCtx c.tower s0 →
          (c.peerDev ≠ p.src ∨ c.peerCtx ≠ p.srcCtx → exec k s = .next (ctrFab port 8 1 s2))
          ∧ (c.peerDev = p.src → c.peerCtx = p.srcCtx → c.state = .error →
            exec k s = .next (if p.op ≤ 5 then refuse port p.dstCtx p 3 c.rcvNxt s2 else s2))))
  ∧ (∀ s port p k s0, Arrival port p k → Enters s port p s0 → s.fab.devId ≠ some p.dst →
      (16 ≤ p.hops → exec k s = .next (ctrFab port 9 1 s0))
      ∧ (p.hops < 16 → routeChoice s0 p.dst (pktHash p) = none → exec k s = .next (ctrFab port 9 1 s0))
      ∧ (∀ l remote, p.hops < 16 → routeChoice s0 p.dst (pktHash p) = some (l, remote) →
          exec k s = .next (ctrFab l 2 (frameBytes s0.fab.cfg p) (egressSend l (redress s0 l remote p) s0))
          ∧ (redress s0 l remote p).hops = p.hops + 1 ∧ (redress s0 l remote p).payload = p.payload
          ∧ (redress s0 l remote p).outer.srcMac = macOf (devField s0) l ∧ (redress s0 l remote p).trailer = p.trailer))
  ∧ (∀ s port p k, Arrival port p k →
      (switchTakes s port p = false → exec k s = .next s)
      ∧ (switchTakes s port p = true → port ≠ 255 → rxFits s port p = false → exec k s = .next (ctrFab port 6 1 s)))
  ∧ (∀ s port p n c k s0 s1, Arrival port p k → Enters s port p s0 → ForContext s p n c → s1 = fetchCtx n c.tower s0 →
      (p.op = 6 → c.state = .openS → exec k s = .next (takeAck n p.ackPsn s1))
      ∧ (p.op = 6 → c.state = .waiting →
        exec k s = .next (takeAck n p.ackPsn (onCtx n (fun x => { x with state := .openS, timerNs := s1.nowNs }) s1)))
      ∧ (p.op = 7 → p.addr % 65536 = 1 → ∀ x, tabGet (takeAck n p.ackPsn s1).fab.ctxs n = some x →
        exec k s = .next (if underReset (takeAck n p.ackPsn s1) x.tower then takeAck n p.ackPsn s1 else resend n x.unacked.length (takeAck n p.ackPsn s1)))
      ∧ (p.op = 7 → p.addr % 65536 = 2 ∨ p.addr % 65536 = 3 → exec k s = .next (enterWaiting n (p.addr % 65536) s1))
      ∧ (p.op = 7 → p.addr % 65536 = 4 → exec k s = .next (ctxError n evFieldViolation 6 p.ackPsn s1))
      ∧ (p.op = 8 → exec k s = .next (applyCnp n s1)))
  ∧ (∀ now a k c u, psnDiff c.sndUna a = k → 0 < k → c.unacked[k - 1]? = some u →
      (ackCtx now a c).unacked = c.unacked.drop k ∧ (ackCtx now a c).sndUna = a % 2 ^ 32 ∧ (ackCtx now a c).retries = 0
        ∧ (ackCtx now a c).timerNs = now ∧ (u.resent = true → (ackCtx now a c).srttNs = c.srttNs))

/-- Timers of a context: the ACK delay (R303), the retransmission timeout that halves RATE, doubles up to 2 ms and ends in ERROR at the tenth, which resends
everything unacknowledged (R304, R308), resends of the oldest every 200 µs in WAITING and its limit of 2 s (R305), the recovery of RATE (R308);
nothing is acknowledged or resent while the tower is under a partition reset (R312). A transfer's next packet is made and sent when its context may send (R302, R307,
R309, R318), and takes the next PSN. -/
def Obligations.FabricTimers : Prop :=
  (∀ s n c, tabGet s.fab.ctxs n = some c →
      (∀ k, c.ackDueNs = some k → underReset s c.tower = false → exec (.ackDelayTimer n) s = .next (sendAck n (s.timeTo k)))
      ∧ (c.ackDueNs = none ∨ underReset s c.tower = true → exec (.ackDelayTimer n) s = .next s))
  ∧ (∀ s n c f, tabGet s.fab.ctxs n = some c → c.state = .openS → c.unacked ≠ [] → underReset s c.tower = false →
      f = (fun x : Ctx => { x with
        rate := max (x.rate / 2) 1000000000, recoverNs := max s.nowNs (c.timerNs + c.rtoNs) + 16000, retries := x.retries + 1
        rtoNs := min 2000000 (2 * x.rtoNs), timerNs := max s.nowNs (c.timerNs + c.rtoNs) }) →
      (c.retries ≠ 9 → exec (.retransmitTimeout n) s = .next (resend n c.unacked.length (onCtx n f (s.timeTo (c.timerNs + c.rtoNs)))))
      ∧ (c.retries = 9 → exec (.retransmitTimeout n) s =
          .next (ctxError n evContextTimeout 1 c.sndUna (onCtx n f (s.timeTo (c.timerNs + c.rtoNs))))))
  ∧ (∀ s n c, tabGet s.fab.ctxs n = some c → c.state ≠ .openS ∨ c.unacked = [] ∨ underReset s c.tower = true →
      exec (.retransmitTimeout n) s = .next s)
  ∧ (∀ s n c, tabGet s.fab.ctxs n = some c → c.state = .waiting →
      (underReset s c.tower = false → exec (.waitingResend n) s =
        .next (resend n 1 (onCtx n (fun x => { x with waitResendNs := x.waitResendNs + 200000 }) (s.timeTo c.waitResendNs))))
      ∧ (underReset s c.tower = true → exec (.waitingResend n) s = .next s)
      ∧ exec (.waitingLimit n) s = .next (ctxError n evContextTimeout 2 c.sndUna (s.timeTo (c.waitNs + 2000000000))))
  ∧ (∀ s n c, tabGet s.fab.ctxs n = some c → c.state ≠ .waiting → exec (.waitingResend n) s = .next s ∧ exec (.waitingLimit n) s = .next s)
  ∧ (∀ s n c, tabGet s.fab.ctxs n = some c →
      exec (.rateRecovery n) s =
        .next (onCtx n (fun x => { x with rate := (7 * x.rate + ctxRate s n c) / 8, recoverNs := x.recoverNs + 16000 }) (s.timeTo c.recoverNs)))
  ∧ (∀ s n c x rest s1 addr op ro rt na bs pz left, tabGet s.fab.ctxs n = some c → c.mirror = false → c.queue = x :: rest → maySend s n c = true →
      nextPacket (s.timeTo c.sendNs) c.owner x = (s1, (op, addr, ro, rt, na), bs, pz, left) →
      exec (.fabricSend n) s =
        .next (sendReliable n { ctxPkt s1 n c op c.sndNxt with
            addr := addr, redOp := ro, redTy := rt, noAlloc := na, payload := bs, poison := pz, last := left.isNone, ackReq := left.isNone }
          (onCtx n (fun y => { y with queue := (left.map (fun z => z :: rest)).getD rest }) s1)))
  ∧ (∀ s n c, tabGet s.fab.ctxs n = some c → c.mirror = false → maySend s n c = false ∨ c.queue = [] → exec (.fabricSend n) s = .next s)
  ∧ (∀ s n c, maySend s n c = true → c.state = .openS ∧ c.unacked.length < 512 ∧ s.fab.devId.isSome = true ∧ underReset s c.tower = false)
  ∧ (∀ s job add la ra bytes op ty na s1 bs pz p, p = payloadSize s.fab.cfg → floorRead (Agent.of 3) job la (min p bytes) s = (s1, bs, pz) →
      nextPacket s job (.put add la ra bytes op ty na) = (s1, (if add then 2 else 1, ra, op, ty, na), bs, payloadPoison la (min p bytes) pz,
        if bytes ≤ p then none else some (.put add (la + min p bytes) (ra + min p bytes) (bytes - min p bytes) op ty na)))
  ∧ (∀ s n c p, tabGet s.fab.ctxs n = some c → n ∈ s.fab.ctxCache.get c.tower → 0 < c.rate →
      ∃ x, tabGet (sendReliable n p s).fab.ctxs n = some x ∧ x.sndNxt = psnAdd c.sndNxt 1 ∧ x.unacked.length = c.unacked.length + 1 ∧ x.ackDueNs = none
        ∧ x.sendNs = s.nowNs + ceilDiv (p.payload.length * 1000000000) c.rate)

/-- TWIN commands (R330, R346, R348, R349) and the mirror stream. TWIN.BIND opens the contexts of the towers it names and waits for HELLO, and fails with
TWIN_LOST after 10 s; once the HELLOs are exchanged it is judged (R330, R331). TWIN.UNBIND clears the binding, TWIN.RESTORE queues its streams. A mirror packet is
accepted where its records apply, else refused with cause 4; a valid commit record is entered in the ring and, with FULL, is held (R338, R343); one that
fails its check is refused. A commit record's 64 bytes read back as it was made (R339). -/
def Obligations.TwinsComplete : Prop :=
  (∀ s mb c, Waiting s mb 0x0503 c → Plain c 0 → exec (.twinStatus mb) s = .next (complete c stDone (twinStatusHalf s .t0 ++ twinStatusHalf s .t1) s))
  ∧ (∀ s mb c ts, Waiting s mb 0x0501 c → Plain c 8 → 1 ≤ par c 0 1 → par c 0 1 ≤ 3 → ZeroPar c 1 7 → ts = towersOfMask (par c 0 1) →
      ((∀ t ∈ ts, (s.twin.get t).state ≠ .off) →
        (∀ t ∈ ts, ∀ j, jobOfTower s t = some j → (s.twin.get t).state = .lost ∨ (j.state ≠ .armed ∧ j.state ≠ .running)) →
        exec (.twinUnbind mb) s = .next (complete c stDone [] (ts.foldl (fun st t =>
          (closeMirror t (match (st.twin.get t).bindMb with
            | some b => bindFail b stTwinLost st
            | none => restoreEnd t stTwinLost st)).onTwin (fun p => p.mod t unbindTower)) s)))
      ∧ ((∃ t ∈ ts, (s.twin.get t).state = .off) → exec (.twinUnbind mb) s = .next (complete c stBadField [] s))
      ∧ ((∀ t ∈ ts, (s.twin.get t).state ≠ .off) →
        (∃ t ∈ ts, ∃ j, jobOfTower s t = some j ∧ (s.twin.get t).state ≠ .lost ∧ (j.state = .armed ∨ j.state = .running)) →
        exec (.twinUnbind mb) s = .next (complete c stWrongState [] s)))
  ∧ (∀ s mb t ts, bothTowers.filter (fun t => decide ((s.twin.get t).bindMb = some mb)) = t :: ts →
      exec (.twinBindTimeout mb) s = .next (bindFail mb stTwinLost ((t :: ts).foldl
        (fun st u => postNotice evTwinLost (st.twin.get u).job (twinDetail st u 4) st) (s.timeTo ((s.twin.get t).bindStartNs + 10000000000)))))
  ∧ (∀ s mb c m ts, Waiting s mb 0x0500 c → Plain c 48 → par c 0 1 = m → m ≤ 3 → ts = towersOfMask m → par c 1 1 ≤ 1 → par c 2 2 < 0x2000 →
      ZeroPar c 0x20 16 → 1 ≤ par c 0xC 4 → par c 0xC 4 ≤ 4194304 → (m = 3 → par c 4 2 ≠ par c 8 2) →
      (∀ t ∈ ts, (s.twin.get t).bindMb = none ∧ (s.twin.get t).restore = none) → s.fab.devId.isSome = true → s.hbm.globalHoming = false →
      (∀ t ∈ ts, ∃ j, jobOfTower s t = some j ∧ ((s.twin.get t).state = .lost
        ∨ ((s.twin.get t).state = .off ∧ j.state ≠ .armed ∧ j.state ≠ .running))) →
      bindTowersBad c s m = false → bindFieldBad c s .t0 = false → bindFieldBad c s .t1 = false →
      exec (.twinBind mb) s = .next (ts.foldl (fun st t => openMirror t (st.onTwin (fun p => p.mod t (fun w => { w.quiet with
        wasLost := decide (w.state = .lost), state := .pending, twinDev := par c 2 2, job := ((jobOfTower s t).map (·.id)).getD 0
        ctx := (bindPar c t).1, peerCtx := (bindPar c t).2.1, deltaMax := par c 0xC 4, deltaAddr := (bindPar c t).2.2
        recover := (par c 1 1).testBit 0, bindMb := some c.mb, bindTowers := m, bindStartNs := s.nowNs, peerRecover := false
        peerCellar := 0 })))) (markStarted c s)))
  ∧ (∀ s mb ts, ts = bothTowers.filter (fun t => decide ((s.twin.get t).bindMb = some mb)) →
      ((∃ t ∈ ts, (s.twin.get t).helloSeen = true ∧ (s.twin.get t).helloAcked = true ∧ ((s.twin.get t).peerTowers ≠ (s.twin.get t).bindTowers
          ∨ (s.hbm.mirror.get t).bytes < (s.twin.get t).peerCellar ∨ (s.twin.get t).peerMirror < (s.hbm.cellar.get t).bytes)) →
        bindJudge mb s = bindFail mb stBadField s)
      ∧ ((∀ t ∈ ts, (s.twin.get t).helloSeen = true ∧ (s.twin.get t).helloAcked = true ∧ (s.twin.get t).peerTowers = (s.twin.get t).bindTowers
          ∧ (s.twin.get t).peerCellar ≤ (s.hbm.mirror.get t).bytes ∧ (s.hbm.cellar.get t).bytes ≤ (s.twin.get t).peerMirror) →
        ∀ c s1, Running s mb 0x0500 c →
          s1 = s.onTwin (fun p => ⟨if p.t0.bindMb = some mb then helloState p.t0 else p.t0, if p.t1.bindMb = some mb then helloState p.t1 else p.t1⟩) →
          bindJudge mb s = complete c stDone
            (bothTowers.flatMap (fun t => if ts.contains t then bindHalf (s1.twin.get t) else List.replicate 16 0#8)) s1))
  ∧ (∀ w, (w.recover = true → (helloState w).state = .recovering ∧ (helloState w).isProtected = false)
      ∧ (w.recover = false → (helloState w).state = .bound ∧ ((helloState w).isProtected = true ↔
          w.untrusted = false ∧ w.committed.isSome = true ∧ w.committed = w.peerMirrorTick)))
  ∧ (∀ s mb c m n ts size plan, Waiting s mb 0x0502 c → par c 2 2 = n → n ≤ 16 → Plain c (16 + 16 * n) → par c 0 1 = m → 1 ≤ m → m ≤ 3 →
      ts = towersOfMask m → par c 1 1 = 0 → ZeroPar c 4 12 → (∀ i, i < n → par c (0x10 + 16 * i) 8 % 8 = 0 ∧ par c (0x18 + 16 * i) 8 % 8 = 0) →
      size = (fun t => (s.twin.get t).peerCellar) →
      plan = (fun t => if n = 0 then [(0, size t)] else (List.range n).map (fun i => (par c (0x10 + 16 * i) 8, par c (0x18 + 16 * i) 8))) →
      (∀ t ∈ ts, (s.twin.get t).bindMb = none ∧ (s.twin.get t).restore = none ∧ (s.twin.get t).holding = true ∧ (s.twin.get t).peerRecover = true
        ∧ ((s.twin.get t).state = .bound ∨ (s.twin.get t).state = .recovering)) →
      (∀ t ∈ ts, ∀ r ∈ plan t, r.1 + r.2 ≤ size t) →
      exec (.twinRestore mb) s = .next (ts.foldl (fun st t => st.onTwin (fun p => p.mod t (fun w => { w with
        restore := some { mb := c.mb, seed := false, left := [], sentBytes := ((plan t).map (·.2)).foldl (· + ·) 0
                          tick := (ts.map (fun u => mirrorTickField (s.twin.get u))).headD 0, startNs := s.nowNs, whole := false }
        txQueue := w.txQueue ++ [{
          kind := .restore, buf := [], made := 0, crc := 0xFFFFFFFF, sent := 0
          recs := (plan t).map (fun q => TxRec.data 4 q.1 q.2 0) ++ [.commit {
            job := ((jobOfTower s t).map (·.id)).getD 0, tower := towerNum t, flags := 8, tick := mirrorTickField (s.twin.get t), entries := 0
            dataBytes := ((plan t).map (·.2)).foldl (· + ·) 0, streamBytes := 0, streamCrc := 0, boundaryNs := 0 }] }] }))) (markStarted c s)))
  ∧ (∀ s mb c m n ts size plan x0, Waiting s mb 0x0502 c → par c 2 2 = n → n ≤ 16 → Plain c (16 + 16 * n) → par c 0 1 = m → 1 ≤ m → m ≤ 3 →
      ts = towersOfMask m → par c 1 1 = 1 → ZeroPar c 4 12 → (∀ i, i < n → par c (0x10 + 16 * i) 8 % 8 = 0 ∧ par c (0x18 + 16 * i) 8 % 8 = 0) →
      size = (fun t => (s.hbm.cellar.get t).bytes) →
      plan = (fun t => if n = 0 then [(0, size t)] else (List.range n).map (fun i => (par c (0x10 + 16 * i) 8, par c (0x18 + 16 * i) 8))) →
      (∀ t ∈ ts, (s.twin.get t).bindMb = none ∧ (s.twin.get t).restore = none ∧ (s.twin.get t).state = .bound) →
      (∀ t ∈ ts, ∀ r ∈ plan t, r.1 + r.2 ≤ size t) → ts.head? = some x0 →
      exec (.twinRestore mb) s = .next (ts.foldl (fun st t => match (st.twin.get t).restore with
          | some r => if r.seed ∧ r.left = [] then restoreDone t st else st
          | none => st)
        (ts.foldl (fun st t => st.onTwin (fun p => p.mod t (fun w => { w with
          restore := some { mb := c.mb, seed := true, left := (plan t).filter (fun q => decide (q.2 ≠ 0)), sentBytes := 0
                            tick := (s.twin.get x0).committed.getD (2 ^ 64 - 1), startNs := s.nowNs, whole := coversAll (size t) (plan t) }
          seedDone := 0, seedTotal := ((plan t).map (·.2)).foldl (· + ·) 0, seedEnded := false, seedFull := false }))) (markStarted c s))))
  ∧ (∀ s port p, (s.fab.devId = some p.dst → (mirrorTower s p.dstCtx).isSome = true → p.op = 1 → exec (.mirrorDeltaRecord port p) s = exec (.write port p) s)
      ∧ (s.fab.devId ≠ some p.dst ∨ (mirrorTower s p.dstCtx).isSome = false → exec (.mirrorDeltaRecord port p) s = .next s))
  ∧ (∀ s port p n c k s0 s1 s2, Arrival port p k → Enters s port p s0 → ForContext s p n c → c.mirror = true → s1 = fetchCtx n c.tower s0 →
      underReset s1 c.tower = false → isCe s1.fab.cfg p = false → psnDiff c.rcvNxt p.psn = 0 → s2 = takeAck n p.ackPsn (traceFabric 6 n port c p s1) →
      (∀ s3, p.op = 1 → pktSized s2.fab.cfg p = true → rxPacket c.tower p s2 = (s3, true) → exec k s = .next (accepted n p s3))
      ∧ (∀ s3, p.op = 1 → pktSized s2.fab.cfg p = true → rxPacket c.tower p s2 = (s3, false) → exec k s = .next (refuse port n p 4 c.rcvNxt s3))
      ∧ (2 ≤ p.op → p.op ≤ 5 → exec k s = .next (refuse port n p 4 c.rcvNxt s2)))
  ∧ (∀ s t r, heldRec s t 2 = some r →
      (∀ c, commitOf (r.data.map (·.1)) = some c → c.streamBytes = (s.twin.get t).rxBytes →
        c.streamCrc = ((s.twin.get t).rxCrc ^^^ 0xFFFFFFFF#32).toNat →
        exec (.commitRecord t) s = .next (rxResume t r (s.onTwin (fun q => q.mod t (applyCommit c)))))
      ∧ (commitOf (r.data.map (·.1)) = none → exec (.commitRecord t) s = .next (rxRefuse t s))
      ∧ (∀ c, commitOf (r.data.map (·.1)) = some c →
        c.streamBytes ≠ (s.twin.get t).rxBytes ∨ c.streamCrc ≠ ((s.twin.get t).rxCrc ^^^ 0xFFFFFFFF#32).toNat →
        exec (.commitRecord t) s = .next (rxRefuse t s)))
  ∧ (∀ s t, (heldRec s t 2 = none → exec (.commitRecord t) s = .next s) ∧ (heldRec s t 5 = none → exec (.hello t) s = .next s))
  ∧ (∀ c w, (applyCommit c w).ringRx = ringAdd c w.ringRx ∧ (c.flags.testBit 4 = true → (applyCommit c w).holding = true ∧ (applyCommit c w).mirrorTick = some c.tick)
      ∧ (c.flags.testBit 3 = true → w.state = .recovering →
        (applyCommit c w).committed = some c.tick ∧ (applyCommit c w).state = .bound ∧ (applyCommit c w).isProtected = true))
  ∧ (∀ r c, r.length ≤ 16 → (ringAdd c r).length ≤ 16 ∧ (ringAdd c r).getLast? = some c)
  ∧ (∀ c, c.job < 2 ^ 16 → c.tower < 2 ^ 8 → c.flags < 2 ^ 8 → c.tick < 2 ^ 64 → c.entries < 2 ^ 32 → c.dataBytes < 2 ^ 64 → c.streamBytes < 2 ^ 64 →
      c.streamCrc < 2 ^ 32 → c.boundaryNs < 2 ^ 64 → (commitBytes c).length = 64 ∧ commitOf (commitBytes c) = some c)
  ∧ (∀ s t r s1 s2, heldRec s t 5 = some r →
      s1 = s.onTwin (fun q => q.mod t (fun w => { w with
        helloSeen := true, peerTowers := r.off / 8 % 4, peerRecover := (r.off / 8).testBit 2
        peerCellar := fieldAt (r.data.map (·.1)) 0 8, peerMirror := fieldAt (r.data.map (·.1)) 8 8
        peerCommitted := if fieldAt (r.data.map (·.1)) 16 8 = 2 ^ 64 - 1 then none else some (fieldAt (r.data.map (·.1)) 16 8)
        peerMirrorTick := if fieldAt (r.data.map (·.1)) 24 8 = 2 ^ 64 - 1 then none else some (fieldAt (r.data.map (·.1)) 24 8) })) →
      s2 = rxResume t r s1 →
      ((s2.twin.get t).bindMb = none → exec (.hello t) s = .next s2)
      ∧ (∀ mb, (s2.twin.get t).bindMb = some mb → exec (.hello t) s = .next (bindJudge mb s2)))

/-- The sequencer runs its program in order: a transfer is queued on its peer's context and is outstanding until it is acknowledged, at most 64 at a
time; WAIT goes on when its word reaches the threshold, FENCE when nothing is outstanding, LOOP until its iterations are done (R316 to R318). The pieces of copy
items are taken by free engines, in turn among the items, and the piece done moves its bytes: a line of WARM, the entries of an indexed operation, the rows of
any other (R265, R266, R273). -/
def Obligations.SequencerComplete : Prop :=
  (∀ s job item op k p x i m n c xf s1, (op, k) ∈ [(1, Instr.seqPut job item), (3, .seqPutRed job item), (4, .seqSignal job item)] →
      seqReady s job item op = some (p, x, i, m) → p.outstanding.length < 64 → jobCtx s job (peerIndex m x i) = some n → tabGet s.fab.ctxs n = some c →
      xf = (if op = 4 then Xfer.signal (seqRemote m x i) x.laddr
        else .put (decide (op = 3)) (seqLocal m x i) (seqRemote m x i) x.bytes (if op = 3 then x.red % 16 else 0) (if op = 3 then x.red / 16 else 0)
          (x.flags.testBit 2)) →
      s1 = onProg job item (fun q => { q with pc := q.pc + 1 }) s →
      exec k s =
        .next (onProg job item (fun q => { q with
            outstanding := q.outstanding ++ [(n, psnAdd (psnAfterQueue s c) (xferPackets (payloadSize s.fab.cfg) xf), none)] })
          (onCtx n (fun y => { y with queue := y.queue ++ [xf] }) s1)))
  ∧ (∀ s job item p x i m n c s1, seqReady s job item 2 = some (p, x, i, m) → p.outstanding.length < 64 →
      jobCtx s job (peerIndex m x i) = some n → tabGet s.fab.ctxs n = some c → s1 = onProg job item (fun q => { q with pc := q.pc + 1 }) s →
      exec (.seqGet job item) s =
        .next (onProg job item (fun q => { q with
            outstanding := q.outstanding ++ [(n, psnAdd (psnAfterQueue s c) 1, some (seqLocal m x i, x.bytes))] })
          (onCtx n (fun y => { y with
            queue := y.queue ++ [.get (seqLocal m x i) (seqRemote m x i) x.bytes], replies := y.replies ++ [(seqLocal m x i, x.bytes)] }) s1)))
  ∧ (∀ s job item op k, (op, k) ∈ [(1, Instr.seqPut job item), (2, .seqGet job item), (3, .seqPutRed job item), (4, .seqSignal job item)] →
      (seqReady s job item op = none → exec k s = .next s)
      ∧ (∀ p x i m, seqReady s job item op = some (p, x, i, m) →
        (64 ≤ p.outstanding.length → exec k s = .next s)
        ∧ (p.outstanding.length < 64 → (∀ n, jobCtx s job (peerIndex m x i) = some n → tabGet s.fab.ctxs n = none) →
          exec k s = .next (onProg job item (fun q => { q with pc := q.pc + 1 }) s))))
  ∧ (∀ s job item op k, (op, k) ∈ [(5, Instr.seqWait job item), (6, .seqFence job item), (7, .seqLoop job item)] →
      seqReady s job item op = none → exec k s = .next s)
  ∧ (∀ s job item x i m s1 bs pz, floorRead (Agent.of 3) job (seqLocal m x i) 8 s = (s1, bs, pz) →
      ((BitVec.ofNat 64 x.raddr).toInt + x.cmul * (i : Int) ≤ (BitVec.ofNat 64 (leNat bs)).toInt →
        waitTry job item x i m s = onProg job item (fun q => { q with pc := q.pc + 1, blocked := false }) s1)
      ∧ ((BitVec.ofNat 64 (leNat bs)).toInt < (BitVec.ofNat 64 x.raddr).toInt + x.cmul * (i : Int) →
        waitTry job item x i m s = onProg job item (fun q => { q with blocked := true }) s1))
  ∧ (∀ s job item p x i m, seqReady s job item 5 = some (p, x, i, m) → exec (.seqWait job item) s = .next (waitTry job item x i m s))
  ∧ (∀ s job item, (∀ x i m, (progOf s job item).bind (blockedWait s) = some (x, i, m) → exec (.seqWaitPoll job item) s = .next (waitTry job item x i m s))
      ∧ ((progOf s job item).bind (blockedWait s) = none → exec (.seqWaitPoll job item) s = .next s))
  ∧ (∀ s job item p r, seqReady s job item 6 = some (p, r) →
      (p.outstanding = [] → exec (.seqFence job item) s = .next (onProg job item (fun q => { q with pc := q.pc + 1 }) s))
      ∧ (p.outstanding ≠ [] → exec (.seqFence job item) s = .next s))
  ∧ (∀ s job item p x i m done rest, seqReady s job item 7 = some (p, x, i, m) →
      done = ((p.loops.find? (fun l => decide (l.at_ = p.pc))).map (·.done)).getD 0 → rest = p.loops.filter (fun l => decide (l.at_ ≠ p.pc)) →
      (done + 1 < x.bytes → exec (.seqLoop job item) s =
        .next (onProg job item (fun q => { q with pc := x.laddr % 65536, loops := ⟨p.pc, x.laddr % 65536, done + 1⟩ :: rest }) s))
      ∧ (x.bytes ≤ done + 1 → exec (.seqLoop job item) s = .next (onProg job item (fun q => { q with pc := q.pc + 1, loops := rest }) s)))
  ∧ (∀ s job item, (∀ r, (dealPieces s).eng.runs.find? (fun r => decide (r.job = job ∧ r.item = item ∧ r.nextPiece < r.taken)) = some r →
        exec (.copyPieceDone job item) s = .next (dealPieces (movePiece r (dealPieces s))))
      ∧ ((dealPieces s).eng.runs.find? (fun r => decide (r.job = job ∧ r.item = item ∧ r.nextPiece < r.taken)) = none →
        exec (.copyPieceDone job item) s = .next s))
  ∧ (∀ s r d p, d = copyDescOf r.desc → p = pieceNumber r d →
      (d.op = 5 → ∀ ls, ls = ((warmLines d).drop (p * 1024)).take 1024 →
        movePiece r s = pieceDone r (countPiece r (ls.length * 256) 0 (ls.foldl (fun z la => warmLine r la z) s)))
      ∧ (d.op ≠ 5 → hasIndex d.op = true → ∀ ks s1 ok,
        ks = (List.range (min (entriesPerPiece d) (d.idx.ext.getD 0 0 - p * entriesPerPiece d))).map (fun i => p * entriesPerPiece d + i) →
        indexEntries r d ks s = (s1, ok) →
        movePiece r s = (if ok then pieceDone r (countPiece r (ks.length * ((sliceRows d).length * rowBytes d.src)) ks.length s1) else s1))
      ∧ (d.op ≠ 5 → hasIndex d.op = false → ∀ ms, ms = cutMoves (sortMoves (copyMoves d)) 0 (p * pieceBytes) ((p + 1) * pieceBytes) →
        movePiece r s = pieceDone r (countPiece r (movesBytes ms) 0 (moveRows r d.noAlloc ms s))))
  ∧ (∀ s r d k s1 bs pz v, d = copyDescOf r.desc → engineRead (copySrc s r) r.job (indexAddr d k) (indexBytes d) s = (s1, bs, pz) → v = leNat bs →
      (pz ≠ [] → indexEntry r d k s = (copyFault r evPoisonConsumed 3 k (indexAddr d k) 0 s1, false))
      ∧ (pz = [] → v = 256 ^ indexBytes d - 1 → d.op = 2 → indexEntry r d k s = ((sliceRows d).foldl (fun z o =>
          copyStore r d.noAlloc (d.dst.base + o.2 + k * d.dst.stride.getD d.axis 0) (List.replicate (rowBytes d.src) 0#8) [] z) s1, true))
      ∧ (pz = [] → v = 256 ^ indexBytes d - 1 → d.op ≠ 2 → indexEntry r d k s = (s1, true))
      ∧ (pz = [] → v < 256 ^ indexBytes d / 2 → (if d.op = 2 then d.src.ext else d.dst.ext).getD d.axis 0 ≤ v →
        indexEntry r d k s = (copyFault r evFieldViolation 2 k (indexAddr d k) v s1, false)))
/-! ### Cores, matrix arrays, press -/

/-- Vector, conversion, special-function and move instructions write their result in every active lane and go on; a poisoned source of an arithmetic
instruction is a POISON_CONSUMED fault (R73, R82, R87, R108, R111, R120 to R123). -/
def Obligations.VectorInstructionsComplete : Prop :=
  (∀ s g op d x y z a s1 ss, intSources op x y z = ss → intToPred op = false → Issues s g (srcRegs ss ++ [d]) (srcUregs ss) [] a s1 → Clean a ss →
      exec (.vectorIntegerOp g op d x y z) s =
        .next (writeLanes a d ((lanesOf a.frag.mask).map (fun l =>
          (l, intResult op (srcVal a.gang l x) (srcVal a.gang l y) (srcVal a.gang l z), false))) s1))
  ∧ (∀ s g c sg d x y z a s1, Issues s g (srcRegs [x, y]) (srcUregs [x, y]) [d] a s1 → Clean a [x, y] →
      exec (.vectorIntegerOp g (.iset c sg) d x y z) s =
        .next (writePreds a d ((lanesOf a.frag.mask).map (fun l =>
          (l, cmpHolds c (ltInt sg (srcVal a.gang l x) (srcVal a.gang l y)) (decide (srcVal a.gang l x = srcVal a.gang l y))))) s1))
  ∧ (∀ s g op d x y z a s1 ss, intSources op x y z = ss → intToPred op = false → Issues s g (srcRegs ss ++ [d]) (srcUregs ss) [] a s1 → ¬Clean a ss →
      ∃ m, m ≠ 0#32 ∧ exec (.vectorIntegerOp g op d x y z) s = .next (coreFault a evPoisonConsumed m 0 s1))
  ∧ (∀ s g rem sg d x y a s1, Issues s g (d :: srcRegs [x, y]) (srcUregs [x, y]) [] a s1 → Clean a [x, y] →
      exec (.integerDivide g rem sg d x y) s =
        .next (writeLanes a d ((lanesOf a.frag.mask).map (fun l => (l, divResult rem sg (srcVal a.gang l x) (srcVal a.gang l y), false))) s1))
  ∧ (∀ x y : W32, divResult false true x 0#32 = 0xFFFFFFFF#32 ∧ divResult false false x 0#32 = 0xFFFFFFFF#32
      ∧ (∀ b, divResult true b x 0#32 = x) ∧ (y ≠ 0#32 → ∀ b, divResult false b x y * y + divResult true b x y = x))
  ∧ (∀ s g op d x y z a s1 ss, (∀ c, op ≠ .fset c) → fpSources op x y z = ss → Issues s g (d :: srcRegs ss) (srcUregs ss) [] a s1 → Clean a ss →
      exec (.fp32Op g op d x y z) s =
        .next (writeLanes a d ((lanesOf a.frag.mask).map (fun l =>
          (l, fpResult op (srcVal a.gang l x) (srcVal a.gang l y) (srcVal a.gang l z), false))) s1))
  ∧ (∀ s g c d x y z a s1, Issues s g (srcRegs [x, y]) (srcUregs [x, y]) [d] a s1 → Clean a [x, y] →
      exec (.fp32Op g (.fset c) d x y z) s =
        .next (writePreds a d ((lanesOf a.frag.mask).map (fun l => (l, fpCmp c (srcVal a.gang l x) (srcVal a.gang l y)))) s1))
  ∧ (∀ s g op bf d x y z a s1 ss, ss = (if op = .hfma2 then [x, y, z] else [x, y]) → Issues s g (d :: srcRegs ss) (srcUregs ss) [] a s1 → Clean a ss →
      exec (.packed16Op g op bf d x y z) s =
        .next (writeLanes a d ((lanesOf a.frag.mask).map (fun l =>
          (l, packedResult op bf (srcVal a.gang l x) (srcVal a.gang l y) (srcVal a.gang l z), false))) s1))
  ∧ (∀ s g op d x a s1, Issues s g (d :: srcRegs [x]) (srcUregs [x]) [] a s1 → Clean a [x] →
      exec (.specialFunction g op d x) s =
        .next (writeLanes a d ((lanesOf a.frag.mask).map (fun l => (l, Config.special (sfNum op) (srcVal a.gang l x), false))) s1))
  ∧ (∀ s g src dst rnd sat d x a s1, Issues s g (d :: srcRegs [x]) (srcUregs [x]) [] a s1 →
      (Clean a [x] → cvtOk src dst rnd = true → ∀ rs, rs = cvtResults s1 a src dst rnd sat x →
        exec (.cvt g src dst rnd sat d x) s =
          .next (writeLanes a d (rs.map (fun r => (r.1, r.2.1, false))) (onGang g (fun y => { y with
            cvtFlags := y.cvtFlags ||| maskOf ((rs.filter (fun r => r.2.2)).map (·.1))
            draws := if rnd = .sr then (lanesOf a.frag.mask).foldl (fun m l => tabPut m l (tabGetD m l 0 + laneElems src dst)) y.draws
              else y.draws }) s1)))
      ∧ (cvtOk src dst rnd = false → exec (.cvt g src dst rnd sat d x) s = .next (coreFault a evIllegalInstr a.frag.mask 1 s1)))
  ∧ (∀ s a e f rnd sat x, cvtResults s a (.scalar e) (.scalar f) rnd sat x = (lanesOf a.frag.mask).map (fun l =>
      let c := elemCode f (rndAt rnd (seedOf s a l) (tabGetD a.gang.draws l 0)) sat
        ((Config.nanBits 9 (srcVal a.gang l x) 0#32 0#32).toNat % 2 ^ elemBits f) (elemValue e (srcVal a.gang l x).toNat)
      (l, BitVec.ofNat 32 c.1, c.2)))
  ∧ (∀ s g d x a s1, Issues s g (d :: srcRegs [x]) (srcUregs [x]) [] a s1 →
      exec (.dataMove g d (.mov x)) s =
        .next (writeLanes a d ((lanesOf a.frag.mask).map (fun l => (l, srcVal a.gang l x, srcPoison a.gang l x))) s1)
      ∧ exec (.dataMove g d (.bcast x)) s =
        .next (writeLanes a d ((lanesOf a.frag.mask).map (fun l =>
          (l, srcVal a.gang ((lanesOf a.frag.mask).headD 0) x, srcPoison a.gang ((lanesOf a.frag.mask).headD 0) x))) s1))
  ∧ (∀ s g d p x y a s1, Issues s g (d :: srcRegs [x, y]) (srcUregs [x, y]) [p] a s1 →
      exec (.dataMove g d (.sel p x y)) s =
        .next (writeLanes a d ((lanesOf a.frag.mask).map (fun l =>
          if predVal a.gang l p then (l, srcVal a.gang l x, srcPoison a.gang l x) else (l, srcVal a.gang l y, srcPoison a.gang l y))) s1))
  ∧ (∀ s g d p a s1, Issues s g [d] [] [p] a s1 →
      exec (.vote g d p) s =
        .next (writeLanes a d ((lanesOf a.frag.mask).map (fun l =>
          (l, BitVec.ofNat 32 ((lanesOf a.frag.mask).countP (fun k => predVal a.gang k p)), false))) s1))
  ∧ (∀ s g d r x a s1, Issues s g (d :: r :: srcRegs [x]) (srcUregs [x]) [] a s1 → Clean a [x] →
      exec (.shfl g d r x) s =
        .next (writeLanes a d ((lanesOf a.frag.mask).map (fun l =>
          if (srcVal a.gang l x).toNat < 32 then
            (l, regVal a.gang (srcVal a.gang l x).toNat r, regPoison a.gang (srcVal a.gang l x).toNat r)
          else (l, BitVec.ofNat 32 (Config.openField (s1.freeCtr + l)), false))) s1.draw))
  ∧ (∀ s g d w a s1, Issues s g [d] [] [] a s1 →
      exec (.sreg g d w) s = .next (writeLanes a d ((lanesOf a.frag.mask).map (fun l => (l, sregVal s1 a l w, false))) s1))
  ∧ (∀ a d s (f : Nat → W32) y, tabGet (coreAt s a.g.core).gangs (gangKey a.g) = some y → d < 256 →
      ∃ y', tabGet (coreAt (writeLanes a d ((lanesOf a.frag.mask).map (fun l => (l, f l, false))) s) a.g.core).gangs (gangKey a.g) = some y'
        ∧ (∀ l, a.frag.mask.getLsbD l = true → regVal y' l d = f l)
        ∧ (∀ l r, l < 32 → r < 256 → r ≠ d ∨ a.frag.mask.getLsbD l = false → regVal y' l r = regVal y l r) ∧ y'.uregs = y.uregs ∧ y'.preds = y.preds)

/-- The misuses of a barrier, each an ILLEGAL_INSTR fault of the fragment with cause 3 of its table (R102): an arrival at an uninitialised
barrier, BAR.INIT of a barrier whose current phase has arrivals, an index at or beyond BARRIERS. -/
def Obligations.BarrierMisuse : Prop :=
  (∀ s g b a s1, Issues s g (srcRegs [b]) (srcUregs [b]) [] a s1 → tabGet a.crew.bars (barIndex a b) = none →
      exec (.barArrive g b) s = .next (coreFault a evIllegalInstr a.frag.mask 3 s1)
      ∧ exec (.barSync g b) s = .next (coreFault a evIllegalInstr a.frag.mask 3 s1))
  ∧ (∀ s g b n a s1 bar, IssuesUniform s g [b, n] a s1 → tabGet a.crew.bars (uniVal a b) = some bar → bar.arrived ≠ [] →
      exec (.barInit g b n) s = .next (coreFault a evIllegalInstr a.frag.mask 3 s1))
  ∧ (∀ s g b a s1, Issues s g (srcRegs [b]) (srcUregs [b]) [] a s1 → a.crew.kernel.barriers ≤ barIndex a b →
      exec (.barArrive g b) s = .next (coreFault a evIllegalInstr a.frag.mask 3 s1)
      ∧ exec (.barSync g b) s = .next (coreFault a evIllegalInstr a.frag.mask 3 s1)
      ∧ exec (.barWait g b) s = .next (coreFault a evIllegalInstr a.frag.mask 3 s1))
  ∧ (∀ s g b n a s1, IssuesUniform s g [b, n] a s1 → a.crew.kernel.barriers ≤ uniVal a b →
      exec (.barInit g b n) s = .next (coreFault a evIllegalInstr a.frag.mask 3 s1))

/-- Decoding of an SX4 block (R118): element i is its E2M1 value times 2^(X − 127 − d), where d is the two bits of SUB for its run of eight; with
X = 0xFF every element is NaN, whatever SUB holds. Decoding never fails: 32 values come out of any bytes. -/
def Obligations.Sx4Decodes : Prop :=
  ∀ bs : List Byte, (unitValues .sx4 bs).length = 32
    ∧ (fieldAt bs 0 1 = 0xFF → unitValues .sx4 bs = List.replicate 32 .nan)
    ∧ (∀ i code d, i < 32 → fieldAt bs 0 1 ≠ 0xFF → code = fieldAt bs (2 + i / 2) 1 / 16 ^ (i % 2) % 16 → d = fieldAt bs 1 1 / 4 ^ (i / 8) % 4 →
        ∃ m e, (unitValues .sx4 bs)[i]? = some (.fin (code.testBit 3) m e)
          ∧ (m : ℚ) * 2 ^ e = ([0, 1, 2, 3, 4, 6, 8, 12].getD (code % 8) 0 : ℚ) / 2 * 2 ^ ((fieldAt bs 0 1 : Int) - 127 - (d : Int)))

/-- Control and synchronization: branches split and reconverge a gang's lanes, calls return (R85 to R87), barriers, arrival counters, fences and locks
hold a fragment until they are satisfied (R94, R99 to R106), a poisoned lock word faults the lanes that take it (R108), a release of a lock not held is an
ILLEGAL_INSTR of cause 7 (R106), EXIT ends its lanes (R83). Where an exited lane's stores stand at the barriers, the model records them (log 59). -/
def Obligations.ControlInstructionsComplete : Prop :=
  (∀ s g p neg target rc a s1, Issues s g [] [] [p] a s1 →
      ((∀ l ∈ lanesOf a.frag.mask, predVal a.gang l p = neg) → exec (.bra g p neg target rc) s = .next (advance g s1))
      ∧ (lanesOf a.frag.mask ≠ [] → (∀ l ∈ lanesOf a.frag.mask, predVal a.gang l p ≠ neg) →
          exec (.bra g p neg target rc) s = .next (onGang g settleGang (onFrag g (fun f => { f with pc := target }) s1)))
      ∧ (∀ taken fall, taken = (lanesOf a.frag.mask).filter (fun l => predVal a.gang l p != neg) →
          fall = (lanesOf a.frag.mask).filter (fun l => predVal a.gang l p == neg) → taken ≠ [] → fall ≠ [] →
          exec (.bra g p neg target rc) s = .next (onGang g (fun y => settleGang { y with
            frags := tabPut (tabPut y.frags g.frag { a.frag.only fall with
                pc := a.frag.pc + 16, splits := ⟨y.nextSplit, rc⟩ :: a.frag.splits })
              (freeEntry y) { a.frag.only taken with pc := target, splits := ⟨y.nextSplit, rc⟩ :: a.frag.splits }
            nextSplit := y.nextSplit + 1 }) s1)))
  ∧ (∀ s g a s1, Issues s g [] [] [] a s1 → a.frag.splits = [] → exec (.reconv g) s = .next (advance g s1))
  ∧ (∀ s g a s1 sp, Issues s g [] [] [] a s1 → a.frag.splits.find? (fun sp => decide (sp.reconv = a.frag.pc)) = some sp →
      exec (.reconv g) s = .next (onGang g settleGang (waitFor g (.reconv sp.id) s1)))
  ∧ (∀ s g a s1 target, Issues s g [] [] [] a s1 →
      exec (.call g target) s =
        .next (onGang g settleGang (onFrag g (fun f => { f with
          calls := (lanesOf f.mask).foldl (fun m l => tabPut m l ((a.frag.pc + 16) :: tabGetD m l [])) f.calls, pc := target }) s1))
      ∧ exec (.yield g) s = .next (advance g (onGang g (fun y => { y with order := (coreAt s1 g.core).nextOrder + 1 })
          (onCore g.core (fun c => { c with
            nextOrder := (coreAt s1 g.core).nextOrder + 1
            lastIssue := tabPut c.lastIssue a.gang.quarter ((coreAt s1 g.core).nextOrder + 1, gangKey g, g.frag) }) s1)))
      ∧ exec (.invalRo g) s = .next (advance g (onCore g.core (fun y => { y with l1r := [] }) s1)))
  ∧ (∀ s g a s1 back, Issues s g [] [] [] a s1 →
      back = (fun (e : Option Nat × List Nat) => { a.frag.only e.2 with
        calls := popCalls (a.frag.only e.2).calls, pc := e.1.getD (Config.openField s1.freeCtr), wait := .ready }) →
      (∀ e rest st1, returnGroups a.frag = e :: rest →
        st1 = onGang g (fun y => settleGang (rest.foldl (fun z r => { z with frags := tabPut z.frags (freeEntry z) (back r) })
          { y with frags := tabPut y.frags g.frag (back e) })) s1 →
        exec (.ret g) s = .next (if (e :: rest).any (fun r => decide (r.1 = none)) then st1.draw else st1))
      ∧ (lanesOf a.frag.mask ≠ [] → ∀ r, (∀ l ∈ lanesOf a.frag.mask, (tabGetD a.frag.calls l []).head? = some r) →
        returnGroups a.frag = [(some r, lanesOf a.frag.mask)]))
  ∧ (∀ s g a s1 ids, Issues s g [] [] [] a s1 → ids = a.gang.stores.filter (isWaiting s1) →
      exec (.exit g) s = .next (dispatchCrews 4096 (onCore g.core (fun c => barSettleAll g.slot (endGang g c)) (onGang g (fun y => settleGang { y with
          frags := tabDel y.frags g.frag, exited := y.exited ||| a.frag.mask }) (onCrew g.core g.slot (fun w => { w with
            bars := w.bars.map (fun e => (e.1, { e.2 with stores := e.2.stores ++ ids.map (fun i => (e.2.phase, i)) })) }) s1)))))
  ∧ (∀ s g a s1 n k, (n, k) ∈ [(0, Instr.fenceCrew g), (1, .fenceTower g), (2, .fenceDevice g), (3, .fenceSys g)] → Issues s g [] [] [] a s1 →
      mxstPending s1 g = false →
      exec k s = .next (advance g (onGang g (fun y => { y with
        fenceWait := if storesWait s1 n (towerOfCore g.core) a.gang.stores then some (n, a.gang.stores) else none }) s1)))
  ∧ (∀ s core y n ids, y.fenceWait = some (n, ids) → n ≠ 4 →
      (gangFree s core y = false ↔ storesWait s n (towerOfCore core) ids = true))
  ∧ (∀ s g b n a s1 k m old, IssuesUniform s g [b, n] a s1 → k = uniVal a b → m = uniVal a n → k < a.crew.kernel.barriers → 1 ≤ m →
      m ≤ 32 * a.crew.gangs → old = tabGet a.crew.bars k → (∀ x, old = some x → x.arrived = []) →
      exec (.barInit g b n) s =
        .next (advance g (setBar g k { expect := m, phase := (old.map (fun y => y.phase + 1)).getD 0, arrived := []
                                       lastPhase := (old.map (·.lastPhase)).getD [], stores := (old.map (·.stores)).getD [] } s1)))
  ∧ (∀ s g b a s1 bar k ls again first bar1, Issues s g (srcRegs [b]) (srcUregs [b]) [] a s1 → k = barIndex a b → tabGet a.crew.bars k = some bar →
      k < a.crew.kernel.barriers → ls = lanesOf a.frag.mask → first = ls.filter (fun l => !bar.arrived.contains (g.gang * 32 + l)) →
      again = ls.filter (fun l => bar.arrived.contains (g.gang * 32 + l)) →
      bar1 = { bar with
        arrived := bar.arrived ++ first.map (fun l => g.gang * 32 + l)
        lastPhase := first.foldl (fun m l => tabPut m (g.gang * 32 + l) bar.phase) bar.lastPhase
        stores := bar.stores.filter (fun e => isWaiting s1 e.2)
          ++ (a.gang.stores.filter (isWaiting s1)).map (fun i => (if first = [] then bar.phase + 1 else bar.phase, i)) } →
      (again = [] → exec (.barArrive g b) s = .next (advance g (setBar g k bar1 s1))
        ∧ exec (.barSync g b) s = .next (setBar g k bar1 (waitFor g (.barrier k (ls.map (fun l => (l, bar.phase)))) s1)))
      ∧ (again ≠ [] → exec (.barArrive g b) s = .next (setBar g k bar1 (waitFor g (.rearrive k again false) s1))
        ∧ exec (.barSync g b) s = .next (setBar g k bar1 (waitFor g (.rearrive k again true) s1))))
  ∧ (∀ s g b a s1 bar k ps, Issues s g (srcRegs [b]) (srcUregs [b]) [] a s1 → k = barIndex a b → tabGet a.crew.bars k = some bar →
      k < a.crew.kernel.barriers →
      ps = (lanesOf a.frag.mask).filterMap (fun l => (tabGet bar.lastPhase (g.gang * 32 + l)).map (fun p => (l, p))) →
      ((∀ p ∈ ps, p.2 < bar.phase) → (∀ e ∈ bar.stores, isWaiting s1 e.2 = false) → exec (.barWait g b) s = .next (advance g s1))
      ∧ (∀ ids, (∀ p ∈ ps, p.2 < bar.phase) → ids = (releasedBy bar ((ps.map (·.2 + 1)).foldl max 0)).filter (isWaiting s1) → ids ≠ [] →
        exec (.barWait g b) s = .next (advanceWait g (.fence 0 ids) s1))
      ∧ ((∃ p ∈ ps, bar.phase ≤ p.2) → exec (.barWait g b) s = .next (setBar g k bar (waitFor g (.barrier k ps) s1))))
  ∧ (∀ s g c v a s1, IssuesUniform s g [c, v] a s1 → uniVal a c < a.crew.kernel.counters →
      exec (.arvSet g c v) s = .next (advance g (setCounter g.core g.slot (uniVal a c) (BitVec.ofNat 32 (uniVal a v)) s1))
      ∧ exec (.arvAdd g c v) s =
          .next (advance g (setCounter g.core g.slot (uniVal a c) (ctrVal a.crew (uniVal a c) + BitVec.ofNat 32 (uniVal a v)) s1))
      ∧ (ctrReached (ctrVal a.crew (uniVal a c)) (BitVec.ofNat 32 (uniVal a v)) = true → exec (.arvWait g c v) s = .next (advance g s1))
      ∧ (ctrReached (ctrVal a.crew (uniVal a c)) (BitVec.ofNat 32 (uniVal a v)) = false →
          exec (.arvWait g c v) s = .next (waitFor g (.counter (uniVal a c) (BitVec.ofNat 32 (uniVal a v))) s1)))
  ∧ (∀ s g sp p addr a s1 las st r, Issues s g (srcRegs (lockSrcs sp addr)) (srcUregs (lockSrcs sp addr)) [p] a s1 → Clean a (lockSrcs sp addr) →
      las = (lanesOf a.frag.mask).map (fun l => (l, lockAddr a sp addr l)) →
      (sp = .crewLocal ∧ LocalOk a 8 (lockAddr a sp addr)) ∨ (sp = .global ∧ GlobalOk s1 a 2 8 (lockAddr a sp addr) ∧ lockHeldUp s1 sp las = false) →
      lockAttempt g a.crew.job sp las s1 = (st, r) →
      (r.poisoned = [] → exec (.lockAcq g sp p addr) s = .next (lockSplit g a.frag sp p las r.won st)
        ∧ exec (.lockTry g sp p addr) s = .next (writePreds a p ((lanesOf a.frag.mask).map (fun l => (l, r.won.contains l))) st))
      ∧ (r.poisoned ≠ [] → exec (.lockAcq g sp p addr) s = .next (coreFault a evPoisonConsumed (maskOf r.poisoned) 0 st)
        ∧ exec (.lockTry g sp p addr) s = .next (coreFault a evPoisonConsumed (maskOf r.poisoned) 0 st)))
  ∧ (∀ s g job l x, ∀ c, tabGet (coreAt s g.core).crews g.slot = some c → lmemPoison c x 8 = false →
      (lockAttempt g job .crewLocal [(l, x)] s).2 = (if leNat (lmemRead c x 8) = 0 then ⟨[l], [], []⟩ else ⟨[], [l], []⟩))
  ∧ (∀ s g a sp p las since st r, actAt s g = some a → a.frag.wait = .lock sp p las since → lockHeldUp s sp las = false →
      gangFree s g.core a.gang = true →
      lockAttempt g a.crew.job sp las (onCore g.core (fun c => { c with cycles := max c.cycles (since + 256) }) s) = (st, r) →
      (r.poisoned = [] → exec (.lockRetryTimeout g) s = .next (lockSplit g a.frag sp p las r.won st))
      ∧ (r.poisoned ≠ [] → exec (.lockRetryTimeout g) s = .next (coreFault a evPoisonConsumed (maskOf r.poisoned) 0 st)))
  ∧ (∀ s g sp addr a s1 las st r, Issues s g (srcRegs (lockSrcs sp addr)) (srcUregs (lockSrcs sp addr)) [] a s1 → Clean a (lockSrcs sp addr) →
      las = (lanesOf a.frag.mask).map (fun l => (l, lockAddr a sp addr l)) →
      (sp = .crewLocal ∧ LocalOk a 8 (lockAddr a sp addr)) ∨ (sp = .global ∧ GlobalOk s1 a 2 8 (lockAddr a sp addr) ∧ lockHeldUp s1 sp las = false) →
      storesWait s1 (if sp = .global then 2 else 0) (towerOfCore g.core) a.gang.stores = false →
      lockLanes g a.crew.job sp (lockTag g) (fun _ => 0) las s1 = (st, r) → r.poisoned = [] →
      (r.lost = [] → exec (.lockRel g sp addr) s = .next (advance g (onGang g wakeLocks st)))
      ∧ (r.lost ≠ [] → exec (.lockRel g sp addr) s = .next (coreFault a evIllegalInstr (maskOf r.lost) 7 (onGang g wakeLocks st))))

/-- Memory instructions: local loads, stores and atomics act at once, global ones become requests of the loft and return later (R88 to R93, R202);
async copies are put in flight and land in order on their counters (R97 to R99). -/
def Obligations.CoreMemoryComplete : Prop :=
  (∀ s g w d x a s1, mxstPending s g = false → Issues s g (regRun d (widthRegs w) ++ srcRegs [x]) (srcUregs [x]) [] a s1 → Clean a [x] →
      LocalOk a w (fun l => (srcVal a.gang l x).toNat) →
      exec (.ldl g w d x) s = .next (advance g (onGang g (fun y => (lanesOf a.frag.mask).foldl (fun z l =>
        loadRegs l d w (lmemRead a.crew (srcVal a.gang l x).toNat w) (lmemPoison a.crew (srcVal a.gang l x).toNat w) z) y) s1)))
  ∧ (∀ s g w r x a s1, mxstPending s g = false → Issues s g (regRun r (widthRegs w) ++ srcRegs [x]) (srcUregs [x]) [] a s1 → Clean a [x] →
      LocalOk a w (fun l => (srcVal a.gang l x).toNat) →
      exec (.stl g w r x) s = .next (advance g (onCrew g.core g.slot (fun c => (openOrder s1.freeCtr (lanesOf a.frag.mask)).foldl (fun z l =>
        lmemWrite (srcVal a.gang l x).toNat (storeBytes a.gang l r w).1 (storeBytes a.gang l r w).2 z) c) s1.draw)))
  ∧ (∀ c off bs, lmemRead (lmemWrite off bs false c) off bs.length = bs
      ∧ ∀ i, i < off ∨ off + bs.length ≤ i → lmemByte (lmemWrite off bs false c) i = lmemByte c i)
  ∧ (∀ s g op ty dst x v k a s1 n run st1, mxstPending s g = false → n = redBytes op ty → atomlOk op ty = true →
      Issues s g (atomRegs op ty dst v k ++ srcRegs [x]) (srcUregs [x]) [] a s1 →
      Clean a (((atomRegs op ty none v k).map Src.reg) ++ [x]) → LocalOk a n (fun l => (srcVal a.gang l x).toNat) →
      (∀ l ∈ lanesOf a.frag.mask, lmemPoison a.crew (srcVal a.gang l x).toNat n = false) →
      run = (openOrder s1.freeCtr (lanesOf a.frag.mask)).foldl (fun (acc : Crew × List (Nat × List Byte)) l =>
        let old := lmemRead acc.1 (srcVal a.gang l x).toNat n
        (lmemWrite (srcVal a.gang l x).toNat (leBytes (redWord op ty (leNat old) (wideVal a.gang l v n).toNat (wideVal a.gang l k n).toNat) n) false acc.1,
          acc.2 ++ [(l, old)])) (a.crew, []) →
      st1 = onCrew g.core g.slot (fun _ => run.1) s1.draw →
      (∀ d, dst = some d → exec (.atoml g op ty dst x v k) s =
        .next (advance g (onGang g (fun y => run.2.foldl (fun z o => loadRegs o.1 d n o.2 false z) y) st1)))
      ∧ (dst = none → exec (.atoml g op ty dst x v k) s = .next (advance g st1)))
  ∧ (∀ s g w d x a s1, Issues s g (regRun d (widthRegs w) ++ srcRegs [x.lo, x.hi]) (srcUregs [x.lo, x.hi]) [] a s1 → Clean a [x.lo, x.hi] →
      widthOk w = true → GlobalOk s1 a 0 w (fun l => gaddrVal a.gang l x) →
      exec (.ld g w d x) s =
        .next (advance g ((lineGroups ((lanesOf a.frag.mask).map (fun l => (l, gaddrVal a.gang l x)))).foldl (fun z p =>
          onGang g (addPend d (widthRegs w) z.cores.nextTag)
            (loftSend a p.1 (.load { g := g, width := w, dst := d, lanes := p.2, viaL1r := false }) z).1) s1)))
  ∧ (∀ s g w d x a s1 (step : State → Nat × List (Nat × Nat) → State) (tag : List (Nat × Nat) → LoadTag),
      Issues s g (regRun d (widthRegs w) ++ srcRegs [x.lo, x.hi]) (srcUregs [x.lo, x.hi]) [] a s1 → Clean a [x.lo, x.hi] →
      widthOk w = true → GlobalOk s1 a 0 w (fun l => gaddrVal a.gang l x) →
      tag = (fun ls => { g := g, width := w, dst := d, lanes := ls, viaL1r := false }) →
      (∀ z p line, tabGet (coreAt z g.core).l1r (p.1 / 128) = some line →
        step z p = onGang g (fun y => (l1rData line (tag p.2)).foldl (fun u v => loadRegs v.1 d w v.2.1 v.2.2 u) y) z) →
      (∀ z p ws, tabGet (coreAt z g.core).l1r (p.1 / 128) = none → tabGet (coreAt z g.core).l1rMiss (p.1 / 128) = some ws →
        step z p = onGang g (addPend d (widthRegs w) z.cores.nextTag) (onCore g.core (fun y => { y with
          l1rMiss := tabPut y.l1rMiss (p.1 / 128) (ws ++ [(z.cores.nextTag, tag p.2)]) }) (z.onCores (fun y => { y with nextTag := z.cores.nextTag + 1 })))) →
      (∀ z p, tabGet (coreAt z g.core).l1r (p.1 / 128) = none → tabGet (coreAt z g.core).l1rMiss (p.1 / 128) = none →
        step z p = onGang g (addPend d (widthRegs w) z.cores.nextTag) (onCore g.core (fun y => { y with
          l1rMiss := tabPut y.l1rMiss (p.1 / 128) [(z.cores.nextTag, tag p.2)] })
          (loftSend a p.1 (.load { tag p.2 with lanes := [(0, p.1)], viaL1r := true }) z).1)) →
      exec (.ldRo g w d x) s =
        .next (advance g ((lineGroups ((lanesOf a.frag.mask).map (fun l => (l, gaddrVal a.gang l x)))).foldl step s1)))
  ∧ (∀ s id r s1, s.cores.responses.find? (fun r => decide (r.id = id)) = some r →
      s1 = s.onCores (fun x => { x with responses := x.responses.filter (fun y => y.id ≠ id) }) →
      (r.tag.viaL1r = false → exec (.globalLoadReturn id) s = .next (finishLoad id r.tag r.old s1))
      ∧ (r.tag.viaL1r = true → ∀ la line, la = ((r.tag.lanes.head?).map (·.2)).getD 0 / 128 →
        line = (r.old.flatMap (·.2.1), (r.old.filter (fun e => e.2.2)).map (·.1)) →
        exec (.globalLoadReturn id) s = .next ((tabGetD (coreAt s1 r.tag.g.core).l1rMiss la []).foldl (fun z w => finishLoad w.1 w.2 (l1rData line w.2) z)
          (onCore r.tag.g.core (fun y => { y with l1rMiss := tabDel y.l1rMiss la }) (l1rInstall r.tag.g.core la line s1)))))
  ∧ (∀ s id, s.cores.responses.find? (fun r => decide (r.id = id)) = none → exec (.globalLoadReturn id) s = .next s)
  ∧ (∀ s g w r x a s1 groups sent, Issues s g (regRun r (widthRegs w) ++ srcRegs [x.lo, x.hi]) (srcUregs [x.lo, x.hi]) [] a s1 →
      Clean a [x.lo, x.hi] → widthOk w = true → GlobalOk s1 a 1 w (fun l => gaddrVal a.gang l x) →
      groups = lineGroups ((openOrder s1.freeCtr (lanesOf a.frag.mask)).map (fun l => (l, gaddrVal a.gang l x))) →
      sent = sendStores a w r groups s1.draw →
      exec (.st g w r x) s = .next (advance g (noteStores g sent.2 (l1rForget g.core (groups.map (fun p => p.1 / 128)) sent.1))))
  ∧ (∀ a w r l x s t, widthOk w = true → x % w = 0 → (storeBytes a.gang l r w).2 = false → t = homeTower s (x / 128 * 128) →
      ((sendStores a w r [(x / 128 * 128, [(l, x)])] s).1.loft.tw.get t).arrivals = (s.loft.tw.get t).arrivals ++
        [⟨s.cores.nextTag, x / 128 * 128, a.crew.job, some (a.g.core, a.crew.item),
          .store ((storeBytes a.gang l r w).1.mapIdx (fun i b => (x + i, b))) [], false, Agent.core⟩])
  ∧ (∀ s g op ty o sc d x v k a s1 n groups sent st1, n = redBytes op ty →
      Issues s g (atomRegs op ty (some d) v k ++ srcRegs [x.lo, x.hi]) (srcUregs [x.lo, x.hi]) [] a s1 → Clean a [x.lo, x.hi] →
      GlobalOk s1 a 2 n (fun l => gaddrVal a.gang l x) →
      (isRelease o = true → storesWait s1 (scopeNum sc) (towerOfCore g.core) a.gang.stores = false) →
      groups = lineGroups ((openOrder s1.freeCtr (lanesOf a.frag.mask)).map (fun l => (l, gaddrVal a.gang l x))) →
      sent = sendOps a op ty (some d) v k groups s1.draw →
      st1 = noteStores g sent.2 (l1rForget g.core (groups.map (fun p => p.1 / 128)) sent.1) →
      exec (.atom g op ty o sc d x v k) s = .next (if isAcquire o then advanceWait g (.fence 4 sent.2) st1 else advance g st1))
  ∧ (∀ s g op ty o sc x v a s1 n groups sent st1, n = redBytes op ty → op ≠ .cas →
      Issues s g (atomRegs op ty none v v ++ srcRegs [x.lo, x.hi]) (srcUregs [x.lo, x.hi]) [] a s1 → Clean a [x.lo, x.hi] →
      GlobalOk s1 a 2 n (fun l => gaddrVal a.gang l x) →
      (isRelease o = true → storesWait s1 (scopeNum sc) (towerOfCore g.core) a.gang.stores = false) →
      groups = lineGroups ((openOrder s1.freeCtr (lanesOf a.frag.mask)).map (fun l => (l, gaddrVal a.gang l x))) →
      sent = sendOps a op ty none v v groups s1.draw →
      st1 = noteStores g sent.2 (l1rForget g.core (groups.map (fun p => p.1 / 128)) sent.1) →
      exec (.red g op ty o sc x v) s = .next (if isAcquire o then advanceWait g (.fence 2 sent.2) st1 else advance g st1))
  ∧ (∀ s g src dst n c a s1 x d m st1 data pz, IssuesUniform s g [src.lo, src.hi, dst, n, c] a s1 → mxstPending s1 g = false →
      copyFull s1 g.core = false → x = gaddrVal a.gang 0 src → d = uniVal a dst → m = uniVal a n → coreStoresTo s1 g.core x m = false →
      copyCountBad m = false → x % 32 = 0 → d % 32 = 0 → extentCause s1 a 0 x m = none → d + m ≤ a.crew.kernel.localKib * 1024 →
      uniVal a c < a.crew.kernel.counters → engineRead Agent.core a.crew.job x m s1 = (st1, data, pz) →
      exec (.acpG2l g src dst n c) s =
        .next (advance g (addCopy a (uniVal a c) (some (d, data, localWords d m (fun i => pz.contains (x / 32 + i)))) none st1)))
  ∧ (∀ s g src dst n c a s1 x d m, IssuesUniform s g [src, dst.lo, dst.hi, n, c] a s1 → mxstPending s1 g = false →
      copyFull s1 g.core = false → x = uniVal a src → d = gaddrVal a.gang 0 dst → m = uniVal a n →
      copyCountBad m = false → x % 32 = 0 → d % 32 = 0 → extentCause s1 a 1 d m = none → x + m ≤ a.crew.kernel.localKib * 1024 →
      uniVal a c < a.crew.kernel.counters →
      exec (.acpL2g g src dst n c) s =
        .next (advance g (addCopy a (uniVal a c) none (some (d, lmemRead a.crew x m, localSectors a.crew x m d)) s1)))
  ∧ (∀ s g src dst n c a s1 x d m, IssuesUniform s g [src, dst, n, c] a s1 → mxstPending s1 g = false →
      copyFull s1 g.core = false → x = uniVal a src → d = uniVal a dst → m = uniVal a n → copyCountBad m = false → x % 32 = 0 → d % 32 = 0 →
      x + m ≤ a.crew.kernel.localKib * 1024 → d + m ≤ a.crew.kernel.localKib * 1024 → uniVal a c < a.crew.kernel.counters →
      exec (.acpL2l g src dst n c) s =
        .next (advance g (addCopy a (uniVal a c) (some (d, lmemRead a.crew x m,
          localWords d m (fun i => lmemPoison a.crew (x + 32 * i) 32))) none s1)))
  ∧ (∀ s g desc o e dst c a s1 bs t rows reads lo hi run, IssuesUniform s g ([desc, dst, c] ++ o ++ e) a s1 → mxstPending s1 g = false →
      copyFull s1 g.core = false → bs = lmemRead a.crew (uniVal a desc) 64 → t = { tensorOf bs with shard := List.replicate 6 0 } →
      rows = boxRows t (o.map (uniVal a)) (e.map (uniVal a)) → reads = rows.filterMap (fun r => r.1.map (fun x => (x, r.2.1))) →
      lo = (reads.map (·.1)).foldl min ((reads.head?.map (·.1)).getD 0) → hi = (reads.map (fun r => r.1 + r.2)).foldl max 0 →
      coreStoresTo s1 g.core lo (hi - lo) = false → (reads ≠ [] → extentCause s1 a 0 lo (hi - lo) = none) →
      uniVal a desc + 64 ≤ a.crew.kernel.localKib * 1024 → lmemPoison a.crew (uniVal a desc) 64 = false → tensorOk (sliceBytes bs 0 0x39 ++ List.replicate 7 0) = true → t.rank ≤ o.length →
      t.rank ≤ e.length → tensorAligned t = true → uniVal a desc % 32 = 0 → uniVal a dst % 32 = 0 → (o.map (uniVal a)).getD 0 0 % (unitOf t.dtype).1 = 0 →
      (e.map (uniVal a)).getD 0 0 % (unitOf t.dtype).1 = 0 → uniVal a dst + boxBytes t (e.map (uniVal a)) ≤ a.crew.kernel.localKib * 1024 →
      uniVal a c < a.crew.kernel.counters → boxRun a.crew.job (uniVal a dst) rows s1 = run →
      exec (.acpBox g desc o e dst c) s = .next (advance g (addCopy a (uniVal a c) (some (uniVal a dst, run.2.1, run.2.2)) none run.1)))
  ∧ (∀ s core id c s1 s2, (coreAt s core).copies.find? (fun c => decide (c.id = id) && !c.landed) = some c →
      s1 = (match c.toLocal with
        | some (d, bs, pz) => if (tabGet (coreAt s core).crews c.slot).map (·.uid) = some c.uid then onCrew core c.slot (fun y =>
            { lmemWrite d bs false y with lpoison := pz.foldl (fun m w => tabPut m w ()) (lmemWrite d bs false y).lpoison }) s else s
        | none => s) →
      s2 = (match c.toGlobal with
        | some (d, bs, pz) => engineWrite Agent.core c.job false d bs pz s1
        | none => s1) →
      exec (.asyncCopyComplete core id) s =
        .next (retireCopies core c.slot c.uid c.ctr 256 (onCore core (fun y => { y with
          copies := y.copies.map (fun z => if z.id = id then { z with landed := true } else z) }) s2)))
  ∧ (∀ s core id, (coreAt s core).copies.find? (fun c => decide (c.id = id) && !c.landed) = none → exec (.asyncCopyComplete core id) s = .next s)

/-- The matrix array: MMA enters its quarter's queue with its C registers pending, and when the array takes it every output is the sum of its row of A by
its column of B on top of C (R125 to R132, R136 to R138); a chain's drain writes C; MXLD and MXST move units between registers and local memory (R124, R134);
MXWAIT passes when nothing is left. SWP.POST puts an operation into the tower's sweep queue, or reports a malformed header (R107). -/
def Obligations.MatrixInstructionsComplete : Prop :=
  (∀ s g sh fa fb z c ua ub us a s1 k grp int m n x y sx sy cont, IssuesMatrix s g [ua, ub, us] a s1 → mmaPair fa fb = some (k, grp, int) →
      shapeMN sh = (m, n) → noMma a = false → fragRegsBad a c (shapeRegs sh) = false →
      cont = (!z && continues (coreAt s1 g.core) a.gang.quarter g.slot g.gang sh int c) →
      cont = true ∨ pendBusy a.gang (regRun c (shapeRegs sh)) = false →
      x = (uregVal a.gang ua).toNat * 32 → y = (uregVal a.gang ub).toNat * 32 → sx = bitsOf (uregVal a.gang us).toNat 15 0 * 32 →
      sy = bitsOf (uregVal a.gang us).toNat 31 16 * 32 → mxRowBytes fa k ≤ sx → mxRowBytes fb k ≤ sy →
      x + (m - 1) * sx + mxRowBytes fa k ≤ a.crew.kernel.localKib * 1024 → y + (n - 1) * sy + mxRowBytes fb k ≤ a.crew.kernel.localKib * 1024 →
      (z = true ∨ cont = true ∨ ∀ l, l < 32 → ∀ r ∈ regRun c (shapeRegs sh), regPoison a.gang l r = false) →
      exec (.mma g sh fa fb z c ua ub us) s =
        .next (mxEnter a (.mma sh fa fb z c x y sx sy) s1.cores.nextTag (onGang g (addPend c (shapeRegs sh) s1.cores.nextTag)
          (s1.onCores (fun q => { q with nextTag := q.nextTag + 1 })))))
  ∧ (∀ w sh fa fb k grp int x y sx sy acc i j m n key, mmaPair fa fb = some (k, grp, int) → shapeMN sh = (m, n) → i < m → j < n →
      key = j % 32 * 256 + i * (n / 32) + j / 32 →
      tabGetD (mmaTile w sh fa fb x y sx sy acc) key 0#32 =
        if int then dotInt (tabGetD acc key 0#32) (mxRow fa k (lmemRead w (x + i * sx) (mxRowBytes fa k))) (mxRow fb k (lmemRead w (y + j * sy) (mxRowBytes fb k)))
        else dotFloat grp (tabGetD acc key 0#32) (mxRow fa k (lmemRead w (x + i * sx) (mxRowBytes fa k)))
          (mxRow fb k (lmemRead w (y + j * sy) (mxRowBytes fb k))))
  ∧ (∀ s core q e rest w sh fa fb k grp int m n cr x y sx sy, e.op = .mma sh fa fb true cr x y sx sy → tabGet (coreAt s core).crews e.slot = some w →
      mmaPair fa fb = some (k, grp, int) → shapeMN sh = (m, n) →
      (mmaPoison w x m sx (mxRowBytes fa k) = false → mmaPoison w y n sy (mxRowBytes fb k) = false →
        ((mxChains (coreAt s core) q).length < 2 → mxServe core q e rest s = some (setMxQueue core q rest (setMxChains core q
          ((mxChains (coreAt s core) q).map (fun c => { c with joinable := false }) ++ [{
            slot := e.slot, gang := e.gang, sh := sh, intAcc := int, c := cr, acc := mmaTile w sh fa fb x y sx sy [], joinable := true, tags := [e.tag] }])
          (countMma core sh fa fb s))))
        ∧ (2 ≤ (mxChains (coreAt s core) q).length → mxServe core q e rest s = none))
      ∧ (mmaPoison w x m sx (mxRowBytes fa k) = true ∨ mmaPoison w y n sy (mxRowBytes fb k) = true →
        mxServe core q e rest s = some (mmaFault core e (setMxQueue core q rest s))))
  ∧ (∀ s core q s1 x rest st, s1 = mxAdvance core mxSteps s → mxChains (coreAt s1 core) q = x :: rest →
      (chainGoesOn (coreAt s1 core) q x rest = false →
        st = (if (coreAt s1 core).mxTaken = some q ∧ rest ≠ [] then countFreeze core s1 else s1) →
        exec (.mmaChainDrain core q) s =
          .next (mxAdvance core mxSteps (setMxChains core q rest (onGang ⟨core, x.slot, x.gang, 0⟩ (fun y =>
            x.tags.foldl (fun z t => dropPend t z)
              (x.acc.foldl (fun z (e : Nat × W32) => setReg (e.1 / 256) (x.c + e.1 % 256) e.2 false z) y)) st))))
      ∧ (chainGoesOn (coreAt s1 core) q x rest = true → exec (.mmaChainDrain core q) s = .next s1))
  ∧ (∀ acc a b, dotInt acc a b = acc + BitVec.ofInt 32 (((a.zip b).map (fun p => numInt p.1 * numInt p.2)).sum))
  ∧ (∀ grp acc a b, (a.zip b).any (fun p => suppressed p && (isSpecial p.1 || isSpecial p.2)) = true → dotFloat grp acc a b = 0x7FC00000#32)
  ∧ (∀ s g fmt c ua n a s1 x, IssuesMatrix s g [ua] a s1 → x = (uregVal a.gang ua).toNat * 32 → pendBusy a.gang (regRun c n) = false →
      mxFmtOk fmt = true → 1 ≤ n → n ≤ 64 → noMma a = false → fragRegsBad a c n = false → x + n * unitBytes fmt ≤ a.crew.kernel.localKib * 1024 →
      exec (.mxld g fmt c ua n) s =
        .next (mxEnter a (.mxld fmt c x n) s1.cores.nextTag (onGang g (addPend c n s1.cores.nextTag)
          (s1.onCores (fun q => { q with nextTag := q.nextTag + 1 }))))
      ∧ ∀ rnd sat us, cvtOk fmt fmt rnd = true → us = (List.range n).map (fun i => mxstUnit s1 a fmt rnd sat (c + i) i) →
        exec (.mxst g fmt rnd sat ua c n) s =
          .next (mxEnter a (.mxst (us.mapIdx (fun i u => (x + i * unitBytes fmt, u.1, u.2.1)))) s1.cores.nextTag
            ((onGang g (fun y => { y with
              cvtFlags := us.foldl (fun m u => m ||| maskOf u.2.2) y.cvtFlags
              draws := if rnd = .sr then (List.range 32).foldl (fun m l => tabPut m l (tabGetD m l 0 + n)) y.draws else y.draws }) s1).onCores
              (fun q => { q with nextTag := q.nextTag + 1 }))))
  ∧ (∀ s core q s1 e rest done, s1 = mxAdvance core mxSteps s → (coreAt s1 core).mxTaken = some q → mxQueue (coreAt s1 core) q = e :: rest →
      done = (fun (z : State) => mxAdvance core mxSteps (onCore core (fun y => { y with mxTaken := none }) (setMxChains core q
        ((mxChains (coreAt z core) q).map (fun y => { y with joinable := false })) (setMxQueue core q rest z)))) →
      (∀ us, e.op = .mxst us → exec (.mxldMxstComplete core q) s = .next (done (onCrew core e.slot
        (fun w => us.foldl (fun z u => lmemWrite u.1 u.2.1 u.2.2 z) w) (countFreeze core s1))))
      ∧ (∀ f c x n w, e.op = .mxld f c x n → tabGet (coreAt s1 core).crews e.slot = some w →
        exec (.mxldMxstComplete core q) s = .next (done (onGang ⟨core, e.slot, e.gang, 0⟩ (fun y => dropPend e.tag ((List.range n).foldl (fun z i =>
          (List.range 32).foldl (fun z l => setReg l (c + i)
            (mxldWord f ((unitValues f (lmemRead w (x + i * unitBytes f) (unitBytes f))).getD l Sys2Proof.Machine.Num.zero))
            (lmemPoison w (x + i * unitBytes f) (unitBytes f)) z) z) y)) s1))))
  ∧ (∀ s core q s1, s1 = mxAdvance core mxSteps s →
      ((coreAt s1 core).mxTaken ≠ some q ∨ mxQueue (coreAt s1 core) q = [] → exec (.mxldMxstComplete core q) s = .next s1)
      ∧ (mxChains (coreAt s1 core) q = [] → exec (.mmaChainDrain core q) s = .next s1))
  ∧ (∀ s g a s0 s1, s0 = mxAdvance g.core mxSteps s → Issues s0 g [] [] [] a s1 → a.frag.mask = ~~~a.gang.exited → noMma a = false →
      (mxBusy (coreAt s1 g.core) g.slot g.gang = false → exec (.mxwait g) s = .next (advance g s1))
      ∧ (mxBusy (coreAt s1 g.core) g.slot g.gang = true → exec (.mxwait g) s = .next s0))
  ∧ (∀ s g d c a s1 t off bs o, IssuesUniform s g [d, c] a s1 → t = towerOfCore g.core → off = uniVal a d → bs = lmemRead a.crew off 64 →
      mxstPending s1 g = false → (s1.press.queues.get t).length < 64 → bitOf a.crew.kernel.flags 1 = true → off + 64 ≤ a.crew.kernel.localKib * 1024 →
      lmemPoison a.crew off 64 = false → uniVal a c < a.crew.kernel.counters →
      (sweepExtents (sweepHdrOf bs)).any (fun e => !rangeAllowed s1 a.crew.job e.2.2 e.1 e.2.1) = false →
      o = { job := a.crew.job, item := a.crew.item, posted := some (g.core, g.slot, a.crew.uid, uniVal a c), hdr := sweepHdrOf bs, granted := false
            groups := [], pages := [], appends := [] } →
      (sweepHdrOk bs = true → exec (.swpPost g d c) s = .next (advance g (sweepEnter t o s1)))
      ∧ (sweepHdrOk bs = false →
        exec (.swpPost g d c) s = .next (advance g (pressFault t o ⟨evFieldViolation, 0xFFFF, 1, noIndex, off⟩ s1))))
/-! ### The block as a whole -/

/-- A step runs the command at the front of the queue on the state with the queue's rest. On an empty queue the block idles, one nanosecond
passing and its ports going on: that is the model's choice (log 9), no rule of the spec. -/
def Obligations.StepRunsFront : Prop :=
  (∀ s c rest, s.pending = c :: rest → step s = exec c { s with pending := rest })
  ∧ (∀ s, s.pending = [] → step s = .next (idle s) ∧ idle s = portsTick { s with nowNs := s.nowNs + 1 })

/-- State.reset holds the values the manual gives: stage 0, DARK, 3,000 W, the pins at their pull-downs, both cellars untrusted, no job, no route,
the thresholds at their defaults; every byte memory is in canonical form; no message has been sent and nothing waits. The unpowered module as the
state after reset is the model's reading (log 6). -/
def Obligations.ResetValues : Prop :=
  State.reset.boot.stage = 0 ∧ State.reset.boot.cold = true ∧ State.reset.gate.pwr = .dark ∧ State.reset.gate.limitW = 3000
  ∧ State.reset.mod.pwrEn = false ∧ State.reset.mod.perst = true ∧ State.reset.mod.tap = .bypass
  ∧ State.reset.twin.t0.untrusted = true ∧ State.reset.twin.t1.untrusted = true ∧ State.reset.twin.t0.state = .off ∧ State.reset.twin.t1.state = .off
  ∧ State.reset.jobs.jobs = [] ∧ State.reset.fab.devId = none ∧ State.reset.fab.routes = []
  ∧ State.reset.loft.thrashPct = 40 ∧ State.reset.hbm.hbmPassMin = 720 ∧ State.reset.hbm.loftPassS = 60 ∧ State.reset.obs.winnowEnable = 0x0F
  ∧ (∀ v < 128, memRead State.reset.host.msixTable (16 * v) 16 = leBytes 0 12 ++ leBytes 1 4)
  ∧ State.reset.ev.queue = [] ∧ State.reset.pending = [] ∧ State.reset.memoriesWf = true

/-- Every step keeps every byte memory in canonical form: mailboxes, MSI-X table, HBM, pinned bays, flash image, staging buffer, snapshot window,
cable pages. -/
def Obligations.MemoriesStayCanonical : Prop :=
  ∀ s t, s.memoriesWf = true → step s = .next t → t.memoriesWf = true

/-- No step lowers a counter in fuses or clears a revoked key (R437). -/
def Obligations.FusesNeverDecrease : Prop :=
  ∀ s t, step s = .next t → fusesKept s t = true
end

