-- ==== Sys2Proof/Laws/Memory.lean ====
section
/-! SUPPORT. Laws of the sparse tables and of the byte memories: read after write, and every operation keeps the canonical form. -/

namespace Sys2Proof.Machine

/-! ### Keys in rising order -/

theorem tabWf_iff_pairwise {α : Type} (m : Tab α) : tabWf m = true ↔ m.Pairwise (fun x y => x.1 < y.1) := by
  induction m with
  | nil => simp [tabWf]
  | cons x m ih =>
    obtain ⟨j, v⟩ := x
    cases m with
    | nil => simp [tabWf]
    | cons y m =>
      obtain ⟨k, w⟩ := y
      rw [List.pairwise_cons]
      simp only [tabWf, Bool.and_eq_true, decide_eq_true_eq, ih]
      constructor
      · rintro ⟨hjk, hp⟩
        refine ⟨fun z hz => ?_, hp⟩
        rcases List.mem_cons.mp hz with rfl | hz
        · exact hjk
        · exact hjk.trans ((List.pairwise_cons.mp hp).1 z hz)
      · rintro ⟨hj, hp⟩
        exact ⟨hj (k, w) (by simp), hp⟩

theorem tabWf_cons {α : Type} (x : Nat × α) (m : Tab α) :
    tabWf (x :: m) = true ↔ (∀ y ∈ m, x.1 < y.1) ∧ tabWf m = true := by
  rw [tabWf_iff_pairwise, tabWf_iff_pairwise, List.pairwise_cons]

theorem tabWf_filter {α : Type} (m : Tab α) (p : Nat × α → Bool) (h : tabWf m = true) : tabWf (m.filter p) = true := by
  rw [tabWf_iff_pairwise] at *
  exact h.filter p

theorem mem_tabPut {α : Type} (m : Tab α) (k : Nat) (v : α) (y : Nat × α) (h : y ∈ tabPut m k v) : y = (k, v) ∨ y ∈ m := by
  induction m with
  | nil => simpa [tabPut] using h
  | cons x m ih =>
    obtain ⟨j, w⟩ := x
    unfold tabPut at h
    split_ifs at h
    · rcases List.mem_cons.mp h with h | h
      · exact .inl h
      · exact .inr (List.mem_cons_of_mem _ h)
    · rcases List.mem_cons.mp h with h | h
      · exact .inl h
      · exact .inr h
    · rcases List.mem_cons.mp h with rfl | h
      · exact .inr (by simp)
      · exact (ih h).imp id (List.mem_cons_of_mem _)

theorem tabWf_tabPut {α : Type} (m : Tab α) (k : Nat) (v : α) (h : tabWf m = true) : tabWf (tabPut m k v) = true := by
  induction m with
  | nil => simp [tabPut, tabWf]
  | cons x m ih =>
    obtain ⟨j, w⟩ := x
    rw [tabWf_cons] at h
    unfold tabPut
    split_ifs with h1 h2
    · subst h1
      exact (tabWf_cons _ _).mpr h
    · refine (tabWf_cons _ _).mpr ⟨fun y hy => ?_, (tabWf_cons _ _).mpr h⟩
      rcases List.mem_cons.mp hy with rfl | hy
      · exact h2
      · exact h2.trans (h.1 y hy)
    · refine (tabWf_cons _ _).mpr ⟨fun y hy => ?_, ih h.2⟩
      rcases mem_tabPut m k v y hy with rfl | hy
      · show j < k
        omega
      · exact h.1 y hy

theorem mem_tabDel {α : Type} (m : Tab α) (k : Nat) (y : Nat × α) (h : y ∈ tabDel m k) : y ∈ m := by
  induction m with
  | nil => simp [tabDel] at h
  | cons x m ih =>
    obtain ⟨j, w⟩ := x
    unfold tabDel at h
    split_ifs at h
    · exact List.mem_cons_of_mem _ h
    · exact h
    · rcases List.mem_cons.mp h with rfl | h
      · simp
      · exact List.mem_cons_of_mem _ (ih h)

theorem tabWf_tabDel {α : Type} (m : Tab α) (k : Nat) (h : tabWf m = true) : tabWf (tabDel m k) = true := by
  induction m with
  | nil => simp [tabDel, tabWf]
  | cons x m ih =>
    obtain ⟨j, w⟩ := x
    rw [tabWf_cons] at h
    unfold tabDel
    split_ifs
    · exact h.2
    · exact (tabWf_cons _ _).mpr h
    · exact (tabWf_cons _ _).mpr ⟨fun y hy => h.1 y (mem_tabDel m k y hy), ih h.2⟩

/-! ### Read after write -/

@[simp] theorem tabGet_tabPut_self {α : Type} (m : Tab α) (k : Nat) (v : α) : tabGet (tabPut m k v) k = some v := by
  induction m with
  | nil => simp [tabPut, tabGet]
  | cons x m ih =>
    obtain ⟨j, w⟩ := x
    unfold tabPut
    split_ifs with h1 h2
    · simp [tabGet]
    · simp [tabGet]
    · simp [tabGet, h1, h2, ih]

theorem tabGet_tabPut_ne {α : Type} (m : Tab α) (k i : Nat) (v : α) (h : i ≠ k) : tabGet (tabPut m k v) i = tabGet m i := by
  induction m with
  | nil => simp [tabPut, tabGet, h]
  | cons x m ih =>
    obtain ⟨j, w⟩ := x
    unfold tabPut
    split_ifs with h1 h2
    · subst h1
      simp [tabGet, h]
    · by_cases hik : i < k
      · simp only [tabGet, h, hik, if_true, if_false]
        rw [if_neg (by omega), if_pos (by omega)]
      · simp [tabGet, h, hik]
    · simp [tabGet, ih]

theorem tabGet_tabPut {α : Type} (m : Tab α) (k i : Nat) (v : α) : tabGet (tabPut m k v) i = if i = k then some v else tabGet m i := by
  split_ifs with h
  · subst h
    simp
  · exact tabGet_tabPut_ne m k i v h

theorem tabGet_eq_none {α : Type} (m : Tab α) (k : Nat) (h : ∀ y ∈ m, k < y.1) : tabGet m k = none := by
  cases m with
  | nil => rfl
  | cons x m =>
    obtain ⟨j, w⟩ := x
    have := h (j, w) (by simp)
    simp only at this
    simp [tabGet, this, Nat.ne_of_lt this]

@[simp] theorem tabGet_tabDel_self {α : Type} (m : Tab α) (k : Nat) (h : tabWf m = true) : tabGet (tabDel m k) k = none := by
  induction m with
  | nil => rfl
  | cons x m ih =>
    obtain ⟨j, w⟩ := x
    rw [tabWf_cons] at h
    unfold tabDel
    split_ifs with h1 h2
    · subst h1
      exact tabGet_eq_none m _ h.1
    · simp [tabGet, h1, h2]
    · simp [tabGet, h1, h2, ih h.2]

theorem tabGet_tabDel_ne {α : Type} (m : Tab α) (k i : Nat) (h : tabWf m = true) (hi : i ≠ k) : tabGet (tabDel m k) i = tabGet m i := by
  induction m with
  | nil => rfl
  | cons x m ih =>
    obtain ⟨j, w⟩ := x
    rw [tabWf_cons] at h
    unfold tabDel
    split_ifs with h1 h2
    · subst h1
      by_cases hlt : i < k
      · rw [tabGet_eq_none m i (fun y hy => hlt.trans (h.1 y hy))]
        simp [tabGet, hi, hlt]
      · simp [tabGet, hi, hlt]
    · rfl
    · simp [tabGet, ih h.2]

/-! ### Byte memory -/

theorem Memory.wf_iff (m : Memory) : Memory.wf m = true ↔ tabWf m = true ∧ ∀ c ∈ m, c.2 ≠ memDefault := by
  simp [Memory.wf, List.all_eq_true]

@[simp] theorem Memory.wf_nil : Memory.wf [] = true := rfl

theorem Memory.wf_memPut (m : Memory) (a : Nat) (b : Byte) (h : Memory.wf m = true) : Memory.wf (memPut m a b) = true := by
  rw [Memory.wf_iff] at *
  unfold memPut
  split_ifs with hb
  · exact ⟨tabWf_tabDel m a h.1, fun c hc => h.2 c (mem_tabDel m a c hc)⟩
  · refine ⟨tabWf_tabPut m a b h.1, fun c hc => ?_⟩
    rcases mem_tabPut m a b c hc with rfl | hc
    · exact hb
    · exact h.2 c hc

theorem Memory.wf_memWrite (m : Memory) (a : Nat) (bs : List Byte) (h : Memory.wf m = true) : Memory.wf (memWrite m a bs) = true := by
  induction bs generalizing m a with
  | nil => exact h
  | cons b bs ih => exact ih _ _ (Memory.wf_memPut m a b h)

theorem Memory.wf_filter (m : Memory) (p : Host.Cell → Bool) (h : Memory.wf m = true) : Memory.wf (m.filter p) = true := by
  rw [Memory.wf_iff] at *
  exact ⟨tabWf_filter m p h.1, fun c hc => h.2 c (List.mem_filter.mp hc).1⟩

theorem Memory.wf_memClear (m : Memory) (lo n : Nat) (h : Memory.wf m = true) : Memory.wf (memClear m lo n) = true :=
  Memory.wf_filter m _ h

theorem memGet_memPut (m : Memory) (a i : Nat) (b : Byte) (h : Memory.wf m = true) :
    memGet (memPut m a b) i = if i = a then b else memGet m i := by
  have hw := ((Memory.wf_iff m).mp h).1
  unfold memGet memPut tabGetD
  split_ifs with hb hi hi
  · subst hi
    subst hb
    simp [tabGet_tabDel_self m _ hw]
  · rw [tabGet_tabDel_ne m a i hw hi]
  · subst hi
    simp
  · rw [tabGet_tabPut_ne m a i b hi]

theorem memGet_memWrite (m : Memory) (a i : Nat) (bs : List Byte) (h : Memory.wf m = true) :
    memGet (memWrite m a bs) i = if a ≤ i ∧ i < a + bs.length then bs.getD (i - a) 0#8 else memGet m i := by
  induction bs generalizing m a with
  | nil =>
    simp only [memWrite, List.length_nil]
    rw [if_neg (by omega)]
  | cons b bs ih =>
    simp only [memWrite, List.length_cons]
    rw [ih _ _ (Memory.wf_memPut m a b h), memGet_memPut m a i b h]
    by_cases hi : i = a
    · subst hi
      rw [if_neg (by omega), if_pos rfl, if_pos (by omega)]
      simp
    · by_cases hr : a + 1 ≤ i ∧ i < a + 1 + bs.length
      · rw [if_pos hr, if_pos (by omega)]
        rw [show i - a = (i - (a + 1)) + 1 by omega]
        simp
      · rw [if_neg hr, if_neg hi, if_neg (by omega)]

theorem memRead_length (m : Memory) (a n : Nat) : (memRead m a n).length = n := by
  induction n generalizing a with
  | zero => rfl
  | succ n ih => simp [memRead, ih]

theorem memRead_congr (m m' : Memory) (a n : Nat) (h : ∀ i, a ≤ i → i < a + n → memGet m i = memGet m' i) : memRead m a n = memRead m' a n := by
  induction n generalizing a with
  | zero => rfl
  | succ n ih =>
    simp only [memRead]
    rw [h a (by omega) (by omega), ih (a + 1) (fun i h1 h2 => h i (by omega) (by omega))]

theorem memRead_memWrite_self (m : Memory) (a : Nat) (bs : List Byte) (h : Memory.wf m = true) : memRead (memWrite m a bs) a bs.length = bs := by
  induction bs generalizing m a with
  | nil => rfl
  | cons b bs ih =>
    simp only [List.length_cons, memRead]
    rw [memGet_memWrite m a a (b :: bs) h]
    simp only [List.length_cons]
    rw [if_pos (by omega)]
    simp only [memWrite, ih _ _ (Memory.wf_memPut m a b h)]
    simp

theorem memRead_memWrite_ne (m : Memory) (a i n : Nat) (bs : List Byte) (h : Memory.wf m = true) (hd : a + bs.length ≤ i ∨ i + n ≤ a) :
    memRead (memWrite m a bs) i n = memRead m i n :=
  memRead_congr _ _ _ _ (fun k h1 h2 => by
    rw [memGet_memWrite m a k bs h, if_neg (by omega)])

theorem memGet_memClear (m : Memory) (lo n i : Nat) (h : Memory.wf m = true) :
    memGet (memClear m lo n) i = if lo ≤ i ∧ i < lo + n then memDefault else memGet m i := by
  have hw := ((Memory.wf_iff m).mp h).1
  clear h
  unfold memGet tabGetD
  induction m with
  | nil => simp [memClear, tabGet]
  | cons x m ih =>
    obtain ⟨j, w⟩ := x
    rw [tabWf_cons] at hw
    have ih := ih hw.2
    unfold memClear at ih ⊢
    rw [List.filter_cons]
    by_cases hj : lo ≤ j ∧ j < lo + n
    · rw [if_neg (by simp [hj])]
      rw [ih]
      split_ifs with hi
      · rfl
      · by_cases hij : i < j
        · rw [tabGet_eq_none m i (fun y hy => hij.trans (hw.1 y hy))]
          simp [tabGet, hij, Nat.ne_of_lt hij]
        · have : i ≠ j := by rintro rfl; exact hi hj
          simp [tabGet, this, hij]
    · rw [if_pos (by simp; omega)]
      simp only [tabGet]
      by_cases hij : i = j
      · subst hij
        simp [hj]
      · simp only [hij, if_false]
        by_cases hlt : i < j
        · simp [hlt]
        · simp only [hlt, if_false]
          exact ih

/-- The bytes of a number, `n` of them. -/
@[simp] theorem leBytes_length (v n : Nat) : (leBytes v n).length = n := by
  induction n generalizing v with
  | zero => rfl
  | succ n ih => simp [leBytes, ih]

theorem leNat_leBytes (v n : Nat) : leNat (leBytes v n) = v % 256 ^ n := by
  induction n generalizing v with
  | zero => simp [leBytes, leNat, Nat.mod_one]
  | succ n ih =>
    simp only [leBytes, leNat, ih, BitVec.toNat_ofNat]
    have e : (256 : Nat) ^ (n + 1) = 256 * 256 ^ n := by rw [pow_succ, Nat.mul_comm]
    rw [e, Nat.mod_mul]

@[simp] theorem sliceBytes_length (bs : List Byte) (off n : Nat) : (sliceBytes bs off n).length = n := by
  simp [sliceBytes, List.length_take, List.length_drop]

end Sys2Proof.Machine
end

