-- ==== Sys2Proof/Laws/Command.lean ====
section
/-! SUPPORT. Laws of the mailbox commands: when a command runs, how its checks are judged, what a completion changes. -/

namespace Sys2Proof.Machine

/-- A waiting command runs its body. -/
theorem runCmd_waiting {s : State} {mb op : Nat} {c : Cmd} (h : Waiting s mb op c) (body : Cmd → State → State) :
    runCmd op mb body s = body c s := by
  obtain ⟨h1, -, h3, h4⟩ := h
  simp [runCmd, h1, h3, h4]

/-- A running command is found started. -/
theorem startedCmd_running {s : State} {mb op : Nat} {c : Cmd} (h : Running s mb op c) : startedCmd s mb op = some c := by
  obtain ⟨h1, -, h3, h4⟩ := h
  simp [startedCmd, h1, h3, h4]

/-- A command whose checks all hold goes on. -/
theorem judged_pass (c : Cmd) (checks : List (Bool × Nat)) (s k : State) (h : checks.all (fun x => !x.1) = true) :
    judged c checks s k = k := by
  have : firstFail checks = none := by
    induction checks with
    | nil => rfl
    | cons x xs ih =>
      obtain ⟨b, st⟩ := x
      simp only [List.all_cons, Bool.and_eq_true, Bool.not_eq_true'] at h
      simp only [firstFail, h.1, Bool.false_eq_true, if_false]
      exact ih h.2
  simp [judged, this]

/-- A command that fails a check completes with the status of the first it fails. -/
theorem judged_fail (c : Cmd) (pre post : List (Bool × Nat)) (st : Nat) (s k : State) (h : pre.all (fun x => !x.1) = true) :
    judged c (pre ++ (true, st) :: post) s k = complete c st [] s := by
  have : firstFail (pre ++ (true, st) :: post) = some st := by
    induction pre with
    | nil => rfl
    | cons x xs ih =>
      obtain ⟨b, st'⟩ := x
      simp only [List.all_cons, Bool.and_eq_true, Bool.not_eq_true'] at h
      simp only [List.cons_append, firstFail, h.1, Bool.false_eq_true, if_false]
      exact ih h.2
  simp [judged, this]

theorem Plain.hdrBad {c : Cmd} {n : Nat} (h : Plain c n) : hdrBad c = false := by
  obtain ⟨-, h2, h3⟩ := h
  simp [Machine.hdrBad, h2]
  omega

theorem Plain.length {c : Cmd} {n : Nat} (h : Plain c n) : c.length = n := h.1

theorem ZeroPar.parRes {c : Cmd} {off n : Nat} (h : ZeroPar c off n) : parRes c off n = false := by
  simp [Machine.parRes, show zeroAt c.params off n = true from h]

/-- What a completion does to the state, the message aside. -/
theorem mbFinish_eq (s : State) (mb handoff status : Nat) (result : List Byte) :
    ∃ a st, mbFinish s mb handoff status result =
      { s with
        freeCtr := s.freeCtr + 1
        host := { s.host with
          mbArea := a
          own := s.host.own &&& ~~~ BitVec.ofNat 64 (2 ^ mb)
          doneSum := s.host.doneSum ||| BitVec.ofNat 64 (2 ^ mb)
          taken := tabDel s.host.taken mb
          stale := st } } := ⟨_, _, rfl⟩

theorem wf_mbFinish (s : State) (mb handoff status : Nat) (result : List Byte) (h : Memory.wf s.host.mbArea = true) :
    Memory.wf (mbFinish s mb handoff status result).host.mbArea = true := by
  unfold mbFinish
  exact Memory.wf_memWrite _ _ _ (Memory.wf_memWrite _ _ _ (Memory.wf_memWrite _ _ _ (Memory.wf_memWrite _ _ _ (Memory.wf_memWrite _ _ _ h))))

end Sys2Proof.Machine
end

