-- ==== Sys2Proof/Laws/State.lean ====
section
/-! SUPPORT. One lemma per field per update of State, each true by unfolding, so that no later proof unfolds a record update. -/

namespace Sys2Proof.Machine

/-! ### A pair of towers -/

@[simp] theorem Pair.get_t0 {α : Type} (p : Pair α) : p.get .t0 = p.t0 := rfl
@[simp] theorem Pair.get_t1 {α : Type} (p : Pair α) : p.get .t1 = p.t1 := rfl
@[simp] theorem Pair.get_set_self {α : Type} (p : Pair α) (t : Tower) (v : α) : (p.set t v).get t = v := by cases t <;> rfl
theorem Pair.get_set {α : Type} (p : Pair α) (t u : Tower) (v : α) : (p.set t v).get u = if u = t then v else p.get u := by
  cases t <;> cases u <;> rfl
@[simp] theorem Pair.get_mod_self {α : Type} (p : Pair α) (t : Tower) (f : α → α) : (p.mod t f).get t = f (p.get t) := by cases t <;> rfl
theorem Pair.get_mod {α : Type} (p : Pair α) (t u : Tower) (f : α → α) : (p.mod t f).get u = if u = t then f (p.get u) else p.get u := by
  cases t <;> cases u <;> rfl

/-! ### Updates of one part -/

variable (s : State)

@[simp] theorem State.onMod_nowNs (f : ModuleSt → ModuleSt) : (s.onMod f).nowNs = s.nowNs := rfl
@[simp] theorem State.onMod_freeCtr (f : ModuleSt → ModuleSt) : (s.onMod f).freeCtr = s.freeCtr := rfl
@[simp] theorem State.onMod_mod (f : ModuleSt → ModuleSt) : (s.onMod f).mod = f s.mod := rfl
@[simp] theorem State.onMod_boot (f : ModuleSt → ModuleSt) : (s.onMod f).boot = s.boot := rfl
@[simp] theorem State.onMod_flash (f : ModuleSt → ModuleSt) : (s.onMod f).flash = s.flash := rfl
@[simp] theorem State.onMod_fuses (f : ModuleSt → ModuleSt) : (s.onMod f).fuses = s.fuses := rfl
@[simp] theorem State.onMod_host (f : ModuleSt → ModuleSt) : (s.onMod f).host = s.host := rfl
@[simp] theorem State.onMod_ev (f : ModuleSt → ModuleSt) : (s.onMod f).ev = s.ev := rfl
@[simp] theorem State.onMod_jobs (f : ModuleSt → ModuleSt) : (s.onMod f).jobs = s.jobs := rfl
@[simp] theorem State.onMod_fab (f : ModuleSt → ModuleSt) : (s.onMod f).fab = s.fab := rfl
@[simp] theorem State.onMod_twin (f : ModuleSt → ModuleSt) : (s.onMod f).twin = s.twin := rfl
@[simp] theorem State.onMod_loft (f : ModuleSt → ModuleSt) : (s.onMod f).loft = s.loft := rfl
@[simp] theorem State.onMod_hbm (f : ModuleSt → ModuleSt) : (s.onMod f).hbm = s.hbm := rfl
@[simp] theorem State.onMod_vl (f : ModuleSt → ModuleSt) : (s.onMod f).vl = s.vl := rfl
@[simp] theorem State.onMod_cores (f : ModuleSt → ModuleSt) : (s.onMod f).cores = s.cores := rfl
@[simp] theorem State.onMod_press (f : ModuleSt → ModuleSt) : (s.onMod f).press = s.press := rfl
@[simp] theorem State.onMod_eng (f : ModuleSt → ModuleSt) : (s.onMod f).eng = s.eng := rfl
@[simp] theorem State.onMod_gate (f : ModuleSt → ModuleSt) : (s.onMod f).gate = s.gate := rfl
@[simp] theorem State.onMod_therm (f : ModuleSt → ModuleSt) : (s.onMod f).therm = s.therm := rfl
@[simp] theorem State.onMod_trust (f : ModuleSt → ModuleSt) : (s.onMod f).trust = s.trust := rfl
@[simp] theorem State.onMod_obs (f : ModuleSt → ModuleSt) : (s.onMod f).obs = s.obs := rfl
@[simp] theorem State.onMod_out (f : ModuleSt → ModuleSt) : (s.onMod f).out = s.out := rfl
@[simp] theorem State.onMod_pending (f : ModuleSt → ModuleSt) : (s.onMod f).pending = s.pending := rfl

@[simp] theorem State.onBoot_nowNs (f : BootSt → BootSt) : (s.onBoot f).nowNs = s.nowNs := rfl
@[simp] theorem State.onBoot_freeCtr (f : BootSt → BootSt) : (s.onBoot f).freeCtr = s.freeCtr := rfl
@[simp] theorem State.onBoot_mod (f : BootSt → BootSt) : (s.onBoot f).mod = s.mod := rfl
@[simp] theorem State.onBoot_boot (f : BootSt → BootSt) : (s.onBoot f).boot = f s.boot := rfl
@[simp] theorem State.onBoot_flash (f : BootSt → BootSt) : (s.onBoot f).flash = s.flash := rfl
@[simp] theorem State.onBoot_fuses (f : BootSt → BootSt) : (s.onBoot f).fuses = s.fuses := rfl
@[simp] theorem State.onBoot_host (f : BootSt → BootSt) : (s.onBoot f).host = s.host := rfl
@[simp] theorem State.onBoot_ev (f : BootSt → BootSt) : (s.onBoot f).ev = s.ev := rfl
@[simp] theorem State.onBoot_jobs (f : BootSt → BootSt) : (s.onBoot f).jobs = s.jobs := rfl
@[simp] theorem State.onBoot_fab (f : BootSt → BootSt) : (s.onBoot f).fab = s.fab := rfl
@[simp] theorem State.onBoot_twin (f : BootSt → BootSt) : (s.onBoot f).twin = s.twin := rfl
@[simp] theorem State.onBoot_loft (f : BootSt → BootSt) : (s.onBoot f).loft = s.loft := rfl
@[simp] theorem State.onBoot_hbm (f : BootSt → BootSt) : (s.onBoot f).hbm = s.hbm := rfl
@[simp] theorem State.onBoot_vl (f : BootSt → BootSt) : (s.onBoot f).vl = s.vl := rfl
@[simp] theorem State.onBoot_cores (f : BootSt → BootSt) : (s.onBoot f).cores = s.cores := rfl
@[simp] theorem State.onBoot_press (f : BootSt → BootSt) : (s.onBoot f).press = s.press := rfl
@[simp] theorem State.onBoot_eng (f : BootSt → BootSt) : (s.onBoot f).eng = s.eng := rfl
@[simp] theorem State.onBoot_gate (f : BootSt → BootSt) : (s.onBoot f).gate = s.gate := rfl
@[simp] theorem State.onBoot_therm (f : BootSt → BootSt) : (s.onBoot f).therm = s.therm := rfl
@[simp] theorem State.onBoot_trust (f : BootSt → BootSt) : (s.onBoot f).trust = s.trust := rfl
@[simp] theorem State.onBoot_obs (f : BootSt → BootSt) : (s.onBoot f).obs = s.obs := rfl
@[simp] theorem State.onBoot_out (f : BootSt → BootSt) : (s.onBoot f).out = s.out := rfl
@[simp] theorem State.onBoot_pending (f : BootSt → BootSt) : (s.onBoot f).pending = s.pending := rfl

@[simp] theorem State.onFlash_nowNs (f : FlashSt → FlashSt) : (s.onFlash f).nowNs = s.nowNs := rfl
@[simp] theorem State.onFlash_freeCtr (f : FlashSt → FlashSt) : (s.onFlash f).freeCtr = s.freeCtr := rfl
@[simp] theorem State.onFlash_mod (f : FlashSt → FlashSt) : (s.onFlash f).mod = s.mod := rfl
@[simp] theorem State.onFlash_boot (f : FlashSt → FlashSt) : (s.onFlash f).boot = s.boot := rfl
@[simp] theorem State.onFlash_flash (f : FlashSt → FlashSt) : (s.onFlash f).flash = f s.flash := rfl
@[simp] theorem State.onFlash_fuses (f : FlashSt → FlashSt) : (s.onFlash f).fuses = s.fuses := rfl
@[simp] theorem State.onFlash_host (f : FlashSt → FlashSt) : (s.onFlash f).host = s.host := rfl
@[simp] theorem State.onFlash_ev (f : FlashSt → FlashSt) : (s.onFlash f).ev = s.ev := rfl
@[simp] theorem State.onFlash_jobs (f : FlashSt → FlashSt) : (s.onFlash f).jobs = s.jobs := rfl
@[simp] theorem State.onFlash_fab (f : FlashSt → FlashSt) : (s.onFlash f).fab = s.fab := rfl
@[simp] theorem State.onFlash_twin (f : FlashSt → FlashSt) : (s.onFlash f).twin = s.twin := rfl
@[simp] theorem State.onFlash_loft (f : FlashSt → FlashSt) : (s.onFlash f).loft = s.loft := rfl
@[simp] theorem State.onFlash_hbm (f : FlashSt → FlashSt) : (s.onFlash f).hbm = s.hbm := rfl
@[simp] theorem State.onFlash_vl (f : FlashSt → FlashSt) : (s.onFlash f).vl = s.vl := rfl
@[simp] theorem State.onFlash_cores (f : FlashSt → FlashSt) : (s.onFlash f).cores = s.cores := rfl
@[simp] theorem State.onFlash_press (f : FlashSt → FlashSt) : (s.onFlash f).press = s.press := rfl
@[simp] theorem State.onFlash_eng (f : FlashSt → FlashSt) : (s.onFlash f).eng = s.eng := rfl
@[simp] theorem State.onFlash_gate (f : FlashSt → FlashSt) : (s.onFlash f).gate = s.gate := rfl
@[simp] theorem State.onFlash_therm (f : FlashSt → FlashSt) : (s.onFlash f).therm = s.therm := rfl
@[simp] theorem State.onFlash_trust (f : FlashSt → FlashSt) : (s.onFlash f).trust = s.trust := rfl
@[simp] theorem State.onFlash_obs (f : FlashSt → FlashSt) : (s.onFlash f).obs = s.obs := rfl
@[simp] theorem State.onFlash_out (f : FlashSt → FlashSt) : (s.onFlash f).out = s.out := rfl
@[simp] theorem State.onFlash_pending (f : FlashSt → FlashSt) : (s.onFlash f).pending = s.pending := rfl

@[simp] theorem State.onFuses_nowNs (f : FuseSt → FuseSt) : (s.onFuses f).nowNs = s.nowNs := rfl
@[simp] theorem State.onFuses_freeCtr (f : FuseSt → FuseSt) : (s.onFuses f).freeCtr = s.freeCtr := rfl
@[simp] theorem State.onFuses_mod (f : FuseSt → FuseSt) : (s.onFuses f).mod = s.mod := rfl
@[simp] theorem State.onFuses_boot (f : FuseSt → FuseSt) : (s.onFuses f).boot = s.boot := rfl
@[simp] theorem State.onFuses_flash (f : FuseSt → FuseSt) : (s.onFuses f).flash = s.flash := rfl
@[simp] theorem State.onFuses_fuses (f : FuseSt → FuseSt) : (s.onFuses f).fuses = f s.fuses := rfl
@[simp] theorem State.onFuses_host (f : FuseSt → FuseSt) : (s.onFuses f).host = s.host := rfl
@[simp] theorem State.onFuses_ev (f : FuseSt → FuseSt) : (s.onFuses f).ev = s.ev := rfl
@[simp] theorem State.onFuses_jobs (f : FuseSt → FuseSt) : (s.onFuses f).jobs = s.jobs := rfl
@[simp] theorem State.onFuses_fab (f : FuseSt → FuseSt) : (s.onFuses f).fab = s.fab := rfl
@[simp] theorem State.onFuses_twin (f : FuseSt → FuseSt) : (s.onFuses f).twin = s.twin := rfl
@[simp] theorem State.onFuses_loft (f : FuseSt → FuseSt) : (s.onFuses f).loft = s.loft := rfl
@[simp] theorem State.onFuses_hbm (f : FuseSt → FuseSt) : (s.onFuses f).hbm = s.hbm := rfl
@[simp] theorem State.onFuses_vl (f : FuseSt → FuseSt) : (s.onFuses f).vl = s.vl := rfl
@[simp] theorem State.onFuses_cores (f : FuseSt → FuseSt) : (s.onFuses f).cores = s.cores := rfl
@[simp] theorem State.onFuses_press (f : FuseSt → FuseSt) : (s.onFuses f).press = s.press := rfl
@[simp] theorem State.onFuses_eng (f : FuseSt → FuseSt) : (s.onFuses f).eng = s.eng := rfl
@[simp] theorem State.onFuses_gate (f : FuseSt → FuseSt) : (s.onFuses f).gate = s.gate := rfl
@[simp] theorem State.onFuses_therm (f : FuseSt → FuseSt) : (s.onFuses f).therm = s.therm := rfl
@[simp] theorem State.onFuses_trust (f : FuseSt → FuseSt) : (s.onFuses f).trust = s.trust := rfl
@[simp] theorem State.onFuses_obs (f : FuseSt → FuseSt) : (s.onFuses f).obs = s.obs := rfl
@[simp] theorem State.onFuses_out (f : FuseSt → FuseSt) : (s.onFuses f).out = s.out := rfl
@[simp] theorem State.onFuses_pending (f : FuseSt → FuseSt) : (s.onFuses f).pending = s.pending := rfl

@[simp] theorem State.onHost_nowNs (f : HostSt → HostSt) : (s.onHost f).nowNs = s.nowNs := rfl
@[simp] theorem State.onHost_freeCtr (f : HostSt → HostSt) : (s.onHost f).freeCtr = s.freeCtr := rfl
@[simp] theorem State.onHost_mod (f : HostSt → HostSt) : (s.onHost f).mod = s.mod := rfl
@[simp] theorem State.onHost_boot (f : HostSt → HostSt) : (s.onHost f).boot = s.boot := rfl
@[simp] theorem State.onHost_flash (f : HostSt → HostSt) : (s.onHost f).flash = s.flash := rfl
@[simp] theorem State.onHost_fuses (f : HostSt → HostSt) : (s.onHost f).fuses = s.fuses := rfl
@[simp] theorem State.onHost_host (f : HostSt → HostSt) : (s.onHost f).host = f s.host := rfl
@[simp] theorem State.onHost_ev (f : HostSt → HostSt) : (s.onHost f).ev = s.ev := rfl
@[simp] theorem State.onHost_jobs (f : HostSt → HostSt) : (s.onHost f).jobs = s.jobs := rfl
@[simp] theorem State.onHost_fab (f : HostSt → HostSt) : (s.onHost f).fab = s.fab := rfl
@[simp] theorem State.onHost_twin (f : HostSt → HostSt) : (s.onHost f).twin = s.twin := rfl
@[simp] theorem State.onHost_loft (f : HostSt → HostSt) : (s.onHost f).loft = s.loft := rfl
@[simp] theorem State.onHost_hbm (f : HostSt → HostSt) : (s.onHost f).hbm = s.hbm := rfl
@[simp] theorem State.onHost_vl (f : HostSt → HostSt) : (s.onHost f).vl = s.vl := rfl
@[simp] theorem State.onHost_cores (f : HostSt → HostSt) : (s.onHost f).cores = s.cores := rfl
@[simp] theorem State.onHost_press (f : HostSt → HostSt) : (s.onHost f).press = s.press := rfl
@[simp] theorem State.onHost_eng (f : HostSt → HostSt) : (s.onHost f).eng = s.eng := rfl
@[simp] theorem State.onHost_gate (f : HostSt → HostSt) : (s.onHost f).gate = s.gate := rfl
@[simp] theorem State.onHost_therm (f : HostSt → HostSt) : (s.onHost f).therm = s.therm := rfl
@[simp] theorem State.onHost_trust (f : HostSt → HostSt) : (s.onHost f).trust = s.trust := rfl
@[simp] theorem State.onHost_obs (f : HostSt → HostSt) : (s.onHost f).obs = s.obs := rfl
@[simp] theorem State.onHost_out (f : HostSt → HostSt) : (s.onHost f).out = s.out := rfl
@[simp] theorem State.onHost_pending (f : HostSt → HostSt) : (s.onHost f).pending = s.pending := rfl

@[simp] theorem State.onEv_nowNs (f : EvSt → EvSt) : (s.onEv f).nowNs = s.nowNs := rfl
@[simp] theorem State.onEv_freeCtr (f : EvSt → EvSt) : (s.onEv f).freeCtr = s.freeCtr := rfl
@[simp] theorem State.onEv_mod (f : EvSt → EvSt) : (s.onEv f).mod = s.mod := rfl
@[simp] theorem State.onEv_boot (f : EvSt → EvSt) : (s.onEv f).boot = s.boot := rfl
@[simp] theorem State.onEv_flash (f : EvSt → EvSt) : (s.onEv f).flash = s.flash := rfl
@[simp] theorem State.onEv_fuses (f : EvSt → EvSt) : (s.onEv f).fuses = s.fuses := rfl
@[simp] theorem State.onEv_host (f : EvSt → EvSt) : (s.onEv f).host = s.host := rfl
@[simp] theorem State.onEv_ev (f : EvSt → EvSt) : (s.onEv f).ev = f s.ev := rfl
@[simp] theorem State.onEv_jobs (f : EvSt → EvSt) : (s.onEv f).jobs = s.jobs := rfl
@[simp] theorem State.onEv_fab (f : EvSt → EvSt) : (s.onEv f).fab = s.fab := rfl
@[simp] theorem State.onEv_twin (f : EvSt → EvSt) : (s.onEv f).twin = s.twin := rfl
@[simp] theorem State.onEv_loft (f : EvSt → EvSt) : (s.onEv f).loft = s.loft := rfl
@[simp] theorem State.onEv_hbm (f : EvSt → EvSt) : (s.onEv f).hbm = s.hbm := rfl
@[simp] theorem State.onEv_vl (f : EvSt → EvSt) : (s.onEv f).vl = s.vl := rfl
@[simp] theorem State.onEv_cores (f : EvSt → EvSt) : (s.onEv f).cores = s.cores := rfl
@[simp] theorem State.onEv_press (f : EvSt → EvSt) : (s.onEv f).press = s.press := rfl
@[simp] theorem State.onEv_eng (f : EvSt → EvSt) : (s.onEv f).eng = s.eng := rfl
@[simp] theorem State.onEv_gate (f : EvSt → EvSt) : (s.onEv f).gate = s.gate := rfl
@[simp] theorem State.onEv_therm (f : EvSt → EvSt) : (s.onEv f).therm = s.therm := rfl
@[simp] theorem State.onEv_trust (f : EvSt → EvSt) : (s.onEv f).trust = s.trust := rfl
@[simp] theorem State.onEv_obs (f : EvSt → EvSt) : (s.onEv f).obs = s.obs := rfl
@[simp] theorem State.onEv_out (f : EvSt → EvSt) : (s.onEv f).out = s.out := rfl
@[simp] theorem State.onEv_pending (f : EvSt → EvSt) : (s.onEv f).pending = s.pending := rfl

@[simp] theorem State.onJobs_nowNs (f : JobsSt → JobsSt) : (s.onJobs f).nowNs = s.nowNs := rfl
@[simp] theorem State.onJobs_freeCtr (f : JobsSt → JobsSt) : (s.onJobs f).freeCtr = s.freeCtr := rfl
@[simp] theorem State.onJobs_mod (f : JobsSt → JobsSt) : (s.onJobs f).mod = s.mod := rfl
@[simp] theorem State.onJobs_boot (f : JobsSt → JobsSt) : (s.onJobs f).boot = s.boot := rfl
@[simp] theorem State.onJobs_flash (f : JobsSt → JobsSt) : (s.onJobs f).flash = s.flash := rfl
@[simp] theorem State.onJobs_fuses (f : JobsSt → JobsSt) : (s.onJobs f).fuses = s.fuses := rfl
@[simp] theorem State.onJobs_host (f : JobsSt → JobsSt) : (s.onJobs f).host = s.host := rfl
@[simp] theorem State.onJobs_ev (f : JobsSt → JobsSt) : (s.onJobs f).ev = s.ev := rfl
@[simp] theorem State.onJobs_jobs (f : JobsSt → JobsSt) : (s.onJobs f).jobs = f s.jobs := rfl
@[simp] theorem State.onJobs_fab (f : JobsSt → JobsSt) : (s.onJobs f).fab = s.fab := rfl
@[simp] theorem State.onJobs_twin (f : JobsSt → JobsSt) : (s.onJobs f).twin = s.twin := rfl
@[simp] theorem State.onJobs_loft (f : JobsSt → JobsSt) : (s.onJobs f).loft = s.loft := rfl
@[simp] theorem State.onJobs_hbm (f : JobsSt → JobsSt) : (s.onJobs f).hbm = s.hbm := rfl
@[simp] theorem State.onJobs_vl (f : JobsSt → JobsSt) : (s.onJobs f).vl = s.vl := rfl
@[simp] theorem State.onJobs_cores (f : JobsSt → JobsSt) : (s.onJobs f).cores = s.cores := rfl
@[simp] theorem State.onJobs_press (f : JobsSt → JobsSt) : (s.onJobs f).press = s.press := rfl
@[simp] theorem State.onJobs_eng (f : JobsSt → JobsSt) : (s.onJobs f).eng = s.eng := rfl
@[simp] theorem State.onJobs_gate (f : JobsSt → JobsSt) : (s.onJobs f).gate = s.gate := rfl
@[simp] theorem State.onJobs_therm (f : JobsSt → JobsSt) : (s.onJobs f).therm = s.therm := rfl
@[simp] theorem State.onJobs_trust (f : JobsSt → JobsSt) : (s.onJobs f).trust = s.trust := rfl
@[simp] theorem State.onJobs_obs (f : JobsSt → JobsSt) : (s.onJobs f).obs = s.obs := rfl
@[simp] theorem State.onJobs_out (f : JobsSt → JobsSt) : (s.onJobs f).out = s.out := rfl
@[simp] theorem State.onJobs_pending (f : JobsSt → JobsSt) : (s.onJobs f).pending = s.pending := rfl

@[simp] theorem State.onFab_nowNs (f : FabSt → FabSt) : (s.onFab f).nowNs = s.nowNs := rfl
@[simp] theorem State.onFab_freeCtr (f : FabSt → FabSt) : (s.onFab f).freeCtr = s.freeCtr := rfl
@[simp] theorem State.onFab_mod (f : FabSt → FabSt) : (s.onFab f).mod = s.mod := rfl
@[simp] theorem State.onFab_boot (f : FabSt → FabSt) : (s.onFab f).boot = s.boot := rfl
@[simp] theorem State.onFab_flash (f : FabSt → FabSt) : (s.onFab f).flash = s.flash := rfl
@[simp] theorem State.onFab_fuses (f : FabSt → FabSt) : (s.onFab f).fuses = s.fuses := rfl
@[simp] theorem State.onFab_host (f : FabSt → FabSt) : (s.onFab f).host = s.host := rfl
@[simp] theorem State.onFab_ev (f : FabSt → FabSt) : (s.onFab f).ev = s.ev := rfl
@[simp] theorem State.onFab_jobs (f : FabSt → FabSt) : (s.onFab f).jobs = s.jobs := rfl
@[simp] theorem State.onFab_fab (f : FabSt → FabSt) : (s.onFab f).fab = f s.fab := rfl
@[simp] theorem State.onFab_twin (f : FabSt → FabSt) : (s.onFab f).twin = s.twin := rfl
@[simp] theorem State.onFab_loft (f : FabSt → FabSt) : (s.onFab f).loft = s.loft := rfl
@[simp] theorem State.onFab_hbm (f : FabSt → FabSt) : (s.onFab f).hbm = s.hbm := rfl
@[simp] theorem State.onFab_vl (f : FabSt → FabSt) : (s.onFab f).vl = s.vl := rfl
@[simp] theorem State.onFab_cores (f : FabSt → FabSt) : (s.onFab f).cores = s.cores := rfl
@[simp] theorem State.onFab_press (f : FabSt → FabSt) : (s.onFab f).press = s.press := rfl
@[simp] theorem State.onFab_eng (f : FabSt → FabSt) : (s.onFab f).eng = s.eng := rfl
@[simp] theorem State.onFab_gate (f : FabSt → FabSt) : (s.onFab f).gate = s.gate := rfl
@[simp] theorem State.onFab_therm (f : FabSt → FabSt) : (s.onFab f).therm = s.therm := rfl
@[simp] theorem State.onFab_trust (f : FabSt → FabSt) : (s.onFab f).trust = s.trust := rfl
@[simp] theorem State.onFab_obs (f : FabSt → FabSt) : (s.onFab f).obs = s.obs := rfl
@[simp] theorem State.onFab_out (f : FabSt → FabSt) : (s.onFab f).out = s.out := rfl
@[simp] theorem State.onFab_pending (f : FabSt → FabSt) : (s.onFab f).pending = s.pending := rfl

@[simp] theorem State.onTwin_nowNs (f : Pair Twin → Pair Twin) : (s.onTwin f).nowNs = s.nowNs := rfl
@[simp] theorem State.onTwin_freeCtr (f : Pair Twin → Pair Twin) : (s.onTwin f).freeCtr = s.freeCtr := rfl
@[simp] theorem State.onTwin_mod (f : Pair Twin → Pair Twin) : (s.onTwin f).mod = s.mod := rfl
@[simp] theorem State.onTwin_boot (f : Pair Twin → Pair Twin) : (s.onTwin f).boot = s.boot := rfl
@[simp] theorem State.onTwin_flash (f : Pair Twin → Pair Twin) : (s.onTwin f).flash = s.flash := rfl
@[simp] theorem State.onTwin_fuses (f : Pair Twin → Pair Twin) : (s.onTwin f).fuses = s.fuses := rfl
@[simp] theorem State.onTwin_host (f : Pair Twin → Pair Twin) : (s.onTwin f).host = s.host := rfl
@[simp] theorem State.onTwin_ev (f : Pair Twin → Pair Twin) : (s.onTwin f).ev = s.ev := rfl
@[simp] theorem State.onTwin_jobs (f : Pair Twin → Pair Twin) : (s.onTwin f).jobs = s.jobs := rfl
@[simp] theorem State.onTwin_fab (f : Pair Twin → Pair Twin) : (s.onTwin f).fab = s.fab := rfl
@[simp] theorem State.onTwin_twin (f : Pair Twin → Pair Twin) : (s.onTwin f).twin = f s.twin := rfl
@[simp] theorem State.onTwin_loft (f : Pair Twin → Pair Twin) : (s.onTwin f).loft = s.loft := rfl
@[simp] theorem State.onTwin_hbm (f : Pair Twin → Pair Twin) : (s.onTwin f).hbm = s.hbm := rfl
@[simp] theorem State.onTwin_vl (f : Pair Twin → Pair Twin) : (s.onTwin f).vl = s.vl := rfl
@[simp] theorem State.onTwin_cores (f : Pair Twin → Pair Twin) : (s.onTwin f).cores = s.cores := rfl
@[simp] theorem State.onTwin_press (f : Pair Twin → Pair Twin) : (s.onTwin f).press = s.press := rfl
@[simp] theorem State.onTwin_eng (f : Pair Twin → Pair Twin) : (s.onTwin f).eng = s.eng := rfl
@[simp] theorem State.onTwin_gate (f : Pair Twin → Pair Twin) : (s.onTwin f).gate = s.gate := rfl
@[simp] theorem State.onTwin_therm (f : Pair Twin → Pair Twin) : (s.onTwin f).therm = s.therm := rfl
@[simp] theorem State.onTwin_trust (f : Pair Twin → Pair Twin) : (s.onTwin f).trust = s.trust := rfl
@[simp] theorem State.onTwin_obs (f : Pair Twin → Pair Twin) : (s.onTwin f).obs = s.obs := rfl
@[simp] theorem State.onTwin_out (f : Pair Twin → Pair Twin) : (s.onTwin f).out = s.out := rfl
@[simp] theorem State.onTwin_pending (f : Pair Twin → Pair Twin) : (s.onTwin f).pending = s.pending := rfl

@[simp] theorem State.onLoft_nowNs (f : LoftSt → LoftSt) : (s.onLoft f).nowNs = s.nowNs := rfl
@[simp] theorem State.onLoft_freeCtr (f : LoftSt → LoftSt) : (s.onLoft f).freeCtr = s.freeCtr := rfl
@[simp] theorem State.onLoft_mod (f : LoftSt → LoftSt) : (s.onLoft f).mod = s.mod := rfl
@[simp] theorem State.onLoft_boot (f : LoftSt → LoftSt) : (s.onLoft f).boot = s.boot := rfl
@[simp] theorem State.onLoft_flash (f : LoftSt → LoftSt) : (s.onLoft f).flash = s.flash := rfl
@[simp] theorem State.onLoft_fuses (f : LoftSt → LoftSt) : (s.onLoft f).fuses = s.fuses := rfl
@[simp] theorem State.onLoft_host (f : LoftSt → LoftSt) : (s.onLoft f).host = s.host := rfl
@[simp] theorem State.onLoft_ev (f : LoftSt → LoftSt) : (s.onLoft f).ev = s.ev := rfl
@[simp] theorem State.onLoft_jobs (f : LoftSt → LoftSt) : (s.onLoft f).jobs = s.jobs := rfl
@[simp] theorem State.onLoft_fab (f : LoftSt → LoftSt) : (s.onLoft f).fab = s.fab := rfl
@[simp] theorem State.onLoft_twin (f : LoftSt → LoftSt) : (s.onLoft f).twin = s.twin := rfl
@[simp] theorem State.onLoft_loft (f : LoftSt → LoftSt) : (s.onLoft f).loft = f s.loft := rfl
@[simp] theorem State.onLoft_hbm (f : LoftSt → LoftSt) : (s.onLoft f).hbm = s.hbm := rfl
@[simp] theorem State.onLoft_vl (f : LoftSt → LoftSt) : (s.onLoft f).vl = s.vl := rfl
@[simp] theorem State.onLoft_cores (f : LoftSt → LoftSt) : (s.onLoft f).cores = s.cores := rfl
@[simp] theorem State.onLoft_press (f : LoftSt → LoftSt) : (s.onLoft f).press = s.press := rfl
@[simp] theorem State.onLoft_eng (f : LoftSt → LoftSt) : (s.onLoft f).eng = s.eng := rfl
@[simp] theorem State.onLoft_gate (f : LoftSt → LoftSt) : (s.onLoft f).gate = s.gate := rfl
@[simp] theorem State.onLoft_therm (f : LoftSt → LoftSt) : (s.onLoft f).therm = s.therm := rfl
@[simp] theorem State.onLoft_trust (f : LoftSt → LoftSt) : (s.onLoft f).trust = s.trust := rfl
@[simp] theorem State.onLoft_obs (f : LoftSt → LoftSt) : (s.onLoft f).obs = s.obs := rfl
@[simp] theorem State.onLoft_out (f : LoftSt → LoftSt) : (s.onLoft f).out = s.out := rfl
@[simp] theorem State.onLoft_pending (f : LoftSt → LoftSt) : (s.onLoft f).pending = s.pending := rfl

@[simp] theorem State.onHbm_nowNs (f : HbmSt → HbmSt) : (s.onHbm f).nowNs = s.nowNs := rfl
@[simp] theorem State.onHbm_freeCtr (f : HbmSt → HbmSt) : (s.onHbm f).freeCtr = s.freeCtr := rfl
@[simp] theorem State.onHbm_mod (f : HbmSt → HbmSt) : (s.onHbm f).mod = s.mod := rfl
@[simp] theorem State.onHbm_boot (f : HbmSt → HbmSt) : (s.onHbm f).boot = s.boot := rfl
@[simp] theorem State.onHbm_flash (f : HbmSt → HbmSt) : (s.onHbm f).flash = s.flash := rfl
@[simp] theorem State.onHbm_fuses (f : HbmSt → HbmSt) : (s.onHbm f).fuses = s.fuses := rfl
@[simp] theorem State.onHbm_host (f : HbmSt → HbmSt) : (s.onHbm f).host = s.host := rfl
@[simp] theorem State.onHbm_ev (f : HbmSt → HbmSt) : (s.onHbm f).ev = s.ev := rfl
@[simp] theorem State.onHbm_jobs (f : HbmSt → HbmSt) : (s.onHbm f).jobs = s.jobs := rfl
@[simp] theorem State.onHbm_fab (f : HbmSt → HbmSt) : (s.onHbm f).fab = s.fab := rfl
@[simp] theorem State.onHbm_twin (f : HbmSt → HbmSt) : (s.onHbm f).twin = s.twin := rfl
@[simp] theorem State.onHbm_loft (f : HbmSt → HbmSt) : (s.onHbm f).loft = s.loft := rfl
@[simp] theorem State.onHbm_hbm (f : HbmSt → HbmSt) : (s.onHbm f).hbm = f s.hbm := rfl
@[simp] theorem State.onHbm_vl (f : HbmSt → HbmSt) : (s.onHbm f).vl = s.vl := rfl
@[simp] theorem State.onHbm_cores (f : HbmSt → HbmSt) : (s.onHbm f).cores = s.cores := rfl
@[simp] theorem State.onHbm_press (f : HbmSt → HbmSt) : (s.onHbm f).press = s.press := rfl
@[simp] theorem State.onHbm_eng (f : HbmSt → HbmSt) : (s.onHbm f).eng = s.eng := rfl
@[simp] theorem State.onHbm_gate (f : HbmSt → HbmSt) : (s.onHbm f).gate = s.gate := rfl
@[simp] theorem State.onHbm_therm (f : HbmSt → HbmSt) : (s.onHbm f).therm = s.therm := rfl
@[simp] theorem State.onHbm_trust (f : HbmSt → HbmSt) : (s.onHbm f).trust = s.trust := rfl
@[simp] theorem State.onHbm_obs (f : HbmSt → HbmSt) : (s.onHbm f).obs = s.obs := rfl
@[simp] theorem State.onHbm_out (f : HbmSt → HbmSt) : (s.onHbm f).out = s.out := rfl
@[simp] theorem State.onHbm_pending (f : HbmSt → HbmSt) : (s.onHbm f).pending = s.pending := rfl

@[simp] theorem State.onVl_nowNs (f : VlSt → VlSt) : (s.onVl f).nowNs = s.nowNs := rfl
@[simp] theorem State.onVl_freeCtr (f : VlSt → VlSt) : (s.onVl f).freeCtr = s.freeCtr := rfl
@[simp] theorem State.onVl_mod (f : VlSt → VlSt) : (s.onVl f).mod = s.mod := rfl
@[simp] theorem State.onVl_boot (f : VlSt → VlSt) : (s.onVl f).boot = s.boot := rfl
@[simp] theorem State.onVl_flash (f : VlSt → VlSt) : (s.onVl f).flash = s.flash := rfl
@[simp] theorem State.onVl_fuses (f : VlSt → VlSt) : (s.onVl f).fuses = s.fuses := rfl
@[simp] theorem State.onVl_host (f : VlSt → VlSt) : (s.onVl f).host = s.host := rfl
@[simp] theorem State.onVl_ev (f : VlSt → VlSt) : (s.onVl f).ev = s.ev := rfl
@[simp] theorem State.onVl_jobs (f : VlSt → VlSt) : (s.onVl f).jobs = s.jobs := rfl
@[simp] theorem State.onVl_fab (f : VlSt → VlSt) : (s.onVl f).fab = s.fab := rfl
@[simp] theorem State.onVl_twin (f : VlSt → VlSt) : (s.onVl f).twin = s.twin := rfl
@[simp] theorem State.onVl_loft (f : VlSt → VlSt) : (s.onVl f).loft = s.loft := rfl
@[simp] theorem State.onVl_hbm (f : VlSt → VlSt) : (s.onVl f).hbm = s.hbm := rfl
@[simp] theorem State.onVl_vl (f : VlSt → VlSt) : (s.onVl f).vl = f s.vl := rfl
@[simp] theorem State.onVl_cores (f : VlSt → VlSt) : (s.onVl f).cores = s.cores := rfl
@[simp] theorem State.onVl_press (f : VlSt → VlSt) : (s.onVl f).press = s.press := rfl
@[simp] theorem State.onVl_eng (f : VlSt → VlSt) : (s.onVl f).eng = s.eng := rfl
@[simp] theorem State.onVl_gate (f : VlSt → VlSt) : (s.onVl f).gate = s.gate := rfl
@[simp] theorem State.onVl_therm (f : VlSt → VlSt) : (s.onVl f).therm = s.therm := rfl
@[simp] theorem State.onVl_trust (f : VlSt → VlSt) : (s.onVl f).trust = s.trust := rfl
@[simp] theorem State.onVl_obs (f : VlSt → VlSt) : (s.onVl f).obs = s.obs := rfl
@[simp] theorem State.onVl_out (f : VlSt → VlSt) : (s.onVl f).out = s.out := rfl
@[simp] theorem State.onVl_pending (f : VlSt → VlSt) : (s.onVl f).pending = s.pending := rfl

@[simp] theorem State.onCores_nowNs (f : CoresSt → CoresSt) : (s.onCores f).nowNs = s.nowNs := rfl
@[simp] theorem State.onCores_freeCtr (f : CoresSt → CoresSt) : (s.onCores f).freeCtr = s.freeCtr := rfl
@[simp] theorem State.onCores_mod (f : CoresSt → CoresSt) : (s.onCores f).mod = s.mod := rfl
@[simp] theorem State.onCores_boot (f : CoresSt → CoresSt) : (s.onCores f).boot = s.boot := rfl
@[simp] theorem State.onCores_flash (f : CoresSt → CoresSt) : (s.onCores f).flash = s.flash := rfl
@[simp] theorem State.onCores_fuses (f : CoresSt → CoresSt) : (s.onCores f).fuses = s.fuses := rfl
@[simp] theorem State.onCores_host (f : CoresSt → CoresSt) : (s.onCores f).host = s.host := rfl
@[simp] theorem State.onCores_ev (f : CoresSt → CoresSt) : (s.onCores f).ev = s.ev := rfl
@[simp] theorem State.onCores_jobs (f : CoresSt → CoresSt) : (s.onCores f).jobs = s.jobs := rfl
@[simp] theorem State.onCores_fab (f : CoresSt → CoresSt) : (s.onCores f).fab = s.fab := rfl
@[simp] theorem State.onCores_twin (f : CoresSt → CoresSt) : (s.onCores f).twin = s.twin := rfl
@[simp] theorem State.onCores_loft (f : CoresSt → CoresSt) : (s.onCores f).loft = s.loft := rfl
@[simp] theorem State.onCores_hbm (f : CoresSt → CoresSt) : (s.onCores f).hbm = s.hbm := rfl
@[simp] theorem State.onCores_vl (f : CoresSt → CoresSt) : (s.onCores f).vl = s.vl := rfl
@[simp] theorem State.onCores_cores (f : CoresSt → CoresSt) : (s.onCores f).cores = f s.cores := rfl
@[simp] theorem State.onCores_press (f : CoresSt → CoresSt) : (s.onCores f).press = s.press := rfl
@[simp] theorem State.onCores_eng (f : CoresSt → CoresSt) : (s.onCores f).eng = s.eng := rfl
@[simp] theorem State.onCores_gate (f : CoresSt → CoresSt) : (s.onCores f).gate = s.gate := rfl
@[simp] theorem State.onCores_therm (f : CoresSt → CoresSt) : (s.onCores f).therm = s.therm := rfl
@[simp] theorem State.onCores_trust (f : CoresSt → CoresSt) : (s.onCores f).trust = s.trust := rfl
@[simp] theorem State.onCores_obs (f : CoresSt → CoresSt) : (s.onCores f).obs = s.obs := rfl
@[simp] theorem State.onCores_out (f : CoresSt → CoresSt) : (s.onCores f).out = s.out := rfl
@[simp] theorem State.onCores_pending (f : CoresSt → CoresSt) : (s.onCores f).pending = s.pending := rfl

@[simp] theorem State.onPress_nowNs (f : PressSt → PressSt) : (s.onPress f).nowNs = s.nowNs := rfl
@[simp] theorem State.onPress_freeCtr (f : PressSt → PressSt) : (s.onPress f).freeCtr = s.freeCtr := rfl
@[simp] theorem State.onPress_mod (f : PressSt → PressSt) : (s.onPress f).mod = s.mod := rfl
@[simp] theorem State.onPress_boot (f : PressSt → PressSt) : (s.onPress f).boot = s.boot := rfl
@[simp] theorem State.onPress_flash (f : PressSt → PressSt) : (s.onPress f).flash = s.flash := rfl
@[simp] theorem State.onPress_fuses (f : PressSt → PressSt) : (s.onPress f).fuses = s.fuses := rfl
@[simp] theorem State.onPress_host (f : PressSt → PressSt) : (s.onPress f).host = s.host := rfl
@[simp] theorem State.onPress_ev (f : PressSt → PressSt) : (s.onPress f).ev = s.ev := rfl
@[simp] theorem State.onPress_jobs (f : PressSt → PressSt) : (s.onPress f).jobs = s.jobs := rfl
@[simp] theorem State.onPress_fab (f : PressSt → PressSt) : (s.onPress f).fab = s.fab := rfl
@[simp] theorem State.onPress_twin (f : PressSt → PressSt) : (s.onPress f).twin = s.twin := rfl
@[simp] theorem State.onPress_loft (f : PressSt → PressSt) : (s.onPress f).loft = s.loft := rfl
@[simp] theorem State.onPress_hbm (f : PressSt → PressSt) : (s.onPress f).hbm = s.hbm := rfl
@[simp] theorem State.onPress_vl (f : PressSt → PressSt) : (s.onPress f).vl = s.vl := rfl
@[simp] theorem State.onPress_cores (f : PressSt → PressSt) : (s.onPress f).cores = s.cores := rfl
@[simp] theorem State.onPress_press (f : PressSt → PressSt) : (s.onPress f).press = f s.press := rfl
@[simp] theorem State.onPress_eng (f : PressSt → PressSt) : (s.onPress f).eng = s.eng := rfl
@[simp] theorem State.onPress_gate (f : PressSt → PressSt) : (s.onPress f).gate = s.gate := rfl
@[simp] theorem State.onPress_therm (f : PressSt → PressSt) : (s.onPress f).therm = s.therm := rfl
@[simp] theorem State.onPress_trust (f : PressSt → PressSt) : (s.onPress f).trust = s.trust := rfl
@[simp] theorem State.onPress_obs (f : PressSt → PressSt) : (s.onPress f).obs = s.obs := rfl
@[simp] theorem State.onPress_out (f : PressSt → PressSt) : (s.onPress f).out = s.out := rfl
@[simp] theorem State.onPress_pending (f : PressSt → PressSt) : (s.onPress f).pending = s.pending := rfl

@[simp] theorem State.onEng_nowNs (f : EngSt → EngSt) : (s.onEng f).nowNs = s.nowNs := rfl
@[simp] theorem State.onEng_freeCtr (f : EngSt → EngSt) : (s.onEng f).freeCtr = s.freeCtr := rfl
@[simp] theorem State.onEng_mod (f : EngSt → EngSt) : (s.onEng f).mod = s.mod := rfl
@[simp] theorem State.onEng_boot (f : EngSt → EngSt) : (s.onEng f).boot = s.boot := rfl
@[simp] theorem State.onEng_flash (f : EngSt → EngSt) : (s.onEng f).flash = s.flash := rfl
@[simp] theorem State.onEng_fuses (f : EngSt → EngSt) : (s.onEng f).fuses = s.fuses := rfl
@[simp] theorem State.onEng_host (f : EngSt → EngSt) : (s.onEng f).host = s.host := rfl
@[simp] theorem State.onEng_ev (f : EngSt → EngSt) : (s.onEng f).ev = s.ev := rfl
@[simp] theorem State.onEng_jobs (f : EngSt → EngSt) : (s.onEng f).jobs = s.jobs := rfl
@[simp] theorem State.onEng_fab (f : EngSt → EngSt) : (s.onEng f).fab = s.fab := rfl
@[simp] theorem State.onEng_twin (f : EngSt → EngSt) : (s.onEng f).twin = s.twin := rfl
@[simp] theorem State.onEng_loft (f : EngSt → EngSt) : (s.onEng f).loft = s.loft := rfl
@[simp] theorem State.onEng_hbm (f : EngSt → EngSt) : (s.onEng f).hbm = s.hbm := rfl
@[simp] theorem State.onEng_vl (f : EngSt → EngSt) : (s.onEng f).vl = s.vl := rfl
@[simp] theorem State.onEng_cores (f : EngSt → EngSt) : (s.onEng f).cores = s.cores := rfl
@[simp] theorem State.onEng_press (f : EngSt → EngSt) : (s.onEng f).press = s.press := rfl
@[simp] theorem State.onEng_eng (f : EngSt → EngSt) : (s.onEng f).eng = f s.eng := rfl
@[simp] theorem State.onEng_gate (f : EngSt → EngSt) : (s.onEng f).gate = s.gate := rfl
@[simp] theorem State.onEng_therm (f : EngSt → EngSt) : (s.onEng f).therm = s.therm := rfl
@[simp] theorem State.onEng_trust (f : EngSt → EngSt) : (s.onEng f).trust = s.trust := rfl
@[simp] theorem State.onEng_obs (f : EngSt → EngSt) : (s.onEng f).obs = s.obs := rfl
@[simp] theorem State.onEng_out (f : EngSt → EngSt) : (s.onEng f).out = s.out := rfl
@[simp] theorem State.onEng_pending (f : EngSt → EngSt) : (s.onEng f).pending = s.pending := rfl

@[simp] theorem State.onGate_nowNs (f : GateSt → GateSt) : (s.onGate f).nowNs = s.nowNs := rfl
@[simp] theorem State.onGate_freeCtr (f : GateSt → GateSt) : (s.onGate f).freeCtr = s.freeCtr := rfl
@[simp] theorem State.onGate_mod (f : GateSt → GateSt) : (s.onGate f).mod = s.mod := rfl
@[simp] theorem State.onGate_boot (f : GateSt → GateSt) : (s.onGate f).boot = s.boot := rfl
@[simp] theorem State.onGate_flash (f : GateSt → GateSt) : (s.onGate f).flash = s.flash := rfl
@[simp] theorem State.onGate_fuses (f : GateSt → GateSt) : (s.onGate f).fuses = s.fuses := rfl
@[simp] theorem State.onGate_host (f : GateSt → GateSt) : (s.onGate f).host = s.host := rfl
@[simp] theorem State.onGate_ev (f : GateSt → GateSt) : (s.onGate f).ev = s.ev := rfl
@[simp] theorem State.onGate_jobs (f : GateSt → GateSt) : (s.onGate f).jobs = s.jobs := rfl
@[simp] theorem State.onGate_fab (f : GateSt → GateSt) : (s.onGate f).fab = s.fab := rfl
@[simp] theorem State.onGate_twin (f : GateSt → GateSt) : (s.onGate f).twin = s.twin := rfl
@[simp] theorem State.onGate_loft (f : GateSt → GateSt) : (s.onGate f).loft = s.loft := rfl
@[simp] theorem State.onGate_hbm (f : GateSt → GateSt) : (s.onGate f).hbm = s.hbm := rfl
@[simp] theorem State.onGate_vl (f : GateSt → GateSt) : (s.onGate f).vl = s.vl := rfl
@[simp] theorem State.onGate_cores (f : GateSt → GateSt) : (s.onGate f).cores = s.cores := rfl
@[simp] theorem State.onGate_press (f : GateSt → GateSt) : (s.onGate f).press = s.press := rfl
@[simp] theorem State.onGate_eng (f : GateSt → GateSt) : (s.onGate f).eng = s.eng := rfl
@[simp] theorem State.onGate_gate (f : GateSt → GateSt) : (s.onGate f).gate = f s.gate := rfl
@[simp] theorem State.onGate_therm (f : GateSt → GateSt) : (s.onGate f).therm = s.therm := rfl
@[simp] theorem State.onGate_trust (f : GateSt → GateSt) : (s.onGate f).trust = s.trust := rfl
@[simp] theorem State.onGate_obs (f : GateSt → GateSt) : (s.onGate f).obs = s.obs := rfl
@[simp] theorem State.onGate_out (f : GateSt → GateSt) : (s.onGate f).out = s.out := rfl
@[simp] theorem State.onGate_pending (f : GateSt → GateSt) : (s.onGate f).pending = s.pending := rfl

@[simp] theorem State.onTherm_nowNs (f : ThermSt → ThermSt) : (s.onTherm f).nowNs = s.nowNs := rfl
@[simp] theorem State.onTherm_freeCtr (f : ThermSt → ThermSt) : (s.onTherm f).freeCtr = s.freeCtr := rfl
@[simp] theorem State.onTherm_mod (f : ThermSt → ThermSt) : (s.onTherm f).mod = s.mod := rfl
@[simp] theorem State.onTherm_boot (f : ThermSt → ThermSt) : (s.onTherm f).boot = s.boot := rfl
@[simp] theorem State.onTherm_flash (f : ThermSt → ThermSt) : (s.onTherm f).flash = s.flash := rfl
@[simp] theorem State.onTherm_fuses (f : ThermSt → ThermSt) : (s.onTherm f).fuses = s.fuses := rfl
@[simp] theorem State.onTherm_host (f : ThermSt → ThermSt) : (s.onTherm f).host = s.host := rfl
@[simp] theorem State.onTherm_ev (f : ThermSt → ThermSt) : (s.onTherm f).ev = s.ev := rfl
@[simp] theorem State.onTherm_jobs (f : ThermSt → ThermSt) : (s.onTherm f).jobs = s.jobs := rfl
@[simp] theorem State.onTherm_fab (f : ThermSt → ThermSt) : (s.onTherm f).fab = s.fab := rfl
@[simp] theorem State.onTherm_twin (f : ThermSt → ThermSt) : (s.onTherm f).twin = s.twin := rfl
@[simp] theorem State.onTherm_loft (f : ThermSt → ThermSt) : (s.onTherm f).loft = s.loft := rfl
@[simp] theorem State.onTherm_hbm (f : ThermSt → ThermSt) : (s.onTherm f).hbm = s.hbm := rfl
@[simp] theorem State.onTherm_vl (f : ThermSt → ThermSt) : (s.onTherm f).vl = s.vl := rfl
@[simp] theorem State.onTherm_cores (f : ThermSt → ThermSt) : (s.onTherm f).cores = s.cores := rfl
@[simp] theorem State.onTherm_press (f : ThermSt → ThermSt) : (s.onTherm f).press = s.press := rfl
@[simp] theorem State.onTherm_eng (f : ThermSt → ThermSt) : (s.onTherm f).eng = s.eng := rfl
@[simp] theorem State.onTherm_gate (f : ThermSt → ThermSt) : (s.onTherm f).gate = s.gate := rfl
@[simp] theorem State.onTherm_therm (f : ThermSt → ThermSt) : (s.onTherm f).therm = f s.therm := rfl
@[simp] theorem State.onTherm_trust (f : ThermSt → ThermSt) : (s.onTherm f).trust = s.trust := rfl
@[simp] theorem State.onTherm_obs (f : ThermSt → ThermSt) : (s.onTherm f).obs = s.obs := rfl
@[simp] theorem State.onTherm_out (f : ThermSt → ThermSt) : (s.onTherm f).out = s.out := rfl
@[simp] theorem State.onTherm_pending (f : ThermSt → ThermSt) : (s.onTherm f).pending = s.pending := rfl

@[simp] theorem State.onTrust_nowNs (f : TrustSt → TrustSt) : (s.onTrust f).nowNs = s.nowNs := rfl
@[simp] theorem State.onTrust_freeCtr (f : TrustSt → TrustSt) : (s.onTrust f).freeCtr = s.freeCtr := rfl
@[simp] theorem State.onTrust_mod (f : TrustSt → TrustSt) : (s.onTrust f).mod = s.mod := rfl
@[simp] theorem State.onTrust_boot (f : TrustSt → TrustSt) : (s.onTrust f).boot = s.boot := rfl
@[simp] theorem State.onTrust_flash (f : TrustSt → TrustSt) : (s.onTrust f).flash = s.flash := rfl
@[simp] theorem State.onTrust_fuses (f : TrustSt → TrustSt) : (s.onTrust f).fuses = s.fuses := rfl
@[simp] theorem State.onTrust_host (f : TrustSt → TrustSt) : (s.onTrust f).host = s.host := rfl
@[simp] theorem State.onTrust_ev (f : TrustSt → TrustSt) : (s.onTrust f).ev = s.ev := rfl
@[simp] theorem State.onTrust_jobs (f : TrustSt → TrustSt) : (s.onTrust f).jobs = s.jobs := rfl
@[simp] theorem State.onTrust_fab (f : TrustSt → TrustSt) : (s.onTrust f).fab = s.fab := rfl
@[simp] theorem State.onTrust_twin (f : TrustSt → TrustSt) : (s.onTrust f).twin = s.twin := rfl
@[simp] theorem State.onTrust_loft (f : TrustSt → TrustSt) : (s.onTrust f).loft = s.loft := rfl
@[simp] theorem State.onTrust_hbm (f : TrustSt → TrustSt) : (s.onTrust f).hbm = s.hbm := rfl
@[simp] theorem State.onTrust_vl (f : TrustSt → TrustSt) : (s.onTrust f).vl = s.vl := rfl
@[simp] theorem State.onTrust_cores (f : TrustSt → TrustSt) : (s.onTrust f).cores = s.cores := rfl
@[simp] theorem State.onTrust_press (f : TrustSt → TrustSt) : (s.onTrust f).press = s.press := rfl
@[simp] theorem State.onTrust_eng (f : TrustSt → TrustSt) : (s.onTrust f).eng = s.eng := rfl
@[simp] theorem State.onTrust_gate (f : TrustSt → TrustSt) : (s.onTrust f).gate = s.gate := rfl
@[simp] theorem State.onTrust_therm (f : TrustSt → TrustSt) : (s.onTrust f).therm = s.therm := rfl
@[simp] theorem State.onTrust_trust (f : TrustSt → TrustSt) : (s.onTrust f).trust = f s.trust := rfl
@[simp] theorem State.onTrust_obs (f : TrustSt → TrustSt) : (s.onTrust f).obs = s.obs := rfl
@[simp] theorem State.onTrust_out (f : TrustSt → TrustSt) : (s.onTrust f).out = s.out := rfl
@[simp] theorem State.onTrust_pending (f : TrustSt → TrustSt) : (s.onTrust f).pending = s.pending := rfl

@[simp] theorem State.onObs_nowNs (f : ObsSt → ObsSt) : (s.onObs f).nowNs = s.nowNs := rfl
@[simp] theorem State.onObs_freeCtr (f : ObsSt → ObsSt) : (s.onObs f).freeCtr = s.freeCtr := rfl
@[simp] theorem State.onObs_mod (f : ObsSt → ObsSt) : (s.onObs f).mod = s.mod := rfl
@[simp] theorem State.onObs_boot (f : ObsSt → ObsSt) : (s.onObs f).boot = s.boot := rfl
@[simp] theorem State.onObs_flash (f : ObsSt → ObsSt) : (s.onObs f).flash = s.flash := rfl
@[simp] theorem State.onObs_fuses (f : ObsSt → ObsSt) : (s.onObs f).fuses = s.fuses := rfl
@[simp] theorem State.onObs_host (f : ObsSt → ObsSt) : (s.onObs f).host = s.host := rfl
@[simp] theorem State.onObs_ev (f : ObsSt → ObsSt) : (s.onObs f).ev = s.ev := rfl
@[simp] theorem State.onObs_jobs (f : ObsSt → ObsSt) : (s.onObs f).jobs = s.jobs := rfl
@[simp] theorem State.onObs_fab (f : ObsSt → ObsSt) : (s.onObs f).fab = s.fab := rfl
@[simp] theorem State.onObs_twin (f : ObsSt → ObsSt) : (s.onObs f).twin = s.twin := rfl
@[simp] theorem State.onObs_loft (f : ObsSt → ObsSt) : (s.onObs f).loft = s.loft := rfl
@[simp] theorem State.onObs_hbm (f : ObsSt → ObsSt) : (s.onObs f).hbm = s.hbm := rfl
@[simp] theorem State.onObs_vl (f : ObsSt → ObsSt) : (s.onObs f).vl = s.vl := rfl
@[simp] theorem State.onObs_cores (f : ObsSt → ObsSt) : (s.onObs f).cores = s.cores := rfl
@[simp] theorem State.onObs_press (f : ObsSt → ObsSt) : (s.onObs f).press = s.press := rfl
@[simp] theorem State.onObs_eng (f : ObsSt → ObsSt) : (s.onObs f).eng = s.eng := rfl
@[simp] theorem State.onObs_gate (f : ObsSt → ObsSt) : (s.onObs f).gate = s.gate := rfl
@[simp] theorem State.onObs_therm (f : ObsSt → ObsSt) : (s.onObs f).therm = s.therm := rfl
@[simp] theorem State.onObs_trust (f : ObsSt → ObsSt) : (s.onObs f).trust = s.trust := rfl
@[simp] theorem State.onObs_obs (f : ObsSt → ObsSt) : (s.onObs f).obs = f s.obs := rfl
@[simp] theorem State.onObs_out (f : ObsSt → ObsSt) : (s.onObs f).out = s.out := rfl
@[simp] theorem State.onObs_pending (f : ObsSt → ObsSt) : (s.onObs f).pending = s.pending := rfl

@[simp] theorem State.emit_nowNs (o : Out) : (s.emit o).nowNs = s.nowNs := rfl
@[simp] theorem State.emit_freeCtr (o : Out) : (s.emit o).freeCtr = s.freeCtr := rfl
@[simp] theorem State.emit_mod (o : Out) : (s.emit o).mod = s.mod := rfl
@[simp] theorem State.emit_boot (o : Out) : (s.emit o).boot = s.boot := rfl
@[simp] theorem State.emit_flash (o : Out) : (s.emit o).flash = s.flash := rfl
@[simp] theorem State.emit_fuses (o : Out) : (s.emit o).fuses = s.fuses := rfl
@[simp] theorem State.emit_host (o : Out) : (s.emit o).host = s.host := rfl
@[simp] theorem State.emit_ev (o : Out) : (s.emit o).ev = s.ev := rfl
@[simp] theorem State.emit_jobs (o : Out) : (s.emit o).jobs = s.jobs := rfl
@[simp] theorem State.emit_fab (o : Out) : (s.emit o).fab = s.fab := rfl
@[simp] theorem State.emit_twin (o : Out) : (s.emit o).twin = s.twin := rfl
@[simp] theorem State.emit_loft (o : Out) : (s.emit o).loft = s.loft := rfl
@[simp] theorem State.emit_hbm (o : Out) : (s.emit o).hbm = s.hbm := rfl
@[simp] theorem State.emit_vl (o : Out) : (s.emit o).vl = s.vl := rfl
@[simp] theorem State.emit_cores (o : Out) : (s.emit o).cores = s.cores := rfl
@[simp] theorem State.emit_press (o : Out) : (s.emit o).press = s.press := rfl
@[simp] theorem State.emit_eng (o : Out) : (s.emit o).eng = s.eng := rfl
@[simp] theorem State.emit_gate (o : Out) : (s.emit o).gate = s.gate := rfl
@[simp] theorem State.emit_therm (o : Out) : (s.emit o).therm = s.therm := rfl
@[simp] theorem State.emit_trust (o : Out) : (s.emit o).trust = s.trust := rfl
@[simp] theorem State.emit_obs (o : Out) : (s.emit o).obs = s.obs := rfl
@[simp] theorem State.emit_out (o : Out) : (s.emit o).out = s.out ++ [o] := rfl
@[simp] theorem State.emit_pending (o : Out) : (s.emit o).pending = s.pending := rfl

@[simp] theorem State.timeTo_nowNs (t : Nat) : (s.timeTo t).nowNs = max s.nowNs t := rfl
@[simp] theorem State.timeTo_freeCtr (t : Nat) : (s.timeTo t).freeCtr = s.freeCtr := rfl
@[simp] theorem State.timeTo_mod (t : Nat) : (s.timeTo t).mod = s.mod := rfl
@[simp] theorem State.timeTo_boot (t : Nat) : (s.timeTo t).boot = s.boot := rfl
@[simp] theorem State.timeTo_flash (t : Nat) : (s.timeTo t).flash = s.flash := rfl
@[simp] theorem State.timeTo_fuses (t : Nat) : (s.timeTo t).fuses = s.fuses := rfl
@[simp] theorem State.timeTo_host (t : Nat) : (s.timeTo t).host = s.host := rfl
@[simp] theorem State.timeTo_ev (t : Nat) : (s.timeTo t).ev = s.ev := rfl
@[simp] theorem State.timeTo_jobs (t : Nat) : (s.timeTo t).jobs = s.jobs := rfl
@[simp] theorem State.timeTo_fab (t : Nat) : (s.timeTo t).fab = s.fab := rfl
@[simp] theorem State.timeTo_twin (t : Nat) : (s.timeTo t).twin = s.twin := rfl
@[simp] theorem State.timeTo_loft (t : Nat) : (s.timeTo t).loft = s.loft := rfl
@[simp] theorem State.timeTo_hbm (t : Nat) : (s.timeTo t).hbm = s.hbm := rfl
@[simp] theorem State.timeTo_vl (t : Nat) : (s.timeTo t).vl = s.vl := rfl
@[simp] theorem State.timeTo_cores (t : Nat) : (s.timeTo t).cores = s.cores := rfl
@[simp] theorem State.timeTo_press (t : Nat) : (s.timeTo t).press = s.press := rfl
@[simp] theorem State.timeTo_eng (t : Nat) : (s.timeTo t).eng = s.eng := rfl
@[simp] theorem State.timeTo_gate (t : Nat) : (s.timeTo t).gate = s.gate := rfl
@[simp] theorem State.timeTo_therm (t : Nat) : (s.timeTo t).therm = s.therm := rfl
@[simp] theorem State.timeTo_trust (t : Nat) : (s.timeTo t).trust = s.trust := rfl
@[simp] theorem State.timeTo_obs (t : Nat) : (s.timeTo t).obs = s.obs := rfl
@[simp] theorem State.timeTo_out (t : Nat) : (s.timeTo t).out = s.out := rfl
@[simp] theorem State.timeTo_pending (t : Nat) : (s.timeTo t).pending = s.pending := rfl

@[simp] theorem State.draw_nowNs : s.draw.nowNs = s.nowNs := rfl
@[simp] theorem State.draw_freeCtr : s.draw.freeCtr = s.freeCtr + 1 := rfl
@[simp] theorem State.draw_mod : s.draw.mod = s.mod := rfl
@[simp] theorem State.draw_boot : s.draw.boot = s.boot := rfl
@[simp] theorem State.draw_flash : s.draw.flash = s.flash := rfl
@[simp] theorem State.draw_fuses : s.draw.fuses = s.fuses := rfl
@[simp] theorem State.draw_host : s.draw.host = s.host := rfl
@[simp] theorem State.draw_ev : s.draw.ev = s.ev := rfl
@[simp] theorem State.draw_jobs : s.draw.jobs = s.jobs := rfl
@[simp] theorem State.draw_fab : s.draw.fab = s.fab := rfl
@[simp] theorem State.draw_twin : s.draw.twin = s.twin := rfl
@[simp] theorem State.draw_loft : s.draw.loft = s.loft := rfl
@[simp] theorem State.draw_hbm : s.draw.hbm = s.hbm := rfl
@[simp] theorem State.draw_vl : s.draw.vl = s.vl := rfl
@[simp] theorem State.draw_cores : s.draw.cores = s.cores := rfl
@[simp] theorem State.draw_press : s.draw.press = s.press := rfl
@[simp] theorem State.draw_eng : s.draw.eng = s.eng := rfl
@[simp] theorem State.draw_gate : s.draw.gate = s.gate := rfl
@[simp] theorem State.draw_therm : s.draw.therm = s.therm := rfl
@[simp] theorem State.draw_trust : s.draw.trust = s.trust := rfl
@[simp] theorem State.draw_obs : s.draw.obs = s.obs := rfl
@[simp] theorem State.draw_out : s.draw.out = s.out := rfl
@[simp] theorem State.draw_pending : s.draw.pending = s.pending := rfl

@[simp] theorem State.onJob_jobs (id : Nat) (f : Job → Job) : (s.onJob id f).jobs = { s.jobs with jobs := tabMod s.jobs.jobs id f } := rfl
@[simp] theorem State.onJob_nowNs (id : Nat) (f : Job → Job) : (s.onJob id f).nowNs = s.nowNs := rfl
@[simp] theorem State.onJob_freeCtr (id : Nat) (f : Job → Job) : (s.onJob id f).freeCtr = s.freeCtr := rfl
@[simp] theorem State.onJob_mod (id : Nat) (f : Job → Job) : (s.onJob id f).mod = s.mod := rfl
@[simp] theorem State.onJob_boot (id : Nat) (f : Job → Job) : (s.onJob id f).boot = s.boot := rfl
@[simp] theorem State.onJob_flash (id : Nat) (f : Job → Job) : (s.onJob id f).flash = s.flash := rfl
@[simp] theorem State.onJob_fuses (id : Nat) (f : Job → Job) : (s.onJob id f).fuses = s.fuses := rfl
@[simp] theorem State.onJob_host (id : Nat) (f : Job → Job) : (s.onJob id f).host = s.host := rfl
@[simp] theorem State.onJob_ev (id : Nat) (f : Job → Job) : (s.onJob id f).ev = s.ev := rfl
@[simp] theorem State.onJob_fab (id : Nat) (f : Job → Job) : (s.onJob id f).fab = s.fab := rfl
@[simp] theorem State.onJob_twin (id : Nat) (f : Job → Job) : (s.onJob id f).twin = s.twin := rfl
@[simp] theorem State.onJob_loft (id : Nat) (f : Job → Job) : (s.onJob id f).loft = s.loft := rfl
@[simp] theorem State.onJob_hbm (id : Nat) (f : Job → Job) : (s.onJob id f).hbm = s.hbm := rfl
@[simp] theorem State.onJob_vl (id : Nat) (f : Job → Job) : (s.onJob id f).vl = s.vl := rfl
@[simp] theorem State.onJob_cores (id : Nat) (f : Job → Job) : (s.onJob id f).cores = s.cores := rfl
@[simp] theorem State.onJob_press (id : Nat) (f : Job → Job) : (s.onJob id f).press = s.press := rfl
@[simp] theorem State.onJob_eng (id : Nat) (f : Job → Job) : (s.onJob id f).eng = s.eng := rfl
@[simp] theorem State.onJob_gate (id : Nat) (f : Job → Job) : (s.onJob id f).gate = s.gate := rfl
@[simp] theorem State.onJob_therm (id : Nat) (f : Job → Job) : (s.onJob id f).therm = s.therm := rfl
@[simp] theorem State.onJob_trust (id : Nat) (f : Job → Job) : (s.onJob id f).trust = s.trust := rfl
@[simp] theorem State.onJob_obs (id : Nat) (f : Job → Job) : (s.onJob id f).obs = s.obs := rfl
@[simp] theorem State.onJob_out (id : Nat) (f : Job → Job) : (s.onJob id f).out = s.out := rfl
@[simp] theorem State.onJob_pending (id : Nat) (f : Job → Job) : (s.onJob id f).pending = s.pending := rfl

end Sys2Proof.Machine
end

