-- ==== Sys2Proof/Laws/Cores.lean ====
section
/-! SUPPORT. Laws of the cores: what issuing does where its conditions hold, when checks pass, what changing a core, a gang or a crew
leaves alone. -/

namespace Sys2Proof.Machine

/-! ### Issue and checks -/

/-- A fragment that meets the conditions runs the instruction's body. -/
theorem issue_eq {s : State} {g : FragRef} {rs us ps : List Nat} {a : Act} {s1 : State} (h : Issues s g rs us ps a s1)
    (body : Act → State → State) : issue g rs us ps body s = body a s1 := by
  obtain ⟨h0, h1, ht, h2, h3, h4, h5, rfl⟩ := h
  have e1 : us.any (fun u => decide (63 < u)) = false := by simpa using h3
  have e2 : ps.any (fun p => decide (7 < p)) = false := by simpa using h4
  have e3 : rs.any (fun r => decide (a.crew.kernel.regs ≤ r)) = false := by simpa using h5
  simp [issue, h0, h1, h2, ht, e1, e2, e3]

theorem issueUniform_eq {s : State} {g : FragRef} {ss : List Src} {a : Act} {s1 : State} (h : IssuesUniform s g ss a s1)
    (body : Act → State → State) : issueUniform g ss body s = body a s1 := by
  unfold issueUniform
  rw [issue_eq h.1]
  simp [h.2]

theorem issueMatrix_eq {s : State} {g : FragRef} {us : List Nat} {a : Act} {s1 : State} (h : IssuesMatrix s g us a s1)
    (body : Act → State → State) : issueMatrix g us body s = body a s1 := by
  unfold issueMatrix
  rw [issue_eq h.1]
  simp [h.2.1, h.2.2]

/-- A fragment that waits, its satisfied fences apart, issues nothing. -/
theorem issue_waiting {s : State} {g : FragRef} {rs us ps : List Nat} {a : Act} (h : actAt (wakeFences g s) g = some a)
    (hw : fragReady (wakeFences g s) a = false) (body : Act → State → State) : issue g rs us ps body s = s := by
  simp [issue, h, hw]

/-- A fragment without its quarter's turn issues nothing. -/
theorem issue_no_turn {s : State} {g : FragRef} {rs us ps : List Nat} {a : Act} (h : actAt (wakeFences g s) g = some a)
    (hw : hasTurn (wakeFences g s) a = false) (body : Act → State → State) : issue g rs us ps body s = s := by
  simp [issue, h, hw]

/-- Where no fragment of the gang waits at a fence nothing wakes. -/
theorem wakeFences_none {s : State} {g : FragRef} {y : Gang} (h : tabGet (coreAt s g.core).gangs (gangKey g) = some y)
    (hf : ∀ f ∈ y.frags, ∀ scope ids, f.2.wait ≠ .fence scope ids) : wakeFences g s = s := by
  simp only [wakeFences, h]
  refine if_neg (fun h5 => ?_)
  obtain ⟨f, hfm, h6⟩ := List.any_eq_true.mp h5
  have := hf f hfm
  split at h6 <;> simp_all

/-- With no poisoned source nothing faults. -/
theorem consume_clean {a : Act} {ss : List Src} (h : Clean a ss) (k s : State) : consume a ss k s = k := by
  have : (lanesOf a.frag.mask).filter (fun l => ss.any (srcPoison a.gang l)) = [] := by
    rw [List.filter_eq_nil_iff]
    intro l hl
    simpa using fun x hx => h l hl x hx
  simp [consume, this]

/-- A poisoned source faults, in the lanes that take one. -/
theorem consume_dirty {a : Act} {ss : List Src} (h : ¬Clean a ss) (k s : State) :
    consume a ss k s = coreFault a evPoisonConsumed (maskOf ((lanesOf a.frag.mask).filter (fun l => ss.any (srcPoison a.gang l)))) 0 s := by
  have : (lanesOf a.frag.mask).filter (fun l => ss.any (srcPoison a.gang l)) ≠ [] := by
    intro h5
    refine h (fun l hl w hw => ?_)
    rw [List.filter_eq_nil_iff] at h5
    simpa using (List.any_eq_false.mp (by simpa using h5 l hl)) w hw
  unfold consume
  exact if_neg this

theorem localChecked_ok {a : Act} {w : Nat} {addr : Nat → Nat} (h : LocalOk a w addr) (k s : State) : localChecked a w addr k s = k := by
  have e1 : (lanesOf a.frag.mask).filter (fun l => decide (addr l % w ≠ 0)) = [] := by
    rw [List.filter_eq_nil_iff]
    intro l hl
    simpa using (h.2 l hl).1
  have e2 : (lanesOf a.frag.mask).filter (fun l => decide (a.crew.kernel.localKib * 1024 < addr l + w)) = [] := by
    rw [List.filter_eq_nil_iff]
    intro l hl
    simpa using (h.2 l hl).2
  simp only [localChecked, h.1, e1, e2]
  simp

theorem globalChecked_ok {s : State} {a : Act} {kind w : Nat} {addr : Nat → Nat} (h : GlobalOk s a kind w addr) (k : State) :
    globalChecked a kind w addr k s = k := by
  have e1 : (lanesOf a.frag.mask).filter (fun l => decide (addr l % w ≠ 0)) = [] := by
    rw [List.filter_eq_nil_iff]
    intro l hl
    simpa using (h l hl).1
  have e2 : (lanesOf a.frag.mask).filterMap (fun l => (accessCause s a kind (addr l) w).map (fun c => (l, c))) = [] := by
    rw [List.filterMap_eq_nil_iff]
    intro l hl
    simp [(h l hl).2]
  simp only [globalChecked, e1, e2]
  simp

/-! ### Changing a core -/

/-- Parts of the state a change of a core leaves alone, said at once. -/
theorem onCore_eq (c : Nat) (f : Core → Core) (s : State) :
    onCore c f s = { s with cores := { s.cores with cores := tabPut s.cores.cores c (f (coreAt s c)) } } := rfl

@[simp] theorem coreAt_onCore_self (c : Nat) (f : Core → Core) (s : State) : coreAt (onCore c f s) c = f (coreAt s c) := by
  simp [coreAt, onCore, tabGetD]

theorem coreAt_onCore (c k : Nat) (f : Core → Core) (s : State) : coreAt (onCore c f s) k = if k = c then f (coreAt s k) else coreAt s k := by
  by_cases h : k = c
  · subst h
    simp
  · simp [coreAt, onCore, tabGetD, tabGet_tabPut_ne _ _ _ _ h, h]

/-- Value at a key after a change at a key. -/
theorem tabGet_tabMod {α : Type} (m : Tab α) (k i : Nat) (f : α → α) :
    tabGet (tabMod m k f) i = if i = k then (tabGet m i).map f else tabGet m i := by
  unfold tabMod
  by_cases h : i = k
  · subst h
    cases e : tabGet m i <;> simp [e]
  · cases e : tabGet m k <;> simp [h, tabGet_tabPut_ne]

/-- Other gangs of every core stay. -/
theorem gang_onGang (g : FragRef) (f : Gang → Gang) (s : State) (k : Nat) :
    tabGet (coreAt (onGang g f s) g.core).gangs k = if k = gangKey g then (tabGet (coreAt s g.core).gangs k).map f
      else tabGet (coreAt s g.core).gangs k := by
  simp [onGang, tabGet_tabMod]

/-- A register set reads back; every other register stays. -/
theorem regVal_setReg (lane r l q : Nat) (v : W32) (pz : Bool) (g : Gang) (hr : r < 256) (hq : q < 256) :
    regVal (setReg lane r v pz g) l q = if l = lane ∧ q = r then v else regVal g l q := by
  unfold regVal setReg tabGetD
  rw [tabGet_tabPut]
  by_cases h : l = lane ∧ q = r
  · simp [h]
  · have : ¬ l * 256 + q = lane * 256 + r := by omega
    simp [h, this]

/-- Settling a gang moves fragments only: registers, uniform registers and predicates stay. -/
theorem settleGang_frame (g : Gang) :
    (settleGang g).regs = g.regs ∧ (settleGang g).uregs = g.uregs ∧ (settleGang g).preds = g.preds ∧ (settleGang g).poison = g.poison := by
  have step : ∀ (id : Nat) (x : Gang), (reconverge id x).regs = x.regs ∧ (reconverge id x).uregs = x.uregs
      ∧ (reconverge id x).preds = x.preds ∧ (reconverge id x).poison = x.poison := by
    intro id x
    unfold reconverge
    split
    · simp
    · split <;> simp
  have fold : ∀ (ids : List Nat) (x : Gang), (ids.foldl (fun y id => reconverge id y) x).regs = x.regs
      ∧ (ids.foldl (fun y id => reconverge id y) x).uregs = x.uregs ∧ (ids.foldl (fun y id => reconverge id y) x).preds = x.preds
      ∧ (ids.foldl (fun y id => reconverge id y) x).poison = x.poison := by
    intro ids
    induction ids with
    | nil => simp
    | cons i is ih => intro x; simpa [step i x] using ih (reconverge i x)
  exact fold _ g

/-! ### Local memory -/

/-- Bytes stored in local memory read back; every other byte stays. -/
theorem lmemByte_lmemWrite (off : Nat) (bs : List Byte) (pz : Bool) (c : Crew) (i : Nat) :
    lmemByte (lmemWrite off bs pz c) i = if h : off ≤ i ∧ i < off + bs.length then bs[i - off]'(by omega) else lmemByte c i := by
  have fold : ∀ (xs : List Byte) (o : Nat) (m : Tab Byte),
      tabGet ((xs.mapIdx (fun i b => (o + i, b))).foldl (fun m p => tabPut m p.1 p.2) m) i =
        if h : o ≤ i ∧ i < o + xs.length then some (xs[i - o]'(by omega)) else tabGet m i := by
    intro xs
    induction xs with
    | nil => intro o m; simp
    | cons b xs ih =>
      intro o m
      have e : (List.mapIdx (fun i b => (o + i, b)) (b :: xs)) = (o, b) :: xs.mapIdx (fun i b => (o + 1 + i, b)) := by
        rw [List.mapIdx_cons]
        simp [Nat.add_assoc, Nat.add_comm 1]
      rw [e, List.foldl_cons, ih (o + 1)]
      by_cases h1 : i = o
      · subst h1
        simp
      · by_cases h2 : o + 1 ≤ i ∧ i < o + 1 + xs.length
        · have e2 : i - o = (i - (o + 1)) + 1 := by omega
          have e3 : o ≤ i ∧ i < o + (b :: xs).length := by simp; omega
          rw [dif_pos h2, dif_pos e3]
          simp [e2]
        · have e3 : ¬ (o ≤ i ∧ i < o + (b :: xs).length) := by simp; omega
          rw [dif_neg h2, dif_neg e3, tabGet_tabPut_ne _ _ _ _ h1]
  unfold lmemWrite
  by_cases hb : bs = []
  · subst hb
    simp
  · simp only [hb, if_false, lmemByte, fold]
    split <;> simp

/-- An open order holds the same lanes, each once. -/
theorem openOrder_perm {α : Type} (n : Nat) (ls : List α) : (openOrder n ls).Perm ls := by
  induction ls with
  | nil => exact .nil
  | cons x xs ih =>
    simp only [openOrder]
    exact List.perm_middle.trans (.cons x (by simpa using ih))

/-- One lane has one order. -/
@[simp] theorem openOrder_single {α : Type} (n : Nat) (x : α) : openOrder n [x] = [x] := by simp [openOrder, Nat.mod_one]

end Sys2Proof.Machine
end

