-- ==== Sys2Proof/Machine/Window.lean ====
section
/-! DEFINITION. What a host read of BAR0 or of the configuration space, or a chassis read over I3C, returns. No row of the command table is
such a read, which changes nothing: these are the views that the states show (12_host.md R354, R355, R357, R358; 16_observe.md R467;
17_module.md R483). -/

namespace Sys2Proof.Machine

/-- A register of 8 bytes or a block at an offset: its bytes there. -/
structure Bar0Part where
  at_ : Nat
  bytes : List Byte
deriving DecidableEq, Repr

/-- The parts of BAR0 but for the mailboxes and the snapshot window (Table 12.3). DEV_RESET is write only; it reads 0 here, as an offset not
listed does (DESIGN CHOICE, log 70). -/
def bar0Parts (s : State) : List Bar0Part :=
  [⟨0x40000, leBytes s.host.own.toNat 8⟩, ⟨0x40008, leBytes s.host.doneSum.toNat 8⟩, ⟨0x50000, statusBlock s⟩,
   ⟨0x60000, memRead s.host.msixTable 0 0x800⟩, ⟨0x68000, leBytes s.host.msixPba.toNat 16⟩]

/-- A byte of BAR0: offsets not listed read 0. -/
def bar0Byte (s : State) (off : Nat) : Byte :=
  if off < 0x40000 then mbByte s (off / 0x1000) (off % 0x1000)
  else if 0x100000 ≤ off then (if off < 0x4000000 then memGet s.obs.snap (off - 0x100000) else 0#8)
  else match (bar0Parts s).find? (fun p => decide (p.at_ ≤ off ∧ off < p.at_ + p.bytes.length)) with
    | some p => p.bytes.getD (off - p.at_) 0#8
    | none => 0#8

/-- A host read of BAR0, one consistent value; none is Unsupported Request. -/
def bar0Read (s : State) (off n : Nat) : Option (List Byte) :=
  if barOk s then some ((List.range n).map (fun i => bar0Byte s (off + i))) else none

/-- A private read over I3C at the module's dynamic address: the telemetry registers from an offset on, 0 beyond them (R483); none where
nothing answers. -/
def i3cRead (s : State) (off n : Nat) : Option (List Byte) :=
  if s.mod.i3cAddr.isSome ∧ s.mod.input ≠ .off then some ((List.range n).map (fun i => s.mod.telem.getD (off + i) 0#8)) else none

/-- Subsystem ID: 0x0001 for AZ9-1280-L, 0x0002 for AZ9-1280-LX, as SCREEN of Table 0.3 tells them apart. -/
def subsystemId (s : State) : Nat := s.fuses.screen + 1

/-- The fields of the configuration space whose values Table 12.2 gives, at their offsets; those of the Type 0 header and of
the capabilities that Table 12.2 does not lay out are where the PCI Express Base Specification has them (PRESUMED, log 70). -/
def configFields (s : State) : List Bar0Part :=
  let p := s.host.pcie
  [⟨0x000, leBytes 0x2A7D 2⟩, ⟨0x002, leBytes 0x5A09 2⟩, ⟨0x004, leBytes (p.memSpace.toNat * 2 + p.busMaster.toNat * 4) 2⟩, ⟨0x008, leBytes s.fuses.stepping 1⟩, ⟨0x009, leBytes 0x120000 3⟩,
   ⟨0x02C, leBytes 0x2A7D 2⟩, ⟨0x02E, leBytes (subsystemId s) 2⟩, ⟨0x044, leBytes (p.d3hot.toNat * 3 + 8) 2⟩,
   ⟨0x052, leBytes (127 + p.msixMask.toNat * 2 ^ 14 + p.msixEnable.toNat * 2 ^ 15) 2⟩, ⟨0x054, leBytes 0x60000 4⟩, ⟨0x058, leBytes 0x68000 4⟩,
   ⟨0x104, leBytes (p.aerPoisoned.toNat * 2 ^ aerPoisonBit) 4⟩, ⟨0x14C, leBytes s.fuses.serial 8⟩,
   ⟨0x304, leBytes (63 * 2 ^ 20) 4⟩, ⟨0x308, leBytes (2 + 2 ^ 5 + (10 + Nat.log2 p.bar2Gib) * 2 ^ 8) 4⟩,
   ⟨0x404, leBytes 0x2A7D 2⟩, ⟨0x408, leBytes 0x0001 2⟩, ⟨0x40A, leBytes 0 1⟩, ⟨0x40C, leBytes 0x50000 4⟩, ⟨0x410, leBytes (abi s) 2⟩]

end Sys2Proof.Machine
end

