-- ==== Sys2Proof/WellFormed.lean ====
section
/-! DEFINITION. Operands that a command of the table can carry: mailboxes, ports, cores, registers, stacks and the rest within the
numbers the manual gives them. Every meaning is total; a command outside these bounds names nothing the device has. -/

namespace Sys2Proof

/-- A fragment's place: 256 cores, 16 crew slots, 32 gangs a crew, 32 fragments a gang (R71, R72, R86). -/
def fragOk (g : FragRef) : Bool := decide (g.core < 256 ∧ g.slot < 16 ∧ g.gang < 32 ∧ g.frag < 32)

/-- A register operand in range: 256 lane registers, 64 uniform registers (R71). -/
def srcOk : Src → Bool
  | .reg r => decide (r < 256)
  | .ureg u => decide (u < 64)
  | .imm _ => true

/-- Bond groups of each interface of a tower (Table 1.3). -/
def ifaceGroups (iface : Nat) : Nat := [1280, 1280, 4096, 4096, 3072, 1536].getD iface 0

/-- A bond group that exists. -/
def groupOk (g : GroupRef) : Bool := decide (g.group < ifaceGroups g.iface)

/-- The operands of a command are in range. Port 255 carries the device's packets to itself. -/
def wellFormed : Instr → Bool
  | .devInfo mb => decide (mb < 64)
  | .devStatus mb => decide (mb < 64)
  | .devEvents mb => decide (mb < 64)
  | .devTime mb => decide (mb < 64)
  | .mbAcl mb => decide (mb < 64)
  | .tickConfig mb => decide (mb < 64)
  | .tickStart mb => decide (mb < 64)
  | .tickStop mb => decide (mb < 64)
  | .sheafSubmit mb => decide (mb < 64)
  | .admissionEnd job at_ => decide (job < 65536) && decide (at_ < 2 ^ 64)
  | .sheafStatus mb => decide (mb < 64)
  | .kernelLoad mb => decide (mb < 64)
  | .jobCreate mb => decide (mb < 64)
  | .jobDestroy mb => decide (mb < 64)
  | .loftPin mb => decide (mb < 64)
  | .loftUnpin mb => decide (mb < 64)
  | .loftQuota mb => decide (mb < 64)
  | .loftFlush mb => decide (mb < 64)
  | .cellarConfig mb => decide (mb < 64)
  | .memRemap mb => decide (mb < 64)
  | .memScrub mb => decide (mb < 64)
  | .bwBudget mb => decide (mb < 64)
  | .fabPorts mb => decide (mb < 64)
  | .fabSetId mb => decide (mb < 64)
  | .fabRoutes mb => decide (mb < 64)
  | .fabTopoExpect mb => decide (mb < 64)
  | .fabContext mb => decide (mb < 64)
  | .fabTickRole mb => decide (mb < 64)
  | .twinBind mb => decide (mb < 64)
  | .twinBindTimeout mb => decide (mb < 64)
  | .twinUnbind mb => decide (mb < 64)
  | .twinRestore mb => decide (mb < 64)
  | .twinStatus mb => decide (mb < 64)
  | .powerState mb => decide (mb < 64)
  | .powerTransitionEnd at_ _ => decide (at_ < 2 ^ 64)
  | .powerLimit mb => decide (mb < 64)
  | .thermThresh mb => decide (mb < 64)
  | .sensorMask mb => decide (mb < 64)
  | .telemRead mb => decide (mb < 64)
  | .resetLevel mb => decide (mb < 64)
  | .partitionResetEnd at_ _ => decide (at_ < 2 ^ 64)
  | .bringupReport mb => decide (mb < 64)
  | .identRead mb _ => decide (mb < 64)
  | .fuseRead mb => decide (mb < 64)
  | .attestQuote mb => decide (mb < 64)
  | .attestCert mb => decide (mb < 64)
  | .fwRollbackCommit mb => decide (mb < 64)
  | .ctrConfig mb => decide (mb < 64)
  | .ctrRead mb => decide (mb < 64)
  | .traceConfig mb => decide (mb < 64)
  | .traceDrain mb => decide (mb < 64)
  | .debugDump mb => decide (mb < 64)
  | .dumpCopyEnd job _ => decide (job < 65536)
  | .testWinnow mb => decide (mb < 64)
  | .testShutdownPrep mb _ _ => decide (mb < 64)
  | .testResults mb => decide (mb < 64)
  | .eccInject mb => decide (mb < 64)
  | .fwStage mb => decide (mb < 64)
  | .fwCommit mb => decide (mb < 64)
  | .fwVersion mb => decide (mb < 64)
  | .mailboxHandoff mb at_ => decide (mb < 64) && decide (at_ < 2 ^ 64)
  | .commandTake at_ => decide (at_ < 2 ^ 64)
  | .mbDoneSummaryClear _ => true
  | .devFaultClear _ => true
  | .devResetKey _ => true
  | .registerWrite offset _ => decide (offset < 0x4000000)
  | .configSpaceWrite _ => true
  | .bar2Read _ _ => true
  | .bar2Write _ _ _ => true
  | .perstAssert => true
  | .hotReset => true
  | .msixStatusVector at_ => decide (at_ < 2 ^ 64)
  | .devEventsWaitTimeout => true
  | .tickBoundary job => decide (job < 65536)
  | .runEnd job => decide (job < 65536)
  | .stretchDecision job => decide (job < 65536)
  | .settleEnd job => decide (job < 65536)
  | .commitEnd job => decide (job < 65536)
  | .winnowSliceEnd _ _ => true
  | .idleGleanWindow _ => true
  | .startBeacon port _ at_ => decide (port < 48) && decide (at_ < 2 ^ 64)
  | .tickBeacon port _ at_ => decide (port < 48) && decide (at_ < 2 ^ 64)
  | .holdBeacon port _ at_ => decide (port < 48) && decide (at_ < 2 ^ 64)
  | .stretchBeacon port _ at_ => decide (port < 48) && decide (at_ < 2 ^ 64)
  | .faultBeacon port _ at_ => decide (port < 48) && decide (at_ < 2 ^ 64)
  | .abortBeacon port _ at_ => decide (port < 48) && decide (at_ < 2 ^ 64)
  | .beaconRepeatSend job => decide (job < 65536)
  | .beaconMiss job => decide (job < 65536)
  | .gateWindowStart _ _ => true
  | .gateNoticeEnd => true
  | .holderBudgetWindowEnd _ holder => decide (holder < 9)
  | .kernelItemComplete job _ _ => decide (job < 65536)
  | .sweepOpComplete _ _ _ => true
  | .copyPieceDone job _ => decide (job < 65536)
  | .copyItemComplete job _ _ => decide (job < 65536)
  | .vectorIntegerOp g _ dst a b c => fragOk g && decide (dst < 256) && srcOk a && srcOk b && srcOk c
  | .integerDivide g _ _ dst a b => fragOk g && decide (dst < 256) && srcOk a && srcOk b
  | .fp32Op g _ dst a b c => fragOk g && decide (dst < 256) && srcOk a && srcOk b && srcOk c
  | .packed16Op g _ _ dst a b c => fragOk g && decide (dst < 256) && srcOk a && srcOk b && srcOk c
  | .cvt g _ _ _ _ d a => fragOk g && decide (d < 256) && srcOk a
  | .specialFunction g _ dst a => fragOk g && decide (dst < 256) && srcOk a
  | .dataMove g dst _ => fragOk g && decide (dst < 256)
  | .vote g dst p => fragOk g && decide (dst < 256) && decide (p < 8)
  | .shfl g dst src lane => fragOk g && decide (dst < 256) && decide (src < 256) && srcOk lane
  | .sreg g dst _ => fragOk g && decide (dst < 256)
  | .bra g p _ _ _ => fragOk g && decide (p < 8)
  | .reconv g => fragOk g
  | .call g _ => fragOk g
  | .ret g => fragOk g
  | .exit g => fragOk g
  | .yield g => fragOk g
  | .ldl g width dst addr => fragOk g && decide (width = 4 ∨ width = 8 ∨ width = 16) && decide (dst < 256) && srcOk addr
  | .stl g width src addr => fragOk g && decide (width = 4 ∨ width = 8 ∨ width = 16) && decide (src < 256) && srcOk addr
  | .atoml g _ _ dst addr val cmp => fragOk g && dst.all (fun r => decide (r < 256)) && srcOk addr && decide (val < 256) && decide (cmp < 256)
  | .ld g width dst addr => fragOk g && decide (width = 4 ∨ width = 8 ∨ width = 16) && decide (dst < 256) && (srcOk addr.lo && srcOk addr.hi)
  | .ldRo g width dst addr => fragOk g && decide (width = 4 ∨ width = 8 ∨ width = 16) && decide (dst < 256) && (srcOk addr.lo && srcOk addr.hi)
  | .globalLoadReturn _ => true
  | .st g width src addr => fragOk g && decide (width = 4 ∨ width = 8 ∨ width = 16) && decide (src < 256) && (srcOk addr.lo && srcOk addr.hi)
  | .atom g _ _ _ _ dst addr val cmp => fragOk g && decide (dst < 256) && (srcOk addr.lo && srcOk addr.hi) && decide (val < 256) && decide (cmp < 256)
  | .red g _ _ _ _ addr val => fragOk g && (srcOk addr.lo && srcOk addr.hi) && decide (val < 256)
  | .acpG2l g src dst bytes ctr => fragOk g && (srcOk src.lo && srcOk src.hi) && srcOk dst && srcOk bytes && srcOk ctr
  | .acpL2g g src dst bytes ctr => fragOk g && srcOk src && (srcOk dst.lo && srcOk dst.hi) && srcOk bytes && srcOk ctr
  | .acpL2l g src dst bytes ctr => fragOk g && srcOk src && srcOk dst && srcOk bytes && srcOk ctr
  | .acpBox g desc o e dst ctr => fragOk g && srcOk desc && o.all srcOk && e.all srcOk && srcOk dst && srcOk ctr
  | .asyncCopyComplete core _ => decide (core < 256)
  | .barInit g b n => fragOk g && srcOk b && srcOk n
  | .barArrive g b => fragOk g && srcOk b
  | .barWait g b => fragOk g && srcOk b
  | .barSync g b => fragOk g && srcOk b
  | .arvSet g c v => fragOk g && srcOk c && srcOk v
  | .arvAdd g c v => fragOk g && srcOk c && srcOk v
  | .arvWait g c n => fragOk g && srcOk c && srcOk n
  | .lockAcq g _ p addr => fragOk g && decide (p < 8) && (srcOk addr.lo && srcOk addr.hi)
  | .lockRetryTimeout g => fragOk g
  | .lockTry g _ p addr => fragOk g && decide (p < 8) && (srcOk addr.lo && srcOk addr.hi)
  | .lockRel g _ addr => fragOk g && (srcOk addr.lo && srcOk addr.hi)
  | .fenceCrew g => fragOk g
  | .fenceTower g => fragOk g
  | .fenceDevice g => fragOk g
  | .fenceSys g => fragOk g
  | .invalRo g => fragOk g
  | .mma g _ _ _ _ c ua ub us => fragOk g && decide (c < 256) && decide (ua < 64) && decide (ub < 64) && decide (us < 64)
  | .mmaChainDrain core quarter => decide (core < 256) && decide (quarter < 4)
  | .mxld g _ c ua _ => fragOk g && decide (c < 256) && decide (ua < 64)
  | .mxst g _ _ _ ua c _ => fragOk g && decide (ua < 64) && decide (c < 256)
  | .mxwait g => fragOk g
  | .swpPost g d c => fragOk g && srcOk d && srcOk c
  | .memorySideReduction _ _ => true
  | .loftAccess _ col _ => decide (col < 512)
  | .bulkFillComplete _ col => decide (col < 512)
  | .writebackAccepted _ col => decide (col < 512)
  | .fineFillComplete _ => true
  | .loftThrash _ => true
  | .bankHot _ => true
  | .hbmRequest stack ch => decide (stack < 16) && decide (ch < 32)
  | .hbmAccessComplete stack ch _ _ => decide (stack < 16) && decide (ch < 32)
  | .hbmAgePriority stack ch => decide (stack < 16) && decide (ch < 32)
  | .hbmRefresh stack bank => decide (stack < 16) && bank.all (fun b => decide (b < 128))
  | .floorReduction stack ch => decide (stack < 16) && decide (ch < 32)
  | .hbmPinFailed stack ch pc pin => decide (stack < 16) && decide (ch < 32) && decide (pc < 2) && decide (pin < 32)
  | .hbmBlockRepair addr _ => decide (addr < 0x14000000000)
  | .hbmRowRepair addr => decide (addr < 0x14000000000)
  | .loftLineRepair die bank line _ => decide (die < 4) && decide (bank < 512) && decide (line < 32768)
  | .scrubPatrol unit _ _ => decide (unit < 20)
  | .vlReplay g _ _ => groupOk g
  | .vlWireFailing g wire => groupOk g && decide (wire < 74)
  | .vlClockLoss g => groupOk g
  | .portLinkLoss port => decide (port < 48)
  | .fecUncorrectableLimit port => decide (port < 48)
  | .portRetrainAttempt port => decide (port < 48)
  | .portSignalDetect port => decide (port < 48)
  | .portTrainingEnd port _ => decide (port < 48)
  | .delayReq port _ at_ => decide (port < 48) && decide (at_ < 2 ^ 64)
  | .delayResp port _ _ at_ => decide (port < 48) && decide (at_ < 2 ^ 64)
  | .discoverSend port => decide (port < 48)
  | .discover port _ => decide (port < 48)
  | .discoverTimeout port => decide (port < 48)
  | .cmisPoll fx _ => decide (fx < 6)
  | .frameForward port _ => (decide (port < 48) || decide (port = 255))
  | .neighborSolicitation port _ _ => decide (port < 48)
  | .pfcFrame port cls _ => decide (port < 48) && decide (cls < 4)
  | .write port _ => (decide (port < 48) || decide (port = 255))
  | .add port _ => (decide (port < 48) || decide (port = 255))
  | .signal port _ => (decide (port < 48) || decide (port = 255))
  | .readReq port _ => (decide (port < 48) || decide (port = 255))
  | .readResp port _ => (decide (port < 48) || decide (port = 255))
  | .ack port _ => (decide (port < 48) || decide (port = 255))
  | .nack port _ => (decide (port < 48) || decide (port = 255))
  | .cnp port _ => (decide (port < 48) || decide (port = 255))
  | .mirrorDeltaRecord port _ => (decide (port < 48) || decide (port = 255))
  | .commitRecord _ => true
  | .hello _ => true
  | .ackDelayTimer ctx => decide (ctx < 16384)
  | .retransmitTimeout ctx => decide (ctx < 16384)
  | .waitingResend ctx => decide (ctx < 16384)
  | .waitingLimit ctx => decide (ctx < 16384)
  | .rateRecovery ctx => decide (ctx < 16384)
  | .seqPut job _ => decide (job < 65536)
  | .seqGet job _ => decide (job < 65536)
  | .seqPutRed job _ => decide (job < 65536)
  | .seqSignal job _ => decide (job < 65536)
  | .seqWait job _ => decide (job < 65536)
  | .seqWaitPoll job _ => decide (job < 65536)
  | .seqFence job _ => decide (job < 65536)
  | .seqLoop job _ => decide (job < 65536)
  | .seqEnd job _ _ => decide (job < 65536)
  | .thermalSample at_ _ => decide (at_ < 2 ^ 64)
  | .thermalClampStep _ => true
  | .opPointChangeEnd _ => true
  | .powerBondDrop zone _ => decide (zone < 10)
  | .calibrationRecordWrite => true
  | .stackSelfRefreshTimeout stack => decide (stack < 16)
  | .bringupStageEnd r => decide (r.rate < 5)
  | .mcHeartbeatTick => true
  | .mcWatchdog => true
  | .inputRise => true
  | .pwrEnAssert => true
  | .pwrEnDeassert => true
  | .inputUndervoltage => true
  | .standbyLoss => true
  | .moduleOff _ _ _ => true
  | .entdaa _ => true
  | .rstdaa => true
  | .tapInstruction _ => true
  | .traceAutoDrain _ => true
  | .perstDeassert => true
  | .packageRailPowerGood => true
  | .inputReturn => true
  | .thermtripLatchClear => true
  | .startSend job => decide (job < 65536)
  | .fabricSend ctx => decide (ctx < 16384)
  | .mxldMxstComplete core quarter => decide (core < 256) && decide (quarter < 4)
  | .flashWriteEnd _ => true
  | .coreResetEnd at_ => decide (at_ < 2 ^ 64)
  | .idCacheRebuildEnd => true
  | .i3cTelemetryRefresh _ _ _ _ _ _ => true

end Sys2Proof
end

