-- ==== Sys2Proof/Tests/Slice0.lean ====
section
/-! SUPPORT. Tests: the refusals of WellFormed, known answers, and for each clause of a statement that has hypotheses a state and operands that
meet all of them (wit_<statement>_<clause>). -/

open Sys2Proof Sys2Proof.Machine

/-! ### Builders of small states and commands -/

namespace Sys2Proof.Tests

set_option Elab.async false

/-- A result and its parts. -/
theorem parts2 {α β : Type} (p : α × β) : p = (p.1, p.2) := rfl
theorem parts_snd {α β : Type} {p : α × β} {b : β} (h : p.2 = b) : p = (p.1, b) := by rw [← h]
theorem parts3 {α β γ : Type} (p : α × β × γ) : p = (p.1, p.2.1, p.2.2) := rfl
theorem parts4 {α β γ δ : Type} (p : α × β × γ × δ) : p = (p.1, p.2.1, p.2.2.1, p.2.2.2) := rfl

/-- A command in a mailbox, its parameters as bytes. -/
def cmd (mb op job : Nat) (ps : List Byte) : Cmd :=
  { mb := mb, opcode := op, length := ps.length, tag := 0, job := job, flags := 0, hdrReserved := false, params := ps, handoffNs := 0,
    takeNs := 0, started := false }

/-- The same, running. -/
def run (c : Cmd) : Cmd := { c with started := true }

/-- `n` zero bytes. -/
def z (n : Nat) : List Byte := List.replicate n 0#8

/-- A device at S10, ACTIVE, its link up, its MC running, with its device ID. -/
def up : State :=
  { State.reset with
    boot := { BootSt.reset with stage := 10, running := true, coreMap := ⟨[0, 1, 2, 3], [0, 1, 2, 3]⟩ }
    host := { HostSt.reset with
      mcRuns := true
      pcie := { HostSt.reset.pcie with linkUp := true, memSpace := true, busMaster := true, msixEnable := true } }
    gate := { GateSt.reset with pwr := .active, on := true }
    fab := { FabSt.reset with devId := some 5 } }

/-- A state in which a mailbox holds a command. -/
def holding (c : Cmd) (s : State) : State := s.onHost (fun h => { h with taken := tabPut h.taken c.mb c })

/-- TICK.CONFIG values of a 20 ms tick. -/
def cfg0 : TickCfg := { periodUs := 20000, commitPm := 40, gleanPm := 20, stretchPm := 250, seed := 0, crc := 0 }

/-- Job 7 with one HBM page of its own. -/
def job0 : Job := { Job.fresh 7 0 0 16 [⟨0, 7, 1, 0x40000000⟩] with cfg := some cfg0, state := .configured }

/-- The same, running tick 9. -/
def running : Job := { job0 with state := .running, phase := .run, tick := 9, boundaryNs := 1000, runEndNs := 18000000, settleUs := 10 }

/-- A state with job 7; the same as its master, as a follower below port 0, as a relay from port 0 to port 47. -/
def inJob (j : Job) (s : State) : State := s.onJobs (fun x => { x with jobs := tabPut x.jobs 7 j })
def asMaster (s : State) : State := s.onJobs (fun x => { x with roles := tabPut x.roles 7 ⟨.master, 0, 100, 1⟩ })
def asFollower (s : State) : State := s.onJobs (fun x => { x with roles := tabPut x.roles 7 ⟨.follower, 0, 100, 2⟩ })

def asRelay (s : State) : State := s.onJobs (fun x => { x with roles := tabPut x.roles 7 ⟨.relay, 0, 0, 2 ^ 47⟩ })

/-- A beacon of job 7. -/
def beacon (type tick arg0 : Nat) : Beacon :=
  Beacon.sealed {
    type := type, version := 1, jobId := 7, origin := 5, hops := 0, stop := false, repeated := false, tick := tick, timeNs := 1000,
    correctionNs := 0, arg0 := arg0, arg1 := 0, seqno := 1, leadNs := 0, crc := 0 }

/-- A port that is up. -/
def port0 : Port := { Port.fresh up 0 with link := .up, delayNs := 50, modulePresent := true }

/-- Ports 0 and 47 up. -/
def linked (s : State) : State := s.onFab (fun f => { f with ports := [(0, port0), (47, port0)] })

/-- A device whose towers hold their cellars. -/
def backed : State := { up with
  twin := { up.twin with t0 := { up.twin.t0 with state := .bound, untrusted := false }, t1 := { up.twin.t1 with state := .bound, untrusted := false } } }

/-- One item of a sheaf, not started; a sheaf of items for a tick. -/
def item0 : Item :=
  { kind := 0, towers := 1, eclass := 0, trace := false, estNs := 0, psFirst := 0, psCount := 0, preds := [], descAddr := 0, descBytes := 0
    args := z 20, st := .waiting, startNs := 0, stageSince := none, holds := 0 }
def sheaf0 (tick : Nat) (items : List Item) : Sheaf :=
  { tick := tick, addr := 0x40000000, bytes := 64, critEst := 0, critUs := 0, noMirror := false, seqActive := 0, symOff := 0, symBytes := 0,
    items := items, pagesets := [] }

theorem wit_deviceQueriesComplete_1 : ∃ (s : State) (mb : Nat) (c : Cmd), Waiting s mb 0x0100 c ∧ Plain c 0 :=
  ⟨holding (cmd 63 0x0100 0 ([])) (up), 63, cmd 63 0x0100 0 ([]), by decide +kernel⟩

theorem wit_deviceQueriesComplete_2 : ∃ (s : State) (mb : Nat) (c : Cmd), Waiting s mb 0x0101 c ∧ Plain c 0 :=
  ⟨holding (cmd 0 0x0101 0 ([])) (up), 0, cmd 0 0x0101 0 ([]), by decide +kernel⟩

theorem wit_deviceQueriesComplete_3 : ∃ (s : State) (mb : Nat) (c : Cmd), Waiting s mb 0x0103 c ∧ Plain c 0 :=
  ⟨holding (cmd 5 0x0103 0 ([])) (up), 5, cmd 5 0x0103 0 ([]), by decide +kernel⟩

theorem wit_deviceQueriesComplete_4 : ∃ (s : State) (mb : Nat) (c : Cmd) (n : Nat) (es : List (List Byte)) (t : State), es = (List.range n).map (fun i => sliceBytes c.params (8 + 8 * i) 8)
    ∧ t = s.onHost (fun h => { h with acl := es.foldl (fun m e => tabPut m (fieldAt e 0 1) { groups := fieldAt e 2 2, job := fieldAt e 4 2 }) h.acl })
    ∧ Waiting s mb 0x0104 c ∧ Plain c (8 + 8 * n) ∧ par c 0 1 = n ∧ n ≤ 62 ∧ ZeroPar c 1 7
    ∧ ((∀ e ∈ es, 1 ≤ fieldAt e 0 1 ∧ fieldAt e 0 1 ≤ 62 ∧ fieldAt e 1 1 = 0 ∧ fieldAt e 2 2 % 2 = 0 ∧ fieldAt e 2 2 < 2048 ∧ fieldAt e 6 2 = 0)) :=
  ⟨holding (cmd 0 0x0104 0 ([1#8] ++ z 7 ++ [62#8, 0#8] ++ leBytes 0x7FE 2 ++ leBytes 0xFFFF 2 ++ z 2)) (up), 0, cmd 0 0x0104 0 ([1#8] ++ z 7 ++ [62#8, 0#8] ++ leBytes 0x7FE 2 ++ leBytes 0xFFFF 2 ++ z 2), 1, _, _, rfl, rfl, by decide +kernel⟩

theorem wit_eventsReturned_1 : ∃ (s : State) (mb : Nat) (c : Cmd), Waiting s mb 0x0102 c ∧ c.length = 8 ∧ c.hdrReserved = false
    ∧ ((c.flags < 2 ∨ (mb = 63 ∧ c.flags / 2 = 1 ∧ s.ev.queue ≠ []))) ∧ 1 ≤ par c 0 2 ∧ par c 0 2 ≤ 62 ∧ ZeroPar c 2 2 :=
  ⟨holding (cmd 3 0x0102 0 ([62#8] ++ z 7)) (up), 3, cmd 3 0x0102 0 ([62#8] ++ z 7), by decide +kernel⟩

theorem wit_eventsReturned_2 : ∃ (s : State) (c : Cmd), Waiting s 63 0x0102 c ∧ c.length = 8 ∧ c.hdrReserved = false ∧ c.flags / 2 = 1
    ∧ 1 ≤ par c 0 2 ∧ par c 0 2 ≤ 62 ∧ ZeroPar c 2 2 ∧ s.ev.queue = [] :=
  ⟨holding ({ cmd 63 0x0102 0 ([1#8] ++ z 7) with flags := 2 }) up, { cmd 63 0x0102 0 ([1#8] ++ z 7) with flags := 2 }, by decide +kernel⟩

theorem wit_eventsReturned_3 : ∃ (s : State) (c : Cmd), Running s 63 0x0102 c ∧ s.ev.queue = [] ∧ 1 ≤ par c 0 2 :=
  ⟨holding ((run (cmd 63 0x0102 0 ([1#8] ++ z 7)))) up, (run (cmd 63 0x0102 0 ([1#8] ++ z 7))), by decide +kernel⟩

theorem wit_eventsReturned_4 : ∃ (s : State) (c : Cmd), Running s 63 0x0102 c ∧ par c 4 4 ≠ 0 :=
  ⟨holding ({ (run (cmd 63 0x0102 0 ([1#8] ++ z 7))) with params := [1#8] ++ z 3 ++ [1#8] ++ z 3 }) up, { (run (cmd 63 0x0102 0 ([1#8] ++ z 7))) with params := [1#8] ++ z 3 ++ [1#8] ++ z 3 }, by decide +kernel⟩

theorem wit_completionWritesMailbox_1 : ∃ (s : State) (t : State) (c : Cmd) (status : Nat) (result : List Byte), t = complete c status result s ∧ Memory.wf s.host.mbArea = true ∧ c.mb < 64
    ∧ result.length ≤ 4032 ∧ status < 65536 ∧ c.flags % 2 = 0 :=
  ⟨up, _, cmd 63 0x0100 0 [], 65535, [1#8], rfl, by decide +kernel⟩

theorem wit_completionWritesMailbox_2 : ∃ (c : Cmd), c.flags % 2 = 1 :=
  ⟨{ cmd 63 0x0100 0 [] with flags := 1 }, by decide +kernel⟩

/-- Mailbox 63 handed over, its header naming DEV.EVENTS; another whose header names nothing. -/
def handed : State := up.onHost (fun h => { h with
  handed := [⟨63, 0, ⟨2, 0⟩⟩], own := 1#64 <<< 63, mbArea := [(63 * 0x1000 + 4, 2#8), (63 * 0x1000 + 5, 1#8)] })
def handedBad : State := up.onHost (fun h => { h with handed := [⟨63, 0, ⟨2, 0⟩⟩] })

theorem wit_handoffAndTake_1 : ∃ (s : State) (mb : Nat), barOk s = true ∧ mb < 64 ∧ s.host.own.getLsbD mb = false
    ∧ (s.boot.recovery = false ∨ mb = 0) :=
  ⟨up, 63, by decide +kernel⟩

theorem wit_handoffAndTake_2 : ∃ (s : State) (mb : Nat) (at_ : Nat) (t : State), t = (s.timeTo at_).onHost (fun h => { h with own := h.own ||| BitVec.ofNat 64 (2 ^ mb), mbArea := memPut h.mbArea (mb * 0x1000) 1#8, handed := h.handed.filter (fun x => decide (x.mb ≠ mb)) })
    ∧ barOk s = true ∧ mb < 64 ∧ s.host.own.getLsbD mb = false ∧ s.boot.recovery = true ∧ mb ≠ 0 :=
  ⟨(up.onBoot (fun b => { b with recovery := true })), 63, 9, _, rfl, by decide +kernel⟩

theorem wit_handoffAndTake_3 : ∃ (s : State) (mb : Nat), s.host.own.getLsbD mb = true :=
  ⟨handed, 63, by decide +kernel⟩

theorem wit_handoffAndTake_4 : ∃ (s : State) (at_ : Nat) (x : Handoff) (rest : List Handoff) (c : Cmd) (t : State) (t1 : State), t1 = s.timeTo (min at_ (x.atNs + (if s.boot.recovery then 100000 else 10000)))
    ∧ c = capture t1 x.mb x.atNs
    ∧ t = t1.onHost (fun h => { h with handed := rest, mbArea := memWrite h.mbArea (x.mb * 0x1000 + 0x0C) [1#8, 0#8], taken := tabPut h.taken x.mb c })
    ∧ s.host.handed = x :: rest ∧ s.host.mcDown = false ∧ (s.boot.recovery = true ∨ s.host.mcRuns = true) ∧ takeStatus t c x.acl = none :=
  ⟨handed, 7, ⟨63, 0, ⟨2, 0⟩⟩, [], _, _, _, rfl, rfl, rfl, by decide +kernel⟩

theorem wit_handoffAndTake_5 : ∃ (s : State) (at_ : Nat) (x : Handoff) (rest : List Handoff) (c : Cmd) (t : State) (t1 : State) (st : Nat), t1 = s.timeTo (min at_ (x.atNs + (if s.boot.recovery then 100000 else 10000)))
    ∧ c = capture t1 x.mb x.atNs
    ∧ t = t1.onHost (fun h => { h with handed := rest, mbArea := memWrite h.mbArea (x.mb * 0x1000 + 0x0C) [1#8, 0#8], taken := tabPut h.taken x.mb c })
    ∧ s.host.handed = x :: rest ∧ s.host.mcDown = false ∧ (s.boot.recovery = true ∨ s.host.mcRuns = true) ∧ takeStatus t c x.acl = some st :=
  ⟨handedBad, 7, ⟨63, 0, ⟨2, 0⟩⟩, [], _, _, _, 0x0101, rfl, rfl, rfl, by decide +kernel⟩

theorem wit_takeChecksInOrder_1 : ∃ (c : Cmd), 4032 < c.length :=
  ⟨{ cmd 0 0x0100 0 [] with length := 4033 }, by decide +kernel⟩

theorem wit_takeChecksInOrder_2 : ∃ (c : Cmd), c.length ≤ 4032 ∧ (onlyZero ++ byAcl ++ [0x0102]).contains c.opcode = false :=
  ⟨{ cmd 0 0x0105 0 [] with length := 4032 }, by decide +kernel⟩

theorem wit_takeChecksInOrder_3 : ∃ (c : Cmd), c.length ≤ 4032 ∧ onlyZero.contains c.opcode = true ∧ c.mb ≠ 0 :=
  ⟨cmd 1 0x0104 0 [], by decide +kernel⟩

theorem wit_takeChecksInOrder_4 : ∃ (c : Cmd) (a : Acl), c.length ≤ 4032 ∧ byAcl.contains c.opcode = true ∧ c.mb ≠ 0 ∧ c.mb ≠ 63
    ∧ ((a.groups.testBit (c.opcode / 256) = false ∨ (c.job ≠ 0 ∧ a.job ≠ 0xFFFF ∧ a.job ≠ c.job))) :=
  ⟨cmd 62 0x0200 9 [], ⟨4, 8⟩, by decide +kernel⟩

theorem wit_takeChecksInOrder_5 : ∃ (c : Cmd), c.length ≤ 4032 ∧ c.mb = 63 ∧ (onlyZero ++ byAcl).contains c.opcode = true :=
  ⟨cmd 63 0x0200 0 [], by decide +kernel⟩

theorem wit_takeChecksInOrder_6 : ∃ (s : State) (c : Cmd), c.length ≤ 4032 ∧ c.mb = 0 ∧ (onlyZero ++ byAcl ++ [0x0102]).contains c.opcode = true
    ∧ s.boot.part = none ∧ s.boot.recovery = false ∧ s.boot.stage = 10 ∧ s.gate.commandedDark = false :=
  ⟨up, cmd 0 0x0200 0 [], by decide +kernel⟩

theorem wit_registerWritesComplete_1 : ∃ (s : State), barOk s = true :=
  ⟨up, by decide +kernel⟩

theorem wit_registerWritesComplete_2 : ∃ (s : State), barOk s = true :=
  ⟨up, by decide +kernel⟩

theorem wit_registerWritesComplete_3 : ∃ (s : State) (mb : Nat) (off : Nat) (data : List Byte), barOk s = true ∧ mb < 64 ∧ off + data.length ≤ 0x1000 ∧ data ≠ []
    ∧ s.host.own.getLsbD mb = true :=
  ⟨up.onHost (fun h => { h with own := 1#64 <<< 63 }), 63, 0xFFC, z 4, by decide +kernel⟩

theorem wit_registerWritesComplete_4 : ∃ (s : State) (mb : Nat) (off : Nat) (data : List Byte), barOk s = true ∧ mb < 64 ∧ 4 ≤ off ∧ off + data.length ≤ 0x1000 ∧ data ≠ []
    ∧ s.host.own.getLsbD mb = false :=
  ⟨up, 63, 4, z 0xFFC, by decide +kernel⟩

theorem wit_registerWritesComplete_5 : ∃ (s : State) (data : List Byte), barOk s = true ∧ data.length = 8 :=
  ⟨up, z 8, by decide +kernel⟩

theorem wit_registerWritesComplete_6 : ∃ (s : State), s.host.pcie.linkUp = true :=
  ⟨up, by decide +kernel⟩

theorem wit_registerWritesComplete_7 : ∃ (s : State) (g : Nat), s.host.pcie.linkUp = true ∧ g ∈ [64, 128, 256, 512, 1024, 2048] :=
  ⟨up, 2048, by decide +kernel⟩

theorem wit_registerWritesComplete_8 : ∃ (s : State) (g : Nat), s.host.pcie.linkUp = true ∧ g ∉ [64, 128, 256, 512, 1024, 2048] :=
  ⟨up, 4096, by decide +kernel⟩

theorem wit_registerWritesComplete_9 : ∃ (s : State), s.host.pcie.linkUp = true :=
  ⟨up, by decide +kernel⟩

theorem wit_registerWritesComplete_10 : ∃ (s : State), s.host.pcie.linkUp = true :=
  ⟨up, by decide +kernel⟩

theorem wit_registerWritesComplete_11 : ∃ (s : State), s.host.pcie.linkUp = true :=
  ⟨up, by decide +kernel⟩

theorem wit_registerWritesComplete_12 : ∃ (s : State), barOk s = false ∧ s.host.pcie.linkUp = true :=
  ⟨up.onHost (fun h => { h with pcie := { h.pcie with d3hot := true } }), by decide +kernel⟩

theorem wit_registerWritesComplete_13 : ∃ (s : State), barOk s = false ∧ s.host.pcie.linkUp = true :=
  ⟨up.onHost (fun h => { h with pcie := { h.pcie with d3hot := true } }), by decide +kernel⟩

theorem wit_registerWritesComplete_14 : ∃ (s : State) (off : Nat) (n : Nat), barOk s = true ∧ 0 < n ∧ n ≤ 64 ∧ off % 64 = 0 ∧ off + n ≤ s.host.pcie.bar2Gib * 2 ^ 30
    ∧ bar2Base s % 64 = 0 ∧ bar2Target s (bar2Base s + off) = .nothing :=
  ⟨(up.onHost (fun h => { h with aperture := 0x30000000000#44 })), 64, 64, by decide +kernel⟩

theorem wit_registerWritesComplete_15 : ∃ (s : State) (off : Nat) (data : List Byte), barOk s = true ∧ 0 < data.length ∧ data.length ≤ 64 ∧ off % 64 = 0
    ∧ off + data.length ≤ s.host.pcie.bar2Gib * 2 ^ 30 ∧ bar2Base s % 64 = 0 ∧ bar2Target s (bar2Base s + off) = .nothing :=
  ⟨(up.onHost (fun h => { h with aperture := 0x30000000000#44 })), 64, z 64, by decide +kernel⟩

theorem wit_registerWritesComplete_16 : ∃ (s : State) (off : Nat) (n : Nat) (t : State) (d : List Byte) (z : List Nat), engineRead (Agent.rxOf 7) 0 (bar2Base s + off) n s = (t, d, z) ∧ barOk s = true ∧ 0 < n
    ∧ n ≤ 64 ∧ off % 64 = 0 ∧ off + n ≤ s.host.pcie.bar2Gib * 2 ^ 30 ∧ bar2Base s % 64 = 0
    ∧ (bar2Target s (bar2Base s + off) = .bulk ∨ bar2Target s (bar2Base s + off) = .bay) :=
  ⟨backed, 64, 64, _, _, _, parts3 _, by decide +kernel⟩

theorem wit_registerWritesComplete_17 : ∃ (s : State) (off : Nat) (n : Nat) (t : State) (d : List Byte) (z : List Nat), hbmReadNow (Agent.rxOf 7) 0 (blockOf (bar2Base s + off)) s = (t, d, z) ∧ barOk s = true
    ∧ 0 < n ∧ n ≤ 64 ∧ off % 64 = 0 ∧ off + n ≤ s.host.pcie.bar2Gib * 2 ^ 30 ∧ bar2Base s % 64 = 0 ∧ bar2Target s (bar2Base s + off) = .direct :=
  ⟨(backed.onGate (fun g => { g with pwr := .rest })), 64, 64, _, _, _, parts3 _, by decide +kernel⟩

theorem wit_registerWritesComplete_18 : ∃ (s : State) (off : Nat) (data : List Byte) (p : Bool) (zs : List Nat) (s0 : State), s0 = (if p then logPoisoned s else s)
    ∧ zs = (if p then sectorsOf (bar2Base s + off) data.length else []) ∧ barOk s = true ∧ 0 < data.length ∧ data.length ≤ 64 ∧ off % 64 = 0
    ∧ off + data.length ≤ s.host.pcie.bar2Gib * 2 ^ 30 ∧ bar2Base s % 64 = 0 :=
  ⟨backed, 64, z 64, true, _, _, rfl, rfl, by decide +kernel⟩

theorem wit_registerWritesComplete_20 : ∃ (s : State), s.host.pcie.linkUp = true :=
  ⟨up, by decide +kernel⟩

theorem wit_hotResetScope_1 : ∃ (s : State) (t : State), t = (cutTransfers s).onHost (fun h => { h with pcie := { memSpace := false, busMaster := false, bar2Gib := 64, msixEnable := false, msixMask := false, d3hot := false, linkUp := true, linkRate := h.pcie.linkRate, linkWidth := h.pcie.linkWidth, aerPoisoned := false }, msixTable := HostSt.reset.msixTable, msixPba := 0, hostReset := true })
    ∧ s.host.pcie.linkUp = true :=
  ⟨up, _, rfl, by decide +kernel⟩

theorem wit_heartbeatAndWatchdog_1 : ∃ (s : State), s.host.mcRuns = true :=
  ⟨up, by decide +kernel⟩

theorem wit_heartbeatAndWatchdog_2 : ∃ (s : State), s.host.mcRuns = true :=
  ⟨up, by decide +kernel⟩

theorem wit_heartbeatAndWatchdog_4 : ∃ (s : State) (last : Nat), s.host.statusChange = true ∧ s.host.vec64Ns = some last ∧ s.host.pcie.busMaster = true
    ∧ s.host.pcie.msixEnable = true ∧ s.host.pcie.msixMask = false ∧ msixMasked s 64 = false :=
  ⟨up.onHost (fun h => { h with statusChange := true, vec64Ns := some 5, msixTable := tabDel h.msixTable 1036 }), 5, by decide +kernel⟩

theorem wit_jobCommandsComplete_1 : ∃ (s : State) (mb : Nat) (c : Cmd) (id : Nat) (p : Nat) (first : Nat) (count : Nat) (n : Nat) (es : List (List Byte)), es = (List.range n).map (fun i => sliceBytes c.params (16 + 16 * i) 16)
    ∧ Waiting s mb 0x0206 c ∧ Plain c (16 + 16 * n) ∧ par c 8 4 = n ∧ 1 ≤ n ∧ n ≤ 250 ∧ ZeroPar c 3 1 ∧ ZeroPar c 0xC 4 ∧ par c 0 2 = id
    ∧ par c 2 1 = p ∧ par c 4 2 = first ∧ par c 6 2 = count ∧ id ≠ 0 ∧ id ≠ 0xFFFF ∧ jobAt s id = none ∧ p ≤ 2 ∧ 1 ≤ count ∧ first + count ≤ 8192
    ∧ ((∀ e ∈ s.jobs.jobs, e.2.seqFirst + e.2.seqCount ≤ first ∨ first + count ≤ e.2.seqFirst)) ∧ ((∀ e ∈ es, pageSetBad e = false))
    ∧ partitionBad s p = false ∧ mapBad s p (es.map pageSetOf) = false :=
  ⟨holding (cmd 0 0x0206 0 (leBytes 0xFFFE 2 ++ [1#8, 0#8] ++ leBytes 8191 2 ++ leBytes 1 2 ++ leBytes 1 4 ++ z 4 ++ ([0#8, 7#8, 0#8, 0#8, 1#8, 0#8, 0#8, 0#8] ++ leBytes 0x40000000 8))) (up), 0, cmd 0 0x0206 0 (leBytes 0xFFFE 2 ++ [1#8, 0#8] ++ leBytes 8191 2 ++ leBytes 1 2 ++ leBytes 1 4 ++ z 4 ++ ([0#8, 7#8, 0#8, 0#8, 1#8, 0#8, 0#8, 0#8] ++ leBytes 0x40000000 8)), 0xFFFE, 1, 8191, 1, 1, _, rfl, by decide +kernel⟩

theorem wit_jobCommandsComplete_3 : ∃ (s : State) (mb : Nat) (c : Cmd) (j : Job) (s1 : State), s1 = (((s.loft.bays.filter (fun e => decide (e.2.job = c.job))).map (·.1)).foldl (fun acc b => unpinBay b acc) (s, [], 0)).1
    ∧ Waiting s mb 0x0207 c ∧ Plain c 0 ∧ jobAt s c.job = some j ∧ j.state ∈ [.created, .configured, .stopped, .faulted]
    ∧ ((∀ t ∈ towersOfPartition j.partition, (s.twin.get t).state = .off)) :=
  ⟨holding (cmd 0 0x0207 7 ([])) (inJob { job0 with state := .created } up), 0, cmd 0 0x0207 7 ([]), { job0 with state := .created }, _, rfl, by decide +kernel⟩

theorem wit_jobCommandsComplete_4 : ∃ (s : State) (mb : Nat) (c : Cmd) (j : Job), Waiting s mb 0x0207 c ∧ Plain c 0 ∧ jobAt s c.job = some j
    ∧ j.state ∈ [.created, .configured, .stopped, .faulted] ∧ ((∀ t ∈ towersOfPartition j.partition, (s.twin.get t).state = .off)) :=
  ⟨holding (cmd 0 0x0207 7 ([])) (inJob { job0 with state := .created } up), 0, cmd 0 0x0207 7 ([]), { job0 with state := .created }, by decide +kernel⟩

theorem wit_tickCommandsComplete_1 : ∃ (s : State) (mb : Nat) (c : Cmd) (j : Job) (k : TickCfg), k = { periodUs := par c 0 4, commitPm := par c 4 2, gleanPm := par c 6 2, stretchPm := par c 8 2, seed := BitVec.ofNat 64 (par c 0x10 8), crc := crc32c (sliceBytes c.params 0 10) }
    ∧ Waiting s mb 0x0200 c ∧ Plain c 32 ∧ jobAt s c.job = some j ∧ j.state ∈ [.created, .configured, .stopped, .faulted] ∧ 2000 ≤ k.periodUs
    ∧ k.periodUs ≤ 200000 ∧ 20 ≤ k.commitPm ∧ k.commitPm ≤ 100 ∧ 10 ≤ k.gleanPm ∧ k.gleanPm ≤ 100 ∧ k.stretchPm ≤ 1000
    ∧ k.commitPm + k.gleanPm ≤ 200 ∧ ZeroPar c 0xA 6 ∧ ZeroPar c 0x18 8 :=
  ⟨holding (cmd 0 0x0200 7 (leBytes 2000 4 ++ leBytes 100 2 ++ leBytes 100 2 ++ leBytes 1000 2 ++ z 6 ++ leBytes 3 8 ++ z 8)) (inJob job0 up), 0, cmd 0 0x0200 7 (leBytes 2000 4 ++ leBytes 100 2 ++ leBytes 100 2 ++ leBytes 1000 2 ++ z 6 ++ leBytes 3 8 ++ z 8), job0, _, rfl, by decide +kernel⟩

theorem wit_tickCommandsComplete_2 : ∃ (s : State) (mb : Nat) (c : Cmd) (j : Job) (r : RoleRec) (k : TickCfg) (first : Nat), first = (if par c 8 8 = 0 then c.takeNs + 2000000 else par c 8 8)
    ∧ Waiting s mb 0x0201 c ∧ Plain c 24 ∧ jobAt s c.job = some j ∧ j.state ∈ [.configured, .stopped, .faulted] ∧ j.cfg = some k
    ∧ roleOf s c.job = some r ∧ r.role = .master ∧ s.fab.devId.isSome = true ∧ (s.gate.pwr = .active ∨ s.gate.pwr = .trim) ∧ par c 0x10 4 ≤ 1
    ∧ startRefused s j (decide (par c 0x10 4 = 1)) = false ∧ ((par c 0x10 4 = 1 → resumeOk s j (par c 0 8) = true)) ∧ s.obs.shutdown = false
    ∧ par c 0 8 < 2 ^ 48 ∧ (par c 8 8 = 0 ∨ c.takeNs + 1000000 ≤ par c 8 8) ∧ ZeroPar c 0x14 4 ∧ settleUs r.maxPathNs + 20 ≤ cminUs k :=
  ⟨holding (cmd 0 0x0201 7 (leBytes (2 ^ 48 - 1) 8 ++ z 16)) (inJob job0 (asMaster up)), 0, cmd 0 0x0201 7 (leBytes (2 ^ 48 - 1) 8 ++ z 16), job0, ⟨.master, 0, 100, 1⟩, cfg0, _, rfl, by decide +kernel⟩

theorem wit_tickCommandsComplete_3 : ∃ (s : State) (mb : Nat) (c : Cmd) (j : Job) (r : RoleRec), Waiting s mb 0x0201 c ∧ Plain c 24 ∧ jobAt s c.job = some j
    ∧ j.state ∈ [.configured, .stopped, .faulted] ∧ roleOf s c.job = some r ∧ r.role = .follower ∧ s.fab.devId.isSome = true
    ∧ (s.gate.pwr = .active ∨ s.gate.pwr = .trim) ∧ par c 0x10 4 ≤ 1 ∧ startRefused s j (decide (par c 0x10 4 = 1)) = false
    ∧ ((par c 0x10 4 = 1 → resumeOk s j (par c 0 8) = true)) ∧ s.obs.shutdown = false ∧ par c 0 8 < 2 ^ 48 ∧ par c 8 8 = 0 ∧ ZeroPar c 0x14 4 :=
  ⟨holding (cmd 0 0x0201 7 (leBytes (2 ^ 48 - 1) 8 ++ z 16)) (inJob job0 (asFollower up)), 0, cmd 0 0x0201 7 (leBytes (2 ^ 48 - 1) 8 ++ z 16), job0, ⟨.follower, 0, 100, 2⟩, by decide +kernel⟩

theorem wit_tickCommandsComplete_5 : ∃ (s : State) (mb : Nat) (c : Cmd) (j : Job), Waiting s mb 0x0202 c ∧ Plain c 8 ∧ jobAt s c.job = some j ∧ j.state = .running
    ∧ isMaster s c.job = true ∧ par c 0 8 < 2 ^ 48 ∧ (j.tick ≤ par c 0 8 ∨ par c 0 8 = 0) :=
  ⟨holding (cmd 0 0x0202 7 (leBytes 9 8)) (inJob running (asMaster up)), 0, cmd 0 0x0202 7 (leBytes 9 8), running, by decide +kernel⟩

theorem wit_tickCommandsComplete_6 : ∃ (s : State) (mb : Nat) (c : Cmd) (j : Job), Waiting s mb 0x0202 c ∧ Plain c 8 ∧ jobAt s c.job = some j ∧ j.state = .armed
    ∧ par c 0 8 = 0 :=
  ⟨holding (cmd 0 0x0202 7 (z 8)) (inJob { job0 with state := .armed } up), 0, cmd 0 0x0202 7 (z 8), { job0 with state := .armed }, by decide +kernel⟩

theorem wit_tickCommandsComplete_7 : ∃ (s : State) (mb : Nat) (c : Cmd) (j : Job), Waiting s mb 0x0204 c ∧ Plain c 8 ∧ jobAt s c.job = some j
    ∧ j.state ∈ [.armed, .running, .stopped, .faulted] ∧ par c 0 8 < 2 ^ 48 :=
  ⟨holding (cmd 0 0x0204 7 (leBytes 9 8)) (inJob running up), 0, cmd 0 0x0204 7 (leBytes 9 8), running, by decide +kernel⟩

theorem wit_tickCommandsComplete_7a : ∃ (s : State) (mb : Nat) (c : Cmd) (j : Job), Waiting s mb 0x0204 c ∧ Plain c 8 ∧ jobAt s c.job = some j
    ∧ j.state ∈ [.armed, .running, .stopped, .faulted] ∧ par c 0 8 < 2 ^ 48 ∧ ((∀ r ∈ j.records, r.tick ≠ par c 0 8)) :=
  ⟨holding (cmd 0 0x0204 7 (leBytes 9 8)) (inJob running up), 0, cmd 0 0x0204 7 (leBytes 9 8), running, by decide +kernel⟩

theorem wit_tickCommandsComplete_7b : ∃ (s : State) (mb : Nat) (c : Cmd) (j : Job) (r : TickRec), Waiting s mb 0x0204 c ∧ Plain c 8 ∧ jobAt s c.job = some j
    ∧ j.state ∈ [.armed, .running, .stopped, .faulted] ∧ par c 0 8 < 2 ^ 48 ∧ j.records.find? (fun x => decide (x.tick = par c 0 8)) = some r :=
  ⟨holding (cmd 0 0x0204 7 (leBytes 9 8)) (inJob { running with state := .stopped, records := [TickRec.fresh 9] } up), 0, cmd 0 0x0204 7 (leBytes 9 8), { running with state := .stopped, records := [TickRec.fresh 9] }, TickRec.fresh 9, by decide +kernel⟩

theorem wit_stretchAbsorbed_1 : ∃ (k : TickCfg) (su : Nat), 2000 ≤ k.periodUs ∧ k.periodUs ≤ 200000 ∧ 20 ≤ k.commitPm ∧ 10 ≤ k.gleanPm
    ∧ k.commitPm + k.gleanPm ≤ 200 ∧ su ≤ allowance k :=
  ⟨cfg0, allowance cfg0, by decide +kernel⟩

theorem wit_stretchAbsorbed_2 : ∃ (s : State) (job : Nat) (j : Job) (k : TickCfg) (s2 : State) (q : Nat), nextSeq ((s.timeTo (j.runEndNs + j.settleUs * 500)).onJob job (fun x => { x with holds := [] })) job = (s2, q)
    ∧ jobAt s job = some j ∧ j.cfg = some k ∧ j.state = .running ∧ j.phase = .settle ∧ isMaster s job = true ∧ j.holds ≠ [] ∧ j.sUs < allowance k :=
  ⟨inJob { running with phase := .settle, holds := [5000] } (asMaster up), 7, { running with phase := .settle, holds := [5000] }, cfg0, _, _, parts2 _, by decide +kernel⟩

/-- Job 7 with an admission under way, its sheaf's header in HBM: no items, `SEQ_ACTIVE` as given. -/
def adm : Admission := { mb := 0, handoffNs := 0, takeNs := 0, tick := 10, addr := 0x40000000, bytes := 64, wasState := .running, epoch := 0 }
def admJob : Job := { running with admission := some adm }
def admCmd : Cmd := run (cmd 0 0x0203 7 (leBytes 0x40000000 8 ++ leBytes 64 4 ++ z 4 ++ leBytes 10 8))
def admState (m : Memory) : State :=
  ((holding admCmd (inJob admJob backed)).onTrust (fun t => { t with runHeader := [0#8, 0#8, 0#8, 0#8, 0#8, 0#8, 1#8, 0#8] })).onHbm (fun h => { h with mem := m })
def sheafMem : Memory := [(1073741824, 83#8), (1073741825, 72#8), (1073741826, 69#8), (1073741827, 70#8), (1073741828, 1#8), (1073741830, 7#8), (1073741832, 10#8), (1073741840, 64#8), (1073741868, 16#8), (1073741876, 102#8), (1073741877, 216#8), (1073741878, 196#8), (1073741879, 185#8)]
def sheafMemBad : Memory := [(1073741824, 83#8), (1073741825, 72#8), (1073741826, 69#8), (1073741827, 70#8), (1073741828, 1#8), (1073741830, 7#8), (1073741832, 10#8), (1073741840, 64#8), (1073741868, 17#8), (1073741876, 219#8), (1073741877, 47#8), (1073741878, 135#8), (1073741879, 142#8)]

theorem wit_admissionCompletes_1 : ∃ (s : State) (mb : Nat) (c : Cmd) (j : Job), Waiting s mb 0x0203 c ∧ c.length = 24 ∧ jobAt s c.job = some j
    ∧ submitOpen j (par c 0x10 8) c.handoffNs = true ∧ j.admission = none :=
  ⟨holding (cmd 0 0x0203 7 (leBytes 0x40000000 8 ++ leBytes 64 4 ++ z 4 ++ leBytes 10 8)) (inJob running up), 0, cmd 0 0x0203 7 (leBytes 0x40000000 8 ++ leBytes 64 4 ++ z 4 ++ leBytes 10 8), running, by decide +kernel⟩

theorem wit_admissionCompletes_2 : ∃ (s : State) (mb : Nat) (c : Cmd) (j : Job), Waiting s mb 0x0203 c ∧ c.length = 24 ∧ jobAt s c.job = some j
    ∧ submitOpen j (par c 0x10 8) c.handoffNs = false :=
  ⟨holding (cmd 0 0x0203 7 (leBytes 0x40000000 8 ++ leBytes 64 4 ++ z 4 ++ leBytes 11 8)) (inJob running up), 0, cmd 0 0x0203 7 (leBytes 0x40000000 8 ++ leBytes 64 4 ++ z 4 ++ leBytes 11 8), running, by decide +kernel⟩

set_option maxRecDepth 100000 in
theorem wit_admissionCompletes_3 : ∃ (s : State) (at_ : Nat) (job : Nat) (j : Job) (a : Admission) (c : Cmd) (k : TickCfg) (s0 : State) (b : List Byte) (t : State), sheafFetch job a.addr (if a.bytes ≤ 2 ^ 26 then a.bytes else 64) s = (s0, b, [])
    ∧ t = (s0.timeTo (min at_ (a.takeNs + 200000 + 40 * (fieldAt b 0x14 4 + fieldAt b 0x1C 4)))).onJob job (fun x => { x with admission := none })
    ∧ jobAt s job = some j ∧ j.admission = some a ∧ Running s a.mb 0x0203 c ∧ j.cfg = some k :=
  ⟨admState [], 100, 7, admJob, adm, admCmd, cfg0, _, _, _, Prod.ext rfl (Prod.ext rfl (by decide +kernel)), rfl, by decide +kernel⟩

set_option maxRecDepth 100000 in
theorem wit_admissionCompletes_3a : ∃ (s : State) (at_ : Nat) (job : Nat) (j : Job) (a : Admission) (c : Cmd) (k : TickCfg) (s0 : State) (b : List Byte) (t : State) (item : Nat) (entry : Nat), sheafFetch job a.addr (if a.bytes ≤ 2 ^ 26 then a.bytes else 64) s = (s0, b, [])
    ∧ t = (s0.timeTo (min at_ (a.takeNs + 200000 + 40 * (fieldAt b 0x14 4 + fieldAt b 0x1C 4)))).onJob job (fun x => { x with admission := none })
    ∧ jobAt s job = some j ∧ j.admission = some a ∧ Running s a.mb 0x0203 c ∧ j.cfg = some k
    ∧ sheafFormat (abi s) job (hdrBad c || parRes c 0xC 4) a b = .inr (item, entry) :=
  ⟨admState [], 100, 7, admJob, adm, admCmd, cfg0, _, _, _, noIndex, noIndex, Prod.ext rfl (Prod.ext rfl (by decide +kernel)), rfl, by decide +kernel⟩

set_option maxRecDepth 100000 in
theorem wit_admissionCompletes_3b : ∃ (s : State) (at_ : Nat) (job : Nat) (j : Job) (a : Admission) (c : Cmd) (k : TickCfg) (s0 : State) (b : List Byte) (t : State) (sh : Sheaf) (r : AdmRes) (ok : Bool) (s1 : State), sheafFetch job a.addr (if a.bytes ≤ 2 ^ 26 then a.bytes else 64) s = (s0, b, [])
    ∧ t = (s0.timeTo (min at_ (a.takeNs + 200000 + 40 * (fieldAt b 0x14 4 + fieldAt b 0x1C 4)))).onJob job (fun x => { x with admission := none })
    ∧ s1 = (sh.items.filter (descRead t j.id)).foldl (fun st i => (fineRead 1 j.id i.descAddr i.descBytes st).1) t ∧ runChecks s1 j k sh = (r, ok)
    ∧ ok = true ∧ jobAt s job = some j ∧ j.admission = some a ∧ Running s a.mb 0x0203 c ∧ j.cfg = some k
    ∧ sheafFormat (abi s) job (hdrBad c || parRes c 0xC 4) a b = .inl sh ∧ r.reason ≠ evPoisonConsumed :=
  ⟨admState sheafMem, 100, 7, admJob, adm, admCmd, cfg0, _, _, _, { sheaf0 10 [] with seqActive := 16 }, _, _, _, Prod.ext rfl (Prod.ext rfl (by decide +kernel)), rfl, rfl, parts2 _, rfl, by decide +kernel⟩

set_option maxRecDepth 100000 in
theorem wit_admissionCompletes_3c : ∃ (s : State) (at_ : Nat) (job : Nat) (j : Job) (a : Admission) (c : Cmd) (k : TickCfg) (s0 : State) (b : List Byte) (t : State) (sh : Sheaf) (r : AdmRes) (ok : Bool) (s1 : State), sheafFetch job a.addr (if a.bytes ≤ 2 ^ 26 then a.bytes else 64) s = (s0, b, [])
    ∧ t = (s0.timeTo (min at_ (a.takeNs + 200000 + 40 * (fieldAt b 0x14 4 + fieldAt b 0x1C 4)))).onJob job (fun x => { x with admission := none })
    ∧ s1 = (sh.items.filter (descRead t j.id)).foldl (fun st i => (fineRead 1 j.id i.descAddr i.descBytes st).1) t ∧ runChecks s1 j k sh = (r, ok)
    ∧ ok = false ∧ jobAt s job = some j ∧ j.admission = some a ∧ Running s a.mb 0x0203 c ∧ j.cfg = some k
    ∧ sheafFormat (abi s) job (hdrBad c || parRes c 0xC 4) a b = .inl sh ∧ r.reason ≠ evPoisonConsumed :=
  ⟨admState sheafMemBad, 100, 7, admJob, adm, admCmd, cfg0, _, _, _, { sheaf0 10 [] with seqActive := 17 }, _, _, _, Prod.ext rfl (Prod.ext rfl (by decide +kernel)), rfl, rfl, parts2 _, rfl, by decide +kernel⟩

/-- A kernel image of one instruction in HBM. -/
def imgMem : Memory := [(1073741824, 75#8), (1073741825, 82#8), (1073741826, 78#8), (1073741827, 76#8), (1073741828, 1#8), (1073741832, 16#8), (1073741833, 1#8), (1073741837, 1#8), (1073741840, 16#8), (1073741848, 8#8), (1073741852, 1#8), (1073741854, 1#8), (1073741872, 61#8), (1073741873, 103#8), (1073741874, 177#8), (1073741875, 135#8)]
def imgState (c : Cmd) : State :=
  ((holding c (inJob job0 up)).onTrust (fun t => { t with runHeader := [0#8, 0#8, 0#8, 0#8, 0#8, 0#8, 1#8, 0#8] })).onHbm (fun h => { h with mem := imgMem })
def kernel0 : Kernel :=
  { addr := 0x40000000, bytes := 272, flags := 3, codeOffset := 256, codeBytes := 64, entry := 0, regs := 64, localKib := 4, barriers := 2,
    counters := 2, gangSizes := 1, eclass := 0, spillBytes := 0, paramBytes := 0, measurement := z 32 }

set_option maxRecDepth 100000 in
theorem wit_kernelLoadCompletes_1 : ∃ (s : State) (mb : Nat) (c : Cmd) (j : Job) (img : List Byte) (k : Kernel), img = viewBytes s (par c 8 8) (par c 4 4)
    ∧ k = kernelOf (par c 8 8) img (imageDigest img (fieldAt img 0x28 4) (if fieldAt img 0x28 4 = 0 then 0 else fieldAt img 0x2C 4))
    ∧ Waiting s mb 0x0205 c ∧ Plain c 16 ∧ jobAt s c.job = some j ∧ s.obs.shutdown = false
    ∧ (tabGet j.kernels (par c 0 2) = none ∨ handleNamed j (par c 0 2) = false) ∧ par c 0 2 ≤ 1023 ∧ par c 2 2 = 0 ∧ par c 8 8 % 256 = 0
    ∧ 128 ≤ par c 4 4 ∧ par c 4 4 ≤ 2 ^ 24 ∧ rangeAllowed s c.job 0 (par c 8 8) (par c 4 4) = true
    ∧ kernelBad (fieldAt s.trust.runHeader 6 2) (par c 4 4) img = false :=
  ⟨imgState (cmd 0 0x0205 7 (leBytes 1023 2 ++ z 2 ++ leBytes 272 4 ++ leBytes 0x40000000 8)), 0, cmd 0 0x0205 7 (leBytes 1023 2 ++ z 2 ++ leBytes 272 4 ++ leBytes 0x40000000 8), job0, _, _, rfl, rfl, by decide +kernel⟩

set_option maxRecDepth 100000 in
theorem wit_kernelLoadCompletes_1a : ∃ (s : State) (mb : Nat) (c : Cmd) (j : Job) (img : List Byte) (k : Kernel), img = viewBytes s (par c 8 8) (par c 4 4)
    ∧ k = kernelOf (par c 8 8) img (imageDigest img (fieldAt img 0x28 4) (if fieldAt img 0x28 4 = 0 then 0 else fieldAt img 0x2C 4))
    ∧ Waiting s mb 0x0205 c ∧ Plain c 16 ∧ jobAt s c.job = some j ∧ s.obs.shutdown = false
    ∧ (tabGet j.kernels (par c 0 2) = none ∨ handleNamed j (par c 0 2) = false) ∧ par c 0 2 ≤ 1023 ∧ par c 2 2 = 0 ∧ par c 8 8 % 256 = 0
    ∧ 128 ≤ par c 4 4 ∧ par c 4 4 ≤ 2 ^ 24 ∧ rangeAllowed s c.job 0 (par c 8 8) (par c 4 4) = true
    ∧ kernelBad (fieldAt s.trust.runHeader 6 2) (par c 4 4) img = false ∧ kernelUnsigned s img = false :=
  ⟨imgState (cmd 0 0x0205 7 (leBytes 1023 2 ++ z 2 ++ leBytes 272 4 ++ leBytes 0x40000000 8)), 0, cmd 0 0x0205 7 (leBytes 1023 2 ++ z 2 ++ leBytes 272 4 ++ leBytes 0x40000000 8), job0, _, _, rfl, rfl, by decide +kernel⟩

theorem wit_kernelLoadCompletes_2 : ∃ (s : State) (mb : Nat) (c : Cmd) (j : Job) (k : Kernel), Waiting s mb 0x0205 c ∧ Plain c 16 ∧ jobAt s c.job = some j ∧ s.obs.shutdown = false
    ∧ tabGet j.kernels (par c 0 2) = some k ∧ handleNamed j (par c 0 2) = false ∧ par c 0 2 ≤ 1023 ∧ par c 2 2 = 1 ∧ par c 8 8 = 0 ∧ par c 4 4 = 0 :=
  ⟨holding (cmd 0 0x0205 7 (leBytes 1023 2 ++ leBytes 1 2 ++ z 12)) (inJob { job0 with kernels := [(1023, kernel0)] } up), 0, cmd 0 0x0205 7 (leBytes 1023 2 ++ leBytes 1 2 ++ z 12), { job0 with kernels := [(1023, kernel0)] }, kernel0, by decide +kernel⟩

theorem wit_tickPhases_1 : ∃ (s : State) (job : Nat) (j : Job) (f : Nat), jobAt s job = some j ∧ j.state = .armed ∧ j.firstNs = some f :=
  ⟨inJob { job0 with state := .armed, startTick := 2 ^ 48 - 1, firstNs := some 4000000 } up, 7, { job0 with state := .armed, startTick := 2 ^ 48 - 1, firstNs := some 4000000 }, 4000000, by decide +kernel⟩

theorem wit_tickPhases_2 : ∃ (s : State) (s1 : State) (job : Nat) (j : Job) (k : TickCfg) (at_ : Nat), s1 = commitEnd job s ∧ at_ = j.boundaryNs + (k.periodUs + delayOf k j.sUs) * 1000
    ∧ jobAt s1 job = some j ∧ j.state = .running ∧ j.phase = .glean ∧ j.cfg = some k :=
  ⟨inJob { running with phase := .glean } up, _, 7, { running with phase := .glean }, cfg0, _, rfl, rfl, by decide +kernel⟩

theorem wit_tickPhases_2a : ∃ (s : State) (s1 : State) (job : Nat) (j : Job) (k : TickCfg) (at_ : Nat), s1 = commitEnd job s ∧ at_ = j.boundaryNs + (k.periodUs + delayOf k j.sUs) * 1000
    ∧ ((∀ l, j.stopAt = some l → j.tick < l ∨ isMaster s1 job = false)) ∧ jobAt s1 job = some j ∧ j.state = .running ∧ j.phase = .glean
    ∧ j.cfg = some k :=
  ⟨inJob { running with phase := .glean } up, _, 7, { running with phase := .glean }, cfg0, _, rfl, rfl, nofun, by decide +kernel⟩

theorem wit_tickPhases_2b : ∃ (s : State) (s1 : State) (job : Nat) (j : Job) (k : TickCfg) (at_ : Nat) (l : Nat), s1 = commitEnd job s ∧ at_ = j.boundaryNs + (k.periodUs + delayOf k j.sUs) * 1000
    ∧ jobAt s1 job = some j ∧ j.state = .running ∧ j.phase = .glean ∧ j.cfg = some k ∧ j.stopAt = some l ∧ l ≤ j.tick ∧ isMaster s1 job = true :=
  ⟨inJob { running with phase := .glean, stopAt := some 9 } (asMaster up), _, 7, { running with phase := .glean, stopAt := some 9 }, cfg0, _, 9, rfl, rfl, by decide +kernel⟩

theorem wit_tickPhases_3 : ∃ (n : Nat) (j : Job) (k : TickCfg) (sh : Sheaf), j.cfg = some k ∧ j.next = some sh ∧ sh.tick = n :=
  ⟨10, { running with next := some (sheaf0 10 []) }, cfg0, sheaf0 10 [], by decide +kernel⟩

theorem wit_tickPhases_4 : ∃ (s : State) (job : Nat) (j : Job) (k : TickCfg) (t : State), t = (s.timeTo j.runEndNs).onJob job (fun x => { x with phase := .settle })
    ∧ jobAt s job = some j ∧ j.cfg = some k ∧ j.state = .running ∧ j.phase = .run :=
  ⟨inJob running up, 7, running, cfg0, _, rfl, by decide +kernel⟩

theorem wit_tickPhases_4a : ∃ (s : State) (job : Nat) (j : Job) (k : TickCfg) (t : State), t = (s.timeTo j.runEndNs).onJob job (fun x => { x with phase := .settle })
    ∧ jobAt s job = some j ∧ j.cfg = some k ∧ j.state = .running ∧ j.phase = .run ∧ unfinished j.sheaf = false :=
  ⟨inJob running up, 7, running, cfg0, _, rfl, by decide +kernel⟩

theorem wit_tickPhases_4b : ∃ (s : State) (job : Nat) (j : Job) (k : TickCfg) (t : State), t = (s.timeTo j.runEndNs).onJob job (fun x => { x with phase := .settle })
    ∧ jobAt s job = some j ∧ j.cfg = some k ∧ j.state = .running ∧ j.phase = .run ∧ unfinished j.sheaf = true ∧ allowance k ≤ j.sUs :=
  ⟨inJob { running with sheaf := some (sheaf0 9 [item0]), sUs := allowance cfg0 } up, 7, { running with sheaf := some (sheaf0 9 [item0]), sUs := allowance cfg0 }, cfg0, _, rfl, by decide +kernel⟩

theorem wit_tickPhases_4c : ∃ (s : State) (job : Nat) (j : Job) (k : TickCfg) (t : State), t = (s.timeTo j.runEndNs).onJob job (fun x => { x with phase := .settle })
    ∧ jobAt s job = some j ∧ j.cfg = some k ∧ j.state = .running ∧ j.phase = .run ∧ unfinished j.sheaf = true ∧ j.sUs < allowance k
    ∧ isMaster s job = true :=
  ⟨inJob { running with sheaf := some (sheaf0 9 [item0]) } (asMaster up), 7, { running with sheaf := some (sheaf0 9 [item0]) }, cfg0, _, rfl, by decide +kernel⟩

theorem wit_tickPhases_4d : ∃ (s : State) (job : Nat) (j : Job) (k : TickCfg) (t : State), t = (s.timeTo j.runEndNs).onJob job (fun x => { x with phase := .settle })
    ∧ jobAt s job = some j ∧ j.cfg = some k ∧ j.state = .running ∧ j.phase = .run ∧ unfinished j.sheaf = true ∧ j.sUs < allowance k
    ∧ isMaster s job = false :=
  ⟨inJob { running with sheaf := some (sheaf0 9 [item0]) } (asFollower up), 7, { running with sheaf := some (sheaf0 9 [item0]) }, cfg0, _, rfl, by decide +kernel⟩

theorem wit_tickPhases_5 : ∃ (s : State) (job : Nat) (j : Job) (k : TickCfg), jobAt s job = some j ∧ j.cfg = some k ∧ j.state = .running ∧ j.phase = .settle
    ∧ isMaster s job = true ∧ (j.holds = [] ∨ allowance k ≤ j.sUs) :=
  ⟨inJob { running with phase := .settle } (asMaster up), 7, { running with phase := .settle }, cfg0, by decide +kernel⟩

theorem wit_tickPhases_6 : ∃ (s : State) (job : Nat) (j : Job) (k : TickCfg) (s1 : State) (s2 : State) (s4 : State), s1 = postOverrun job (s.timeTo (j.runEndNs + j.settleUs * 1000))
    ∧ s2 = (if unfinished j.sheaf then endRun job j.tick s1 else s1).onJob job (fun x => onRec x.tick (fun r => { r with state := if r.state = 6 then 6 else 3, itemsDone := (x.sheaf.map itemsDone).getD 0, sUs := x.sUs, dUs := delayOf k x.sUs }) { x with phase := .commit, lastDUs := delayOf k x.sUs })
    ∧ s4 = commitWork job (dumpsLost job (fun d => decide (d.tick = j.tick) && d.startNs.isNone) ((towersOfPartition j.partition).foldl (fun st t => closeTower k j.sUs j.tick t st) s2))
    ∧ jobAt s job = some j ∧ j.cfg = some k ∧ j.state = .running ∧ j.phase = .settle :=
  ⟨inJob { running with phase := .settle } up, 7, { running with phase := .settle }, cfg0, _, _, _, rfl, rfl, rfl, by decide +kernel⟩

theorem wit_tickPhases_7 : ∃ (s : State) (job : Nat) (j : Job) (k : TickCfg), jobAt s job = some j ∧ j.cfg = some k ∧ j.state = .running ∧ j.phase = .commit :=
  ⟨inJob { running with phase := .commit } up, 7, { running with phase := .commit }, cfg0, by decide +kernel⟩

theorem wit_beaconsReceived_2 : ∃ (s : State) (port : Nat) (at_ : Nat), portUp (s.timeTo at_) port = false :=
  ⟨up, 0, 5, by decide +kernel⟩

theorem wit_beaconsReceived_3 : ∃ (s : State) (n : Nat) (port : Nat) (b : Beacon) (at_ : Nat), b.type = n ∧ portUp (s.timeTo at_) port = true ∧ beaconBad (s.timeTo at_) port b = true :=
  ⟨linked up, 2, 0, (beacon 2 9 0), 5, by decide +kernel⟩

theorem wit_beaconsReceived_4 : ∃ (s : State) (n : Nat) (port : Nat) (b : Beacon) (at_ : Nat) (x : Beacon) (t : State), x = { b with correctionNs := (b.correctionNs + ((tabGet s.fab.ports port).map (·.delayNs)).getD 0) % 2 ^ 32 }
    ∧ t = traceJobBeacon b.jobId n b.arg0 (s.timeTo at_) ∧ b.type = n ∧ portUp (s.timeTo at_) port = true ∧ beaconBad (s.timeTo at_) port b = false :=
  ⟨linked (inJob running (asFollower up)), 2, 0, (beacon 2 9 0), 5, _, _, rfl, rfl, by decide +kernel⟩

theorem wit_beaconsReceived_4a : ∃ (s : State) (n : Nat) (port : Nat) (b : Beacon) (at_ : Nat) (x : Beacon) (t : State), x = { b with correctionNs := (b.correctionNs + ((tabGet s.fab.ports port).map (·.delayNs)).getD 0) % 2 ^ 32 }
    ∧ t = traceJobBeacon b.jobId n b.arg0 (s.timeTo at_) ∧ b.type = n ∧ portUp (s.timeTo at_) port = true ∧ beaconBad (s.timeTo at_) port b = false
    ∧ downType n = true ∧ hasPart s b.jobId = true ∧ ((jobAt s b.jobId).bind (·.actedSeq)) ≠ some b.seqno :=
  ⟨linked (inJob running (asFollower up)), 2, 0, (beacon 2 9 0), 5, _, _, rfl, rfl, by decide +kernel⟩

theorem wit_beaconsReceived_4b : ∃ (s : State) (n : Nat) (port : Nat) (b : Beacon) (at_ : Nat) (x : Beacon) (t : State), x = { b with correctionNs := (b.correctionNs + ((tabGet s.fab.ports port).map (·.delayNs)).getD 0) % 2 ^ 32 }
    ∧ t = traceJobBeacon b.jobId n b.arg0 (s.timeTo at_) ∧ b.type = n ∧ portUp (s.timeTo at_) port = true ∧ beaconBad (s.timeTo at_) port b = false
    ∧ downType n = true ∧ hasPart s b.jobId = true ∧ ((jobAt s b.jobId).bind (·.actedSeq)) = some b.seqno :=
  ⟨linked (inJob { running with actedSeq := some 1 } (asFollower up)), 2, 0, (beacon 2 9 0), 5, _, _, rfl, rfl, by decide +kernel⟩

theorem wit_beaconsReceived_4c : ∃ (s : State) (n : Nat) (port : Nat) (b : Beacon) (at_ : Nat) (x : Beacon) (t : State), x = { b with correctionNs := (b.correctionNs + ((tabGet s.fab.ports port).map (·.delayNs)).getD 0) % 2 ^ 32 }
    ∧ t = traceJobBeacon b.jobId n b.arg0 (s.timeTo at_) ∧ b.type = n ∧ portUp (s.timeTo at_) port = true ∧ beaconBad (s.timeTo at_) port b = false
    ∧ downType n = false ∧ isMaster s b.jobId = true ∧ hasPart s b.jobId = true :=
  ⟨linked (inJob running (asMaster up)), 3, 0, (beacon 3 9 0), 5, _, _, rfl, rfl, by decide +kernel⟩

theorem wit_beaconsReceived_4d : ∃ (s : State) (n : Nat) (port : Nat) (b : Beacon) (at_ : Nat) (x : Beacon) (t : State), x = { b with correctionNs := (b.correctionNs + ((tabGet s.fab.ports port).map (·.delayNs)).getD 0) % 2 ^ 32 }
    ∧ t = traceJobBeacon b.jobId n b.arg0 (s.timeTo at_) ∧ b.type = n ∧ portUp (s.timeTo at_) port = true ∧ beaconBad (s.timeTo at_) port b = false
    ∧ isMaster s b.jobId = false ∧ ((downType n = true → hasPart s b.jobId = false)) :=
  ⟨linked (asRelay up), 2, 0, (beacon 2 9 0), 5, _, _, rfl, rfl, by decide +kernel⟩

theorem wit_beaconEffects_1 : ∃ (s : State) (b : Beacon) (j : Job) (k : TickCfg), jobAt s b.jobId = some j ∧ j.state = .armed ∧ b.tick = j.startTick ∧ j.firstNs = none
    ∧ j.cfg = some k :=
  ⟨inJob { job0 with state := .armed, startTick := 9 } up, beacon 1 9 0, { job0 with state := .armed, startTick := 9 }, cfg0, by decide +kernel⟩

theorem wit_beaconEffects_1a : ∃ (s : State) (b : Beacon) (j : Job) (k : TickCfg), jobAt s b.jobId = some j ∧ j.state = .armed ∧ b.tick = j.startTick ∧ j.firstNs = none
    ∧ j.cfg = some k ∧ b.arg0 = k.crc :=
  ⟨inJob { job0 with state := .armed, startTick := 9 } up, beacon 1 9 0, { job0 with state := .armed, startTick := 9 }, cfg0, by decide +kernel⟩

theorem wit_beaconEffects_1b : ∃ (s : State) (b : Beacon) (j : Job) (k : TickCfg), jobAt s b.jobId = some j ∧ j.state = .armed ∧ b.tick = j.startTick ∧ j.firstNs = none
    ∧ j.cfg = some k ∧ b.arg0 ≠ k.crc :=
  ⟨inJob { job0 with state := .armed, startTick := 9 } up, beacon 1 9 1, { job0 with state := .armed, startTick := 9 }, cfg0, by decide +kernel⟩

theorem wit_beaconEffects_2 : ∃ (s : State) (b : Beacon) (j : Job), jobAt s b.jobId = some j
    ∧ (j.state = .running ∨ j.state = .armed ∧ j.firstNs.isSome = true) ∧ tickLate s b = false :=
  ⟨(inJob running (asFollower up)).timeTo 1000, beacon 2 9 0, running, by decide +kernel⟩

theorem wit_beaconEffects_2a : ∃ (s : State) (b : Beacon) (j : Job), jobAt s b.jobId = some j
    ∧ (j.state = .running ∨ j.state = .armed ∧ j.firstNs.isSome = true) ∧ tickLate s b = false ∧ b.arg0 = appliedDUs j b.tick * 1000
    ∧ b.stop = false :=
  ⟨(inJob running (asFollower up)).timeTo 1000, beacon 2 9 0, running, by decide +kernel⟩

theorem wit_beaconEffects_2b : ∃ (s : State) (b : Beacon) (j : Job), jobAt s b.jobId = some j
    ∧ (j.state = .running ∨ j.state = .armed ∧ j.firstNs.isSome = true) ∧ tickLate s b = false ∧ b.arg0 ≠ appliedDUs j b.tick * 1000 :=
  ⟨(inJob running (asFollower up)).timeTo 1000, beacon 2 9 1, running, by decide +kernel⟩

theorem wit_beaconEffects_2c : ∃ (s : State) (b : Beacon) (j : Job), jobAt s b.jobId = some j
    ∧ (j.state = .running ∨ j.state = .armed ∧ j.firstNs.isSome = true) ∧ tickLate s b = false ∧ b.arg0 = appliedDUs j b.tick * 1000 ∧ b.stop = true
    ∧ j.state = .running ∧ b.tick = j.tick :=
  ⟨(inJob running (asFollower up)).timeTo 1000, { beacon 2 9 0 with stop := true }, running, by decide +kernel⟩

theorem wit_beaconEffects_2d : ∃ (s : State) (b : Beacon) (j : Job), jobAt s b.jobId = some j
    ∧ (j.state = .running ∨ j.state = .armed ∧ j.firstNs.isSome = true) ∧ tickLate s b = false ∧ b.arg0 = appliedDUs j b.tick * 1000 ∧ b.stop = true
    ∧ b.tick ≠ j.tick :=
  ⟨(inJob running (asFollower up)).timeTo 1000, { beacon 2 10 0 with stop := true }, running, by decide +kernel⟩

theorem wit_beaconEffects_3 : ∃ (s : State) (b : Beacon) (j : Job), jobAt s b.jobId = some j ∧ tickLate s b = true ∧ j.tickSeen ≠ some j.tick
    ∧ (startRole s b.jobId).isSome = true ∧ isMaster s b.jobId = false ∧ j.misses = 0 :=
  ⟨(inJob running (asFollower up)).timeTo 100000, beacon 2 9 0, running, by decide +kernel⟩

theorem wit_beaconEffects_5 : ∃ (s : State) (b : Beacon) (j : Job), jobAt s b.jobId = some j ∧ j.state = .running ∧ j.phase = .settle ∧ b.tick = j.tick
    ∧ j.sUs < b.arg0 / 1000 :=
  ⟨inJob { running with phase := .settle } up, beacon 4 9 1000, { running with phase := .settle }, by decide +kernel⟩

theorem wit_beaconEffects_6 : ∃ (s : State) (b : Beacon) (j : Job), jobAt s b.jobId = some j ∧ ((j.state = .armed ∨ j.state = .running))
    ∧ j.abortSent = false :=
  ⟨inJob running up, beacon 5 9 0, running, by decide +kernel⟩

theorem wit_beaconEffects_7 : ∃ (s : State) (b : Beacon) (j : Job), jobAt s b.jobId = some j ∧ j.abortSent = true :=
  ⟨inJob { running with abortSent := true } up, beacon 5 9 0, { running with abortSent := true }, by decide +kernel⟩

theorem wit_beaconEffects_8 : ∃ (s : State) (b : Beacon) (j : Job), jobAt s b.jobId = some j ∧ ((j.state = .armed ∨ j.state = .running)) :=
  ⟨inJob running up, beacon 6 9 0, running, by decide +kernel⟩

theorem wit_beaconEffects_9 : ∃ (s : State) (b : Beacon) (j : Job), jobAt s b.jobId = some j ∧ j.state ≠ .armed ∧ j.state ≠ .running :=
  ⟨inJob job0 up, beacon 6 9 0, job0, by decide +kernel⟩

theorem wit_beaconsSent_1 : ∃ (s : State) (job : Nat) (j : Job) (first : Nat) (s2 : State) (q : Nat), nextSeq (s.timeTo (first - 1000000000)) job = (s2, q) ∧ jobAt s job = some j
    ∧ j.state = .armed ∧ j.started = false ∧ j.firstNs = some first ∧ isMaster s job = true :=
  ⟨inJob { job0 with state := .armed, firstNs := some 2000000000 } (asMaster up), 7, { job0 with state := .armed, firstNs := some 2000000000 }, 2000000000, _, _, parts2 _, by decide +kernel⟩

theorem wit_beaconsSent_2 : ∃ (s : State) (job : Nat) (j : Job) (k : Nat) (r : RepeatSet), jobAt s job = some j ∧ dueSet j.repeats = some (k, r) :=
  ⟨inJob { running with repeats := [{ beacon := beacon 6 9 0, left := 1, nextNs := 5, gapNs := 10 }] } up, 7, { running with repeats := [{ beacon := beacon 6 9 0, left := 1, nextNs := 5, gapNs := 10 }] }, 0, { beacon := beacon 6 9 0, left := 1, nextNs := 5, gapNs := 10 }, by decide +kernel⟩

theorem wit_beaconsSent_3 : ∃ (s : State) (job : Nat) (j : Job) (r : RoleRec) (t : State), t = (s.timeTo (j.boundaryNs + 20000 + j.pathNs)).onJob job (fun x => { x with misses := x.misses + 1, tickSeen := some x.tick })
    ∧ jobAt s job = some j ∧ j.state = .running ∧ j.tickSeen ≠ some j.tick ∧ roleOf s job = some r ∧ r.role = .follower :=
  ⟨inJob running (asFollower up), 7, running, ⟨.follower, 0, 100, 2⟩, _, rfl, by decide +kernel⟩

theorem wit_winnowSlices_1 : ∃ (s : State) (t : Tower), (s.obs.winnow.get t).kinds.contains 1 = false :=
  ⟨up, .t0, by decide +kernel⟩

theorem wit_winnowSlices_2 : ∃ (s : State) (t : Tower), (s.obs.winnow.get t).kinds.contains 2 = false :=
  ⟨up, .t0, by decide +kernel⟩

theorem wit_winnowSlices_3 : ∃ (s : State) (t : Tower), (s.obs.winnow.get t).kinds.contains 3 = false :=
  ⟨up, .t1, by decide +kernel⟩

theorem wit_winnowSlices_4 : ∃ (s : State) (t : Tower), (s.obs.winnow.get t).kinds.contains 4 = false :=
  ⟨up, .t1, by decide +kernel⟩

theorem wit_winnowSlices_5 : ∃ (s : State) (t : Tower) (s1 : State), s1 = s.onObs (fun o => { o with winnow := o.winnow.mod t (fun w => { w with pressCursor := (w.pressCursor + 1) % 512, forcedPress := none, kinds := w.kinds.filter (· ≠ 2), run := (w.run + 1) % 2 ^ 32 }) })
    ∧ (s.obs.winnow.get t).kinds.contains 2 = true ∧ (s.obs.winnow.get t).forcedPress = none ∧ (s.obs.winnow.get t).forceMb = none :=
  ⟨up.onObs (fun o => { o with winnow := o.winnow.set .t1 { WinnowT.empty with kinds := [2], pressCursor := 511 } }), .t1, _, rfl, by decide +kernel⟩

theorem wit_winnowSlices_6 : ∃ (s : State) (t : Tower) (u : Nat) (mb : Nat) (c : Cmd) (s1 : State), s1 = s.onObs (fun o => { o with winnow := o.winnow.mod t (fun w => { w with forcedPress := none, forceMb := none, kinds := w.kinds.filter (· ≠ 2), run := (w.run + 1) % 2 ^ 32 }) })
    ∧ (s.obs.winnow.get t).kinds.contains 2 = true ∧ (s.obs.winnow.get t).forcedPress = some u ∧ (s.obs.winnow.get t).forcedLoft = none
    ∧ (s.obs.winnow.get t).forceMb = some mb ∧ startedCmd s1 mb 0x0905 = some c :=
  ⟨holding (run (cmd 0 0x0905 0 (z 8))) (up.onObs (fun o => { o with winnow := o.winnow.set .t1 { WinnowT.empty with kinds := [2], forcedPress := some 511, forceMb := some 0 } })), .t1, 511, 0, run (cmd 0 0x0905 0 (z 8)), _, rfl, by decide +kernel⟩

theorem wit_winnowSlices_7 : ∃ (s : State) (t : Tower) (lines : List Nat) (s1 : State), s1 = lines.foldl (fun st l => loftLineRepair (towerNum t * 2 + (loftSliceUnit s t).1) (loftSliceUnit s t).2 l 3 st) ((s.onObs (fun o => { o with winnow := o.winnow.mod t (fun w => { w with active := [], forcedLoft := none, kinds := w.kinds.filter (· ≠ 1), run := (w.run + 1) % 2 ^ 32, loftCursor := (loftCursorFrom s t w.loftCursor + 1) % 1024 }) })).onLoft (fun x => { x with tw := x.tw.mod t (fun y => { y with redirect := none }) }))
    ∧ (s.obs.winnow.get t).kinds.contains 1 = true ∧ (s.obs.winnow.get t).forcedLoft = none ∧ (s.obs.winnow.get t).forceMb = none :=
  ⟨up.onObs (fun o => { o with winnow := o.winnow.set .t1 { WinnowT.empty with kinds := [1], loftCursor := 1023 } }), .t1, [32767], _, rfl, by decide +kernel⟩

theorem wit_winnowSlices_8 : ∃ (s : State) (t : Tower), (s.obs.winnow.get t).kinds.contains 3 = true :=
  ⟨up.onObs (fun o => { o with winnow := o.winnow.set .t1 { WinnowT.empty with kinds := [3] } }), .t1, by decide +kernel⟩

theorem wit_winnowSlices_9 : ∃ (s : State) (t : Tower), (s.obs.winnow.get t).kinds.contains 4 = true :=
  ⟨up.onObs (fun o => { o with winnow := o.winnow.set .t1 { WinnowT.empty with kinds := [4] } }), .t1, by decide +kernel⟩

theorem wit_winnowSlices_10 : ∃ (s : State) (t : Tower), s.boot.stage = 10 ∧ towerIdle s t = true :=
  ⟨up, .t1, by decide +kernel⟩

theorem wit_powerCommandsComplete_1 : ∃ (s : State) (mb : Nat) (c : Cmd) (w : Nat) (l : Nat) (t : State), t = (if w = 0 then s else s.onGate (fun g => { g with nextLimit := some w }))
    ∧ l = t.gate.nextLimit.getD t.gate.limitW ∧ Waiting s mb 0x0601 c ∧ Plain c 8 ∧ par c 0 4 = w ∧ (w = 0 ∨ 1500 ≤ w ∧ w ≤ 3600) ∧ ZeroPar c 4 4 :=
  ⟨holding (cmd 0 0x0601 0 (leBytes 3600 4 ++ z 4)) (up), 0, cmd 0 0x0601 0 (leBytes 3600 4 ++ z 4), 3600, _, _, rfl, rfl, by decide +kernel⟩

theorem wit_powerCommandsComplete_2 : ∃ (s : State) (mb : Nat) (c : Cmd), Waiting s mb 0x0600 c ∧ Plain c 8 ∧ par c 0 1 ≤ 4
    ∧ ((if par c 0 1 = 1 then 1 ≤ par c 1 1 ∧ par c 1 1 ≤ 5 else par c 1 1 = 0)) ∧ ZeroPar c 2 6 ∧ s.gate.change = none :=
  ⟨holding (cmd 0 0x0600 0 (z 8)) (up), 0, cmd 0 0x0600 0 (z 8), by decide +kernel⟩

theorem wit_powerCommandsComplete_2a : ∃ (s : State) (mb : Nat) (c : Cmd), Waiting s mb 0x0600 c ∧ Plain c 8 ∧ par c 0 1 ≤ 4
    ∧ ((if par c 0 1 = 1 then 1 ≤ par c 1 1 ∧ par c 1 1 ≤ 5 else par c 1 1 = 0)) ∧ ZeroPar c 2 6 ∧ s.gate.change = none
    ∧ (pwrOf (par c 0 1) = s.gate.pwr ∧ par c 1 1 = s.gate.cmdPoint) :=
  ⟨holding (cmd 0 0x0600 0 (z 8)) (up), 0, cmd 0 0x0600 0 (z 8), by decide +kernel⟩

theorem wit_powerCommandsComplete_2b : ∃ (s : State) (mb : Nat) (c : Cmd), Waiting s mb 0x0600 c ∧ Plain c 8 ∧ par c 0 1 ≤ 4
    ∧ ((if par c 0 1 = 1 then 1 ≤ par c 1 1 ∧ par c 1 1 ≤ 5 else par c 1 1 = 0)) ∧ ZeroPar c 2 6 ∧ s.gate.change = none
    ∧ (¬ (pwrOf (par c 0 1) = s.gate.pwr ∧ par c 1 1 = s.gate.cmdPoint)) ∧ transitionOk s (pwrOf (par c 0 1)) = true :=
  ⟨holding (cmd 0 0x0600 0 ([1#8, 5#8] ++ z 6)) (up), 0, cmd 0 0x0600 0 ([1#8, 5#8] ++ z 6), by decide +kernel⟩

theorem wit_powerCommandsComplete_2c : ∃ (s : State) (mb : Nat) (c : Cmd), Waiting s mb 0x0600 c ∧ Plain c 8 ∧ par c 0 1 ≤ 4
    ∧ ((if par c 0 1 = 1 then 1 ≤ par c 1 1 ∧ par c 1 1 ≤ 5 else par c 1 1 = 0)) ∧ ZeroPar c 2 6 ∧ s.gate.change = none
    ∧ (¬ (pwrOf (par c 0 1) = s.gate.pwr ∧ par c 1 1 = s.gate.cmdPoint)) ∧ transitionOk s (pwrOf (par c 0 1)) = false :=
  ⟨holding (cmd 0 0x0600 0 ([4#8] ++ z 7)) (inJob job0 up), 0, cmd 0 0x0600 0 ([4#8] ++ z 7), by decide +kernel⟩

theorem wit_powerCommandsComplete_3 : ∃ (s : State) (mb : Nat) (c : Cmd) (lw : List Nat) (lt : List Nat) (t : State), lw = (List.range 5).map (fun k => par c (1 + k) 1)
    ∧ lt = (List.range 5).map (fun k => par c (6 + k) 1)
    ∧ ((∀ k, k < 5 → lw.getD k 0 ≤ 20 ∧ lt.getD k 0 ≤ 20 ∧ warnBase.getD k 0 - (lw.getD k 0 : Int) < throttleBase.getD k 0 - (lt.getD k 0 : Int)))
    ∧ t = s.onTherm (fun x => { x with lowerWarn := lw, lowerThrottle := lt }) ∧ Waiting s mb 0x0602 c ∧ Plain c 16 ∧ par c 0 1 = 1
    ∧ ZeroPar c 0x0B 5 :=
  ⟨holding (cmd 0 0x0602 0 ([1#8, 20#8, 0#8, 20#8, 0#8, 0#8, 20#8, 0#8, 20#8, 0#8, 0#8] ++ z 5)) (up), 0, cmd 0 0x0602 0 ([1#8, 20#8, 0#8, 20#8, 0#8, 0#8, 20#8, 0#8, 20#8, 0#8, 0#8] ++ z 5), _, _, _, rfl, rfl, by decide +kernel, rfl, by decide +kernel⟩

theorem wit_powerCommandsComplete_4 : ∃ (s : State) (mb : Nat) (c : Cmd), Waiting s mb 0x0602 c ∧ Plain c 16 ∧ par c 0 1 = 0 ∧ ZeroPar c 0x0B 5 :=
  ⟨holding (cmd 0 0x0602 0 (z 16)) (up), 0, cmd 0 0x0602 0 (z 16), by decide +kernel⟩

theorem wit_powerCommandsComplete_5 : ∃ (s : State) (mb : Nat) (c : Cmd) (z : Nat) (i : Nat) (act : Nat) (m : Nat) (t : State), m = (if act = 0 then tabGetD s.therm.masks z 0 ||| 2 ^ i else if act = 1 then tabGetD s.therm.masks z 0 - (tabGetD s.therm.masks z 0 &&& 2 ^ i) else tabGetD s.therm.masks z 0)
    ∧ t = (if act = 2 then s else (s.onTherm (fun x => { x with masks := tabPut x.masks z m })).onFlash (fun x => { x with masks := tabPut x.masks z m }))
    ∧ Waiting s mb 0x0603 c ∧ Plain c 8 ∧ par c 0 1 = z ∧ par c 1 1 = i ∧ par c 2 1 = act ∧ act ≤ 2 ∧ ZeroPar c 3 5 ∧ z < 10 ∧ i < sensorCount z
    ∧ ((act = 0 → (sensorAt s z i).failed = true ∧ 3 ≤ healthyCount s z)) :=
  ⟨holding (cmd 0 0x0603 0 ([0#8, 15#8] ++ z 6)) (up.onTherm (fun t => { t with sensors := [(15, { Sensor.fresh with failed := true })] })), 0, cmd 0 0x0603 0 ([0#8, 15#8] ++ z 6), 0, 15, 0, _, _, rfl, rfl, by decide +kernel⟩

theorem wit_powerCommandsComplete_6 : ∃ (s : State) (mb : Nat) (c : Cmd), Waiting s mb 0x0604 c ∧ Plain c 0 :=
  ⟨holding (cmd 0 0x0604 0 ([])) (up), 0, cmd 0 0x0604 0 ([]), by decide +kernel⟩

/-- POWER.STATE to TRIM under way. -/
def pwrCmd : Cmd := run (cmd 0 0x0600 0 ([1#8, 5#8] ++ z 6))
def pwrUp : State := (holding pwrCmd up).onGate (fun g => { g with change := some ⟨0, .trim, 5, 0⟩, cmdPoint := 5 })

theorem wit_powerTransitionEnds_1 : ∃ (s : State), s.gate.change = none :=
  ⟨up, by decide +kernel⟩

theorem wit_powerTransitionEnds_2 : ∃ (s : State) (at_ : Nat) (drops : List (Nat × Nat)) (ch : PwrChange) (s2 : State) (s4 : State), s2 = enterState ch.target (leaveState drops (s.timeTo at_))
    ∧ s4 = advanceItems (opPointEnd .t1 (opPointEnd .t0 (noteStatus s2 (s2.onGate (fun g => { g with pwr := ch.target, change := none })))))
    ∧ s.gate.change = some ch :=
  ⟨pwrUp, 50, [], ⟨0, .trim, 5, 0⟩, _, _, rfl, rfl, by decide +kernel⟩

theorem wit_powerTransitionEnds_2a : ∃ (s : State) (at_ : Nat) (drops : List (Nat × Nat)) (ch : PwrChange) (s2 : State) (s4 : State) (c : Cmd), s2 = enterState ch.target (leaveState drops (s.timeTo at_))
    ∧ s4 = advanceItems (opPointEnd .t1 (opPointEnd .t0 (noteStatus s2 (s2.onGate (fun g => { g with pwr := ch.target, change := none })))))
    ∧ s.gate.change = some ch ∧ startedCmd s4 ch.mb 0x0600 = some c :=
  ⟨pwrUp, 50, [], ⟨0, .trim, 5, 0⟩, _, _, pwrCmd, rfl, rfl, by decide +kernel⟩

theorem wit_powerTransitionEnds_2b : ∃ (s : State) (at_ : Nat) (drops : List (Nat × Nat)) (ch : PwrChange) (s2 : State) (s4 : State), s2 = enterState ch.target (leaveState drops (s.timeTo at_))
    ∧ s4 = advanceItems (opPointEnd .t1 (opPointEnd .t0 (noteStatus s2 (s2.onGate (fun g => { g with pwr := ch.target, change := none })))))
    ∧ s.gate.change = some ch ∧ startedCmd s4 ch.mb 0x0600 = none :=
  ⟨(up.onGate (fun g => { g with change := some ⟨0, .trim, 5, 0⟩ })), 50, [], ⟨0, .trim, 5, 0⟩, _, _, rfl, rfl, by decide +kernel⟩

/-- A request at the head of both queues. -/
def asking : State := (inJob running up).onGate (fun g => { g with queue := ⟨[⟨7, 9, 0, 3, 1, 3, 0⟩], [⟨7, 9, 0, 3, 1, 3, 0⟩]⟩ })

theorem wit_gateWindows_1 : ∃ (s : State) (t : Nat) (ts : List Nat), (s.gate.grants.filter (fun x => !x.started && grantMay s x)).map (·.startNs) = t :: ts :=
  ⟨(inJob running up).onGate (fun g => { g with grants := [⟨7, 9, 0, 3, 1, 1, ⟨10, 0⟩, 2000, false, 0⟩] }), 2000, [], by decide +kernel⟩

theorem wit_gateWindows_2 : ∃ (s : State), s.gate.grants.filter (fun x => !x.started && grantMay s x) = [] :=
  ⟨up, by decide +kernel⟩

theorem wit_gateWindows_3 : ∃ (s : State) (s' : State) (t : Tower) (u : Tower) (g : Grant), grantHead t s = some s' ∧ s'.gate.grants.length = s.gate.grants.length + 1
    ∧ s'.gate.grants.getLast? = some g ∧ g.towers.testBit (towerNum u) = true :=
  ⟨asking, (grantHead .t0 asking).getD up, .t0, .t1, ((grantHead .t0 asking).getD up).gate.grants.headD ⟨0, 0, 0, 0, 0, 0, ⟨0, 0⟩, 0, false, 0⟩, by decide +kernel⟩

theorem wit_windowDebt_1 : ∃ (s : State), s.gate.on = false :=
  ⟨State.reset, by decide +kernel⟩

theorem wit_windowDebt_2 : ∃ (s : State), s.gate.on = true :=
  ⟨up, by decide +kernel⟩

theorem wit_windowDebt_3 : ∃ (s : State) (t : Tower) (m : Nat) (excess : Int), excess = (m : Int) - 190 - ((windowBudget s.gate.limitW * capPm s t / 1000 : Nat) : Int) :=
  ⟨up, .t0, 190, _, rfl⟩

theorem wit_windowDebt_3a : ∃ (s : State) (t : Tower) (m : Nat) (excess : Int), excess = (m : Int) - 190 - ((windowBudget s.gate.limitW * capPm s t / 1000 : Nat) : Int)
    ∧ excess ≤ 0 :=
  ⟨up, .t0, 190, _, rfl, by decide +kernel⟩

theorem wit_windowDebt_3b : ∃ (s : State) (t : Tower) (m : Nat) (excess : Int) (c : Nat), excess = (m : Int) - 190 - ((windowBudget s.gate.limitW * capPm s t / 1000 : Nat) : Int)
    ∧ 0 < excess ∧ c < 16 ∧ ((∃ g ∈ s.gate.grants, g.towers.testBit (towerNum t) = true ∧ g.eclass = c)) :=
  ⟨up.onGate (fun g => { g with grants := [⟨7, 9, 0, 3, 15, 1, ⟨10, 0⟩, 2000, true, 0⟩] }), .t0, 1000000000, _, 15, rfl, by decide +kernel⟩

theorem wit_windowDebt_3c : ∃ (s : State) (t : Tower) (m : Nat) (excess : Int) (c : Nat), excess = (m : Int) - 190 - ((windowBudget s.gate.limitW * capPm s t / 1000 : Nat) : Int)
    ∧ 0 < excess ∧ c < 16 ∧ ((∀ g ∈ s.gate.grants, g.towers.testBit (towerNum t) = true → g.eclass ≠ c)) ∧ ((∀ g ∈ s.gate.grants, g.eclass < 16)) :=
  ⟨up.onGate (fun g => { g with grants := [⟨7, 9, 0, 3, 15, 1, ⟨10, 0⟩, 2000, true, 0⟩] }), .t0, 1000000000, _, 0, rfl, by decide +kernel⟩

/-- Job 7 running a sheaf with one running item; a sweep at the front of tower 1's queue; a program that stands at END. -/
def busy (i : Item) (s : State) : State := inJob { running with sheaf := some (sheaf0 9 [{ i with st := .running }]) } s
def sweepHdr0 : SweepHdr :=
  { mode := 0, kvfmt := 0, shape := 0, g := 1, dk := 64, dv := 64, entries := 0, tableAddr := 0x40000000, pages := 0, flags := 2, pageAddr := 0,
    outAddr := 0, finalAddr := 0x40001000, scale := 0 }
def sweepOp0 : SweepOp := { job := 7, item := 0, posted := none, hdr := sweepHdr0, granted := true, groups := [], pages := [], appends := [] }
def sweeping (o : SweepOp) : State :=
  (busy { item0 with kind := 2, towers := 2 } backed).onPress (fun p => { p with queues := p.queues.set .t1 [o] })
def badGroup : SweepOp := { sweepOp0 with hdr := { sweepHdr0 with entries := 1 }, groups := [⟨0x40000002000, 0, 0, 0, 0, 0, 0, true⟩] }
def poisonedSweep : State := pinStore 0x40000002000 (z 32) [0x40000002000 / 32] (sweeping badGroup)
set_option maxRecDepth 100000 in
theorem poisonedSweep_faults : (runSweep .t1 badGroup poisonedSweep).2 = some ⟨evPoisonConsumed, 0xFFFF, 0, 0, 0x40000002000⟩ := by decide +kernel
def copyRun0 : CopyRun := { no := 1, job := 7, tick := 9, item := 0, kind := 3, towers := 1, desc := [], pieces := 4, nextPiece := 4, taken := 4 }
def endImage : List Byte := [67#8, 79#8, 76#8, 76#8, 1#8, 0#8, 0#8, 0#8] ++ z 56 ++ [8#8] ++ z 31
def prog0 : Prog := { job := 7, item := 0, tower := .t0, pc := 0, loops := [], outstanding := [], blocked := false, image := endImage }
/-- A COLLECTIVE item with a program. -/
def inProg (p : Prog) (s : State) : State :=
  (busy { item0 with kind := 5, descAddr := 0x40000000, descBytes := 160 } s).onEng (fun e => { e with progs := [p] })

theorem wit_itemsComplete_1 : ∃ (s : State) (job : Nat) (item : Nat) (tick : Nat), itemRuns s job item 1 = some tick ∧ kernelBusy s job item = false :=
  ⟨busy { item0 with kind := 1 } up, 7, 0, 9, by decide +kernel⟩

theorem wit_itemsComplete_2 : ∃ (s : State) (job : Nat) (item : Nat) (tick : Nat), itemRuns s job item 1 = some tick ∧ kernelBusy s job item = true :=
  ⟨(busy { item0 with kind := 1 } up).onCores (fun c => { c with cores := [(255, { Core.empty with copies := [⟨0, 0, 0, 7, 0, 0, none, none, false⟩] })] }), 7, 0, 9, by decide +kernel⟩

theorem wit_itemsComplete_3 : ∃ (s : State) (t : Tower) (index : Nat) (o : SweepOp), (s.press.queues.get t)[index]? = some o
    ∧ (o.granted = false ∨ sweepBlocked ((s.press.queues.get t).take index) o = true) :=
  ⟨sweeping { sweepOp0 with granted := false }, .t1, 0, { sweepOp0 with granted := false }, by decide +kernel⟩

theorem wit_itemsComplete_4 : ∃ (s : State) (t : Tower) (index : Nat) (o : SweepOp) (s1 : State) (s2 : State), (if o.hdr.mode = 2 then (runAppend t o s, none) else runSweep t o s) = (s1, none)
    ∧ s2 = sweepLeave t index s1 ∧ (s.press.queues.get t)[index]? = some o ∧ o.granted = true
    ∧ sweepBlocked ((s.press.queues.get t).take index) o = false :=
  ⟨sweeping sweepOp0, .t1, 0, sweepOp0, _, _, parts_snd (by decide +kernel), rfl, by decide +kernel⟩

set_option maxRecDepth 100000 in
theorem wit_itemsComplete_4a : ∃ (s : State) (t : Tower) (index : Nat) (o : SweepOp) (s1 : State) (s2 : State), (if o.hdr.mode = 2 then (runAppend t o s, none) else runSweep t o s) = (s1, none)
    ∧ s2 = sweepLeave t index s1 ∧ (s.press.queues.get t)[index]? = some o ∧ o.granted = true
    ∧ sweepBlocked ((s.press.queues.get t).take index) o = false ∧ o.posted = none :=
  ⟨sweeping sweepOp0, .t1, 0, sweepOp0, _, _, parts_snd (by decide +kernel), rfl, by decide +kernel⟩

set_option maxRecDepth 100000 in
theorem wit_itemsComplete_4b : ∃ (s : State) (t : Tower) (index : Nat) (o : SweepOp) (s1 : State) (s2 : State) (core : Nat) (slot : Nat) (uid : Nat) (ctr : Nat), (if o.hdr.mode = 2 then (runAppend t o s, none) else runSweep t o s) = (s1, none)
    ∧ s2 = sweepLeave t index s1 ∧ (s.press.queues.get t)[index]? = some o ∧ o.granted = true
    ∧ sweepBlocked ((s.press.queues.get t).take index) o = false ∧ o.posted = some (core, slot, uid, ctr) :=
  ⟨sweeping { sweepOp0 with posted := some (255, 15, 0, 0) }, .t1, 0, { sweepOp0 with posted := some (255, 15, 0, 0) }, _, _, 255, 15, 0, 0, parts_snd (by decide +kernel), rfl, by decide +kernel⟩

theorem wit_itemsComplete_5 : ∃ (s : State) (t : Tower) (index : Nat) (o : SweepOp) (s1 : State) (f : SwFault), runSweep t o s = (s1, some f) ∧ (s.press.queues.get t)[index]? = some o
    ∧ o.granted = true ∧ sweepBlocked ((s.press.queues.get t).take index) o = false ∧ o.hdr.mode ≠ 2 :=
  ⟨poisonedSweep, .t1, 0, badGroup, (runSweep .t1 badGroup poisonedSweep).1, ⟨evPoisonConsumed, 0xFFFF, 0, 0, 0x40000002000⟩, parts_snd poisonedSweep_faults, by decide +kernel⟩

theorem wit_itemsComplete_6 : ∃ (s : State) (job : Nat) (item : Nat) (r : CopyRun), copyFinished s job item = some r :=
  ⟨(busy { item0 with kind := 3 } up).onEng (fun e => { e with runs := [copyRun0] }), 7, 0, copyRun0, by decide +kernel⟩

theorem wit_itemsComplete_7 : ∃ (s : State) (job : Nat) (item : Nat) (p : Prog) (x : SeqInstr × Nat × Option Mesh) (tick : Nat), seqReady s job item 8 = some (p, x) ∧ itemRuns s job item 5 = some tick
    ∧ p.outstanding = [] :=
  ⟨inProg prog0 up, 7, 0, prog0, ((seqReady (inProg prog0 up) 7 0 8).map (·.2)).getD (⟨0, 0, 0, 0, 0, 0, 0, 0, 0, 0, 0⟩, 0, none), 9, by decide +kernel⟩

theorem wit_itemsComplete_8 : ∃ (s : State) (job : Nat) (tick : Nat) (item : Nat) (energy : Nat) (g : Grant), g ∈ (gateRelease job tick item energy s).gate.grants :=
  ⟨up.onGate (fun g => { g with grants := [⟨7, 9, 0, 3, 1, 1, ⟨10, 0⟩, 2000, true, 0⟩, ⟨7, 9, 1, 3, 1, 1, ⟨10, 0⟩, 2000, true, 0⟩] }), 7, 9, 0, 5, ⟨7, 9, 1, 3, 1, 1, ⟨10, 0⟩, 2000, true, 0⟩, by decide +kernel⟩

/-- The rail on, the stages past S3; what a sample that carries reports makes of it before it acts. -/
def railed : State := up.onMod (fun m => { m with rail := true })
def clampedZone (z : Nat) (s : State) : State := s.onTherm (fun t => { t with clamped := t.clamped ++ [z], zoneC := tabPut t.zoneC z 105 })

theorem wit_thermalCommands_1 : ∃ (s : State), (s.mod.rail = false ∨ s.boot.running = false ∨ s.boot.stage < 3) :=
  ⟨up, by decide +kernel⟩

theorem wit_thermalCommands_2 : ∃ (s : State) (at_ : Nat) (reports : List SensorReport) (s3 : State), s3 = postFailed (failedSensors s) ((List.range 26).foldl judgeZone (thresholdsApply (((reports.foldl applyReport (s.timeTo at_)).therm.sensors.map (·.1)).foldl judgeSensor (reports.foldl applyReport (s.timeTo at_)))))
    ∧ s.mod.rail = true ∧ s.boot.running = true ∧ 3 ≤ s.boot.stage ∧ (List.range 26).find? (fun z => decide (levelOf s3 z = 3)) = none :=
  ⟨railed, 100, [⟨25, 0, some 60⟩], _, rfl, by decide +kernel⟩

theorem wit_thermalCommands_3 : ∃ (s : State) (at_ : Nat) (reports : List SensorReport) (s3 : State) (z : Nat), s3 = postFailed (failedSensors s) ((List.range 26).foldl judgeZone (thresholdsApply (((reports.foldl applyReport (s.timeTo at_)).therm.sensors.map (·.1)).foldl judgeSensor (reports.foldl applyReport (s.timeTo at_)))))
    ∧ s.mod.rail = true ∧ s.boot.running = true ∧ 3 ≤ s.boot.stage ∧ (List.range 26).find? (fun z => decide (levelOf s3 z = 3)) = some z :=
  ⟨railed, 100, [⟨25, 0, some 105⟩], _, 25, rfl, by decide +kernel⟩

theorem wit_thermalCommands_4 : ∃ (s : State) (t : Tower), pointStep s t = none ∧ capSteps s t = [] :=
  ⟨up, .t0, by decide +kernel⟩

theorem wit_thermalCommands_5 : ∃ (s : State) (t : Tower) (due : Nat) (p : Nat), pointStep s t = some (due, p) ∧ capSteps s t = [] :=
  ⟨clampedZone (rafterZone .t1) up, .t1, 1000000, 1, by decide +kernel⟩

theorem wit_thermalCommands_6 : ∃ (s : State) (t : Tower) (due : Nat) (z : Nat) (c : Nat), pointStep s t = none ∧ capSteps s t = [(z, due, c)] :=
  ⟨clampedZone 2 up, .t0, 1000000, 2, 750, by decide +kernel⟩

theorem wit_thermalCommands_7 : ∃ (s : State) (t : Tower) (d1 : Nat) (d2 : Nat) (p : Nat) (z : Nat) (c : Nat) (s1 : State) (s2 : State), s1 = s.timeTo (min d1 d2) ∧ s2 = (if d1 ≤ s1.nowNs then stepPoint t p s1 else s1)
    ∧ pointStep s t = some (d1, p) ∧ capSteps s t = [(z, d2, c)] :=
  ⟨clampedZone 2 (clampedZone (rafterZone .t0) up), .t0, 1000000, 1000000, 1, 2, 750, _, _, rfl, rfl, by decide +kernel⟩

theorem wit_thermalCommands_8 : ∃ (s : State) (t : Tower) (p : Nat), s.therm.clamped.contains (rafterZone t) = true ∧ s.gate.thermPoint.get t = p :=
  ⟨clampedZone (rafterZone .t1) up, .t1, 0, by decide +kernel⟩

theorem wit_thermalCommands_8a : ∃ (s : State) (t : Tower) (p : Nat), s.therm.clamped.contains (rafterZone t) = true ∧ s.gate.thermPoint.get t = p
    ∧ zoneHot s (rafterZone t) = true ∧ p < 5 :=
  ⟨clampedZone (rafterZone .t1) up, .t1, 0, by decide +kernel⟩

theorem wit_thermalCommands_8b : ∃ (s : State) (t : Tower) (p : Nat), s.therm.clamped.contains (rafterZone t) = true ∧ s.gate.thermPoint.get t = p
    ∧ zoneHot s (rafterZone t) = false ∧ zoneCool s (rafterZone t) = true ∧ s.gate.cmdPoint + 1 < p :=
  ⟨(up.onTherm (fun t => { t with clamped := [rafterZone .t1] })).onGate (fun g => { g with thermPoint := ⟨0, 5⟩ }), .t1, 5, by decide +kernel⟩

theorem wit_thermalCommands_9 : ∃ (s : State), ((∀ k, k < 5 → warnOf s k < throttleOf s k)) :=
  ⟨up, by decide +kernel⟩

theorem wit_thermalCommands_10 : ∃ (s : State) (t : Tower) (z : Nat) (cap : Nat) (last : Nat), z ≠ rafterZone t ∧ capOf s z = (cap, last) :=
  ⟨clampedZone 2 up, .t0, 2, 1000, 0, by decide +kernel⟩

theorem wit_thermalCommands_10a : ∃ (s : State) (t : Tower) (z : Nat) (cap : Nat) (last : Nat), z ≠ rafterZone t ∧ capOf s z = (cap, last) ∧ zoneHot s z = true ∧ 250 < cap :=
  ⟨clampedZone 2 up, .t0, 2, 1000, 0, by decide +kernel⟩

theorem wit_thermalCommands_10b : ∃ (s : State) (t : Tower) (z : Nat) (cap : Nat) (last : Nat), z ≠ rafterZone t ∧ capOf s z = (cap, last) ∧ zoneHot s z = false ∧ zoneCool s z = true
    ∧ cap < 1000 :=
  ⟨up.onTherm (fun t => { t with clamped := [2], caps := [(2, (750, 0))] }), .t0, 2, 750, 0, by decide +kernel⟩

theorem wit_thermalCommands_11 : ∃ (s : State) (t : Tower) (z : Nat) (c : Nat), s.therm.clamped.contains z = true ∧ towerOfZone z = t
    ∧ ((∀ y ∈ s.therm.clamped, towerOfZone y = t → y ≠ z → c ≤ (capOf s y).1)) ∧ c ≤ 1000 :=
  ⟨clampedZone 2 up, .t0, 2, 750, by decide +kernel⟩

theorem wit_bondDropsAndPoints_1 : ∃ (zone : Nat), 10 ≤ zone :=
  ⟨10, by decide +kernel⟩

theorem wit_bondDropsAndPoints_2 : ∃ (zone : Nat) (mv : Nat), zone < 10 ∧ mv ≤ 25 :=
  ⟨9, 25, by decide +kernel⟩

theorem wit_bondDropsAndPoints_3 : ∃ (zone : Nat) (mv : Nat), zone < 10 ∧ 25 < mv ∧ mv ≤ 60 :=
  ⟨9, 60, by decide +kernel⟩

theorem wit_bondDropsAndPoints_4 : ∃ (s : State) (zone : Nat) (mv : Nat) (x : Tower) (s1 : State), x = towerOfZone zone
    ∧ s1 = traceDrop zone 2 (retarget x ((noteDrop zone mv s).onTherm (fun y => { y with closed := y.closed.set x true }))) ∧ zone < 10 ∧ 60 < mv :=
  ⟨up, 9, 61, _, _, rfl, rfl, by decide +kernel⟩

theorem wit_bondDropsAndPoints_4a : ∃ (s : State) (zone : Nat) (mv : Nat) (x : Tower) (s1 : State) (j : Job), x = towerOfZone zone
    ∧ s1 = traceDrop zone 2 (retarget x ((noteDrop zone mv s).onTherm (fun y => { y with closed := y.closed.set x true }))) ∧ zone < 10 ∧ 60 < mv
    ∧ jobOfTower s1 x = some j :=
  ⟨inJob job0 up, 9, 61, _, _, job0, rfl, rfl, by decide +kernel⟩

theorem wit_bondDropsAndPoints_4b : ∃ (s : State) (zone : Nat) (mv : Nat) (x : Tower) (s1 : State), x = towerOfZone zone
    ∧ s1 = traceDrop zone 2 (retarget x ((noteDrop zone mv s).onTherm (fun y => { y with closed := y.closed.set x true }))) ∧ zone < 10 ∧ 60 < mv
    ∧ jobOfTower s1 x = none :=
  ⟨up, 9, 61, _, _, rfl, rfl, by decide +kernel⟩

theorem wit_bondDropsAndPoints_5 : ∃ (s : State) (t : Tower), s.gate.slew.get t = none :=
  ⟨up, .t0, by decide +kernel⟩

theorem wit_bondDropsAndPoints_6 : ∃ (s : State) (t : Tower) (p : Nat), s.gate.slew.get t = some p ∧ s.gate.point.get t ≤ targetPoint s t :=
  ⟨up.onGate (fun g => { g with slew := ⟨some 0, none⟩ }), .t0, 0, by decide +kernel⟩

theorem wit_bondDropsAndPoints_7 : ∃ (s : State) (t : Tower) (p : Nat), s.gate.slew.get t = some p ∧ targetPoint s t < s.gate.point.get t :=
  ⟨up.onGate (fun g => { g with slew := ⟨none, some 0⟩, point := ⟨0, 5⟩ }), .t1, 0, by decide +kernel⟩

theorem wit_deviceResetLeaves_2 : ∃ (s : State), barOk s = true :=
  ⟨up, by decide +kernel⟩

theorem wit_deviceResetLeaves_3 : ∃ (v : BitVec 32), v ≠ 0x0000D15E#32 :=
  ⟨0x0000D15F#32, by decide +kernel⟩

/-- RESET.LEVEL running, for a core and for a partition; bring-up at a stage. -/
def rstCmd : Cmd := run (cmd 0 0x0700 0 (z 8))
def rstCore : State := (holding rstCmd up).onBoot (fun b => { b with coreReset := some (0, 131, 3) })
def rstPart : State := (holding rstCmd up).onBoot (fun b => { b with part := some ⟨0, true, 2, 0, 0⟩ })
def atStage (n : Nat) : State := State.reset.onBoot (fun b => { b with stage := n, running := true })

theorem wit_resetCommandsComplete_1 : ∃ (s : State) (mb : Nat) (c : Cmd), Waiting s mb 0x0700 c ∧ Plain c 8 ∧ par c 0 1 = 3 ∧ par c 1 1 = 0 ∧ par c 2 2 = 0
    ∧ ZeroPar c 4 4 ∧ s.boot.part = none ∧ s.boot.coreReset = none :=
  ⟨holding (cmd 0 0x0700 0 ([3#8] ++ z 7)) (up), 0, cmd 0 0x0700 0 ([3#8] ++ z 7), by decide +kernel⟩

theorem wit_resetCommandsComplete_2 : ∃ (s : State) (mb : Nat) (c : Cmd), Waiting s mb 0x0700 c ∧ Plain c 8 ∧ par c 0 1 = 0 ∧ par c 1 1 = 0
    ∧ coreExists s (par c 2 2) = true ∧ ZeroPar c 4 4 ∧ s.boot.part = none ∧ s.boot.coreReset = none ∧ s.boot.recovery = false ∧ s.gate.pwr ≠ .rest
    ∧ s.gate.pwr ≠ .dark ∧ coreBusy s (par c 2 2) = false :=
  ⟨holding (cmd 0 0x0700 0 ([0#8, 0#8, 131#8] ++ z 5)) (up), 0, cmd 0 0x0700 0 ([0#8, 0#8, 131#8] ++ z 5), by decide +kernel⟩

theorem wit_resetCommandsComplete_3 : ∃ (s : State) (mb : Nat) (c : Cmd) (lv : Nat) (p : Nat), Waiting s mb 0x0700 c ∧ Plain c 8 ∧ par c 0 1 = lv ∧ (lv = 1 ∨ lv = 2) ∧ par c 1 1 = p
    ∧ p ≤ 2 ∧ ((s.jobs.partMode = 0 → p = 0)) ∧ par c 2 2 = 0 ∧ ZeroPar c 4 4 ∧ s.boot.part = none ∧ s.boot.coreReset = none
    ∧ s.boot.recovery = false ∧ s.gate.pwr ≠ .rest ∧ s.gate.pwr ≠ .dark :=
  ⟨holding (cmd 0 0x0700 0 ([2#8] ++ z 7)) (up), 0, cmd 0 0x0700 0 ([2#8] ++ z 7), 2, 0, by decide +kernel⟩

theorem wit_resetCommandsComplete_4 : ∃ (s : State), s.boot.coreReset = none :=
  ⟨up, by decide +kernel⟩

theorem wit_resetCommandsComplete_5 : ∃ (s : State) (at_ : Nat) (mb : Nat) (core : Nat) (start : Nat) (c : Cmd) (s2 : State), s2 = (onCore core (fun k => { Core.empty with held := k.held }) (s.timeTo at_)).onBoot (fun b => { b with coreReset := none })
    ∧ s.boot.coreReset = some (mb, core, start) ∧ Running s mb 0x0700 c :=
  ⟨rstCore, 50, 0, 131, 3, rstCmd, _, rfl, by decide +kernel⟩

theorem wit_resetCommandsComplete_6 : ∃ (s : State), s.boot.part = none :=
  ⟨up, by decide +kernel⟩

theorem wit_resetCommandsComplete_7 : ∃ (s : State) (at_ : Nat) (failed : List (Tower × Nat)) (p : PartReset) (ts : List Tower) (s1 : State) (f : State) (lost : Nat) (s4 : State), ts = towersOfPartition p.partition ∧ s1 = drainCores ts (s.timeTo at_)
    ∧ ts.foldl (fun a t => flushTower t a) (s1, 0) = (f, lost)
    ∧ s4 = (mapOutCores 2 (failed.filter (fun x => ts.contains x.1)) (if p.towerLevel then towerLevelEnd ts (clearCores ts f) else clearCores ts f)).onBoot (fun b => { b with part := none })
    ∧ s.boot.part = some p :=
  ⟨rstPart, 50, [(.t1, 3)], ⟨0, true, 2, 0, 0⟩, _, _, _, _, _, rfl, rfl, parts2 _, rfl, by decide +kernel⟩

theorem wit_resetCommandsComplete_7a : ∃ (s : State) (at_ : Nat) (failed : List (Tower × Nat)) (p : PartReset) (ts : List Tower) (s1 : State) (f : State) (lost : Nat) (s4 : State) (c : Cmd), ts = towersOfPartition p.partition ∧ s1 = drainCores ts (s.timeTo at_)
    ∧ ts.foldl (fun a t => flushTower t a) (s1, 0) = (f, lost)
    ∧ s4 = (mapOutCores 2 (failed.filter (fun x => ts.contains x.1)) (if p.towerLevel then towerLevelEnd ts (clearCores ts f) else clearCores ts f)).onBoot (fun b => { b with part := none })
    ∧ s.boot.part = some p ∧ startedCmd s4 p.mb 0x0700 = some c :=
  ⟨rstPart, 50, [(.t1, 3)], ⟨0, true, 2, 0, 0⟩, _, _, _, _, _, rstCmd, rfl, rfl, parts2 _, rfl, by decide +kernel⟩

theorem wit_resetCommandsComplete_7b : ∃ (s : State) (at_ : Nat) (failed : List (Tower × Nat)) (p : PartReset) (ts : List Tower) (s1 : State) (f : State) (lost : Nat) (s4 : State), ts = towersOfPartition p.partition ∧ s1 = drainCores ts (s.timeTo at_)
    ∧ ts.foldl (fun a t => flushTower t a) (s1, 0) = (f, lost)
    ∧ s4 = (mapOutCores 2 (failed.filter (fun x => ts.contains x.1)) (if p.towerLevel then towerLevelEnd ts (clearCores ts f) else clearCores ts f)).onBoot (fun b => { b with part := none })
    ∧ s.boot.part = some p ∧ startedCmd s4 p.mb 0x0700 = none :=
  ⟨up.onBoot (fun b => { b with part := some ⟨0, true, 2, 0, 0⟩ }), 50, [(.t1, 3)], ⟨0, true, 2, 0, 0⟩, _, _, _, _, _, rfl, rfl, parts2 _, rfl, by decide +kernel⟩

theorem wit_resetCommandsComplete_8 : ∃ (s : State) (i : Nat) (x : Stack), tabGet s.hbm.hbmStacks i = some x ∧ s.boot.running = true ∧ s.boot.cold = false
    ∧ s.boot.stage = 0 ∧ x.selfRefresh = true ∧ x.lost = false :=
  ⟨((atStage 0).onBoot (fun b => { b with cold := false })).onHbm (fun h => { h with hbmStacks := [(15, { Stack.fresh with selfRefresh := true })] }), 15, { Stack.fresh with selfRefresh := true }, by decide +kernel⟩

theorem wit_resetCommandsComplete_9 : ∃ (s : State) (i : Nat) (x : Stack), tabGet s.hbm.hbmStacks i = some x
    ∧ (s.boot.running = false ∨ s.boot.cold = true ∨ s.boot.stage ≠ 0 ∨ x.selfRefresh = false ∨ x.lost = true) :=
  ⟨up, 0, Stack.fresh, by decide +kernel⟩

/-- What the work of a stage found. -/
def found (code : Nat) : StageEnd :=
  { durationUs := 10, code := code, failedCores := [], failedGroups := [], failedLines := [], rate := 4, portsUp := [], rebuildIdCache := false
    badSpares := [], drops := [] }

theorem wit_bringupStages_1 : ∃ (s : State) (r : StageEnd), s.boot.running = true ∧ s.boot.failed = false ∧ s.boot.stage < 9 ∧ stageWaits s = false
    ∧ r.code ≠ 0 ∧ codeStage r.code = s.boot.stage :=
  ⟨atStage 8, found 0x8001, by decide +kernel⟩

theorem wit_bringupStages_2 : ∃ (s : State) (r : StageEnd) (w : StageWork), w = stageWork r (s.timeTo ((s.boot.elapsedUs + r.durationUs) * 1000))
    ∧ s.boot.running = true ∧ s.boot.failed = false ∧ s.boot.stage < 9 ∧ stageWaits s = false ∧ r.code = 0 :=
  ⟨atStage 5, found 0, _, rfl, by decide +kernel⟩

theorem wit_bringupStages_3 : ∃ (s : State) (r : StageEnd), (s.boot.running = false ∨ s.boot.failed = true ∨ 9 ≤ s.boot.stage ∨ stageWaits s = true ∨ r.code ≠ 0 ∧ codeStage r.code ≠ s.boot.stage) :=
  ⟨atStage 9, found 0, by decide +kernel⟩

theorem wit_bringupStages_4 : ∃ (s : State) (r : StageEnd), s.boot.running = true ∧ s.boot.failed = false
    ∧ (s.boot.stage = 0 ∨ s.boot.stage = 3 ∧ s.therm.closed.t0 = false ∧ s.therm.closed.t1 = false) ∧ stageWaits s = false ∧ r.code = 0 :=
  ⟨atStage 3, found 0, by decide +kernel⟩

theorem wit_bringupStages_5 : ∃ (s : State) (r : StageEnd), s.boot.running = true ∧ s.boot.failed = false ∧ s.boot.stage = 6 ∧ stageWaits s = false
    ∧ r.code = 0 ∧ bootVerify (s.timeTo ((s.boot.elapsedUs + r.durationUs) * 1000)) ≠ 0 :=
  ⟨atStage 6, found 0, by decide +kernel⟩

theorem wit_bringupReadsComplete_1 : ∃ (s : State) (mb : Nat) (c : Cmd), Waiting s mb 0x0701 c ∧ Plain c 0 :=
  ⟨holding (cmd 0 0x0701 0 ([])) (up), 0, cmd 0 0x0701 0 ([]), by decide +kernel⟩

theorem wit_bringupReadsComplete_2 : ∃ (s : State) (mb : Nat) (c : Cmd) (src : Nat) (idx : Nat) (bank : Nat) (page : Nat) (n : Nat) (off : Nat) (live : Bool), (live = decide (src = 3 ∧ par c 2 1 = 1)) ∧ Waiting s mb 0x0702 c ∧ Plain c 16
    ∧ par c 0 1 = src ∧ par c 1 1 = idx ∧ par c 2 1 ≤ 1 ∧ par c 3 1 = page ∧ par c 4 1 = bank ∧ ZeroPar c 5 1 ∧ par c 6 2 = off ∧ par c 8 2 = n
    ∧ ZeroPar c 0xA 6 ∧ 1 ≤ n ∧ off ≤ 255 ∧ off + n ≤ 256 ∧ src ≤ 3 ∧ ((src < 2 → idx = 0)) ∧ ((src = 2 → idx ≤ 15 ∧ off + n ≤ 16))
    ∧ ((src = 3 → idx ≤ 5)) ∧ ((src ≠ 3 → page = 0 ∧ bank = 0)) :=
  ⟨holding (cmd 0 0x0702 0 (z 6 ++ leBytes 255 2 ++ leBytes 1 2 ++ z 6)) (up), 0, cmd 0 0x0702 0 (z 6 ++ leBytes 255 2 ++ leBytes 1 2 ++ z 6), 0, 0, 0, 0, 1, 255, _, rfl, by decide +kernel⟩

theorem wit_bringupReadsComplete_2a : ∃ (s : State) (mb : Nat) (c : Cmd) (r : CmisReport) (src : Nat) (idx : Nat) (bank : Nat) (page : Nat) (n : Nat) (off : Nat) (live : Bool), (live = decide (src = 3 ∧ par c 2 1 = 1)) ∧ Waiting s mb 0x0702 c ∧ Plain c 16
    ∧ par c 0 1 = src ∧ par c 1 1 = idx ∧ par c 2 1 ≤ 1 ∧ par c 3 1 = page ∧ par c 4 1 = bank ∧ ZeroPar c 5 1 ∧ par c 6 2 = off ∧ par c 8 2 = n
    ∧ ZeroPar c 0xA 6 ∧ 1 ≤ n ∧ off ≤ 255 ∧ off + n ≤ 256 ∧ src ≤ 3 ∧ ((src < 2 → idx = 0)) ∧ ((src = 2 → idx ≤ 15 ∧ off + n ≤ 16))
    ∧ ((src = 3 → idx ≤ 5)) ∧ ((src ≠ 3 → page = 0 ∧ bank = 0)) ∧ identOf s src idx bank page off n (if live then some r else none) = none :=
  ⟨holding (cmd 0 0x0702 0 (z 6 ++ leBytes 255 2 ++ leBytes 1 2 ++ z 6)) (atStage 1), 0, cmd 0 0x0702 0 (z 6 ++ leBytes 255 2 ++ leBytes 1 2 ++ z 6), ⟨false, false, true, [], [], []⟩, 0, 0, 0, 0, 1, 255, _, rfl, by decide +kernel⟩

theorem wit_bringupReadsComplete_2b : ∃ (s : State) (mb : Nat) (c : Cmd) (r : CmisReport) (src : Nat) (idx : Nat) (bank : Nat) (page : Nat) (n : Nat) (off : Nat) (live : Bool), (live = decide (src = 3 ∧ par c 2 1 = 1)) ∧ Waiting s mb 0x0702 c ∧ Plain c 16
    ∧ par c 0 1 = src ∧ par c 1 1 = idx ∧ par c 2 1 ≤ 1 ∧ par c 3 1 = page ∧ par c 4 1 = bank ∧ ZeroPar c 5 1 ∧ par c 6 2 = off ∧ par c 8 2 = n
    ∧ ZeroPar c 0xA 6 ∧ 1 ≤ n ∧ off ≤ 255 ∧ off + n ≤ 256 ∧ src ≤ 3 ∧ ((src < 2 → idx = 0)) ∧ ((src = 2 → idx ≤ 15 ∧ off + n ≤ 16))
    ∧ ((src = 3 → idx ≤ 5)) ∧ ((src ≠ 3 → page = 0 ∧ bank = 0)) ∧ (identOf s src idx bank page off n (if live then some r else none)).isSome = true :=
  ⟨holding (cmd 0 0x0702 0 (z 6 ++ leBytes 255 2 ++ leBytes 1 2 ++ z 6)) (up), 0, cmd 0 0x0702 0 (z 6 ++ leBytes 255 2 ++ leBytes 1 2 ++ z 6), ⟨false, false, true, [], [], []⟩, 0, 0, 0, 0, 1, 255, _, rfl, by decide +kernel⟩

theorem wit_bringupReadsComplete_3 : ∃ (s : State), 2 ≤ s.boot.stage :=
  ⟨up, by decide +kernel⟩

theorem wit_bringupReadsComplete_4 : ∃ (s : State) (mb : Nat) (c : Cmd) (all : List Defect), all = (if par c 4 1 = 2 then [] else s.fuses.defects) ++ (if par c 4 1 = 1 then [] else s.flash.defects)
    ∧ Waiting s mb 0x0703 c ∧ Plain c 8 ∧ par c 4 1 ≤ 2 ∧ ZeroPar c 5 3 :=
  ⟨holding (cmd 0 0x0703 0 (z 8)) (up), 0, cmd 0 0x0703 0 (z 8), _, rfl, by decide +kernel⟩

/-- FW.COMMIT running. -/
def fwCmd : Cmd := run (cmd 0 0x0A01 0 (z 16))
def fwState : State := (holding fwCmd up).onTrust (fun t => { t with writing := some ⟨0, 0⟩ })
/-! ### A firmware image that verifies. Its CRC, its public key's root and the key hash stand as terms; the kernel never evaluates them. -/

theorem sha256_length (bs : List Byte) : (sha256 bs).length = 32 := by
  unfold sha256
  simp [beBytes]

theorem lmsClimb_length (ident : List Byte) (ps : List (List Byte)) : ∀ (n : Nat) (t : List Byte), t.length = 32 → (lmsClimb ident ps n t).length = 32 := by
  induction ps with
  | nil => intro n t h; exact h
  | cons y ys ih => intro n t _; exact ih _ _ (sha256_length _)

theorem zeroRange_mid (a c d : List Byte) : zeroRange (a ++ c ++ d) a.length c.length = a ++ z c.length ++ d := by
  unfold zeroRange z
  simp [List.drop_append]

def imgHead : List Byte :=
  leBytes 0x594E5247 4 ++ leBytes 1 4 ++ leBytes 4096 4 ++ z 12 ++ (leBytes 256 4 ++ z 4) ++ (leBytes 256 4 ++ z 4) ++ (leBytes 256 4 ++ z 4)
    ++ leBytes 1512 4 ++ leBytes 2584 4 ++ z 4
def imgRest : List Byte := z 1448
/-- The signature: types LMS 6 and LM-OTS 3, all else 0. -/
def sigOts : List Byte := beBytes 3 4 ++ z (32 + 32 * 67)
def sigLms : List Byte := z 4 ++ sigOts ++ beBytes 6 4 ++ z 320
def imgSig : List Byte := z 4 ++ sigLms
def imgCrc : Nat := crc32c (imgHead ++ z 4 ++ imgRest ++ z 2584)
def imgDigest : List Byte := sha256 (imgHead ++ leBytes imgCrc 4 ++ imgRest ++ z 2584)
def rootOf (digest : List Byte) : List Byte :=
  lmsClimb (z 16) ((List.range 10).map (fun i => sliceBytes sigLms (4 + 36 + 32 * 67 + 4 + 32 * i) 32)) (2 ^ 10 + 0)
    (sha256 (z 16 ++ beBytes (2 ^ 10 + 0) 4 ++ beBytes 0x8282 2 ++ otsCandidate (z 16 ++ beBytes 0 4) 67 4 sigOts digest))
def imgPub : List Byte := beBytes 1 4 ++ (beBytes 6 4 ++ beBytes 3 4 ++ z 16 ++ rootOf imgDigest)
def imgBlock : List Byte := leBytes 0x42534D4C 4 ++ z 4 ++ (imgPub ++ (leBytes 2512 4 ++ imgSig))
def image0 : List Byte := imgHead ++ leBytes imgCrc 4 ++ imgRest ++ imgBlock

theorem rootOf_length (d : List Byte) : (rootOf d).length = 32 := lmsClimb_length _ _ _ _ (sha256_length _)
theorem imgHead_length : imgHead.length = 60 := by decide
theorem imgPub_length : imgPub.length = 60 := by
  simp only [imgPub, List.length_append, rootOf_length]; decide
theorem imgBlock_length : imgBlock.length = 2584 := by
  simp only [imgBlock, List.length_append, imgPub_length, imgSig, sigLms, sigOts, z, List.length_replicate]; decide
theorem image0_length : image0.length = 4096 := by
  simp only [image0, List.length_append, imgBlock_length, imgHead_length, imgRest, z, List.length_replicate, leBytes_length]

/-- The header and what lies before the signature block, in parts. -/
theorem image0_split : image0 = imgHead ++ (leBytes imgCrc 4 ++ (imgRest ++ imgBlock)) := by
  simp only [image0, List.append_assoc]

theorem drop_app (a b : List Byte) (n : Nat) (h : a.length = n) : (a ++ b).drop n = b := by subst h; simp
theorem image0_block : (image0.drop 1512).take 2584 = imgBlock := by
  unfold image0
  rw [drop_app _ _ _ (by simp only [List.length_append, imgHead_length, leBytes_length, imgRest, z, List.length_replicate])]
  rw [List.take_of_length_le (Nat.le_of_eq imgBlock_length)]

theorem image0_zero (a : List Byte) (h : a.length = 1512) : zeroRange (a ++ imgBlock) 1512 2584 = a ++ z 2584 := by
  have := zeroRange_mid a imgBlock []
  rw [h, imgBlock_length] at this
  simpa using this

theorem image0_digest : imageDigest image0 1512 2584 = imgDigest := by
  unfold imageDigest image0
  rw [image0_zero _ (by simp only [List.length_append, imgHead_length, leBytes_length, imgRest, z, List.length_replicate]), imgDigest]

theorem image0_crcField : fieldAt image0 0x3C 4 = imgCrc := by
  rw [image0_split]; unfold fieldAt
  rw [drop_app _ _ _ imgHead_length, List.take_append_of_le_length (by simp), List.take_of_length_le (by simp), leNat_leBytes]
  exact Nat.mod_eq_of_lt (BitVec.isLt _)

theorem image0_zeroed : imageZeroed image0 0x3C 1512 2584 = imgHead ++ z 4 ++ imgRest ++ z 2584 := by
  unfold imageZeroed
  have h := zeroRange_mid imgHead (leBytes imgCrc 4) (imgRest ++ imgBlock)
  rw [imgHead_length, leBytes_length] at h
  rw [show image0 = imgHead ++ leBytes imgCrc 4 ++ (imgRest ++ imgBlock) by simp only [image0, List.append_assoc], h, ← List.append_assoc]
  exact image0_zero _ (by simp only [List.length_append, imgHead_length, imgRest, z, List.length_replicate])

theorem field_head (off n : Nat) (h : off + n ≤ 60) : fieldAt image0 off n = fieldAt imgHead off n := by
  rw [image0_split]; unfold fieldAt
  rw [List.drop_append_of_le_length (by rw [imgHead_length]; omega), List.take_append_of_le_length (by rw [List.length_drop, imgHead_length]; omega)]

theorem zero_head (off n : Nat) (h : off + n ≤ 60) : zeroAt image0 off n = zeroAt imgHead off n := by
  rw [image0_split]; unfold zeroAt
  rw [List.drop_append_of_le_length (by rw [imgHead_length]; omega), List.take_append_of_le_length (by rw [List.length_drop, imgHead_length]; omega)]

theorem zero_rest (off n : Nat) (h0 : 64 ≤ off) (h : off + n ≤ 1512) : zeroAt image0 off n = true := by
  rw [image0_split]; unfold zeroAt
  rw [show imgHead ++ (leBytes imgCrc 4 ++ (imgRest ++ imgBlock)) = (imgHead ++ leBytes imgCrc 4) ++ (imgRest ++ imgBlock) by simp only [List.append_assoc],
    show off = 64 + (off - 64) by omega, ← List.drop_drop, drop_app _ _ 64 (by simp [imgHead_length]),
    List.drop_append_of_le_length (by simp only [imgRest, z, List.length_replicate]; omega),
    List.take_append_of_le_length (by simp only [List.length_drop, imgRest, z, List.length_replicate]; omega)]
  exact List.all_eq_true.mpr (fun b hb => by
    rw [List.eq_of_mem_replicate (List.mem_of_mem_drop (List.mem_of_mem_take hb))]; rfl)

theorem image0_crcOk : imageCrcOk image0 = true := by
  unfold imageCrcOk
  rw [field_head 0x30 4 (by omega), field_head 0x34 4 (by omega), show fieldAt imgHead 0x30 4 = 1512 by decide +kernel,
    show fieldAt imgHead 0x34 4 = 2584 by decide +kernel, image0_zeroed, image0_crcField, imgCrc]
  exact decide_eq_true rfl

theorem image0_headerOk : imageHeaderOk image0 = true := by
  unfold imageHeaderOk sectionOk sectionsApart
  simp only [field_head 0 4 (by omega), field_head 4 2 (by omega), field_head 8 4 (by omega), field_head 0xC 1 (by omega),
    field_head 0x30 4 (by omega), field_head 0x34 4 (by omega), field_head 0x38 1 (by omega), field_head 0x39 1 (by omega),
    zero_head 0xE 2 (by omega), zero_head 0x3A 2 (by omega), zero_rest 0xE0 32 (by omega) (by omega),
    field_head 0x18 4 (by omega), field_head (0x18 + 4) 4 (by omega), field_head 0x20 4 (by omega), field_head (0x20 + 4) 4 (by omega),
    field_head 0x28 4 (by omega), field_head (0x28 + 4) 4 (by omega), show fieldAt imgHead 0x38 1 = 0 by decide +kernel]
  rw [zero_rest _ _ (by omega) (by omega)]
  decide +kernel

theorem pad_none (d : List Byte) (n : Nat) (h : d.length = n) : d ++ List.replicate (n - d.length) 0#8 = d := by
  subst h; simp

theorem pubOf_block : sliceBytes imgBlock 8 60 = imgPub := by
  unfold sliceBytes imgBlock
  rw [drop_app _ _ 8 (by decide), List.take_append_of_le_length (Nat.le_of_eq imgPub_length.symm), List.take_of_length_le (Nat.le_of_eq imgPub_length)]
  exact pad_none _ _ imgPub_length
theorem sigOf_block : imgBlock.drop 0x48 = imgSig := by
  unfold imgBlock
  rw [← List.append_assoc, ← List.append_assoc]
  exact drop_app _ _ _ (by simp only [List.length_append, imgPub_length, leBytes_length, z, List.length_replicate])
theorem topOf_pub : sliceBytes imgPub 4 56 = beBytes 6 4 ++ beBytes 3 4 ++ z 16 ++ rootOf imgDigest := by
  unfold sliceBytes imgPub
  have hl : (beBytes 6 4 ++ beBytes 3 4 ++ z 16 ++ rootOf imgDigest).length = 56 := by
    simp only [List.length_append, rootOf_length, z, List.length_replicate]; decide
  rw [drop_app _ _ 4 (by decide), List.take_of_length_le (Nat.le_of_eq hl)]
  exact pad_none _ _ hl

/-- A slice of the key before its root. -/
theorem top_slice (r : List Byte) (off n : Nat) (h : off + n ≤ 24) :
    sliceBytes (beBytes 6 4 ++ beBytes 3 4 ++ z 16 ++ r) off n = sliceBytes (beBytes 6 4 ++ beBytes 3 4 ++ z 16) off n := by
  unfold sliceBytes
  have hl : (beBytes 6 4 ++ beBytes 3 4 ++ z 16).length = 24 := by decide
  rw [List.drop_append_of_le_length (by rw [hl]; omega), List.take_append_of_le_length (by rw [List.length_drop, hl]; omega)]
theorem top_root (r : List Byte) (h : r.length = 32) : sliceBytes (beBytes 6 4 ++ beBytes 3 4 ++ z 16 ++ r) 24 32 = r := by
  unfold sliceBytes
  rw [drop_app _ _ 24 (by decide), List.take_of_length_le (Nat.le_of_eq h)]
  exact pad_none _ _ h

theorem ots_sig : (sigLms.drop 4).take (36 + 32 * 67) = sigOts := by
  have hl : sigOts.length = 2180 := by simp only [sigOts, List.length_append, z, List.length_replicate]; decide
  rw [show sigLms = z 4 ++ (sigOts ++ (beBytes 6 4 ++ z 320)) by simp only [sigLms, List.append_assoc], drop_app _ _ 4 (by decide),
    List.take_append_of_le_length (Nat.le_of_eq hl.symm), List.take_of_length_le (Nat.le_of_eq hl)]

theorem sig0_verifies (d : List Byte) : lmsVerify (beBytes 6 4 ++ beBytes 3 4 ++ z 16 ++ rootOf d) sigLms d = true := by
  unfold lmsVerify
  rw [top_slice _ 0 4 (by omega), top_slice _ 4 4 (by omega), top_slice _ 8 16 (by omega), top_root _ (rootOf_length d)]
  rw [show lmsHeight (beNat (sliceBytes (beBytes 6 4 ++ beBytes 3 4 ++ z 16) 0 4)) = some 10 by decide +kernel,
    show otsSet (beNat (sliceBytes (beBytes 6 4 ++ beBytes 3 4 ++ z 16) 4 4)) = some (67, 4) by decide +kernel]
  simp only
  rw [show sliceBytes (beBytes 6 4 ++ beBytes 3 4 ++ z 16) 8 16 = z 16 by decide +kernel,
    show beNat (sliceBytes sigLms 0 4) = 0 by decide +kernel, ots_sig]
  rw [show lmsClimb (z 16) ((List.range 10).map (fun i => sliceBytes sigLms (4 + 36 + 32 * 67 + 4 + 32 * i) 32)) (2 ^ 10 + 0)
      (sha256 (z 16 ++ beBytes (2 ^ 10 + 0) 4 ++ beBytes 0x8282 2 ++ otsCandidate (z 16 ++ beBytes 0 4) 67 4 sigOts d)) = rootOf d from rfl]
  rw [decide_eq_true (rfl : rootOf d = rootOf d)]
  decide +kernel

/-- The key hash that the block's key answers to. -/
def keyHash0 : List Byte := sha256 imgPub

theorem image0_sigOk (s : State) (h : s.fuses.keyHash.getD 0 [] = keyHash0) (hr : s.fuses.revoked = 0) : imageSigOk s image0 = true := by
  unfold imageSigOk blockVerifies
  rw [field_head 0xD 1 (by omega), field_head 0x30 4 (by omega), field_head 0x34 4 (by omega), show fieldAt imgHead 0x30 4 = 1512 by decide +kernel,
    show fieldAt imgHead 0x34 4 = 2584 by decide +kernel, show fieldAt imgHead 0xD 1 = 0 by decide +kernel]
  dsimp only
  rw [image0_block, image0_digest, h, hr]
  rw [pubOf_block, sigOf_block, imgBlock_length]
  unfold hssVerify
  rw [topOf_pub, show imgSig.drop 4 = sigLms from drop_app _ _ 4 (by decide)]
  dsimp only
  rw [sig0_verifies, show beNat (sliceBytes imgPub 0 4) = 1 by decide +kernel, if_pos rfl, keyHash0, decide_eq_true (rfl : sha256 imgPub = sha256 imgPub)]
  decide +kernel

theorem memRead_take (m : Memory) : ∀ (k n a : Nat), (memRead m a n).take k = memRead m a (min k n)
  | 0, _, _ => by simp [memRead]
  | k + 1, 0, a => by simp [memRead]
  | k + 1, n + 1, a => by
    rw [Nat.add_min_add_right, memRead, List.take_succ_cons, memRead_take m k n (a + 1)]; rfl

theorem image0_staged : imageBytes (memWrite [] 0 image0) = image0 := by
  have hr := memRead_memWrite_self [] 0 image0 rfl
  rw [image0_length] at hr
  have hf : fieldAt (memRead (memWrite [] 0 image0) 0 256) 8 4 = 4096 := by
    have : memRead (memWrite [] 0 image0) 0 256 = image0.take 256 := by
      have := memRead_take (memWrite [] 0 image0) 256 4096 0
      rw [hr] at this; exact this.symm
    rw [this, show fieldAt (image0.take 256) 8 4 = fieldAt image0 8 4 by unfold fieldAt; rw [List.drop_take, List.take_take]; rfl, field_head 8 4 (by omega)]
    decide +kernel
  unfold imageBytes
  rw [hf]
  exact hr

/-- A device whose key hash the image's key answers to, the image staged, FW.COMMIT waiting. -/
def commitCmd : Cmd := cmd 0 0x0A01 0 (leBytes 4096 16)
def committing : State :=
  ((holding commitCmd up).onFuses (fun f => { f with keyHash := [keyHash0, z 32, z 32, z 32] })).onTrust (fun t => { t with
    stage := memWrite [] 0 image0, staged := 4096 })

theorem committing_stage : committing.trust.stage = memWrite [] 0 image0 := by
  dsimp only [committing, State.onTrust]
theorem image0_size : fieldAt image0 8 4 = committing.trust.staged := by rw [field_head 8 4 (by omega)]; decide +kernel
theorem image0_svnOk : imageSvnOk committing image0 = true := by unfold imageSvnOk; rw [field_head 0xC 1 (by omega)]; decide +kernel
theorem commit_waits : Waiting committing 0 0x0A01 commitCmd ∧ Plain commitCmd 16 ∧ par commitCmd 4 4 = 0 ∧ ZeroPar commitCmd 8 8
    ∧ 6 ≤ committing.boot.stage ∧ committing.trust.staged ≠ 0 ∧ committing.trust.writing = none
    ∧ par commitCmd 0 4 = committing.trust.staged := by decide +kernel
def checkCmd : Cmd := cmd 0 0x0A01 0 (leBytes 4096 4 ++ [1#8] ++ z 11)
def checking : State := holding checkCmd committing
theorem check_waits : Waiting checking 0 0x0A01 checkCmd ∧ Plain checkCmd 16 ∧ par checkCmd 4 4 = 1 ∧ ZeroPar checkCmd 8 8
    ∧ 6 ≤ checking.boot.stage ∧ checking.trust.staged ≠ 0 ∧ checking.trust.writing = none
    ∧ par checkCmd 0 4 = checking.trust.staged := by decide +kernel

theorem wit_firmwareCommandsComplete_1 : ∃ (s : State) (mb : Nat) (c : Cmd) (n : Nat) (have_ : Nat), Waiting s mb 0x0A00 c ∧ Plain c (16 + n) ∧ par c 4 4 = n ∧ 1 ≤ n ∧ n ≤ 4016
    ∧ par c 8 4 ≤ 1 ∧ have_ = (if par c 8 4 = 1 then 0 else s.trust.staged) ∧ par c 0 4 = have_ ∧ have_ + n ≤ slotBytes ∧ ZeroPar c 0xC 4
    ∧ 6 ≤ s.boot.stage ∧ s.trust.writing = none :=
  ⟨holding (cmd 0 0x0A00 0 (z 4 ++ leBytes 4016 4 ++ z 8 ++ z 4016)) (up), 0, cmd 0 0x0A00 0 (z 4 ++ leBytes 4016 4 ++ z 8 ++ z 4016), 4016, 0, by decide +kernel⟩

theorem wit_firmwareCommandsComplete_2a : ∃ (s : State) (mb : Nat) (c : Cmd) (img : List Byte), Waiting s mb 0x0A01 c ∧ Plain c 16 ∧ img = imageBytes s.trust.stage ∧ par c 4 4 ≤ 1
    ∧ ZeroPar c 8 8 ∧ 6 ≤ s.boot.stage ∧ s.trust.staged ≠ 0 ∧ s.trust.writing = none ∧ par c 0 4 = s.trust.staged ∧ fieldAt img 8 4 = s.trust.staged
    ∧ imageHeaderOk img = true ∧ imageCrcOk img = true ∧ imageSigOk s img = true ∧ imageSvnOk s img = true ∧ par c 4 4 = 1 :=
  ⟨checking, 0, checkCmd, image0, check_waits.1, check_waits.2.1, by rw [show checking.trust.stage = committing.trust.stage from rfl, committing_stage, image0_staged], by simp [check_waits.2.2.1], check_waits.2.2.2.1, check_waits.2.2.2.2.1, check_waits.2.2.2.2.2.1, check_waits.2.2.2.2.2.2.1, check_waits.2.2.2.2.2.2.2, image0_size, image0_headerOk, image0_crcOk, image0_sigOk _ rfl rfl, image0_svnOk, check_waits.2.2.1⟩

theorem wit_firmwareCommandsComplete_2b : ∃ (s : State) (mb : Nat) (c : Cmd) (img : List Byte), Waiting s mb 0x0A01 c ∧ Plain c 16 ∧ img = imageBytes s.trust.stage ∧ par c 4 4 ≤ 1
    ∧ ZeroPar c 8 8 ∧ 6 ≤ s.boot.stage ∧ s.trust.staged ≠ 0 ∧ s.trust.writing = none ∧ par c 0 4 = s.trust.staged ∧ fieldAt img 8 4 = s.trust.staged
    ∧ imageHeaderOk img = true ∧ imageCrcOk img = true ∧ imageSigOk s img = true ∧ imageSvnOk s img = true ∧ par c 4 4 = 0 :=
  ⟨committing, 0, commitCmd, image0, commit_waits.1, commit_waits.2.1, by rw [committing_stage, image0_staged], by simp [commit_waits.2.2.1], commit_waits.2.2.2.1, commit_waits.2.2.2.2.1, commit_waits.2.2.2.2.2.1, commit_waits.2.2.2.2.2.2.1, commit_waits.2.2.2.2.2.2.2, image0_size, image0_headerOk, image0_crcOk, image0_sigOk _ rfl rfl, image0_svnOk, commit_waits.2.2.1⟩

theorem wit_firmwareCommandsComplete_3 : ∃ (s : State), s.trust.writing = none :=
  ⟨up, by decide +kernel⟩

theorem wit_firmwareCommandsComplete_4 : ∃ (s : State) (w : FwWrite) (c : Cmd), s.trust.writing = some w ∧ Running s w.mb 0x0A01 c :=
  ⟨fwState, ⟨0, 0⟩, fwCmd, by decide +kernel⟩

theorem wit_firmwareCommandsComplete_5 : ∃ (s : State) (mb : Nat) (c : Cmd), Waiting s mb 0x0A02 c ∧ Plain c 0 ∧ s.fuses.keyHash.length = 4 :=
  ⟨holding (cmd 0 0x0A02 0 ([])) (up), 0, cmd 0 0x0A02 0 ([]), by decide +kernel⟩

theorem wit_firmwareCommandsComplete_6 : ∃ (s : State) (mb : Nat) (c : Cmd) (svn : Nat) (rev : BitVec 4), rev = s.fuses.revoked ||| BitVec.ofNat 4 (if par c 1 1 = 1 then runField s 0x39 1 else 0)
    ∧ Waiting s mb 0x0802 c ∧ Plain c 8 ∧ par c 0 1 = svn ∧ par c 1 1 ≤ 1 ∧ svn = runField s 0xC 1 ∧ ZeroPar c 2 6
    ∧ svn ≤ (memGet s.flash.image 0xC).toNat ∧ ((par c 1 1 = 1 → (runField s 0x39 1).testBit (runField s 0xD 1) = false ∧ rev ≠ 0xF#4)) :=
  ⟨holding (cmd 0 0x0802 0 ([64#8] ++ z 7)) ((up.onTrust (fun t => { t with runHeader := z 12 ++ [64#8] })).onFlash (fun f => { f with image := [(12, 64#8)] })), 0, cmd 0 0x0802 0 ([64#8] ++ z 7), 64, _, rfl, by decide +kernel⟩

/-- The leaf taken from a device with no leaf record, and the state after. -/
def leafTaken : Nat × State := (takeLeaf up).getD (0, up)

theorem wit_attestationCompletes_1 : ∃ (s : State) (mb : Nat) (c : Cmd) (gen : Nat) (top : Nat) (n : Nat), Waiting s mb 0x0800 c ∧ Plain c 40 ∧ ZeroPar c 0x20 8
    ∧ (c.job = 0 ∨ (jobAt s c.job).isSome = true) ∧ s.trust.rebuilding = false ∧ (readyKey s).trust.key2 = some (gen, top, n) :=
  ⟨holding (cmd 0 0x0800 0 (z 40)) (up.onTrust (fun t => { t with key2 := some (1, 0, 1023) })), 0, cmd 0 0x0800 0 (z 40), 1, 0, 1023, by decide +kernel⟩

theorem wit_attestationCompletes_2 : ∃ (s : State) (mb : Nat) (c : Cmd), Waiting s mb 0x0800 c ∧ Plain c 40 ∧ ZeroPar c 0x20 8
    ∧ (c.job = 0 ∨ (jobAt s c.job).isSome = true) ∧ s.trust.rebuilding = false ∧ (readyKey s).trust.key2 = none :=
  ⟨holding (cmd 0 0x0800 0 (z 40)) (up.onFuses (fun f => { f with idBlocks := 4096 })), 0, cmd 0 0x0800 0 (z 40), by decide +kernel⟩

theorem wit_attestationCompletes_3 : ∃ (s : State) (gen : Nat) (top : Nat) (n : Nat), s.trust.key2 = some (gen, top, n) ∧ n < 1024 :=
  ⟨up.onTrust (fun t => { t with key2 := some (1, 0, 1023) }), 1, 0, 1023, by decide +kernel⟩

theorem wit_attestationCompletes_5 : ∃ (s : State) (mb : Nat) (c : Cmd) (cert : List Byte), Waiting s mb 0x0801 c ∧ Plain c 0 ∧ s.flash.cert = some cert :=
  ⟨holding (cmd 0 0x0801 0 ([])) (up.onFlash (fun f => { f with cert := some [1#8] })), 0, cmd 0 0x0801 0 ([]), [1#8], by decide +kernel⟩

theorem wit_attestationCompletes_6 : ∃ (s : State) (mb : Nat) (c : Cmd), Waiting s mb 0x0801 c ∧ Plain c 0 ∧ s.flash.cert = none :=
  ⟨holding (cmd 0 0x0801 0 ([])) (up), 0, cmd 0 0x0801 0 ([]), by decide +kernel⟩

theorem wit_attestationCompletes_8 : ∃ (s : State) (q : Nat) (t : State), takeLeaf s = some (q, t) :=
  ⟨up, leafTaken.1, leafTaken.2, by rfl⟩

theorem wit_powerSequence_1 : ∃ (s : State), s.mod.input = .good ∧ s.mod.pwrEn = false ∧ s.mod.latch = none ∧ s.mod.moduleOff = false
    ∧ s.mod.powerGood = false ∧ s.boot.running = false :=
  ⟨State.reset.onMod (fun m => { m with input := .good }), by decide +kernel⟩

theorem wit_powerSequence_2 : ∃ (s : State), s.mod.input = .good ∧ s.mod.pwrEn = false ∧ s.mod.latch.isSome = true
    ∧ s.mod.rail = false :=
  ⟨State.reset.onMod (fun m => { m with input := .good, latch := some (1, 115) }), by decide +kernel⟩

theorem wit_powerSequence_3 : ∃ (s : State), s.mod.rail = true ∧ s.mod.pwrEn = true ∧ s.mod.perst = false ∧ s.boot.running = false :=
  ⟨State.reset.onMod (fun m => { m with rail := true, pwrEn := true, perst := false }), by decide +kernel⟩

theorem wit_powerSequence_4 : ∃ (s : State), s.mod.rail = true ∧ s.mod.pwrEn = true ∧ s.mod.powerGood = true ∧ s.boot.running = false :=
  ⟨State.reset.onMod (fun m => { m with rail := true, pwrEn := true, powerGood := true }), by decide +kernel⟩

theorem wit_powerSequence_5 : ∃ (s : State), s.mod.rail = true ∧ s.mod.perst = false :=
  ⟨State.reset.onMod (fun m => { m with rail := true, perst := false }), by decide +kernel⟩

theorem wit_powerSequence_6 : ∃ (s : State), (s.mod.rail = false ∨ s.mod.perst = true) :=
  ⟨State.reset.onMod (fun m => { m with perst := false }), by decide +kernel⟩

theorem wit_powerSequence_7 : ∃ (s : State), s.mod.rail = false :=
  ⟨State.reset, by decide +kernel⟩

theorem wit_powerSequence_8 : ∃ (s : State), s.mod.pwrEn = true :=
  ⟨State.reset.onMod (fun m => { m with pwrEn := true }), by decide +kernel⟩

theorem wit_powerSequence_9 : ∃ (s : State), s.mod.pwrEn = false :=
  ⟨State.reset, by decide +kernel⟩

theorem wit_powerSequence_10 : ∃ (s : State), s.mod.pwrEn = true ∧ s.mod.rail = true :=
  ⟨State.reset.onMod (fun m => { m with pwrEn := true, rail := true }), by decide +kernel⟩

theorem wit_powerSequence_11 : ∃ (s : State), s.mod.pwrEn = true ∧ s.mod.rail = false :=
  ⟨State.reset.onMod (fun m => { m with pwrEn := true }), by decide +kernel⟩

theorem wit_powerSequence_12 : ∃ (s : State), s.mod.input = .good ∧ s.mod.rail = false :=
  ⟨State.reset.onMod (fun m => { m with input := .good }), by decide +kernel⟩

theorem wit_powerSequence_13 : ∃ (s : State), s.mod.input ≠ .good :=
  ⟨State.reset.onMod (fun m => { m with input := .low }), by decide +kernel⟩

theorem wit_powerSequence_14 : ∃ (s : State), s.mod.input = .good ∧ s.mod.rail = true :=
  ⟨State.reset.onMod (fun m => { m with input := .good, rail := true }), by decide +kernel⟩

theorem wit_powerSequence_15 : ∃ (s : State), s.mod.input = .low ∧ s.mod.pwrEn = true ∧ s.mod.latch = none ∧ s.mod.moduleOff = false
    ∧ s.mod.powerGood = false :=
  ⟨State.reset.onMod (fun m => { m with input := .low, pwrEn := true }), by decide +kernel⟩

theorem wit_powerSequence_16 : ∃ (s : State), s.mod.input ≠ .low :=
  ⟨State.reset.onMod (fun m => { m with input := .good }), by decide +kernel⟩

theorem wit_powerSequence_17 : ∃ (s : State), s.mod.input = .low ∧ s.mod.pwrEn = false :=
  ⟨State.reset.onMod (fun m => { m with input := .low }), by decide +kernel⟩

theorem wit_powerSequence_18 : ∃ (s : State), s.mod.input ≠ .off :=
  ⟨State.reset.onMod (fun m => { m with input := .low }), by decide +kernel⟩

theorem wit_powerSequence_19 : ∃ (s : State), s.mod.input = .off ∧ s.mod.pwrEn = true ∧ s.mod.latch = none ∧ s.mod.moduleOff = false :=
  ⟨State.reset.onMod (fun m => { m with pwrEn := true }), by decide +kernel⟩

theorem wit_powerSequence_20 : ∃ (s : State), s.mod.input = .off ∧ s.mod.pwrEn = false :=
  ⟨State.reset, by decide +kernel⟩

theorem wit_powerSequence_21 : ∃ (s : State), s.mod.pwrEn = true :=
  ⟨State.reset.onMod (fun m => { m with pwrEn := true }), by decide +kernel⟩

theorem wit_powerSequence_22 : ∃ (s : State), s.mod.pwrEn = false ∧ s.mod.latch.isSome = true :=
  ⟨State.reset.onMod (fun m => { m with latch := some (1, 115) }), by decide +kernel⟩

theorem wit_powerSequence_23 : ∃ (s : State), s.mod.pwrEn = false ∧ s.mod.latch = none :=
  ⟨State.reset, by decide +kernel⟩

theorem wit_powerSequence_24 : ∃ (s : State), s.mod.input ≠ .off :=
  ⟨State.reset.onMod (fun m => { m with input := .low }), by decide +kernel⟩

theorem wit_moduleBuses_1 : ∃ (s : State), s.mod.i3cAddr.isSome = true ∧ s.mod.input ≠ .off ∧ s.mod.rail = true :=
  ⟨State.reset.onMod (fun m => { m with i3cAddr := some 9, input := .good, rail := true }), by decide +kernel⟩

theorem wit_moduleBuses_2 : ∃ (s : State), s.mod.i3cAddr.isSome = true ∧ s.mod.input ≠ .off ∧ s.mod.rail = false :=
  ⟨State.reset.onMod (fun m => { m with i3cAddr := some 9, input := .good }), by decide +kernel⟩

theorem wit_moduleBuses_3 : ∃ (s : State), s.mod.i3cAddr = none :=
  ⟨State.reset, by decide +kernel⟩

theorem wit_moduleBuses_4 : ∃ (o : BitVec 8) (d0 : BitVec 8) (d1 : BitVec 8), ((o ≠ 0x80#8 ∨ d0 ≠ 0xFF#8 ∨ d1 ≠ 0xD0#8)) :=
  ⟨0x80#8, 0xFF#8, 0xD1#8, by decide +kernel⟩

theorem wit_moduleBuses_5 : ∃ (s : State), s.mod.input ≠ .off ∧ s.mod.i3cAddr = none :=
  ⟨State.reset.onMod (fun m => { m with input := .good }), by decide +kernel⟩

theorem wit_moduleBuses_6 : ∃ (s : State) (b : BitVec 7), s.mod.i3cAddr = some b :=
  ⟨State.reset.onMod (fun m => { m with i3cAddr := some 9 }), 9, by decide +kernel⟩

theorem wit_moduleBuses_7 : ∃ (s : State) (x : TapIr), s.mod.input ≠ .off
    ∧ (x = .bypass ∨ x = .samplePreload ∨ x = .extest ∧ s.mod.pwrEn = false) :=
  ⟨State.reset.onMod (fun m => { m with input := .low }), .extest, by decide +kernel⟩

theorem wit_moduleBuses_8 : ∃ (s : State), s.mod.input ≠ .off :=
  ⟨State.reset.onMod (fun m => { m with input := .low }), by decide +kernel⟩

theorem wit_moduleBuses_9 : ∃ (s : State), s.mod.input ≠ .off :=
  ⟨State.reset.onMod (fun m => { m with input := .low }), by decide +kernel⟩

theorem wit_moduleBuses_10 : ∃ (s : State), s.mod.input ≠ .off :=
  ⟨State.reset.onMod (fun m => { m with input := .low }), by decide +kernel⟩

theorem wit_moduleBuses_11 : ∃ (s : State), s.mod.input ≠ .off ∧ s.mod.pwrEn = true :=
  ⟨State.reset.onMod (fun m => { m with input := .good, pwrEn := true }), by decide +kernel⟩

theorem wit_moduleBuses_12 : ∃ (s : State), s.mod.input ≠ .off :=
  ⟨State.reset.onMod (fun m => { m with input := .low }), by decide +kernel⟩

theorem wit_moduleBuses_13 : ∃ (head : List Byte) (ds : List Nat), head.length = 16 ∧ ds.length = 8 ∧ ((∀ d ∈ ds, d < 16)) :=
  ⟨z 16, [1, 2, 3, 4, 10, 11, 12, 15], by decide +kernel⟩

theorem wit_counterCommandsComplete_1 : ∃ (s : State) (mb : Nat) (c : Cmd) (t : State) (u : State), t = (if par c 0 1 / 2 = 1 then s.onObs (fun o => { o with ctrs := o.ctrs.filter (fun e => !(groupsOfMask (par c 2 1)).contains (e.1 / 65536)) }) else s)
    ∧ u = (if par c 0 1 % 2 = 1 then t.onObs (fun o => { o with ctrEnable := BitVec.ofNat 8 (par c 1 1), stageArmed := if (par c 1 1).testBit 2 && !o.ctrEnable.getLsbD 2 then ⟨true, true⟩ else o.stageArmed }) else t)
    ∧ Waiting s mb 0x0900 c ∧ Plain c 8 ∧ par c 0 1 < 4 ∧ ZeroPar c 3 5 :=
  ⟨holding (cmd 0 0x0900 0 ([3#8, 191#8, 191#8] ++ z 5)) (up), 0, cmd 0 0x0900 0 ([3#8, 191#8, 191#8] ++ z 5), _, _, rfl, rfl, by decide +kernel⟩

theorem wit_counterCommandsComplete_2 : ∃ (s : State) (mb : Nat) (c : Cmd) (mask : Nat), mask = (if par c 2 1 = 0 then s.obs.ctrEnable.toNat else par c 2 1)
    ∧ Waiting s mb 0x0901 c ∧ Plain c 8 ∧ par c 0 2 ≤ 4031 ∧ ZeroPar c 3 5 :=
  ⟨holding (cmd 0 0x0901 0 ([191#8, 15#8] ++ z 6)) (up), 0, cmd 0 0x0901 0 ([191#8, 15#8] ++ z 6), _, rfl, by decide +kernel⟩

theorem wit_counterCommandsComplete_3 : ∃ (s : State) (group : Nat), s.obs.ctrEnable.getLsbD (group - 1) = false :=
  ⟨State.reset, 1, by decide +kernel⟩

theorem wit_counterCommandsComplete_4 : ∃ (s : State) (group : Nat), s.obs.ctrEnable.getLsbD (group - 1) = true :=
  ⟨up.onObs (fun o => { o with ctrEnable := 1#8 }), 1, by decide +kernel⟩

theorem wit_traceCommandsComplete_1 : ∃ (s : State) (mb : Nat) (c : Cmd) (n : Nat) (host : Bool) (same : Bool), (same = decide (n = s.obs.ringBytes ∧ par c 8 8 = s.obs.trace.t0.base ∧ par c 0x10 8 = s.obs.trace.t1.base ∧ host = s.obs.traceHost))
    ∧ Waiting s mb 0x0902 c ∧ Plain c 24 ∧ par c 0 1 = (if host then 3 else 1) ∧ par c 1 1 < 64 ∧ ZeroPar c 2 2 ∧ par c 4 4 = n ∧ 65536 ≤ n
    ∧ n ≤ 0x40000000 ∧ n % 4096 = 0 ∧ par c 8 8 % 4096 = 0 ∧ par c 0x10 8 % 4096 = 0
    ∧ ((host = false → ringOk s (par c 8 8) n = true ∧ ringOk s (par c 0x10 8) n = true)) ∧ (s.obs.traceOn = false ∨ same = true) :=
  ⟨holding (cmd 0 0x0902 0 ([1#8, 63#8, 0#8, 0#8] ++ leBytes 65536 4 ++ leBytes 0x13000000000 8 ++ leBytes 0x13000010000 8)) (backed), 0, cmd 0 0x0902 0 ([1#8, 63#8, 0#8, 0#8] ++ leBytes 65536 4 ++ leBytes 0x13000000000 8 ++ leBytes 0x13000010000 8), 65536, false, _, rfl, by decide +kernel⟩

theorem wit_traceCommandsComplete_1a : ∃ (s : State) (mb : Nat) (c : Cmd) (n : Nat) (host : Bool) (same : Bool), (same = decide (n = s.obs.ringBytes ∧ par c 8 8 = s.obs.trace.t0.base ∧ par c 0x10 8 = s.obs.trace.t1.base ∧ host = s.obs.traceHost))
    ∧ Waiting s mb 0x0902 c ∧ Plain c 24 ∧ par c 0 1 = (if host then 3 else 1) ∧ par c 1 1 < 64 ∧ ZeroPar c 2 2 ∧ par c 4 4 = n ∧ 65536 ≤ n
    ∧ n ≤ 0x40000000 ∧ n % 4096 = 0 ∧ par c 8 8 % 4096 = 0 ∧ par c 0x10 8 % 4096 = 0
    ∧ ((host = false → ringOk s (par c 8 8) n = true ∧ ringOk s (par c 0x10 8) n = true)) ∧ (s.obs.traceOn = false ∨ same = true) ∧ host = true
    ∧ n = 0x40000000 :=
  ⟨holding (cmd 0 0x0902 0 ([3#8, 63#8, 0#8, 0#8] ++ leBytes 0x40000000 4 ++ z 16)) (up), 0, cmd 0 0x0902 0 ([3#8, 63#8, 0#8, 0#8] ++ leBytes 0x40000000 4 ++ z 16), 0x40000000, true, _, rfl, by decide +kernel⟩

theorem wit_traceCommandsComplete_2 : ∃ (s : State) (mb : Nat) (c : Cmd), Waiting s mb 0x0902 c ∧ Plain c 24 ∧ (par c 0 1 = 0 ∨ par c 0 1 = 2) ∧ par c 1 1 < 64
    ∧ ZeroPar c 2 2 :=
  ⟨holding (cmd 0 0x0902 0 ([2#8] ++ z 23)) (up), 0, cmd 0 0x0902 0 ([2#8] ++ z 23), by decide +kernel⟩

theorem wit_traceCommandsComplete_3 : ∃ (s : State) (mb : Nat) (c : Cmd) (s1 : State) (s2 : State), s1 = s.onObs (fun o => { o with trace := ⟨{ o.trace.t0 with readOff := par c 0 4 }, { o.trace.t1 with readOff := par c 4 4 }⟩ })
    ∧ s2 = bothTowers.foldl (fun st t => if decide (par c 8 4 = 1) || traceFull st t then traceDrainTower t st else st) s1 ∧ Waiting s mb 0x0903 c
    ∧ Plain c 16 ∧ par c 8 4 ≤ 1 ∧ ZeroPar c 0xC 4 ∧ s.obs.traceCfg = true ∧ par c 0 4 < s.obs.ringBytes ∧ par c 4 4 < s.obs.ringBytes :=
  ⟨holding (cmd 0 0x0903 0 (leBytes 65504 4 ++ z 12)) (up.onObs (fun o => { o with traceCfg := true, ringBytes := 65536 })), 0, cmd 0 0x0903 0 (leBytes 65504 4 ++ z 12), _, _, rfl, rfl, by decide +kernel⟩

theorem wit_traceCommandsComplete_4 : ∃ (s : State) (t : Tower) (r : TraceRec) (rs : List TraceRec), (s.obs.trace.get t).buf = r :: rs ∧ s.obs.ringBytes ≠ 0 :=
  ⟨(up.onObs (fun o => { o with traceCfg := true, ringBytes := 65536 })).onObs (fun o => { o with trace := ⟨{ o.trace.t0 with buf := [⟨5, 1, 0, 7, 9, z 16⟩] }, o.trace.t1⟩ }), .t0, ⟨5, 1, 0, 7, 9, z 16⟩, [], by decide +kernel⟩

theorem wit_traceCommandsComplete_5 : ∃ (s : State) (t : Tower), ((s.obs.trace.get t).buf = [] ∨ s.obs.ringBytes = 0) :=
  ⟨up, .t0, by decide +kernel⟩

theorem wit_traceCommandsComplete_6 : ∃ (b : TraceT), b.lossPending = 0 ∧ b.buf.length < 8192 :=
  ⟨State.reset.obs.trace.t0, by decide +kernel⟩

theorem wit_traceCommandsComplete_7 : ∃ (b : TraceT), b.lossPending = 0 ∧ b.buf.length = 8192 :=
  ⟨{ State.reset.obs.trace.t0 with buf := List.replicate 8192 ⟨5, 1, 0, 7, 9, z 16⟩ }, ⟨rfl, List.length_replicate⟩⟩

/-- A dump of tick 9 of job 7 whose item 0 completed at 5 ns. -/
def dump0 : Dump := ⟨1, 7, z 16, 9, 0x40000000, 64, false, some 0, 0x40000000, some 5, false⟩
def dumping : State := (inJob running up).onObs (fun o => { o with dumps := [dump0] })

theorem wit_dumpCommandsComplete_1 : ∃ (s : State) (mb : Nat) (c : Cmd) (j : Job) (host : Bool), Waiting s mb 0x0904 c ∧ Plain c 72 ∧ jobAt s c.job = some j
    ∧ (j.state = .running ∧ j.tick < par c 0x28 8 ∨ j.state = .armed ∧ j.startTick ≤ par c 0x28 8) ∧ par c 0x40 4 = (if host then 1 else 0)
    ∧ par c 0x28 8 < 2 ^ 48 ∧ par c 0x30 8 % 32 = 0 ∧ ZeroPar c 0x44 4
    ∧ ((host = false → rangeAllowed s c.job 1 (par c 0x30 8) (par c 0x38 8) = true)) :=
  ⟨holding (cmd 1 0x0904 7 (z 0x28 ++ leBytes 10 8 ++ leBytes 0x40000000 8 ++ leBytes 64 8 ++ z 8)) (inJob running up), 1, cmd 1 0x0904 7 (z 0x28 ++ leBytes 10 8 ++ leBytes 0x40000000 8 ++ leBytes 64 8 ++ z 8), running, false, by decide +kernel⟩

theorem wit_dumpCommandsComplete_1a : ∃ (s : State) (mb : Nat) (c : Cmd) (j : Job) (host : Bool), Waiting s mb 0x0904 c ∧ Plain c 72 ∧ jobAt s c.job = some j
    ∧ (j.state = .running ∧ j.tick < par c 0x28 8 ∨ j.state = .armed ∧ j.startTick ≤ par c 0x28 8) ∧ par c 0x40 4 = (if host then 1 else 0)
    ∧ par c 0x28 8 < 2 ^ 48 ∧ par c 0x30 8 % 32 = 0 ∧ ZeroPar c 0x44 4
    ∧ ((host = false → rangeAllowed s c.job 1 (par c 0x30 8) (par c 0x38 8) = true)) ∧ s.obs.dumps.length < 16 :=
  ⟨holding (cmd 1 0x0904 7 (z 0x28 ++ leBytes 10 8 ++ leBytes 0x40000000 8 ++ leBytes 64 8 ++ z 8)) (inJob running up), 1, cmd 1 0x0904 7 (z 0x28 ++ leBytes 10 8 ++ leBytes 0x40000000 8 ++ leBytes 64 8 ++ z 8), running, false, by decide +kernel⟩

theorem wit_dumpCommandsComplete_1b : ∃ (s : State) (mb : Nat) (c : Cmd) (j : Job) (host : Bool), Waiting s mb 0x0904 c ∧ Plain c 72 ∧ jobAt s c.job = some j
    ∧ (j.state = .running ∧ j.tick < par c 0x28 8 ∨ j.state = .armed ∧ j.startTick ≤ par c 0x28 8) ∧ par c 0x40 4 = (if host then 1 else 0)
    ∧ par c 0x28 8 < 2 ^ 48 ∧ par c 0x30 8 % 32 = 0 ∧ ZeroPar c 0x44 4
    ∧ ((host = false → rangeAllowed s c.job 1 (par c 0x30 8) (par c 0x38 8) = true)) ∧ 16 ≤ s.obs.dumps.length :=
  ⟨holding (cmd 1 0x0904 7 (z 0x28 ++ leBytes 10 8 ++ leBytes 0x40000000 8 ++ leBytes 64 8 ++ z 8)) ((inJob running up).onObs (fun o => { o with dumps := List.replicate 16 dump0 })), 1, cmd 1 0x0904 7 (z 0x28 ++ leBytes 10 8 ++ leBytes 0x40000000 8 ++ leBytes 64 8 ++ z 8), running, false, by decide +kernel⟩

theorem wit_dumpCommandsComplete_2 : ∃ (s : State) (job : Nat) (item : Nat), ((∀ d ∈ s.obs.dumps, d.job = job → d.item = some item → d.startNs = none)) :=
  ⟨dumping, 7, 1, by decide +kernel⟩

theorem wit_dumpCommandsComplete_3 : ∃ (s : State) (job : Nat) (item : Nat) (d : Dump) (start : Nat) (s1 : State) (st : Nat) (n : Nat) (k : Nat), dumpCopy d s = (s1, st, n, k)
    ∧ (s.obs.dumps.find? (fun d => decide (d.job = job ∧ d.item = some item) && d.startNs.isSome) = some d) ∧ d.startNs = some start :=
  ⟨dumping, 7, 0, dump0, 5, _, _, _, _, parts4 _, by decide +kernel⟩

theorem wit_testCommandsComplete_1 : ∃ (s : State) (mb : Nat) (c : Cmd) (t : State), t = (if par c 0 1 = 1 then s.onObs (fun o => { o with winnowEnable := par c 1 1 }) else s)
    ∧ Waiting s mb 0x0905 c ∧ Plain c 8 ∧ par c 0 1 ≤ 1 ∧ par c 1 1 < 16 ∧ ZeroPar c 2 6 :=
  ⟨holding (cmd 0 0x0905 0 ([1#8, 15#8] ++ z 6)) (up), 0, cmd 0 0x0905 0 ([1#8, 15#8] ++ z 6), _, rfl, by decide +kernel⟩

theorem wit_testCommandsComplete_2 : ∃ (s : State) (mb : Nat) (c : Cmd) (t : State) (tn : Nat) (bank : Nat) (unit : Nat), t = (if par c 0 1 = 3 then s.onObs (fun o => { o with winnowEnable := par c 1 1 }) else s)
    ∧ Waiting s mb 0x0905 c ∧ Plain c 8 ∧ (par c 0 1 = 2 ∨ par c 0 1 = 3) ∧ par c 1 1 < 16 ∧ par c 2 1 = tn ∧ tn ≤ 1 ∧ ZeroPar c 3 1
    ∧ par c 4 2 = bank ∧ par c 6 2 = unit ∧ (bank = 0xFFFF ∨ bank < 1024 ∧ (s.loft.tw.get (towerOf tn)).retired.contains (bank % 512) = false)
    ∧ (unit = 0xFFFF ∨ unit < 512) ∧ (s.loft.tw.get (towerOf tn)).retired.contains unit = false ∧ (s.obs.winnow.get (towerOf tn)).forceMb = none :=
  ⟨holding (cmd 0 0x0905 0 ([3#8, 15#8, 1#8, 0#8] ++ leBytes 1023 2 ++ leBytes 511 2)) (up), 0, cmd 0 0x0905 0 ([3#8, 15#8, 1#8, 0#8] ++ leBytes 1023 2 ++ leBytes 511 2), _, 1, 1023, 511, rfl, by decide +kernel⟩

theorem wit_testCommandsComplete_3 : ∃ (s : State) (mb : Nat) (c : Cmd), Waiting s mb 0x0906 c ∧ Plain c 8 ∧ ZeroPar c 0 8 ∧ s.gate.pwr ≠ .rest
    ∧ s.gate.pwr ≠ .dark ∧ anyJobRuns s = false ∧ s.gate.change = none ∧ s.boot.part = none ∧ s.boot.coreReset = none ∧ s.trust.writing = none :=
  ⟨holding (cmd 0 0x0906 0 (z 8)) (up), 0, cmd 0 0x0906 0 (z 8), by decide +kernel⟩

theorem wit_testCommandsComplete_4 : ∃ (s : State) (mb : Nat) (c : Cmd), Waiting s mb 0x0907 c ∧ Plain c 8 ∧ par c 0 1 = 0 ∧ ZeroPar c 1 7 :=
  ⟨holding (cmd 0 0x0907 0 (z 8)) (up), 0, cmd 0 0x0907 0 (z 8), by decide +kernel⟩

theorem wit_testCommandsComplete_5 : ∃ (s : State) (mb : Nat) (c : Cmd), Waiting s mb 0x0907 c ∧ Plain c 8 ∧ par c 0 1 = 1 ∧ ZeroPar c 1 7 :=
  ⟨holding (cmd 0 0x0907 0 ([1#8] ++ z 7)) (up), 0, cmd 0 0x0907 0 ([1#8] ++ z 7), by decide +kernel⟩

theorem wit_testCommandsComplete_6 : ∃ (s : State), s.boot.stage = 10 ∧ (s.gate.pwr = .active ∨ s.gate.pwr = .trim) :=
  ⟨up, by decide +kernel⟩

theorem wit_testCommandsComplete_7 : ∃ (s : State), (s.gate.pwr = .idle ∨ s.gate.pwr = .rest ∨ s.gate.pwr = .dark) :=
  ⟨State.reset.onGate (fun g => { g with pwr := .dark }), by decide +kernel⟩

theorem wit_eventsQueued_1 : ∃ (s : State) (sev : Nat) (code : Nat) (job : Nat) (detail : List Byte) (t : State), s.ev.queue.length < 1024 ∧ startedCmd s 63 0x0102 = none
    ∧ t = postEvent sev code job detail s :=
  ⟨up, 2, 0x0301, 7, z 16, _, ⟨by decide, by decide +kernel, rfl⟩⟩

theorem wit_eventsQueued_2 : ∃ (r : Event) (e : EvSt), 1024 ≤ e.queue.length ∧ r.severity = 0 :=
  ⟨⟨0, 0, 7, 5, 0x0301, []⟩, ⟨List.replicate 1024 ⟨0, 2, 7, 5, 0x0301, []⟩, 0, 0⟩, ⟨by rw [List.length_replicate], rfl⟩⟩

theorem wit_eventsQueued_3 : ∃ (r : Event) (e : EvSt) (i : Nat), 1024 ≤ e.queue.length ∧ r.severity ≠ 0
    ∧ e.queue.findIdx? (fun x => decide (x.severity = 0)) = some i :=
  ⟨⟨0, 1, 7, 5, 0x0301, []⟩, ⟨⟨0, 0, 7, 5, 0x0301, []⟩ :: List.replicate 1023 ⟨0, 2, 7, 5, 0x0301, []⟩, 0, 0⟩, 0, ⟨by rw [List.length_cons, List.length_replicate], by decide, rfl⟩⟩

theorem wit_eventsQueued_4 : ∃ (e : EvSt), e.queue.length ≤ 1024 :=
  ⟨⟨List.replicate 1024 ⟨0, 2, 7, 5, 0x0301, []⟩, 0, 0⟩, by rw [List.length_replicate]⟩

/-- Job 7 with a bay of tower 1 in its map; the same pinned. -/
def jobBay : Job := { job0 with map := job0.map ++ [⟨1, 7, 1, 0x40000000000 + 4096 * 2097152⟩] }
def pinned (s : State) : State := s.onLoft (fun x => { x with bays := [(4096, { job := 7, layout := 0 })] })
def pinPars : List Byte := leBytes (0x40000000000 + 4096 * 2097152) 8 ++ leBytes 1 4 ++ z 4
/-- A loft command of job 7 running; every other frame of its bay's column taken. -/
def flushOn (s : State) : State := s.onLoft (fun x => { x with waiting := [(5, (7, [1], []))] })
def crowded (s : State) : State := s.onLoft (fun x => { x with bays := (List.range 7).map (fun k => (4608 + 512 * k, { job := 9, layout := 0 })) })
/-- LOFT.FLUSH of one dirty line of job 7's page. -/
def flushCmd : Cmd := cmd 1 0x0303 7 (leBytes 0x40000000 8 ++ leBytes 256 8 ++ z 8)
def bulk0 : BulkLine :=
  { data := z 256, enc := 0, slots := 15, valid := 15, dirty := 1, poison := 0, staged := false, locked := false, age := 0, tag := 0, col := 0
    row := 0, set := 0, tower := .t0 }
def flushing : State := holding flushCmd ((inJob job0 up).onLoft (fun x => { x with bulk := [(0x400000, bulk0)] }))

theorem wit_loftCommandsComplete_1 : ∃ (s : State) (mb : Nat) (c : Cmd) (j : Job) (addr : Nat) (count : Nat) (t : Tower) (bays : List Nat), t = towerOf (bayNum addr / 4096) ∧ bays = runBays addr count ∧ Waiting s mb 0x0300 c
    ∧ Plain c 16 ∧ par c 0 8 = addr ∧ par c 8 4 = count ∧ par c 0xC 1 < 2 ∧ ZeroPar c 0xD 3 ∧ jobAt s c.job = some j ∧ runBad addr count = false
    ∧ bays.findIdx? (bayBad s c.job) = none :=
  ⟨holding (cmd 1 0x0300 7 pinPars) (inJob jobBay up), 1, cmd 1 0x0300 7 pinPars, jobBay, 0x40000000000 + 4096 * 2097152, 1, _, _, rfl, rfl, by decide +kernel⟩

theorem wit_loftCommandsComplete_1a : ∃ (s : State) (mb : Nat) (c : Cmd) (j : Job) (addr : Nat) (count : Nat) (t : Tower) (bays : List Nat) (s1 : State) (las : List Nat) (wb : Nat), t = towerOf (bayNum addr / 4096) ∧ bays = runBays addr count
    ∧ ((∀ n, j.quota.get t = some n → pinsOf s c.job t + count ≤ n))
    ∧ bays.foldl (fun a b => convertFrame t c.job (par c 0xC 1) b a) (s, [], 0) = (s1, las, wb) ∧ Waiting s mb 0x0300 c ∧ Plain c 16
    ∧ par c 0 8 = addr ∧ par c 8 4 = count ∧ par c 0xC 1 < 2 ∧ ZeroPar c 0xD 3 ∧ jobAt s c.job = some j ∧ runBad addr count = false
    ∧ bays.findIdx? (bayBad s c.job) = none ∧ ceilingBad s t bays = none ∧ loftBusy s c.job = false :=
  ⟨holding (cmd 1 0x0300 7 pinPars) (inJob jobBay up), 1, cmd 1 0x0300 7 pinPars, jobBay, 0x40000000000 + 4096 * 2097152, 1, _, _, _, _, _, rfl, rfl, fun _ h => absurd (Option.isSome_of_eq_some h) (by decide +kernel), parts3 _, by decide +kernel⟩

theorem wit_loftCommandsComplete_1b : ∃ (s : State) (mb : Nat) (c : Cmd) (j : Job) (addr : Nat) (count : Nat) (t : Tower) (bays : List Nat) (n : Nat), t = towerOf (bayNum addr / 4096) ∧ bays = runBays addr count ∧ Waiting s mb 0x0300 c
    ∧ Plain c 16 ∧ par c 0 8 = addr ∧ par c 8 4 = count ∧ par c 0xC 1 < 2 ∧ ZeroPar c 0xD 3 ∧ jobAt s c.job = some j ∧ runBad addr count = false
    ∧ bays.findIdx? (bayBad s c.job) = none ∧ j.quota.get t = some n ∧ n < pinsOf s c.job t + count :=
  ⟨holding (cmd 1 0x0300 7 pinPars) (inJob { jobBay with quota := ⟨none, some 0⟩ } up), 1, cmd 1 0x0300 7 pinPars, { jobBay with quota := ⟨none, some 0⟩ }, 0x40000000000 + 4096 * 2097152, 1, _, _, 0, rfl, rfl, by decide +kernel⟩

theorem wit_loftCommandsComplete_1c : ∃ (s : State) (mb : Nat) (c : Cmd) (j : Job) (addr : Nat) (count : Nat) (t : Tower) (bays : List Nat), t = towerOf (bayNum addr / 4096) ∧ bays = runBays addr count
    ∧ ((∀ n, j.quota.get t = some n → pinsOf s c.job t + count ≤ n)) ∧ Waiting s mb 0x0300 c ∧ Plain c 16 ∧ par c 0 8 = addr ∧ par c 8 4 = count
    ∧ par c 0xC 1 < 2 ∧ ZeroPar c 0xD 3 ∧ jobAt s c.job = some j ∧ runBad addr count = false ∧ bays.findIdx? (bayBad s c.job) = none
    ∧ (ceilingBad s t bays).isSome = true :=
  ⟨holding (cmd 1 0x0300 7 pinPars) (crowded (inJob jobBay up)), 1, cmd 1 0x0300 7 pinPars, jobBay, 0x40000000000 + 4096 * 2097152, 1, _, _, rfl, rfl, fun _ h => absurd (Option.isSome_of_eq_some h) (by decide +kernel), by decide +kernel⟩

theorem wit_loftCommandsComplete_1d : ∃ (s : State) (mb : Nat) (c : Cmd) (j : Job) (addr : Nat) (count : Nat) (t : Tower) (bays : List Nat), t = towerOf (bayNum addr / 4096) ∧ bays = runBays addr count
    ∧ ((∀ n, j.quota.get t = some n → pinsOf s c.job t + count ≤ n)) ∧ Waiting s mb 0x0300 c ∧ Plain c 16 ∧ par c 0 8 = addr ∧ par c 8 4 = count
    ∧ par c 0xC 1 < 2 ∧ ZeroPar c 0xD 3 ∧ jobAt s c.job = some j ∧ runBad addr count = false ∧ bays.findIdx? (bayBad s c.job) = none
    ∧ ceilingBad s t bays = none ∧ loftBusy s c.job = true :=
  ⟨holding (cmd 1 0x0300 7 pinPars) (flushOn (inJob jobBay up)), 1, cmd 1 0x0300 7 pinPars, jobBay, 0x40000000000 + 4096 * 2097152, 1, _, _, rfl, rfl, fun _ h => absurd (Option.isSome_of_eq_some h) (by decide +kernel), by decide +kernel⟩

theorem wit_loftCommandsComplete_2 : ∃ (t : Tower) (job : Nat) (layout : Nat) (b : Nat) (s : State) (las : List Nat) (wb : Nat) (x : State), x = (convertFrame t job layout b (s, las, wb)).1 ∧ Memory.wf s.loft.pinMem = true
    ∧ s.loft.tw.t0.reducing = [] ∧ s.loft.tw.t1.reducing = [] :=
  ⟨.t0, 7, 1, 5, State.reset, [], 0, _, rfl, by decide +kernel⟩

theorem wit_loftCommandsComplete_3 : ∃ (s : State) (mb : Nat) (c : Cmd) (addr : Nat) (count : Nat) (t : Tower) (bays : List Nat), t = towerOf (bayNum addr / 4096) ∧ bays = runBays addr count ∧ Waiting s mb 0x0301 c
    ∧ Plain c 16 ∧ par c 0 8 = addr ∧ par c 8 4 = count ∧ ZeroPar c 0xC 4 ∧ (jobAt s c.job).isSome = true ∧ runBad addr count = false
    ∧ ((∀ b ∈ bays, (tabGet s.loft.bays b).map (·.job) = some c.job)) :=
  ⟨holding (cmd 1 0x0301 7 pinPars) (pinned (inJob jobBay up)), 1, cmd 1 0x0301 7 pinPars, 0x40000000000 + 4096 * 2097152, 1, _, _, rfl, rfl, by decide +kernel⟩

theorem wit_loftCommandsComplete_3a : ∃ (s : State) (mb : Nat) (c : Cmd) (addr : Nat) (count : Nat) (t : Tower) (bays : List Nat) (s1 : State) (las : List Nat) (wb : Nat), t = towerOf (bayNum addr / 4096) ∧ bays = runBays addr count
    ∧ bays.foldl (fun a b => unpinBay b a) (s, [], 0) = (s1, las, wb) ∧ Waiting s mb 0x0301 c ∧ Plain c 16 ∧ par c 0 8 = addr ∧ par c 8 4 = count
    ∧ ZeroPar c 0xC 4 ∧ (jobAt s c.job).isSome = true ∧ runBad addr count = false ∧ ((∀ b ∈ bays, (tabGet s.loft.bays b).map (·.job) = some c.job))
    ∧ loftBusy s c.job = false ∧ ((∀ b ∈ bays, sheafDeclares s c.job (pinBase + b * pageBytes) = false)) :=
  ⟨holding (cmd 1 0x0301 7 pinPars) (pinned (inJob jobBay up)), 1, cmd 1 0x0301 7 pinPars, 0x40000000000 + 4096 * 2097152, 1, _, _, _, _, _, rfl, rfl, parts3 _, by decide +kernel⟩

theorem wit_loftCommandsComplete_3b : ∃ (s : State) (mb : Nat) (c : Cmd) (addr : Nat) (count : Nat) (t : Tower) (bays : List Nat), t = towerOf (bayNum addr / 4096) ∧ bays = runBays addr count ∧ Waiting s mb 0x0301 c
    ∧ Plain c 16 ∧ par c 0 8 = addr ∧ par c 8 4 = count ∧ ZeroPar c 0xC 4 ∧ (jobAt s c.job).isSome = true ∧ runBad addr count = false
    ∧ ((∀ b ∈ bays, (tabGet s.loft.bays b).map (·.job) = some c.job))
    ∧ ((loftBusy s c.job = true ∨ ∃ b ∈ bays, sheafDeclares s c.job (pinBase + b * pageBytes) = true)) :=
  ⟨holding (cmd 1 0x0301 7 pinPars) (flushOn <| pinned (inJob jobBay up)), 1, cmd 1 0x0301 7 pinPars, 0x40000000000 + 4096 * 2097152, 1, _, _, rfl, rfl, by decide +kernel⟩

theorem wit_loftCommandsComplete_4 : ∃ (s : State) (mb : Nat) (c : Cmd) (fl : Nat) (s1 : State) (t : State), s1 = (if fl.testBit 0 then s.onJob c.job (fun j => { j with quota := ⟨if par c 2 2 = 0xFFFF then none else some (par c 2 2), if par c 4 2 = 0xFFFF then none else some (par c 4 2)⟩ }) else s)
    ∧ t = s1.onLoft (fun x => { x with thrashPct := if fl.testBit 1 then par c 6 1 else x.thrashPct, bankhotMin := if fl.testBit 2 then par c 8 4 else x.bankhotMin })
    ∧ Waiting s mb 0x0302 c ∧ Plain c 16 ∧ par c 0 2 = fl ∧ fl ≤ 7 ∧ ZeroPar c 7 1 ∧ ZeroPar c 0xC 4
    ∧ ((c.job ≠ 0 ∨ fl.testBit 0 = true → (jobAt s c.job).isSome = true))
    ∧ ((fl.testBit 0 = true → (par c 2 2 ≤ 3456 ∨ par c 2 2 = 0xFFFF) ∧ (par c 4 2 ≤ 3456 ∨ par c 4 2 = 0xFFFF)))
    ∧ ((fl.testBit 1 = true → par c 6 1 ≤ 100)) :=
  ⟨holding (cmd 1 0x0302 7 ([7#8, 0#8] ++ leBytes 3456 2 ++ leBytes 0xFFFF 2 ++ [100#8, 0#8] ++ z 8)) (inJob jobBay up), 1, cmd 1 0x0302 7 ([7#8, 0#8] ++ leBytes 3456 2 ++ leBytes 0xFFFF 2 ++ [100#8, 0#8] ++ z 8), 7, _, _, rfl, rfl, by decide +kernel⟩

theorem wit_loftCommandsComplete_5 : ∃ (s : State) (mb : Nat) (c : Cmd) (fl : Nat) (rs : List (Nat × Nat)) (s1 : State) (waits : List Nat) (wb : Nat) (gone : Nat) (s2 : State), ((fl.testBit 1 = false → par c 0 8 % 256 = 0 ∧ par c 8 8 % 256 = 0 ∧ 0 < par c 8 8 ∧ par c 0 8 + par c 8 8 ≤ hbmTop ∧ ∀ p ∈ pagesOf (par c 0 8) (par c 8 8), ∃ j ∈ jobAt s c.job, ∃ e ∈ j.map, e.space = 0 ∧ entryHolds e p = true))
    ∧ rs = (if fl.testBit 1 = false then [(par c 0 8, par c 8 8)] else if c.job = 0 then [(0, hbmTop)] else ((((jobAt s c.job).map (·.map)).getD []).filter (fun e => decide (e.space = 0))).map (fun e => (e.base, e.count * pageBytes)))
    ∧ (linesIn s rs).foldl (fun a la => cleanLine (fl.testBit 0) la a) (s.draw, [], 0, 0) = (s1, waits, wb, gone)
    ∧ s2 = (if fl.testBit 0 then fineDrop rs s1 else s1) ∧ Waiting s mb 0x0303 c ∧ Plain c 24 ∧ par c 0x10 4 = fl ∧ fl ≤ 3 ∧ ZeroPar c 0x14 4
    ∧ ((fl.testBit 1 = true → c.job = 0 → c.mb = 0)) ∧ ((fl.testBit 1 = false ∨ c.job ≠ 0 → (jobAt s c.job).isSome = true))
    ∧ loftBusy s c.job = false :=
  ⟨flushing, 1, flushCmd, 0, _, _, _, _, _, _, fun _ => ⟨by decide +kernel, by decide +kernel, by decide +kernel, by decide +kernel, fun p h => ⟨job0, by decide +kernel, ⟨0, 7, 1, 0x40000000⟩, by decide +kernel, rfl, by revert p; decide +kernel⟩⟩, rfl, parts4 _, rfl, by decide +kernel⟩

theorem wit_loftCommandsComplete_6 : ∃ (las : List Nat), las ≠ [] :=
  ⟨[5], by decide +kernel⟩

theorem wit_loftCommandsComplete_7 : ∃ (c : Cmd), c.opcode ≠ 0x0300 :=
  ⟨flushCmd, by decide +kernel⟩

/-- CELLAR.CONFIG of every group: a cellar region of one page in tower 0. -/
def regionsCmd : Cmd := cmd 0 0x0304 0 (leBytes 15 4 ++ [0#8, 1#8, 0#8, 1#8, 2#8] ++ z 7 ++ leBytes 2097152 8 ++ leBytes 2097152 8 ++ z 48)

theorem wit_memoryCommandsComplete_1 : ∃ (s : State) (mb : Nat) (c : Cmd) (fl : Nat) (cel : Pair Region) (mir : Pair Region) (glob : Bool) (s1 : State) (s2 : State) (s3 : State) (t : State), cel = ⟨⟨par c 0x10 8, par c 0x18 8⟩, ⟨par c 0x20 8, par c 0x28 8⟩⟩
    ∧ mir = ⟨⟨par c 0x30 8, par c 0x38 8⟩, ⟨par c 0x40 8, par c 0x48 8⟩⟩
    ∧ glob = (if fl.testBit 0 then decide (par c 4 1 = 1) else s.hbm.globalHoming)
    ∧ s1 = (if fl.testBit 0 then rehome glob (drainChans (flushTowers bothTowers s)) else s)
    ∧ s2 = (if fl.testBit 1 then setMode .t1 (decide (par c 6 1 = 1), decide (par c 7 1 = 1)) (setMode .t0 (decide (par c 5 1 = 1), decide (par c 7 1 = 1)) s1) else s1)
    ∧ s3 = s2.onFlash (fun f => { f with rate := if fl.testBit 2 then par c 8 1 else f.rate, globalHoming := if fl.testBit 0 then glob else f.globalHoming, cellar := if fl.testBit 3 then cel else f.cellar, mirror := if fl.testBit 3 then mir else f.mirror })
    ∧ t = (if fl.testBit 3 then s3.onHbm (fun h => { h with cellar := cel, mirror := mir }) else s3) ∧ Waiting s mb 0x0304 c ∧ Plain c 80
    ∧ par c 0 4 = fl ∧ fl ≤ 15 ∧ par c 4 1 ≤ 1 ∧ par c 5 1 ≤ 1 ∧ par c 6 1 ≤ 1 ∧ par c 7 1 ≤ 1 ∧ par c 8 1 ≤ 4 ∧ ZeroPar c 9 7
    ∧ ((fl.testBit 0 = false → ZeroPar c 4 1)) ∧ ((fl.testBit 1 = false → ZeroPar c 5 3)) ∧ ((fl.testBit 2 = false → ZeroPar c 8 1))
    ∧ ((fl.testBit 3 = false → ZeroPar c 0x10 64)) ∧ ((fl.testBit 0 = true → s.jobs.jobs = [] ∧ anyBound s = false))
    ∧ ((fl.testBit 3 = true → anyBound s = false ∧ regionsOk s glob cel mir = true)) :=
  ⟨holding regionsCmd up, 0, regionsCmd, 15, _, _, _, _, _, _, _, rfl, rfl, rfl, rfl, rfl, rfl, rfl, by decide +kernel⟩

theorem wit_memoryCommandsComplete_2 : ∃ (s : State) (mb : Nat) (c : Cmd), Waiting s mb 0x0304 c ∧ Plain c 80 ∧ par c 0 4 = 1 ∧ par c 4 1 ≤ 1 ∧ ZeroPar c 5 11
    ∧ ZeroPar c 0x10 64 ∧ (s.jobs.jobs ≠ [] ∨ anyBound s = true) :=
  ⟨holding (cmd 0 0x0304 0 (leBytes 1 80)) (inJob job0 up), 0, cmd 0 0x0304 0 (leBytes 1 80), by decide +kernel⟩

theorem wit_memoryCommandsComplete_3 : ∃ (s : State) (mb : Nat) (c : Cmd) (h : Nat) (tw : Nat) (fl : Nat) (t : State), t = (towersOfMask tw).foldl (fun st u => onHolder u h (fun r => { r with basePrio := if fl.testBit 0 then par c 3 1 else r.basePrio, targetNs := if fl.testBit 1 then par c 4 4 else r.targetNs, samples := if fl.testBit 1 then 0 else r.samples, mean16 := if fl.testBit 1 then par c 4 4 * 16 else r.mean16, budgetMbps := if fl.testBit 2 then par c 8 4 else r.budgetMbps }) st) s
    ∧ Waiting s mb 0x0307 c ∧ Plain c 16 ∧ par c 0 1 = h ∧ h ≤ 8 ∧ par c 1 1 = tw ∧ tw ≤ 3 ∧ par c 2 1 = fl ∧ fl ≤ 7 ∧ par c 3 1 ≤ 7
    ∧ ((fl.testBit 1 = true → par c 4 4 = 0 ∨ 200 ≤ par c 4 4 ∧ par c 4 4 ≤ 1000000)) ∧ ZeroPar c 0xC 4 :=
  ⟨holding (cmd 0 0x0307 0 ([8#8, 1#8, 7#8, 7#8] ++ leBytes 1000000 4 ++ z 8)) up, 0, cmd 0 0x0307 0 ([8#8, 1#8, 7#8, 7#8] ++ leBytes 1000000 4 ++ z 8), 8, 1, 7, _, rfl, by decide +kernel⟩

theorem wit_memoryCommandsComplete_4 : ∃ (s : State) (mb : Nat) (c : Cmd) (act : Nat) (unit : Nat) (es : List (List Byte)), es = remapList s act unit ∧ Waiting s mb 0x0305 c ∧ Plain c 16 ∧ par c 0 1 = act
    ∧ act ≤ 2 ∧ par c 1 1 = unit ∧ unit ≤ (if act = 0 then 15 else if act = 1 then 3 else 0) ∧ ZeroPar c 4 4 ∧ par c 8 8 = 0 :=
  ⟨holding (cmd 0 0x0305 0 ([0#8, 15#8] ++ z 14)) (up), 0, cmd 0 0x0305 0 ([0#8, 15#8] ++ z 14), 0, 15, _, rfl, by decide +kernel⟩

theorem wit_memoryCommandsComplete_5 : ∃ (s : State) (mb : Nat) (c : Cmd) (act : Nat) (unit : Nat) (addr : Nat) (r : Bool × State), r = (if act = 3 then addBlock 0 addr s else if act = 4 then addRow 0 addr s else addLine 0 unit (addr / 2 ^ 15 % 512) (addr % 2 ^ 15) s)
    ∧ Waiting s mb 0x0305 c ∧ Plain c 16 ∧ par c 0 1 = act ∧ 3 ≤ act ∧ act ≤ 5 ∧ par c 1 1 = unit ∧ par c 2 2 = 0 ∧ ZeroPar c 4 4 ∧ par c 8 8 = addr
    ∧ ((act ≤ 4 → unit ≤ 15 ∧ unbacked s addr = false ∧ (locOf s addr).stack = unit)) ∧ ((act = 5 → unit ≤ 3 ∧ addr < 2 ^ 24)) :=
  ⟨holding (cmd 0 0x0305 0 ([5#8, 3#8] ++ z 6 ++ leBytes 0xFFFFFF 8)) (up), 0, cmd 0 0x0305 0 ([5#8, 3#8] ++ z 6 ++ leBytes 0xFFFFFF 8), 5, 3, 0xFFFFFF, _, rfl, by decide +kernel⟩

theorem wit_memoryCommandsComplete_6 : ∃ (s : State) (mb : Nat) (c : Cmd) (fl : Nat) (s1 : State) (s2 : State) (x : Nat) (y : Nat), s1 = s.onHbm (fun h => { h with hbmPassMin := if fl.testBit 0 then par c 4 4 else h.hbmPassMin, loftPassS := if fl.testBit 0 then par c 8 4 else h.loftPassS, detect := if fl.testBit 2 then decide (par c 1 1 = 1) else h.detect })
    ∧ (if fl.testBit 1 then scrubRange (par c 0x10 8) (par c 0x18 8) s1 else (s1, 0, 0)) = (s2, x, y) ∧ Waiting s mb 0x0306 c ∧ Plain c 32
    ∧ par c 0 1 = fl ∧ fl ≤ 7 ∧ par c 1 1 ≤ 1 ∧ ZeroPar c 2 2 ∧ ZeroPar c 0xC 4
    ∧ ((fl.testBit 0 = true → (par c 4 4 = 0 ∨ 60 ≤ par c 4 4 ∧ par c 4 4 ≤ 10080) ∧ (par c 8 4 = 0 ∨ 10 ≤ par c 8 4 ∧ par c 8 4 ≤ 3600)))
    ∧ ((fl.testBit 1 = true → par c 0x10 8 % pageBytes = 0 ∧ par c 0x18 8 % pageBytes = 0 ∧ par c 0x18 8 ≤ 0x1000000000 ∧ par c 0x10 8 + par c 0x18 8 ≤ hbmTop ∧ ∀ p ∈ pagesOf (par c 0x10 8) (par c 0x18 8), unbacked s p = false))
    ∧ ((fl.testBit 1 = false → ZeroPar c 0x10 16)) :=
  ⟨holding (cmd 0 0x0306 0 ([7#8, 1#8, 0#8, 0#8] ++ leBytes 10080 4 ++ leBytes 10 4 ++ z 12 ++ leBytes 0 8)) (up), 0, cmd 0 0x0306 0 ([7#8, 1#8, 0#8, 0#8] ++ leBytes 10080 4 ++ leBytes 10 4 ++ z 12 ++ leBytes 0 8), 7, _, _, _, _, rfl, parts3 _, by decide +kernel⟩

theorem wit_memoryCommandsComplete_7 : ∃ (s : State) (mb : Nat) (c : Cmd) (fl : Nat) (a : Nat), Waiting s mb 0x0908 c ∧ Plain c 88 ∧ par c 0 1 = 0 ∧ par c 1 1 = fl ∧ par c 2 2 = 0
    ∧ ZeroPar c 4 4 ∧ par c 8 8 = a ∧ a % 64 = 0 ∧ unbacked s a = false ∧ ZeroPar c 0x54 4 :=
  ⟨holding (cmd 0 0x0908 0 (z 8 ++ leBytes 0x40 8 ++ z 72)) (up), 0, cmd 0 0x0908 0 (z 8 ++ leBytes 0x40 8 ++ z 72), 0, 0x40, by decide +kernel⟩

theorem wit_memoryCommandsComplete_7a : ∃ (s : State) (mb : Nat) (c : Cmd) (fl : Nat) (a : Nat), Waiting s mb 0x0908 c ∧ Plain c 88 ∧ par c 0 1 = 0 ∧ par c 1 1 = fl ∧ par c 2 2 = 0
    ∧ ZeroPar c 4 4 ∧ par c 8 8 = a ∧ a % 64 = 0 ∧ unbacked s a = false ∧ ZeroPar c 0x54 4 ∧ fl ≤ 1 ∧ tabGet s.hbm.armed (locOf s a).stack = none :=
  ⟨holding (cmd 0 0x0908 0 (z 8 ++ leBytes 0x40 8 ++ z 72)) (up), 0, cmd 0 0x0908 0 (z 8 ++ leBytes 0x40 8 ++ z 72), 0, 0x40, by decide +kernel⟩

theorem wit_memoryCommandsComplete_7b : ∃ (s : State) (mb : Nat) (c : Cmd) (fl : Nat) (a : Nat), Waiting s mb 0x0908 c ∧ Plain c 88 ∧ par c 0 1 = 0 ∧ par c 1 1 = fl ∧ par c 2 2 = 0
    ∧ ZeroPar c 4 4 ∧ par c 8 8 = a ∧ a % 64 = 0 ∧ unbacked s a = false ∧ ZeroPar c 0x54 4 ∧ (fl = 2 ∨ fl = 3) :=
  ⟨holding (cmd 0 0x0908 0 ([0#8, 2#8] ++ z 6 ++ leBytes 0x40 8 ++ z 72)) (up), 0, cmd 0 0x0908 0 ([0#8, 2#8] ++ z 6 ++ leBytes 0x40 8 ++ z 72), 2, 0x40, by decide +kernel⟩

theorem wit_memoryCommandsComplete_8 : ∃ (s : State) (mb : Nat) (c : Cmd) (fl : Nat) (u : Nat) (a : Nat), Waiting s mb 0x0908 c ∧ Plain c 88 ∧ par c 0 1 = 1 ∧ par c 1 1 = fl ∧ par c 2 2 = u
    ∧ u ≤ 3 ∧ ZeroPar c 4 4 ∧ par c 8 8 = a ∧ a < 2 ^ 29 ∧ ZeroPar c 0x18 56 ∧ ZeroPar c 0x51 7 :=
  ⟨holding (cmd 0 0x0908 0 ([1#8, 1#8, 3#8] ++ z 5 ++ leBytes 0x1FFFFFFF 8 ++ z 72)) (up), 0, cmd 0 0x0908 0 ([1#8, 1#8, 3#8] ++ z 5 ++ leBytes 0x1FFFFFFF 8 ++ z 72), 1, 3, 0x1FFFFFFF, by decide +kernel⟩

theorem wit_memoryCommandsComplete_8a : ∃ (s : State) (mb : Nat) (c : Cmd) (fl : Nat) (u : Nat) (a : Nat), Waiting s mb 0x0908 c ∧ Plain c 88 ∧ par c 0 1 = 1 ∧ par c 1 1 = fl ∧ par c 2 2 = u
    ∧ u ≤ 3 ∧ ZeroPar c 4 4 ∧ par c 8 8 = a ∧ a < 2 ^ 29 ∧ ZeroPar c 0x18 56 ∧ ZeroPar c 0x51 7 ∧ fl ≤ 1 ∧ tabGet s.hbm.armed (16 + u) = none :=
  ⟨holding (cmd 0 0x0908 0 ([1#8, 1#8, 3#8] ++ z 5 ++ leBytes 0x1FFFFFFF 8 ++ z 72)) (up), 0, cmd 0 0x0908 0 ([1#8, 1#8, 3#8] ++ z 5 ++ leBytes 0x1FFFFFFF 8 ++ z 72), 1, 3, 0x1FFFFFFF, by decide +kernel⟩

theorem wit_memoryCommandsComplete_8b : ∃ (s : State) (mb : Nat) (c : Cmd) (fl : Nat) (u : Nat) (a : Nat), Waiting s mb 0x0908 c ∧ Plain c 88 ∧ par c 0 1 = 1 ∧ par c 1 1 = fl ∧ par c 2 2 = u
    ∧ u ≤ 3 ∧ ZeroPar c 4 4 ∧ par c 8 8 = a ∧ a < 2 ^ 29 ∧ ZeroPar c 0x18 56 ∧ ZeroPar c 0x51 7 ∧ (fl = 2 ∨ fl = 3) :=
  ⟨holding (cmd 0 0x0908 0 ([1#8, 3#8, 3#8] ++ z 5 ++ leBytes 0x1FFFFFFF 8 ++ z 72)) (up), 0, cmd 0 0x0908 0 ([1#8, 3#8, 3#8] ++ z 5 ++ leBytes 0x1FFFFFFF 8 ++ z 72), 3, 3, 0x1FFFFFFF, by decide +kernel⟩

theorem wit_memoryCommandsComplete_9 : ∃ (s : State) (mb : Nat) (c : Cmd) (fl : Nat) (u : Nat) (k : Nat), k = 20 + 6 * bitsOf u 15 15 + bitsOf u 14 12 ∧ Waiting s mb 0x0908 c ∧ Plain c 88
    ∧ par c 0 1 = 2 ∧ par c 1 1 = fl ∧ par c 2 2 = u ∧ u % 4096 < groupsOf (bitsOf u 14 12) ∧ ZeroPar c 4 4 ∧ par c 8 8 = 0 ∧ ZeroPar c 0x18 56
    ∧ ZeroPar c 0x51 7 :=
  ⟨holding (cmd 0 0x0908 0 ([2#8, 0#8] ++ leBytes (32768 + 3 * 4096 + 4095) 2 ++ z 84)) (up), 0, cmd 0 0x0908 0 ([2#8, 0#8] ++ leBytes (32768 + 3 * 4096 + 4095) 2 ++ z 84), 0, 32768 + 3 * 4096 + 4095, _, rfl, by decide +kernel⟩

theorem wit_memoryCommandsComplete_9a : ∃ (s : State) (mb : Nat) (c : Cmd) (fl : Nat) (u : Nat) (k : Nat), k = 20 + 6 * bitsOf u 15 15 + bitsOf u 14 12 ∧ Waiting s mb 0x0908 c ∧ Plain c 88
    ∧ par c 0 1 = 2 ∧ par c 1 1 = fl ∧ par c 2 2 = u ∧ u % 4096 < groupsOf (bitsOf u 14 12) ∧ ZeroPar c 4 4 ∧ par c 8 8 = 0 ∧ ZeroPar c 0x18 56
    ∧ ZeroPar c 0x51 7 ∧ fl = 0 ∧ tabGet s.hbm.armed k = none :=
  ⟨holding (cmd 0 0x0908 0 ([2#8, 0#8] ++ leBytes (32768 + 3 * 4096 + 4095) 2 ++ z 84)) (up), 0, cmd 0 0x0908 0 ([2#8, 0#8] ++ leBytes (32768 + 3 * 4096 + 4095) 2 ++ z 84), 0, 32768 + 3 * 4096 + 4095, _, rfl, by decide +kernel⟩

theorem wit_memoryCommandsComplete_9b : ∃ (s : State) (mb : Nat) (c : Cmd) (fl : Nat) (u : Nat) (k : Nat), k = 20 + 6 * bitsOf u 15 15 + bitsOf u 14 12 ∧ Waiting s mb 0x0908 c ∧ Plain c 88
    ∧ par c 0 1 = 2 ∧ par c 1 1 = fl ∧ par c 2 2 = u ∧ u % 4096 < groupsOf (bitsOf u 14 12) ∧ ZeroPar c 4 4 ∧ par c 8 8 = 0 ∧ ZeroPar c 0x18 56
    ∧ ZeroPar c 0x51 7 ∧ fl = 2 :=
  ⟨holding (cmd 0 0x0908 0 ([2#8, 2#8] ++ leBytes (32768 + 3 * 4096 + 4095) 2 ++ z 84)) (up), 0, cmd 0 0x0908 0 ([2#8, 2#8] ++ leBytes (32768 + 3 * 4096 + 4095) 2 ++ z 84), 2, 32768 + 3 * 4096 + 4095, _, rfl, by decide +kernel⟩

/-- A FINE read arriving, a reduction at the press unit, a filled miss, a line in the write-back buffer. -/
def fine0 : LoftReq := ⟨1, 0x40000080, 7, none, .fine 0, false, Agent.core⟩
def arriving : State := up.onLoft (fun x => { x with tw := ⟨{ x.tw.t0 with arrivals := [fine0] }, x.tw.t1⟩ })
def fineCol : Nat := reqColumn arriving .t0 fine0
def served : LoftReq × State := (nextServed .t0 fineCol arriving).getD (fine0, up)
def reduce0 : LoftReq := ⟨1, 0x40000000, 7, none, .reduce .add .fp32 [⟨0, 0x40000000, 0, 0, false, false⟩] none, false, Agent.core⟩
def miss0 : MissReg := ⟨0x400000, [⟨2, 0x40000000, 7, none, .store [(0x40000000, 1#8)] [], false, Agent.core⟩],
  [(0, z 64, false), (1, z 64, false), (2, z 64, false), (3, z 64, false)]⟩
def filled : State := up.onLoft (fun x => { x with tw := ⟨{ x.tw.t0 with miss := [(3, [miss0])] }, x.tw.t1⟩ })
def wb0 : WbEntry := ⟨0x400000, z 256, 15, 1, 0⟩
def buffered : State := up.onLoft (fun x => { x with tw := ⟨{ x.tw.t0 with wb := [(3, [wb0])] }, x.tw.t1⟩ })

theorem wit_loftEventsComplete_1 : ∃ (s : State) (flips : List (Nat × BitVec 72)) (s1 : State), s1 = s.onLoft (fun x => { x with flips := flips.foldl (fun f p => tabPut f p.1 (tabGetD f p.1 0#72 ^^^ p.2)) x.flips }) :=
  ⟨arriving, [(5, 1#72)], _, rfl⟩

theorem wit_loftEventsComplete_1a : ∃ (s : State) (t : Tower) (col : Nat) (flips : List (Nat × BitVec 72)) (s1 : State) (r : LoftReq) (s2 : State), s1 = s.onLoft (fun x => { x with flips := flips.foldl (fun f p => tabPut f p.1 (tabGetD f p.1 0#72 ^^^ p.2)) x.flips })
    ∧ nextServed t col s1 = some (r, s2) :=
  ⟨arriving, .t0, fineCol, [], arriving, served.1, served.2, by decide +kernel⟩

theorem wit_loftEventsComplete_1b : ∃ (s : State) (t : Tower) (col : Nat) (flips : List (Nat × BitVec 72)) (s1 : State), s1 = s.onLoft (fun x => { x with flips := flips.foldl (fun f p => tabPut f p.1 (tabGetD f p.1 0#72 ^^^ p.2)) x.flips })
    ∧ nextServed t col s1 = none :=
  ⟨up, .t0, 5, [], up, by decide +kernel⟩

theorem wit_loftEventsComplete_2 : ∃ (s : State) (t : Tower) (col : Nat) (r : LoftReq) (s2 : State), nextServed t col s = some (r, s2) :=
  ⟨arriving, .t0, fineCol, served.1, served.2, by decide +kernel⟩

theorem wit_loftEventsComplete_3 : ∃ (s : State) (t : Tower) (id : Nat) (r : LoftReq), (s.loft.tw.get t).reducing.find? (fun r => decide (r.id = id)) = some r :=
  ⟨up.onLoft (fun x => { x with tw := ⟨{ x.tw.t0 with reducing := [reduce0] }, x.tw.t1⟩ }), .t0, 1, reduce0, by decide +kernel⟩

theorem wit_loftEventsComplete_4 : ∃ (s : State) (t : Tower) (id : Nat), ((∀ r ∈ (s.loft.tw.get t).reducing, r.id ≠ id)) :=
  ⟨up, .t0, 1, by decide +kernel⟩

theorem wit_loftEventsComplete_5 : ∃ (s : State) (t : Tower) (col : Nat) (m : MissReg) (d : List Byte) (p : BitVec 8) (served : Option State), mergeFill s (tabGet s.loft.bulk m.la) m.quarters = (d, p)
    ∧ served = (if m.waiters.any (fun r => r.agent.alloc) = false then some (answerReads m.la d p m.waiters s) else (match tabGet s.loft.bulk m.la with | some l => if l.valid = 0xF#4 then some s else mergeLine m.la l d p (m.waiters.any (fun r => r.agent.staged)) s | none => placeLine t m.la d 0xF#4 0#4 p (m.waiters.any (fun r => r.agent.staged)) true s).bind (fun s1 => m.waiters.foldl (fun o r => o.bind (serveWaiter r)) (some s1)))
    ∧ (missOf s t col).find? (fillReady s) = some m :=
  ⟨filled, .t0, 3, miss0, _, _, _, parts2 _, rfl, by decide +kernel⟩

theorem wit_loftEventsComplete_5a : ∃ (s : State) (t : Tower) (col : Nat) (m : MissReg) (d : List Byte) (p : BitVec 8) (served : Option State), mergeFill s (tabGet s.loft.bulk m.la) m.quarters = (d, p)
    ∧ served = (if m.waiters.any (fun r => r.agent.alloc) = false then some (answerReads m.la d p m.waiters s) else (match tabGet s.loft.bulk m.la with | some l => if l.valid = 0xF#4 then some s else mergeLine m.la l d p (m.waiters.any (fun r => r.agent.staged)) s | none => placeLine t m.la d 0xF#4 0#4 p (m.waiters.any (fun r => r.agent.staged)) true s).bind (fun s1 => m.waiters.foldl (fun o r => o.bind (serveWaiter r)) (some s1)))
    ∧ (missOf s t col).find? (fillReady s) = some m ∧ served.isSome = true :=
  ⟨filled, .t0, 3, miss0, _, _, _, parts2 _, rfl, by decide +kernel⟩

theorem wit_loftEventsComplete_6 : ∃ (s : State) (t : Tower) (col : Nat), (missOf s t col).find? (fillReady s) = none :=
  ⟨up, .t0, 3, by decide +kernel⟩

theorem wit_loftEventsComplete_7 : ∃ (s : State) (t : Tower) (col : Nat) (e : WbEntry) (rest : List WbEntry) (k : Nat) (s1 : State) (c : Chan) (s2 : State), k = chanOf s (e.la * 256) ∧ s1 = acceptAll k (chanAt s k).input.length s
    ∧ c = chanAt s1 k ∧ s2 = wbPop t col s1 ∧ wbOf s t col = e :: rest :=
  ⟨buffered, .t0, 3, wb0, [], _, _, _, _, rfl, rfl, rfl, rfl, by decide +kernel⟩

theorem wit_loftEventsComplete_8 : ∃ (s : State) (t : Tower) (col : Nat) (e : WbEntry) (rest : List WbEntry), wbOf s t col = e :: rest :=
  ⟨buffered, .t0, 3, wb0, [], by decide +kernel⟩

theorem wit_loftEventsComplete_9 : ∃ (s : State) (t : Tower) (col : Nat), wbOf s t col = [] :=
  ⟨up, .t0, 3, by decide +kernel⟩

theorem wit_loftEventsComplete_10 : ∃ (s : State) (t : Tower) (m : FineMiss), (s.loft.tw.get t).fineMiss.find? (fun m => m.arrived) = some m :=
  ⟨up.onLoft (fun x => { x with tw := ⟨{ x.tw.t0 with fineMiss := [⟨0x800000, 0, false, 1, true⟩] }, x.tw.t1⟩ }), .t0, ⟨0x800000, 0, false, 1, true⟩, by decide +kernel⟩

theorem wit_loftEventsComplete_11 : ∃ (s : State) (t : Tower), (s.loft.tw.get t).fineMiss.find? (fun m => m.arrived) = none :=
  ⟨up, .t0, by decide +kernel⟩

theorem wit_loftEventsComplete_12 : ∃ (s : State) (t : Tower), s.loft.thrashPct ≠ 0 ∧ 8 ≤ (s.loft.tw.get t).overTicks
    ∧ (s.loft.tw.get t).thrashPosted = false :=
  ⟨up.onLoft (fun x => { x with tw := ⟨{ x.tw.t0 with overTicks := 8, lastLookups := 100 }, x.tw.t1⟩ }), .t0, by decide +kernel⟩

theorem wit_loftEventsComplete_13 : ∃ (s : State) (t : Tower), (s.loft.thrashPct = 0 ∨ (s.loft.tw.get t).overTicks < 8 ∨ (s.loft.tw.get t).thrashPosted = true) :=
  ⟨up.onLoft (fun x => { x with thrashPct := 0, tw := ⟨{ x.tw.t0 with overTicks := 8 }, x.tw.t1⟩ }), .t0, by decide +kernel⟩

theorem wit_loftEventsComplete_14 : ∃ (s : State) (t : Tower) (k : Nat), s.loft.bankhotMin ≠ 0 ∧ s.loft.bankhotMin ≤ (s.loft.tw.get t).stalls
    ∧ (s.loft.tw.get t).hotPosted = false ∧ worstBank (s.loft.tw.get t).stallBanks = k :=
  ⟨up.onLoft (fun x => { x with bankhotMin := 5, tw := ⟨{ x.tw.t0 with stalls := 5, stallBanks := [(9, 5)] }, x.tw.t1⟩ }), .t0, 9, by decide +kernel⟩

theorem wit_loftEventsComplete_15 : ∃ (s : State) (t : Tower), (s.loft.bankhotMin = 0 ∨ (s.loft.tw.get t).stalls < s.loft.bankhotMin ∨ (s.loft.tw.get t).hotPosted = true) :=
  ⟨up, .t0, by decide +kernel⟩

/-- A write of holder 3 to a block of stack 0, and its channel; 128 reads spread over the banks of channel 0. -/
def wr0 : HbmReq := ⟨1, 0, true, 0, z 64, false, 3, 0, false, false, 0, false, .other⟩
def chan0 (input queue : List HbmReq) : Chan := { input := input, queue := queue, side := [], dirs := [], openRows := [] }
def inChan (c : Chan) (s : State) : State := s.onHbm (fun h => { h with chans := [(0, c)] })
def rd0 : HbmReq := { wr0 with isWrite := false, data := [] }
def add0 : HbmReq := { rd0 with src := .adder .add .fp32 7 [] none }
def full : List HbmReq := (List.range 128).map (fun i => { rd0 with addr := addrLocal { locLocal 0 with pc := i % 2, bank := i / 2 } })

theorem wit_hbmChannelsComplete_1 : ∃ (s : State) (stack : Nat) (ch : Nat) (k : Nat) (s1 : State) (c : Chan), s1 = promoteSide k (chanAt s k).side s ∧ c = chanAt s1 k ∧ k = stack * 32 + ch :=
  ⟨inChan (chan0 [wr0] []) up, 0, 0, 0, _, _, rfl, rfl, by decide +kernel⟩

theorem wit_hbmChannelsComplete_1a : ∃ (s : State) (stack : Nat) (ch : Nat) (k : Nat) (s1 : State) (c : Chan), s1 = promoteSide k (chanAt s k).side s ∧ c = chanAt s1 k ∧ k = stack * 32 + ch
    ∧ (c.input = [] ∨ 16 ≤ c.side.length) :=
  ⟨up, 15, 31, 511, _, _, rfl, rfl, by decide +kernel⟩

theorem wit_hbmChannelsComplete_1b : ∃ (s : State) (stack : Nat) (ch : Nat) (k : Nat) (s1 : State) (c : Chan) (r : HbmReq) (rest : List HbmReq) (s2 : State), s1 = promoteSide k (chanAt s k).side s ∧ c = chanAt s1 k
    ∧ s2 = s1.onHbm (fun h => { h with chans := tabMod h.chans k (fun x => { x with input := rest }) }) ∧ k = stack * 32 + ch ∧ c.input = r :: rest
    ∧ c.side.length < 16 ∧ limitsAllow s1 c.queue r = false :=
  ⟨inChan (chan0 [wr0] (List.replicate 16 wr0)) up, 0, 0, 0, _, _, wr0, [], _, rfl, rfl, rfl, by decide +kernel⟩

set_option maxRecDepth 100000 in
theorem wit_hbmChannelsComplete_1c : ∃ (s : State) (stack : Nat) (ch : Nat) (k : Nat) (s1 : State) (c : Chan) (r : HbmReq) (rest : List HbmReq) (s2 : State), s1 = promoteSide k (chanAt s k).side s ∧ c = chanAt s1 k
    ∧ s2 = s1.onHbm (fun h => { h with chans := tabMod h.chans k (fun x => { x with input := rest }) }) ∧ k = stack * 32 + ch ∧ c.input = r :: rest
    ∧ c.side.length < 16 ∧ limitsAllow s1 c.queue r = true ∧ 128 ≤ c.queue.length :=
  ⟨inChan (chan0 [wr0] full) up, 0, 0, 0, _, _, wr0, [], _, rfl, rfl, rfl, by decide +kernel⟩

theorem wit_hbmChannelsComplete_1d : ∃ (s : State) (stack : Nat) (ch : Nat) (k : Nat) (s1 : State) (c : Chan) (r : HbmReq) (rest : List HbmReq) (s2 : State), s1 = promoteSide k (chanAt s k).side s ∧ c = chanAt s1 k
    ∧ s2 = s1.onHbm (fun h => { h with chans := tabMod h.chans k (fun x => { x with input := rest }) }) ∧ k = stack * 32 + ch ∧ c.input = r :: rest
    ∧ c.side.length < 16 ∧ limitsAllow s1 c.queue r = true ∧ c.queue.length < 128 :=
  ⟨inChan (chan0 [wr0] []) up, 0, 0, 0, _, _, wr0, [], _, rfl, rfl, rfl, by decide +kernel⟩

theorem wit_hbmChannelsComplete_2 : ∃ (s : State) (stack : Nat) (c : Chan) (ok : HbmReq → Bool) (r : HbmReq), selectReq s stack c ok = some r :=
  ⟨inChan (chan0 [] [wr0]) up, 0, chan0 [] [wr0], fun _ => true, wr0, by decide +kernel⟩

theorem wit_hbmChannelsComplete_3 : ∃ (s : State) (stack : Nat), stackServes s stack = false :=
  ⟨up.onHbm (fun h => { h with hbmStacks := [(0, { Stack.fresh with selfRefresh := true })] }), 0, by decide +kernel⟩

theorem wit_hbmChannelsComplete_4 : ∃ (s : State) (stack : Nat) (ch : Nat) (k : Nat), k = stack * 32 + ch ∧ stackServes s stack = true :=
  ⟨inChan (chan0 [] [wr0]) up, 0, 0, _, rfl, by decide +kernel⟩

theorem wit_hbmChannelsComplete_4a : ∃ (s : State) (stack : Nat) (ch : Nat) (k : Nat), k = stack * 32 + ch ∧ stackServes s stack = true
    ∧ selectReq s stack (chanAt s k) (fun r => !isAdder r) = none :=
  ⟨up, 0, 0, _, rfl, by decide +kernel⟩

theorem wit_hbmChannelsComplete_4b : ∃ (s : State) (stack : Nat) (ch : Nat) (k : Nat) (r : HbmReq), k = stack * 32 + ch ∧ stackServes s stack = true
    ∧ selectReq s stack (chanAt s k) (fun r => !isAdder r) = some r :=
  ⟨inChan (chan0 [] [wr0]) up, 0, 0, _, wr0, rfl, by decide +kernel⟩

theorem wit_hbmChannelsComplete_4c : ∃ (s : State) (stack : Nat) (ch : Nat) (k : Nat) (r : HbmReq), k = stack * 32 + ch ∧ stackServes s stack = true
    ∧ selectReq s stack (chanAt s k) isAdder = some r :=
  ⟨inChan (chan0 [] [add0]) up, 0, 0, _, add0, rfl, by decide +kernel⟩

theorem wit_hbmChannelsComplete_5 : ∃ (s : State) (k : Nat) (r : HbmReq) (t : Tower) (s1 : State) (s2 : State), t = towerOfStack (k / 32)
    ∧ s1 = countServed s t r (chanAt s k) (s.onHbm (fun h => { h with chans := tabMod h.chans k (servedChan s t r) }))
    ∧ s2 = s1.onObs (fun o => { o with gleanHbm := if inRun s1 t then o.gleanHbm.mod t (· + 1) else o.gleanHbm }) :=
  ⟨inChan (chan0 [] [wr0]) up, 0, wr0, _, _, _, rfl, rfl, rfl⟩

theorem wit_hbmChannelsComplete_5a : ∃ (s : State) (k : Nat) (r : HbmReq) (t : Tower) (s1 : State) (s2 : State) (op : RedOp) (ty : RedTy) (job : Nat) (ops : List LaneOp) (ret : Option (Nat × LoadTag)), t = towerOfStack (k / 32)
    ∧ s1 = countServed s t r (chanAt s k) (s.onHbm (fun h => { h with chans := tabMod h.chans k (servedChan s t r) }))
    ∧ s2 = s1.onObs (fun o => { o with gleanHbm := if inRun s1 t then o.gleanHbm.mod t (· + 1) else o.gleanHbm }) ∧ r.src = .adder op ty job ops ret :=
  ⟨inChan (chan0 [] [add0]) up, 0, add0, _, _, _, .add, .fp32, 7, [], none, rfl, rfl, rfl, by decide +kernel⟩

theorem wit_hbmChannelsComplete_5b : ∃ (s : State) (k : Nat) (r : HbmReq) (t : Tower) (s1 : State) (s2 : State), t = towerOfStack (k / 32)
    ∧ s1 = countServed s t r (chanAt s k) (s.onHbm (fun h => { h with chans := tabMod h.chans k (servedChan s t r) }))
    ∧ s2 = s1.onObs (fun o => { o with gleanHbm := if inRun s1 t then o.gleanHbm.mod t (· + 1) else o.gleanHbm }) ∧ isAdder r = false
    ∧ r.isWrite = true :=
  ⟨inChan (chan0 [] [wr0]) up, 0, wr0, _, _, _, rfl, rfl, rfl, by decide +kernel⟩

theorem wit_hbmChannelsComplete_5c : ∃ (s : State) (k : Nat) (r : HbmReq) (err : List (Nat × Byte)) (inner : Nat) (t : Tower) (s1 : State) (s2 : State) (s4 : State) (data : List Byte) (poison : Bool), t = towerOfStack (k / 32)
    ∧ s1 = countServed s t r (chanAt s k) (s.onHbm (fun h => { h with chans := tabMod h.chans k (servedChan s t r) }))
    ∧ s2 = s1.onObs (fun o => { o with gleanHbm := if inRun s1 t then o.gleanHbm.mod t (· + 1) else o.gleanHbm })
    ∧ readWithErrors r err (ctrInner (k / 32) inner (beatMeets t 0 (k / 32 % 8 * 32 + k % 32) s2)) = (s4, data, poison) ∧ isAdder r = false
    ∧ r.isWrite = false :=
  ⟨inChan (chan0 [] [rd0]) up, 0, rd0, [], 1, _, _, _, _, _, _, rfl, rfl, rfl, parts3 _, by decide +kernel⟩

theorem wit_hbmChannelsComplete_6 : ∃ (s : State) (stack : Nat) (ch : Nat) (c : Chan) (r : HbmReq) (rest : List HbmReq), tabGet s.hbm.chans (stack * 32 + ch) = some c ∧ c.queue = r :: rest ∧ r.aged = false
    ∧ (¬ (r.holder = 4 ∧ r.early = true)) :=
  ⟨inChan (chan0 [] [wr0]) up, 0, 0, chan0 [] [wr0], wr0, [], by decide +kernel⟩

theorem wit_hbmChannelsComplete_7 : ∃ (s : State) (stack : Nat) (ch : Nat), ((∀ r ∈ (chanAt s (stack * 32 + ch)).queue, r.aged = true ∨ r.holder = 4 ∧ r.early = true)) :=
  ⟨up, 0, 0, by decide +kernel⟩

theorem wit_hbmChannelsComplete_9 : ∃ (s : State) (stack : Nat) (bank : Option Nat) (st : Stack) (n : Nat), tabGetD s.hbm.hbmStacks stack Stack.fresh = st
    ∧ tabGetD st.postponed (bank.getD 128) 0 = n ∧ stack < 16 ∧ st.lost = false ∧ st.selfRefresh = false
    ∧ bank.isNone = (s.hbm.mixed.get (towerOfStack stack) && s.hbm.allBank.get (towerOfStack stack)) :=
  ⟨inChan (chan0 [] [wr0]) up, 0, some (reqBank up wr0), _, _, rfl, rfl, by decide +kernel⟩

theorem wit_hbmChannelsComplete_9a : ∃ (s : State) (stack : Nat) (bank : Option Nat) (st : Stack) (n : Nat), tabGetD s.hbm.hbmStacks stack Stack.fresh = st
    ∧ tabGetD st.postponed (bank.getD 128) 0 = n ∧ stack < 16 ∧ st.lost = false ∧ st.selfRefresh = false
    ∧ bank.isNone = (s.hbm.mixed.get (towerOfStack stack) && s.hbm.allBank.get (towerOfStack stack)) ∧ bankWaits s stack bank = true ∧ n < 7 :=
  ⟨inChan (chan0 [] [wr0]) up, 0, some (reqBank up wr0), _, _, rfl, rfl, by decide +kernel⟩

theorem wit_hbmChannelsComplete_9b : ∃ (s : State) (stack : Nat) (bank : Option Nat) (st : Stack) (n : Nat), tabGetD s.hbm.hbmStacks stack Stack.fresh = st
    ∧ tabGetD st.postponed (bank.getD 128) 0 = n ∧ stack < 16 ∧ st.lost = false ∧ st.selfRefresh = false
    ∧ bank.isNone = (s.hbm.mixed.get (towerOfStack stack) && s.hbm.allBank.get (towerOfStack stack)) ∧ (bankWaits s stack bank = false ∨ 7 ≤ n) :=
  ⟨up, 15, some 127, _, _, rfl, rfl, by decide +kernel⟩

theorem wit_hbmChannelsComplete_10 : ∃ (s : State) (stack : Nat) (bank : Option Nat), bank.isNone ≠ (s.hbm.mixed.get (towerOfStack stack) && s.hbm.allBank.get (towerOfStack stack)) :=
  ⟨up, 15, none, by decide +kernel⟩

theorem wit_hbmChannelsComplete_11 : ∃ (s : State) (u : State), u = s.timeTo (roundUp s.nowNs 10000) :=
  ⟨up, _, rfl⟩

theorem wit_hbmChannelsComplete_11a : ∃ (s : State) (t : Tower) (h : Nat) (u : State), u = s.timeTo (roundUp s.nowNs 10000) ∧ h ≤ 8 ∧ t = .t1 :=
  ⟨up, .t1, 8, _, rfl, by decide +kernel⟩

theorem wit_hbmChannelsComplete_11b : ∃ (s : State) (h : Nat) (u : State), u = s.timeTo (roundUp s.nowNs 10000) ∧ 8 < h :=
  ⟨up, 9, _, rfl, by decide +kernel⟩

/-- A block sighted, persistently or not; four blocks of a row with entries; a die's table full. -/
def sighted (d : Bool) : State := up.onHbm (fun h => { h with sightings := [(0, [([(5, 1#8)], 0, d)])] })
def rowFull : State := setRepairs 0 ((List.range 4).map (fun i => ⟨1, (locOf up 0).channel, bankByte (locOf up 0), 1, (locOf up 0).row, i, 0⟩)) up
def tableFull : State := setRepairs 0 ((List.range 32).map (fun i => ⟨1, 5, 7, 1, i, 0, 0⟩)) up
def linesFull : State := up.onLoft (fun x => { x with lineTable := (List.range 64).map (fun i => (lineKey 1 0 i, (1, 0))) })

theorem wit_repairsComplete_1a : ∃ (s : State) (a : Nat), (tabGetD s.hbm.sightings (a / 64) []).any (fun e => e.2.2) = true :=
  ⟨sighted true, 0, by decide +kernel⟩

theorem wit_repairsComplete_1b : ∃ (s : State) (a : Nat), (tabGetD s.hbm.sightings (a / 64) []).any (fun e => e.2.2) = false :=
  ⟨sighted false, 0, by decide +kernel⟩

theorem wit_repairsComplete_2 : ∃ (s : State) (a : Nat) (l : HbmLoc) (n : Nat), l = locOf s a ∧ n = ((repairsOf s l.stack).filter (fun r => decide (r.kind = 1))).length
    ∧ blockRepaired s l = false :=
  ⟨up, 0, _, _, rfl, rfl, by decide +kernel⟩

theorem wit_repairsComplete_2a : ∃ (s : State) (a : Nat) (l : HbmLoc) (n : Nat), l = locOf s a ∧ n = ((repairsOf s l.stack).filter (fun r => decide (r.kind = 1))).length
    ∧ blockRepaired s l = false ∧ 32 ≤ n :=
  ⟨tableFull, 0, _, _, rfl, rfl, by decide +kernel⟩

theorem wit_repairsComplete_3 : ∃ (s : State) (a : Nat) (l : HbmLoc) (src : Nat), l = locOf s a ∧ src = (((blockEntries s l).getLast?).map (·.source)).getD 0
    ∧ 4 ≤ (blockEntries s l).length ∧ (repairsOf s l.stack).any (fun r => decide (r.kind = 2) && sameRow l r) = false :=
  ⟨rowFull, 0, _, _, rfl, rfl, by decide +kernel⟩

theorem wit_repairsComplete_3a : ∃ (s : State) (a : Nat) (l : HbmLoc) (k : Nat) (src : Nat), l = locOf s a ∧ src = (((blockEntries s l).getLast?).map (·.source)).getD 0
    ∧ 4 ≤ (blockEntries s l).length ∧ (repairsOf s l.stack).any (fun r => decide (r.kind = 2) && sameRow l r) = false ∧ freeSpareRow s a = some k :=
  ⟨rowFull, 0, _, 0, _, rfl, rfl, by decide +kernel⟩

theorem wit_repairsComplete_3b : ∃ (s : State) (a : Nat) (l : HbmLoc) (src : Nat), l = locOf s a ∧ src = (((blockEntries s l).getLast?).map (·.source)).getD 0
    ∧ 4 ≤ (blockEntries s l).length ∧ (repairsOf s l.stack).any (fun r => decide (r.kind = 2) && sameRow l r) = false ∧ freeSpareRow s a = none :=
  ⟨rowFull.onHbm (fun h => { h with badSpares := [(bankOf rowFull 0, List.range 16)] }), 0, _, _, rfl, rfl, by decide +kernel⟩

theorem wit_repairsComplete_4 : ∃ (s : State) (a : Nat) (l : HbmLoc), l = locOf s a ∧ (blockEntries s l).length < 4 :=
  ⟨up, 0, _, rfl, by decide +kernel⟩

theorem wit_repairsComplete_5 : ∃ (die : Nat) (bank : Nat) (line : Nat) (ks : List Nat), ks = (List.range 32).map (fun w => wordKey die bank line w) :=
  ⟨1, 511, 32767, _, rfl⟩

theorem wit_repairsComplete_5a : ∃ (s : State) (die : Nat) (bank : Nat) (line : Nat) (src : Nat) (ks : List Nat), ks = (List.range 32).map (fun w => wordKey die bank line w)
    ∧ (src = 3 ∨ src = 4 ∨ ks.any (fun k => (tabGetD s.loft.sightings k []).any (fun e => e.2.2)) = true) :=
  ⟨up, 1, 511, 32767, 4, _, rfl, by decide +kernel⟩

theorem wit_repairsComplete_5b : ∃ (s : State) (die : Nat) (bank : Nat) (line : Nat) (src : Nat) (ks : List Nat), ks = (List.range 32).map (fun w => wordKey die bank line w) ∧ src ≠ 3 ∧ src ≠ 4
    ∧ ks.any (fun k => (tabGetD s.loft.sightings k []).any (fun e => e.2.2)) = false :=
  ⟨up, 1, 511, 32767, 0, _, rfl, by decide +kernel⟩

theorem wit_repairsComplete_6 : ∃ (s : State) (die : Nat) (bank : Nat) (line : Nat) (src : Nat) (tab : Tab (Nat × Nat)), tab = tabPut s.loft.lineTable (lineKey die bank line) (src, s.nowNs)
    ∧ tabGet s.loft.lineTable (lineKey die bank line) = none :=
  ⟨up, 1, 511, 32767, 0, _, rfl, by decide +kernel⟩

theorem wit_repairsComplete_6a : ∃ (s : State) (die : Nat) (bank : Nat) (line : Nat) (src : Nat) (tab : Tab (Nat × Nat)), tab = tabPut s.loft.lineTable (lineKey die bank line) (src, s.nowNs)
    ∧ tabGet s.loft.lineTable (lineKey die bank line) = none ∧ 64 ≤ (lineEntries s die).length :=
  ⟨linesFull, 1, 511, 32767, 0, _, rfl, by decide +kernel⟩

theorem wit_repairsComplete_7 : ∃ (s : State) (stack : Nat) (ch : Nat) (pc : Nat) (k : Nat) (pins : List Nat), k = stack * 64 + ch * 2 + pc ∧ pins = tabGetD s.hbm.failedPins k [] :=
  ⟨up, 0, 31, 1, _, _, rfl, rfl⟩

theorem wit_repairsComplete_7a : ∃ (s : State) (stack : Nat) (ch : Nat) (pc : Nat) (pin : Nat) (k : Nat) (pins : List Nat), k = stack * 64 + ch * 2 + pc ∧ pins = tabGetD s.hbm.failedPins k []
    ∧ (tabGetD s.hbm.pinTally (k * 32 + pin) ([], false)).2 = true ∧ pin ∉ pins :=
  ⟨up.onHbm (fun h => { h with pinTally := [(63 * 32 + 31, ([], true))] }), 0, 31, 1, 31, _, _, rfl, rfl, by decide +kernel⟩

theorem wit_repairsComplete_7b : ∃ (s : State) (stack : Nat) (ch : Nat) (pc : Nat) (pin : Nat) (k : Nat) (pins : List Nat), k = stack * 64 + ch * 2 + pc ∧ pins = tabGetD s.hbm.failedPins k []
    ∧ ((tabGetD s.hbm.pinTally (k * 32 + pin) ([], false)).2 = false ∨ pin ∈ pins) :=
  ⟨up, 15, 31, 1, 31, _, _, rfl, rfl, by decide +kernel⟩

theorem wit_repairsComplete_8 : ∃ (s : State) (unit : Nat) (a : Nat) (err : List (Nat × Byte)) (s1 : State), s1 = setMarks a (xorMarks (tabGetD s.hbm.marks (a / 64) []) err) s ∧ unit < 16
    ∧ s.hbm.hbmPassMin ≠ 0 ∧ unbacked s a = false ∧ (locOf s a).stack = unit :=
  ⟨up, 0, 0, [], _, rfl, by decide +kernel⟩

theorem wit_repairsComplete_9 : ∃ (s : State) (unit : Nat) (a : Nat) (die : Nat), die = unit - 16 ∧ 16 ≤ unit ∧ unit < 20 ∧ s.hbm.loftPassS ≠ 0 ∧ a < 2 ^ 24 :=
  ⟨up, 19, 0xFFFFFF, _, rfl, by decide +kernel⟩

theorem wit_repairsComplete_10 : ∃ (s : State) (g : GroupRef) (s1 : State) (b : BondGroup), s1 = ctrVl g 1 1 (beatFlip g s) ∧ b = groupAt s1 g ∧ b.retired = false :=
  ⟨up, ⟨.t1, 3, 5⟩, _, _, rfl, rfl, by decide +kernel⟩

theorem wit_repairsComplete_10a : ∃ (s : State) (g : GroupRef) (failed : Bool) (s1 : State) (b : BondGroup), s1 = ctrVl g 1 1 (beatFlip g s) ∧ b = groupAt s1 g ∧ b.retired = false ∧ failed = true
    ∧ b.failures < 2 :=
  ⟨up, ⟨.t1, 3, 5⟩, true, _, _, rfl, rfl, by decide +kernel⟩

theorem wit_repairsComplete_10b : ∃ (s : State) (g : GroupRef) (failed : Bool) (s1 : State) (b : BondGroup), s1 = ctrVl g 1 1 (beatFlip g s) ∧ b = groupAt s1 g ∧ b.retired = false ∧ failed = true
    ∧ 2 ≤ b.failures :=
  ⟨setGroup ⟨.t1, 3, 5⟩ { BondGroup.fresh with failures := 2 } up, ⟨.t1, 3, 5⟩, true, _, _, rfl, rfl, by decide +kernel⟩

theorem wit_repairsComplete_12 : ∃ (s : State) (g : GroupRef) (wire : Nat), wire < 72 ∧ groupAt s g = BondGroup.fresh :=
  ⟨up, ⟨.t0, 0, 0⟩, 71, by decide +kernel⟩

theorem wit_repairsComplete_13 : ∃ (s : State) (g : GroupRef) (w1 : Nat) (w2 : Nat) (w : Nat), w < 72 ∧ w ≠ w1 ∧ w ≠ w2
    ∧ groupAt s g = { BondGroup.fresh with sparesUsed := [(w1, 72), (w2, 73)] } :=
  ⟨setGroup ⟨.t1, 3, 5⟩ { BondGroup.fresh with sparesUsed := [(0, 72), (1, 73)] } up, ⟨.t1, 3, 5⟩, 0, 1, 71, by decide +kernel⟩

theorem wit_repairsComplete_14 : ∃ (s : State) (g : GroupRef) (s1 : State) (s2 : State) (n : Nat) (s3 : State), s1 = setGroup g { groupAt s g with retired := true } s
    ∧ ((if g.iface = 2 ∨ g.iface = 3 then retireColumn g.tower (mappedOut g) s1 else (s1, 0)) = (s2, n))
    ∧ (s3 = s2.onFlash (fun f => { f with defects := f.defects ++ [⟨6, true, towerNum g.tower, 0xFF, groupIndex g, 3⟩] ++ (if g.iface = 2 ∨ g.iface = 3 then [⟨3, true, towerNum g.tower, 0xFF, mappedOut g, 1⟩] else []) }))
    ∧ (groupAt s g).retired = false :=
  ⟨inJob job0 up, ⟨.t1, 3, 5⟩, _, _, _, _, rfl, parts2 _, rfl, by decide +kernel⟩

theorem wit_repairsComplete_14a : ∃ (s : State) (g : GroupRef) (s1 : State) (s2 : State) (n : Nat) (s3 : State) (j : Job), s1 = setGroup g { groupAt s g with retired := true } s
    ∧ ((if g.iface = 2 ∨ g.iface = 3 then retireColumn g.tower (mappedOut g) s1 else (s1, 0)) = (s2, n))
    ∧ (s3 = s2.onFlash (fun f => { f with defects := f.defects ++ [⟨6, true, towerNum g.tower, 0xFF, groupIndex g, 3⟩] ++ (if g.iface = 2 ∨ g.iface = 3 then [⟨3, true, towerNum g.tower, 0xFF, mappedOut g, 1⟩] else []) }))
    ∧ (groupAt s g).retired = false ∧ jobOfTower s3 g.tower = some j :=
  ⟨inJob job0 up, ⟨.t1, 3, 5⟩, _, _, _, _, job0, rfl, parts2 _, rfl, by decide +kernel⟩

theorem wit_repairsComplete_14b : ∃ (s : State) (g : GroupRef) (s1 : State) (s2 : State) (n : Nat) (s3 : State), s1 = setGroup g { groupAt s g with retired := true } s
    ∧ ((if g.iface = 2 ∨ g.iface = 3 then retireColumn g.tower (mappedOut g) s1 else (s1, 0)) = (s2, n))
    ∧ (s3 = s2.onFlash (fun f => { f with defects := f.defects ++ [⟨6, true, towerNum g.tower, 0xFF, groupIndex g, 3⟩] ++ (if g.iface = 2 ∨ g.iface = 3 then [⟨3, true, towerNum g.tower, 0xFF, mappedOut g, 1⟩] else []) }))
    ∧ (groupAt s g).retired = false ∧ jobOfTower s3 g.tower = none :=
  ⟨up, ⟨.t1, 3, 5⟩, _, _, _, _, rfl, parts2 _, rfl, by decide +kernel⟩

theorem wit_hbmMappingOneToOne_1 : ∃ (a : Nat), a < hbmTop :=
  ⟨hbmTop - 1, by decide +kernel⟩

theorem wit_hbmMappingOneToOne_2 : ∃ (a : Nat), a < hbmTop :=
  ⟨hbmTop - 1, by decide +kernel⟩

theorem wit_hbmMappingOneToOne_3 : ∃ (a : Nat), a < hbmTop :=
  ⟨0, by decide +kernel⟩

theorem wit_hbmMappingOneToOne_4 : ∃ (a : Nat), a < hbmTop :=
  ⟨hbmTop - 1, by decide +kernel⟩

/-- A context of job 7 to device 6. -/
def ctx0 : Ctx := { Ctx.fresh 7 false .t0 6 9 0xF 0 100000000000 0 with sndNxt := 1, sndUna := 1, rcvNxt := 1 }
/-- A state whose context 9 is `c`, its record at the floor. -/
def withCtx (c : Ctx) (s : State) : State := s.onFab (fun f => { f with ctxs := [(9, c)], ctxCache := ⟨[9], []⟩ })
def topoCmd : Cmd := cmd 1 0x0403 0 (leBytes 1 8 ++ z 32)
def topoAbsent : Cmd := cmd 1 0x0403 0 (leBytes 1 8 ++ [0#8, 0#8, 1#8] ++ z 29)
/-- A packet of device 6 to context 9. -/
def pkt0 (op : Nat) : Pkt :=
  sealed up.fab.cfg { Pkt.blank with
    op := op, last := true, dst := 5, src := 6, dstCtx := 9, srcCtx := 9, psn := 1, ackPsn := 1, addr := 0x40000000, payload := z 32
    outer := { Pkt.blank.outer with etherType := up.fab.cfg.etherType } }
/-- Device 6 beyond port 0. -/
def beside (s : State) : State :=
  s.onFab (fun f => { f with ports := [(0, { port0 with neighbor := some ⟨0x00A7, 9, 6, 3, z 12⟩ })] })
/-- Ports configured as 400G. -/
def moded (s : State) : State := s.onFab (fun f => { f with cfg := { f.cfg with modes := List.replicate 12 3 } })
/-- A device whose roles are full. -/
def rolesFull (s : State) : State :=
  s.onJobs (fun x => { x with roles := (List.range 64).map (fun k => (k + 100, (⟨.follower, 0, 0, 0⟩ : RoleRec))) })

theorem wit_fabricCommandsComplete_1 : ∃ (s : State) (mb : Nat) (c : Cmd) (fl : Nat) (p : PortCfg) (s1 : State) (s2 : State), p = portsOf c s.fab.cfg
    ∧ s1 = (if fl = 0 then s else { s with fab := { s.fab with cfg := p }, flash := { s.flash with ports := some p } })
    ∧ s2 = countCodewords (if fl.testBit 0 then startPorts s1 else s1) ∧ Waiting s mb 0x0400 c ∧ Plain c 120 ∧ par c 0 4 = fl ∧ fl ≤ 15
    ∧ ZeroPar c 0xD 3 ∧ ZeroPar c 0x2C 4 ∧ portsBad fl p = false
    ∧ ((fl.testBit 0 ∨ fl.testBit 1 ∨ fl.testBit 3 → s.jobs.jobs = [] ∧ s.fab.ctxs = [])) :=
  ⟨holding (cmd 0 0x0400 0 (leBytes 1 4 ++ z 28 ++ leBytes 0x3030303 4 ++ leBytes 0x3030303 4 ++ leBytes 0x3030303 4 ++ z 76)) (up), 0, cmd 0 0x0400 0 (leBytes 1 4 ++ z 28 ++ leBytes 0x3030303 4 ++ leBytes 0x3030303 4 ++ leBytes 0x3030303 4 ++ z 76), 1, _, _, _, rfl, rfl, rfl, by decide +kernel⟩

theorem wit_fabricCommandsComplete_2 : ∃ (s : State) (mb : Nat) (c : Cmd) (fl : Nat), Waiting s mb 0x0400 c ∧ Plain c 120 ∧ par c 0 4 = fl ∧ fl ≤ 15 ∧ ZeroPar c 0xD 3
    ∧ ZeroPar c 0x2C 4 ∧ portsBad fl (portsOf c s.fab.cfg) = false ∧ (fl.testBit 0 = true ∨ fl.testBit 1 = true ∨ fl.testBit 3 = true)
    ∧ (s.jobs.jobs ≠ [] ∨ s.fab.ctxs ≠ []) :=
  ⟨holding (cmd 0 0x0400 0 (leBytes 1 4 ++ z 28 ++ leBytes 0x3030303 4 ++ leBytes 0x3030303 4 ++ leBytes 0x3030303 4 ++ z 76)) (inJob job0 up), 0, cmd 0 0x0400 0 (leBytes 1 4 ++ z 28 ++ leBytes 0x3030303 4 ++ leBytes 0x3030303 4 ++ leBytes 0x3030303 4 ++ z 76), 1, by decide +kernel⟩

theorem wit_fabricCommandsComplete_3a : ∃ (s : State) (l : Nat), isLogical s.fab.cfg l = true ∧ laneLost s l = false :=
  ⟨moded up, 0, by decide +kernel⟩

theorem wit_fabricCommandsComplete_3b : ∃ (s : State) (l : Nat), (isLogical s.fab.cfg l = false ∨ laneLost s l = true) :=
  ⟨up, 47, by decide +kernel⟩

theorem wit_fabricCommandsComplete_4 : ∃ (s : State) (mb : Nat) (c : Cmd) (id : Nat), Waiting s mb 0x0401 c ∧ Plain c 8 ∧ par c 0 2 = id ∧ id ≤ 8191 ∧ ZeroPar c 2 6 :=
  ⟨holding (cmd 0 0x0401 0 (leBytes 8191 8)) (up), 0, cmd 0 0x0401 0 (leBytes 8191 8), 8191, by decide +kernel⟩

theorem wit_fabricCommandsComplete_4a : ∃ (s : State) (mb : Nat) (c : Cmd) (id : Nat), Waiting s mb 0x0401 c ∧ Plain c 8 ∧ par c 0 2 = id ∧ id ≤ 8191 ∧ ZeroPar c 2 6
    ∧ s.boot.stage = 10 ∧ s.jobs.jobs = [] ∧ s.fab.ctxs = [] ∧ ((∀ e ∈ s.fab.ports, (e.2.neighbor.map (·.dev)) ≠ some id)) :=
  ⟨holding (cmd 0 0x0401 0 (leBytes 8191 8)) (beside up), 0, cmd 0 0x0401 0 (leBytes 8191 8), 8191, by decide +kernel⟩

theorem wit_fabricCommandsComplete_4b : ∃ (s : State) (mb : Nat) (c : Cmd) (id : Nat), Waiting s mb 0x0401 c ∧ Plain c 8 ∧ par c 0 2 = id ∧ id ≤ 8191 ∧ ZeroPar c 2 6
    ∧ s.boot.stage = 10 ∧ s.jobs.jobs = [] ∧ s.fab.ctxs = [] ∧ ((∃ e ∈ s.fab.ports, (e.2.neighbor.map (·.dev)) = some id)) :=
  ⟨holding (cmd 0 0x0401 0 (leBytes 6 8)) (beside up), 0, cmd 0 0x0401 0 (leBytes 6 8), 6, by decide +kernel⟩

theorem wit_fabricCommandsComplete_4c : ∃ (s : State) (mb : Nat) (c : Cmd) (id : Nat), Waiting s mb 0x0401 c ∧ Plain c 8 ∧ par c 0 2 = id ∧ id ≤ 8191 ∧ ZeroPar c 2 6
    ∧ (s.boot.stage ≠ 10 ∨ s.jobs.jobs ≠ [] ∨ s.fab.ctxs ≠ []) :=
  ⟨holding (cmd 0 0x0401 0 (leBytes 8191 8)) (inJob job0 up), 0, cmd 0 0x0401 0 (leBytes 8191 8), 8191, by decide +kernel⟩

theorem wit_fabricCommandsComplete_5 : ∃ (s : State) (mb : Nat) (c : Cmd) (first : Nat) (n : Nat) (es : List (List Byte)), es = (List.range n).map (fun i => sliceBytes c.params (8 + 16 * i) 16)
    ∧ Waiting s mb 0x0402 c ∧ Plain c (8 + 16 * n) ∧ par c 0 2 = first ∧ par c 2 2 = n ∧ 1 ≤ n ∧ n ≤ 250 ∧ par c 4 2 = 0 ∧ first + n ≤ 8192
    ∧ ZeroPar c 6 2 ∧ ((∀ e ∈ es, routeBad s.fab.cfg e = false)) ∧ s.fab.devId.isSome = true ∧ tabWf s.fab.routes = true :=
  ⟨holding (cmd 0 0x0402 0 (leBytes 8191 2 ++ leBytes 1 6 ++ [1#8, 1#8] ++ z 14)) (moded up), 0, cmd 0 0x0402 0 (leBytes 8191 2 ++ leBytes 1 6 ++ [1#8, 1#8] ++ z 14), 8191, 1, _, rfl, by decide +kernel⟩

theorem wit_fabricCommandsComplete_6 : ∃ (s : State) (mb : Nat) (c : Cmd) (first : Nat) (n : Nat), Waiting s mb 0x0402 c ∧ Plain c 8 ∧ par c 0 2 = first ∧ par c 2 2 = n ∧ 1 ≤ n ∧ n ≤ 250
    ∧ par c 4 2 = 1 ∧ first + n ≤ 8192 ∧ ZeroPar c 6 2 ∧ s.fab.devId.isSome = true :=
  ⟨holding (cmd 0 0x0402 0 (leBytes 8191 2 ++ leBytes 1 2 ++ leBytes 1 4)) (up), 0, cmd 0 0x0402 0 (leBytes 8191 2 ++ leBytes 1 2 ++ leBytes 1 4), 8191, 1, by decide +kernel⟩

theorem wit_fabricCommandsComplete_7 : ∃ (s : State) (mb : Nat) (c : Cmd) (n : Nat), Waiting s mb 0x0403 c ∧ par c 0 2 = n ∧ 1 ≤ n ∧ n ≤ 48 ∧ Plain c (8 + 32 * n)
    ∧ ZeroPar c 2 6 ∧ ((∀ e ∈ topoEntries c, fieldAt e 0 1 < 48 ∧ fieldAt e 2 1 < 8 ∧ fieldAt e 3 1 = 0)) :=
  ⟨holding topoCmd (up), 1, topoCmd, 1, by decide +kernel⟩

theorem wit_fabricCommandsComplete_7a : ∃ (s : State) (mb : Nat) (c : Cmd) (n : Nat) (s1 : State), s1 = (markStarted c s).onFab (fun x => { x with topoHeld := some c.mb })
    ∧ Waiting s mb 0x0403 c ∧ par c 0 2 = n ∧ 1 ≤ n ∧ n ≤ 48 ∧ Plain c (8 + 32 * n) ∧ ZeroPar c 2 6
    ∧ ((∀ e ∈ topoEntries c, fieldAt e 0 1 < 48 ∧ fieldAt e 2 1 < 8 ∧ fieldAt e 3 1 = 0)) ∧ 8 ≤ s.boot.stage
    ∧ ((s.boot.stage = 10 → s.jobs.jobs = [])) ∧ s.fab.topoHeld = none :=
  ⟨holding topoCmd (up.onBoot (fun b => { b with stage := 8 })), 1, topoCmd, 1, _, rfl, by decide +kernel⟩

theorem wit_fabricCommandsComplete_7b : ∃ (s : State) (mb : Nat) (c : Cmd) (n : Nat), Waiting s mb 0x0403 c ∧ par c 0 2 = n ∧ 1 ≤ n ∧ n ≤ 48 ∧ Plain c (8 + 32 * n)
    ∧ ZeroPar c 2 6 ∧ ((∀ e ∈ topoEntries c, fieldAt e 0 1 < 48 ∧ fieldAt e 2 1 < 8 ∧ fieldAt e 3 1 = 0))
    ∧ ((s.boot.stage < 8 ∨ (s.boot.stage = 10 ∧ s.jobs.jobs ≠ []) ∨ s.fab.topoHeld.isSome = true)) :=
  ⟨holding topoCmd (inJob job0 up), 1, topoCmd, 1, by decide +kernel⟩

theorem wit_fabricCommandsComplete_8 : ∃ (s : State) (c : Cmd) (mb : Nat), s.fab.topoHeld = some mb ∧ Running s mb 0x0403 c :=
  ⟨(holding (run topoCmd) (up.onBoot (fun b => { b with stage := 9 }))).onFab (fun f => { f with topoHeld := some 1 }), run topoCmd, 1, by decide +kernel⟩

theorem wit_fabricCommandsComplete_8a : ∃ (s : State) (c : Cmd) (mb : Nat), s.fab.topoHeld = some mb ∧ Running s mb 0x0403 c ∧ 9 ≤ s.boot.stage
    ∧ topoSettled s c = true ∧ stageWaits s = false :=
  ⟨(holding (run topoCmd) (up.onBoot (fun b => { b with stage := 9 }))).onFab (fun f => { f with topoHeld := some 1 }), run topoCmd, 1, by decide +kernel⟩

theorem wit_fabricCommandsComplete_8b : ∃ (s : State) (c : Cmd) (mb : Nat), s.fab.topoHeld = some mb ∧ Running s mb 0x0403 c
    ∧ ((s.boot.stage < 9 ∨ topoSettled s c = false ∨ stageWaits s = true)) :=
  ⟨(holding (run topoCmd) (up.onBoot (fun b => { b with stage := 8 }))).onFab (fun f => { f with topoHeld := some 1 }), run topoCmd, 1, by decide +kernel⟩

theorem wit_fabricCommandsComplete_9 : ∃ (s : State) (c : Cmd) (t : State), t = complete c stDone (leBytes (topoEntries c).length 2 ++ leBytes 0 2 ++ leBytes 0 4 ++ List.replicate (topoEntries c).length 0#8) (s.onFab (fun f => { f with topoHeld := none }))
    ∧ ((∀ e ∈ topoEntries c, topoStatus s e = 0)) :=
  ⟨holding (run topoCmd) (up.onBoot (fun b => { b with stage := 9 })), run topoCmd, _, rfl, by decide +kernel⟩

theorem wit_fabricCommandsComplete_9a : ∃ (s : State) (c : Cmd) (t : State), t = complete c stDone (leBytes (topoEntries c).length 2 ++ leBytes 0 2 ++ leBytes 0 4 ++ List.replicate (topoEntries c).length 0#8) (s.onFab (fun f => { f with topoHeld := none }))
    ∧ ((∀ e ∈ topoEntries c, topoStatus s e = 0)) ∧ s.boot.stage = 9 :=
  ⟨holding (run topoCmd) (up.onBoot (fun b => { b with stage := 9 })), run topoCmd, _, rfl, by decide +kernel⟩

theorem wit_fabricCommandsComplete_9b : ∃ (s : State) (c : Cmd) (t : State), t = complete c stDone (leBytes (topoEntries c).length 2 ++ leBytes 0 2 ++ leBytes 0 4 ++ List.replicate (topoEntries c).length 0#8) (s.onFab (fun f => { f with topoHeld := none }))
    ∧ ((∀ e ∈ topoEntries c, topoStatus s e = 0)) ∧ s.boot.stage ≠ 9 :=
  ⟨holding (run topoCmd) (up.onBoot (fun b => { b with stage := 10 })), run topoCmd, _, rfl, by decide +kernel⟩

theorem wit_fabricCommandsComplete_10 : ∃ (s : State) (c : Cmd), s.boot.stage = 9 ∧ ((∃ e ∈ topoEntries c, topoStatus s e ≠ 0)) :=
  ⟨holding (run topoAbsent) (up.onBoot (fun b => { b with stage := 9 })), run topoAbsent, by decide +kernel⟩

theorem wit_fabricCommandsComplete_11 : ∃ (s : State) (e : List Byte) (p : Port) (n : Neighbor), tabGet s.fab.ports (fieldAt e 0 1) = some p ∧ p.link = .up ∧ p.neighbor = some n
    ∧ (fieldAt e 2 1).testBit 2 = false :=
  ⟨beside up, z 32, { port0 with neighbor := some ⟨0x00A7, 9, 6, 3, z 12⟩ }, ⟨0x00A7, 9, 6, 3, z 12⟩, by decide +kernel⟩

theorem wit_fabricCommandsComplete_12 : ∃ (s : State) (mb : Nat) (c : Cmd) (n : Nat) (j : Job) (es : List (List Byte)), es = (List.range n).map (fun i => sliceBytes c.params (8 + 16 * i) 16)
    ∧ Waiting s mb 0x0404 c ∧ par c 2 2 = n ∧ 1 ≤ n ∧ n ≤ 250 ∧ Plain c (8 + 16 * n) ∧ par c 0 1 = 0 ∧ ZeroPar c 1 1 ∧ ZeroPar c 4 4
    ∧ jobAt s c.job = some j ∧ j.state ≠ .armed ∧ j.state ≠ .running
    ∧ ((∀ e ∈ es, fieldAt e 0 2 < 0x4000 ∧ fieldAt e 2 2 < 0x4000 ∧ fieldAt e 4 2 ≤ 8191 ∧ fieldAt e 6 2 < 0x4000 ∧ fieldAt e 8 1 < 2 ∧ fieldAt e 9 1 < 16 ∧ fieldAt e 0xA 1 < 2 ∧ zeroAt e 0xB 5 = true ∧ tabGet s.fab.ctxs (fieldAt e 0 2) = none ∧ tabGet j.ctxIndex (fieldAt e 2 2) = none ∧ towerOf (fieldAt e 8 1) ∈ towersOfPartition j.partition))
    ∧ (es.map (fun e => fieldAt e 0 2)).Nodup ∧ (es.map (fun e => fieldAt e 2 2)).Nodup :=
  ⟨holding (cmd 1 0x0404 7 ([0#8, 0#8, 1#8, 0#8] ++ z 4 ++ [9#8, 0#8, 3#8, 0#8, 6#8, 0#8, 9#8, 0#8, 0#8, 15#8, 0#8] ++ z 5)) (inJob job0 up), 1, cmd 1 0x0404 7 ([0#8, 0#8, 1#8, 0#8] ++ z 4 ++ [9#8, 0#8, 3#8, 0#8, 6#8, 0#8, 9#8, 0#8, 0#8, 15#8, 0#8] ++ z 5), 1, job0, _, rfl, by decide +kernel⟩

theorem wit_fabricCommandsComplete_14 : ∃ (s : State) (mb : Nat) (c : Cmd) (j : Job) (n : Nat) (es : List (List Byte)), es = (List.range n).map (fun i => sliceBytes c.params (8 + 16 * i) 16)
    ∧ Waiting s mb 0x0404 c ∧ par c 2 2 = n ∧ 1 ≤ n ∧ n ≤ 250 ∧ Plain c (8 + 16 * n) ∧ par c 0 1 = 1 ∧ ZeroPar c 1 1 ∧ ZeroPar c 4 4
    ∧ jobAt s c.job = some j ∧ j.state ≠ .armed ∧ j.state ≠ .running
    ∧ ((∀ e ∈ es, fieldAt e 0 2 < 0x4000 ∧ zeroAt e 2 14 = true ∧ ∃ x, tabGet s.fab.ctxs (fieldAt e 0 2) = some x ∧ x.mirror = false ∧ x.owner = c.job)) :=
  ⟨holding (cmd 1 0x0404 7 ([1#8, 0#8, 1#8, 0#8] ++ z 4 ++ leBytes 9 16)) (withCtx ctx0 (inJob job0 up)), 1, cmd 1 0x0404 7 ([1#8, 0#8, 1#8, 0#8] ++ z 4 ++ leBytes 9 16), job0, 1, _, rfl, by decide +kernel⟩

theorem wit_fabricCommandsComplete_15 : ∃ (s : State) (mb : Nat) (c : Cmd) (n : Nat) (es : List (List Byte)), es = (List.range n).map (fun i => sliceBytes c.params (8 + 16 * i) 16)
    ∧ Waiting s mb 0x0404 c ∧ par c 2 2 = n ∧ 1 ≤ n ∧ n ≤ 125 ∧ Plain c (8 + 16 * n) ∧ par c 0 1 = 2 ∧ ZeroPar c 1 1 ∧ ZeroPar c 4 4
    ∧ ((∀ e ∈ es, fieldAt e 0 2 < 0x4000)) :=
  ⟨holding (cmd 0 0x0404 0 ([2#8, 0#8, 125#8, 0#8] ++ z 4 ++ z 2000)) (up), 0, cmd 0 0x0404 0 ([2#8, 0#8, 125#8, 0#8] ++ z 4 ++ z 2000), 125, _, rfl, by decide +kernel⟩

theorem wit_fabricCommandsComplete_16 : ∃ (s : State) (mb : Nat) (c : Cmd) (j : Job) (m : Mesh), Waiting s mb 0x0404 c ∧ Plain c (meshLength c) ∧ par c 0 1 = 3 ∧ ZeroPar c 1 1
    ∧ par c 2 2 = 0 ∧ ZeroPar c 4 4 ∧ meshOf c = some m ∧ jobAt s c.job = some j ∧ j.state ≠ .armed ∧ j.state ≠ .running :=
  ⟨holding (cmd 1 0x0404 7 ([3#8] ++ z 7 ++ [1#8] ++ z 3 ++ leBytes 2 8 ++ leBytes 1 8 ++ z 4 ++ leBytes 5 2 ++ leBytes 0xFFFF 2)) (inJob job0 up), 1, cmd 1 0x0404 7 ([3#8] ++ z 7 ++ [1#8] ++ z 3 ++ leBytes 2 8 ++ leBytes 1 8 ++ z 4 ++ leBytes 5 2 ++ leBytes 0xFFFF 2), job0, ⟨[2], [1], [[5, 0xFFFF]]⟩, by decide +kernel⟩

theorem wit_fabricCommandsComplete_17 : ∃ (s : State) (mb : Nat) (c : Cmd) (role : Nat) (up : Nat) (path : Nat) (down : Nat) (k : Role), ((∀ j, jobAt s c.job = some j → j.state ≠ .armed ∧ j.state ≠ .running))
    ∧ ((∀ l, (l = up ∧ up < 48) ∨ l ∈ portsOfMask down → ∃ p n, tabGet s.fab.ports l = some p ∧ p.link = .up ∧ p.delayNs ≤ 500 ∧ p.neighbor = some n ∧ n.familyId = 0x00A7 ∧ n.member = 0x0009))
    ∧ Waiting s mb 0x0405 c ∧ Plain c 24 ∧ par c 0 1 = role ∧ par c 1 1 = up ∧ par c 4 4 = path ∧ par c 8 8 = down ∧ ZeroPar c 2 2
    ∧ ZeroPar c 0x10 8 ∧ c.job ≠ 0 ∧ down < 2 ^ 48
    ∧ ((role = 1 ∧ up = 0xFF ∧ 1 ≤ path ∧ path ≤ 18000 ∧ (jobAt s c.job).isSome = true ∧ k = .master) ∨ (role = 2 ∧ up < 48 ∧ path = 0 ∧ jobAt s c.job = none ∧ k = .relay) ∨ (role = 0 ∧ up < 48 ∧ path = 0 ∧ (jobAt s c.job).isSome = true ∧ k = .follower)) :=
  ⟨holding (cmd 1 0x0405 7 ([1#8, 0xFF#8] ++ z 2 ++ leBytes 18000 4 ++ leBytes 1 8 ++ z 8)) (inJob job0 (beside up)), 1, cmd 1 0x0405 7 ([1#8, 0xFF#8] ++ z 2 ++ leBytes 18000 4 ++ leBytes 1 8 ++ z 8), 1, 0xFF, 18000, 1, .master, fun j h => by cases (Option.some.inj h); decide, fun l h => by rw [show portsOfMask 1 = [0] from by decide +kernel] at h; have h0 : l = 0 := (by simpa using h); subst h0; exact ⟨_, _, rfl, rfl, by decide, rfl, rfl, rfl⟩, by decide +kernel⟩

theorem wit_fabricCommandsComplete_17a : ∃ (s : State) (mb : Nat) (c : Cmd) (role : Nat) (up : Nat) (path : Nat) (down : Nat) (k : Role), ((∀ j, jobAt s c.job = some j → j.state ≠ .armed ∧ j.state ≠ .running))
    ∧ ((∀ l, (l = up ∧ up < 48) ∨ l ∈ portsOfMask down → ∃ p n, tabGet s.fab.ports l = some p ∧ p.link = .up ∧ p.delayNs ≤ 500 ∧ p.neighbor = some n ∧ n.familyId = 0x00A7 ∧ n.member = 0x0009))
    ∧ Waiting s mb 0x0405 c ∧ Plain c 24 ∧ par c 0 1 = role ∧ par c 1 1 = up ∧ par c 4 4 = path ∧ par c 8 8 = down ∧ ZeroPar c 2 2
    ∧ ZeroPar c 0x10 8 ∧ c.job ≠ 0 ∧ down < 2 ^ 48
    ∧ ((role = 1 ∧ up = 0xFF ∧ 1 ≤ path ∧ path ≤ 18000 ∧ (jobAt s c.job).isSome = true ∧ k = .master) ∨ (role = 2 ∧ up < 48 ∧ path = 0 ∧ jobAt s c.job = none ∧ k = .relay) ∨ (role = 0 ∧ up < 48 ∧ path = 0 ∧ (jobAt s c.job).isSome = true ∧ k = .follower))
    ∧ ((s.jobs.roles.length < 64 ∨ (roleOf s c.job).isSome = true)) :=
  ⟨holding (cmd 1 0x0405 7 ([2#8, 0#8] ++ z 2 ++ leBytes 0 4 ++ leBytes 1 8 ++ z 8)) (beside up), 1, cmd 1 0x0405 7 ([2#8, 0#8] ++ z 2 ++ leBytes 0 4 ++ leBytes 1 8 ++ z 8), 2, 0, 0, 1, .relay, fun j h => absurd (Option.isSome_of_eq_some h) (by decide +kernel), fun l h => by rw [show portsOfMask 1 = [0] from by decide +kernel] at h; have h0 : l = 0 := (by simpa using h); subst h0; exact ⟨_, _, rfl, rfl, by decide, rfl, rfl, rfl⟩, by decide +kernel⟩

theorem wit_fabricCommandsComplete_17b : ∃ (s : State) (mb : Nat) (c : Cmd) (role : Nat) (up : Nat) (path : Nat) (down : Nat) (k : Role), ((∀ j, jobAt s c.job = some j → j.state ≠ .armed ∧ j.state ≠ .running))
    ∧ ((∀ l, (l = up ∧ up < 48) ∨ l ∈ portsOfMask down → ∃ p n, tabGet s.fab.ports l = some p ∧ p.link = .up ∧ p.delayNs ≤ 500 ∧ p.neighbor = some n ∧ n.familyId = 0x00A7 ∧ n.member = 0x0009))
    ∧ Waiting s mb 0x0405 c ∧ Plain c 24 ∧ par c 0 1 = role ∧ par c 1 1 = up ∧ par c 4 4 = path ∧ par c 8 8 = down ∧ ZeroPar c 2 2
    ∧ ZeroPar c 0x10 8 ∧ c.job ≠ 0 ∧ down < 2 ^ 48
    ∧ ((role = 1 ∧ up = 0xFF ∧ 1 ≤ path ∧ path ≤ 18000 ∧ (jobAt s c.job).isSome = true ∧ k = .master) ∨ (role = 2 ∧ up < 48 ∧ path = 0 ∧ jobAt s c.job = none ∧ k = .relay) ∨ (role = 0 ∧ up < 48 ∧ path = 0 ∧ (jobAt s c.job).isSome = true ∧ k = .follower))
    ∧ 64 ≤ s.jobs.roles.length ∧ roleOf s c.job = none :=
  ⟨holding (cmd 1 0x0405 7 ([0#8, 0#8] ++ z 2 ++ leBytes 0 4 ++ leBytes 1 8 ++ z 8)) (rolesFull (inJob job0 (beside up))), 1, cmd 1 0x0405 7 ([0#8, 0#8] ++ z 2 ++ leBytes 0 4 ++ leBytes 1 8 ++ z 8), 0, 0, 0, 1, .follower, fun j h => by cases (Option.some.inj h); decide, fun l h => by rw [show portsOfMask 1 = [0] from by decide +kernel] at h; have h0 : l = 0 := (by simpa using h); subst h0; exact ⟨_, _, rfl, rfl, by decide, rfl, rfl, rfl⟩, by decide +kernel⟩

theorem wit_fabricCommandsComplete_18 : ∃ (s : State) (mb : Nat) (c : Cmd), Waiting s mb 0x0405 c ∧ Plain c 24 ∧ par c 0 1 = 3 ∧ par c 1 1 = 0xFF ∧ ZeroPar c 2 22
    ∧ c.job ≠ 0 :=
  ⟨holding (cmd 1 0x0405 7 ([3#8, 0xFF#8] ++ z 22)) (up), 1, cmd 1 0x0405 7 ([3#8, 0xFF#8] ++ z 22), by decide +kernel⟩

theorem wit_fabricCommandsComplete_18a : ∃ (s : State) (mb : Nat) (c : Cmd), ((∀ j, jobAt s c.job = some j → j.state ≠ .armed ∧ j.state ≠ .running))
    ∧ Waiting s mb 0x0405 c ∧ Plain c 24 ∧ par c 0 1 = 3 ∧ par c 1 1 = 0xFF ∧ ZeroPar c 2 22 ∧ c.job ≠ 0 :=
  ⟨holding (cmd 1 0x0405 7 ([3#8, 0xFF#8] ++ z 22)) (inJob job0 up), 1, cmd 1 0x0405 7 ([3#8, 0xFF#8] ++ z 22), fun j h => by cases (Option.some.inj h); decide, by decide +kernel⟩

theorem wit_fabricCommandsComplete_18b : ∃ (s : State) (mb : Nat) (c : Cmd), ((∃ j, jobAt s c.job = some j ∧ (j.state = .armed ∨ j.state = .running)))
    ∧ Waiting s mb 0x0405 c ∧ Plain c 24 ∧ par c 0 1 = 3 ∧ par c 1 1 = 0xFF ∧ ZeroPar c 2 22 ∧ c.job ≠ 0 :=
  ⟨holding (cmd 1 0x0405 7 ([3#8, 0xFF#8] ++ z 22)) (inJob running up), 1, cmd 1 0x0405 7 ([3#8, 0xFF#8] ++ z 22), ⟨running, rfl, by decide⟩, by decide +kernel⟩

/-- Port 0 in a given state; modules of the reports CMIS_POLL brings. -/
def atPort (p : Port) : State := up.onFab (fun f => { f with ports := [(0, p)] })
def caged : State :=
  (up.onBoot (fun b => { b with carrierRead := true })).onFlash (fun f => { f with carrierEeprom := some (z 256) })
def disc0 : Discover := ⟨0x00A7, 9, 6, 3, true, z 12, z 16⟩
def plugIn (fault fits : Bool) : CmisReport := ⟨true, fault, true, if fits then [portMode up.fab.cfg 0] else [], z 16, [(5, 7#8)]⟩

theorem wit_portEventsComplete_1a : ∃ (s : State) (l : Nat), portUp s l = true :=
  ⟨linked up, 47, by decide +kernel⟩

theorem wit_portEventsComplete_1b : ∃ (s : State) (l : Nat), portUp s l = false :=
  ⟨up, 47, by decide +kernel⟩

theorem wit_portEventsComplete_2 : ∃ (s : State) (l : Nat) (p : Port) (q : Port), q = Port.fresh s l ∧ tabGet s.fab.ports l = some p ∧ p.link = .up :=
  ⟨linked up, 47, port0, _, rfl, by decide +kernel⟩

theorem wit_portEventsComplete_4 : ∃ (s : State) (l : Nat) (p : Port), tabGet s.fab.ports l = some p :=
  ⟨atPort { port0 with link := .down }, 0, { port0 with link := .down }, by decide +kernel⟩

theorem wit_portEventsComplete_4a : ∃ (s : State) (l : Nat) (p : Port), tabGet s.fab.ports l = some p ∧ p.enabled = true ∧ p.link = .down ∧ p.blocked = false :=
  ⟨atPort { port0 with link := .down }, 0, { port0 with link := .down }, by decide +kernel⟩

theorem wit_portEventsComplete_4b : ∃ (s : State) (l : Nat) (p : Port), tabGet s.fab.ports l = some p
    ∧ ((p.enabled = false ∨ p.link ≠ .down ∨ p.blocked = true)) :=
  ⟨atPort port0, 0, port0, by decide +kernel⟩

theorem wit_portEventsComplete_5 : ∃ (s : State) (l : Nat) (p : Port), tabGet s.fab.ports l = some p ∧ p.link = .training :=
  ⟨atPort { port0 with link := .training }, 0, { port0 with link := .training }, by decide +kernel⟩

theorem wit_portEventsComplete_6a : ∃ (s : State) (l : Nat), portUp s l = true :=
  ⟨linked up, 47, by decide +kernel⟩

theorem wit_portEventsComplete_6b : ∃ (s : State) (l : Nat), portUp s l = false :=
  ⟨up, 47, by decide +kernel⟩

theorem wit_portEventsComplete_7 : ∃ (s : State) (l : Nat) (p : Port) (t1 : Nat) (t2 : Nat) (t3 : Nat) (at_ : Nat) (xs : List Int), xs = p.delaySamples ++ [(((at_ : Int) - (t1 : Int)) - ((t3 : Int) - (t2 : Int))) / 2]
    ∧ tabGet s.fab.ports l = some p ∧ p.delayT1 = some t1 :=
  ⟨atPort { port0 with delayT1 := some 5, delaySamples := List.replicate 14 7 }, 0, { port0 with delayT1 := some 5, delaySamples := List.replicate 14 7 }, 5, 60, 70, 115, _, rfl, by decide +kernel⟩

theorem wit_portEventsComplete_7a : ∃ (s : State) (l : Nat) (p : Port) (t1 : Nat) (t2 : Nat) (t3 : Nat) (at_ : Nat) (xs : List Int), xs = p.delaySamples ++ [(((at_ : Int) - (t1 : Int)) - ((t3 : Int) - (t2 : Int))) / 2]
    ∧ tabGet s.fab.ports l = some p ∧ p.delayT1 = some t1 ∧ p.delaySamples.length < 15 :=
  ⟨atPort { port0 with delayT1 := some 5, delaySamples := List.replicate 14 7 }, 0, { port0 with delayT1 := some 5, delaySamples := List.replicate 14 7 }, 5, 60, 70, 115, _, rfl, by decide +kernel⟩

theorem wit_portEventsComplete_7b : ∃ (s : State) (l : Nat) (p : Port) (t1 : Nat) (t2 : Nat) (t3 : Nat) (at_ : Nat) (xs : List Int), xs = p.delaySamples ++ [(((at_ : Int) - (t1 : Int)) - ((t3 : Int) - (t2 : Int))) / 2]
    ∧ tabGet s.fab.ports l = some p ∧ p.delayT1 = some t1 ∧ 15 ≤ p.delaySamples.length :=
  ⟨atPort { port0 with delayT1 := some 5, delaySamples := List.replicate 15 7 }, 0, { port0 with delayT1 := some 5, delaySamples := List.replicate 15 7 }, 5, 60, 70, 115, _, rfl, by decide +kernel⟩

theorem wit_portEventsComplete_8 : ∃ (s : State) (l : Nat) (p : Port) (s1 : State) (n : Nat), s1 = s.timeTo p.discoverNs ∧ n = p.discoverSent + 1 ∧ tabGet s.fab.ports l = some p
    ∧ p.link = .up :=
  ⟨linked up, 0, port0, _, _, rfl, rfl, by decide +kernel⟩

theorem wit_portEventsComplete_9a : ∃ (s : State) (l : Nat), portUp s l = true :=
  ⟨linked up, 47, by decide +kernel⟩

theorem wit_portEventsComplete_9b : ∃ (s : State) (l : Nat), portUp s l = false :=
  ⟨up, 47, by decide +kernel⟩

theorem wit_portEventsComplete_10 : ∃ (s : State) (l : Nat) (p : Port), tabGet s.fab.ports l = some p :=
  ⟨atPort { port0 with discoverWait := true }, 0, { port0 with discoverWait := true }, by decide +kernel⟩

theorem wit_portEventsComplete_10a : ∃ (s : State) (l : Nat) (p : Port), tabGet s.fab.ports l = some p ∧ p.link = .up ∧ p.discoverWait = true :=
  ⟨atPort { port0 with discoverWait := true }, 0, { port0 with discoverWait := true }, by decide +kernel⟩

theorem wit_portEventsComplete_10b : ∃ (s : State) (l : Nat) (p : Port), tabGet s.fab.ports l = some p ∧ ((p.link ≠ .up ∨ p.discoverWait = false)) :=
  ⟨atPort port0, 0, port0, by decide +kernel⟩

theorem wit_portEventsComplete_11 : ∃ (s : State) (l : Nat) (p : Pkt) (q : Port), tabGet s.fab.ports l = some q ∧ q.link = .up ∧ q.held = []
    ∧ (q.paused).testBit (pktClass p) = false ∧ capRoom s l q (pktClass p) (frameBytes s.fab.cfg p) = true :=
  ⟨linked up, 47, pkt0 1, port0, by decide +kernel⟩

theorem wit_portEventsComplete_12 : ∃ (s : State) (fx : Nat) (r : CmisReport) (s1 : State) (s2 : State) (s3 : State), s1 = (match tabGet s.fab.cmisNs fx with | some k => s.timeTo (k + 1000000000) | none => s)
    ∧ s2 = s1.onFab (fun x => { x with cmisNs := tabPut x.cmisNs fx s1.nowNs, modules := tabPut x.modules fx { r with bytes := [] }, cmis := if r.present then tabPut x.cmis fx (r.bytes.foldl (fun m b => memPut m b.1 b.2) []) else tabDel x.cmis fx })
    ∧ s3 = (List.range 8).foldl (fun st i => cmisPort r (8 * fx + i) st) s2 ∧ hasCage s fx = true ∧ (s.gate.pwr ≠ .dark ∨ s.boot.stage ≠ 10) :=
  ⟨caged, 5, plugIn false true, _, _, _, rfl, rfl, rfl, by decide +kernel⟩

theorem wit_portEventsComplete_13 : ∃ (s : State) (fx : Nat), (hasCage s fx = false ∨ (s.gate.pwr = .dark ∧ s.boot.stage = 10)) :=
  ⟨up, 0, by decide +kernel⟩

theorem wit_portEventsComplete_14 : ∃ (s : State) (l : Nat) (p : Port) (r : CmisReport) (q : Port) (s1 : State), q = p.plugged r (portMode s.fab.cfg l) ∧ s1 = onPort l (fun _ => q) s
    ∧ tabGet s.fab.ports l = some p :=
  ⟨atPort port0, 0, port0, plugIn false true, _, _, rfl, rfl, by decide +kernel⟩

theorem wit_portEventsComplete_14a : ∃ (s : State) (l : Nat) (p : Port) (r : CmisReport) (q : Port) (s1 : State), q = p.plugged r (portMode s.fab.cfg l) ∧ s1 = onPort l (fun _ => q) s
    ∧ tabGet s.fab.ports l = some p ∧ p.enabled = true ∧ q.moduleMismatch = true ∧ p.moduleMismatch = false :=
  ⟨atPort port0, 0, port0, plugIn false false, _, _, rfl, rfl, by decide +kernel⟩

theorem wit_portEventsComplete_14b : ∃ (s : State) (l : Nat) (p : Port) (r : CmisReport) (q : Port) (s1 : State), q = p.plugged r (portMode s.fab.cfg l) ∧ s1 = onPort l (fun _ => q) s
    ∧ tabGet s.fab.ports l = some p ∧ p.enabled = true ∧ ((q.moduleMismatch = false ∨ p.moduleMismatch = true))
    ∧ (((q.moduleFault = true ∧ p.moduleFault = false) ∨ (p.modulePresent = true ∧ r.present = false))) :=
  ⟨atPort port0, 0, port0, plugIn true true, _, _, rfl, rfl, by decide +kernel⟩

theorem wit_portEventsComplete_15 : ∃ (s : State) (l : Nat) (p : Port) (cls : Nat), tabGet s.fab.ports l = some p ∧ cls < 2 ∧ (s.fab.cfg.pfcMask).testBit cls = true :=
  ⟨(linked up).onFab (fun f => { f with cfg := { f.cfg with pfcMask := 2 } }), 47, port0, 1, by decide +kernel⟩

theorem wit_portEventsComplete_16 : ∃ (s : State) (cls : Nat), (2 ≤ cls ∨ (s.fab.cfg.pfcMask).testBit cls = false) :=
  ⟨up, 2, by decide +kernel⟩

theorem wit_portEventsComplete_17a : ∃ (s : State) (l : Nat) (dev : Nat) (port : Nat), portUp s l = true ∧ s.fab.cfg.encap = 1 ∧ s.fab.devId = some dev
    ∧ isLogical s.fab.cfg port = true :=
  ⟨(linked up).onFab (fun f => { f with cfg := { f.cfg with encap := 1, modes := List.replicate 12 3 } }), 47, 5, 44, by decide +kernel⟩

theorem wit_portEventsComplete_17b : ∃ (s : State) (l : Nat) (dev : Nat) (port : Nat), ((portUp s l = false ∨ s.fab.cfg.encap ≠ 1 ∨ s.fab.devId ≠ some dev ∨ isLogical s.fab.cfg port = false)) :=
  ⟨(linked up).onFab (fun f => { f with cfg := { f.cfg with encap := 1, modes := List.replicate 12 3 } }), 47, 5, 48, by decide +kernel⟩

theorem wit_portEventsComplete_18 : ∃ (d : Nat) (l : Nat), d < 8192 ∧ l < 48 :=
  ⟨8191, 47, by decide +kernel⟩

/-- Device 5 with its ports up, job 7 and context 9 with a record `c`. -/
def rx (c : Ctx) : State := withCtx c (inJob job0 (linked up))
/-- The same while tower 0 is under a partition reset. -/
def rxReset : State := (rx ctx0).onBoot (fun b => { b with part := some { mb := 1, towerLevel := true, partition := 0, startNs := 0, faultedItems := 0 } })
/-- A packet changed and sealed again. -/
def pktWith (op : Nat) (f : Pkt → Pkt) : Pkt := sealed up.fab.cfg (f (pkt0 op))

theorem wit_packetsReceived_1 : ∃ (s : State) (port : Nat) (p : Pkt) (n : Nat) (c : Ctx) (k : Instr) (s0 : State) (s1 : State) (s2 : State), Arrival port p k ∧ Enters s port p s0 ∧ ForContext s p n c ∧ s1 = fetchCtx n c.tower s0
    ∧ s2 = takeAck n p.ackPsn (traceFabric 6 n port c p s1) ∧ 1 ≤ p.op ∧ p.op ≤ 5 ∧ underReset s1 c.tower = false ∧ isCe s1.fab.cfg p = false
    ∧ (s1.gate.pwr ≠ .rest ∨ c.mirror = true) :=
  ⟨rx (ctx0), 0, pkt0 1, 9, ctx0, .write 0 (pkt0 1), _, _, _, .inr (by decide +kernel), ⟨by decide +kernel, .inr ⟨by decide, by decide +kernel, rfl⟩⟩, by unfold ForContext; decide +kernel, rfl, rfl, by decide +kernel⟩

theorem wit_packetsReceived_1a : ∃ (s : State) (port : Nat) (p : Pkt) (n : Nat) (c : Ctx) (k : Instr) (s0 : State) (s1 : State) (s2 : State), Arrival port p k ∧ Enters s port p s0 ∧ ForContext s p n c ∧ s1 = fetchCtx n c.tower s0
    ∧ s2 = takeAck n p.ackPsn (traceFabric 6 n port c p s1) ∧ 1 ≤ p.op ∧ p.op ≤ 5 ∧ underReset s1 c.tower = false ∧ isCe s1.fab.cfg p = false
    ∧ (s1.gate.pwr ≠ .rest ∨ c.mirror = true) ∧ c.mirror = false ∧ psnDiff c.rcvNxt p.psn = 0 ∧ accessOk s2 c p = true :=
  ⟨rx (ctx0), 0, pkt0 1, 9, ctx0, .write 0 (pkt0 1), _, _, _, .inr (by decide +kernel), ⟨by decide +kernel, .inr ⟨by decide, by decide +kernel, rfl⟩⟩, by unfold ForContext; decide +kernel, rfl, rfl, by decide +kernel⟩

theorem wit_packetsReceived_1b : ∃ (s : State) (port : Nat) (p : Pkt) (n : Nat) (c : Ctx) (k : Instr) (s0 : State) (s1 : State) (s2 : State), Arrival port p k ∧ Enters s port p s0 ∧ ForContext s p n c ∧ s1 = fetchCtx n c.tower s0
    ∧ s2 = takeAck n p.ackPsn (traceFabric 6 n port c p s1) ∧ 1 ≤ p.op ∧ p.op ≤ 5 ∧ underReset s1 c.tower = false ∧ isCe s1.fab.cfg p = false
    ∧ (s1.gate.pwr ≠ .rest ∨ c.mirror = true) ∧ c.mirror = false ∧ psnDiff c.rcvNxt p.psn = 0 ∧ accessOk s2 c p = false :=
  ⟨rx ({ ctx0 with access := 14 }), 0, pkt0 1, 9, { ctx0 with access := 14 }, .write 0 (pkt0 1), _, _, _, .inr (by decide +kernel), ⟨by decide +kernel, .inr ⟨by decide, by decide +kernel, rfl⟩⟩, by unfold ForContext; decide +kernel, rfl, rfl, by decide +kernel⟩

theorem wit_packetsReceived_1c : ∃ (s : State) (port : Nat) (p : Pkt) (n : Nat) (c : Ctx) (k : Instr) (s0 : State) (s1 : State) (s2 : State), Arrival port p k ∧ Enters s port p s0 ∧ ForContext s p n c ∧ s1 = fetchCtx n c.tower s0
    ∧ s2 = takeAck n p.ackPsn (traceFabric 6 n port c p s1) ∧ 1 ≤ p.op ∧ p.op ≤ 5 ∧ underReset s1 c.tower = false ∧ isCe s1.fab.cfg p = false
    ∧ (s1.gate.pwr ≠ .rest ∨ c.mirror = true) ∧ 2 ^ 31 ≤ psnDiff c.rcvNxt p.psn :=
  ⟨rx ({ ctx0 with rcvNxt := 2 }), 0, pkt0 1, 9, { ctx0 with rcvNxt := 2 }, .write 0 (pkt0 1), _, _, _, .inr (by decide +kernel), ⟨by decide +kernel, .inr ⟨by decide, by decide +kernel, rfl⟩⟩, by unfold ForContext; decide +kernel, rfl, rfl, by decide +kernel⟩

theorem wit_packetsReceived_1d : ∃ (s : State) (port : Nat) (p : Pkt) (n : Nat) (c : Ctx) (k : Instr) (s0 : State) (s1 : State) (s2 : State), Arrival port p k ∧ Enters s port p s0 ∧ ForContext s p n c ∧ s1 = fetchCtx n c.tower s0
    ∧ s2 = takeAck n p.ackPsn (traceFabric 6 n port c p s1) ∧ ((∀ x, c.nackNs = some x → x + 4000 ≤ s1.nowNs)) ∧ 1 ≤ p.op ∧ p.op ≤ 5
    ∧ underReset s1 c.tower = false ∧ isCe s1.fab.cfg p = false ∧ (s1.gate.pwr ≠ .rest ∨ c.mirror = true) ∧ 0 < psnDiff c.rcvNxt p.psn
    ∧ psnDiff c.rcvNxt p.psn < 2 ^ 31 :=
  ⟨rx ({ ctx0 with rcvNxt := 0 }), 0, pkt0 1, 9, { ctx0 with rcvNxt := 0 }, .write 0 (pkt0 1), _, _, _, .inr (by decide +kernel), ⟨by decide +kernel, .inr ⟨by decide, by decide +kernel, rfl⟩⟩, by unfold ForContext; decide +kernel, rfl, rfl, fun _ h => (nomatch h), by decide +kernel⟩

theorem wit_packetsReceived_1e : ∃ (s : State) (port : Nat) (p : Pkt) (n : Nat) (c : Ctx) (k : Instr) (s0 : State) (s1 : State) (s2 : State), Arrival port p k ∧ Enters s port p s0 ∧ ForContext s p n c ∧ s1 = fetchCtx n c.tower s0
    ∧ s2 = takeAck n p.ackPsn (traceFabric 6 n port c p s1) ∧ ((∃ x, c.nackNs = some x ∧ s1.nowNs < x + 4000)) ∧ 1 ≤ p.op ∧ p.op ≤ 5
    ∧ underReset s1 c.tower = false ∧ isCe s1.fab.cfg p = false ∧ (s1.gate.pwr ≠ .rest ∨ c.mirror = true) ∧ 0 < psnDiff c.rcvNxt p.psn
    ∧ psnDiff c.rcvNxt p.psn < 2 ^ 31 :=
  ⟨rx ({ ctx0 with rcvNxt := 0, nackNs := some 1 }), 0, pkt0 1, 9, { ctx0 with rcvNxt := 0, nackNs := some 1 }, .write 0 (pkt0 1), _, _, _, .inr (by decide +kernel), ⟨by decide +kernel, .inr ⟨by decide, by decide +kernel, rfl⟩⟩, by unfold ForContext; decide +kernel, rfl, rfl, ⟨1, rfl, by decide +kernel⟩, by decide +kernel⟩

theorem wit_packetsReceived_2 : ∃ (s : State) (port : Nat) (p : Pkt) (n : Nat) (c : Ctx) (k : Instr) (s0 : State) (s1 : State), Arrival port p k ∧ Enters s port p s0 ∧ ForContext s p n c ∧ s1 = fetchCtx n c.tower s0
    ∧ 1 ≤ p.op ∧ p.op ≤ 5 ∧ isCe s1.fab.cfg p = false :=
  ⟨rxReset, 0, pkt0 1, 9, ctx0, .write 0 (pkt0 1), _, _, .inr (by decide +kernel), ⟨by decide +kernel, .inr ⟨by decide, by decide +kernel, rfl⟩⟩, by unfold ForContext; decide +kernel, rfl, by decide +kernel⟩

theorem wit_packetsReceived_2a : ∃ (s : State) (port : Nat) (p : Pkt) (n : Nat) (c : Ctx) (k : Instr) (s0 : State) (s1 : State), Arrival port p k ∧ Enters s port p s0 ∧ ForContext s p n c ∧ s1 = fetchCtx n c.tower s0
    ∧ 1 ≤ p.op ∧ p.op ≤ 5 ∧ isCe s1.fab.cfg p = false ∧ underReset s1 c.tower = true :=
  ⟨rxReset, 0, pkt0 1, 9, ctx0, .write 0 (pkt0 1), _, _, .inr (by decide +kernel), ⟨by decide +kernel, .inr ⟨by decide, by decide +kernel, rfl⟩⟩, by unfold ForContext; decide +kernel, rfl, by decide +kernel⟩

theorem wit_packetsReceived_2b : ∃ (s : State) (port : Nat) (p : Pkt) (n : Nat) (c : Ctx) (k : Instr) (s0 : State) (s1 : State), Arrival port p k ∧ Enters s port p s0 ∧ ForContext s p n c ∧ s1 = fetchCtx n c.tower s0
    ∧ 1 ≤ p.op ∧ p.op ≤ 5 ∧ isCe s1.fab.cfg p = false ∧ underReset s1 c.tower = false ∧ c.mirror = false ∧ s1.gate.pwr = .rest :=
  ⟨(rx ctx0).onGate (fun g => { g with pwr := .rest }), 0, pkt0 1, 9, ctx0, .write 0 (pkt0 1), _, _, .inr (by decide +kernel), ⟨by decide +kernel, .inr ⟨by decide, by decide +kernel, rfl⟩⟩, by unfold ForContext; decide +kernel, rfl, by decide +kernel⟩

theorem wit_packetsReceived_4 : ∃ (s : State) (p : Pkt), isCe s.fab.cfg p = true :=
  ⟨rx ctx0, { pkt0 1 with ecn := 3 }, by decide +kernel⟩

theorem wit_packetsReceived_4a : ∃ (s : State) (c : Ctx) (p : Pkt), ((∀ k, c.cnpNs = some k → k + 8000 ≤ s.nowNs)) ∧ isCe s.fab.cfg p = true
    ∧ underReset s c.tower = false :=
  ⟨rx ctx0, ctx0, { pkt0 1 with ecn := 3 }, fun _ h => (nomatch h), by decide +kernel⟩

theorem wit_packetsReceived_4b : ∃ (s : State) (c : Ctx) (p : Pkt), (((∃ k, c.cnpNs = some k ∧ s.nowNs < k + 8000) ∨ underReset s c.tower = true))
    ∧ isCe s.fab.cfg p = true :=
  ⟨rx ctx0, { ctx0 with cnpNs := some 1 }, { pkt0 1 with ecn := 3 }, .inl ⟨1, rfl, by decide +kernel⟩, by decide +kernel⟩

theorem wit_packetsReceived_5 : ∃ (s : State) (n : Nat) (c : Ctx), tabGet s.fab.ctxs n = some c :=
  ⟨rx ctx0, 9, ctx0, by decide +kernel⟩

theorem wit_packetsReceived_6 : ∃ (p : Pkt), windowAt p.addr = none :=
  ⟨pkt0 1, by decide +kernel⟩

theorem wit_packetsReceived_6a : ∃ (p : Pkt), windowAt p.addr = none ∧ p.op = 1 ∧ p.noAlloc = false :=
  ⟨pkt0 1, by decide +kernel⟩

theorem wit_packetsReceived_6b : ∃ (p : Pkt), windowAt p.addr = none ∧ p.op = 1 ∧ p.noAlloc = true :=
  ⟨pktWith 1 (fun p => { p with noAlloc := true }), by decide +kernel⟩

theorem wit_packetsReceived_6c : ∃ (p : Pkt), windowAt p.addr = none ∧ p.op = 2 :=
  ⟨pkt0 2, by decide +kernel⟩

theorem wit_packetsReceived_6d : ∃ (p : Pkt), windowAt p.addr = none ∧ p.op = 3 :=
  ⟨pkt0 3, by decide +kernel⟩

theorem wit_packetsReceived_6e : ∃ (p : Pkt), windowAt p.addr = none ∧ p.op = 4 :=
  ⟨pkt0 4, by decide +kernel⟩

theorem wit_packetsReceived_6f : ∃ (p : Pkt), windowAt p.addr = none ∧ p.op = 5 ∧ p.last = false :=
  ⟨pktWith 5 (fun p => { p with last := false }), by decide +kernel⟩

theorem wit_packetsReceived_7 : ∃ (s : State) (port : Nat) (p : Pkt) (k : Instr) (s0 : State) (s1 : State), Arrival port p k ∧ Enters s port p s0 ∧ s1 = ctrFab port 7 1 s0
    ∧ s.fab.devId = some p.dst :=
  ⟨linked up, 0, pkt0 1, .write 0 (pkt0 1), _, _, .inr (by decide +kernel), ⟨by decide +kernel, .inr ⟨by decide, by decide +kernel, rfl⟩⟩, rfl, by decide +kernel⟩

theorem wit_packetsReceived_7a : ∃ (s : State) (port : Nat) (p : Pkt) (k : Instr) (s0 : State) (s1 : State), Arrival port p k ∧ Enters s port p s0 ∧ s1 = ctrFab port 7 1 s0
    ∧ s.fab.devId = some p.dst ∧ ((crcOk s.fab.cfg p = false ∨ udpOk p = false)) :=
  ⟨linked up, 0, { pkt0 1 with trailer := 0 }, .write 0 ({ pkt0 1 with trailer := 0 }), _, _, .inr (by decide +kernel), ⟨by decide +kernel, .inr ⟨by decide, by decide +kernel, rfl⟩⟩, rfl, by decide +kernel⟩

theorem wit_packetsReceived_7b : ∃ (s : State) (port : Nat) (p : Pkt) (k : Instr) (s0 : State) (s1 : State), Arrival port p k ∧ Enters s port p s0 ∧ s1 = ctrFab port 7 1 s0
    ∧ s.fab.devId = some p.dst ∧ crcOk s.fab.cfg p = true ∧ udpOk p = true ∧ tabGet s.fab.ctxs p.dstCtx = none :=
  ⟨linked up, 0, pkt0 1, .write 0 (pkt0 1), _, _, .inr (by decide +kernel), ⟨by decide +kernel, .inr ⟨by decide, by decide +kernel, rfl⟩⟩, rfl, by decide +kernel⟩

theorem wit_packetsReceived_7c : ∃ (s : State) (port : Nat) (p : Pkt) (k : Instr) (s0 : State) (s1 : State) (c : Ctx) (s2 : State), Arrival port p k ∧ Enters s port p s0 ∧ s1 = ctrFab port 7 1 s0
    ∧ s2 = fetchCtx p.dstCtx c.tower s0 ∧ s.fab.devId = some p.dst ∧ crcOk s.fab.cfg p = true ∧ udpOk p = true ∧ tabGet s.fab.ctxs p.dstCtx = some c
    ∧ ((c.peerDev ≠ p.src ∨ c.peerCtx ≠ p.srcCtx)) :=
  ⟨rx ctx0, 0, pktWith 1 (fun p => { p with srcCtx := 8 }), .write 0 (pktWith 1 (fun p => { p with srcCtx := 8 })), _, _, ctx0, _, .inr (by decide +kernel), ⟨by decide +kernel, .inr ⟨by decide, by decide +kernel, rfl⟩⟩, rfl, rfl, by decide +kernel⟩

theorem wit_packetsReceived_7d : ∃ (s : State) (port : Nat) (p : Pkt) (k : Instr) (s0 : State) (s1 : State) (c : Ctx) (s2 : State), Arrival port p k ∧ Enters s port p s0 ∧ s1 = ctrFab port 7 1 s0
    ∧ s2 = fetchCtx p.dstCtx c.tower s0 ∧ s.fab.devId = some p.dst ∧ crcOk s.fab.cfg p = true ∧ udpOk p = true ∧ tabGet s.fab.ctxs p.dstCtx = some c
    ∧ c.peerDev = p.src ∧ c.peerCtx = p.srcCtx ∧ c.state = .error :=
  ⟨rx { ctx0 with state := .error }, 0, pkt0 1, .write 0 (pkt0 1), _, _, { ctx0 with state := .error }, _, .inr (by decide +kernel), ⟨by decide +kernel, .inr ⟨by decide, by decide +kernel, rfl⟩⟩, rfl, rfl, by decide +kernel⟩

theorem wit_packetsReceived_8 : ∃ (s : State) (port : Nat) (p : Pkt) (k : Instr) (s0 : State), Arrival port p k ∧ Enters s port p s0 ∧ s.fab.devId ≠ some p.dst :=
  ⟨linked up, 0, pktWith 1 (fun p => { p with dst := 6, hops := 0 }), .frameForward 0 (pktWith 1 (fun p => { p with dst := 6, hops := 0 })), _, .inl rfl, ⟨by decide +kernel, .inr ⟨by decide, by decide +kernel, rfl⟩⟩, by decide +kernel⟩

theorem wit_packetsReceived_8a : ∃ (s : State) (port : Nat) (p : Pkt) (k : Instr) (s0 : State), Arrival port p k ∧ Enters s port p s0 ∧ s.fab.devId ≠ some p.dst ∧ 16 ≤ p.hops :=
  ⟨linked up, 0, pktWith 1 (fun p => { p with dst := 6, hops := 16 }), .frameForward 0 (pktWith 1 (fun p => { p with dst := 6, hops := 16 })), _, .inl rfl, ⟨by decide +kernel, .inr ⟨by decide, by decide +kernel, rfl⟩⟩, by decide +kernel⟩

theorem wit_packetsReceived_8b : ∃ (s : State) (port : Nat) (p : Pkt) (k : Instr) (s0 : State), Arrival port p k ∧ Enters s port p s0 ∧ s.fab.devId ≠ some p.dst ∧ p.hops < 16
    ∧ routeChoice s0 p.dst (pktHash p) = none :=
  ⟨linked up, 0, pktWith 1 (fun p => { p with dst := 6, hops := 15 }), .frameForward 0 (pktWith 1 (fun p => { p with dst := 6, hops := 15 })), _, .inl rfl, ⟨by decide +kernel, .inr ⟨by decide, by decide +kernel, rfl⟩⟩, by decide +kernel⟩

theorem wit_packetsReceived_8c : ∃ (s : State) (port : Nat) (p : Pkt) (k : Instr) (s0 : State) (l : Nat) (remote : Nat), Arrival port p k ∧ Enters s port p s0 ∧ s.fab.devId ≠ some p.dst ∧ p.hops < 16
    ∧ routeChoice s0 p.dst (pktHash p) = some (l, remote) :=
  ⟨(linked up).onFab (fun f => { f with routes := [(6, { valid := true, spray := false, count := 1, egress := [47, 0, 0, 0], remote := [6, 0, 0, 0] })] }), 0, pktWith 1 (fun p => { p with dst := 6, hops := 15 }), .frameForward 0 (pktWith 1 (fun p => { p with dst := 6, hops := 15 })), _, 47, 6, .inl rfl, ⟨by decide +kernel, .inr ⟨by decide, by decide +kernel, rfl⟩⟩, by decide +kernel⟩

theorem wit_packetsReceived_9 : ∃ (port : Nat) (p : Pkt) (k : Instr), Arrival port p k :=
  ⟨0, pkt0 1, .write 0 (pkt0 1), .inr (by decide +kernel)⟩

theorem wit_packetsReceived_9a : ∃ (s : State) (port : Nat) (p : Pkt) (k : Instr), Arrival port p k ∧ switchTakes s port p = false :=
  ⟨up, 0, pkt0 1, .write 0 (pkt0 1), .inr (by decide +kernel), by decide +kernel⟩

theorem wit_packetsReceived_9b : ∃ (s : State) (port : Nat) (p : Pkt) (k : Instr), Arrival port p k ∧ switchTakes s port p = true ∧ port ≠ 255 ∧ rxFits s port p = false :=
  ⟨(linked up).onFab (fun f => { f with cfg := { f.cfg with modes := [] } }), 0, pkt0 1, .write 0 (pkt0 1), .inr (by decide +kernel), by decide +kernel⟩

theorem wit_packetsReceived_10 : ∃ (s : State) (port : Nat) (p : Pkt) (n : Nat) (c : Ctx) (k : Instr) (s0 : State) (s1 : State), Arrival port p k ∧ Enters s port p s0 ∧ ForContext s p n c ∧ s1 = fetchCtx n c.tower s0 :=
  ⟨rx (ctx0), 0, pkt0 6, 9, ctx0, .ack 0 (pkt0 6), _, _, .inr (by decide +kernel), ⟨by decide +kernel, .inr ⟨by decide, by decide +kernel, rfl⟩⟩, by unfold ForContext; decide +kernel, rfl⟩

theorem wit_packetsReceived_10a : ∃ (s : State) (port : Nat) (p : Pkt) (n : Nat) (c : Ctx) (k : Instr) (s0 : State) (s1 : State), Arrival port p k ∧ Enters s port p s0 ∧ ForContext s p n c ∧ s1 = fetchCtx n c.tower s0
    ∧ p.op = 6 ∧ c.state = .openS :=
  ⟨rx (ctx0), 0, pkt0 6, 9, ctx0, .ack 0 (pkt0 6), _, _, .inr (by decide +kernel), ⟨by decide +kernel, .inr ⟨by decide, by decide +kernel, rfl⟩⟩, by unfold ForContext; decide +kernel, rfl, by decide +kernel⟩

theorem wit_packetsReceived_10b : ∃ (s : State) (port : Nat) (p : Pkt) (n : Nat) (c : Ctx) (k : Instr) (s0 : State) (s1 : State), Arrival port p k ∧ Enters s port p s0 ∧ ForContext s p n c ∧ s1 = fetchCtx n c.tower s0
    ∧ p.op = 6 ∧ c.state = .waiting :=
  ⟨rx ({ ctx0 with state := .waiting }), 0, pkt0 6, 9, { ctx0 with state := .waiting }, .ack 0 (pkt0 6), _, _, .inr (by decide +kernel), ⟨by decide +kernel, .inr ⟨by decide, by decide +kernel, rfl⟩⟩, by unfold ForContext; decide +kernel, rfl, by decide +kernel⟩

theorem wit_packetsReceived_10c : ∃ (s : State) (port : Nat) (p : Pkt) (n : Nat) (c : Ctx) (k : Instr) (s0 : State) (s1 : State) (x : Ctx), Arrival port p k ∧ Enters s port p s0 ∧ ForContext s p n c ∧ s1 = fetchCtx n c.tower s0
    ∧ p.op = 7 ∧ p.addr % 65536 = 1 ∧ tabGet (takeAck n p.ackPsn s1).fab.ctxs n = some x :=
  ⟨rx (ctx0), 0, pktWith 7 (fun p => { p with addr := 1 }), 9, ctx0, .nack 0 (pktWith 7 (fun p => { p with addr := 1 })), _, _, ctx0, .inr (by decide +kernel), ⟨by decide +kernel, .inr ⟨by decide, by decide +kernel, rfl⟩⟩, by unfold ForContext; decide +kernel, rfl, by decide +kernel⟩

theorem wit_packetsReceived_10d : ∃ (s : State) (port : Nat) (p : Pkt) (n : Nat) (c : Ctx) (k : Instr) (s0 : State) (s1 : State), Arrival port p k ∧ Enters s port p s0 ∧ ForContext s p n c ∧ s1 = fetchCtx n c.tower s0
    ∧ p.op = 7 ∧ ((p.addr % 65536 = 2 ∨ p.addr % 65536 = 3)) :=
  ⟨rx (ctx0), 0, pktWith 7 (fun p => { p with addr := 3 }), 9, ctx0, .nack 0 (pktWith 7 (fun p => { p with addr := 3 })), _, _, .inr (by decide +kernel), ⟨by decide +kernel, .inr ⟨by decide, by decide +kernel, rfl⟩⟩, by unfold ForContext; decide +kernel, rfl, by decide +kernel⟩

theorem wit_packetsReceived_10e : ∃ (s : State) (port : Nat) (p : Pkt) (n : Nat) (c : Ctx) (k : Instr) (s0 : State) (s1 : State), Arrival port p k ∧ Enters s port p s0 ∧ ForContext s p n c ∧ s1 = fetchCtx n c.tower s0
    ∧ p.op = 7 ∧ p.addr % 65536 = 4 :=
  ⟨rx (ctx0), 0, pktWith 7 (fun p => { p with addr := 4 }), 9, ctx0, .nack 0 (pktWith 7 (fun p => { p with addr := 4 })), _, _, .inr (by decide +kernel), ⟨by decide +kernel, .inr ⟨by decide, by decide +kernel, rfl⟩⟩, by unfold ForContext; decide +kernel, rfl, by decide +kernel⟩

theorem wit_packetsReceived_10f : ∃ (s : State) (port : Nat) (p : Pkt) (n : Nat) (c : Ctx) (k : Instr) (s0 : State) (s1 : State), Arrival port p k ∧ Enters s port p s0 ∧ ForContext s p n c ∧ s1 = fetchCtx n c.tower s0
    ∧ p.op = 8 :=
  ⟨rx (ctx0), 0, pkt0 8, 9, ctx0, .cnp 0 (pkt0 8), _, _, .inr (by decide +kernel), ⟨by decide +kernel, .inr ⟨by decide, by decide +kernel, rfl⟩⟩, by unfold ForContext; decide +kernel, rfl, by decide +kernel⟩

theorem wit_packetsReceived_11 : ∃ (a : Nat) (k : Nat) (c : Ctx) (u : Unacked), psnDiff c.sndUna a = k ∧ 0 < k ∧ c.unacked[k - 1]? = some u :=
  ⟨2, 1, { ctx0 with unacked := [⟨pkt0 1, 5, false⟩] }, ⟨pkt0 1, 5, false⟩, by decide +kernel⟩

theorem wit_packetsReceived_11a : ∃ (a : Nat) (k : Nat) (c : Ctx) (u : Unacked), psnDiff c.sndUna a = k ∧ 0 < k ∧ c.unacked[k - 1]? = some u ∧ u.resent = true :=
  ⟨2, 1, { ctx0 with unacked := [⟨pkt0 1, 5, true⟩] }, ⟨pkt0 1, 5, true⟩, by decide +kernel⟩

/-- A context with a SIGNAL queued. -/
def ctx1 : Ctx := { ctx0 with queue := [.signal 0x40000000 1] }

theorem wit_fabricTimers_1 : ∃ (s : State) (n : Nat) (c : Ctx), tabGet s.fab.ctxs n = some c :=
  ⟨withCtx ({ ctx0 with ackDueNs := some 20 }) (linked up), 9, { ctx0 with ackDueNs := some 20 }, by decide +kernel⟩

theorem wit_fabricTimers_1a : ∃ (s : State) (n : Nat) (c : Ctx) (k : Nat), tabGet s.fab.ctxs n = some c ∧ c.ackDueNs = some k ∧ underReset s c.tower = false :=
  ⟨withCtx ({ ctx0 with ackDueNs := some 20 }) (linked up), 9, { ctx0 with ackDueNs := some 20 }, 20, by decide +kernel⟩

theorem wit_fabricTimers_1b : ∃ (s : State) (n : Nat) (c : Ctx), tabGet s.fab.ctxs n = some c ∧ ((c.ackDueNs = none ∨ underReset s c.tower = true)) :=
  ⟨withCtx (ctx0) (linked up), 9, ctx0, by decide +kernel⟩

theorem wit_fabricTimers_2 : ∃ (s : State) (n : Nat) (c : Ctx) (f : Ctx → Ctx), f = (fun x : Ctx => { x with rate := max (x.rate / 2) 1000000000, recoverNs := max s.nowNs (c.timerNs + c.rtoNs) + 16000, retries := x.retries + 1, rtoNs := min 2000000 (2 * x.rtoNs), timerNs := max s.nowNs (c.timerNs + c.rtoNs) })
    ∧ tabGet s.fab.ctxs n = some c ∧ c.state = .openS ∧ c.unacked ≠ [] ∧ underReset s c.tower = false :=
  ⟨withCtx ({ ctx0 with retries := 9, unacked := [⟨pkt0 1, 5, false⟩] }) (linked up), 9, { ctx0 with retries := 9, unacked := [⟨pkt0 1, 5, false⟩] }, _, rfl, by decide +kernel⟩

theorem wit_fabricTimers_2a : ∃ (s : State) (n : Nat) (c : Ctx) (f : Ctx → Ctx), f = (fun x : Ctx => { x with rate := max (x.rate / 2) 1000000000, recoverNs := max s.nowNs (c.timerNs + c.rtoNs) + 16000, retries := x.retries + 1, rtoNs := min 2000000 (2 * x.rtoNs), timerNs := max s.nowNs (c.timerNs + c.rtoNs) })
    ∧ tabGet s.fab.ctxs n = some c ∧ c.state = .openS ∧ c.unacked ≠ [] ∧ underReset s c.tower = false ∧ c.retries ≠ 9 :=
  ⟨withCtx ({ ctx0 with retries := 8, unacked := [⟨pkt0 1, 5, false⟩] }) (linked up), 9, { ctx0 with retries := 8, unacked := [⟨pkt0 1, 5, false⟩] }, _, rfl, by decide +kernel⟩

theorem wit_fabricTimers_2b : ∃ (s : State) (n : Nat) (c : Ctx) (f : Ctx → Ctx), f = (fun x : Ctx => { x with rate := max (x.rate / 2) 1000000000, recoverNs := max s.nowNs (c.timerNs + c.rtoNs) + 16000, retries := x.retries + 1, rtoNs := min 2000000 (2 * x.rtoNs), timerNs := max s.nowNs (c.timerNs + c.rtoNs) })
    ∧ tabGet s.fab.ctxs n = some c ∧ c.state = .openS ∧ c.unacked ≠ [] ∧ underReset s c.tower = false ∧ c.retries = 9 :=
  ⟨withCtx ({ ctx0 with retries := 9, unacked := [⟨pkt0 1, 5, false⟩] }) (linked up), 9, { ctx0 with retries := 9, unacked := [⟨pkt0 1, 5, false⟩] }, _, rfl, by decide +kernel⟩

theorem wit_fabricTimers_3 : ∃ (s : State) (n : Nat) (c : Ctx), tabGet s.fab.ctxs n = some c
    ∧ (c.state ≠ .openS ∨ c.unacked = [] ∨ underReset s c.tower = true) :=
  ⟨withCtx (ctx0) (linked up), 9, ctx0, by decide +kernel⟩

theorem wit_fabricTimers_4 : ∃ (s : State) (n : Nat) (c : Ctx), tabGet s.fab.ctxs n = some c ∧ c.state = .waiting :=
  ⟨withCtx ({ ctx0 with state := .waiting }) (linked up), 9, { ctx0 with state := .waiting }, by decide +kernel⟩

theorem wit_fabricTimers_4a : ∃ (s : State) (n : Nat) (c : Ctx), tabGet s.fab.ctxs n = some c ∧ c.state = .waiting ∧ underReset s c.tower = false :=
  ⟨withCtx ({ ctx0 with state := .waiting }) (linked up), 9, { ctx0 with state := .waiting }, by decide +kernel⟩

theorem wit_fabricTimers_4b : ∃ (s : State) (n : Nat) (c : Ctx), tabGet s.fab.ctxs n = some c ∧ c.state = .waiting ∧ underReset s c.tower = true :=
  ⟨withCtx ({ ctx0 with state := .waiting }) (rxReset), 9, { ctx0 with state := .waiting }, by decide +kernel⟩

theorem wit_fabricTimers_5 : ∃ (s : State) (n : Nat) (c : Ctx), tabGet s.fab.ctxs n = some c ∧ c.state ≠ .waiting :=
  ⟨withCtx (ctx0) (linked up), 9, ctx0, by decide +kernel⟩

theorem wit_fabricTimers_6 : ∃ (s : State) (n : Nat) (c : Ctx), tabGet s.fab.ctxs n = some c :=
  ⟨withCtx (ctx0) (linked up), 9, ctx0, by decide +kernel⟩

theorem wit_fabricTimers_7 : ∃ (s : State) (n : Nat) (c : Ctx) (x : Xfer) (rest : List Xfer) (s1 : State) (addr : Nat) (op : Nat) (ro : Nat) (rt : Nat) (na : Bool) (bs : List Byte) (pz : List Nat) (left : Option Xfer), tabGet s.fab.ctxs n = some c ∧ c.mirror = false ∧ c.queue = x :: rest
    ∧ maySend s n c = true ∧ nextPacket (s.timeTo c.sendNs) c.owner x = (s1, (op, addr, ro, rt, na), bs, pz, left) :=
  ⟨withCtx (ctx1) (linked up), 9, ctx1, .signal 0x40000000 1, [], _, _, _, _, _, _, _, _, _, ⟨by decide +kernel, by decide, by decide, by decide +kernel, rfl⟩⟩

theorem wit_fabricTimers_8 : ∃ (s : State) (n : Nat) (c : Ctx), tabGet s.fab.ctxs n = some c ∧ c.mirror = false ∧ (maySend s n c = false ∨ c.queue = []) :=
  ⟨withCtx (ctx0) (linked up), 9, ctx0, by decide +kernel⟩

theorem wit_fabricTimers_9 : ∃ (s : State) (n : Nat) (c : Ctx), maySend s n c = true :=
  ⟨withCtx (ctx0) (linked up), 9, ctx0, by decide +kernel⟩

theorem wit_fabricTimers_10 : ∃ (s : State) (job : Nat) (la : Nat) (bytes : Nat) (s1 : State) (bs : List Byte) (pz : List Nat) (p : Nat), p = payloadSize s.fab.cfg ∧ floorRead (Agent.of 3) job la (min p bytes) s = (s1, bs, pz) :=
  ⟨withCtx ctx0 (linked up), 7, 0x40000000, 64, _, _, _, _, ⟨rfl, rfl⟩⟩

theorem wit_fabricTimers_11 : ∃ (s : State) (n : Nat) (c : Ctx), tabGet s.fab.ctxs n = some c ∧ n ∈ s.fab.ctxCache.get c.tower ∧ 0 < c.rate :=
  ⟨withCtx (ctx0) (linked up), 9, ctx0, by decide +kernel⟩

/-- TWIN.BIND of tower 0 to device 6 and TWIN.RESTORE, each with what it needs. -/
def bindCmd : Cmd :=
  cmd 1 0x0500 7 ([1#8, 0#8] ++ leBytes 6 2 ++ leBytes 9 2 ++ leBytes 8 2 ++ z 4 ++ leBytes 256 4 ++ leBytes 0x40001000 8 ++ z 24)
def twinJob : Job := { job0 with partition := 1 }
/-- Both towers, or tower 0 alone, changed. -/
def onBoth (f : Twin → Twin) (s : State) : State := s.onTwin (fun p => ⟨f p.t0, f p.t1⟩)
def onT0 (f : Twin → Twin) (s : State) : State := s.onTwin (fun p => p.mod .t0 f)
def binding : State :=
  ((holding bindCmd (inJob twinJob up)).onJobs (fun x => { x with partMode := 1 })).onHbm (fun h => { h with
    cellar := ⟨⟨0x40000000, 0x200000⟩, ⟨0, 0⟩⟩, mirror := ⟨⟨0x50000000, 0x200000⟩, ⟨0, 0⟩⟩ }) |> onT0 (fun w => { w with state := .lost })
/-- The HELLOs of tower 0 exchanged while TWIN.BIND runs. -/
def greeted (towers : Nat) : State :=
  onT0 (fun w => { w with bindMb := some 1, bindTowers := 1, helloSeen := true, helloAcked := true, peerTowers := towers }) (holding (run bindCmd) up)
def restoreCmd (kind : Nat) : Cmd := cmd 1 0x0502 7 ([1#8, BitVec.ofNat 8 kind] ++ z 14)
def restoring (kind : Nat) : State := onT0 (fun w => { w with
  state := .bound, holding := true, peerRecover := true, peerCellar := 0x200000 }) ((holding (restoreCmd kind) (inJob twinJob up)).onHbm (fun h => { h with cellar := ⟨⟨0x40000000, 0x200000⟩, ⟨0, 0⟩⟩ }))
def commit0 : CommitRec := ⟨7, 0, 0, 9, 0, 0, 0, 0, 5⟩
/-- Tower 0 with a record of a kind held: HEADER and bytes. -/
def holdingRec (h : Nat) (bs : List Byte) : State := onT0 (fun w => { w with
  state := .bound, rxCrc := 0xFFFFFFFF, rxHeld := some 3, rxBuf := (leBytes h 8 ++ bs).map (fun b => (b, false)) }) up
def heldOf (s : State) (k : Nat) : RxRec := (heldRec s .t0 k).getD ⟨0, 0, false, 0, []⟩
def commitHeld (c : CommitRec) : State := holdingRec (2 * 2 ^ 37 + 8 * 2 ^ 40) (commitBytes c)
def badHeld : State := holdingRec (2 * 2 ^ 37 + 8 * 2 ^ 40) (z 64)
def helloHeld : State := holdingRec (5 * 2 ^ 37 + 4 * 2 ^ 40) (z 32)
/-- A mirror's context of tower 0 at the device. -/
def ctxM : Ctx := { ctx0 with mirror := true, owner := 0 }

theorem wit_twinsComplete_1 : ∃ (s : State) (mb : Nat) (c : Cmd), Waiting s mb 0x0503 c ∧ Plain c 0 :=
  ⟨holding (cmd 0 0x0503 0 ([])) (up), 0, cmd 0 0x0503 0 ([]), by decide +kernel⟩

theorem wit_twinsComplete_2 : ∃ (s : State) (mb : Nat) (c : Cmd) (ts : List Tower), ts = towersOfMask (par c 0 1) ∧ Waiting s mb 0x0501 c ∧ Plain c 8 ∧ 1 ≤ par c 0 1
    ∧ par c 0 1 ≤ 3 ∧ ZeroPar c 1 7 :=
  ⟨holding (cmd 0 0x0501 0 ([3#8] ++ z 7)) (onBoth (fun w => { w with state := .lost }) (inJob running up)), 0, cmd 0 0x0501 0 ([3#8] ++ z 7), _, rfl, by decide +kernel⟩

theorem wit_twinsComplete_2a : ∃ (s : State) (mb : Nat) (c : Cmd) (ts : List Tower), ts = towersOfMask (par c 0 1)
    ∧ ((∀ t ∈ ts, ∀ j, jobOfTower s t = some j → (s.twin.get t).state = .lost ∨ (j.state ≠ .armed ∧ j.state ≠ .running))) ∧ Waiting s mb 0x0501 c
    ∧ Plain c 8 ∧ 1 ≤ par c 0 1 ∧ par c 0 1 ≤ 3 ∧ ZeroPar c 1 7 ∧ ((∀ t ∈ ts, (s.twin.get t).state ≠ .off)) :=
  ⟨holding (cmd 0 0x0501 0 ([3#8] ++ z 7)) (onBoth (fun w => { w with state := .lost }) (inJob running up)), 0, cmd 0 0x0501 0 ([3#8] ++ z 7), _, rfl, fun t _ _ _ => .inl (by cases t <;> rfl), by decide +kernel⟩

theorem wit_twinsComplete_2b : ∃ (s : State) (mb : Nat) (c : Cmd) (ts : List Tower), ts = towersOfMask (par c 0 1) ∧ Waiting s mb 0x0501 c ∧ Plain c 8 ∧ 1 ≤ par c 0 1
    ∧ par c 0 1 ≤ 3 ∧ ZeroPar c 1 7 ∧ ((∃ t ∈ ts, (s.twin.get t).state = .off)) :=
  ⟨holding (cmd 0 0x0501 0 ([3#8] ++ z 7)) (up), 0, cmd 0 0x0501 0 ([3#8] ++ z 7), _, rfl, by decide +kernel⟩

theorem wit_twinsComplete_2c : ∃ (s : State) (mb : Nat) (c : Cmd) (ts : List Tower), ts = towersOfMask (par c 0 1)
    ∧ ((∃ t ∈ ts, ∃ j, jobOfTower s t = some j ∧ (s.twin.get t).state ≠ .lost ∧ (j.state = .armed ∨ j.state = .running))) ∧ Waiting s mb 0x0501 c
    ∧ Plain c 8 ∧ 1 ≤ par c 0 1 ∧ par c 0 1 ≤ 3 ∧ ZeroPar c 1 7 ∧ ((∀ t ∈ ts, (s.twin.get t).state ≠ .off)) :=
  ⟨holding (cmd 0 0x0501 0 ([3#8] ++ z 7)) (onBoth (fun w => { w with state := .bound }) (inJob running up)), 0, cmd 0 0x0501 0 ([3#8] ++ z 7), _, rfl, ⟨.t0, by decide, running, rfl, by decide, by decide⟩, by decide +kernel⟩

theorem wit_twinsComplete_3 : ∃ (s : State) (mb : Nat) (t : Tower) (ts : List Tower), bothTowers.filter (fun t => decide ((s.twin.get t).bindMb = some mb)) = t :: ts :=
  ⟨(onT0 (fun w => { w with bindMb := some 3 }) up).onTwin (fun p => p.mod .t1 (fun w => { w with bindMb := some 3 })), 3, .t0, [.t1], by decide +kernel⟩

theorem wit_twinsComplete_4 : ∃ (s : State) (mb : Nat) (c : Cmd) (m : Nat) (ts : List Tower), ts = towersOfMask m
    ∧ ((∀ t ∈ ts, ∃ j, jobOfTower s t = some j ∧ ((s.twin.get t).state = .lost ∨ ((s.twin.get t).state = .off ∧ j.state ≠ .armed ∧ j.state ≠ .running))))
    ∧ Waiting s mb 0x0500 c ∧ Plain c 48 ∧ par c 0 1 = m ∧ m ≤ 3 ∧ par c 1 1 ≤ 1 ∧ par c 2 2 < 0x2000 ∧ ZeroPar c 0x20 16 ∧ 1 ≤ par c 0xC 4
    ∧ par c 0xC 4 ≤ 4194304 ∧ ((m = 3 → par c 4 2 ≠ par c 8 2)) ∧ ((∀ t ∈ ts, (s.twin.get t).bindMb = none ∧ (s.twin.get t).restore = none))
    ∧ s.fab.devId.isSome = true ∧ s.hbm.globalHoming = false ∧ bindTowersBad c s m = false ∧ bindFieldBad c s .t0 = false
    ∧ bindFieldBad c s .t1 = false :=
  ⟨binding, 1, bindCmd, 1, _, rfl, fun t ht => ⟨twinJob, by revert t; decide, .inl (by revert t; decide)⟩, by decide +kernel⟩

theorem wit_twinsComplete_5 : ∃ (s : State) (mb : Nat) (ts : List Tower), ts = bothTowers.filter (fun t => decide ((s.twin.get t).bindMb = some mb)) :=
  ⟨greeted 1, 1, _, rfl⟩

theorem wit_twinsComplete_5a : ∃ (s : State) (mb : Nat) (ts : List Tower), ts = bothTowers.filter (fun t => decide ((s.twin.get t).bindMb = some mb))
    ∧ ((∃ t ∈ ts, (s.twin.get t).helloSeen = true ∧ (s.twin.get t).helloAcked = true ∧ ((s.twin.get t).peerTowers ≠ (s.twin.get t).bindTowers ∨ (s.hbm.mirror.get t).bytes < (s.twin.get t).peerCellar ∨ (s.twin.get t).peerMirror < (s.hbm.cellar.get t).bytes))) :=
  ⟨greeted 2, 1, _, rfl, by decide +kernel⟩

theorem wit_twinsComplete_5b : ∃ (s : State) (mb : Nat) (ts : List Tower) (c : Cmd) (s1 : State), ts = bothTowers.filter (fun t => decide ((s.twin.get t).bindMb = some mb))
    ∧ s1 = s.onTwin (fun p => ⟨if p.t0.bindMb = some mb then helloState p.t0 else p.t0, if p.t1.bindMb = some mb then helloState p.t1 else p.t1⟩)
    ∧ ((∀ t ∈ ts, (s.twin.get t).helloSeen = true ∧ (s.twin.get t).helloAcked = true ∧ (s.twin.get t).peerTowers = (s.twin.get t).bindTowers ∧ (s.twin.get t).peerCellar ≤ (s.hbm.mirror.get t).bytes ∧ (s.hbm.cellar.get t).bytes ≤ (s.twin.get t).peerMirror))
    ∧ Running s mb 0x0500 c :=
  ⟨greeted 1, 1, _, run bindCmd, _, rfl, rfl, by decide +kernel⟩

theorem wit_twinsComplete_6a : ∃ (w : Twin), w.recover = true :=
  ⟨{ Twin.off with recover := true }, by decide +kernel⟩

theorem wit_twinsComplete_6b : ∃ (w : Twin), w.recover = false :=
  ⟨Twin.off, by decide +kernel⟩

theorem wit_twinsComplete_7 : ∃ (s : State) (mb : Nat) (c : Cmd) (m : Nat) (n : Nat) (ts : List Tower) (size : Tower → Nat) (plan : Tower → List (Nat × Nat)), ts = towersOfMask m ∧ size = (fun t => (s.twin.get t).peerCellar)
    ∧ plan = (fun t => if n = 0 then [(0, size t)] else (List.range n).map (fun i => (par c (0x10 + 16 * i) 8, par c (0x18 + 16 * i) 8)))
    ∧ Waiting s mb 0x0502 c ∧ par c 2 2 = n ∧ n ≤ 16 ∧ Plain c (16 + 16 * n) ∧ par c 0 1 = m ∧ 1 ≤ m ∧ m ≤ 3 ∧ par c 1 1 = 0 ∧ ZeroPar c 4 12
    ∧ ((∀ i, i < n → par c (0x10 + 16 * i) 8 % 8 = 0 ∧ par c (0x18 + 16 * i) 8 % 8 = 0))
    ∧ ((∀ t ∈ ts, (s.twin.get t).bindMb = none ∧ (s.twin.get t).restore = none ∧ (s.twin.get t).holding = true ∧ (s.twin.get t).peerRecover = true ∧ ((s.twin.get t).state = .bound ∨ (s.twin.get t).state = .recovering)))
    ∧ ((∀ t ∈ ts, ∀ r ∈ plan t, r.1 + r.2 ≤ size t)) :=
  ⟨restoring 0, 1, restoreCmd 0, 1, 0, _, _, _, rfl, rfl, rfl, by decide +kernel⟩

theorem wit_twinsComplete_8 : ∃ (s : State) (mb : Nat) (c : Cmd) (m : Nat) (n : Nat) (ts : List Tower) (size : Tower → Nat) (plan : Tower → List (Nat × Nat)) (x0 : Tower), ts = towersOfMask m ∧ size = (fun t => (s.hbm.cellar.get t).bytes)
    ∧ plan = (fun t => if n = 0 then [(0, size t)] else (List.range n).map (fun i => (par c (0x10 + 16 * i) 8, par c (0x18 + 16 * i) 8)))
    ∧ Waiting s mb 0x0502 c ∧ par c 2 2 = n ∧ n ≤ 16 ∧ Plain c (16 + 16 * n) ∧ par c 0 1 = m ∧ 1 ≤ m ∧ m ≤ 3 ∧ par c 1 1 = 1 ∧ ZeroPar c 4 12
    ∧ ((∀ i, i < n → par c (0x10 + 16 * i) 8 % 8 = 0 ∧ par c (0x18 + 16 * i) 8 % 8 = 0))
    ∧ ((∀ t ∈ ts, (s.twin.get t).bindMb = none ∧ (s.twin.get t).restore = none ∧ (s.twin.get t).state = .bound))
    ∧ ((∀ t ∈ ts, ∀ r ∈ plan t, r.1 + r.2 ≤ size t)) ∧ ts.head? = some x0 :=
  ⟨restoring 1, 1, restoreCmd 1, 1, 0, _, _, _, .t0, rfl, rfl, rfl, by decide +kernel⟩

theorem wit_twinsComplete_9a : ∃ (s : State) (p : Pkt), s.fab.devId = some p.dst ∧ (mirrorTower s p.dstCtx).isSome = true ∧ p.op = 1 :=
  ⟨withCtx ctxM (linked up), pkt0 1, by decide +kernel⟩

theorem wit_twinsComplete_9b : ∃ (s : State) (p : Pkt), ((s.fab.devId ≠ some p.dst ∨ (mirrorTower s p.dstCtx).isSome = false)) :=
  ⟨withCtx ctx0 (linked up), pkt0 1, by decide +kernel⟩

theorem wit_twinsComplete_10 : ∃ (s : State) (port : Nat) (p : Pkt) (n : Nat) (c : Ctx) (k : Instr) (s0 : State) (s1 : State) (s2 : State), Arrival port p k ∧ Enters s port p s0 ∧ ForContext s p n c ∧ s1 = fetchCtx n c.tower s0
    ∧ s2 = takeAck n p.ackPsn (traceFabric 6 n port c p s1) ∧ c.mirror = true ∧ underReset s1 c.tower = false ∧ isCe s1.fab.cfg p = false
    ∧ psnDiff c.rcvNxt p.psn = 0 :=
  ⟨withCtx ctxM (linked up), 0, pktWith 1 (fun p => { p with addr := 0 }), 9, ctxM, .write 0 (pktWith 1 (fun p => { p with addr := 0 })), _, _, _, .inr (by decide +kernel), ⟨by decide +kernel, .inr ⟨by decide, by decide +kernel, rfl⟩⟩, by unfold ForContext; decide +kernel, rfl, rfl, by decide +kernel⟩

theorem wit_twinsComplete_10a : ∃ (s : State) (port : Nat) (p : Pkt) (n : Nat) (c : Ctx) (k : Instr) (s0 : State) (s1 : State) (s2 : State) (s3 : State), Arrival port p k ∧ Enters s port p s0 ∧ ForContext s p n c ∧ s1 = fetchCtx n c.tower s0
    ∧ s2 = takeAck n p.ackPsn (traceFabric 6 n port c p s1) ∧ rxPacket c.tower p s2 = (s3, true) ∧ c.mirror = true ∧ underReset s1 c.tower = false
    ∧ isCe s1.fab.cfg p = false ∧ psnDiff c.rcvNxt p.psn = 0 ∧ p.op = 1 ∧ pktSized s2.fab.cfg p = true :=
  ⟨withCtx ctxM (linked up), 0, pktWith 1 (fun p => { p with addr := 0, payload := leBytes (4 * 2 ^ 37 + 9 * 2 ^ 40) 8 ++ z 24 }), 9, ctxM, .write 0 (pktWith 1 (fun p => { p with addr := 0, payload := leBytes (4 * 2 ^ 37 + 9 * 2 ^ 40) 8 ++ z 24 })), _, _, _, _, .inr (by decide +kernel), ⟨by decide +kernel, .inr ⟨by decide, by decide +kernel, rfl⟩⟩, by unfold ForContext; decide +kernel, rfl, rfl, parts_snd (by decide +kernel), by decide +kernel⟩

theorem wit_twinsComplete_10b : ∃ (s : State) (port : Nat) (p : Pkt) (n : Nat) (c : Ctx) (k : Instr) (s0 : State) (s1 : State) (s2 : State) (s3 : State), Arrival port p k ∧ Enters s port p s0 ∧ ForContext s p n c ∧ s1 = fetchCtx n c.tower s0
    ∧ s2 = takeAck n p.ackPsn (traceFabric 6 n port c p s1) ∧ rxPacket c.tower p s2 = (s3, false) ∧ c.mirror = true ∧ underReset s1 c.tower = false
    ∧ isCe s1.fab.cfg p = false ∧ psnDiff c.rcvNxt p.psn = 0 ∧ p.op = 1 ∧ pktSized s2.fab.cfg p = true :=
  ⟨withCtx ctxM (linked up), 0, pktWith 1 (fun p => { p with addr := 0, payload := leBytes (7 * 2 ^ 37) 8 ++ z 24 }), 9, ctxM, .write 0 (pktWith 1 (fun p => { p with addr := 0, payload := leBytes (7 * 2 ^ 37) 8 ++ z 24 })), _, _, _, _, .inr (by decide +kernel), ⟨by decide +kernel, .inr ⟨by decide, by decide +kernel, rfl⟩⟩, by unfold ForContext; decide +kernel, rfl, rfl, parts_snd (by decide +kernel), by decide +kernel⟩

theorem wit_twinsComplete_10c : ∃ (s : State) (port : Nat) (p : Pkt) (n : Nat) (c : Ctx) (k : Instr) (s0 : State) (s1 : State) (s2 : State), Arrival port p k ∧ Enters s port p s0 ∧ ForContext s p n c ∧ s1 = fetchCtx n c.tower s0
    ∧ s2 = takeAck n p.ackPsn (traceFabric 6 n port c p s1) ∧ c.mirror = true ∧ underReset s1 c.tower = false ∧ isCe s1.fab.cfg p = false
    ∧ psnDiff c.rcvNxt p.psn = 0 ∧ 2 ≤ p.op ∧ p.op ≤ 5 :=
  ⟨withCtx ctxM (linked up), 0, pktWith 2 (fun p => { p with addr := 0 }), 9, ctxM, .add 0 (pktWith 2 (fun p => { p with addr := 0 })), _, _, _, .inr (by decide +kernel), ⟨by decide +kernel, .inr ⟨by decide, by decide +kernel, rfl⟩⟩, by unfold ForContext; decide +kernel, rfl, rfl, by decide +kernel⟩

theorem wit_twinsComplete_11 : ∃ (s : State) (t : Tower) (r : RxRec), heldRec s t 2 = some r :=
  ⟨commitHeld commit0, .t0, heldOf (commitHeld commit0) 2, by decide +kernel⟩

theorem wit_twinsComplete_11a : ∃ (s : State) (t : Tower) (r : RxRec) (c : CommitRec), heldRec s t 2 = some r ∧ commitOf (r.data.map (·.1)) = some c
    ∧ c.streamBytes = (s.twin.get t).rxBytes ∧ c.streamCrc = ((s.twin.get t).rxCrc ^^^ 0xFFFFFFFF#32).toNat :=
  ⟨commitHeld commit0, .t0, heldOf (commitHeld commit0) 2, commit0, by decide +kernel⟩

theorem wit_twinsComplete_11b : ∃ (s : State) (t : Tower) (r : RxRec), heldRec s t 2 = some r ∧ commitOf (r.data.map (·.1)) = none :=
  ⟨badHeld, .t0, heldOf badHeld 2, by decide +kernel⟩

theorem wit_twinsComplete_11c : ∃ (s : State) (t : Tower) (r : RxRec) (c : CommitRec), heldRec s t 2 = some r ∧ commitOf (r.data.map (·.1)) = some c
    ∧ ((c.streamBytes ≠ (s.twin.get t).rxBytes ∨ c.streamCrc ≠ ((s.twin.get t).rxCrc ^^^ 0xFFFFFFFF#32).toNat)) :=
  ⟨commitHeld { commit0 with streamBytes := 8 }, .t0, heldOf (commitHeld { commit0 with streamBytes := 8 }) 2, { commit0 with streamBytes := 8 }, by decide +kernel⟩

theorem wit_twinsComplete_12a : ∃ (s : State) (t : Tower), heldRec s t 2 = none :=
  ⟨up, .t0, by decide +kernel⟩

theorem wit_twinsComplete_12b : ∃ (s : State) (t : Tower), heldRec s t 5 = none :=
  ⟨up, .t0, by decide +kernel⟩

theorem wit_twinsComplete_13a : ∃ (c : CommitRec), c.flags.testBit 4 = true :=
  ⟨{ commit0 with flags := 16 }, by decide +kernel⟩

theorem wit_twinsComplete_13b : ∃ (c : CommitRec) (w : Twin), c.flags.testBit 3 = true ∧ w.state = .recovering :=
  ⟨{ commit0 with flags := 8 }, { Twin.off with state := .recovering }, by decide +kernel⟩

theorem wit_twinsComplete_14 : ∃ (r : List CommitRec), r.length ≤ 16 :=
  ⟨List.replicate 16 commit0, by decide +kernel⟩

theorem wit_twinsComplete_15 : ∃ (c : CommitRec), c.job < 2 ^ 16 ∧ c.tower < 2 ^ 8 ∧ c.flags < 2 ^ 8 ∧ c.tick < 2 ^ 64
    ∧ c.entries < 2 ^ 32 ∧ c.dataBytes < 2 ^ 64 ∧ c.streamBytes < 2 ^ 64 ∧ c.streamCrc < 2 ^ 32 ∧ c.boundaryNs < 2 ^ 64 :=
  ⟨commit0, by decide +kernel⟩

theorem wit_twinsComplete_16 : ∃ (s : State) (t : Tower) (r : RxRec) (s1 : State) (s2 : State), s1 = s.onTwin (fun q => q.mod t (fun w => { w with helloSeen := true, peerTowers := r.off / 8 % 4, peerRecover := (r.off / 8).testBit 2, peerCellar := fieldAt (r.data.map (·.1)) 0 8, peerMirror := fieldAt (r.data.map (·.1)) 8 8, peerCommitted := if fieldAt (r.data.map (·.1)) 16 8 = 2 ^ 64 - 1 then none else some (fieldAt (r.data.map (·.1)) 16 8), peerMirrorTick := if fieldAt (r.data.map (·.1)) 24 8 = 2 ^ 64 - 1 then none else some (fieldAt (r.data.map (·.1)) 24 8) }))
    ∧ s2 = rxResume t r s1 ∧ heldRec s t 5 = some r :=
  ⟨helloHeld, .t0, heldOf helloHeld 5, _, _, rfl, rfl, by decide +kernel⟩

theorem wit_twinsComplete_16a : ∃ (s : State) (t : Tower) (r : RxRec) (s1 : State) (s2 : State), s1 = s.onTwin (fun q => q.mod t (fun w => { w with helloSeen := true, peerTowers := r.off / 8 % 4, peerRecover := (r.off / 8).testBit 2, peerCellar := fieldAt (r.data.map (·.1)) 0 8, peerMirror := fieldAt (r.data.map (·.1)) 8 8, peerCommitted := if fieldAt (r.data.map (·.1)) 16 8 = 2 ^ 64 - 1 then none else some (fieldAt (r.data.map (·.1)) 16 8), peerMirrorTick := if fieldAt (r.data.map (·.1)) 24 8 = 2 ^ 64 - 1 then none else some (fieldAt (r.data.map (·.1)) 24 8) }))
    ∧ s2 = rxResume t r s1 ∧ heldRec s t 5 = some r ∧ (s2.twin.get t).bindMb = none :=
  ⟨helloHeld, .t0, heldOf helloHeld 5, _, _, rfl, rfl, by decide +kernel⟩

theorem wit_twinsComplete_16b : ∃ (s : State) (t : Tower) (r : RxRec) (s1 : State) (s2 : State) (mb : Nat), s1 = s.onTwin (fun q => q.mod t (fun w => { w with helloSeen := true, peerTowers := r.off / 8 % 4, peerRecover := (r.off / 8).testBit 2, peerCellar := fieldAt (r.data.map (·.1)) 0 8, peerMirror := fieldAt (r.data.map (·.1)) 8 8, peerCommitted := if fieldAt (r.data.map (·.1)) 16 8 = 2 ^ 64 - 1 then none else some (fieldAt (r.data.map (·.1)) 16 8), peerMirrorTick := if fieldAt (r.data.map (·.1)) 24 8 = 2 ^ 64 - 1 then none else some (fieldAt (r.data.map (·.1)) 24 8) }))
    ∧ s2 = rxResume t r s1 ∧ heldRec s t 5 = some r ∧ (s2.twin.get t).bindMb = some mb :=
  ⟨onT0 (fun w => { w with bindMb := some 1 }) helloHeld, .t0, heldOf (onT0 (fun w => { w with bindMb := some 1 }) helloHeld) 5, _, _, 1, rfl, rfl, by decide +kernel⟩

/-- Job 7 in a program, its peer 3 on context 9. -/
def seqAt (im : List Byte) (p : Prog) : State :=
  (withCtx ctx0 (inProg { p with image := im } up)).onJob 7 (fun j => { j with ctxIndex := [(3, 9)] })
def readyOf (s : State) (op : Nat) : Prog × SeqInstr × Nat × Option Mesh :=
  (seqReady s 7 0 op).getD (prog0, ⟨0, 0, 0, 0, 0, 0, 0, 0, 0, 0, 0⟩, 0, none)
/-- A program of one transfer. -/
def xferProg (op : Byte) (n : Nat) : State :=
  seqAt ([67#8, 79#8, 76#8, 76#8, 1#8] ++ z 59 ++ [op] ++ z 1 ++ [3#8] ++ z 6 ++ [1#8] ++ z 1 ++ [64#8] ++ z 7 ++ [80#8] ++ z 4 ++ [32#8] ++ z 7) { prog0 with outstanding := List.replicate n (9, 1, none) }
def waitIns (th : Nat) : SeqInstr := { op := 5, flags := 0, peer := 0, red := 0, axis := 0, cmul := 0, cadd := 0, laddr := 0x40000100, raddr := th, bytes := 0, chunk := 0 }
def waitProg (b : Bool) : State := seqAt ([67#8, 79#8, 76#8, 76#8, 1#8] ++ z 59 ++ [5#8] ++ z 8 ++ [1#8] ++ z 1 ++ [64#8] ++ z 4 ++ [1#8] ++ z 15) { prog0 with blocked := b }
def fenceProg (o : List (Nat × Nat × Option (Nat × Nat))) : State := seqAt ([67#8, 79#8, 76#8, 76#8, 1#8] ++ z 59 ++ [6#8] ++ z 31) { prog0 with outstanding := o }
def loopProg (ls : List LoopSt) : State :=
  seqAt ([67#8, 79#8, 76#8, 76#8, 2#8] ++ z 59 ++ [4#8] ++ z 1 ++ [3#8] ++ z 5 ++ [1#8] ++ z 10 ++ [80#8] ++ z 12 ++ [7#8] ++ z 23 ++ [3#8] ++ z 7) { prog0 with pc := 1, loops := ls }
/-- An item of the copy engines of one piece: WARM of one line, COPY of one row, GATHER of one index entry. -/
def copyRun1 (op : Byte) (ext : Nat) : CopyRun :=
  { no := 1, job := 7, tick := 9, item := 0, kind := 3, towers := 1, pieces := 1, nextPiece := 0, taken := 1
    desc := z 4 ++ [op] ++ z 3 ++ [1#8] ++ z 55 ++ (leBytes 0x40000000 6 ++ [0#8, 2#8] ++ leBytes 32 4 ++ leBytes ext 4 ++ z 48)
      ++ (leBytes 0x40000400 6 ++ [0#8, 2#8] ++ leBytes 32 4 ++ leBytes 1 4 ++ z 48) ++ (leBytes 0x40000002000 6 ++ [9#8, 1#8] ++ leBytes 1 4 ++ z 52) }
def copying (op : Byte) (ext : Nat) : State :=
  (inJob { running with sheaf := some (sheaf0 9 [{ item0 with kind := 3, st := .running }]) } up).onEng (fun e => { e with runs := [copyRun1 op ext] })
/-- The same with the index entry written. -/
def indexed (op : Byte) (ext : Nat) (v : Byte) (pz : List Nat) : State :=
  engineWrite (Agent.of 3) 7 true 0x40000002000 (List.replicate 32 v) pz (copying op ext)

theorem wit_sequencerComplete_1 : ∃ (s : State) (job : Nat) (item : Nat) (op : Nat) (k : Instr) (p : Prog) (x : SeqInstr) (i : Nat) (m : Option Mesh) (n : Nat) (c : Ctx) (xf : Xfer) (s1 : State), xf = (if op = 4 then Xfer.signal (seqRemote m x i) x.laddr else .put (decide (op = 3)) (seqLocal m x i) (seqRemote m x i) x.bytes (if op = 3 then x.red % 16 else 0) (if op = 3 then x.red / 16 else 0) (x.flags.testBit 2))
    ∧ s1 = onProg job item (fun q => { q with pc := q.pc + 1 }) s
    ∧ (op, k) ∈ [(1, Instr.seqPut job item), (3, .seqPutRed job item), (4, .seqSignal job item)] ∧ seqReady s job item op = some (p, x, i, m)
    ∧ p.outstanding.length < 64 ∧ jobCtx s job (peerIndex m x i) = some n ∧ tabGet s.fab.ctxs n = some c :=
  ⟨xferProg 1 0, 7, 0, 1, .seqPut 7 0, (readyOf (xferProg 1 0) 1).1, (readyOf (xferProg 1 0) 1).2.1, (readyOf (xferProg 1 0) 1).2.2.1, (readyOf (xferProg 1 0) 1).2.2.2, 9, ctx0, _, _, rfl, rfl, by decide +kernel⟩

theorem wit_sequencerComplete_2 : ∃ (s : State) (job : Nat) (item : Nat) (p : Prog) (x : SeqInstr) (i : Nat) (m : Option Mesh) (n : Nat) (c : Ctx) (s1 : State), s1 = onProg job item (fun q => { q with pc := q.pc + 1 }) s
    ∧ seqReady s job item 2 = some (p, x, i, m) ∧ p.outstanding.length < 64 ∧ jobCtx s job (peerIndex m x i) = some n ∧ tabGet s.fab.ctxs n = some c :=
  ⟨xferProg 2 0, 7, 0, (readyOf (xferProg 2 0) 2).1, (readyOf (xferProg 2 0) 2).2.1, (readyOf (xferProg 2 0) 2).2.2.1, (readyOf (xferProg 2 0) 2).2.2.2, 9, ctx0, _, rfl, by decide +kernel⟩

theorem wit_sequencerComplete_3 : ∃ (job : Nat) (item : Nat) (op : Nat) (k : Instr), (op, k) ∈ [(1, Instr.seqPut job item), (2, .seqGet job item), (3, .seqPutRed job item), (4, .seqSignal job item)] :=
  ⟨7, 0, 2, .seqGet 7 0, by decide +kernel⟩

theorem wit_sequencerComplete_3a : ∃ (s : State) (job : Nat) (item : Nat) (op : Nat) (k : Instr), (op, k) ∈ [(1, Instr.seqPut job item), (2, .seqGet job item), (3, .seqPutRed job item), (4, .seqSignal job item)]
    ∧ seqReady s job item op = none :=
  ⟨up, 7, 0, 2, .seqGet 7 0, by decide +kernel⟩

theorem wit_sequencerComplete_3b : ∃ (s : State) (job : Nat) (item : Nat) (op : Nat) (k : Instr) (p : Prog) (x : SeqInstr) (i : Nat) (m : Option Mesh), (op, k) ∈ [(1, Instr.seqPut job item), (2, .seqGet job item), (3, .seqPutRed job item), (4, .seqSignal job item)]
    ∧ seqReady s job item op = some (p, x, i, m) ∧ 64 ≤ p.outstanding.length :=
  ⟨xferProg 1 64, 7, 0, 1, .seqPut 7 0, (readyOf (xferProg 1 64) 1).1, (readyOf (xferProg 1 64) 1).2.1, (readyOf (xferProg 1 64) 1).2.2.1, (readyOf (xferProg 1 64) 1).2.2.2, by decide +kernel⟩

theorem wit_sequencerComplete_3c : ∃ (s : State) (job : Nat) (item : Nat) (op : Nat) (k : Instr) (p : Prog) (x : SeqInstr) (i : Nat) (m : Option Mesh), ((∀ n, jobCtx s job (peerIndex m x i) = some n → tabGet s.fab.ctxs n = none))
    ∧ (op, k) ∈ [(1, Instr.seqPut job item), (2, .seqGet job item), (3, .seqPutRed job item), (4, .seqSignal job item)]
    ∧ seqReady s job item op = some (p, x, i, m) ∧ p.outstanding.length < 64 :=
  ⟨(xferProg 1 0).onFab (fun f => { f with ctxs := [] }), 7, 0, 1, .seqPut 7 0, (readyOf (xferProg 1 0) 1).1, (readyOf (xferProg 1 0) 1).2.1, (readyOf (xferProg 1 0) 1).2.2.1, (readyOf (xferProg 1 0) 1).2.2.2, fun _ _ => rfl, by decide +kernel⟩

theorem wit_sequencerComplete_4 : ∃ (s : State) (job : Nat) (item : Nat) (op : Nat) (k : Instr), (op, k) ∈ [(5, Instr.seqWait job item), (6, .seqFence job item), (7, .seqLoop job item)]
    ∧ seqReady s job item op = none :=
  ⟨up, 7, 0, 7, .seqLoop 7 0, by decide +kernel⟩

theorem wit_sequencerComplete_5 : ∃ (s : State) (job : Nat) (x : SeqInstr) (i : Nat) (m : Option Mesh) (s1 : State) (bs : List Byte) (pz : List Nat), floorRead (Agent.of 3) job (seqLocal m x i) 8 s = (s1, bs, pz) :=
  ⟨waitProg false, 7, waitIns 1, 0, none, _, _, _, parts3 _⟩

theorem wit_sequencerComplete_5a : ∃ (s : State) (job : Nat) (x : SeqInstr) (i : Nat) (m : Option Mesh) (s1 : State) (bs : List Byte) (pz : List Nat), floorRead (Agent.of 3) job (seqLocal m x i) 8 s = (s1, bs, pz)
    ∧ (BitVec.ofNat 64 x.raddr).toInt + x.cmul * (i : Int) ≤ (BitVec.ofNat 64 (leNat bs)).toInt :=
  ⟨waitProg false, 7, waitIns (2 ^ 64 - 1), 0, none, _, _, _, parts3 _, by decide +kernel⟩

theorem wit_sequencerComplete_5b : ∃ (s : State) (job : Nat) (x : SeqInstr) (i : Nat) (m : Option Mesh) (s1 : State) (bs : List Byte) (pz : List Nat), floorRead (Agent.of 3) job (seqLocal m x i) 8 s = (s1, bs, pz)
    ∧ (BitVec.ofNat 64 (leNat bs)).toInt < (BitVec.ofNat 64 x.raddr).toInt + x.cmul * (i : Int) :=
  ⟨waitProg false, 7, waitIns 1, 0, none, _, _, _, parts3 _, by decide +kernel⟩

theorem wit_sequencerComplete_6 : ∃ (s : State) (job : Nat) (item : Nat) (p : Prog) (x : SeqInstr) (i : Nat) (m : Option Mesh), seqReady s job item 5 = some (p, x, i, m) :=
  ⟨waitProg false, 7, 0, (readyOf (waitProg false) 5).1, (readyOf (waitProg false) 5).2.1, (readyOf (waitProg false) 5).2.2.1, (readyOf (waitProg false) 5).2.2.2, by decide +kernel⟩

theorem wit_sequencerComplete_7a : ∃ (s : State) (job : Nat) (item : Nat) (x : SeqInstr) (i : Nat) (m : Option Mesh), (progOf s job item).bind (blockedWait s) = some (x, i, m) :=
  ⟨waitProg true, 7, 0, waitIns 1, 0, none, by decide +kernel⟩

theorem wit_sequencerComplete_7b : ∃ (s : State) (job : Nat) (item : Nat), (progOf s job item).bind (blockedWait s) = none :=
  ⟨waitProg false, 7, 0, by decide +kernel⟩

theorem wit_sequencerComplete_8 : ∃ (s : State) (job : Nat) (item : Nat) (p : Prog) (r : SeqInstr × Nat × Option Mesh), seqReady s job item 6 = some (p, r) :=
  ⟨fenceProg [], 7, 0, (readyOf (fenceProg []) 6).1, (readyOf (fenceProg []) 6).2, by decide +kernel⟩

theorem wit_sequencerComplete_8a : ∃ (s : State) (job : Nat) (item : Nat) (p : Prog) (r : SeqInstr × Nat × Option Mesh), seqReady s job item 6 = some (p, r) ∧ p.outstanding = [] :=
  ⟨fenceProg [], 7, 0, (readyOf (fenceProg []) 6).1, (readyOf (fenceProg []) 6).2, by decide +kernel⟩

theorem wit_sequencerComplete_8b : ∃ (s : State) (job : Nat) (item : Nat) (p : Prog) (r : SeqInstr × Nat × Option Mesh), seqReady s job item 6 = some (p, r) ∧ p.outstanding ≠ [] :=
  ⟨fenceProg [(9, 1, none)], 7, 0, (readyOf (fenceProg [(9, 1, none)]) 6).1, (readyOf (fenceProg [(9, 1, none)]) 6).2, by decide +kernel⟩

theorem wit_sequencerComplete_9 : ∃ (s : State) (job : Nat) (item : Nat) (p : Prog) (x : SeqInstr) (i : Nat) (m : Option Mesh) (done : Nat) (rest : List LoopSt), done = ((p.loops.find? (fun l => decide (l.at_ = p.pc))).map (·.done)).getD 0
    ∧ rest = p.loops.filter (fun l => decide (l.at_ ≠ p.pc)) ∧ seqReady s job item 7 = some (p, x, i, m) :=
  ⟨loopProg [], 7, 0, (readyOf (loopProg []) 7).1, (readyOf (loopProg []) 7).2.1, (readyOf (loopProg []) 7).2.2.1, (readyOf (loopProg []) 7).2.2.2, _, _, rfl, rfl, by decide +kernel⟩

theorem wit_sequencerComplete_9a : ∃ (s : State) (job : Nat) (item : Nat) (p : Prog) (x : SeqInstr) (i : Nat) (m : Option Mesh) (done : Nat) (rest : List LoopSt), done = ((p.loops.find? (fun l => decide (l.at_ = p.pc))).map (·.done)).getD 0
    ∧ rest = p.loops.filter (fun l => decide (l.at_ ≠ p.pc)) ∧ seqReady s job item 7 = some (p, x, i, m) ∧ done + 1 < x.bytes :=
  ⟨loopProg [], 7, 0, (readyOf (loopProg []) 7).1, (readyOf (loopProg []) 7).2.1, (readyOf (loopProg []) 7).2.2.1, (readyOf (loopProg []) 7).2.2.2, _, _, rfl, rfl, by decide +kernel⟩

theorem wit_sequencerComplete_9b : ∃ (s : State) (job : Nat) (item : Nat) (p : Prog) (x : SeqInstr) (i : Nat) (m : Option Mesh) (done : Nat) (rest : List LoopSt), done = ((p.loops.find? (fun l => decide (l.at_ = p.pc))).map (·.done)).getD 0
    ∧ rest = p.loops.filter (fun l => decide (l.at_ ≠ p.pc)) ∧ seqReady s job item 7 = some (p, x, i, m) ∧ x.bytes ≤ done + 1 :=
  ⟨loopProg [⟨1, 0, 2⟩], 7, 0, (readyOf (loopProg [⟨1, 0, 2⟩]) 7).1, (readyOf (loopProg [⟨1, 0, 2⟩]) 7).2.1, (readyOf (loopProg [⟨1, 0, 2⟩]) 7).2.2.1, (readyOf (loopProg [⟨1, 0, 2⟩]) 7).2.2.2, _, _, rfl, rfl, by decide +kernel⟩

theorem wit_sequencerComplete_10a : ∃ (s : State) (job : Nat) (item : Nat) (r : CopyRun), ((dealPieces s).eng.runs.find? (fun r => decide (r.job = job ∧ r.item = item ∧ r.nextPiece < r.taken)) = some r) :=
  ⟨copying 0 1, 7, 0, copyRun1 0 1, by decide +kernel⟩

theorem wit_sequencerComplete_10b : ∃ (s : State) (job : Nat) (item : Nat), ((dealPieces s).eng.runs.find? (fun r => decide (r.job = job ∧ r.item = item ∧ r.nextPiece < r.taken)) = none) :=
  ⟨up, 7, 0, by decide +kernel⟩

theorem wit_sequencerComplete_11 : ∃ (r : CopyRun) (d : CopyDesc) (p : Nat), d = copyDescOf r.desc ∧ p = pieceNumber r d :=
  ⟨copyRun1 5 1, _, _, rfl, rfl⟩

theorem wit_sequencerComplete_11a : ∃ (r : CopyRun) (d : CopyDesc) (p : Nat) (ls : List Nat), d = copyDescOf r.desc ∧ p = pieceNumber r d
    ∧ ls = ((warmLines d).drop (p * 1024)).take 1024 ∧ d.op = 5 :=
  ⟨copyRun1 5 1, _, _, _, rfl, rfl, rfl, by decide +kernel⟩

theorem wit_sequencerComplete_11b : ∃ (s : State) (r : CopyRun) (d : CopyDesc) (p : Nat) (ks : List Nat) (s1 : State) (ok : Bool), d = copyDescOf r.desc ∧ p = pieceNumber r d
    ∧ ks = (List.range (min (entriesPerPiece d) (d.idx.ext.getD 0 0 - p * entriesPerPiece d))).map (fun i => p * entriesPerPiece d + i)
    ∧ indexEntries r d ks s = (s1, ok) ∧ d.op ≠ 5 ∧ hasIndex d.op = true :=
  ⟨copying 2 1, copyRun1 2 1, _, _, _, _, _, rfl, rfl, rfl, parts2 _, by decide +kernel⟩

theorem wit_sequencerComplete_11c : ∃ (r : CopyRun) (d : CopyDesc) (p : Nat) (ms : List (Nat × Nat × Nat)), d = copyDescOf r.desc ∧ p = pieceNumber r d
    ∧ ms = cutMoves (sortMoves (copyMoves d)) 0 (p * pieceBytes) ((p + 1) * pieceBytes) ∧ d.op ≠ 5 ∧ hasIndex d.op = false :=
  ⟨copyRun1 0 1, _, _, _, rfl, rfl, rfl, by decide +kernel⟩

theorem wit_sequencerComplete_12 : ∃ (s : State) (r : CopyRun) (d : CopyDesc) (k : Nat) (s1 : State) (bs : List Byte) (pz : List Nat) (v : Nat), d = copyDescOf r.desc
    ∧ engineRead (copySrc s r) r.job (indexAddr d k) (indexBytes d) s = (s1, bs, pz) ∧ v = leNat bs :=
  ⟨indexed 2 1 0 [], copyRun1 2 1, _, 0, _, _, _, _, rfl, parts3 _, rfl⟩

theorem wit_sequencerComplete_12a : ∃ (s : State) (r : CopyRun) (d : CopyDesc) (k : Nat) (s1 : State) (bs : List Byte) (pz : List Nat) (v : Nat), d = copyDescOf r.desc
    ∧ engineRead (copySrc s r) r.job (indexAddr d k) (indexBytes d) s = (s1, bs, pz) ∧ v = leNat bs ∧ pz ≠ [] :=
  ⟨indexed 2 1 0 [0x40000002000 / 32], copyRun1 2 1, _, 0, _, _, _, _, rfl, parts3 _, rfl, by decide +kernel⟩

set_option maxRecDepth 100000 in
theorem wit_sequencerComplete_12b : ∃ (s : State) (r : CopyRun) (d : CopyDesc) (k : Nat) (s1 : State) (bs : List Byte) (pz : List Nat) (v : Nat), d = copyDescOf r.desc
    ∧ engineRead (copySrc s r) r.job (indexAddr d k) (indexBytes d) s = (s1, bs, pz) ∧ v = leNat bs ∧ pz = [] ∧ v = 256 ^ indexBytes d - 1
    ∧ d.op = 2 :=
  ⟨indexed 2 1 255 [], copyRun1 2 1, _, 0, _, _, _, _, rfl, parts3 _, rfl, rfl, by decide +kernel⟩

set_option maxRecDepth 100000 in
theorem wit_sequencerComplete_12c : ∃ (s : State) (r : CopyRun) (d : CopyDesc) (k : Nat) (s1 : State) (bs : List Byte) (pz : List Nat) (v : Nat), d = copyDescOf r.desc
    ∧ engineRead (copySrc s r) r.job (indexAddr d k) (indexBytes d) s = (s1, bs, pz) ∧ v = leNat bs ∧ pz = [] ∧ v = 256 ^ indexBytes d - 1
    ∧ d.op ≠ 2 :=
  ⟨indexed 3 1 255 [], copyRun1 3 1, _, 0, _, _, _, _, rfl, parts3 _, rfl, rfl, by decide +kernel⟩

set_option maxRecDepth 100000 in
theorem wit_sequencerComplete_12d : ∃ (s : State) (r : CopyRun) (d : CopyDesc) (k : Nat) (s1 : State) (bs : List Byte) (pz : List Nat) (v : Nat), d = copyDescOf r.desc
    ∧ engineRead (copySrc s r) r.job (indexAddr d k) (indexBytes d) s = (s1, bs, pz) ∧ v = leNat bs ∧ pz = [] ∧ v < 256 ^ indexBytes d / 2
    ∧ (if d.op = 2 then d.src.ext else d.dst.ext).getD d.axis 0 ≤ v :=
  ⟨indexed 2 1 1 [], copyRun1 2 1, _, 0, _, _, _, _, rfl, parts3 _, rfl, rfl, by decide +kernel⟩

/-- Core 0 with one crew of one gang of one fragment, 32 lanes ready. -/
def g0 : FragRef := ⟨0, 0, 0, 0⟩
def kernelC : Kernel :=
  { addr := 0x40000000, bytes := 512, flags := 3, codeOffset := 256, codeBytes := 256, entry := 0, regs := 200, localKib := 128, barriers := 16
    counters := 16, gangSizes := 1, eclass := 0, spillBytes := 0, paramBytes := 0, measurement := [] }
def crew0 : Crew :=
  { job := 7, item := 0, index := 0, gangs := 1, handle := 0, kernel := kernelC, spillBase := 0, towers := 1, spillSlot := 0, bars := [], ctrs := []
    lmem := [], lpoison := [], uid := 0, exitedGangs := [] }
def frag0 : Frag := ⟨0, 0xFFFFFFFF#32, .ready, [], []⟩
def gang0 : Gang :=
  { job := 7, item := 0, crew := 0, quarter := 0, uregs := [], regs := [], poison := [], preds := [], frags := [(0, frag0)], exited := 0, draws := []
    cvtFlags := 0, pend := [], order := 0, nextSplit := 0, stores := [], fenceWait := none }
def atCore (c : Crew) (y : Gang) : State :=
  (inJob running up).onCores (fun x => { x with cores := [(0, { Core.empty with crews := [(0, c)], gangs := [(0, y)] })] })
def issuing : State := atCore crew0 gang0
def act0 : Act := ⟨g0, crew0, gang0, frag0⟩
/-- The state in which a fragment has issued. -/
def after (a : Act) (g : FragRef) (s : State) : State := onCore g.core (fun c => { c with
  cycles := c.cycles + 1, lastIssue := tabPut c.lastIssue a.gang.quarter (a.gang.order, gangKey g, g.frag) }) (wakeFences g s)
theorem issues {s : State} {g : FragRef} {rs us ps : List Nat} (a : Act) (h : actAt (wakeFences g s) g = some a ∧ fragReady (wakeFences g s) a = true
    ∧ hasTurn (wakeFences g s) a = true ∧ pendBusy a.gang rs = false ∧ (∀ u ∈ us, u ≤ 63) ∧ (∀ p ∈ ps, p ≤ 7)
    ∧ (∀ r ∈ rs, r < a.crew.kernel.regs)) : Issues s g rs us ps a (after a g s) :=
  ⟨h.1, h.2.1, h.2.2.1, h.2.2.2.1, h.2.2.2.2.1, h.2.2.2.2.2.1, h.2.2.2.2.2.2, rfl⟩
/-- A gang with one fragment, with register 1 of lane 31 poisoned, with predicate 1 of lane 0 set. -/
def gangOf (f : Frag) : Gang := { gang0 with frags := [(0, f)] }
def actOf (c : Crew) (f : Frag) : Act := ⟨g0, c, gangOf f, f⟩
def gangBad : Gang := { gang0 with poison := [(31 * 256 + 1, ())] }
def actBad : Act := { act0 with gang := gangBad }
def gangPred : Gang := { gang0 with preds := [(1, ())] }
def actPred : Act := { act0 with gang := gangPred }

theorem wit_vectorInstructionsComplete_1 : ∃ (s : State) (g : FragRef) (op : IntOp) (d : Nat) (x : Src) (y : Src) (z : Src) (a : Act) (s1 : State) (ss : List Src), intSources op x y z = ss ∧ Issues s g (srcRegs ss ++ [d]) (srcUregs ss) [] a s1
    ∧ intToPred op = false ∧ Clean a ss :=
  ⟨issuing, g0, .imad, 199, .reg 1, .ureg 63, .imm 5, act0, _, _, rfl, issues act0 (by decide +kernel), by decide +kernel⟩

theorem wit_vectorInstructionsComplete_2 : ∃ (s : State) (g : FragRef) (d : Nat) (x : Src) (y : Src) (a : Act) (s1 : State), Issues s g (srcRegs [x, y]) (srcUregs [x, y]) [d] a s1 ∧ Clean a [x, y] :=
  ⟨issuing, g0, 7, .reg 199, .ureg 63, act0, _, issues act0 (by decide +kernel), by decide +kernel⟩

theorem wit_vectorInstructionsComplete_3 : ∃ (s : State) (g : FragRef) (op : IntOp) (d : Nat) (x : Src) (y : Src) (z : Src) (a : Act) (s1 : State) (ss : List Src), intSources op x y z = ss ∧ Issues s g (srcRegs ss ++ [d]) (srcUregs ss) [] a s1
    ∧ intToPred op = false ∧ (¬Clean a ss) :=
  ⟨atCore crew0 gangBad, g0, .iadd, 2, .reg 1, .reg 3, .imm 0, actBad, _, _, rfl, issues actBad (by decide +kernel), by decide +kernel⟩

theorem wit_vectorInstructionsComplete_4 : ∃ (s : State) (g : FragRef) (d : Nat) (x : Src) (y : Src) (a : Act) (s1 : State), Issues s g (d :: srcRegs [x, y]) (srcUregs [x, y]) [] a s1 ∧ Clean a [x, y] :=
  ⟨issuing, g0, 5, .reg 1, .reg 2, act0, _, issues act0 (by decide +kernel), by decide +kernel⟩

theorem wit_vectorInstructionsComplete_5a : ∃ (y : W32), y ≠ 0#32 :=
  ⟨1#32, by decide +kernel⟩

theorem wit_vectorInstructionsComplete_6 : ∃ (s : State) (g : FragRef) (op : FpOp) (d : Nat) (x : Src) (y : Src) (z : Src) (a : Act) (s1 : State) (ss : List Src), ((∀ c, op ≠ .fset c)) ∧ fpSources op x y z = ss
    ∧ Issues s g (d :: srcRegs ss) (srcUregs ss) [] a s1 ∧ Clean a ss :=
  ⟨issuing, g0, .ffma, 5, .reg 1, .reg 2, .reg 3, act0, _, _, (fun _ h => nomatch h), rfl, issues act0 (by decide +kernel), by decide +kernel⟩

theorem wit_vectorInstructionsComplete_7 : ∃ (s : State) (g : FragRef) (d : Nat) (x : Src) (y : Src) (a : Act) (s1 : State), Issues s g (srcRegs [x, y]) (srcUregs [x, y]) [d] a s1 ∧ Clean a [x, y] :=
  ⟨issuing, g0, 7, .reg 1, .reg 2, act0, _, issues act0 (by decide +kernel), by decide +kernel⟩

theorem wit_vectorInstructionsComplete_8 : ∃ (s : State) (g : FragRef) (op : HalfOp) (d : Nat) (x : Src) (y : Src) (z : Src) (a : Act) (s1 : State) (ss : List Src), ss = (if op = .hfma2 then [x, y, z] else [x, y])
    ∧ Issues s g (d :: srcRegs ss) (srcUregs ss) [] a s1 ∧ Clean a ss :=
  ⟨issuing, g0, .hfma2, 5, .reg 1, .reg 2, .reg 3, act0, _, _, rfl, issues act0 (by decide +kernel), by decide +kernel⟩

theorem wit_vectorInstructionsComplete_9 : ∃ (s : State) (g : FragRef) (d : Nat) (x : Src) (a : Act) (s1 : State), Issues s g (d :: srcRegs [x]) (srcUregs [x]) [] a s1 ∧ Clean a [x] :=
  ⟨issuing, g0, 5, .reg 1, act0, _, issues act0 (by decide +kernel), by decide +kernel⟩

theorem wit_vectorInstructionsComplete_10 : ∃ (s : State) (g : FragRef) (d : Nat) (x : Src) (a : Act) (s1 : State), Issues s g (d :: srcRegs [x]) (srcUregs [x]) [] a s1 :=
  ⟨issuing, g0, 5, .reg 1, act0, _, issues act0 (by decide +kernel)⟩

theorem wit_vectorInstructionsComplete_10a : ∃ (s : State) (g : FragRef) (src : Fmt) (dst : Fmt) (rnd : Rnd) (sat : Bool) (d : Nat) (x : Src) (a : Act) (s1 : State) (rs : List (Nat × W32 × Bool)), Issues s g (d :: srcRegs [x]) (srcUregs [x]) [] a s1
    ∧ rs = cvtResults s1 a src dst rnd sat x ∧ Clean a [x] ∧ cvtOk src dst rnd = true :=
  ⟨issuing, g0, .scalar .fp32, .scalar .fp16, .rn, true, 5, .reg 1, act0, _, _, issues act0 (by decide +kernel), rfl, by decide +kernel⟩

theorem wit_vectorInstructionsComplete_10b : ∃ (s : State) (g : FragRef) (src : Fmt) (dst : Fmt) (rnd : Rnd) (d : Nat) (x : Src) (a : Act) (s1 : State), Issues s g (d :: srcRegs [x]) (srcUregs [x]) [] a s1 ∧ cvtOk src dst rnd = false :=
  ⟨issuing, g0, .sx4, .mx .fp32, .rn, 5, .reg 1, act0, _, issues act0 (by decide +kernel), by decide +kernel⟩

theorem wit_vectorInstructionsComplete_12 : ∃ (s : State) (g : FragRef) (d : Nat) (x : Src) (a : Act) (s1 : State), Issues s g (d :: srcRegs [x]) (srcUregs [x]) [] a s1 :=
  ⟨issuing, g0, 5, .imm 9, act0, _, issues act0 (by decide +kernel)⟩

theorem wit_vectorInstructionsComplete_13 : ∃ (s : State) (g : FragRef) (d : Nat) (p : Nat) (x : Src) (y : Src) (a : Act) (s1 : State), Issues s g (d :: srcRegs [x, y]) (srcUregs [x, y]) [p] a s1 :=
  ⟨issuing, g0, 5, 7, .reg 0, .imm 3, act0, _, issues act0 (by decide +kernel)⟩

theorem wit_vectorInstructionsComplete_14 : ∃ (s : State) (g : FragRef) (d : Nat) (p : Nat) (a : Act) (s1 : State), Issues s g [d] [] [p] a s1 :=
  ⟨issuing, g0, 5, 7, act0, _, issues act0 (by decide +kernel)⟩

theorem wit_vectorInstructionsComplete_15 : ∃ (s : State) (g : FragRef) (d : Nat) (r : Nat) (x : Src) (a : Act) (s1 : State), Issues s g (d :: r :: srcRegs [x]) (srcUregs [x]) [] a s1 ∧ Clean a [x] :=
  ⟨issuing, g0, 5, 6, .imm 31, act0, _, issues act0 (by decide +kernel), by decide +kernel⟩

theorem wit_vectorInstructionsComplete_16 : ∃ (s : State) (g : FragRef) (d : Nat) (a : Act) (s1 : State), Issues s g [d] [] [] a s1 :=
  ⟨issuing, g0, 5, act0, _, issues act0 (by decide +kernel)⟩

theorem wit_vectorInstructionsComplete_17 : ∃ (a : Act) (d : Nat) (s : State) (y : Gang), tabGet (coreAt s a.g.core).gangs (gangKey a.g) = some y ∧ d < 256 :=
  ⟨act0, 255, issuing, gang0, by decide +kernel⟩

/-- A fragment that came from a split, crews with a barrier. -/
def fragSplit : Frag := { frag0 with splits := [⟨3, 0⟩] }
def bar0 : Bar := { expect := 32, phase := 1, arrived := [], lastPhase := [], stores := [] }
def withBar (b : Bar) : Crew := { crew0 with bars := [(15, b)] }
def actBar (b : Bar) : Act := { act0 with crew := withBar b }
def barArrived : Bar := { bar0 with arrived := [0], lastPhase := [(0, 1)] }

theorem wit_barrierMisuse_1 : ∃ (s : State) (g : FragRef) (b : Src) (a : Act) (s1 : State), Issues s g (srcRegs [b]) (srcUregs [b]) [] a s1
    ∧ tabGet a.crew.bars (barIndex a b) = none :=
  ⟨issuing, g0, .imm 15, act0, _, issues act0 (by decide +kernel), by decide +kernel⟩

theorem wit_barrierMisuse_2 : ∃ (s : State) (g : FragRef) (b : Src) (n : Src) (a : Act) (s1 : State) (bar : Bar), IssuesUniform s g [b, n] a s1 ∧ tabGet a.crew.bars (uniVal a b) = some bar
    ∧ bar.arrived ≠ [] :=
  ⟨atCore (withBar barArrived) gang0, g0, .imm 15, .imm 32, actBar barArrived, _, barArrived, ⟨issues (actBar barArrived) (by decide +kernel), by decide +kernel⟩, by decide +kernel⟩

theorem wit_barrierMisuse_3 : ∃ (s : State) (g : FragRef) (b : Src) (a : Act) (s1 : State), Issues s g (srcRegs [b]) (srcUregs [b]) [] a s1 ∧ a.crew.kernel.barriers ≤ barIndex a b :=
  ⟨issuing, g0, .imm 16, act0, _, issues act0 (by decide +kernel), by decide +kernel⟩

theorem wit_barrierMisuse_4 : ∃ (s : State) (g : FragRef) (b : Src) (n : Src) (a : Act) (s1 : State), IssuesUniform s g [b, n] a s1 ∧ a.crew.kernel.barriers ≤ uniVal a b :=
  ⟨issuing, g0, .imm 16, .imm 32, act0, _, ⟨issues act0 (by decide +kernel), by decide +kernel⟩, by decide +kernel⟩

/-- A fragment that waits at a lock, one lane, a fragment with a call, a gang whose store still waits at a loft. -/
def fragLock : Frag := { frag0 with wait := .lock .crewLocal 0 [(0, 64)] 5 }
def frag1 : Frag := { frag0 with mask := 1#32 }
def fragCall : Frag := { frag0 with mask := 3#32, calls := [(0, [32]), (1, [32])] }
def page0 : GAddr := ⟨.imm 0x40000000, .imm 0⟩
def gangStore : Gang := { gang0 with stores := [9] }
def storing (c : Crew) : State := (atCore c gangStore).onLoft (fun x => { x with
  tw := x.tw.mod .t0 (fun w => { w with arrivals := [⟨9, 0x40000000, 7, some (0, 0), .store [(0x40000000, 1#8)] [], false, Agent.core⟩] }) })
def actStore : Act := { act0 with gang := gangStore }
/-- Lane 0's lock at 64, held by it; its word poisoned. -/
def crewLocked : Crew := { crew0 with lmem := (leBytes (lockTag g0 0) 8).mapIdx (fun i b => (64 + i, b)) }
def crewFree : Crew := lmemWrite 64 (z 8) false crew0
def crewPoisoned : Crew := lmemWrite 64 (z 8) true crew0

theorem wit_controlInstructionsComplete_1 : ∃ (s : State) (g : FragRef) (p : Nat) (a : Act) (s1 : State), Issues s g [] [] [p] a s1 :=
  ⟨atCore crew0 gangPred, g0, 1, actPred, _, issues actPred (by decide +kernel)⟩

theorem wit_controlInstructionsComplete_1a : ∃ (s : State) (g : FragRef) (p : Nat) (neg : Bool) (a : Act) (s1 : State), Issues s g [] [] [p] a s1 ∧ ((∀ l ∈ lanesOf a.frag.mask, predVal a.gang l p = neg)) :=
  ⟨issuing, g0, 7, true, act0, _, issues act0 (by decide +kernel), by decide +kernel⟩

theorem wit_controlInstructionsComplete_1b : ∃ (s : State) (g : FragRef) (p : Nat) (neg : Bool) (a : Act) (s1 : State), Issues s g [] [] [p] a s1 ∧ lanesOf a.frag.mask ≠ []
    ∧ ((∀ l ∈ lanesOf a.frag.mask, predVal a.gang l p ≠ neg)) :=
  ⟨issuing, g0, 7, false, act0, _, issues act0 (by decide +kernel), by decide +kernel⟩

theorem wit_controlInstructionsComplete_1c : ∃ (s : State) (g : FragRef) (p : Nat) (neg : Bool) (a : Act) (s1 : State) (taken : List Nat) (fall : List Nat), Issues s g [] [] [p] a s1
    ∧ taken = (lanesOf a.frag.mask).filter (fun l => predVal a.gang l p != neg)
    ∧ fall = (lanesOf a.frag.mask).filter (fun l => predVal a.gang l p == neg) ∧ taken ≠ [] ∧ fall ≠ [] :=
  ⟨atCore crew0 gangPred, g0, 1, false, actPred, _, _, _, issues actPred (by decide +kernel), rfl, rfl, by decide +kernel⟩

theorem wit_controlInstructionsComplete_2 : ∃ (s : State) (g : FragRef) (a : Act) (s1 : State), Issues s g [] [] [] a s1 ∧ a.frag.splits = [] :=
  ⟨issuing, g0, act0, _, issues act0 (by decide +kernel), by decide +kernel⟩

theorem wit_controlInstructionsComplete_3 : ∃ (s : State) (g : FragRef) (a : Act) (s1 : State) (sp : Split), Issues s g [] [] [] a s1
    ∧ a.frag.splits.find? (fun sp => decide (sp.reconv = a.frag.pc)) = some sp :=
  ⟨atCore crew0 (gangOf fragSplit), g0, actOf crew0 fragSplit, _, ⟨3, 0⟩, issues (actOf crew0 fragSplit) (by decide +kernel), by decide +kernel⟩

theorem wit_controlInstructionsComplete_4 : ∃ (s : State) (g : FragRef) (a : Act) (s1 : State), Issues s g [] [] [] a s1 :=
  ⟨issuing, g0, act0, _, issues act0 (by decide +kernel)⟩

theorem wit_controlInstructionsComplete_5 : ∃ (s : State) (g : FragRef) (a : Act) (s1 : State) (back : Option Nat × List Nat → Frag), Issues s g [] [] [] a s1
    ∧ back = (fun (e : Option Nat × List Nat) => { a.frag.only e.2 with calls := popCalls (a.frag.only e.2).calls, pc := e.1.getD (Config.openField s1.freeCtr), wait := .ready }) :=
  ⟨atCore crew0 (gangOf fragCall), g0, actOf crew0 fragCall, _, _, issues (actOf crew0 fragCall) (by decide +kernel), rfl⟩

theorem wit_controlInstructionsComplete_5a : ∃ (s : State) (g : FragRef) (a : Act) (s1 : State) (back : Option Nat × List Nat → Frag) (e : Option Nat × List Nat) (rest : List (Option Nat × List Nat)) (st1 : State), Issues s g [] [] [] a s1
    ∧ back = (fun (e : Option Nat × List Nat) => { a.frag.only e.2 with calls := popCalls (a.frag.only e.2).calls, pc := e.1.getD (Config.openField s1.freeCtr), wait := .ready })
    ∧ st1 = onGang g (fun y => settleGang (rest.foldl (fun z r => { z with frags := tabPut z.frags (freeEntry z) (back r) }) { y with frags := tabPut y.frags g.frag (back e) })) s1
    ∧ returnGroups a.frag = e :: rest :=
  ⟨atCore crew0 (gangOf fragCall), g0, actOf crew0 fragCall, _, _, (some 32, [0, 1]), [], _, issues (actOf crew0 fragCall) (by decide +kernel), rfl, rfl, by decide +kernel⟩

theorem wit_controlInstructionsComplete_5b : ∃ (s : State) (g : FragRef) (a : Act) (s1 : State) (back : Option Nat × List Nat → Frag) (r : Nat), Issues s g [] [] [] a s1
    ∧ back = (fun (e : Option Nat × List Nat) => { a.frag.only e.2 with calls := popCalls (a.frag.only e.2).calls, pc := e.1.getD (Config.openField s1.freeCtr), wait := .ready })
    ∧ lanesOf a.frag.mask ≠ [] ∧ ((∀ l ∈ lanesOf a.frag.mask, (tabGetD a.frag.calls l []).head? = some r)) :=
  ⟨atCore crew0 (gangOf fragCall), g0, actOf crew0 fragCall, _, _, 32, issues (actOf crew0 fragCall) (by decide +kernel), rfl, by decide +kernel⟩

theorem wit_controlInstructionsComplete_6 : ∃ (s : State) (g : FragRef) (a : Act) (s1 : State) (ids : List Nat), Issues s g [] [] [] a s1 ∧ ids = a.gang.stores.filter (isWaiting s1) :=
  ⟨storing crew0, g0, actStore, _, _, issues actStore (by decide +kernel), rfl⟩

theorem wit_controlInstructionsComplete_7 : ∃ (s : State) (g : FragRef) (a : Act) (s1 : State) (n : Nat) (k : Instr), Issues s g [] [] [] a s1
    ∧ (n, k) ∈ [(0, Instr.fenceCrew g), (1, .fenceTower g), (2, .fenceDevice g), (3, .fenceSys g)] ∧ mxstPending s1 g = false :=
  ⟨issuing, g0, act0, _, 3, .fenceSys g0, issues act0 (by decide +kernel), by decide +kernel⟩

theorem wit_controlInstructionsComplete_8 : ∃ (y : Gang) (n : Nat) (ids : List Nat), y.fenceWait = some (n, ids) ∧ n ≠ 4 :=
  ⟨{ gangStore with fenceWait := some (3, [9]) }, 3, [9], by decide +kernel⟩

theorem wit_controlInstructionsComplete_9 : ∃ (s : State) (g : FragRef) (b : Src) (n : Src) (a : Act) (s1 : State) (k : Nat) (m : Nat) (old : Option Bar), IssuesUniform s g [b, n] a s1 ∧ k = uniVal a b ∧ m = uniVal a n
    ∧ old = tabGet a.crew.bars k ∧ ((∀ x, old = some x → x.arrived = [])) ∧ k < a.crew.kernel.barriers ∧ 1 ≤ m ∧ m ≤ 32 * a.crew.gangs :=
  ⟨atCore (withBar bar0) gang0, g0, .imm 15, .imm 32, actBar bar0, _, _, _, _, ⟨issues (actBar bar0) (by decide +kernel), by decide +kernel⟩, rfl, rfl, rfl, (fun x h => by cases Option.some.inj h; rfl), by decide +kernel⟩

theorem wit_controlInstructionsComplete_10 : ∃ (s : State) (g : FragRef) (b : Src) (a : Act) (s1 : State) (bar : Bar) (k : Nat) (ls : List Nat) (again : List Nat) (first : List Nat) (bar1 : Bar), Issues s g (srcRegs [b]) (srcUregs [b]) [] a s1 ∧ k = barIndex a b
    ∧ ls = lanesOf a.frag.mask ∧ first = ls.filter (fun l => !bar.arrived.contains (g.gang * 32 + l))
    ∧ again = ls.filter (fun l => bar.arrived.contains (g.gang * 32 + l))
    ∧ bar1 = { bar with arrived := bar.arrived ++ first.map (fun l => g.gang * 32 + l), lastPhase := first.foldl (fun m l => tabPut m (g.gang * 32 + l) bar.phase) bar.lastPhase, stores := bar.stores.filter (fun e => isWaiting s1 e.2) ++ (a.gang.stores.filter (isWaiting s1)).map (fun i => (if first = [] then bar.phase + 1 else bar.phase, i)) }
    ∧ tabGet a.crew.bars k = some bar ∧ k < a.crew.kernel.barriers :=
  ⟨atCore (withBar bar0) gang0, g0, .imm 15, actBar bar0, _, bar0, _, _, _, _, _, issues (actBar bar0) (by decide +kernel), rfl, rfl, rfl, rfl, rfl, by decide +kernel⟩

theorem wit_controlInstructionsComplete_10a : ∃ (s : State) (g : FragRef) (b : Src) (a : Act) (s1 : State) (bar : Bar) (k : Nat) (ls : List Nat) (again : List Nat) (first : List Nat) (bar1 : Bar), Issues s g (srcRegs [b]) (srcUregs [b]) [] a s1 ∧ k = barIndex a b
    ∧ ls = lanesOf a.frag.mask ∧ first = ls.filter (fun l => !bar.arrived.contains (g.gang * 32 + l))
    ∧ again = ls.filter (fun l => bar.arrived.contains (g.gang * 32 + l))
    ∧ bar1 = { bar with arrived := bar.arrived ++ first.map (fun l => g.gang * 32 + l), lastPhase := first.foldl (fun m l => tabPut m (g.gang * 32 + l) bar.phase) bar.lastPhase, stores := bar.stores.filter (fun e => isWaiting s1 e.2) ++ (a.gang.stores.filter (isWaiting s1)).map (fun i => (if first = [] then bar.phase + 1 else bar.phase, i)) }
    ∧ tabGet a.crew.bars k = some bar ∧ k < a.crew.kernel.barriers ∧ again = [] :=
  ⟨atCore (withBar bar0) gang0, g0, .imm 15, actBar bar0, _, bar0, _, _, _, _, _, issues (actBar bar0) (by decide +kernel), rfl, rfl, rfl, rfl, rfl, by decide +kernel⟩

theorem wit_controlInstructionsComplete_10b : ∃ (s : State) (g : FragRef) (b : Src) (a : Act) (s1 : State) (bar : Bar) (k : Nat) (ls : List Nat) (again : List Nat) (first : List Nat) (bar1 : Bar), Issues s g (srcRegs [b]) (srcUregs [b]) [] a s1 ∧ k = barIndex a b
    ∧ ls = lanesOf a.frag.mask ∧ first = ls.filter (fun l => !bar.arrived.contains (g.gang * 32 + l))
    ∧ again = ls.filter (fun l => bar.arrived.contains (g.gang * 32 + l))
    ∧ bar1 = { bar with arrived := bar.arrived ++ first.map (fun l => g.gang * 32 + l), lastPhase := first.foldl (fun m l => tabPut m (g.gang * 32 + l) bar.phase) bar.lastPhase, stores := bar.stores.filter (fun e => isWaiting s1 e.2) ++ (a.gang.stores.filter (isWaiting s1)).map (fun i => (if first = [] then bar.phase + 1 else bar.phase, i)) }
    ∧ tabGet a.crew.bars k = some bar ∧ k < a.crew.kernel.barriers ∧ again ≠ [] :=
  ⟨atCore (withBar barArrived) gang0, g0, .imm 15, actBar barArrived, _, barArrived, _, _, _, _, _, issues (actBar barArrived) (by decide +kernel), rfl, rfl, rfl, rfl, rfl, by decide +kernel⟩

theorem wit_controlInstructionsComplete_11 : ∃ (s : State) (g : FragRef) (b : Src) (a : Act) (s1 : State) (bar : Bar) (k : Nat) (ps : List (Nat × Nat)), Issues s g (srcRegs [b]) (srcUregs [b]) [] a s1 ∧ k = barIndex a b
    ∧ ps = (lanesOf a.frag.mask).filterMap (fun l => (tabGet bar.lastPhase (g.gang * 32 + l)).map (fun p => (l, p)))
    ∧ tabGet a.crew.bars k = some bar ∧ k < a.crew.kernel.barriers :=
  ⟨atCore (withBar barArrived) gang0, g0, .imm 15, actBar barArrived, _, barArrived, _, _, issues (actBar barArrived) (by decide +kernel), rfl, rfl, by decide +kernel⟩

theorem wit_controlInstructionsComplete_11a : ∃ (s : State) (g : FragRef) (b : Src) (a : Act) (s1 : State) (bar : Bar) (k : Nat) (ps : List (Nat × Nat)), Issues s g (srcRegs [b]) (srcUregs [b]) [] a s1 ∧ k = barIndex a b
    ∧ ps = (lanesOf a.frag.mask).filterMap (fun l => (tabGet bar.lastPhase (g.gang * 32 + l)).map (fun p => (l, p)))
    ∧ tabGet a.crew.bars k = some bar ∧ k < a.crew.kernel.barriers ∧ ((∀ p ∈ ps, p.2 < bar.phase)) ∧ ((∀ e ∈ bar.stores, isWaiting s1 e.2 = false)) :=
  ⟨atCore (withBar bar0) gang0, g0, .imm 15, actBar bar0, _, bar0, _, _, issues (actBar bar0) (by decide +kernel), rfl, rfl, by decide +kernel⟩

theorem wit_controlInstructionsComplete_11b : ∃ (s : State) (g : FragRef) (b : Src) (a : Act) (s1 : State) (bar : Bar) (k : Nat) (ps : List (Nat × Nat)) (ids : List Nat), Issues s g (srcRegs [b]) (srcUregs [b]) [] a s1 ∧ k = barIndex a b
    ∧ ps = (lanesOf a.frag.mask).filterMap (fun l => (tabGet bar.lastPhase (g.gang * 32 + l)).map (fun p => (l, p)))
    ∧ ids = (releasedBy bar ((ps.map (·.2 + 1)).foldl max 0)).filter (isWaiting s1) ∧ tabGet a.crew.bars k = some bar ∧ k < a.crew.kernel.barriers
    ∧ ((∀ p ∈ ps, p.2 < bar.phase)) ∧ ids ≠ [] :=
  ⟨storing (withBar { bar0 with lastPhase := [(0, 0)], stores := [(0, 9)] }), g0, .imm 15, { actStore with crew := withBar { bar0 with lastPhase := [(0, 0)], stores := [(0, 9)] } }, _, { bar0 with lastPhase := [(0, 0)], stores := [(0, 9)] }, _, _, _, issues ({ actStore with crew := withBar { bar0 with lastPhase := [(0, 0)], stores := [(0, 9)] } }) (by decide +kernel), rfl, rfl, rfl, by decide +kernel⟩

theorem wit_controlInstructionsComplete_11c : ∃ (s : State) (g : FragRef) (b : Src) (a : Act) (s1 : State) (bar : Bar) (k : Nat) (ps : List (Nat × Nat)), Issues s g (srcRegs [b]) (srcUregs [b]) [] a s1 ∧ k = barIndex a b
    ∧ ps = (lanesOf a.frag.mask).filterMap (fun l => (tabGet bar.lastPhase (g.gang * 32 + l)).map (fun p => (l, p)))
    ∧ tabGet a.crew.bars k = some bar ∧ k < a.crew.kernel.barriers ∧ ((∃ p ∈ ps, bar.phase ≤ p.2)) :=
  ⟨atCore (withBar barArrived) gang0, g0, .imm 15, actBar barArrived, _, barArrived, _, _, issues (actBar barArrived) (by decide +kernel), rfl, rfl, by decide +kernel⟩

theorem wit_controlInstructionsComplete_12 : ∃ (s : State) (g : FragRef) (c : Src) (v : Src) (a : Act) (s1 : State), IssuesUniform s g [c, v] a s1 ∧ uniVal a c < a.crew.kernel.counters :=
  ⟨issuing, g0, .imm 15, .imm 7, act0, _, ⟨issues act0 (by decide +kernel), by decide +kernel⟩, by decide +kernel⟩

theorem wit_controlInstructionsComplete_12a : ∃ (s : State) (g : FragRef) (c : Src) (v : Src) (a : Act) (s1 : State), IssuesUniform s g [c, v] a s1 ∧ uniVal a c < a.crew.kernel.counters
    ∧ ctrReached (ctrVal a.crew (uniVal a c)) (BitVec.ofNat 32 (uniVal a v)) = true :=
  ⟨issuing, g0, .imm 15, .imm 0, act0, _, ⟨issues act0 (by decide +kernel), by decide +kernel⟩, by decide +kernel⟩

theorem wit_controlInstructionsComplete_12b : ∃ (s : State) (g : FragRef) (c : Src) (v : Src) (a : Act) (s1 : State), IssuesUniform s g [c, v] a s1 ∧ uniVal a c < a.crew.kernel.counters
    ∧ ctrReached (ctrVal a.crew (uniVal a c)) (BitVec.ofNat 32 (uniVal a v)) = false :=
  ⟨issuing, g0, .imm 15, .imm 7, act0, _, ⟨issues act0 (by decide +kernel), by decide +kernel⟩, by decide +kernel⟩

theorem wit_controlInstructionsComplete_13 : ∃ (s : State) (g : FragRef) (sp : LockSpace) (p : Nat) (addr : GAddr) (a : Act) (s1 : State) (las : List (Nat × Nat)) (st : State) (r : LockRes), Issues s g (srcRegs (lockSrcs sp addr)) (srcUregs (lockSrcs sp addr)) [p] a s1
    ∧ las = (lanesOf a.frag.mask).map (fun l => (l, lockAddr a sp addr l)) ∧ lockAttempt g a.crew.job sp las s1 = (st, r)
    ∧ Clean a (lockSrcs sp addr)
    ∧ ((sp = .crewLocal ∧ LocalOk a 8 (lockAddr a sp addr)) ∨ (sp = .global ∧ GlobalOk s1 a 2 8 (lockAddr a sp addr) ∧ lockHeldUp s1 sp las = false)) :=
  ⟨atCore crewFree (gangOf frag1), g0, .crewLocal, 6, ⟨.imm 64, .imm 0⟩, actOf crewFree frag1, _, _, _, _, issues (actOf crewFree frag1) (by decide +kernel), rfl, parts2 _, by decide +kernel⟩

theorem wit_controlInstructionsComplete_13a : ∃ (s : State) (g : FragRef) (sp : LockSpace) (p : Nat) (addr : GAddr) (a : Act) (s1 : State) (las : List (Nat × Nat)) (st : State) (r : LockRes), Issues s g (srcRegs (lockSrcs sp addr)) (srcUregs (lockSrcs sp addr)) [p] a s1
    ∧ las = (lanesOf a.frag.mask).map (fun l => (l, lockAddr a sp addr l)) ∧ lockAttempt g a.crew.job sp las s1 = (st, r)
    ∧ Clean a (lockSrcs sp addr)
    ∧ ((sp = .crewLocal ∧ LocalOk a 8 (lockAddr a sp addr)) ∨ (sp = .global ∧ GlobalOk s1 a 2 8 (lockAddr a sp addr) ∧ lockHeldUp s1 sp las = false))
    ∧ r.poisoned = [] :=
  ⟨atCore crewFree (gangOf frag1), g0, .crewLocal, 6, ⟨.imm 64, .imm 0⟩, actOf crewFree frag1, _, _, _, _, issues (actOf crewFree frag1) (by decide +kernel), rfl, parts2 _, by decide +kernel⟩

theorem wit_controlInstructionsComplete_13b : ∃ (s : State) (g : FragRef) (sp : LockSpace) (p : Nat) (addr : GAddr) (a : Act) (s1 : State) (las : List (Nat × Nat)) (st : State) (r : LockRes), Issues s g (srcRegs (lockSrcs sp addr)) (srcUregs (lockSrcs sp addr)) [p] a s1
    ∧ las = (lanesOf a.frag.mask).map (fun l => (l, lockAddr a sp addr l)) ∧ lockAttempt g a.crew.job sp las s1 = (st, r)
    ∧ Clean a (lockSrcs sp addr)
    ∧ ((sp = .crewLocal ∧ LocalOk a 8 (lockAddr a sp addr)) ∨ (sp = .global ∧ GlobalOk s1 a 2 8 (lockAddr a sp addr) ∧ lockHeldUp s1 sp las = false))
    ∧ r.poisoned ≠ [] :=
  ⟨atCore crewPoisoned (gangOf frag1), g0, .crewLocal, 6, ⟨.imm 64, .imm 0⟩, actOf crewPoisoned frag1, _, _, _, _, issues (actOf crewPoisoned frag1) (by decide +kernel), rfl, parts2 _, by decide +kernel⟩

theorem wit_controlInstructionsComplete_14 : ∃ (s : State) (g : FragRef) (x : Nat) (c : Crew), tabGet (coreAt s g.core).crews g.slot = some c ∧ lmemPoison c x 8 = false :=
  ⟨issuing, g0, 64, crew0, by decide +kernel⟩

theorem wit_controlInstructionsComplete_15 : ∃ (s : State) (g : FragRef) (a : Act) (sp : LockSpace) (p : Nat) (las : List (Nat × Nat)) (since : Nat) (st : State) (r : LockRes), lockAttempt g a.crew.job sp las (onCore g.core (fun c => { c with cycles := max c.cycles (since + 256) }) s) = (st, r)
    ∧ actAt s g = some a ∧ a.frag.wait = .lock sp p las since ∧ lockHeldUp s sp las = false ∧ gangFree s g.core a.gang = true :=
  ⟨atCore crewFree (gangOf fragLock), g0, actOf crewFree fragLock, .crewLocal, 0, [(0, 64)], 5, _, _, parts2 _, by decide +kernel⟩

theorem wit_controlInstructionsComplete_15a : ∃ (s : State) (g : FragRef) (a : Act) (sp : LockSpace) (p : Nat) (las : List (Nat × Nat)) (since : Nat) (st : State) (r : LockRes), lockAttempt g a.crew.job sp las (onCore g.core (fun c => { c with cycles := max c.cycles (since + 256) }) s) = (st, r)
    ∧ actAt s g = some a ∧ a.frag.wait = .lock sp p las since ∧ lockHeldUp s sp las = false ∧ gangFree s g.core a.gang = true ∧ r.poisoned = [] :=
  ⟨atCore crewFree (gangOf fragLock), g0, actOf crewFree fragLock, .crewLocal, 0, [(0, 64)], 5, _, _, parts2 _, by decide +kernel⟩

theorem wit_controlInstructionsComplete_15b : ∃ (s : State) (g : FragRef) (a : Act) (sp : LockSpace) (p : Nat) (las : List (Nat × Nat)) (since : Nat) (st : State) (r : LockRes), lockAttempt g a.crew.job sp las (onCore g.core (fun c => { c with cycles := max c.cycles (since + 256) }) s) = (st, r)
    ∧ actAt s g = some a ∧ a.frag.wait = .lock sp p las since ∧ lockHeldUp s sp las = false ∧ gangFree s g.core a.gang = true ∧ r.poisoned ≠ [] :=
  ⟨atCore crewPoisoned (gangOf fragLock), g0, actOf crewPoisoned fragLock, .crewLocal, 0, [(0, 64)], 5, _, _, parts2 _, by decide +kernel⟩

theorem wit_controlInstructionsComplete_16 : ∃ (s : State) (g : FragRef) (sp : LockSpace) (addr : GAddr) (a : Act) (s1 : State) (las : List (Nat × Nat)) (st : State) (r : LockRes), Issues s g (srcRegs (lockSrcs sp addr)) (srcUregs (lockSrcs sp addr)) [] a s1
    ∧ las = (lanesOf a.frag.mask).map (fun l => (l, lockAddr a sp addr l)) ∧ lockLanes g a.crew.job sp (lockTag g) (fun _ => 0) las s1 = (st, r)
    ∧ Clean a (lockSrcs sp addr)
    ∧ ((sp = .crewLocal ∧ LocalOk a 8 (lockAddr a sp addr)) ∨ (sp = .global ∧ GlobalOk s1 a 2 8 (lockAddr a sp addr) ∧ lockHeldUp s1 sp las = false))
    ∧ storesWait s1 (if sp = .global then 2 else 0) (towerOfCore g.core) a.gang.stores = false ∧ r.poisoned = [] :=
  ⟨atCore crewLocked (gangOf frag1), g0, .crewLocal, ⟨.imm 64, .imm 0⟩, actOf crewLocked frag1, _, _, _, _, issues (actOf crewLocked frag1) (by decide +kernel), rfl, parts2 _, by decide +kernel⟩

theorem wit_controlInstructionsComplete_16a : ∃ (s : State) (g : FragRef) (sp : LockSpace) (addr : GAddr) (a : Act) (s1 : State) (las : List (Nat × Nat)) (st : State) (r : LockRes), Issues s g (srcRegs (lockSrcs sp addr)) (srcUregs (lockSrcs sp addr)) [] a s1
    ∧ las = (lanesOf a.frag.mask).map (fun l => (l, lockAddr a sp addr l)) ∧ lockLanes g a.crew.job sp (lockTag g) (fun _ => 0) las s1 = (st, r)
    ∧ Clean a (lockSrcs sp addr)
    ∧ ((sp = .crewLocal ∧ LocalOk a 8 (lockAddr a sp addr)) ∨ (sp = .global ∧ GlobalOk s1 a 2 8 (lockAddr a sp addr) ∧ lockHeldUp s1 sp las = false))
    ∧ storesWait s1 (if sp = .global then 2 else 0) (towerOfCore g.core) a.gang.stores = false ∧ r.poisoned = [] ∧ r.lost = [] :=
  ⟨atCore crewLocked (gangOf frag1), g0, .crewLocal, ⟨.imm 64, .imm 0⟩, actOf crewLocked frag1, _, _, _, _, issues (actOf crewLocked frag1) (by decide +kernel), rfl, parts2 _, by decide +kernel⟩

theorem wit_controlInstructionsComplete_16b : ∃ (s : State) (g : FragRef) (sp : LockSpace) (addr : GAddr) (a : Act) (s1 : State) (las : List (Nat × Nat)) (st : State) (r : LockRes), Issues s g (srcRegs (lockSrcs sp addr)) (srcUregs (lockSrcs sp addr)) [] a s1
    ∧ las = (lanesOf a.frag.mask).map (fun l => (l, lockAddr a sp addr l)) ∧ lockLanes g a.crew.job sp (lockTag g) (fun _ => 0) las s1 = (st, r)
    ∧ Clean a (lockSrcs sp addr)
    ∧ ((sp = .crewLocal ∧ LocalOk a 8 (lockAddr a sp addr)) ∨ (sp = .global ∧ GlobalOk s1 a 2 8 (lockAddr a sp addr) ∧ lockHeldUp s1 sp las = false))
    ∧ storesWait s1 (if sp = .global then 2 else 0) (towerOfCore g.core) a.gang.stores = false ∧ r.poisoned = [] ∧ r.lost ≠ [] :=
  ⟨atCore crewFree (gangOf frag1), g0, .crewLocal, ⟨.imm 64, .imm 0⟩, actOf crewFree frag1, _, _, _, _, issues (actOf crewFree frag1) (by decide +kernel), rfl, parts2 _, by decide +kernel⟩

/-- A line the L1R holds, a load answered, a crew with a tensor descriptor, and one with a sweep header, in local memory, a copy in flight. -/
def l1rHeld : State := onCore 0 (fun c => { c with l1r := [(0x800000, (z 128, []))] }) issuing
def resp0 (ro : Bool) : LoadResp := ⟨4, ⟨g0, 4, 5, [(0, 0x40000000)], ro⟩, []⟩
def answered (ro : Bool) : State := up.onCores (fun x => { x with responses := [resp0 ro] })
def crewBox : Crew := { crew0 with lmem := [(0, 0#8), (1, 0#8), (2, 0#8), (3, 64#8), (4, 0#8), (5, 0#8), (6, 1#8), (7, 1#8), (8, 8#8), (9, 0#8), (10, 0#8), (11, 0#8), (12, 0#8), (13, 0#8), (14, 0#8), (15, 0#8), (16, 0#8), (17, 0#8), (18, 0#8), (19, 0#8), (20, 0#8), (21, 0#8), (22, 0#8), (23, 0#8), (24, 0#8), (25, 0#8), (26, 0#8), (27, 0#8), (28, 0#8), (29, 0#8), (30, 0#8), (31, 0#8), (32, 0#8), (33, 0#8), (34, 0#8), (35, 0#8), (36, 0#8), (37, 0#8), (38, 0#8), (39, 0#8), (40, 0#8), (41, 0#8), (42, 0#8), (43, 0#8), (44, 0#8), (45, 0#8), (46, 0#8), (47, 0#8), (48, 0#8), (49, 0#8), (50, 0#8), (51, 0#8), (52, 0#8), (53, 0#8), (54, 0#8), (55, 0#8), (56, 0#8), (57, 0#8), (58, 0#8), (59, 0#8), (60, 0#8), (61, 0#8), (62, 0#8), (63, 0#8)] }
def crewSweep : Crew := { crew0 with lmem := [(0, 83#8), (1, 87#8), (2, 80#8), (3, 68#8), (4, 0#8), (5, 0#8), (6, 0#8), (7, 1#8), (8, 64#8), (9, 0#8), (10, 64#8), (11, 0#8), (12, 1#8), (13, 0#8), (14, 0#8), (15, 0#8), (16, 0#8), (17, 0#8), (18, 0#8), (19, 64#8), (20, 0#8), (21, 0#8), (22, 0#8), (23, 0#8), (24, 1#8), (25, 0#8), (26, 0#8), (27, 0#8), (28, 2#8), (29, 0#8), (30, 0#8), (31, 0#8), (32, 0#8), (33, 1#8), (34, 0#8), (35, 64#8), (36, 0#8), (37, 0#8), (38, 0#8), (39, 0#8), (40, 0#8), (41, 0#8), (42, 0#8), (43, 0#8), (44, 0#8), (45, 0#8), (46, 0#8), (47, 0#8), (48, 0#8), (49, 16#8), (50, 0#8), (51, 64#8), (52, 0#8), (53, 0#8), (54, 0#8), (55, 0#8), (56, 0#8), (57, 0#8), (58, 0#8), (59, 0#8), (60, 0#8), (61, 0#8), (62, 0#8), (63, 0#8)] }
def crewBadSweep : Crew := { crewSweep with lmem := tabPut crewSweep.lmem 0 0#8 }
def copyIn : ACopy := ⟨4, 0, 0, 7, 0, 3, none, some (0x40000000, z 32, []), false⟩
def tag0 (w d : Nat) (ls : List (Nat × Nat)) : LoadTag := { g := g0, width := w, dst := d, lanes := ls, viaL1r := false }
/-- What LD.RO does with one line: read where the L1R holds it, wait where it is missing, request it else. -/
def roStep (a : Act) (g : FragRef) (w d : Nat) (tag : List (Nat × Nat) → LoadTag) (z : State) (p : Nat × List (Nat × Nat)) : State :=
  match tabGet (coreAt z g.core).l1r (p.1 / 128), tabGet (coreAt z g.core).l1rMiss (p.1 / 128) with
  | some line, _ => onGang g (fun y => (l1rData line (tag p.2)).foldl (fun u v => loadRegs v.1 d w v.2.1 v.2.2 u) y) z
  | none, some ws => onGang g (addPend d (widthRegs w) z.cores.nextTag) (onCore g.core (fun y => { y with
      l1rMiss := tabPut y.l1rMiss (p.1 / 128) (ws ++ [(z.cores.nextTag, tag p.2)]) }) (z.onCores (fun y => { y with nextTag := z.cores.nextTag + 1 })))
  | none, none => onGang g (addPend d (widthRegs w) z.cores.nextTag) (onCore g.core (fun y => { y with
      l1rMiss := tabPut y.l1rMiss (p.1 / 128) [(z.cores.nextTag, tag p.2)] })
      (loftSend a p.1 (.load { tag p.2 with lanes := [(0, p.1)], viaL1r := true }) z).1)

theorem wit_coreMemoryComplete_1 : ∃ (s : State) (g : FragRef) (w : Nat) (d : Nat) (x : Src) (a : Act) (s1 : State), Issues s g (regRun d (widthRegs w) ++ srcRegs [x]) (srcUregs [x]) [] a s1
    ∧ mxstPending s g = false ∧ Clean a [x] ∧ LocalOk a w (fun l => (srcVal a.gang l x).toNat) :=
  ⟨issuing, g0, 16, 5, .imm 0, act0, _, issues act0 (by decide +kernel), by decide +kernel⟩

theorem wit_coreMemoryComplete_2 : ∃ (s : State) (g : FragRef) (w : Nat) (r : Nat) (x : Src) (a : Act) (s1 : State), Issues s g (regRun r (widthRegs w) ++ srcRegs [x]) (srcUregs [x]) [] a s1
    ∧ mxstPending s g = false ∧ Clean a [x] ∧ LocalOk a w (fun l => (srcVal a.gang l x).toNat) :=
  ⟨issuing, g0, 1, 5, .imm 131071, act0, _, issues act0 (by decide +kernel), by decide +kernel⟩

theorem wit_coreMemoryComplete_4 : ∃ (s : State) (g : FragRef) (op : RedOp) (ty : RedTy) (dst : Option Nat) (x : Src) (v : Nat) (k : Nat) (a : Act) (s1 : State) (n : Nat) (run : Crew × List (Nat × List Byte)) (st1 : State), n = redBytes op ty
    ∧ Issues s g (atomRegs op ty dst v k ++ srcRegs [x]) (srcUregs [x]) [] a s1
    ∧ run = (openOrder s1.freeCtr (lanesOf a.frag.mask)).foldl (fun (acc : Crew × List (Nat × List Byte)) l => let old := lmemRead acc.1 (srcVal a.gang l x).toNat n; (lmemWrite (srcVal a.gang l x).toNat (leBytes (redWord op ty (leNat old) (wideVal a.gang l v n).toNat (wideVal a.gang l k n).toNat) n) false acc.1, acc.2 ++ [(l, old)])) (a.crew, [])
    ∧ st1 = onCrew g.core g.slot (fun _ => run.1) s1.draw ∧ mxstPending s g = false ∧ atomlOk op ty = true
    ∧ Clean a (((atomRegs op ty none v k).map Src.reg) ++ [x]) ∧ LocalOk a n (fun l => (srcVal a.gang l x).toNat)
    ∧ ((∀ l ∈ lanesOf a.frag.mask, lmemPoison a.crew (srcVal a.gang l x).toNat n = false)) :=
  ⟨atCore crew0 (gangOf frag1), g0, .add, .fp32, some 5, .imm 64, 6, 6, actOf crew0 frag1, _, _, _, _, rfl, issues (actOf crew0 frag1) (by decide +kernel), rfl, rfl, by decide +kernel⟩

theorem wit_coreMemoryComplete_4a : ∃ (s : State) (g : FragRef) (op : RedOp) (ty : RedTy) (dst : Option Nat) (x : Src) (v : Nat) (k : Nat) (a : Act) (s1 : State) (n : Nat) (run : Crew × List (Nat × List Byte)) (st1 : State) (d : Nat), n = redBytes op ty
    ∧ Issues s g (atomRegs op ty dst v k ++ srcRegs [x]) (srcUregs [x]) [] a s1
    ∧ run = (openOrder s1.freeCtr (lanesOf a.frag.mask)).foldl (fun (acc : Crew × List (Nat × List Byte)) l => let old := lmemRead acc.1 (srcVal a.gang l x).toNat n; (lmemWrite (srcVal a.gang l x).toNat (leBytes (redWord op ty (leNat old) (wideVal a.gang l v n).toNat (wideVal a.gang l k n).toNat) n) false acc.1, acc.2 ++ [(l, old)])) (a.crew, [])
    ∧ st1 = onCrew g.core g.slot (fun _ => run.1) s1.draw ∧ mxstPending s g = false ∧ atomlOk op ty = true
    ∧ Clean a (((atomRegs op ty none v k).map Src.reg) ++ [x]) ∧ LocalOk a n (fun l => (srcVal a.gang l x).toNat)
    ∧ ((∀ l ∈ lanesOf a.frag.mask, lmemPoison a.crew (srcVal a.gang l x).toNat n = false)) ∧ dst = some d :=
  ⟨atCore crew0 (gangOf frag1), g0, .add, .fp32, some 5, .imm 64, 6, 6, actOf crew0 frag1, _, _, _, _, 5, rfl, issues (actOf crew0 frag1) (by decide +kernel), rfl, rfl, by decide +kernel⟩

theorem wit_coreMemoryComplete_4b : ∃ (s : State) (g : FragRef) (op : RedOp) (ty : RedTy) (dst : Option Nat) (x : Src) (v : Nat) (k : Nat) (a : Act) (s1 : State) (n : Nat) (run : Crew × List (Nat × List Byte)) (st1 : State), n = redBytes op ty
    ∧ Issues s g (atomRegs op ty dst v k ++ srcRegs [x]) (srcUregs [x]) [] a s1
    ∧ run = (openOrder s1.freeCtr (lanesOf a.frag.mask)).foldl (fun (acc : Crew × List (Nat × List Byte)) l => let old := lmemRead acc.1 (srcVal a.gang l x).toNat n; (lmemWrite (srcVal a.gang l x).toNat (leBytes (redWord op ty (leNat old) (wideVal a.gang l v n).toNat (wideVal a.gang l k n).toNat) n) false acc.1, acc.2 ++ [(l, old)])) (a.crew, [])
    ∧ st1 = onCrew g.core g.slot (fun _ => run.1) s1.draw ∧ mxstPending s g = false ∧ atomlOk op ty = true
    ∧ Clean a (((atomRegs op ty none v k).map Src.reg) ++ [x]) ∧ LocalOk a n (fun l => (srcVal a.gang l x).toNat)
    ∧ ((∀ l ∈ lanesOf a.frag.mask, lmemPoison a.crew (srcVal a.gang l x).toNat n = false)) ∧ dst = none :=
  ⟨atCore crew0 (gangOf frag1), g0, .add, .fp32, none, .imm 64, 6, 6, actOf crew0 frag1, _, _, _, _, rfl, issues (actOf crew0 frag1) (by decide +kernel), rfl, rfl, by decide +kernel⟩

theorem wit_coreMemoryComplete_5 : ∃ (s : State) (g : FragRef) (w : Nat) (d : Nat) (x : GAddr) (a : Act) (s1 : State), Issues s g (regRun d (widthRegs w) ++ srcRegs [x.lo, x.hi]) (srcUregs [x.lo, x.hi]) [] a s1
    ∧ Clean a [x.lo, x.hi] ∧ widthOk w = true ∧ GlobalOk s1 a 0 w (fun l => gaddrVal a.gang l x) :=
  ⟨issuing, g0, 4, 5, page0, act0, _, issues act0 (by decide +kernel), by decide +kernel⟩

theorem wit_coreMemoryComplete_6 : ∃ (s : State) (g : FragRef) (w : Nat) (d : Nat) (x : GAddr) (a : Act) (s1 : State) (step : State → Nat × List (Nat × Nat) → State) (tag : List (Nat × Nat) → LoadTag), Issues s g (regRun d (widthRegs w) ++ srcRegs [x.lo, x.hi]) (srcUregs [x.lo, x.hi]) [] a s1
    ∧ tag = (fun ls => { g := g, width := w, dst := d, lanes := ls, viaL1r := false })
    ∧ ((∀ z p line, tabGet (coreAt z g.core).l1r (p.1 / 128) = some line → step z p = onGang g (fun y => (l1rData line (tag p.2)).foldl (fun u v => loadRegs v.1 d w v.2.1 v.2.2 u) y) z))
    ∧ ((∀ z p ws, tabGet (coreAt z g.core).l1r (p.1 / 128) = none → tabGet (coreAt z g.core).l1rMiss (p.1 / 128) = some ws → step z p = onGang g (addPend d (widthRegs w) z.cores.nextTag) (onCore g.core (fun y => { y with l1rMiss := tabPut y.l1rMiss (p.1 / 128) (ws ++ [(z.cores.nextTag, tag p.2)]) }) (z.onCores (fun y => { y with nextTag := z.cores.nextTag + 1 })))))
    ∧ ((∀ z p, tabGet (coreAt z g.core).l1r (p.1 / 128) = none → tabGet (coreAt z g.core).l1rMiss (p.1 / 128) = none → step z p = onGang g (addPend d (widthRegs w) z.cores.nextTag) (onCore g.core (fun y => { y with l1rMiss := tabPut y.l1rMiss (p.1 / 128) [(z.cores.nextTag, tag p.2)] }) (loftSend a p.1 (.load { tag p.2 with lanes := [(0, p.1)], viaL1r := true }) z).1)))
    ∧ Clean a [x.lo, x.hi] ∧ widthOk w = true ∧ GlobalOk s1 a 0 w (fun l => gaddrVal a.gang l x) :=
  ⟨l1rHeld, g0, 4, 5, page0, act0, _, roStep act0 g0 4 5 (tag0 4 5), _, issues act0 (by decide +kernel), rfl, (fun z p line h => by simp only [roStep, h, tag0]), (fun z p ws h h2 => by simp only [roStep, h, h2, tag0]), (fun z p h h2 => by simp only [roStep, h, h2, tag0]), by decide +kernel⟩

theorem wit_coreMemoryComplete_7 : ∃ (s : State) (id : Nat) (r : LoadResp) (s1 : State), s1 = s.onCores (fun x => { x with responses := x.responses.filter (fun y => y.id ≠ id) })
    ∧ s.cores.responses.find? (fun r => decide (r.id = id)) = some r :=
  ⟨answered false, 4, resp0 false, _, rfl, by decide +kernel⟩

theorem wit_coreMemoryComplete_7a : ∃ (s : State) (id : Nat) (r : LoadResp) (s1 : State), s1 = s.onCores (fun x => { x with responses := x.responses.filter (fun y => y.id ≠ id) })
    ∧ s.cores.responses.find? (fun r => decide (r.id = id)) = some r ∧ r.tag.viaL1r = false :=
  ⟨answered false, 4, resp0 false, _, rfl, by decide +kernel⟩

theorem wit_coreMemoryComplete_7b : ∃ (s : State) (id : Nat) (r : LoadResp) (s1 : State) (la : Nat) (line : List Byte × List Nat), s1 = s.onCores (fun x => { x with responses := x.responses.filter (fun y => y.id ≠ id) })
    ∧ la = ((r.tag.lanes.head?).map (·.2)).getD 0 / 128 ∧ line = (r.old.flatMap (·.2.1), (r.old.filter (fun e => e.2.2)).map (·.1))
    ∧ s.cores.responses.find? (fun r => decide (r.id = id)) = some r ∧ r.tag.viaL1r = true :=
  ⟨answered true, 4, resp0 true, _, _, _, rfl, rfl, rfl, by decide +kernel⟩

theorem wit_coreMemoryComplete_8 : ∃ (s : State) (id : Nat), s.cores.responses.find? (fun r => decide (r.id = id)) = none :=
  ⟨up, 4, by decide +kernel⟩

theorem wit_coreMemoryComplete_9 : ∃ (s : State) (g : FragRef) (w : Nat) (r : Nat) (x : GAddr) (a : Act) (s1 : State) (groups : List (Nat × List (Nat × Nat))) (sent : State × List Nat), Issues s g (regRun r (widthRegs w) ++ srcRegs [x.lo, x.hi]) (srcUregs [x.lo, x.hi]) [] a s1
    ∧ groups = lineGroups ((openOrder s1.freeCtr (lanesOf a.frag.mask)).map (fun l => (l, gaddrVal a.gang l x)))
    ∧ sent = sendStores a w r groups s1.draw ∧ Clean a [x.lo, x.hi] ∧ widthOk w = true ∧ GlobalOk s1 a 1 w (fun l => gaddrVal a.gang l x) :=
  ⟨issuing, g0, 4, 5, page0, act0, _, _, _, issues act0 (by decide +kernel), rfl, rfl, by decide +kernel⟩

theorem wit_coreMemoryComplete_10 : ∃ (a : Act) (w : Nat) (r : Nat) (l : Nat) (x : Nat) (s : State) (t : Tower), t = homeTower s (x / 128 * 128) ∧ widthOk w = true ∧ x % w = 0
    ∧ (storeBytes a.gang l r w).2 = false :=
  ⟨act0, 16, 5, 0, 0x40000010, up, _, rfl, by decide +kernel⟩

theorem wit_coreMemoryComplete_11 : ∃ (s : State) (g : FragRef) (op : RedOp) (ty : RedTy) (o : MemOrder) (sc : MemScope) (d : Nat) (x : GAddr) (v : Nat) (k : Nat) (a : Act) (s1 : State) (n : Nat) (groups : List (Nat × List (Nat × Nat))) (sent : State × List Nat) (st1 : State), n = redBytes op ty
    ∧ Issues s g (atomRegs op ty (some d) v k ++ srcRegs [x.lo, x.hi]) (srcUregs [x.lo, x.hi]) [] a s1
    ∧ groups = lineGroups ((openOrder s1.freeCtr (lanesOf a.frag.mask)).map (fun l => (l, gaddrVal a.gang l x)))
    ∧ sent = sendOps a op ty (some d) v k groups s1.draw ∧ st1 = noteStores g sent.2 (l1rForget g.core (groups.map (fun p => p.1 / 128)) sent.1)
    ∧ Clean a [x.lo, x.hi] ∧ GlobalOk s1 a 2 n (fun l => gaddrVal a.gang l x)
    ∧ ((isRelease o = true → storesWait s1 (scopeNum sc) (towerOfCore g.core) a.gang.stores = false)) :=
  ⟨issuing, g0, .cas, .int64, .acqRel, .device, 5, page0, 7, 9, act0, _, _, _, _, _, rfl, issues act0 (by decide +kernel), rfl, rfl, rfl, by decide +kernel⟩

theorem wit_coreMemoryComplete_12 : ∃ (s : State) (g : FragRef) (op : RedOp) (ty : RedTy) (o : MemOrder) (sc : MemScope) (x : GAddr) (v : Nat) (a : Act) (s1 : State) (n : Nat) (groups : List (Nat × List (Nat × Nat))) (sent : State × List Nat) (st1 : State), n = redBytes op ty
    ∧ Issues s g (atomRegs op ty none v v ++ srcRegs [x.lo, x.hi]) (srcUregs [x.lo, x.hi]) [] a s1
    ∧ groups = lineGroups ((openOrder s1.freeCtr (lanesOf a.frag.mask)).map (fun l => (l, gaddrVal a.gang l x)))
    ∧ sent = sendOps a op ty none v v groups s1.draw ∧ st1 = noteStores g sent.2 (l1rForget g.core (groups.map (fun p => p.1 / 128)) sent.1)
    ∧ op ≠ .cas ∧ Clean a [x.lo, x.hi] ∧ GlobalOk s1 a 2 n (fun l => gaddrVal a.gang l x)
    ∧ ((isRelease o = true → storesWait s1 (scopeNum sc) (towerOfCore g.core) a.gang.stores = false)) :=
  ⟨issuing, g0, .add, .bf16, .acqRel, .device, page0, 7, act0, _, _, _, _, _, rfl, issues act0 (by decide +kernel), rfl, rfl, rfl, by decide +kernel⟩

theorem wit_coreMemoryComplete_13 : ∃ (s : State) (g : FragRef) (src : GAddr) (dst : Src) (n : Src) (c : Src) (a : Act) (s1 : State) (x : Nat) (d : Nat) (m : Nat) (st1 : State) (data : List Byte) (pz : List Nat), IssuesUniform s g [src.lo, src.hi, dst, n, c] a s1 ∧ x = gaddrVal a.gang 0 src
    ∧ d = uniVal a dst ∧ m = uniVal a n ∧ engineRead Agent.core a.crew.job x m s1 = (st1, data, pz) ∧ mxstPending s1 g = false
    ∧ copyFull s1 g.core = false ∧ coreStoresTo s1 g.core x m = false ∧ copyCountBad m = false ∧ x % 32 = 0 ∧ d % 32 = 0
    ∧ extentCause s1 a 0 x m = none ∧ d + m ≤ a.crew.kernel.localKib * 1024 ∧ uniVal a c < a.crew.kernel.counters :=
  ⟨issuing, g0, page0, .imm 32, .imm 64, .imm 15, act0, _, _, _, _, _, _, _, ⟨issues act0 (by decide +kernel), by decide +kernel⟩, rfl, rfl, rfl, parts3 _, by decide +kernel⟩

theorem wit_coreMemoryComplete_14 : ∃ (s : State) (g : FragRef) (src : Src) (dst : GAddr) (n : Src) (c : Src) (a : Act) (s1 : State) (x : Nat) (d : Nat) (m : Nat), IssuesUniform s g [src, dst.lo, dst.hi, n, c] a s1 ∧ x = uniVal a src
    ∧ d = gaddrVal a.gang 0 dst ∧ m = uniVal a n ∧ mxstPending s1 g = false ∧ copyFull s1 g.core = false ∧ copyCountBad m = false ∧ x % 32 = 0
    ∧ d % 32 = 0 ∧ extentCause s1 a 1 d m = none ∧ x + m ≤ a.crew.kernel.localKib * 1024 ∧ uniVal a c < a.crew.kernel.counters :=
  ⟨issuing, g0, .imm 32, page0, .imm 64, .imm 15, act0, _, _, _, _, ⟨issues act0 (by decide +kernel), by decide +kernel⟩, rfl, rfl, rfl, by decide +kernel⟩

theorem wit_coreMemoryComplete_15 : ∃ (s : State) (g : FragRef) (src : Src) (dst : Src) (n : Src) (c : Src) (a : Act) (s1 : State) (x : Nat) (d : Nat) (m : Nat), IssuesUniform s g [src, dst, n, c] a s1 ∧ x = uniVal a src ∧ d = uniVal a dst
    ∧ m = uniVal a n ∧ mxstPending s1 g = false ∧ copyFull s1 g.core = false ∧ copyCountBad m = false ∧ x % 32 = 0 ∧ d % 32 = 0
    ∧ x + m ≤ a.crew.kernel.localKib * 1024 ∧ d + m ≤ a.crew.kernel.localKib * 1024 ∧ uniVal a c < a.crew.kernel.counters :=
  ⟨issuing, g0, .imm 32, .imm 64, .imm 64, .imm 15, act0, _, _, _, _, ⟨issues act0 (by decide +kernel), by decide +kernel⟩, rfl, rfl, rfl, by decide +kernel⟩

theorem wit_coreMemoryComplete_16 : ∃ (s : State) (g : FragRef) (desc : Src) (o : List Src) (e : List Src) (dst : Src) (c : Src) (a : Act) (s1 : State) (bs : List Byte) (t : Tensor) (rows : List (Option Nat × Nat × Nat)) (reads : List (Nat × Nat)) (lo : Nat) (hi : Nat) (run : State × List Byte × List Nat), IssuesUniform s g ([desc, dst, c] ++ o ++ e) a s1
    ∧ bs = lmemRead a.crew (uniVal a desc) 64 ∧ t = { tensorOf bs with shard := List.replicate 6 0 }
    ∧ rows = boxRows t (o.map (uniVal a)) (e.map (uniVal a)) ∧ reads = rows.filterMap (fun r => r.1.map (fun x => (x, r.2.1)))
    ∧ lo = (reads.map (·.1)).foldl min ((reads.head?.map (·.1)).getD 0) ∧ hi = (reads.map (fun r => r.1 + r.2)).foldl max 0
    ∧ boxRun a.crew.job (uniVal a dst) rows s1 = run ∧ mxstPending s1 g = false ∧ copyFull s1 g.core = false
    ∧ coreStoresTo s1 g.core lo (hi - lo) = false ∧ ((reads ≠ [] → extentCause s1 a 0 lo (hi - lo) = none))
    ∧ uniVal a desc + 64 ≤ a.crew.kernel.localKib * 1024 ∧ lmemPoison a.crew (uniVal a desc) 64 = false
    ∧ tensorOk (sliceBytes bs 0 0x39 ++ List.replicate 7 0) = true ∧ t.rank ≤ o.length ∧ t.rank ≤ e.length ∧ tensorAligned t = true
    ∧ uniVal a desc % 32 = 0 ∧ uniVal a dst % 32 = 0 ∧ (o.map (uniVal a)).getD 0 0 % (unitOf t.dtype).1 = 0
    ∧ (e.map (uniVal a)).getD 0 0 % (unitOf t.dtype).1 = 0 ∧ uniVal a dst + boxBytes t (e.map (uniVal a)) ≤ a.crew.kernel.localKib * 1024
    ∧ uniVal a c < a.crew.kernel.counters :=
  ⟨atCore crewBox gang0, g0, .imm 0, [.imm 0], [.imm 16], .imm 64, .imm 15, { act0 with crew := crewBox }, _, _, _, _, _, _, _, _, ⟨issues ({ act0 with crew := crewBox }) (by decide +kernel), by decide +kernel⟩, rfl, rfl, rfl, rfl, rfl, rfl, rfl, by decide +kernel⟩

theorem wit_coreMemoryComplete_17 : ∃ (s : State) (core : Nat) (id : Nat) (c : ACopy) (s1 : State) (s2 : State), s1 = (match c.toLocal with | some (d, bs, pz) => if (tabGet (coreAt s core).crews c.slot).map (·.uid) = some c.uid then onCrew core c.slot (fun y => { lmemWrite d bs false y with lpoison := pz.foldl (fun m w => tabPut m w ()) (lmemWrite d bs false y).lpoison }) s else s | none => s)
    ∧ s2 = (match c.toGlobal with | some (d, bs, pz) => engineWrite Agent.core c.job false d bs pz s1 | none => s1)
    ∧ (coreAt s core).copies.find? (fun c => decide (c.id = id) && !c.landed) = some c :=
  ⟨onCore 5 (fun c => { c with copies := [copyIn] }) up, 5, 4, copyIn, _, _, rfl, rfl, by decide +kernel⟩

theorem wit_coreMemoryComplete_18 : ∃ (s : State) (core : Nat) (id : Nat), (coreAt s core).copies.find? (fun c => decide (c.id = id) && !c.landed) = none :=
  ⟨up, 5, 4, by decide +kernel⟩

/-- Uniform registers of an MMA: strides of 256 bytes. -/
def gangMma : Gang := { gang0 with uregs := [(2, 0x00080008#32)] }
def actMma : Act := { act0 with gang := gangMma }
def mst0 : MxEntry := ⟨0, 0, 0, 0, .mxst [(0, z 32, false)], 4⟩
def mld0 : MxEntry := ⟨0, 0, 0, 0, .mxld (.scalar .fp16) 8 0 1, 4⟩
def mma0 (z : Bool) : MxEntry := ⟨0, 0, 0, 0, .mma .m16n128 (.scalar .e4m3) (.scalar .e4m3) z 8 0 0 256 256, 5⟩
def chain0 : Chain := ⟨0, 0, .m16n128, false, 8, [], true, [4]⟩
/-- The matrix array of core 0: the queue and the chains of quarter 3; the array taken by it. -/
def arrayOf (es : List MxEntry) (cs : List Chain) : State := onCore 0 (fun c => { c with mxq := [(3, es)], chains := [(3, cs)] }) issuing
def arrayBusy (e : MxEntry) : State := onCore 0 (fun c => { c with mxTaken := some 3 }) (arrayOf [e] [])
def waitingMma : State := onCore 0 (fun c => { c with mxTaken := some 0, mxq := [(0, [mst0]), (3, [mma0 false])], chains := [(3, [chain0])] }) issuing
def poisonA : State := onCrew 0 0 (fun w => lmemWrite 0 (z 8) true w) (arrayOf [mma0 true] [])

theorem wit_matrixInstructionsComplete_1 : ∃ (s : State) (g : FragRef) (sh : MmaShape) (fa : Fmt) (fb : Fmt) (z : Bool) (c : Nat) (ua : Nat) (ub : Nat) (us : Nat) (a : Act) (s1 : State) (k : Nat) (grp : Nat) (int : Bool) (m : Nat) (n : Nat) (x : Nat) (y : Nat) (sx : Nat) (sy : Nat) (cont : Bool), IssuesMatrix s g [ua, ub, us] a s1
    ∧ cont = (!z && continues (coreAt s1 g.core) a.gang.quarter g.slot g.gang sh int c) ∧ x = (uregVal a.gang ua).toNat * 32
    ∧ y = (uregVal a.gang ub).toNat * 32 ∧ sx = bitsOf (uregVal a.gang us).toNat 15 0 * 32 ∧ sy = bitsOf (uregVal a.gang us).toNat 31 16 * 32
    ∧ mmaPair fa fb = some (k, grp, int) ∧ shapeMN sh = (m, n) ∧ noMma a = false ∧ fragRegsBad a c (shapeRegs sh) = false
    ∧ (cont = true ∨ pendBusy a.gang (regRun c (shapeRegs sh)) = false) ∧ mxRowBytes fa k ≤ sx ∧ mxRowBytes fb k ≤ sy
    ∧ x + (m - 1) * sx + mxRowBytes fa k ≤ a.crew.kernel.localKib * 1024 ∧ y + (n - 1) * sy + mxRowBytes fb k ≤ a.crew.kernel.localKib * 1024
    ∧ ((z = true ∨ cont = true ∨ ∀ l, l < 32 → ∀ r ∈ regRun c (shapeRegs sh), regPoison a.gang l r = false)) :=
  ⟨atCore crew0 gangMma, g0, .m16n128, .scalar .e4m3, .scalar .e4m3, false, 8, 0, 0, 2, actMma, _, 256, 32, false, 16, 128, _, _, _, _, _, ⟨issues actMma (by decide +kernel), by decide +kernel, by decide +kernel⟩, rfl, rfl, rfl, rfl, rfl, by decide +kernel⟩

theorem wit_matrixInstructionsComplete_2 : ∃ (sh : MmaShape) (fa : Fmt) (fb : Fmt) (k : Nat) (grp : Nat) (int : Bool) (i : Nat) (j : Nat) (m : Nat) (n : Nat) (key : Nat), key = j % 32 * 256 + i * (n / 32) + j / 32 ∧ mmaPair fa fb = some (k, grp, int)
    ∧ shapeMN sh = (m, n) ∧ i < m ∧ j < n :=
  ⟨.m16n128, .scalar .e4m3, .scalar .e4m3, 256, 32, false, 15, 127, 16, 128, _, rfl, by decide +kernel⟩

theorem wit_matrixInstructionsComplete_3 : ∃ (s : State) (core : Nat) (e : MxEntry) (w : Crew) (sh : MmaShape) (fa : Fmt) (fb : Fmt) (k : Nat) (grp : Nat) (int : Bool) (m : Nat) (n : Nat) (cr : Nat) (x : Nat) (y : Nat) (sx : Nat) (sy : Nat), e.op = .mma sh fa fb true cr x y sx sy ∧ tabGet (coreAt s core).crews e.slot = some w
    ∧ mmaPair fa fb = some (k, grp, int) ∧ shapeMN sh = (m, n) :=
  ⟨arrayOf [mma0 true] [], 0, mma0 true, crew0, .m16n128, .scalar .e4m3, .scalar .e4m3, 256, 32, false, 16, 128, 8, 0, 0, 256, 256, by decide +kernel⟩

theorem wit_matrixInstructionsComplete_3a : ∃ (s : State) (core : Nat) (q : Nat) (e : MxEntry) (w : Crew) (sh : MmaShape) (fa : Fmt) (fb : Fmt) (k : Nat) (grp : Nat) (int : Bool) (m : Nat) (n : Nat) (cr : Nat) (x : Nat) (y : Nat) (sx : Nat) (sy : Nat), e.op = .mma sh fa fb true cr x y sx sy ∧ tabGet (coreAt s core).crews e.slot = some w
    ∧ mmaPair fa fb = some (k, grp, int) ∧ shapeMN sh = (m, n) ∧ mmaPoison w x m sx (mxRowBytes fa k) = false
    ∧ mmaPoison w y n sy (mxRowBytes fb k) = false ∧ (mxChains (coreAt s core) q).length < 2 :=
  ⟨arrayOf [mma0 true] [], 0, 3, mma0 true, crew0, .m16n128, .scalar .e4m3, .scalar .e4m3, 256, 32, false, 16, 128, 8, 0, 0, 256, 256, by decide +kernel⟩

theorem wit_matrixInstructionsComplete_3b : ∃ (s : State) (core : Nat) (q : Nat) (e : MxEntry) (w : Crew) (sh : MmaShape) (fa : Fmt) (fb : Fmt) (k : Nat) (grp : Nat) (int : Bool) (m : Nat) (n : Nat) (cr : Nat) (x : Nat) (y : Nat) (sx : Nat) (sy : Nat), e.op = .mma sh fa fb true cr x y sx sy ∧ tabGet (coreAt s core).crews e.slot = some w
    ∧ mmaPair fa fb = some (k, grp, int) ∧ shapeMN sh = (m, n) ∧ mmaPoison w x m sx (mxRowBytes fa k) = false
    ∧ mmaPoison w y n sy (mxRowBytes fb k) = false ∧ 2 ≤ (mxChains (coreAt s core) q).length :=
  ⟨arrayOf [mma0 true] [chain0, chain0], 0, 3, mma0 true, crew0, .m16n128, .scalar .e4m3, .scalar .e4m3, 256, 32, false, 16, 128, 8, 0, 0, 256, 256, by decide +kernel⟩

theorem wit_matrixInstructionsComplete_3c : ∃ (s : State) (core : Nat) (e : MxEntry) (w : Crew) (sh : MmaShape) (fa : Fmt) (fb : Fmt) (k : Nat) (grp : Nat) (int : Bool) (m : Nat) (n : Nat) (cr : Nat) (x : Nat) (y : Nat) (sx : Nat) (sy : Nat), e.op = .mma sh fa fb true cr x y sx sy ∧ tabGet (coreAt s core).crews e.slot = some w
    ∧ mmaPair fa fb = some (k, grp, int) ∧ shapeMN sh = (m, n)
    ∧ ((mmaPoison w x m sx (mxRowBytes fa k) = true ∨ mmaPoison w y n sy (mxRowBytes fb k) = true)) :=
  ⟨poisonA, 0, mma0 true, lmemWrite 0 (z 8) true crew0, .m16n128, .scalar .e4m3, .scalar .e4m3, 256, 32, false, 16, 128, 8, 0, 0, 256, 256, by decide +kernel⟩

theorem wit_matrixInstructionsComplete_4 : ∃ (s : State) (core : Nat) (q : Nat) (s1 : State) (x : Chain) (rest : List Chain), s1 = mxAdvance core mxSteps s ∧ mxChains (coreAt s1 core) q = x :: rest :=
  ⟨arrayOf [] [chain0], 0, 3, _, chain0, [], rfl, by decide +kernel⟩

theorem wit_matrixInstructionsComplete_4a : ∃ (s : State) (core : Nat) (q : Nat) (s1 : State) (x : Chain) (rest : List Chain) (st : State), s1 = mxAdvance core mxSteps s
    ∧ (st = (if (coreAt s1 core).mxTaken = some q ∧ rest ≠ [] then countFreeze core s1 else s1)) ∧ mxChains (coreAt s1 core) q = x :: rest
    ∧ chainGoesOn (coreAt s1 core) q x rest = false :=
  ⟨arrayOf [] [chain0], 0, 3, _, chain0, [], _, rfl, rfl, by decide +kernel⟩

theorem wit_matrixInstructionsComplete_4b : ∃ (s : State) (core : Nat) (q : Nat) (s1 : State) (x : Chain) (rest : List Chain), s1 = mxAdvance core mxSteps s ∧ mxChains (coreAt s1 core) q = x :: rest
    ∧ chainGoesOn (coreAt s1 core) q x rest = true :=
  ⟨waitingMma, 0, 3, _, chain0, [], rfl, by decide +kernel⟩

theorem wit_matrixInstructionsComplete_6 : ∃ (a : List Machine.Num) (b : List Machine.Num), (a.zip b).any (fun p => suppressed p && (isSpecial p.1 || isSpecial p.2)) = true :=
  ⟨[.fin false 0 0], [.inf false], by decide +kernel⟩

theorem wit_matrixInstructionsComplete_7 : ∃ s g fmt c ua n a s1 x rnd us, IssuesMatrix s g [ua] a s1 ∧ x = (uregVal a.gang ua).toNat * 32
    ∧ us = (List.range n).map (fun i => mxstUnit s1 a fmt rnd true (c + i) i) ∧ pendBusy a.gang (regRun c n) = false ∧ mxFmtOk fmt = true ∧ 1 ≤ n
    ∧ n ≤ 64 ∧ noMma a = false ∧ fragRegsBad a c n = false ∧ x + n * unitBytes fmt ≤ a.crew.kernel.localKib * 1024 ∧ cvtOk fmt fmt rnd = true
    ∧ rnd ≠ .sr :=
  ⟨issuing, g0, .scalar .fp16, 8, 0, 64, act0, _, _, .rn, _, ⟨issues act0 (by decide +kernel), by decide +kernel, by decide +kernel⟩, rfl, rfl,
    by decide +kernel⟩

theorem wit_matrixInstructionsComplete_8 : ∃ (s : State) (core : Nat) (q : Nat) (s1 : State) (e : MxEntry) (rest : List MxEntry) (done : State → State), s1 = mxAdvance core mxSteps s
    ∧ done = (fun (z : State) => mxAdvance core mxSteps (onCore core (fun y => { y with mxTaken := none }) (setMxChains core q ((mxChains (coreAt z core) q).map (fun y => { y with joinable := false })) (setMxQueue core q rest z))))
    ∧ (coreAt s1 core).mxTaken = some q ∧ mxQueue (coreAt s1 core) q = e :: rest :=
  ⟨arrayBusy mst0, 0, 3, _, mst0, [], _, rfl, rfl, by decide +kernel⟩

theorem wit_matrixInstructionsComplete_8a : ∃ (s : State) (core : Nat) (q : Nat) (s1 : State) (e : MxEntry) (rest : List MxEntry) (done : State → State) (us : List (Nat × List Byte × Bool)), s1 = mxAdvance core mxSteps s
    ∧ done = (fun (z : State) => mxAdvance core mxSteps (onCore core (fun y => { y with mxTaken := none }) (setMxChains core q ((mxChains (coreAt z core) q).map (fun y => { y with joinable := false })) (setMxQueue core q rest z))))
    ∧ (coreAt s1 core).mxTaken = some q ∧ mxQueue (coreAt s1 core) q = e :: rest ∧ e.op = .mxst us :=
  ⟨arrayBusy mst0, 0, 3, _, mst0, [], _, [(0, z 32, false)], rfl, rfl, by decide +kernel⟩

theorem wit_matrixInstructionsComplete_8b : ∃ (s : State) (core : Nat) (q : Nat) (s1 : State) (e : MxEntry) (rest : List MxEntry) (done : State → State) (f : Fmt) (c : Nat) (x : Nat) (n : Nat) (w : Crew), s1 = mxAdvance core mxSteps s
    ∧ done = (fun (z : State) => mxAdvance core mxSteps (onCore core (fun y => { y with mxTaken := none }) (setMxChains core q ((mxChains (coreAt z core) q).map (fun y => { y with joinable := false })) (setMxQueue core q rest z))))
    ∧ (coreAt s1 core).mxTaken = some q ∧ mxQueue (coreAt s1 core) q = e :: rest ∧ e.op = .mxld f c x n
    ∧ tabGet (coreAt s1 core).crews e.slot = some w :=
  ⟨arrayBusy mld0, 0, 3, _, mld0, [], _, .scalar .fp16, 8, 0, 1, crew0, rfl, rfl, by decide +kernel⟩

theorem wit_matrixInstructionsComplete_9 : ∃ (s : State) (core : Nat) (s1 : State), s1 = mxAdvance core mxSteps s :=
  ⟨up, 0, _, rfl⟩

theorem wit_matrixInstructionsComplete_9a : ∃ (s : State) (core : Nat) (q : Nat) (s1 : State), s1 = mxAdvance core mxSteps s
    ∧ (((coreAt s1 core).mxTaken ≠ some q ∨ mxQueue (coreAt s1 core) q = [])) :=
  ⟨up, 0, 3, _, rfl, by decide +kernel⟩

theorem wit_matrixInstructionsComplete_9b : ∃ (s : State) (core : Nat) (q : Nat) (s1 : State), s1 = mxAdvance core mxSteps s ∧ mxChains (coreAt s1 core) q = [] :=
  ⟨up, 0, 3, _, rfl, by decide +kernel⟩

theorem wit_matrixInstructionsComplete_10 : ∃ (s : State) (g : FragRef) (a : Act) (s0 : State) (s1 : State), s0 = mxAdvance g.core mxSteps s ∧ Issues s0 g [] [] [] a s1
    ∧ a.frag.mask = ~~~a.gang.exited ∧ noMma a = false :=
  ⟨issuing, g0, act0, _, _, rfl, issues act0 (by decide +kernel), by decide +kernel⟩

theorem wit_matrixInstructionsComplete_10a : ∃ (s : State) (g : FragRef) (a : Act) (s0 : State) (s1 : State), s0 = mxAdvance g.core mxSteps s ∧ Issues s0 g [] [] [] a s1
    ∧ a.frag.mask = ~~~a.gang.exited ∧ noMma a = false ∧ mxBusy (coreAt s1 g.core) g.slot g.gang = false :=
  ⟨issuing, g0, act0, _, _, rfl, issues act0 (by decide +kernel), by decide +kernel⟩

theorem wit_matrixInstructionsComplete_10b : ∃ (s : State) (g : FragRef) (a : Act) (s0 : State) (s1 : State), s0 = mxAdvance g.core mxSteps s ∧ Issues s0 g [] [] [] a s1
    ∧ a.frag.mask = ~~~a.gang.exited ∧ noMma a = false ∧ mxBusy (coreAt s1 g.core) g.slot g.gang = true :=
  ⟨arrayOf [] [chain0], g0, act0, _, _, rfl, issues act0 (by decide +kernel), by decide +kernel⟩

theorem wit_matrixInstructionsComplete_11 : ∃ (s : State) (g : FragRef) (d : Src) (c : Src) (a : Act) (s1 : State) (t : Tower) (off : Nat) (bs : List Byte) (o : SweepOp), IssuesUniform s g [d, c] a s1 ∧ off = uniVal a d ∧ bs = lmemRead a.crew off 64
    ∧ o = { job := a.crew.job, item := a.crew.item, posted := some (g.core, g.slot, a.crew.uid, uniVal a c), hdr := sweepHdrOf bs, granted := false, groups := [], pages := [], appends := [] }
    ∧ t = towerOfCore g.core ∧ mxstPending s1 g = false ∧ (s1.press.queues.get t).length < 64 ∧ bitOf a.crew.kernel.flags 1 = true
    ∧ off + 64 ≤ a.crew.kernel.localKib * 1024 ∧ lmemPoison a.crew off 64 = false ∧ uniVal a c < a.crew.kernel.counters
    ∧ (sweepExtents (sweepHdrOf bs)).any (fun e => !rangeAllowed s1 a.crew.job e.2.2 e.1 e.2.1) = false :=
  ⟨atCore crewSweep gang0, g0, .imm 0, .imm 15, { act0 with crew := crewSweep }, _, .t0, _, _, _, ⟨issues ({ act0 with crew := crewSweep }) (by decide +kernel), by decide +kernel⟩, rfl, rfl, rfl, by decide +kernel⟩

theorem wit_matrixInstructionsComplete_11a : ∃ (s : State) (g : FragRef) (d : Src) (c : Src) (a : Act) (s1 : State) (t : Tower) (off : Nat) (bs : List Byte) (o : SweepOp), IssuesUniform s g [d, c] a s1 ∧ off = uniVal a d ∧ bs = lmemRead a.crew off 64
    ∧ o = { job := a.crew.job, item := a.crew.item, posted := some (g.core, g.slot, a.crew.uid, uniVal a c), hdr := sweepHdrOf bs, granted := false, groups := [], pages := [], appends := [] }
    ∧ t = towerOfCore g.core ∧ mxstPending s1 g = false ∧ (s1.press.queues.get t).length < 64 ∧ bitOf a.crew.kernel.flags 1 = true
    ∧ off + 64 ≤ a.crew.kernel.localKib * 1024 ∧ lmemPoison a.crew off 64 = false ∧ uniVal a c < a.crew.kernel.counters
    ∧ (sweepExtents (sweepHdrOf bs)).any (fun e => !rangeAllowed s1 a.crew.job e.2.2 e.1 e.2.1) = false ∧ sweepHdrOk bs = true :=
  ⟨atCore crewSweep gang0, g0, .imm 0, .imm 15, { act0 with crew := crewSweep }, _, .t0, _, _, _, ⟨issues ({ act0 with crew := crewSweep }) (by decide +kernel), by decide +kernel⟩, rfl, rfl, rfl, by decide +kernel⟩

theorem wit_matrixInstructionsComplete_11b : ∃ (s : State) (g : FragRef) (d : Src) (c : Src) (a : Act) (s1 : State) (t : Tower) (off : Nat) (bs : List Byte) (o : SweepOp), IssuesUniform s g [d, c] a s1 ∧ off = uniVal a d ∧ bs = lmemRead a.crew off 64
    ∧ o = { job := a.crew.job, item := a.crew.item, posted := some (g.core, g.slot, a.crew.uid, uniVal a c), hdr := sweepHdrOf bs, granted := false, groups := [], pages := [], appends := [] }
    ∧ t = towerOfCore g.core ∧ mxstPending s1 g = false ∧ (s1.press.queues.get t).length < 64 ∧ bitOf a.crew.kernel.flags 1 = true
    ∧ off + 64 ≤ a.crew.kernel.localKib * 1024 ∧ lmemPoison a.crew off 64 = false ∧ uniVal a c < a.crew.kernel.counters
    ∧ (sweepExtents (sweepHdrOf bs)).any (fun e => !rangeAllowed s1 a.crew.job e.2.2 e.1 e.2.1) = false ∧ sweepHdrOk bs = false :=
  ⟨atCore crewBadSweep gang0, g0, .imm 0, .imm 15, { act0 with crew := crewBadSweep }, _, .t0, _, _, _, ⟨issues ({ act0 with crew := crewBadSweep }) (by decide +kernel), by decide +kernel⟩, rfl, rfl, rfl, by decide +kernel⟩

/-- A queue that holds a loft access with nothing to serve. -/
def queued : State := { up with pending := [.loftAccess .t0 5 []] }

theorem wit_stepRunsFront_1 : ∃ (s : State) (c : Instr) (rest : List Instr), s.pending = c :: rest :=
  ⟨{ up with pending := [.loftAccess .t0 5 []] }, .loftAccess .t0 5 [], [], by decide +kernel⟩

theorem wit_stepRunsFront_2 : ∃ (s : State), s.pending = [] :=
  ⟨up, by decide +kernel⟩

theorem wit_memoriesStayCanonical_1 : ∃ (s : State) (t : State), s.memoriesWf = true ∧ step s = .next t :=
  ⟨queued, up, ⟨by decide +kernel, rfl⟩⟩

theorem wit_fusesNeverDecrease_1 : ∃ (s : State) (t : State), step s = .next t :=
  ⟨queued, up, rfl⟩

/-! ### What WellFormed refuses, one command for each check -/

theorem test_illformed_mailbox : wellFormed (.devInfo 64) = false := by decide +kernel
theorem test_illformed_job : wellFormed (.tickBoundary 65536) = false := by decide +kernel
theorem test_illformed_time : wellFormed (.commandTake (2 ^ 64)) = false := by decide +kernel
theorem test_illformed_offset : wellFormed (.registerWrite 0x4000000 [0]) = false := by decide +kernel
theorem test_illformed_port : wellFormed (.portLinkLoss 48) = false := by decide +kernel
theorem test_illformed_self_port : wellFormed (.write 254 (pkt0 1)) = false := by decide +kernel
theorem test_illformed_holder : wellFormed (.holderBudgetWindowEnd .t0 9) = false := by decide +kernel
theorem test_illformed_fragment_core : wellFormed (.reconv ⟨256, 0, 0, 0⟩) = false := by decide +kernel
theorem test_illformed_fragment_slot : wellFormed (.reconv ⟨0, 16, 0, 0⟩) = false := by decide +kernel
theorem test_illformed_fragment_gang : wellFormed (.reconv ⟨0, 0, 32, 0⟩) = false := by decide +kernel
theorem test_illformed_fragment_entry : wellFormed (.reconv ⟨0, 0, 0, 32⟩) = false := by decide +kernel
theorem test_illformed_lane_register : wellFormed (.vote g0 256 0) = false := by decide +kernel
theorem test_illformed_predicate : wellFormed (.vote g0 0 8) = false := by decide +kernel
theorem test_illformed_source_register : wellFormed (.specialFunction g0 .rcp 0 (.reg 256)) = false := by decide +kernel
theorem test_illformed_uniform_register : wellFormed (.specialFunction g0 .rcp 0 (.ureg 64)) = false := by decide +kernel
theorem test_illformed_width : wellFormed (.ldl g0 12 0 (.imm 0)) = false := by decide +kernel
theorem test_illformed_matrix_register : wellFormed (.mxld g0 .sx4 256 0 1) = false := by decide +kernel
theorem test_illformed_matrix_uniform : wellFormed (.mxld g0 .sx4 0 64 1) = false := by decide +kernel
theorem test_illformed_quarter : wellFormed (.mmaChainDrain 0 4) = false := by decide +kernel
theorem test_illformed_column : wellFormed (.loftAccess .t0 512 []) = false := by decide +kernel
theorem test_illformed_stack : wellFormed (.hbmRequest 16 0) = false := by decide +kernel
theorem test_illformed_channel : wellFormed (.hbmRequest 0 32) = false := by decide +kernel
theorem test_illformed_refresh_bank : wellFormed (.hbmRefresh 0 (some 128)) = false := by decide +kernel
theorem test_illformed_pseudo_channel : wellFormed (.hbmPinFailed 0 0 2 0) = false := by decide +kernel
theorem test_illformed_pin : wellFormed (.hbmPinFailed 0 0 0 32) = false := by decide +kernel
theorem test_illformed_hbm_address : wellFormed (.hbmRowRepair 0x14000000000) = false := by decide +kernel
theorem test_illformed_die : wellFormed (.loftLineRepair 4 0 0 0) = false := by decide +kernel
theorem test_illformed_bank : wellFormed (.loftLineRepair 0 512 0 0) = false := by decide +kernel
theorem test_illformed_line : wellFormed (.loftLineRepair 0 0 32768 0) = false := by decide +kernel
theorem test_illformed_scrub_unit : wellFormed (.scrubPatrol 20 0 []) = false := by decide +kernel
theorem test_illformed_bond_group : wellFormed (.vlClockLoss ⟨.t0, 5, 1536⟩) = false := by decide +kernel
theorem test_illformed_wire : wellFormed (.vlWireFailing ⟨.t0, 0, 0⟩ 74) = false := by decide +kernel
theorem test_illformed_connector : wellFormed (.cmisPoll 6 ⟨false, false, true, [], [], []⟩) = false := by decide +kernel
theorem test_illformed_pfc_class : wellFormed (.pfcFrame 0 4 true) = false := by decide +kernel
theorem test_illformed_context : wellFormed (.ackDelayTimer 16384) = false := by decide +kernel
theorem test_illformed_zone : wellFormed (.powerBondDrop 10 0) = false := by decide +kernel
theorem test_illformed_rate : wellFormed (.bringupStageEnd { found 0 with rate := 5 }) = false := by decide +kernel

/-! ### Known answers -/

/-- CRC-32C of the nine digits (the polynomial of the manual; the check value of RFC 3720). -/
theorem test_crc32c : crc32c [0x31, 0x32, 0x33, 0x34, 0x35, 0x36, 0x37, 0x38, 0x39] = 0xE3069283 := by decide +kernel
/-- SHA-256 of "abc" (FIPS 180-4): its first four bytes. -/
theorem test_sha256 : (sha256 [0x61, 0x62, 0x63]).take 4 = [0xba, 0x78, 0x16, 0xbf] := by decide +kernel
theorem test_no_word_spells_a_command : decodeTableWord 32 0xFFFFFFFF = none := rfl
theorem test_reset_memories : State.reset.memoriesWf = true := by decide +kernel


end Sys2Proof.Tests
end

section
/-! PROOFS. The misuses of a barrier (R102): what each barrier instruction runs, and when its body answers with the misuse fault. -/

namespace Sys2Proof.Machine

/-! ### The barrier instructions in `exec` -/

theorem exec_barInit (g : FragRef) (b n : Src) (s : State) : exec (.barInit g b n) s = .next (barInit g b n s) := rfl

theorem exec_barArrive (g : FragRef) (b : Src) (s : State) : exec (.barArrive g b) s = .next (barArrival false g b s) := rfl

theorem exec_barSync (g : FragRef) (b : Src) (s : State) : exec (.barSync g b) s = .next (barArrival true g b s) := rfl

theorem exec_barWait (g : FragRef) (b : Src) (s : State) : exec (.barWait g b) s = .next (barWait g b s) := rfl

/-! ### Misuse -/

/-- Misuse is cause 3 of ILLEGAL_INSTR, in every active lane (R102, R110). -/
theorem barMisuse_eq (a : Act) (s : State) : barMisuse a s = coreFault a evIllegalInstr a.frag.mask 3 s := rfl

/-- BAR.ARRIVE and BAR.SYNC alike. -/
theorem barArrival_misuse {s : State} {g : FragRef} {b : Src} {a : Act} {s1 : State}
    (h : Issues s g (srcRegs [b]) (srcUregs [b]) [] a s1)
    (hm : tabGet a.crew.bars (barIndex a b) = none ∨ a.crew.kernel.barriers ≤ barIndex a b) (wait : Bool) :
    barArrival wait g b s = barMisuse a s1 := by
  unfold barArrival
  rw [issue_eq h]
  cases hb : tabGet a.crew.bars (barIndex a b) with
  | none => simp only [hb]
  | some bar =>
    have hk : a.crew.kernel.barriers ≤ barIndex a b := hm.resolve_left (by simp [hb])
    simp only [hb, if_pos hk]

theorem barWait_misuse {s : State} {g : FragRef} {b : Src} {a : Act} {s1 : State}
    (h : Issues s g (srcRegs [b]) (srcUregs [b]) [] a s1) (hk : a.crew.kernel.barriers ≤ barIndex a b) :
    barWait g b s = barMisuse a s1 := by
  unfold barWait
  rw [issue_eq h]
  exact if_pos hk

/-- The two misuses of BAR.INIT that R102 names. -/
theorem barInit_misuse {s : State} {g : FragRef} {b n : Src} {a : Act} {s1 : State} (h : IssuesUniform s g [b, n] a s1)
    (hm : a.crew.kernel.barriers ≤ uniVal a b ∨ ∃ bar, tabGet a.crew.bars (uniVal a b) = some bar ∧ bar.arrived ≠ []) :
    barInit g b n s = barMisuse a s1 := by
  unfold barInit
  rw [issueUniform_eq h]
  refine if_pos ?_
  obtain hk | ⟨bar, hbar, harr⟩ := hm
  · exact .inl hk
  · have hold : ((tabGet a.crew.bars (uniVal a b)).map (·.arrived)).getD [] ≠ [] := by simpa [hbar] using harr
    exact .inr (.inr (.inr hold))

/-- Settles O52: each misuse reaches the body's misuse branch once the instruction issues. -/
theorem barrierMisuse : Obligations.BarrierMisuse := by
  unfold Obligations.BarrierMisuse
  simp only [exec_barInit, exec_barArrive, exec_barSync, exec_barWait, ← barMisuse_eq]
  refine ⟨fun s g b a s1 h hnone => ?_, fun s g b n a s1 bar h hbar harr => ?_, fun s g b a s1 h hk => ?_,
    fun s g b n a s1 h hk => ?_⟩
  · simp only [barArrival_misuse h (.inl hnone), and_self]
  · rw [barInit_misuse h (.inr ⟨bar, hbar, harr⟩)]
  · simp only [barArrival_misuse h (.inr hk), barWait_misuse h hk, and_self]
  · rw [barInit_misuse h (.inl hk)]

end Sys2Proof.Machine
end

section
/-! PROOFS. Decoding of an SX4 block (R118): the element codes and the sub-offsets are digits of the block's bytes, and an E2M1 code's value
is scaled by the power of two that X and the sub-offset give. -/

namespace Sys2Proof.Machine

/-! ### Fields of a byte layout -/

theorem fieldAt_drop (bs : List Byte) (a off n : Nat) : fieldAt (bs.drop a) off n = fieldAt bs (a + off) n := by
  simp only [fieldAt, List.drop_drop]

/-- The bits [b·k + w : b·k], b = w + 1, of a number are its digit k in base 2^b. -/
theorem bitsOf_eq_digit (v w b k : Nat) (hb : b = w + 1) : bitsOf v (b * k + w) (b * k) = v / (2 ^ b) ^ k % 2 ^ b := by
  have width : b * k + w + 1 - b * k = b := by omega
  rw [bitsOf, width, pow_mul]

/-- Packed 4-bit elements lie two to a byte, the lower one first. -/
theorem packedElem_four (bs : List Byte) (i : Nat) : packedElem 4 bs i = fieldAt bs (i / 2) 1 / 16 ^ (i % 2) % 16 :=
  bitsOf_eq_digit _ 3 4 _ rfl

/-! ### E2M1 -/

/-- E2M1 has no infinity and no NaN; exponent field 0 holds the subnormals. -/
theorem decodeFloat_e2m1 (code : Nat) :
    decodeFloat fmtE2m1 code =
      if code / 2 % 4 = 0 then .fin (code.testBit 3) (code % 2) (-1)
      else .fin (code.testBit 3) (code % 2 + 2) ((code / 2 % 4 : Nat) - 2) := by
  have hexp (e : Int) : e - 1 - 1 = e - 2 := by omega
  simp [decodeFloat, fmtE2m1, bitOf, hexp]

/-- The eight magnitudes of E2M1 are 0, 0.5, 1, 1.5, 2, 3, 4 and 6 (Table 4.2). -/
theorem decodeFloat_e2m1_value (code : Nat) :
    ∃ m e, decodeFloat fmtE2m1 code = .fin (code.testBit 3) m e
      ∧ (m : ℚ) * 2 ^ e = ([0, 1, 2, 3, 4, 6, 8, 12].getD (code % 8) 0 : ℚ) / 2 := by
  have hman : code % 2 = code % 8 % 2 := by omega
  have hexp : code / 2 % 4 = code % 8 / 2 := by omega
  rw [decodeFloat_e2m1, hman, hexp]
  have hmag : code % 8 < 8 := Nat.mod_lt _ (by decide)
  generalize code % 8 = mag at hmag ⊢
  interval_cases mag <;> exact ⟨_, _, rfl, by norm_num⟩

/-! ### Blocks -/

@[simp] theorem fromBlock_nanScale (e : Elem) (d code : Nat) : fromBlock e 0xFF d code = .nan := rfl

theorem fromBlock_e2m1 {x : Nat} (hx : x ≠ 0xFF) (d code : Nat) :
    fromBlock .e2m1 x d code = numScale ((x : Int) - 127 - d) (decodeFloat fmtE2m1 code) :=
  if_neg hx

/-- An SX4 block is 32 elements, each decoded from X, the SUB digit of its run of eight, and its own 4-bit code. -/
theorem unitValues_sx4 (bs : List Byte) :
    unitValues .sx4 bs = (List.range 32).map (fun i =>
      fromBlock .e2m1 (fieldAt bs 0 1) (fieldAt bs 1 1 / 4 ^ (i / 8) % 4) (fieldAt bs (2 + i / 2) 1 / 16 ^ (i % 2) % 16)) := by
  have hsub (i : Nat) : bitsOf (fieldAt bs 1 1) (2 * (i / 8) + 1) (2 * (i / 8)) = fieldAt bs 1 1 / 4 ^ (i / 8) % 4 :=
    bitsOf_eq_digit _ 1 2 _ rfl
  simp only [unitValues, fmtElem, hsub, packedElem_four, fieldAt_drop]

theorem unitValues_sx4_getElem? (bs : List Byte) {i : Nat} (hi : i < 32) :
    (unitValues .sx4 bs)[i]? = some (fromBlock .e2m1 (fieldAt bs 0 1) (fieldAt bs 1 1 / 4 ^ (i / 8) % 4)
      (fieldAt bs (2 + i / 2) 1 / 16 ^ (i % 2) % 16)) := by
  rw [unitValues_sx4, List.getElem?_map, List.getElem?_range hi, Option.map_some]

theorem unitValues_sx4_nan {bs : List Byte} (hx : fieldAt bs 0 1 = 0xFF) :
    unitValues .sx4 bs = List.replicate 32 .nan := by
  simp only [unitValues_sx4, hx, fromBlock_nanScale, List.map_const', List.length_range]

/-- Scaling adds to the exponent of two, so the value is multiplied by that power (R118). -/
theorem fromBlock_e2m1_value {x : Nat} (hx : x ≠ 0xFF) (d code : Nat) :
    ∃ m e, fromBlock .e2m1 x d code = .fin (code.testBit 3) m e
      ∧ (m : ℚ) * 2 ^ e = ([0, 1, 2, 3, 4, 6, 8, 12].getD (code % 8) 0 : ℚ) / 2 * 2 ^ ((x : Int) - 127 - (d : Int)) := by
  obtain ⟨m, e, hdec, hval⟩ := decodeFloat_e2m1_value code
  refine ⟨m, e + ((x : Int) - 127 - d), ?_, ?_⟩
  · rw [fromBlock_e2m1 hx, hdec, numScale]
  · rw [zpow_add₀ two_ne_zero, ← mul_assoc, hval]

/-- Settles O53: an element is `fromBlock` of its own digits, which is NaN at X = 0xFF and the scaled E2M1 value elsewhere. -/
theorem sx4Decodes : Obligations.Sx4Decodes := by
  unfold Obligations.Sx4Decodes
  refine fun bs => ⟨by rw [unitValues_sx4, List.length_map, List.length_range], unitValues_sx4_nan, ?_⟩
  rintro i _ _ hi hx rfl rfl
  obtain ⟨m, e, hblock, hval⟩ := fromBlock_e2m1_value hx (fieldAt bs 1 1 / 4 ^ (i / 8) % 4)
    (fieldAt bs (2 + i / 2) 1 / 16 ^ (i % 2) % 16)
  exact ⟨m, e, by rw [unitValues_sx4_getElem? bs hi, hblock], hval⟩

end Sys2Proof.Machine
end

section
/-! PROOFS. The debt of a gate window (R390): what a window start settles, and which measured grants the end of a window over its budget
discards. -/

namespace Sys2Proof.Machine

/-! ### The start of a window -/

theorem exec_gateWindowStart (m0 m1 : Nat) (s : State) : exec (.gateWindowStart m0 m1) s = .next (gateWindow m0 m1 s) := rfl

theorem gateWindow_off {s : State} (hoff : s.gate.on = false) (m0 m1 : Nat) : gateWindow m0 m1 s = s := by
  simp [gateWindow, hoff]

theorem gateWindow_on {s : State} (hon : s.gate.on = true) (m0 m1 : Nat) : gateWindow m0 m1 s = startDue (windowStart m0 m1 s) :=
  if_pos hon

/-! ### The excess of a window and the debt -/

/-- What the regulators measured over the tower's half of the reserve and its capped budget, negative below them: `over` of R390. -/
def windowExcess (s : State) (t : Tower) (measured : Nat) : Int := (measured : Int) - 190 - cappedBudget s t

theorem windowEnd_debt_self (t : Tower) (m : Nat) (s : State) :
    ((windowEnd t m s).gate.debt.get t : Int) = max 0 ((s.gate.debt.get t : Int) + windowExcess s t m) := by
  simp only [windowEnd, State.onGate_gate, Pair.get_mod_self, Int.ofNat_toNat, max_comm (0 : Int), windowExcess]

theorem windowEnd_debt_other (t : Tower) (m : Nat) (s : State) :
    (windowEnd t m s).gate.debt.get (otherTower t) = s.gate.debt.get (otherTower t) := by
  cases t <;> rfl

/-- The debt is room that a request lacks (R388). -/
theorem fitsRoom_iff (s : State) (t : Tower) (need point : Nat) :
    fitsRoom s t need point = true ↔ (need : Int) ≤ (cappedBudget s t : Int) - heldAt s t point - s.gate.debt.get t := by
  rw [fitsRoom, decide_eq_true_iff]
  omega

/-! ### The measured grants that are discarded -/

/-- The counts of ended grants, with 0 for every class that one of the grants holds in the tower. -/
def clearHeldClasses (t : Tower) (grants : List Grant) (ended : Tab Nat) : Tab Nat :=
  grants.foldl (fun m g => if bitOf g.towers (towerNum t) then tabPut m (towerNum t * 16 + g.eclass) 0 else m) ended

theorem windowEnd_ended (t : Tower) (m : Nat) (s : State) :
    (windowEnd t m s).gate.ended =
      if 0 < windowExcess s t m then clearHeldClasses t s.gate.grants s.gate.ended else s.gate.ended := rfl

theorem tabGetD_tabPut {α : Type} (m : Tab α) (k i : Nat) (v d : α) : tabGetD (tabPut m k v) i d = if i = k then v else tabGetD m i d := by
  rw [tabGetD, tabGet_tabPut]
  split_ifs <;> rfl

theorem clearHeldClasses_cons (t : Tower) (g : Grant) (gs : List Grant) (m : Tab Nat) :
    clearHeldClasses t (g :: gs) m =
      clearHeldClasses t gs (if bitOf g.towers (towerNum t) then tabPut m (towerNum t * 16 + g.eclass) 0 else m) := rfl

theorem tabGetD_clearHeldClasses (t : Tower) (c : Nat) (gs : List Grant) (m : Tab Nat) :
    tabGetD (clearHeldClasses t gs m) (towerNum t * 16 + c) 0 =
      if ∃ g ∈ gs, g.towers.testBit (towerNum t) = true ∧ g.eclass = c then 0 else tabGetD m (towerNum t * 16 + c) 0 := by
  induction gs generalizing m with
  | nil => simp [clearHeldClasses]
  | cons g gs ih =>
    have hhead : tabGetD (if bitOf g.towers (towerNum t) then tabPut m (towerNum t * 16 + g.eclass) 0 else m) (towerNum t * 16 + c) 0 =
        if g.towers.testBit (towerNum t) = true ∧ g.eclass = c then 0 else tabGetD m (towerNum t * 16 + c) 0 := by
      cases hb : g.towers.testBit (towerNum t) with
      | true => simp [bitOf, hb, tabGetD_tabPut, eq_comm]
      | false => simp [bitOf, hb]
    simp only [clearHeldClasses_cons, ih, hhead, List.exists_mem_cons_iff, ite_or]
    split_ifs <;> rfl

/-- A class with no measured grant has its fuse rate (R387). -/
theorem baseRate_of_ended_zero {s : State} {t : Tower} {c : Nat} (hzero : tabGetD s.gate.ended (towerNum t * 16 + c) 0 = 0) :
    baseRate s t c = fuseRate c := by
  simp [baseRate, hzero]

/-- Settles O22: with the excess named, each clause is what the end of a window does to the debt or to the counts of ended grants. -/
theorem windowDebt : Obligations.WindowDebt := by
  unfold Obligations.WindowDebt
  refine ⟨fun s m0 m1 hoff => ?_, fun s m0 m1 hon => ?_, fun s t m excess hexcess => ?_, fitsRoom_iff⟩
  · rw [exec_gateWindowStart, gateWindow_off hoff]
  · rw [exec_gateWindowStart, gateWindow_on hon]
    rfl
  · obtain rfl : excess = windowExcess s t m := hexcess
    refine ⟨windowEnd_debt_self t m s, windowEnd_debt_other t m s, fun hle => ?_, fun hpos c _ hheld => ?_, fun hpos c _ hfree _ => ?_⟩
    · rw [windowEnd_ended, if_neg hle.not_gt]
    · have hzero : tabGetD (windowEnd t m s).gate.ended (towerNum t * 16 + c) 0 = 0 := by
        rw [windowEnd_ended, if_pos hpos, tabGetD_clearHeldClasses, if_pos hheld]
      exact ⟨hzero, baseRate_of_ended_zero hzero⟩
    · rw [windowEnd_ended, if_pos hpos, tabGetD_clearHeldClasses, if_neg fun ⟨g, hg, hb, hc⟩ => hfree g hg hb hc]

end Sys2Proof.Machine
end

section
/-! PROOFS. What every step keeps: no fused counter falls and no blown bit is cleared (R437), and every byte memory stays in canonical form.
`Keeps s₀ s` says so from a fixed earlier state on, so the rule of an operation is `Keeps s₀ s → Keeps s₀ (op s)`, and the proof of a rule
follows the operation's own shape. -/

namespace Sys2Proof.Machine

/-! ### What every operation keeps -/

/-- From `s` to `t` no fused counter falls, no blown bit is cleared (R437), and the byte memories stay in canonical form. -/
structure Keeps (s t : State) : Prop where
  fuses : fusesKept s t = true
  memories : s.memoriesWf = true → t.memoriesWf = true

theorem fusesKept_iff (s t : State) : fusesKept s t = true ↔
    s.fuses.svnFloor ≤ t.fuses.svnFloor ∧ s.fuses.idBlocks ≤ t.fuses.idBlocks ∧ s.fuses.revoked &&& t.fuses.revoked = s.fuses.revoked := by
  simp [fusesKept, and_assoc]

theorem fusesKept_trans {s t u : State} (h : fusesKept s t = true) (h' : fusesKept t u = true) : fusesKept s u = true := by
  rw [fusesKept_iff] at *
  obtain ⟨hs, hi, hr⟩ := h
  obtain ⟨hs', hi', hr'⟩ := h'
  refine ⟨hs.trans hs', hi.trans hi', ?_⟩
  rw [← hr, ← hr', BitVec.and_assoc, BitVec.and_assoc, BitVec.and_self]

theorem State.memoriesWf_iff (s : State) : s.memoriesWf = true ↔
    Memory.wf s.host.mbArea = true ∧ Memory.wf s.host.msixTable = true ∧ Memory.wf s.hbm.mem = true ∧ Memory.wf s.loft.pinMem = true
      ∧ Memory.wf s.flash.image = true ∧ Memory.wf s.trust.stage = true ∧ Memory.wf s.obs.snap = true
      ∧ ∀ e ∈ s.fab.cmis, Memory.wf e.2 = true := by
  simp [memoriesWf, memories]

section

variable {s₀ s t : State}

/-- A change of parts that hold neither fuses nor a byte memory. -/
theorem Keeps.same (h : Keeps s₀ s) (hf : t.fuses = s.fuses) (hm : t.memories = s.memories) : Keeps s₀ t := by
  obtain ⟨hfuses, hmem⟩ := h
  refine ⟨?_, fun hw => ?_⟩
  · rw [fusesKept, hf]
    exact hfuses
  · rw [State.memoriesWf, hm]
    exact hmem hw

/-- A change of byte memories. -/
theorem Keeps.mem (h : Keeps s₀ s) (hf : t.fuses = s.fuses) (hm : s.memoriesWf = true → t.memoriesWf = true) : Keeps s₀ t := by
  obtain ⟨hfuses, hmem⟩ := h
  refine ⟨?_, fun hw => hm (hmem hw)⟩
  rw [fusesKept, hf]
  exact hfuses

theorem Keeps.refl (s : State) : Keeps s s := ⟨by simp [fusesKept], id⟩

theorem Keeps.trans {u : State} (h : Keeps s t) (h' : Keeps t u) : Keeps s u :=
  ⟨fusesKept_trans h.fuses h'.fuses, h'.memories ∘ h.memories⟩

/-! ### Updates of one part -/

theorem Keeps.onMod {f : ModuleSt → ModuleSt} (h : Keeps s₀ s) : Keeps s₀ (s.onMod f) := h.same rfl rfl
theorem Keeps.onBoot {f : BootSt → BootSt} (h : Keeps s₀ s) : Keeps s₀ (s.onBoot f) := h.same rfl rfl
theorem Keeps.onEv {f : EvSt → EvSt} (h : Keeps s₀ s) : Keeps s₀ (s.onEv f) := h.same rfl rfl
theorem Keeps.onJobs {f : JobsSt → JobsSt} (h : Keeps s₀ s) : Keeps s₀ (s.onJobs f) := h.same rfl rfl
theorem Keeps.onTwin {f : Pair Twin → Pair Twin} (h : Keeps s₀ s) : Keeps s₀ (s.onTwin f) := h.same rfl rfl
theorem Keeps.onVl {f : VlSt → VlSt} (h : Keeps s₀ s) : Keeps s₀ (s.onVl f) := h.same rfl rfl
theorem Keeps.onCores {f : CoresSt → CoresSt} (h : Keeps s₀ s) : Keeps s₀ (s.onCores f) := h.same rfl rfl
theorem Keeps.onPress {f : PressSt → PressSt} (h : Keeps s₀ s) : Keeps s₀ (s.onPress f) := h.same rfl rfl
theorem Keeps.onEng {f : EngSt → EngSt} (h : Keeps s₀ s) : Keeps s₀ (s.onEng f) := h.same rfl rfl
theorem Keeps.onGate {f : GateSt → GateSt} (h : Keeps s₀ s) : Keeps s₀ (s.onGate f) := h.same rfl rfl
theorem Keeps.onTherm {f : ThermSt → ThermSt} (h : Keeps s₀ s) : Keeps s₀ (s.onTherm f) := h.same rfl rfl
theorem Keeps.emit {o : Out} (h : Keeps s₀ s) : Keeps s₀ (s.emit o) := h.same rfl rfl
theorem Keeps.timeTo {n : Nat} (h : Keeps s₀ s) : Keeps s₀ (s.timeTo n) := h.same rfl rfl
theorem Keeps.draw (h : Keeps s₀ s) : Keeps s₀ s.draw := h.same rfl rfl

theorem Keeps.onFuses {f : FuseSt → FuseSt} (h : Keeps s₀ s)
    (hf : s.fuses.svnFloor ≤ (f s.fuses).svnFloor ∧ s.fuses.idBlocks ≤ (f s.fuses).idBlocks
      ∧ s.fuses.revoked &&& (f s.fuses).revoked = s.fuses.revoked) :
    Keeps s₀ (s.onFuses f) := by
  obtain ⟨hfuses, hmem⟩ := h
  exact ⟨fusesKept_trans hfuses ((fusesKept_iff _ _).mpr hf), hmem⟩

theorem wf_msixTable_reset : Memory.wf HostSt.reset.msixTable = true := by decide +kernel

theorem Keeps.onHost_wf {f : HostSt → HostSt} (h : Keeps s₀ s)
    (hb : Memory.wf s.host.mbArea = true → Memory.wf (f s.host).mbArea = true)
    (ht : Memory.wf s.host.msixTable = true → Memory.wf (f s.host).msixTable = true) : Keeps s₀ (s.onHost f) := by
  refine h.mem rfl fun hw => ?_
  rw [State.memoriesWf_iff] at hw ⊢
  obtain ⟨hmb, hmsix, hrest⟩ := hw
  exact ⟨hb hmb, ht hmsix, hrest⟩

theorem Keeps.onHbm_wf {f : HbmSt → HbmSt} (h : Keeps s₀ s) (hb : Memory.wf s.hbm.mem = true → Memory.wf (f s.hbm).mem = true) :
    Keeps s₀ (s.onHbm f) := by
  refine h.mem rfl fun hw => ?_
  rw [State.memoriesWf_iff] at hw ⊢
  obtain ⟨hmb, hmsix, hhbm, hrest⟩ := hw
  exact ⟨hmb, hmsix, hb hhbm, hrest⟩

theorem Keeps.onLoft_wf {f : LoftSt → LoftSt} (h : Keeps s₀ s) (hb : Memory.wf s.loft.pinMem = true → Memory.wf (f s.loft).pinMem = true) :
    Keeps s₀ (s.onLoft f) := by
  refine h.mem rfl fun hw => ?_
  rw [State.memoriesWf_iff] at hw ⊢
  obtain ⟨hmb, hmsix, hhbm, hpin, hrest⟩ := hw
  exact ⟨hmb, hmsix, hhbm, hb hpin, hrest⟩

theorem Keeps.onFlash_wf {f : FlashSt → FlashSt} (h : Keeps s₀ s) (hb : Memory.wf s.flash.image = true → Memory.wf (f s.flash).image = true) :
    Keeps s₀ (s.onFlash f) := by
  refine h.mem rfl fun hw => ?_
  rw [State.memoriesWf_iff] at hw ⊢
  obtain ⟨hmb, hmsix, hhbm, hpin, himage, hrest⟩ := hw
  exact ⟨hmb, hmsix, hhbm, hpin, hb himage, hrest⟩

theorem Keeps.onTrust_wf {f : TrustSt → TrustSt} (h : Keeps s₀ s) (hb : Memory.wf s.trust.stage = true → Memory.wf (f s.trust).stage = true) :
    Keeps s₀ (s.onTrust f) := by
  refine h.mem rfl fun hw => ?_
  rw [State.memoriesWf_iff] at hw ⊢
  obtain ⟨hmb, hmsix, hhbm, hpin, himage, hstage, hrest⟩ := hw
  exact ⟨hmb, hmsix, hhbm, hpin, himage, hb hstage, hrest⟩

theorem Keeps.onObs_wf {f : ObsSt → ObsSt} (h : Keeps s₀ s) (hb : Memory.wf s.obs.snap = true → Memory.wf (f s.obs).snap = true) :
    Keeps s₀ (s.onObs f) := by
  refine h.mem rfl fun hw => ?_
  rw [State.memoriesWf_iff] at hw ⊢
  obtain ⟨hmb, hmsix, hhbm, hpin, himage, hstage, hsnap, hcmis⟩ := hw
  exact ⟨hmb, hmsix, hhbm, hpin, himage, hstage, hb hsnap, hcmis⟩

theorem Keeps.onFab_wf {f : FabSt → FabSt} (h : Keeps s₀ s)
    (hb : (∀ e ∈ s.fab.cmis, Memory.wf e.2 = true) → ∀ e ∈ (f s.fab).cmis, Memory.wf e.2 = true) : Keeps s₀ (s.onFab f) := by
  refine h.mem rfl fun hw => ?_
  rw [State.memoriesWf_iff] at hw ⊢
  obtain ⟨hmb, hmsix, hhbm, hpin, himage, hstage, hsnap, hcmis⟩ := hw
  exact ⟨hmb, hmsix, hhbm, hpin, himage, hstage, hsnap, hb hcmis⟩

theorem Keeps.onHost {f : HostSt → HostSt} (h : Keeps s₀ s) (hb : (f s.host).mbArea = s.host.mbArea)
    (ht : (f s.host).msixTable = s.host.msixTable) : Keeps s₀ (s.onHost f) :=
  .onHost_wf h (fun hw => hb ▸ hw) fun hw => ht ▸ hw

theorem Keeps.onHbm {f : HbmSt → HbmSt} (h : Keeps s₀ s) (hb : (f s.hbm).mem = s.hbm.mem) : Keeps s₀ (s.onHbm f) :=
  .onHbm_wf h fun hw => hb ▸ hw

theorem Keeps.onLoft {f : LoftSt → LoftSt} (h : Keeps s₀ s) (hb : (f s.loft).pinMem = s.loft.pinMem) : Keeps s₀ (s.onLoft f) :=
  .onLoft_wf h fun hw => hb ▸ hw

theorem Keeps.onFlash {f : FlashSt → FlashSt} (h : Keeps s₀ s) (hb : (f s.flash).image = s.flash.image) : Keeps s₀ (s.onFlash f) :=
  .onFlash_wf h fun hw => hb ▸ hw

theorem Keeps.onTrust {f : TrustSt → TrustSt} (h : Keeps s₀ s) (hb : (f s.trust).stage = s.trust.stage) : Keeps s₀ (s.onTrust f) :=
  .onTrust_wf h fun hw => hb ▸ hw

theorem Keeps.onObs {f : ObsSt → ObsSt} (h : Keeps s₀ s) (hb : (f s.obs).snap = s.obs.snap) : Keeps s₀ (s.onObs f) :=
  .onObs_wf h fun hw => hb ▸ hw

theorem Keeps.onFab {f : FabSt → FabSt} (h : Keeps s₀ s) (hb : (f s.fab).cmis = s.fab.cmis) : Keeps s₀ (s.onFab f) :=
  .onFab_wf h fun hw => hb ▸ hw

/-! ### Branches and folds -/

theorem Keeps.ite {c : Prop} [Decidable c] (hs : Keeps s₀ s) (ht : Keeps s₀ t) : Keeps s₀ (if c then s else t) := by
  split
  · exact hs
  · exact ht

theorem Keeps.foldl {α : Type} {f : State → α → State} {l : List α} (h : Keeps s₀ s) (hf : ∀ s x, Keeps s₀ s → Keeps s₀ (f s x)) :
    Keeps s₀ (l.foldl f s) := by
  induction l generalizing s with
  | nil => exact h
  | cons x l ih => exact ih (hf s x h)

/-- A fold that carries something beside the state. -/
theorem Keeps.foldl_fst {α β : Type} {f : State × β → α → State × β} {l : List α} {p : State × β} (h : Keeps s₀ p.1)
    (hf : ∀ p x, Keeps s₀ p.1 → Keeps s₀ (f p x).1) : Keeps s₀ (l.foldl f p).1 := by
  induction l generalizing p with
  | nil => exact h
  | cons x l ih => exact ih (hf p x h)

theorem Keeps.foldr {α : Type} {f : α → State → State} {l : List α} (h : Keeps s₀ s) (hf : ∀ x s, Keeps s₀ s → Keeps s₀ (f x s)) :
    Keeps s₀ (l.foldr f s) := by
  induction l with
  | nil => exact h
  | cons x l ih => exact hf x _ ih

/-- An operation that returns a pair, where its result is matched. -/
theorem Keeps.of_fst {β : Type} {p : State × β} {x : β} (h : Keeps s₀ p.1) (hp : p = (t, x)) : Keeps s₀ t := by
  rwa [hp] at h

theorem Keeps.of_snd {β : Type} {p : β × State} {x : β} (h : Keeps s₀ p.2) (hp : p = (x, t)) : Keeps s₀ t := by
  rwa [hp] at h

/-- What a partial operation answers keeps it. -/
def KeepsSome (s₀ : State) (o : Option State) : Prop := ∀ t, o = some t → Keeps s₀ t

theorem KeepsSome.some (h : Keeps s₀ t) : KeepsSome s₀ (some t) := by
  rintro _ ⟨⟩
  exact h

theorem KeepsSome.none : KeepsSome s₀ none := fun _ h => absurd h (Option.some_ne_none _).symm

theorem KeepsSome.ite {c : Prop} [Decidable c] {o o' : Option State} (h : KeepsSome s₀ o) (h' : KeepsSome s₀ o') :
    KeepsSome s₀ (if c then o else o') := by
  split
  · exact h
  · exact h'

theorem KeepsSome.bind {o : Option State} {f : State → Option State} (ho : KeepsSome s₀ o) (hf : ∀ s, Keeps s₀ s → KeepsSome s₀ (f s)) :
    KeepsSome s₀ (o.bind f) := by
  cases o with
  | none => exact .none
  | some s => exact hf s (ho s rfl)

theorem KeepsSome.map {o : Option State} {f : State → State} (ho : KeepsSome s₀ o) (hf : ∀ s, Keeps s₀ s → Keeps s₀ (f s)) :
    KeepsSome s₀ (o.map f) := by
  cases o with
  | none => exact .none
  | some s => exact .some (hf s (ho s rfl))

/-- A value that something other than a state decides. -/
theorem KeepsSome.map_of {α : Type} {o : Option α} {f : α → State} (hf : ∀ x, Keeps s₀ (f x)) : KeepsSome s₀ (o.map f) := by
  cases o with
  | none => exact .none
  | some x => exact .some (hf x)

theorem KeepsSome.bind_of {α : Type} {o : Option α} {f : α → Option State} (hf : ∀ x, KeepsSome s₀ (f x)) : KeepsSome s₀ (o.bind f) := by
  cases o with
  | none => exact .none
  | some x => exact hf x

theorem KeepsSome.orElse {o : Option State} {f : Unit → Option State} (ho : KeepsSome s₀ o) (hf : KeepsSome s₀ (f ())) :
    KeepsSome s₀ (o.orElse f) := by
  cases o with
  | none => exact hf
  | some s => exact ho

theorem KeepsSome.foldl {α : Type} {f : Option State → α → Option State} {l : List α} {o : Option State} (ho : KeepsSome s₀ o)
    (hf : ∀ o x, KeepsSome s₀ o → KeepsSome s₀ (f o x)) : KeepsSome s₀ (l.foldl f o) := by
  induction l generalizing o with
  | nil => exact ho
  | cons x l ih => exact ih (hf o x ho)

theorem Keeps.getD {o : Option State} (ho : KeepsSome s₀ o) (h : Keeps s₀ s) : Keeps s₀ (o.getD s) := by
  cases o with
  | none => exact h
  | some s => exact ho s rfl

/-- What a step answers keeps it: where it answers a state. -/
def KeepsNext (s₀ : State) (o : Host.Outcome State Fault Refusal) : Prop := ∀ t, o = .next t → Keeps s₀ t

theorem KeepsNext.next (h : Keeps s₀ t) : KeepsNext s₀ (.next t) := by
  rintro _ ⟨⟩
  exact h

theorem KeepsNext.refused {r : Refusal} : KeepsNext s₀ (.refused r) := by
  intro t h
  simp at h

theorem KeepsNext.fault {r : Fault} : KeepsNext s₀ (.fault r) := by
  intro t h
  simp at h

/-! ### The operations of Machine/Ops.lean -/

theorem Keeps.onJob {id : Nat} {f : Job → Job} (h : Keeps s₀ s) : Keeps s₀ (State.onJob s id f) :=
  .onJobs h

theorem Keeps.noteStatus {before after : State} (h : Keeps s₀ after) : Keeps s₀ (noteStatus before after) :=
  .ite h (.onHost h rfl rfl)

theorem Keeps.ctrAdd {group pos n : Nat} (h : Keeps s₀ s) : Keeps s₀ (ctrAdd group pos n s) :=
  .ite (.onObs h rfl) h

theorem Keeps.traceRec {src : Nat} {t : Tower} {type job tick : Nat} {data : List Byte} (h : Keeps s₀ s) :
    Keeps s₀ (traceRec src t type job tick data s) := by
  dsimp only [Machine.traceRec]
  exact .ite (.ctrAdd (.onObs h rfl)) h

theorem Keeps.traceBeacon {j : Job} {type arg0 : Nat} (h : Keeps s₀ s) : Keeps s₀ (traceBeacon j type arg0 s) :=
  .traceRec h

theorem Keeps.traceJobBeacon {job type arg0 : Nat} (h : Keeps s₀ s) : Keeps s₀ (traceJobBeacon job type arg0 s) := by
  unfold Machine.traceJobBeacon
  split
  · exact .traceBeacon h
  · exact h

theorem Keeps.msixSend {v : Nat} (h : Keeps s₀ s) : Keeps s₀ (msixSend s v) :=
  .ite h (.ite (.onHost h rfl rfl) (.emit h))

theorem Keeps.msixFlush (h : Keeps s₀ s) : Keeps s₀ (msixFlush s) :=
  .foldl h fun _ _ h => .ite (.emit (.onHost h rfl rfl)) h

theorem Keeps.mbStore {mb off : Nat} {bs : List Byte} (h : Keeps s₀ s) : Keeps s₀ (mbStore s mb off bs) :=
  .onHost_wf h (fun hx => Memory.wf_memWrite _ _ _ hx) id

theorem Keeps.mbFinish {mb handoff status : Nat} {result : List Byte} (h : Keeps s₀ s) : Keeps s₀ (mbFinish s mb handoff status result) := by
  refine h.mem rfl fun hw => ?_
  rw [State.memoriesWf_iff] at hw ⊢
  obtain ⟨hmb, hrest⟩ := hw
  exact ⟨wf_mbFinish _ _ _ _ _ hmb, hrest⟩

theorem Keeps.complete {c : Cmd} {status : Nat} {result : List Byte} (h : Keeps s₀ s) : Keeps s₀ (complete c status result s) := by
  dsimp only [Machine.complete]
  exact .ite (.msixSend (.mbFinish h)) (.mbFinish h)

theorem Keeps.markStarted {c : Cmd} (h : Keeps s₀ s) : Keeps s₀ (markStarted c s) :=
  .onHost h rfl rfl

theorem Keeps.runCmd {opcode mb : Nat} {body : Cmd → State → State} (hbody : ∀ x s, Keeps s₀ s → Keeps s₀ (body x s)) (hs : Keeps s₀ s) :
    Keeps s₀ (runCmd opcode mb body s) := by
  unfold Machine.runCmd
  split
  · exact .ite (hbody _ _ hs) hs
  · exact hs

theorem Keeps.judged {c : Cmd} {checks : List (Bool × Nat)} {k : State} (h : Keeps s₀ s) (hk : Keeps s₀ k) : Keeps s₀ (judged c checks s k) := by
  unfold Machine.judged
  split
  · exact .complete h
  · exact hk

theorem Keeps.eventsReturn {c : Cmd} {n : Nat} (h : Keeps s₀ s) : Keeps s₀ (eventsReturn c n s) :=
  .complete (.onEv h)

theorem Keeps.postEvent {sev code job : Nat} {detail : List Byte} (h : Keeps s₀ s) : Keeps s₀ (postEvent sev code job detail s) := by
  dsimp only [Machine.postEvent]
  split
  · exact .ite (.noteStatus (.onHost (.same h rfl rfl) rfl rfl)) (.eventsReturn (.noteStatus (.onHost (.same h rfl rfl) rfl rfl)))
  · exact .noteStatus (.onHost (.same h rfl rfl) rfl rfl)

theorem Keeps.postNotice {code job : Nat} {detail : List Byte} (h : Keeps s₀ s) : Keeps s₀ (postNotice code job detail s) :=
  .postEvent h

theorem Keeps.postDeviceFault {code : Nat} {detail : List Byte} (h : Keeps s₀ s) : Keeps s₀ (postDeviceFault code detail s) :=
  .postEvent h

theorem Keeps.ctrFab {port k n : Nat} (h : Keeps s₀ s) : Keeps s₀ (ctrFab port k n s) :=
  .ctrAdd h

theorem Keeps.onPort {l : Nat} {f : Port → Port} (h : Keeps s₀ s) : Keeps s₀ (onPort l f s) :=
  .onFab h rfl

theorem Keeps.depart {l : Nat} {p : Pkt} (h : Keeps s₀ s) : Keeps s₀ (depart l p s) := by
  dsimp only [Machine.depart]
  exact .emit (.ite h (.onPort h))

theorem Keeps.releaseHeld {l : Nat} (h : Keeps s₀ s) : Keeps s₀ (releaseHeld l s) := by
  dsimp only [Machine.releaseHeld]
  split
  · exact h
  · split
    · exact h
    · exact .onPort (.foldl_fst h fun _ _ h => by
        split
        · exact h
        · dsimp only
          exact .depart h)

theorem Keeps.egressSend {l : Nat} {p : Pkt} {s0 : State} (h : Keeps s₀ s0) : Keeps s₀ (egressSend l p s0) := by
  dsimp only [Machine.egressSend]
  split
  · exact .releaseHeld h
  · exact .ite (.releaseHeld h) (.ctrFab (.ite (.onPort (.draw (.releaseHeld h))) (.depart (.onPort (.draw (.releaseHeld h))))))

theorem Keeps.linkSend {l op : Nat} {payload : List Byte} (h : Keeps s₀ s) : Keeps s₀ (linkSend l op payload s) :=
  .egressSend h

theorem Keeps.pfcUpdate {l : Nat} (h : Keeps s₀ s) : Keeps s₀ (pfcUpdate l s) := by
  dsimp only [Machine.pfcUpdate]
  split
  · exact h
  · exact .foldl h fun _ _ h => .ite h (.ite (.emit (.onPort h)) (.ite (.emit (.onPort h)) h))

theorem Keeps.rxEnter {l : Nat} {p : Pkt} (h : Keeps s₀ s) : Keeps s₀ (rxEnter l p s) := by
  dsimp only [Machine.rxEnter]
  exact .pfcUpdate (.draw (.onPort (.ctrFab h)))

theorem Keeps.portTick {l : Nat} (h : Keeps s₀ s) : Keeps s₀ (portTick l s) := by
  dsimp only [Machine.portTick]
  split
  · exact h
  · exact .releaseHeld (.ite h (.pfcUpdate (.draw (.onPort h))))

theorem Keeps.portsTick (h : Keeps s₀ s) : Keeps s₀ (portsTick s) :=
  .foldl h fun _ _ h => .portTick h

theorem Keeps.idle (h : Keeps s₀ s) : Keeps s₀ (idle s) :=
  .portsTick (.same h rfl rfl)

theorem Keeps.beaconDown {job : Nat} {b : Beacon} (h : Keeps s₀ s) : Keeps s₀ (beaconDown s job b) := by
  unfold Machine.beaconDown
  split
  · exact .traceJobBeacon (.foldl h fun _ _ h => .linkSend h)
  · exact h

theorem Keeps.beaconUp {job : Nat} {b : Beacon} (h : Keeps s₀ s) : Keeps s₀ (beaconUp s job b) := by
  unfold Machine.beaconUp
  split
  · exact .ite h (.traceJobBeacon (.linkSend h))
  · exact h

theorem Keeps.nextSeq {job : Nat} (h : Keeps s₀ s) : Keeps s₀ (nextSeq s job).1 := by
  dsimp only [Machine.nextSeq]
  split
  · dsimp only
    exact .onJob h
  · dsimp only
    exact h

theorem Keeps.sendSet {job : Nat} {b : Beacon} {copies gapNs : Nat} (h : Keeps s₀ s) : Keeps s₀ (sendSet s job b copies gapNs) :=
  .onJob (.beaconDown h)

theorem Keeps.undefine {a n : Nat} (h : Keeps s₀ s) : Keeps s₀ (undefine a n s) := by
  dsimp only [Machine.undefine]
  split
  · exact .onLoft_wf (.draw h) fun hx => Memory.wf_memWrite _ _ _ hx
  · refine .onLoft (.onHbm_wf (.draw h) fun hx => ?_) rfl
    exact Memory.wf_memWrite _ _ _ hx

theorem Keeps.undefineSweeps {job : Nat} (h : Keeps s₀ s) : Keeps s₀ (undefineSweeps job s) :=
  .foldl h fun _ _ h => .undefine h

theorem Keeps.dropWork {job : Nat} {p : Nat → Bool} {s0 : State} (h : Keeps s₀ s0) : Keeps s₀ (dropWork job p s0) := by
  dsimp only [Machine.dropWork]
  exact .same (.undefineSweeps h) rfl rfl

theorem Keeps.dropUnits {job : Nat} (h : Keeps s₀ s) : Keeps s₀ (dropUnits job s) :=
  .dropWork h

theorem Keeps.traceItemEnd {j : Job} {item code : Nat} {i : Item} (h : Keeps s₀ s) : Keeps s₀ (traceItemEnd j item code i s) :=
  .ite (.traceRec h) h

theorem Keeps.dumpEnd {d : Dump} {result : List Byte} (h : Keeps s₀ s) : Keeps s₀ (dumpEnd d result s) := by
  dsimp only [Machine.dumpEnd]
  split
  · exact .complete (.onObs h rfl)
  · exact .onObs h rfl

theorem Keeps.dumpsLost {job : Nat} {p : Dump → Bool} (h : Keeps s₀ s) : Keeps s₀ (dumpsLost job p s) :=
  .foldl h fun _ _ h => .dumpEnd h

theorem Keeps.postOverrun {job : Nat} (h : Keeps s₀ s) : Keeps s₀ (postOverrun job s) := by
  unfold Machine.postOverrun
  split
  · exact h
  · exact .ite h (.postNotice (.onJob h))

theorem Keeps.recordStretch {job : Nat} (h : Keeps s₀ s) : Keeps s₀ (recordStretch job s) :=
  .onJob h

theorem Keeps.closeWaits {job tick : Nat} (h : Keeps s₀ s) : Keeps s₀ (closeWaits job tick s) :=
  .onJob h

theorem Keeps.closeRecord {job : Nat} (h : Keeps s₀ s) : Keeps s₀ (closeRecord job s) := by
  unfold Machine.closeRecord
  split
  · exact .ite (.recordStretch (.closeWaits (.postOverrun h))) h
  · exact h

theorem Keeps.traceRunning {job code : Nat} (h : Keeps s₀ s) : Keeps s₀ (traceRunning job code s) := by
  unfold Machine.traceRunning
  split
  · exact h
  · exact .foldl h fun _ _ h => .ite (.traceItemEnd h) h

theorem Keeps.stopJob {job : Nat} {st : JobState} {e : ItemSt} {recState code item : Nat} (h : Keeps s₀ s) :
    Keeps s₀ (stopJob job st e recState code item s) :=
  .dumpsLost (.onJob (.dropUnits (.traceRunning (.closeRecord h))))

theorem Keeps.masterAbort {job code origin : Nat} (h : Keeps s₀ s) : Keeps s₀ (masterAbort job code origin s) := by
  dsimp only [Machine.masterAbort]
  split
  · exact h
  · exact .ite (.sendSet (.onJob (.stopJob (.nextSeq h)))) h

theorem Keeps.jobFault {job code : Nat} {detail : List Byte} (h : Keeps s₀ s) : Keeps s₀ (jobFault job code detail s) := by
  dsimp only [Machine.jobFault]
  split
  · exact .postEvent h
  · exact .ite (.masterAbort (.postEvent h)) (.beaconUp (.postEvent h))

theorem Keeps.abortReceived {job code origin : Nat} (h : Keeps s₀ s) : Keeps s₀ (abortReceived job code origin s) := by
  dsimp only [Machine.abortReceived]
  split
  · exact h
  · exact .stopJob (.postEvent h)

/-! ### The operations of Machine/Memory.lean -/

theorem Keeps.ctrHbm {t : Tower} {k n : Nat} (h : Keeps s₀ s) : Keeps s₀ (ctrHbm t k n s) :=
  .ctrAdd h

theorem Keeps.setMarks {a : Nat} {e : List (Nat × Byte)} (h : Keeps s₀ s) : Keeps s₀ (setMarks a e s) :=
  .onHbm h rfl

theorem Keeps.applyFlip {a : Nat} (h : Keeps s₀ s) : Keeps s₀ (applyFlip a s) := by
  dsimp only [Machine.applyFlip]
  split
  · exact .ite (.onHbm (.setMarks h) rfl) h
  · exact h

theorem Keeps.onHolder {t : Tower} {k : Nat} {f : Holder → Holder} (h : Keeps s₀ s) : Keeps s₀ (onHolder t k f s) :=
  .onHbm h rfl

theorem Keeps.hbmCharge {t : Tower} {holder : Nat} {write : Bool} {n : Nat} (h : Keeps s₀ s) : Keeps s₀ (hbmCharge t holder write n s) := by
  dsimp only [Machine.hbmCharge]
  exact .ctrHbm (.onHolder h)

theorem Keeps.hbmStoreBlock {a : Nat} {data : List Byte} {poison : Bool} (h : Keeps s₀ s) : Keeps s₀ (hbmStoreBlock a data poison s) :=
  .applyFlip (.setMarks (.onHbm_wf h fun hx => Memory.wf_memWrite _ _ _ hx))

theorem Keeps.failMailboxes {status : Nat} (h : Keeps s₀ s) : Keeps s₀ (failMailboxes status s) := by
  dsimp only [Machine.failMailboxes]
  exact .foldl h fun _ _ h => .ite (.onHost (.mbFinish h) rfl rfl) h

theorem Keeps.mcRegionFault {detail : List Byte} (h : Keeps s₀ s) : Keeps s₀ (mcRegionFault detail s) := by
  dsimp only [Machine.mcRegionFault]
  exact .failMailboxes (.noteStatus (.onHost (.postDeviceFault h) rfl rfl))

theorem Keeps.hbmUncorrectable {source holder job a : Nat} (h : Keeps s₀ s) : Keeps s₀ (hbmUncorrectable source holder job a s) := by
  dsimp only [Machine.hbmUncorrectable]
  exact .ite (.mcRegionFault (.setMarks h)) (.postNotice (.setMarks h))

theorem Keeps.pinTally {l : HbmLoc} {e : List (Nat × Byte)} (h : Keeps s₀ s) : Keeps s₀ (pinTally l e s) := by
  dsimp only [Machine.pinTally]
  split
  · exact .ite (.onHbm h rfl) h
  · exact h

theorem Keeps.noteSighting {a : Nat} {e : List (Nat × Byte)} (h : Keeps s₀ s) : Keeps s₀ (noteSighting a e s) :=
  .onHbm h rfl

theorem Keeps.hbmDecodeEffects {source holder job a : Nat} (h : Keeps s₀ s) : Keeps s₀ (hbmDecodeEffects source holder job a s) := by
  dsimp only [Machine.hbmDecodeEffects]
  split
  · exact h
  · exact .noteSighting (.pinTally (.ctrAdd h))
  · exact .ctrAdd h
  · exact .hbmUncorrectable (.ctrAdd h)

theorem Keeps.ctrLoft {die k n : Nat} (h : Keeps s₀ s) : Keeps s₀ (ctrLoft die k n s) :=
  .ctrAdd h

theorem Keeps.wordCorrected {k : Nat} (h : Keeps s₀ s) : Keeps s₀ (wordCorrected k s) :=
  .ctrLoft (.onLoft h rfl)

theorem Keeps.postLoftUncorrectable {t : Tower} {source key job holder addr : Nat} (h : Keeps s₀ s) :
    Keeps s₀ (postLoftUncorrectable t source key job holder addr s) := by
  dsimp only [Machine.postLoftUncorrectable]
  exact .postNotice h

theorem Keeps.evictCheck {l : BulkLine} (h : Keeps s₀ s) : Keeps s₀ (evictCheck l s).1 := by
  dsimp only [Machine.evictCheck]
  split
  · dsimp only
    exact .ite h (.ctrLoft h)
  · dsimp only
    split
    · exact .foldl (.ctrLoft h) fun _ _ h => .wordCorrected h
    · exact .postLoftUncorrectable (.ctrLoft (.foldl (.ctrLoft h) fun _ _ h => .wordCorrected h))

theorem Keeps.clearFlips {ks : List Nat} (h : Keeps s₀ s) : Keeps s₀ (clearFlips ks s) :=
  .ite h (.onLoft h rfl)

theorem Keeps.clearSlots {l : BulkLine} (h : Keeps s₀ s) : Keeps s₀ (clearSlots l s) :=
  .ite h (.clearFlips h)

theorem Keeps.ctrVlAt {t : Tower} {iface k n : Nat} (h : Keeps s₀ s) : Keeps s₀ (ctrVlAt t iface k n s) :=
  .ctrAdd h

theorem Keeps.beatMeets {t : Tower} {iface unit : Nat} (h : Keeps s₀ s) : Keeps s₀ (beatMeets t iface unit s) := by
  dsimp only [Machine.beatMeets]
  split
  · exact h
  · split
    · exact h
    · exact .ite h (.ite (.onHbm h rfl) (.ctrVlAt (.onHbm h rfl)))

theorem Keeps.hbmSend {a : Nat} {write : Bool} {data : List Byte} {poison : Bool} {holder : Nat} {early rx : Bool} {src : HbmSrc} (h : Keeps s₀ s) :
    Keeps s₀ (hbmSend a write data poison holder early rx src s) := by
  dsimp only [Machine.hbmSend]
  exact .onHbm h rfl

theorem Keeps.writeBackQuarters {la : Nat} {data : List Byte} {dirty : BitVec 4} {poison : BitVec 8} (h : Keeps s₀ s) :
    Keeps s₀ (writeBackQuarters la data dirty poison s) :=
  .foldl h fun _ _ h => .ite (.hbmSend h) h

theorem Keeps.loftFinish {mb : Nat} {result : List Byte} (h : Keeps s₀ s) : Keeps s₀ (loftFinish mb result s) := by
  dsimp only [Machine.loftFinish]
  split
  · exact .complete h
  · exact h

theorem Keeps.loftWaited {la : Nat} (h : Keeps s₀ s) : Keeps s₀ (loftWaited la s) := by
  dsimp only [Machine.loftWaited]
  exact .foldl (.onLoft h rfl) fun _ _ h => .loftFinish h

theorem Keeps.wbPop {t : Tower} {c : Nat} (h : Keeps s₀ s) : Keeps s₀ (wbPop t c s) := by
  dsimp only [Machine.wbPop]
  split
  · exact h
  · exact .loftWaited (.writeBackQuarters (.onLoft h rfl))

theorem Keeps.wbPops {t : Tower} {c n : Nat} (h : Keeps s₀ s) : Keeps s₀ (wbPops t c n s) := by
  induction n generalizing s with
  | zero => exact h
  | succ n ih => exact ih (.wbPop h)

theorem Keeps.wbDrain {la : Nat} (h : Keeps s₀ s) : Keeps s₀ (wbDrain la s) := by
  dsimp only [Machine.wbDrain]
  exact .wbPops h

theorem Keeps.dropLine {la : Nat} {l : BulkLine} (h : Keeps s₀ s) : Keeps s₀ (dropLine la l s) :=
  .onLoft h rfl

theorem Keeps.wbPush {la : Nat} {l : BulkLine} (h : Keeps s₀ s) : Keeps s₀ (wbPush la l s) := by
  dsimp only [Machine.wbPush]
  exact .onLoft (.evictCheck h) rfl

theorem Keeps.evictLine {la : Nat} {l : BulkLine} (h : Keeps s₀ s) : Keeps s₀ (evictLine la l s) :=
  .dropLine (.ite h (.wbPush h))

theorem Keeps.evictNow {la : Nat} {l : BulkLine} (h : Keeps s₀ s) : Keeps s₀ (evictNow la l s) :=
  .evictLine (.ite (.wbPop h) h)

theorem Keeps.ageSet {ls : List (Nat × BulkLine)} (h : Keeps s₀ s) : Keeps s₀ (ageSet ls s) := by
  dsimp only [Machine.ageSet]
  exact .ite h (.onLoft h rfl)

theorem KeepsSome.makeRoom {t : Tower} {c r st n : Nat} {tag : Bool} {keep : Option Nat} {fuel : Nat} (h : Keeps s₀ s) :
    KeepsSome s₀ (makeRoom t c r st n tag keep fuel s) := by
  induction fuel generalizing s with
  | zero => exact .some h
  | succ fuel ih =>
    dsimp only [Machine.makeRoom]
    split
    · exact .some h
    · split
      · exact .none
      · exact .ite .none (ih (.evictLine (.ageSet h)))

theorem Keeps.fillEnc {t : Tower} {c la : Nat} {data : List Byte} {valid : BitVec 4} {poison : BitVec 8} (h : Keeps s₀ s) :
    Keeps s₀ (fillEnc t c la data valid poison s).2 := by
  dsimp only [Machine.fillEnc]
  split
  · dsimp only
    exact .onLoft h rfl
  · dsimp only
    exact h

theorem KeepsSome.placeLine {t : Tower} {la : Nat} {data : List Byte} {valid dirty : BitVec 4} {poison : BitVec 8} {staged fill : Bool}
    (h : Keeps s₀ s) : KeepsSome s₀ (placeLine t la data valid dirty poison staged fill s) := by
  have henc (e : Nat) : Keeps s₀ (if fill then fillEnc t (bulkColumn s t la) la data valid poison s else (e, s)).2 := by
    split
    · exact .fillEnc h
    · exact h
  dsimp only [Machine.placeLine]
  split
  · exact .none
  · rename_i heq
    have hroom := KeepsSome.makeRoom (henc 0) _ heq
    split
    · exact .none
    · exact .ite .none (.some (.clearSlots (.onLoft hroom rfl)))

theorem KeepsSome.fitLine {la : Nat} {l : BulkLine} {enc bound : Nat} {anew : Bool} (h : Keeps s₀ s) :
    KeepsSome s₀ (fitLine la l enc bound anew s) := by
  dsimp only [Machine.fitLine]
  split
  · exact .some (.ite (.clearSlots (.onLoft h rfl)) (.onLoft h rfl))
  · split
    · exact .none
    · rename_i heq
      exact .ite .none (.some (.ite (.clearSlots (.onLoft ((KeepsSome.makeRoom h _ heq)) rfl)) (.onLoft ((KeepsSome.makeRoom h _ heq)) rfl)))

theorem KeepsSome.rewriteLine {la : Nat} {l : BulkLine} {data : List Byte} {valid dirty : BitVec 4} {poison : BitVec 8} (h : Keeps s₀ s) :
    KeepsSome s₀ (rewriteLine la l data valid dirty poison s) := by
  dsimp only [Machine.rewriteLine]
  exact .fitLine h

theorem KeepsSome.mergeLine {la : Nat} {l : BulkLine} {data : List Byte} {poison : BitVec 8} {staged : Bool} (h : Keeps s₀ s) :
    KeepsSome s₀ (mergeLine la l data poison staged s) := by
  dsimp only [Machine.mergeLine]
  exact .fitLine (.fillEnc h)

theorem Keeps.poisonLine {la : Nat} {l : BulkLine} {poison : BitVec 8} (h : Keeps s₀ s) : Keeps s₀ (poisonLine la l poison s) := by
  dsimp only [Machine.poisonLine]
  exact .getD (.fitLine (.ite (.wbPops h) h)) (.onLoft (.ite (.wbPops h) h) rfl)

theorem Keeps.applyLoftFlip {ks : List Nat} (h : Keeps s₀ s) : Keeps s₀ (applyLoftFlip ks s).1 := by
  dsimp only [Machine.applyLoftFlip]
  split
  · dsimp only
    exact h
  · exact .foldl_fst h fun _ _ h => by
      split
      · split
        · split
          · dsimp only
            exact .onHbm h rfl
          · dsimp only
            exact .onLoft (.onHbm h rfl) rfl
        · exact h
      · exact h

theorem Keeps.pinStore {a : Nat} {bs : List Byte} {pz : List Nat} (h : Keeps s₀ s) : Keeps s₀ (pinStore a bs pz s) := by
  dsimp only [Machine.pinStore]
  split
  · exact h
  · exact .onLoft_wf (.applyLoftFlip (.clearFlips h)) fun hx => Memory.wf_memWrite _ _ _ hx

theorem Keeps.bulkFlips {la off n : Nat} (h : Keeps s₀ s) : Keeps s₀ (bulkFlips la off n s) := by
  dsimp only [Machine.bulkFlips]
  split
  · exact h
  · split
    · exact h
    · exact .ite (.applyLoftFlip h) (.poisonLine (.applyLoftFlip h))

theorem Keeps.touchWords {l : BulkLine} {off n : Nat} (h : Keeps s₀ s) : Keeps s₀ (touchWords l off n s) :=
  .ite (.clearFlips h) h

theorem KeepsSome.bulkStore {la off : Nat} {bs : List Byte} {pz : BitVec 8} {staged : Bool} (h : Keeps s₀ s) :
    KeepsSome s₀ (bulkStore la off bs pz staged s) := by
  dsimp only [Machine.bulkStore]
  exact .map (by
    split
    · exact .rewriteLine (.touchWords h)
    · exact .placeLine h) (fun _ h => .bulkFlips h)

theorem Keeps.fineInvalidate {a n : Nat} (h : Keeps s₀ s) : Keeps s₀ (fineInvalidate a n s) := by
  dsimp only [Machine.fineInvalidate]
  exact .ite h (.onLoft h rfl)

/-! ### The operations of Machine/Loft.lean -/

theorem Keeps.pinCheck {job holder source a n : Nat} (h : Keeps s₀ s) : Keeps s₀ (pinCheck job holder source a n s) := by
  dsimp only [Machine.pinCheck]
  split
  · exact h
  · split
    · exact h
    · exact .foldl h fun _ _ h => .ite (.ctrLoft (.clearFlips (.onLoft h rfl))) (by
        split
        · exact .foldl h fun _ _ h => .wordCorrected h
        · exact .postLoftUncorrectable (.ctrLoft (.clearFlips (.onLoft (.foldl h fun _ _ h => .wordCorrected h) rfl))))

theorem Keeps.bulkCheck {job holder source la : Nat} (h : Keeps s₀ s) : Keeps s₀ (bulkCheck job holder source la s) := by
  dsimp only [Machine.bulkCheck]
  split
  · exact h
  · split
    · exact .ite h (.ctrLoft h)
    · split
      · exact .ite (.foldl (.ctrLoft h) fun _ _ h => .wordCorrected h) (.poisonLine (.clearFlips (.foldl (.ctrLoft h) fun _ _ h => .wordCorrected h)))
      · exact .ite (.onLoft (.ctrLoft (.foldl (.ctrLoft h) fun _ _ h => .wordCorrected h)) rfl) (.postLoftUncorrectable (.poisonLine (.clearFlips
          (.ctrLoft (.foldl (.ctrLoft h) fun _ _ h => .wordCorrected h)))))

theorem Keeps.fineCheck {t : Tower} {lf : Nat} (h : Keeps s₀ s) : Keeps s₀ (fineCheck t lf s) := by
  dsimp only [Machine.fineCheck]
  split
  · exact h
  · exact .ite h (.ite (.foldl h fun _ _ h => .wordCorrected h) (.onLoft (.ctrLoft (.foldl h fun _ _ h => .wordCorrected h)) rfl))

theorem Keeps.respond {id : Nat} {tag : LoadTag} {old : List (Nat × List Byte × Bool)} (h : Keeps s₀ s) : Keeps s₀ (respond id tag old s) :=
  .onCores h

theorem Keeps.answer {id : Nat} {bs : List Byte} {pz : List Nat} (h : Keeps s₀ s) : Keeps s₀ (answer id bs pz s) :=
  .onLoft h rfl

theorem Keeps.reply {r : LoftReq} (h : Keeps s₀ s) : Keeps s₀ (reply r s) := by
  unfold Machine.reply
  split
  · exact .respond h
  · exact .answer h
  · exact h

theorem KeepsSome.doStore {r : LoftReq} {bs : List (Nat × Byte)} {pz : List Nat} (h : Keeps s₀ s) : KeepsSome s₀ (doStore r bs pz s) := by
  dsimp only [Machine.doStore]
  exact .foldl (.some (.ite h (.fineInvalidate h))) fun _ _ h => .bind h (fun _ h => .ite (.some (.pinStore h)) (.bulkStore h))

theorem Keeps.lineWrite {o : Nat} {new : List Byte} {poison : Bool} (h : Keeps s₀ s) : Keeps s₀ (lineWrite o new poison s) := by
  dsimp only [Machine.lineWrite]
  split
  · exact h
  · exact .onLoft (.touchWords h) rfl

theorem Keeps.doReduce {r : LoftReq} {op : RedOp} {ty : RedTy} {ops : List LaneOp} {ret : Option LoadTag} (h : Keeps s₀ s) :
    Keeps s₀ (doReduce r op ty ops ret s) := by
  dsimp only [Machine.doReduce]
  split
  · exact .respond (.ctrAdd (.foldl_fst h fun _ _ h => .ite (.pinStore h) (.lineWrite h)))
  · exact .ctrAdd (.foldl_fst h fun _ _ h => .ite (.pinStore h) (.lineWrite h))

theorem Keeps.reduceBegin {la : Nat} (h : Keeps s₀ s) : Keeps s₀ (reduceBegin la s) := by
  unfold Machine.reduceBegin
  split
  · exact .ite h (.clearSlots (.onLoft h rfl))
  · exact h

theorem Keeps.reduceEnd {la : Nat} {exts : List (Nat × Nat)} (h : Keeps s₀ s) : Keeps s₀ (reduceEnd la exts s) := by
  dsimp only [Machine.reduceEnd]
  exact .foldl (by
    split
    · exact .getD (.orElse (.rewriteLine (.onLoft h rfl)) (.rewriteLine (.wbPops (.onLoft h rfl)))) (.onLoft (.onLoft h rfl) rfl)
    · exact h) fun _ _ h => .bulkFlips h

theorem Keeps.reduceLine {r : LoftReq} (h : Keeps s₀ s) : Keeps s₀ (reduceLine r s) := by
  dsimp only [Machine.reduceLine]
  split
  · exact .ite (.doReduce (.foldl (.beatMeets h) fun _ _ h => .pinCheck h)) (.reduceEnd (.doReduce (.reduceBegin (.beatMeets h))))
  · exact h

theorem Keeps.runReduction {t : Tower} {r : LoftReq} (h : Keeps s₀ s) : Keeps s₀ (runReduction t r s) :=
  .reduceLine (.onLoft h rfl)

theorem Keeps.settleLine {la : Nat} (h : Keeps s₀ s) : Keeps s₀ (settleLine la s) :=
  .foldl h fun _ _ h => .foldl h fun _ _ h => .runReduction h

theorem Keeps.setMiss {t : Tower} {c : Nat} {ms : List MissReg} (h : Keeps s₀ s) : Keeps s₀ (setMiss t c ms s) :=
  .onLoft h rfl

theorem Keeps.setHold {t : Tower} {c : Nat} {hs : List LoftReq} (h : Keeps s₀ s) : Keeps s₀ (setHold t c hs s) :=
  .onLoft h rfl

theorem Keeps.openMiss {t : Tower} {c : Nat} {r : LoftReq} (h : Keeps s₀ s) : Keeps s₀ (openMiss t c r s) := by
  dsimp only [Machine.openMiss]
  exact .foldl (.setMiss h) fun _ _ h => .hbmSend h

theorem Keeps.issueHeld {t : Tower} {c fuel : Nat} (h : Keeps s₀ s) : Keeps s₀ (issueHeld t c fuel s) := by
  induction fuel generalizing s with
  | zero => exact h
  | succ fuel ih =>
    unfold Machine.issueHeld
    split
    · exact h
    · exact ih (.ite (.setMiss (.setHold h)) (.openMiss (.setHold h)))

theorem Keeps.countLookup {t : Tower} {g : Agent} {miss : Bool} (h : Keeps s₀ s) : Keeps s₀ (countLookup t g miss s) :=
  .ite (.onLoft h rfl) h

theorem Keeps.touchLine {la : Nat} (h : Keeps s₀ s) : Keeps s₀ (touchLine la s) :=
  .onLoft h rfl

theorem Keeps.useLine {holder la : Nat} (h : Keeps s₀ s) : Keeps s₀ (useLine holder la s) := by
  unfold Machine.useLine
  split
  · exact .ite h (.onLoft h rfl)
  · exact h

theorem Keeps.touchGranule {t : Tower} {a : Nat} (h : Keeps s₀ s) : Keeps s₀ (touchGranule t a s) := by
  unfold Machine.touchGranule
  split
  · exact .onLoft h rfl
  · exact h

theorem Keeps.fineTouch {t : Tower} {l : FineLine} (h : Keeps s₀ s) : Keeps s₀ (fineTouch t l s) := by
  dsimp only [Machine.fineTouch]
  exact .onLoft h rfl

theorem Keeps.fineInstall {t : Tower} {lf : Nat} {valid : BitVec 4} {mc : Bool} (h : Keeps s₀ s) : Keeps s₀ (fineInstall t lf valid mc s) := by
  dsimp only [Machine.fineInstall]
  split
  · exact .fineTouch (.onLoft h rfl)
  · exact .fineTouch (.clearFlips (.onLoft h rfl))

theorem KeepsSome.fineAccess_fineMissPath {t : Tower} {cls : Nat} {r : LoftReq} {lf : Nat} {want : BitVec 4} {w : LoftT} (h : Keeps s₀ s) :
    KeepsSome s₀ (fineAccess.fineMissPath t cls r lf want w s) := by
  dsimp only [Machine.fineAccess.fineMissPath]
  split
  · exact .some (.fineInstall h)
  · split
    · exact .ite .none (.some (.onLoft h rfl))
    · exact .ite .none (.some (.hbmSend (.onLoft h rfl)))

theorem KeepsSome.fineAccess {t : Tower} {cls : Nat} {r : LoftReq} (h : Keeps s₀ s) : KeepsSome s₀ (fineAccess t cls r s) := by
  dsimp only [Machine.fineAccess]
  split
  · exact .ite (.some (.fineTouch (.fineCheck h))) (.fineAccess_fineMissPath (.fineCheck h))
  · exact .fineAccess_fineMissPath (.fineCheck h)

theorem KeepsSome.missPath {t : Tower} {c : Nat} {r : LoftReq} (h : Keeps s₀ s) : KeepsSome s₀ (missPath t c r s) := by
  dsimp only [Machine.missPath]
  split
  · exact .ite .none (.some (.setMiss h))
  · exact .ite (.some (.openMiss h)) (.ite .none (.ite (.some (.onLoft (.setHold h) rfl)) (.some (.setHold h))))

theorem KeepsSome.serveRead {t : Tower} {c : Nat} {r : LoftReq} (h : Keeps s₀ s) : KeepsSome s₀ (serveRead t c r s) := by
  dsimp only [Machine.serveRead]
  split
  · exact .some (.reply (.foldl h fun _ _ h => .pinCheck (.ite h (.touchGranule h))))
  · split
    · exact .ite (.some (.reply (.useLine (.touchLine (.countLookup (.bulkCheck h)))))) (.missPath (.countLookup (.bulkCheck h)))
    · exact .missPath (.countLookup (.bulkCheck h))

theorem KeepsSome.serveStore {t : Tower} {c : Nat} {r : LoftReq} {bs : List (Nat × Byte)} {pz : List Nat} (h : Keeps s₀ s) :
    KeepsSome s₀ (serveStore t c r bs pz s) := by
  dsimp only [Machine.serveStore]
  exact .ite (.doStore h) (.ite (.some (.foldl (.wbDrain (.fineInvalidate (.countLookup (.bulkCheck h)))) fun _ _ h => .foldl h fun _ _ h
      => .hbmSend h)) (.ite (.doStore (.countLookup (.bulkCheck h))) (.missPath (.countLookup (.bulkCheck h)))))

theorem KeepsSome.serveReduce {t : Tower} {c : Nat} {r : LoftReq} {op : RedOp} {ty : RedTy} {ops : List LaneOp} {ret : Option LoadTag}
    (h : Keeps s₀ s) :
    KeepsSome s₀ (serveReduce t c r op ty ops ret s) := by
  dsimp only [Machine.serveReduce]
  split
  · exact .some (.onLoft h rfl)
  · split
    · exact .ite (.some (.onLoft (.onLoft (.touchLine (.countLookup (.bulkCheck h))) rfl) rfl)) (.missPath (.countLookup (.bulkCheck h)))
    · exact .ite (.some (.hbmSend (.wbDrain (.fineInvalidate (.bulkCheck h))))) (.missPath (.countLookup (.bulkCheck h)))

theorem KeepsSome.serveRequest {t : Tower} {c : Nat} {r : LoftReq} (h : Keeps s₀ s) : KeepsSome s₀ (serveRequest t c r s) := by
  dsimp only [Machine.serveRequest]
  split
  · exact .fineAccess (.ite (.beatMeets h) h)
  · exact .serveRead (.ite (.beatMeets h) h)
  · exact .serveRead (.ite (.beatMeets h) h)
  · exact .serveStore (.ite (.beatMeets h) h)
  · exact .serveReduce (.ite (.beatMeets h) h)

theorem Keeps.nextServed {t : Tower} {c : Nat} (h : Keeps s₀ s) : ∀ p, nextServed t c s = some p → Keeps s₀ p.2 := by
  intro p hp
  dsimp only [Machine.nextServed] at hp
  split at hp
  · simp at hp
  · obtain ⟨r, -, hr⟩ := List.exists_of_findSome?_eq_some hp
    split at hr
    · obtain ⟨u, hu, rfl⟩ := Option.map_eq_some_iff.mp hr
      exact KeepsSome.serveRequest h u hu
    · simp at hr

theorem Keeps.leaveArrivals {t : Tower} {id : Nat} (h : Keeps s₀ s) : Keeps s₀ (leaveArrivals t id s) :=
  .onLoft h rfl

theorem Keeps.loftAccess {t : Tower} {col : Nat} {flips : List (Nat × BitVec 72)} (h : Keeps s₀ s) : Keeps s₀ (loftAccess t col flips s) := by
  dsimp only [Machine.loftAccess]
  split
  · rename_i heq
    exact .leaveArrivals ((Keeps.nextServed (.onLoft h rfl) _ heq))
  · exact .onLoft h rfl

theorem KeepsSome.serveWaiter {r : LoftReq} (h : Keeps s₀ s) : KeepsSome s₀ (serveWaiter r s) := by
  unfold Machine.serveWaiter
  split
  · exact .some (.reply (.useLine h))
  · exact .some (.reply (.useLine h))
  · exact .doStore h
  · exact .some (.reduceLine h)
  · exact .some h

theorem Keeps.answerReads {la : Nat} {data : List Byte} {poison : BitVec 8} {ws : List LoftReq} (h : Keeps s₀ s) :
    Keeps s₀ (answerReads la data poison ws s) := by
  unfold Machine.answerReads
  exact .foldl h fun _ _ h => by
    split
    · exact .answer h
    · exact h

theorem KeepsSome.closeMiss {t : Tower} {col : Nat} {m : MissReg} (h : Keeps s₀ s) : KeepsSome s₀ (closeMiss t col m s) := by
  dsimp only [Machine.closeMiss]
  exact .map (.ite (.some (.answerReads h)) (.bind (by
    split
    · exact .ite (.some h) (.mergeLine h)
    · exact .placeLine h) (fun _ h => .foldl (.some h) fun _ _ h => .bind h (fun _ h => .serveWaiter h)))) (fun _ h => .issueHeld (.setMiss h))

theorem Keeps.bulkFillComplete {t : Tower} {col : Nat} (h : Keeps s₀ s) : Keeps s₀ (bulkFillComplete t col s) := by
  unfold Machine.bulkFillComplete
  split
  · exact h
  · exact .getD (.closeMiss h) h

theorem Keeps.fineClose {t : Tower} {m : FineMiss} (h : Keeps s₀ s) : Keeps s₀ (fineClose t m s) :=
  .fineInstall (.onLoft h rfl)

theorem Keeps.fineFillComplete {t : Tower} (h : Keeps s₀ s) : Keeps s₀ (fineFillComplete t s) := by
  unfold Machine.fineFillComplete
  split
  · exact h
  · exact .fineClose h

theorem Keeps.memorySideReduction {t : Tower} {id : Nat} (h : Keeps s₀ s) : Keeps s₀ (memorySideReduction t id s) := by
  unfold Machine.memorySideReduction
  split
  · exact .runReduction h
  · exact h

/-! ### The operations of Machine/Hbm.lean -/

theorem Keeps.holderBudgetWindowEnd {t : Tower} {holder : Nat} (h : Keeps s₀ s) : Keeps s₀ (holderBudgetWindowEnd t holder s) :=
  .ite (.onHolder (.ite (.ctrHbm (.timeTo h)) (.timeTo h))) h

theorem Keeps.acceptReq {k : Nat} {r : HbmReq} (h : Keeps s₀ s) : Keeps s₀ (acceptReq k r s) := by
  dsimp only [Machine.acceptReq]
  exact .ite (.hbmCharge (.hbmCharge (.onHbm h rfl))) (.hbmCharge (.onHbm h rfl))

theorem Keeps.promoteSide {k : Nat} {rs : List HbmReq} (h : Keeps s₀ s) : Keeps s₀ (promoteSide k rs s) := by
  induction rs generalizing s with
  | nil => exact h
  | cons r rs ih =>
    unfold Machine.promoteSide
    split
    · exact ih (.acceptReq (.onHbm h rfl))
    · exact ih h

theorem Keeps.hbmRequest {stack ch : Nat} (h : Keeps s₀ s) : Keeps s₀ (hbmRequest stack ch s) := by
  dsimp only [Machine.hbmRequest]
  split
  · exact .promoteSide h
  · exact .ite (.promoteSide h) (.ite (.ctrHbm (.onHbm (.onHbm (.promoteSide h) rfl) rfl)) (.ite (.promoteSide h) (.acceptReq (.onHbm (.promoteSide
      h) rfl))))

theorem Keeps.hbmAgePriority {stack ch : Nat} (h : Keeps s₀ s) : Keeps s₀ (hbmAgePriority stack ch s) := by
  dsimp only [Machine.hbmAgePriority]
  split
  · exact h
  · exact .onHbm (.timeTo h) rfl

theorem Keeps.countServed {t : Tower} {r : HbmReq} {c : Chan} {st : State} (h : Keeps s₀ st) : Keeps s₀ (countServed s t r c st) := by
  dsimp only [Machine.countServed]
  exact .ite (.ctrHbm (.ite (.ctrHbm h) h)) (.ite (.ctrHbm h) h)

theorem Keeps.deliver {a : Nat} {src : HbmSrc} {data : List Byte} {poison : Bool} (h : Keeps s₀ s) : Keeps s₀ (deliver a src data poison s) := by
  unfold Machine.deliver
  split
  · exact .setMiss h
  · exact .onLoft h rfl
  · exact .answer h
  · exact h
  · exact h

theorem Keeps.readWithErrors {r : HbmReq} {err : List (Nat × Byte)} (h : Keeps s₀ s) : Keeps s₀ (readWithErrors r err s).1 := by
  dsimp only [Machine.readWithErrors]
  split
  · dsimp only
    exact .hbmDecodeEffects (.setMarks h)
  · dsimp only
    exact .setMarks (.hbmDecodeEffects (.setMarks h))

theorem Keeps.ctrInner {stack n : Nat} (h : Keeps s₀ s) : Keeps s₀ (ctrInner stack n s) :=
  .ctrAdd h

theorem Keeps.floorReduce {holder job b : Nat} {op : RedOp} {ty : RedTy} {ops : List LaneOp} {ret : Option (Nat × LoadTag)} (h : Keeps s₀ s) :
    Keeps s₀ (floorReduce holder job b op ty ops ret s) := by
  dsimp only [Machine.floorReduce]
  split
  · split
    · exact .respond (.ite (.mcRegionFault (.ctrAdd (.ctrAdd h))) (.jobFault (.ctrAdd (.ctrAdd h))))
    · exact .ite (.mcRegionFault (.ctrAdd (.ctrAdd h))) (.jobFault (.ctrAdd (.ctrAdd h)))
  · split
    · exact .respond (.hbmStoreBlock (.ctrAdd (.ctrAdd h)))
    · exact .hbmStoreBlock (.ctrAdd (.ctrAdd h))
  · split
    · exact .respond (.hbmStoreBlock (.ctrAdd h))
    · exact .hbmStoreBlock (.ctrAdd h)
  · split
    · exact .respond (.hbmStoreBlock (.hbmDecodeEffects (.ctrAdd h)))
    · exact .hbmStoreBlock (.hbmDecodeEffects (.ctrAdd h))

theorem Keeps.hbmServe {k : Nat} {r : HbmReq} {ns : Nat} {err : List (Nat × Byte)} {inner : Nat} (h : Keeps s₀ s) :
    Keeps s₀ (hbmServe k r ns err inner s) := by
  dsimp only [Machine.hbmServe]
  split
  · exact .floorReduce (.ctrInner (.onObs (.countServed (.onHbm h rfl)) rfl))
  · exact .ite (.hbmStoreBlock (.beatMeets (.onObs (.countServed (.onHbm h rfl)) rfl))) (.deliver (.onHolder (.readWithErrors (.ctrInner
      (.beatMeets (.onObs (.countServed (.onHbm h rfl)) rfl))))))

theorem Keeps.hbmAccessComplete {stack ch : Nat} {err : List (Nat × Byte)} {inner : Bool} (h : Keeps s₀ s) :
    Keeps s₀ (hbmAccessComplete stack ch err inner s) := by
  dsimp only [Machine.hbmAccessComplete]
  split
  · split
    · exact h
    · exact .hbmServe (.draw h)
  · exact h

theorem Keeps.floorReduction {stack ch : Nat} (h : Keeps s₀ s) : Keeps s₀ (floorReduction stack ch s) := by
  dsimp only [Machine.floorReduction]
  split
  · split
    · exact h
    · exact .hbmServe (.draw h)
  · exact h

theorem Keeps.hbmRefresh {stack : Nat} {bank : Option Nat} (h : Keeps s₀ s) : Keeps s₀ (hbmRefresh stack bank s) := by
  dsimp only [Machine.hbmRefresh]
  exact .ite h (.ite (.onHbm h rfl) (.ctrHbm (.onHbm (.onHbm h rfl) rfl)))

/-! ### The operations of Machine/Access.lean -/

theorem Keeps.acceptAll {k n : Nat} (h : Keeps s₀ s) : Keeps s₀ (acceptAll k n s) := by
  induction n generalizing s with
  | zero => exact h
  | succ n ih => exact ih (.hbmRequest h)

theorem KeepsSome.chanStep {k pc : Nat} (h : Keeps s₀ s) : KeepsSome s₀ (chanStep k pc s) := by
  dsimp only [Machine.chanStep]
  exact .ite (.map_of fun _ => .hbmServe (.draw (.acceptAll h))) .none

theorem Keeps.driveChan {k pc : Nat} {goal : State → Bool} {n : Nat} (h : Keeps s₀ s) : Keeps s₀ (driveChan k pc goal n s) := by
  induction n generalizing s with
  | zero => exact h
  | succ n ih =>
    unfold Machine.driveChan
    split
    · exact h
    · split
      · rename_i heq
        exact ih (KeepsSome.chanStep h _ heq)
      · exact h

theorem Keeps.driveAddr {a : Nat} {goal : State → Bool} (h : Keeps s₀ s) : Keeps s₀ (driveAddr a goal s) := by
  dsimp only [Machine.driveAddr]
  exact .driveChan h

theorem Keeps.fetchLine {t : Tower} {c la : Nat} (h : Keeps s₀ s) : Keeps s₀ (fetchLine t c la s) :=
  .driveAddr h

theorem KeepsSome.closeNow {t : Tower} {c la : Nat} (h : Keeps s₀ s) : KeepsSome s₀ (closeNow t c la s) :=
  .bind_of fun _ => .closeMiss (.fetchLine h)

theorem Keeps.relieve {t : Tower} {c : Nat} (h : Keeps s₀ s) : Keeps s₀ (relieve t c s) := by
  unfold Machine.relieve
  split
  · exact .runReduction h
  · split
    · exact .wbPop h
    · split
      · exact .getD (.closeNow h) h
      · exact h

theorem Keeps.pump {t : Tower} {c id : Nat} (h : Keeps s₀ s) : Keeps s₀ (pump t c id s) := by
  dsimp only [Machine.pump]
  split
  · split
    · exact .runReduction h
    · split
      · exact .relieve h
      · split
        · rename_i heq
          exact .leaveArrivals ((KeepsSome.serveRequest h _ heq))
        · exact .relieve h
  · split
    · exact .runReduction h
    · split
      · exact .getD (.closeNow h) (.relieve h)
      · exact .relieve h

theorem Keeps.serveUntil {t : Tower} {c id n : Nat} (h : Keeps s₀ s) : Keeps s₀ (serveUntil t c id n s) := by
  induction n generalizing s with
  | zero => exact h
  | succ n ih => exact .ite (ih (.pump h)) h

theorem Keeps.askLoft {g : Agent} {job a : Nat} {kind : ReqKind} {noAlloc : Bool} (h : Keeps s₀ s) : Keeps s₀ (askLoft g job a kind noAlloc s).1 := by
  dsimp only [Machine.askLoft]
  exact .serveUntil (.onLoft (.onCores h) rfl)

theorem Keeps.takeAnswer {id a n : Nat} (h : Keeps s₀ s) : Keeps s₀ (takeAnswer id a n s).1 := by
  dsimp only [Machine.takeAnswer]
  split
  · dsimp only
    exact .onLoft h rfl
  · dsimp only
    exact h

theorem Keeps.finishReductions {t : Tower} (h : Keeps s₀ s) : Keeps s₀ (finishReductions t s) :=
  .foldl h fun _ _ h => .runReduction h

theorem Keeps.drainTower {t : Tower} (h : Keeps s₀ s) : Keeps s₀ (drainTower t s) := by
  dsimp only [Machine.drainTower]
  exact .foldl h fun _ _ h => .serveUntil h

theorem Keeps.drainChans (h : Keeps s₀ s) : Keeps s₀ (drainChans s) :=
  .foldl h fun _ _ h => .driveChan h

theorem Keeps.touchGranules {a n : Nat} (h : Keeps s₀ s) : Keeps s₀ (touchGranules a n s) :=
  .foldl h fun _ _ h => .touchGranule h

theorem Keeps.engineRead {g : Agent} {job a n : Nat} (h : Keeps s₀ s) : Keeps s₀ (engineRead g job a n s).1 := by
  dsimp only [Machine.engineRead]
  split
  · dsimp only
    exact .pinCheck (.ite h (.touchGranules h))
  · exact .foldl_fst h fun _ _ h => .takeAnswer (.askLoft h)

theorem Keeps.engineWrite {g : Agent} {job : Nat} {noAlloc : Bool} {a : Nat} {bs : List Byte} {pz : List Nat} (h : Keeps s₀ s) :
    Keeps s₀ (engineWrite g job noAlloc a bs pz s) := by
  dsimp only [Machine.engineWrite]
  exact .ite (.pinStore h) (.foldl h fun _ _ h => .askLoft h)

theorem Keeps.engineReduce {g : Agent} {job : Nat} {noAlloc : Bool} {op : RedOp} {ty : RedTy} {ops : List LaneOp} (h : Keeps s₀ s) :
    Keeps s₀ (engineReduce g job noAlloc op ty ops s) := by
  dsimp only [Machine.engineReduce]
  exact .foldl h fun _ _ h => .askLoft h

theorem Keeps.hbmDirect {g : Agent} {a : Nat} {bs : List Byte} {pz : List Nat} (h : Keeps s₀ s) : Keeps s₀ (hbmDirect g a bs pz s) :=
  .foldl (.fineInvalidate h) fun _ _ h => .hbmSend (.wbDrain h)

theorem Keeps.hbmReadNow {g : Agent} {job a : Nat} (h : Keeps s₀ s) : Keeps s₀ (hbmReadNow g job a s).1 := by
  dsimp only [Machine.hbmReadNow]
  exact .takeAnswer (.driveAddr (.hbmSend (.wbDrain (.onCores h))))

theorem Keeps.finePair {cls job a : Nat} (h : Keeps s₀ s) : Keeps s₀ (finePair cls job a s) := by
  dsimp only [Machine.finePair]
  split
  · split
    · split
      · exact .fineClose (.driveAddr (.askLoft h))
      · exact .driveAddr (.askLoft h)
    · exact .askLoft h
  · split
    · split
      · exact .fineClose (.driveAddr (.askLoft h))
      · exact .driveAddr (.askLoft h)
    · exact .askLoft h

theorem Keeps.fineRead {cls job a n : Nat} (h : Keeps s₀ s) : Keeps s₀ (fineRead cls job a n s).1 := by
  dsimp only [Machine.fineRead]
  split
  · exact .engineRead h
  · dsimp only
    exact .foldl h fun _ _ h => .finePair h

theorem Keeps.evictForMove {la : Nat} {acc : State × List Nat × Nat} (h : Keeps s₀ acc.1) : Keeps s₀ (evictForMove la acc).1 := by
  dsimp only [Machine.evictForMove]
  split
  · dsimp only
    exact .settleLine h
  · split
    · dsimp only
      exact .evictNow (.settleLine h)
    · dsimp only
      exact .evictNow (.settleLine h)

theorem Keeps.setFrames {t : Tower} {c : Nat} {tab : List Nat} {acc : State × List Nat × Nat} (h : Keeps s₀ acc.1) :
    Keeps s₀ (setFrames t c tab acc).1 := by
  refine .foldl_fst ?_ fun _ _ h => .evictForMove h
  dsimp only
  exact .onLoft h rfl

theorem Keeps.cleanLine {inval : Bool} {la : Nat} {acc : State × List Nat × Nat × Nat} (h : Keeps s₀ acc.1) :
    Keeps s₀ (cleanLine inval la acc).1 := by
  dsimp only [Machine.cleanLine]
  split
  · dsimp only
    exact .settleLine h
  · dsimp only
    exact .ite (.dropLine (.ite (.ite (.wbPop (.settleLine h)) (.settleLine h)) (.wbPush (.ite (.wbPop (.settleLine h)) (.settleLine h)))))
        (.onLoft (.ite (.ite (.wbPop (.settleLine h)) (.settleLine h)) (.wbPush (.ite (.wbPop (.settleLine h)) (.settleLine h)))) rfl)

theorem Keeps.flushOut {la : Nat} {acc : State × Nat} (h : Keeps s₀ acc.1) : Keeps s₀ (flushOut la acc).1 := by
  dsimp only [Machine.flushOut]
  split
  · dsimp only
    exact .settleLine h
  · split
    · dsimp only
      exact .dropLine (.settleLine h)
    · dsimp only
      exact .evictNow (.settleLine h)

theorem Keeps.wbEmpty {t : Tower} {c : Nat} {acc : State × Nat} (h : Keeps s₀ acc.1) : Keeps s₀ (wbEmpty t c acc).1 := by
  dsimp only [Machine.wbEmpty]
  exact .wbPops (.onLoft h rfl)

theorem Keeps.flushTower {t : Tower} {acc : State × Nat} (h : Keeps s₀ acc.1) : Keeps s₀ (flushTower t acc).1 := by
  dsimp only [Machine.flushTower]
  exact .onLoft (.foldl_fst (.foldl_fst h fun _ _ h => .flushOut h) fun _ _ h => .wbEmpty h) rfl

theorem Keeps.flushTowers {ts : List Tower} (h : Keeps s₀ s) : Keeps s₀ (flushTowers ts s) :=
  .foldl_fst h fun _ _ h => .flushTower h

theorem Keeps.fineDrop {rs : List (Nat × Nat)} (h : Keeps s₀ s) : Keeps s₀ (fineDrop rs s) :=
  .foldl h fun _ _ h => .fineInvalidate h

theorem Keeps.writebackAccepted {t : Tower} {col : Nat} (h : Keeps s₀ s) : Keeps s₀ (writebackAccepted t col s) := by
  dsimp only [Machine.writebackAccepted]
  split
  · exact h
  · exact .ite (.acceptAll (.wbPop (.acceptAll h))) (.acceptAll h)

/-! ### The operations of Machine/Bays.lean -/

theorem Keeps.loftWait {c : Cmd} {las : List Nat} {result : List Byte} (h : Keeps s₀ s) : Keeps s₀ (loftWait c las result s) := by
  dsimp only [Machine.loftWait]
  exact .ite (.loftFinish (.markStarted h)) (.onLoft (.markStarted h) rfl)

theorem Keeps.convertFrame {t : Tower} {job layout b : Nat} {acc : State × List Nat × Nat} (h : Keeps s₀ acc.1) :
    Keeps s₀ (convertFrame t job layout b acc).1 := by
  dsimp only [Machine.convertFrame]
  exact .onLoft_wf (.setFrames h) fun hx => Memory.wf_memClear _ _ _ hx

theorem Keeps.loftPin {c : Cmd} (h : Keeps s₀ s) : Keeps s₀ (loftPin c s) := by
  dsimp only [Machine.loftPin]
  split
  · exact .complete h
  · split
    · exact .complete h
    · split
      · exact .complete h
      · split
        · split
          · exact .complete h
          · split
            · exact .complete h
            · exact .ite (.complete h) (.loftWait (.foldl_fst h fun _ _ h => .convertFrame h))
        · split
          · exact .complete h
          · split
            · exact .complete h
            · exact .ite (.complete h) (.loftWait (.foldl_fst h fun _ _ h => .convertFrame h))

theorem Keeps.unpinBay {b : Nat} {acc : State × List Nat × Nat} (h : Keeps s₀ acc.1) : Keeps s₀ (unpinBay b acc).1 := by
  refine .setFrames ?_
  dsimp only
  exact .onLoft_wf h fun hx => Memory.wf_memClear _ _ _ hx

theorem Keeps.loftUnpin {c : Cmd} (h : Keeps s₀ s) : Keeps s₀ (loftUnpin c s) := by
  dsimp only [Machine.loftUnpin]
  exact .judged h (.loftWait (.foldl_fst h fun _ _ h => .unpinBay h))

theorem Keeps.loftQuota {c : Cmd} (h : Keeps s₀ s) : Keeps s₀ (loftQuota c s) := by
  dsimp only [Machine.loftQuota]
  exact .judged h (.complete (.onLoft (.ite (.onJob h) h) rfl))

theorem Keeps.loftFlush {c : Cmd} (h : Keeps s₀ s) : Keeps s₀ (loftFlush c s) := by
  dsimp only [Machine.loftFlush]
  exact .judged h (.loftWait (.ite (.fineDrop (.foldl_fst (.draw h) fun _ _ h => .cleanLine h)) (.foldl_fst (.draw h) fun _ _ h => .cleanLine h)))

theorem Keeps.loftThrash {t : Tower} (h : Keeps s₀ s) : Keeps s₀ (loftThrash t s) := by
  dsimp only [Machine.loftThrash]
  exact .ite (.postNotice (.onLoft h rfl)) h

theorem Keeps.bankHot {t : Tower} (h : Keeps s₀ s) : Keeps s₀ (bankHot t s) := by
  dsimp only [Machine.bankHot]
  exact .ite (.postNotice (.onLoft h rfl)) h

theorem Keeps.restartSamples {t : Tower} (h : Keeps s₀ s) : Keeps s₀ (restartSamples t s) := by
  dsimp only [Machine.restartSamples]
  exact .onHbm h rfl

theorem Keeps.towerForJob {t : Tower} (h : Keeps s₀ s) : Keeps s₀ (towerForJob t s) := by
  dsimp only [Machine.towerForJob]
  exact .restartSamples (.onLoft (.ite h (.foldl_fst h fun _ _ h => .setFrames h)) rfl)

/-! ### The operations of Machine/Cellar.lean -/

theorem Keeps.applyMode {t : Tower} {m : Bool × Bool} (h : Keeps s₀ s) : Keeps s₀ (applyMode t m s) :=
  .onHbm h rfl

theorem Keeps.setMode {t : Tower} {m : Bool × Bool} (h : Keeps s₀ s) : Keeps s₀ (setMode t m s) :=
  .ite (.onHbm h rfl) (.applyMode h)

theorem Keeps.hbmBoundary {t : Tower} (h : Keeps s₀ s) : Keeps s₀ (hbmBoundary t s) := by
  dsimp only [Machine.hbmBoundary]
  exact .onHbm (by
    split
    · exact .applyMode h
    · exact h) rfl

theorem Memory.wf_moved (m : Memory) (place : Nat → Nat) : Memory.wf (m.foldl (fun m e => memPut m (place e.1) e.2) []) = true := by
  refine List.foldlRecOn (motive := fun m => Memory.wf m = true) m _ rfl fun _ hm _ _ => ?_
  exact Memory.wf_memPut _ _ _ hm

theorem Memory.wf_overlaid (bs : List (Nat × Byte)) : Memory.wf (bs.foldl (fun m b => memPut m b.1 b.2) []) = true := by
  refine List.foldlRecOn (motive := fun m => Memory.wf m = true) bs _ rfl fun _ hm _ _ => ?_
  exact Memory.wf_memPut _ _ _ hm

theorem Keeps.rehome {g : Bool} (h : Keeps s₀ s) : Keeps s₀ (rehome g s) := by
  unfold Machine.rehome
  split
  · exact h
  · exact .onHbm_wf h fun _ => Memory.wf_moved s.hbm.mem _

theorem Keeps.cellarConfig {c : Cmd} (h : Keeps s₀ s) : Keeps s₀ (cellarConfig c s) := by
  dsimp only [Machine.cellarConfig]
  exact .judged h (.complete (.ite (.onHbm (.onFlash (.ite (.setMode (.setMode (.ite (.rehome (.drainChans (.flushTowers h))) h))) (.ite (.rehome
      (.drainChans (.flushTowers h))) h)) rfl) rfl) (.onFlash (.ite (.setMode (.setMode (.ite (.rehome (.drainChans (.flushTowers h))) h))) (.ite
          (.rehome (.drainChans (.flushTowers h))) h)) rfl)))

theorem Keeps.bwBudget {c : Cmd} (h : Keeps s₀ s) : Keeps s₀ (bwBudget c s) := by
  dsimp only [Machine.bwBudget]
  exact .judged h (.complete (.foldl h fun _ _ h => .onHolder h))

/-! ### The operations of Machine/Integrity.lean -/

theorem Keeps.setRepairs {stack : Nat} {rs : List Repair} (h : Keeps s₀ s) : Keeps s₀ (setRepairs stack rs s) :=
  .onFlash (.onHbm h rfl) rfl

theorem Keeps.correctBlock {a : Nat} (h : Keeps s₀ s) : Keeps s₀ (correctBlock a s) := by
  unfold Machine.correctBlock
  split
  · exact .setMarks (.onHbm_wf h fun hx => Memory.wf_memWrite _ _ _ hx)
  · exact h

theorem Keeps.remapFullHbm {evSource repSource a : Nat} (h : Keeps s₀ s) : Keeps s₀ (remapFullHbm evSource repSource a s) := by
  dsimp only [Machine.remapFullHbm]
  exact .ite (.onFlash (.onHbm (.postNotice h) rfl) rfl) (.postNotice h)

theorem Keeps.addBlock {src a : Nat} (h : Keeps s₀ s) : Keeps s₀ (addBlock src a s).2 := by
  dsimp only [Machine.addBlock]
  split
  · dsimp only
    exact h
  · split
    · dsimp only
      exact .remapFullHbm (.draw h)
    · dsimp only
      exact .setRepairs (.correctBlock (.hbmCharge h))

theorem Keeps.addRow {src a : Nat} (h : Keeps s₀ s) : Keeps s₀ (addRow src a s).2 := by
  dsimp only [Machine.addRow]
  split
  · dsimp only
    exact h
  · split
    · dsimp only
      exact .remapFullHbm (.draw h)
    · dsimp only
      exact .setRepairs (.foldl h fun _ _ h => .hbmCharge (.correctBlock (.hbmCharge h)))

theorem Keeps.correctLine {die bank line : Nat} (h : Keeps s₀ s) : Keeps s₀ (correctLine die bank line s) :=
  .clearFlips h

theorem Keeps.remapFullLoft {evSource die bank line : Nat} (h : Keeps s₀ s) : Keeps s₀ (remapFullLoft evSource die bank line s) := by
  dsimp only [Machine.remapFullLoft]
  exact .ite (.onFlash (.postNotice h) rfl) (.postNotice h)

theorem Keeps.addLine {src die bank line : Nat} (h : Keeps s₀ s) : Keeps s₀ (addLine src die bank line s).2 := by
  dsimp only [Machine.addLine]
  split
  · dsimp only
    exact h
  · split
    · dsimp only
      exact .remapFullLoft (.draw h)
    · dsimp only
      exact .onFlash (.onLoft (.correctLine h) rfl) rfl

theorem Keeps.memRemap {c : Cmd} (h : Keeps s₀ s) : Keeps s₀ (memRemap c s) := by
  dsimp only [Machine.memRemap]
  exact .judged h (.ite (.complete h) (.complete (by
    split
    · exact .addBlock h
    · split
      · exact .addRow h
      · exact .addLine h)))

theorem Keeps.hbmBlockRepair {addr source : Nat} (h : Keeps s₀ s) : Keeps s₀ (hbmBlockRepair addr source s) :=
  .ite (.addBlock (.onHbm h rfl)) (.ite (.addBlock h) h)

theorem Keeps.hbmRowRepair {addr : Nat} (h : Keeps s₀ s) : Keeps s₀ (hbmRowRepair addr s) := by
  dsimp only [Machine.hbmRowRepair]
  exact .ite (.addRow h) h

theorem Keeps.loftLineRepair {die bank line source : Nat} (h : Keeps s₀ s) : Keeps s₀ (loftLineRepair die bank line source s) := by
  dsimp only [Machine.loftLineRepair]
  exact .ite (.addLine (.onLoft h rfl)) h

theorem Keeps.hbmPinFailed {stack ch pc pin : Nat} (h : Keeps s₀ s) : Keeps s₀ (hbmPinFailed stack ch pc pin s) := by
  dsimp only [Machine.hbmPinFailed]
  exact .ite (.setRepairs (.onHbm h rfl)) h

theorem Keeps.ctrScrub {t : Tower} {n : Nat} (h : Keeps s₀ s) : Keeps s₀ (ctrScrub t n s) :=
  .ctrAdd h

theorem Keeps.scrubBlock {a : Nat} (h : Keeps s₀ s) : Keeps s₀ (scrubBlock a s).1 := by
  dsimp only [Machine.scrubBlock]
  split
  · dsimp only
    exact .correctBlock (.hbmCharge (.hbmDecodeEffects h))
  · dsimp only
    exact .hbmDecodeEffects h
  · dsimp only
    exact .hbmDecodeEffects h

theorem Keeps.rangeInner {n : Nat} (h : Keeps s₀ s) : Keeps s₀ (rangeInner n s) :=
  .foldl (.draw h) fun _ _ h => .ctrInner h

theorem Keeps.scrubRange {a n : Nat} (h : Keeps s₀ s) : Keeps s₀ (scrubRange a n s).1 := by
  dsimp only [Machine.scrubRange]
  exact .foldl_fst (.foldl (.rangeInner h) fun _ _ h => .ctrScrub (.hbmCharge h)) fun _ _ h => .scrubBlock h

theorem Keeps.memScrub {c : Cmd} (h : Keeps s₀ s) : Keeps s₀ (memScrub c s) := by
  dsimp only [Machine.memScrub]
  exact .judged h (.complete (by
    split
    · exact .scrubRange (.onHbm h rfl)
    · dsimp only
      exact .onHbm h rfl))

theorem Keeps.scrubLine {die bank line : Nat} (h : Keeps s₀ s) : Keeps s₀ (scrubLine die bank line s) := by
  dsimp only [Machine.scrubLine]
  exact .ctrScrub (.correctLine (by
    split
    · exact .pinCheck h
    · exact .foldl (.foldl h fun _ _ h => .bulkCheck h) fun _ _ h => .fineCheck h))

theorem Keeps.lineErrors {die bank line : Nat} {err : List (Nat × Byte)} (h : Keeps s₀ s) : Keeps s₀ (lineErrors die bank line err s) := by
  dsimp only [Machine.lineErrors]
  exact .foldl h fun _ _ h => .foldl h fun _ _ h => .ite (.onLoft h rfl) h

theorem Keeps.scrubPatrol {unit addr : Nat} {err : List (Nat × Byte)} (h : Keeps s₀ s) : Keeps s₀ (scrubPatrol unit addr err s) := by
  dsimp only [Machine.scrubPatrol]
  exact .ite (.ite h (.ctrScrub (.scrubBlock (.ctrInner (.hbmCharge (.draw (.setMarks h))))))) (.ite (.ite h (.scrubLine (.lineErrors h))) h)

theorem Keeps.eccInject {c : Cmd} (h : Keeps s₀ s) : Keeps s₀ (eccInject c s) := by
  dsimp only [Machine.eccInject]
  exact .judged h (.complete (.onHbm h rfl))

theorem Keeps.setGroup {g : GroupRef} {b : BondGroup} (h : Keeps s₀ s) : Keeps s₀ (setGroup g b s) :=
  .onFlash (.onVl h) rfl

theorem Keeps.ctrVl {g : GroupRef} {k n : Nat} (h : Keeps s₀ s) : Keeps s₀ (ctrVl g k n s) :=
  .ctrVlAt h

theorem Keeps.retireColumn {t : Tower} {c : Nat} (h : Keeps s₀ s) : Keeps s₀ (retireColumn t c s).1 := by
  dsimp only [Machine.retireColumn]
  exact .onLoft_wf (.wbEmpty (.foldl_fst h fun _ _ h => .flushOut h)) fun hx => Memory.wf_filter _ _ hx

theorem Keeps.retireGroup {g : GroupRef} {cause wire : Nat} (h : Keeps s₀ s) : Keeps s₀ (retireGroup g cause wire s) := by
  dsimp only [Machine.retireGroup]
  split
  · exact h
  · split
    · exact .jobFault (.onFlash (by
        split
        · exact .retireColumn (.setGroup h)
        · dsimp only
          exact .setGroup h) rfl)
    · exact .postNotice (.onFlash (by
        split
        · exact .retireColumn (.setGroup h)
        · dsimp only
          exact .setGroup h) rfl)

theorem Keeps.beatFlip {g : GroupRef} (h : Keeps s₀ s) : Keeps s₀ (beatFlip g s) := by
  dsimp only [Machine.beatFlip]
  split
  · exact .ite (.onHbm h rfl) h
  · exact h

theorem Keeps.poisonSectors {zs : List Nat} (h : Keeps s₀ s) : Keeps s₀ (poisonSectors zs s) := by
  unfold Machine.poisonSectors
  exact .foldl h fun _ _ h => .ite (.onLoft h rfl) (by
    split
    · exact .poisonLine h
    · exact h)

theorem Keeps.poisonBlocks {zs : List Nat} (h : Keeps s₀ s) : Keeps s₀ (poisonBlocks zs s) := by
  dsimp only [Machine.poisonBlocks]
  exact .foldl h fun _ _ h => .ite (.onHbm h rfl) (.setMarks h)

theorem Keeps.poisonLoads {zs : List Nat} (h : Keeps s₀ s) : Keeps s₀ (poisonLoads zs s) := by
  dsimp only [Machine.poisonLoads]
  exact .onCores h

theorem Keeps.poisonBeat {iface : Nat} {zs : List Nat} (h : Keeps s₀ s) : Keeps s₀ (poisonBeat iface zs s) :=
  .ite (.poisonBlocks h) (.ite (.poisonLoads h) (.poisonSectors h))

theorem Keeps.vlReplay {g : GroupRef} {failed : Bool} {sectors : List Nat} (h : Keeps s₀ s) : Keeps s₀ (vlReplay g failed sectors s) := by
  dsimp only [Machine.vlReplay]
  exact .ite h (.ite (.ite (.ctrVl (.beatFlip h)) (.setGroup (.ctrVl (.beatFlip h)))) (.ite (.retireGroup (.poisonBeat (.draw (.ctrVl (.beatFlip
      h))))) (.setGroup (.ctrVl (.beatFlip h)))))

theorem Keeps.markWire {g : GroupRef} {w : Nat} (h : Keeps s₀ s) : Keeps s₀ (markWire g w s) := by
  dsimp only [Machine.markWire]
  exact .ite h (.ite (.retireGroup h) (.setGroup h))

theorem Keeps.vlWireFailing {g : GroupRef} {wire : Nat} (h : Keeps s₀ s) : Keeps s₀ (vlWireFailing g wire s) :=
  .markWire (.ctrVl (.beatFlip h))

theorem Keeps.switchGroup {g : GroupRef} (h : Keeps s₀ s) : Keeps s₀ (switchGroup g s) := by
  dsimp only [Machine.switchGroup]
  exact .foldl h fun _ _ h => by
    split
    · exact .onFlash (.ctrVl (.setGroup h)) rfl
    · exact h

theorem Keeps.switchTower {t : Tower} (h : Keeps s₀ s) : Keeps s₀ (switchTower t s) :=
  .foldl h fun _ _ h => .switchGroup h

/-! ### The operations of Machine/Operands.lean -/

theorem Keeps.onCore {c : Nat} {f : Core → Core} (h : Keeps s₀ s) : Keeps s₀ (onCore c f s) :=
  .onCores h

theorem Keeps.onGang {g : FragRef} {f : Gang → Gang} (h : Keeps s₀ s) : Keeps s₀ (onGang g f s) :=
  .onCore h

theorem Keeps.onCrew {core slot : Nat} {f : Crew → Crew} (h : Keeps s₀ s) : Keeps s₀ (onCrew core slot f s) :=
  .onCore h

theorem Keeps.onFrag {g : FragRef} {f : Frag → Frag} (h : Keeps s₀ s) : Keeps s₀ (onFrag g f s) :=
  .onGang h

theorem Keeps.advance {g : FragRef} (h : Keeps s₀ s) : Keeps s₀ (advance g s) :=
  .onGang (.onFrag h)

theorem Keeps.waitFor {g : FragRef} {w : Wait} (h : Keeps s₀ s) : Keeps s₀ (waitFor g w s) :=
  .onFrag h

theorem Keeps.coreFault {a : Act} {code : Nat} {mask : BitVec 32} {cause : Nat} (h : Keeps s₀ s) : Keeps s₀ (coreFault a code mask cause s) :=
  .jobFault (.waitFor h)

theorem Keeps.illegal {a : Act} {cause : Nat} (h : Keeps s₀ s) : Keeps s₀ (illegal a cause s) :=
  .coreFault h

theorem Keeps.violation {a : Act} {cause : Nat} (h : Keeps s₀ s) : Keeps s₀ (violation a cause s) :=
  .coreFault h

theorem Keeps.consume {a : Act} {ss : List Src} {k : State} (h : Keeps s₀ k) (hs : Keeps s₀ s) : Keeps s₀ (consume a ss k s) := by
  dsimp only [Machine.consume]
  exact .ite h (.coreFault hs)

theorem Keeps.wakeFences {g : FragRef} (h : Keeps s₀ s) : Keeps s₀ (wakeFences g s) := by
  dsimp only [Machine.wakeFences]
  split
  · exact h
  · exact .ite (.onGang h) h

theorem Keeps.issue {g : FragRef} {rs us ps : List Nat} {body : Act → State → State} (hbody : ∀ x s, Keeps s₀ s → Keeps s₀ (body x s))
    (hs : Keeps s₀ s) :
    Keeps s₀ (issue g rs us ps body s) := by
  dsimp only [Machine.issue]
  split
  · exact hs
  · exact .ite hs (.ite (.illegal (.onCore (.wakeFences hs))) (.ite (.illegal (.onCore (.wakeFences hs))) (hbody _ _ (.onCore (.wakeFences hs)))))

theorem Keeps.writeLanes {a : Act} {dst : Nat} {vals : List (Nat × W32 × Bool)} (h : Keeps s₀ s) : Keeps s₀ (writeLanes a dst vals s) :=
  .advance (.onGang h)

theorem Keeps.writePreds {a : Act} {p : Nat} {vals : List (Nat × Bool)} (h : Keeps s₀ s) : Keeps s₀ (writePreds a p vals s) :=
  .advance (.onGang h)

theorem Keeps.issueUniform {g : FragRef} {ss : List Src} {body : Act → State → State} (hbody : ∀ x s, Keeps s₀ s → Keeps s₀ (body x s))
    (hs : Keeps s₀ s) :
    Keeps s₀ (issueUniform g ss body s) :=
  .issue (fun _ _ h => .ite (hbody _ _ h) (.illegal h)) hs

/-! ### The operations of Machine/CoreMem.lean -/

theorem Keeps.localChecked {a : Act} {width : Nat} {addr : Nat → Nat} {k : State} (h : Keeps s₀ k) (hs : Keeps s₀ s) :
    Keeps s₀ (localChecked a width addr k s) := by
  dsimp only [Machine.localChecked]
  exact .ite (.illegal hs) (.ite (.coreFault hs) (.ite (.coreFault hs) h))

theorem Keeps.ldl {g : FragRef} {width dst : Nat} {addr : Src} (h : Keeps s₀ s) : Keeps s₀ (ldl g width dst addr s) := by
  dsimp only [Machine.ldl]
  exact .ite h (.issue (fun _ _ h => .consume (.localChecked (.advance (.onGang h)) h) h) h)

theorem Keeps.stl {g : FragRef} {width src : Nat} {addr : Src} (h : Keeps s₀ s) : Keeps s₀ (stl g width src addr s) := by
  dsimp only [Machine.stl]
  exact .ite h (.issue (fun _ _ h => .consume (.localChecked (.advance (.onCrew (.draw h))) h) h) h)

theorem Keeps.atoml {g : FragRef} {op : RedOp} {ty : RedTy} {dst : Option Nat} {addr : Src} {val cmp : Nat} (h : Keeps s₀ s) :
    Keeps s₀ (atoml g op ty dst addr val cmp s) := by
  dsimp only [Machine.atoml]
  split
  · exact h
  · exact .issue (fun _ _ h => .ite (.illegal h) (.consume (.localChecked (.ite (.coreFault h) (by
      split
      · exact .advance (.onGang (.onCrew (.draw h)))
      · exact .advance (.onCrew (.draw h)))) h) h)) h

theorem Keeps.globalChecked {a : Act} {kind width : Nat} {addr : Nat → Nat} {k : State} (h : Keeps s₀ k) (hs : Keeps s₀ s) :
    Keeps s₀ (globalChecked a kind width addr k s) := by
  dsimp only [Machine.globalChecked]
  split
  · exact .coreFault hs
  · split
    · exact h
    · exact .coreFault hs

theorem Keeps.loftSend {a : Act} {addr : Nat} {kind : ReqKind} (h : Keeps s₀ s) : Keeps s₀ (loftSend a addr kind s).1 := by
  dsimp only [Machine.loftSend]
  exact .onLoft (.onCores h) rfl

theorem Keeps.ld {g : FragRef} {width dst : Nat} {addr : GAddr} (h : Keeps s₀ s) : Keeps s₀ (ld g width dst addr s) := by
  dsimp only [Machine.ld]
  exact .issue (fun _ _ h => .ite (.illegal h) (.consume (.globalChecked (.advance (.foldl h fun _ _ h => .onGang (.loftSend h))) h) h)) h

theorem Keeps.finishLoad {id : Nat} {t : LoadTag} {vals : List (Nat × List Byte × Bool)} (h : Keeps s₀ s) : Keeps s₀ (finishLoad id t vals s) :=
  .onGang h

theorem Keeps.ldRo {g : FragRef} {width dst : Nat} {addr : GAddr} (h : Keeps s₀ s) : Keeps s₀ (ldRo g width dst addr s) := by
  dsimp only [Machine.ldRo]
  exact .issue (fun _ _ h => .ite (.illegal h) (.consume (.globalChecked (.advance (.foldl h fun _ _ h => by
    split
    · exact .onGang h
    · split
      · exact .onGang (.onCore (.onCores h))
      · exact .onGang (.onCore (.loftSend h)))) h) h)) h

theorem Keeps.l1rInstall {core la : Nat} {line : List Byte × List Nat} (h : Keeps s₀ s) : Keeps s₀ (l1rInstall core la line s) := by
  dsimp only [Machine.l1rInstall]
  exact .ite (.onCore h) (.onCore (.draw h))

theorem Keeps.globalLoadReturn {id : Nat} (h : Keeps s₀ s) : Keeps s₀ (globalLoadReturn id s) := by
  dsimp only [Machine.globalLoadReturn]
  split
  · exact h
  · exact .ite (.foldl (.onCore (.l1rInstall (.onCores h))) fun _ _ h => .finishLoad h) (.finishLoad (.onCores h))

theorem Keeps.noteStores {g : FragRef} {ids : List Nat} (h : Keeps s₀ s) : Keeps s₀ (noteStores g ids s) :=
  .onGang h

theorem Keeps.l1rForget {core : Nat} {lines : List Nat} (h : Keeps s₀ s) : Keeps s₀ (l1rForget core lines s) :=
  .onCore h

theorem Keeps.sendStores {a : Act} {width src : Nat} {groups : List (Nat × List (Nat × Nat))} (h : Keeps s₀ s) :
    Keeps s₀ (sendStores a width src groups s).1 := by
  dsimp only [Machine.sendStores]
  exact .foldl_fst h fun _ _ h => .loftSend h

theorem Keeps.st {g : FragRef} {width src : Nat} {addr : GAddr} (h : Keeps s₀ s) : Keeps s₀ (st g width src addr s) := by
  dsimp only [Machine.st]
  exact .issue (fun _ _ h => .ite (.illegal h) (.consume (.globalChecked (.advance (.noteStores (.l1rForget (.sendStores (.draw h))))) h) h)) h

theorem Keeps.advanceWait {g : FragRef} {w : Wait} (h : Keeps s₀ s) : Keeps s₀ (advanceWait g w s) :=
  .onGang (.onFrag h)

theorem Keeps.sendOps {a : Act} {op : RedOp} {ty : RedTy} {dst : Option Nat} {val cmp : Nat} {groups : List (Nat × List (Nat × Nat))}
    (h : Keeps s₀ s) :
    Keeps s₀ (sendOps a op ty dst val cmp groups s).1 := by
  dsimp only [Machine.sendOps]
  exact .foldl_fst h fun _ _ h => by
    split
    · exact .onGang (.loftSend h)
    · exact .loftSend h

theorem Keeps.memAtomic {g : FragRef} {op : RedOp} {ty : RedTy} {o : MemOrder} {sc : MemScope} {dst : Option Nat} {addr : GAddr} {val cmp : Nat}
    (h : Keeps s₀ s) :
    Keeps s₀ (memAtomic g op ty o sc dst addr val cmp s) := by
  dsimp only [Machine.memAtomic]
  exact .issue (fun _ _ h' => .ite (.illegal h') (.ite h (.consume (.globalChecked (.ite (.advanceWait (.noteStores (.l1rForget (.sendOps (.draw
      h'))))) (.advance (.noteStores (.l1rForget (.sendOps (.draw h')))))) h') h'))) h

theorem Keeps.invalRo {g : FragRef} (h : Keeps s₀ s) : Keeps s₀ (invalRo g s) :=
  .issue (fun _ _ h => .advance (.onCore h)) h

theorem Keeps.fence {scope : Nat} {g : FragRef} (h : Keeps s₀ s) : Keeps s₀ (fence scope g s) := by
  dsimp only [Machine.fence]
  exact .issue (fun _ _ h' => .ite h (.advance (.onGang h'))) h

/-! ### The operations of Machine/Copy.lean -/

theorem Keeps.onItem {job tick item : Nat} {f : Item → Item} (h : Keeps s₀ s) : Keeps s₀ (onItem job tick item f s) := by
  dsimp only [Machine.onItem]
  exact .onJob h

theorem Keeps.takePieces {t : Tower} {k n : Nat} (h : Keeps s₀ s) : Keeps s₀ (takePieces t k n s) := by
  induction n generalizing s with
  | zero => exact h
  | succ n ih =>
    unfold Machine.takePieces
    split
    · exact h
    · split
      · exact h
      · exact ih (.onEng h)

theorem Keeps.dealPieces (h : Keeps s₀ s) : Keeps s₀ (dealPieces s) :=
  .foldl h fun _ _ h => .takePieces (.takePieces h)

theorem Keeps.copyFault {r : CopyRun} {code cause entry addr index : Nat} (h : Keeps s₀ s) :
    Keeps s₀ (copyFault r code cause entry addr index s) := by
  dsimp only [Machine.copyFault]
  exact .jobFault (.onItem (.onEng (by
    split
    · exact .traceItemEnd h
    · exact h)))

theorem Keeps.copyStart {job tick item : Nat} {i : Item} (h : Keeps s₀ s) : Keeps s₀ (copyStart job tick item i s) := by
  dsimp only [Machine.copyStart]
  split
  · exact .copyFault (.fineRead h)
  · split
    · exact .copyFault (.fineRead h)
    · exact .ite (.dealPieces (.onEng (.fineRead h))) (.copyFault (.fineRead h))

theorem Keeps.noteStaged {r : CopyRun} {a n : Nat} (h : Keeps s₀ s) : Keeps s₀ (noteStaged r a n s) := by
  dsimp only [Machine.noteStaged]
  exact .ite h (.onLoft h rfl)

theorem Keeps.copyStore {r : CopyRun} {noAlloc : Bool} {a : Nat} {bs : List Byte} {pz : List Nat} (h : Keeps s₀ s) :
    Keeps s₀ (copyStore r noAlloc a bs pz s) :=
  .noteStaged (.engineWrite h)

theorem Keeps.moveRows {r : CopyRun} {noAlloc : Bool} {ms : List (Nat × Nat × Nat)} (h : Keeps s₀ s) : Keeps s₀ (moveRows r noAlloc ms s) := by
  dsimp only [Machine.moveRows]
  exact .foldl (.foldl_fst h fun _ _ h => .engineRead h) fun _ _ h => .copyStore h

theorem Keeps.collideRow {r : CopyRun} {noAlloc : Bool} {unit dst : Nat} {bs : List Byte} {pz : List Nat} (h : Keeps s₀ s) :
    Keeps s₀ (collideRow r noAlloc unit dst bs pz s) := by
  dsimp only [Machine.collideRow]
  exact .copyStore (.draw h)

theorem Keeps.sliceRead {r : CopyRun} {gather : Bool} {a n : Nat} (h : Keeps s₀ s) : Keeps s₀ (sliceRead r gather a n s).1 := by
  dsimp only [Machine.sliceRead]
  split
  · exact .foldl_fst h fun _ _ h => by
      split
      · exact .fineRead h
      · exact .engineRead h
  · exact .engineRead h

theorem Keeps.indexEntry {r : CopyRun} {d : CopyDesc} {k : Nat} (h : Keeps s₀ s) : Keeps s₀ (indexEntry r d k s).1 := by
  dsimp only [Machine.indexEntry]
  split
  · dsimp only
    exact .copyFault (.engineRead h)
  · split
    · split
      · dsimp only
        exact .copyFault (.engineRead h)
      · split
        · dsimp only
          exact .foldl (.engineRead h) fun _ _ h => .copyStore h
        · dsimp only
          exact .foldl (.engineRead h) fun _ _ h => .ite (.engineReduce (.sliceRead h)) (.ite (.collideRow (.sliceRead h)) (.copyStore (.sliceRead
              h)))
    · split
      · dsimp only
        exact .copyFault (.engineRead h)
      · split
        · exact .engineRead h
        · dsimp only
          exact .foldl (.engineRead h) fun _ _ h => .ite (.engineReduce (.sliceRead h)) (.ite (.collideRow (.sliceRead h)) (.copyStore (.sliceRead
              h)))

theorem Keeps.indexEntries {r : CopyRun} {d : CopyDesc} {ks : List Nat} (h : Keeps s₀ s) : Keeps s₀ (indexEntries r d ks s).1 := by
  induction ks generalizing s with
  | nil => exact h
  | cons k ks ih =>
    unfold Machine.indexEntries
    split
    · rename_i heq
      exact ih (.of_fst (.indexEntry h) heq)
    · rename_i heq
      exact .of_fst (.indexEntry h) heq

theorem Keeps.warmLine {r : CopyRun} {la : Nat} (h : Keeps s₀ s) : Keeps s₀ (warmLine r la s) := by
  dsimp only [Machine.warmLine]
  exact .noteStaged (.onLoft (.ite h (.engineRead h)) rfl)

theorem Keeps.countPiece {r : CopyRun} {bytes entries : Nat} (h : Keeps s₀ s) : Keeps s₀ (countPiece r bytes entries s) := by
  dsimp only [Machine.countPiece]
  exact .ctrAdd (.ite (.ctrAdd h) (.ctrAdd (.ctrAdd h)))

theorem Keeps.pieceDone {r : CopyRun} (h : Keeps s₀ s) : Keeps s₀ (pieceDone r s) :=
  .onEng h

theorem Keeps.movePiece {r : CopyRun} (h : Keeps s₀ s) : Keeps s₀ (movePiece r s) := by
  dsimp only [Machine.movePiece]
  exact .ite (.pieceDone (.countPiece (.foldl h fun _ _ h => .warmLine h))) (.ite (.ite (.pieceDone (.countPiece (.indexEntries h))) (.indexEntries
      h)) (.pieceDone (.countPiece (.moveRows h))))

theorem Keeps.copyPieceDone {job item : Nat} {s0 : State} (h : Keeps s₀ s0) : Keeps s₀ (copyPieceDone job item s0) := by
  dsimp only [Machine.copyPieceDone]
  split
  · exact h
  · exact .dealPieces (.movePiece (.dealPieces h))

/-! ### The operations of Machine/Fabric.lean -/

theorem Keeps.netSend {p : Pkt} (h : Keeps s₀ s) : Keeps s₀ (netSend p s) := by
  unfold Machine.netSend
  split
  · exact .emit h
  · split
    · exact .egressSend h
    · exact .ctrFab h

theorem Keeps.onCtx {n : Nat} {f : Ctx → Ctx} (h : Keeps s₀ s) : Keeps s₀ (onCtx n f s) :=
  .onFab h rfl

theorem Keeps.openCtx {n owner : Nat} {mirror : Bool} {t : Tower} {peerDev peerCtx access tc : Nat} (h : Keeps s₀ s) :
    Keeps s₀ (openCtx n owner mirror t peerDev peerCtx access tc s) := by
  dsimp only [Machine.openCtx]
  exact .onFab h rfl

theorem Keeps.restartCtxs {job : Nat} (h : Keeps s₀ s) : Keeps s₀ (restartCtxs job s) := by
  dsimp only [Machine.restartCtxs]
  exact .onFab h rfl

theorem Keeps.sendAck {n : Nat} (h : Keeps s₀ s) : Keeps s₀ (sendAck n s) := by
  unfold Machine.sendAck
  split
  · exact h
  · exact .netSend (.onCtx h)

theorem Keeps.sendNack {n dst dstCtx cause ackPsn : Nat} (h : Keeps s₀ s) : Keeps s₀ (sendNack n dst dstCtx cause ackPsn s) := by
  dsimp only [Machine.sendNack]
  exact .netSend h

theorem Keeps.traceFabric {type n port : Nat} {c : Ctx} {p : Pkt} (h : Keeps s₀ s) : Keeps s₀ (traceFabric type n port c p s) :=
  .ite (.traceRec h) h

theorem Keeps.floorRead {g : Agent} {job a n : Nat} (h : Keeps s₀ s) : Keeps s₀ (floorRead g job a n s).1 := by
  dsimp only [Machine.floorRead]
  split
  · exact .foldl_fst h fun _ _ h => .hbmReadNow h
  · exact .engineRead h

theorem Keeps.floorWrite {g : Agent} {job a : Nat} {bs : List Byte} {pz : List Nat} (h : Keeps s₀ s) : Keeps s₀ (floorWrite g job a bs pz s) :=
  .ite (.hbmDirect h) (.engineWrite (.fineInvalidate h))

theorem Keeps.fetchCtx {n : Nat} {t : Tower} (h : Keeps s₀ s) : Keeps s₀ (fetchCtx n t s) := by
  dsimp only [Machine.fetchCtx]
  split
  · exact h
  · split
    · exact .onFab (.draw (by
        split
        · exact .floorRead h
        · exact .fineRead h)) rfl
    · exact .jobFault (.onFab (.draw (by
        split
        · exact .floorRead h
        · exact .fineRead h)) rfl)

theorem Keeps.sendReliable {n : Nat} {p : Pkt} {s0 : State} (h : Keeps s₀ s0) : Keeps s₀ (sendReliable n p s0) := by
  dsimp only [Machine.sendReliable]
  split
  · exact h
  · exact .traceFabric (.netSend (.onCtx (.fetchCtx h)))

theorem Keeps.resend {n keep : Nat} (h : Keeps s₀ s) : Keeps s₀ (resend n keep s) := by
  dsimp only [Machine.resend]
  split
  · exact h
  · exact .foldl (.onCtx h) fun _ _ h => .ctrFab (.netSend h)

theorem Keeps.closeMirror {t : Tower} (h : Keeps s₀ s) : Keeps s₀ (closeMirror t s) := by
  dsimp only [Machine.closeMirror]
  exact .onTwin (.ite (.onFab h rfl) h)

theorem Keeps.commitTick {t : Tower} {j : Job} {tick bytes : Nat} {c : CommitRec} (h : Keeps s₀ s) : Keeps s₀ (commitTick t j tick bytes c s) := by
  dsimp only [Machine.commitTick]
  exact .ite (.onJob (.onTwin h)) (.onTwin h)

theorem Keeps.commitLost {t : Tower} {w : Twin} (h : Keeps s₀ s) : Keeps s₀ (commitLost t w s) := by
  unfold Machine.commitLost
  split
  · exact .ite h (.commitTick h)
  · exact h

theorem Keeps.restoreEnd {t : Tower} {status : Nat} (h : Keeps s₀ s) : Keeps s₀ (restoreEnd t status s) := by
  dsimp only [Machine.restoreEnd]
  split
  · exact h
  · split
    · exact .complete (.onTwin h)
    · exact .onTwin h

theorem Keeps.queueHello {t : Tower} (h : Keeps s₀ s) : Keeps s₀ (queueHello t s) := by
  dsimp only [Machine.queueHello]
  exact .onTwin h

theorem Keeps.openMirror {t : Tower} (h : Keeps s₀ s) : Keeps s₀ (openMirror t s) := by
  dsimp only [Machine.openMirror]
  exact .queueHello (.openCtx h)

theorem Keeps.bindFail {mb status : Nat} (h : Keeps s₀ s) : Keeps s₀ (bindFail mb status s) := by
  dsimp only [Machine.bindFail]
  split
  · exact .complete (.onTwin (.foldl h fun _ _ h => .closeMirror h))
  · exact .onTwin (.foldl h fun _ _ h => .closeMirror h)

theorem Keeps.twinLost {t : Tower} {cause : Nat} (h : Keeps s₀ s) : Keeps s₀ (twinLost t cause s) := by
  dsimp only [Machine.twinLost]
  split
  · exact .ite (.openMirror (.closeMirror h)) (.bindFail (.postNotice h))
  · exact .ite (.commitLost (.restoreEnd (.onTwin (.closeMirror (.postNotice h))))) h

theorem Keeps.ctxError {n code cause psn : Nat} (h : Keeps s₀ s) : Keeps s₀ (ctxError n code cause psn s) := by
  dsimp only [Machine.ctxError]
  split
  · exact h
  · exact .ite (.twinLost (.onCtx h)) (.jobFault (.onCtx h))

theorem Keeps.applyCnp {n : Nat} (h : Keeps s₀ s) : Keeps s₀ (applyCnp n s) := by
  dsimp only [Machine.applyCnp]
  exact .onCtx h

theorem Keeps.rateRecovery {n : Nat} (h : Keeps s₀ s) : Keeps s₀ (rateRecovery n s) := by
  dsimp only [Machine.rateRecovery]
  split
  · exact h
  · exact .onCtx (.timeTo h)

theorem Keeps.retransmitTimeout {n : Nat} (h : Keeps s₀ s) : Keeps s₀ (retransmitTimeout n s) := by
  dsimp only [Machine.retransmitTimeout]
  split
  · exact h
  · exact .ite h (.ite (.ctxError (.onCtx (.timeTo h))) (.resend (.onCtx (.timeTo h))))

theorem Keeps.enterWaiting {n cause : Nat} (h : Keeps s₀ s) : Keeps s₀ (enterWaiting n cause s) := by
  dsimp only [Machine.enterWaiting]
  split
  · exact h
  · exact .ite h (.ite (.postNotice (.onCtx h)) (.onCtx h))

theorem Keeps.waitingResend {n : Nat} (h : Keeps s₀ s) : Keeps s₀ (waitingResend n s) := by
  dsimp only [Machine.waitingResend]
  split
  · exact h
  · exact .ite h (.resend (.onCtx (.timeTo h)))

theorem Keeps.waitingLimit {n : Nat} (h : Keeps s₀ s) : Keeps s₀ (waitingLimit n s) := by
  unfold Machine.waitingLimit
  split
  · exact h
  · exact .ite h (.ctxError (.timeTo h))

theorem Keeps.ackDelayTimer {n : Nat} (h : Keeps s₀ s) : Keeps s₀ (ackDelayTimer n s) := by
  unfold Machine.ackDelayTimer
  split
  · exact h
  · split
    · exact h
    · exact .ite h (.sendAck (.timeTo h))

theorem Keeps.nextPacket {job : Nat} {x : Xfer} (h : Keeps s₀ s) : Keeps s₀ (nextPacket s job x).1 := by
  dsimp only [Machine.nextPacket]
  split
  · exact .floorRead h
  · dsimp only
    exact h
  · dsimp only
    exact h
  · dsimp only
    exact h

theorem Keeps.sendTransfer {n : Nat} (h : Keeps s₀ s) : Keeps s₀ (sendTransfer n s) := by
  dsimp only [Machine.sendTransfer]
  split
  · exact h
  · split
    · exact h
    · exact .ite h (.sendReliable (.onCtx (.nextPacket (.timeTo h))))

/-! ### The operations of Machine/Seq.lean -/

theorem Keeps.onProg {job item : Nat} {f : Prog → Prog} (h : Keeps s₀ s) : Keeps s₀ (onProg job item f s) :=
  .onEng h

theorem Keeps.progStart {job item towers : Nat} {image : List Byte} (h : Keeps s₀ s) : Keeps s₀ (progStart job item towers image s) :=
  .onEng h

theorem Keeps.progLeave {job item : Nat} (h : Keeps s₀ s) : Keeps s₀ (progLeave job item s) :=
  .onEng h

theorem Keeps.seqQueue {job item op : Nat} {mk : SeqInstr → Nat → Option Mesh → Xfer} (h : Keeps s₀ s) : Keeps s₀ (seqQueue job item op mk s) := by
  dsimp only [Machine.seqQueue]
  split
  · exact h
  · split
    · exact h
    · split
      · exact .onProg h
      · split
        · exact .onProg h
        · exact .onProg (.onCtx (.onProg h))

theorem Keeps.waitTry {job item : Nat} {x : SeqInstr} {i : Nat} {m : Option Mesh} (h : Keeps s₀ s) : Keeps s₀ (waitTry job item x i m s) := by
  dsimp only [Machine.waitTry]
  exact .ite (.onProg (.floorRead h)) (.onProg (.floorRead h))

theorem Keeps.seqWait {job item : Nat} (h : Keeps s₀ s) : Keeps s₀ (seqWait job item s) := by
  unfold Machine.seqWait
  split
  · exact .waitTry h
  · exact h

theorem Keeps.seqWaitPoll {job item : Nat} (h : Keeps s₀ s) : Keeps s₀ (seqWaitPoll job item s) := by
  unfold Machine.seqWaitPoll
  split
  · exact .waitTry h
  · exact h

theorem Keeps.wakeWaits {a n : Nat} (h : Keeps s₀ s) : Keeps s₀ (wakeWaits a n s) := by
  unfold Machine.wakeWaits
  exact .foldl h fun _ _ h => by
    split
    · exact .ite (.waitTry h) h
    · exact h

theorem Keeps.seqFence {job item : Nat} (h : Keeps s₀ s) : Keeps s₀ (seqFence job item s) := by
  unfold Machine.seqFence
  split
  · exact .ite (.onProg h) h
  · exact h

theorem Keeps.seqLoop {job item : Nat} (h : Keeps s₀ s) : Keeps s₀ (seqLoop job item s) := by
  dsimp only [Machine.seqLoop]
  split
  · exact h
  · exact .onProg h

theorem Keeps.progAcked {n ackPsn : Nat} (h : Keeps s₀ s) : Keeps s₀ (progAcked n ackPsn s) :=
  .onEng h

theorem Keeps.progGot {n : Nat} {r : Nat × Nat} (h : Keeps s₀ s) : Keeps s₀ (progGot n r s) :=
  .onEng h

/-! ### The operations of Machine/Twins.lean -/

theorem Keeps.deltaList {t : Tower} {tick : Nat} (h : Keeps s₀ s) : Keeps s₀ (deltaList s t tick).1 := by
  dsimp only [Machine.deltaList]
  split
  · exact .floorRead h
  · split
    · split
      · exact .floorRead (.floorRead h)
      · split
        · exact .floorRead (.floorRead h)
        · exact .floorRead (.floorRead h)
    · exact .floorRead h

theorem Keeps.makeRecord {t : Tower} {x : TxStream} (h : Keeps s₀ s) : Keeps s₀ (makeRecord t x s).2 := by
  dsimp only [Machine.makeRecord]
  split
  · exact h
  · dsimp only
    split
    · exact .floorRead (.floorRead h)
    · exact .floorRead h
  · dsimp only
    exact .onTwin h
  · exact h

theorem Keeps.makeMore {t : Tower} {p n : Nat} {r : TxStream × State} (h : Keeps s₀ r.2) : Keeps s₀ (makeMore t p n r).2 := by
  induction n generalizing r with
  | zero => exact h
  | succ n ih =>
    unfold Machine.makeMore
    split
    · exact h
    · exact ih (.makeRecord h)

theorem Keeps.seedStream {t : Tower} (h : Keeps s₀ s) : Keeps s₀ (seedStream t s) := by
  dsimp only [Machine.seedStream]
  split
  · split
    · exact .onTwin h
    · exact h
  · exact h

theorem Keeps.sendMirror {n : Nat} {t : Tower} (h : Keeps s₀ s) : Keeps s₀ (sendMirror n t s) := by
  dsimp only [Machine.sendMirror]
  split
  · exact h
  · split
    · exact h
    · exact .ite h (.sendReliable (.onTwin (.makeMore (.timeTo (.seedStream h)))))

theorem Keeps.fabricSend {n : Nat} (h : Keeps s₀ s) : Keeps s₀ (fabricSend n s) := by
  unfold Machine.fabricSend
  split
  · exact .sendMirror h
  · exact .sendTransfer h

theorem Keeps.commitTower {j : Job} {t : Tower} (h : Keeps s₀ s) : Keeps s₀ (commitTower j t s) := by
  have hlist (c : Prop) [Decidable c] {u : State} (hu : Keeps s₀ u) :
      Keeps s₀ (if c then Machine.deltaList u t j.tick else (u, .ok [])).1 := by
    split
    · exact .deltaList hu
    · exact hu
  have hlost : Keeps s₀ (if (s.twin.get t).txPending.isSome then Machine.twinLost t 2 s else s) := .ite (.twinLost h) h
  unfold Machine.commitTower
  lift_lets
  intro s1 s2 w fl
  have hs2 : Keeps s₀ s2 := .onTwin hlost
  refine .ite hs2 ?_
  split
  · rename_i heq
    exact .jobFault (.of_fst (hlist _ hs2) heq)
  · rename_i heq
    exact .onTwin (.of_fst (hlist _ hs2) heq)

theorem Keeps.commitWork {job : Nat} (h : Keeps s₀ s) : Keeps s₀ (commitWork job s) := by
  unfold Machine.commitWork
  split
  · exact h
  · exact .foldl h fun _ _ h => .commitTower h

theorem Keeps.commitLocal {job : Nat} (h : Keeps s₀ s) : Keeps s₀ (commitLocal job s) := by
  dsimp only [Machine.commitLocal]
  split
  · exact h
  · exact .foldl h fun _ _ h => .ite h (.commitTick h)

theorem Keeps.restoreDone {t : Tower} (h : Keeps s₀ s) : Keeps s₀ (restoreDone t s) := by
  dsimp only [Machine.restoreDone]
  split
  · exact h
  · split
    · split
      · exact .onTwin (.onTwin h)
      · split
        · exact .complete (.onTwin h)
        · exact .onTwin h
    · split
      · exact .complete (.onTwin h)
      · exact .onTwin h

theorem Keeps.bindJudge {mb : Nat} (h : Keeps s₀ s) : Keeps s₀ (bindJudge mb s) := by
  dsimp only [Machine.bindJudge]
  split
  · exact .bindFail h
  · split
    · split
      · exact .complete (.onTwin h)
      · exact .onTwin h
    · exact h

theorem Keeps.streamAcked {t : Tower} {k : TxKind} (h : Keeps s₀ s) : Keeps s₀ (streamAcked t k s) := by
  dsimp only [Machine.streamAcked]
  split
  · split
    · exact .bindJudge (.onTwin h)
    · exact .onTwin h
  · split
    · exact h
    · split
      · exact h
      · split
        · exact .ite (.commitTick (.ite (.onTwin h) h)) (.ite (.onTwin h) h)
        · exact .ite (.onTwin h) h
  · exact .restoreDone h
  · exact .ite (.restoreDone (.onTwin h)) (.onTwin h)

theorem Keeps.mirrorAcked {t : Tower} {ackPsn : Nat} (h : Keeps s₀ s) : Keeps s₀ (mirrorAcked t ackPsn s) := by
  dsimp only [Machine.mirrorAcked]
  exact .foldl (.onTwin h) fun _ _ h => .streamAcked h

theorem KeepsSome.rxStore {r : Region} {off : Nat} {bs : List (Byte × Bool)} (h : Keeps s₀ s) : KeepsSome s₀ (rxStore r off bs s) := by
  dsimp only [Machine.rxStore]
  exact .ite .none (.some (.ite (.hbmDirect h) (.engineWrite (.fineInvalidate h))))

theorem Keeps.rxApply {t : Tower} {n : Nat} (h : Keeps s₀ s) : Keeps s₀ (rxApply t n s).1 := by
  induction n generalizing s with
  | zero => exact h
  | succ n ih =>
    unfold Machine.rxApply
    dsimp only
    split
    · exact h
    · split
      · exact ih (.onTwin h)
      · split
        · split <;> exact h
        · split
          · split <;> exact h
          · split
            · split
              · rename_i heq
                exact ih (.onTwin (KeepsSome.rxStore h _ heq))
              · exact h
            · split
              · split
                · rename_i heq
                  have hst := KeepsSome.bind (.rxStore h) (fun _ h => .rxStore h) _ heq
                  exact ih (.onTwin (.ite (.onTwin hst) hst))
                · exact h
              · exact h

theorem Keeps.rxPacket {t : Tower} {p : Pkt} (h : Keeps s₀ s) : Keeps s₀ (rxPacket t p s).1 := by
  dsimp only [Machine.rxPacket]
  split
  · split
    · dsimp only
      exact .onTwin (.onTwin h)
    · split
      · rename_i heq
        dsimp only
        exact .of_fst (.rxApply (.onTwin (.onTwin h))) heq
      · rename_i heq
        dsimp only
        exact .onTwin (.of_fst (.rxApply (.onTwin (.onTwin h))) heq)
      · rename_i heq
        dsimp only
        exact .onTwin (.of_fst (.rxApply (.onTwin (.onTwin h))) heq)
  · split
    · dsimp only
      exact .onTwin h
    · split
      · rename_i heq
        dsimp only
        exact .of_fst (.rxApply (.onTwin h)) heq
      · rename_i heq
        dsimp only
        exact .onTwin (.of_fst (.rxApply (.onTwin h)) heq)
      · rename_i heq
        dsimp only
        exact .onTwin (.of_fst (.rxApply (.onTwin h)) heq)

theorem Keeps.rxRefuse {t : Tower} (h : Keeps s₀ s) : Keeps s₀ (rxRefuse t s) := by
  dsimp only [Machine.rxRefuse]
  split
  · exact h
  · exact .sendNack (.onTwin (.onCtx h))

theorem Keeps.rxResume {t : Tower} {r : RxRec} (h : Keeps s₀ s) : Keeps s₀ (rxResume t r s) := by
  dsimp only [Machine.rxResume]
  split
  · rename_i heq
    exact .of_fst (.rxApply (.onTwin h)) heq
  · rename_i heq
    exact .rxRefuse (.of_fst (.rxApply (.onTwin h)) heq)
  · rename_i heq
    exact .sendAck (.onTwin (.of_fst (.rxApply (.onTwin h)) heq))

theorem Keeps.commitRecord {t : Tower} (h : Keeps s₀ s) : Keeps s₀ (commitRecord t s) := by
  dsimp only [Machine.commitRecord]
  split
  · exact h
  · split
    · exact .rxRefuse h
    · exact .ite (.rxResume (.onTwin h)) (.rxRefuse h)

theorem Keeps.helloRecord {t : Tower} (h : Keeps s₀ s) : Keeps s₀ (helloRecord t s) := by
  dsimp only [Machine.helloRecord]
  split
  · exact h
  · split
    · exact .bindJudge (.rxResume (.onTwin h))
    · exact .rxResume (.onTwin h)

theorem Keeps.twinBind {c : Cmd} (h : Keeps s₀ s) : Keeps s₀ (twinBind c s) := by
  dsimp only [Machine.twinBind]
  exact .judged h (.foldl (.markStarted h) fun _ _ h => .openMirror (.onTwin h))

theorem Keeps.twinBindTimeout {mb : Nat} (h : Keeps s₀ s) : Keeps s₀ (twinBindTimeout mb s) := by
  dsimp only [Machine.twinBindTimeout]
  split
  · exact h
  · exact .bindFail (.foldl (.timeTo h) fun _ _ h => .postNotice h)

theorem Keeps.twinUnbind {c : Cmd} (h : Keeps s₀ s) : Keeps s₀ (twinUnbind c s) := by
  dsimp only [Machine.twinUnbind]
  exact .judged h (.complete (.foldl h fun _ _ h => .onTwin (.closeMirror (by
    split
    · exact .bindFail h
    · exact .restoreEnd h))))

theorem Keeps.twinRestore {c : Cmd} (h : Keeps s₀ s) : Keeps s₀ (twinRestore c s) := by
  dsimp only [Machine.twinRestore]
  exact .judged h (.foldl (.foldl (.markStarted h) fun _ _ h => .onTwin h) fun _ _ h => by
    split
    · exact .ite (.restoreDone h) h
    · exact h)

theorem Keeps.twinStatus {c : Cmd} (h : Keeps s₀ s) : Keeps s₀ (twinStatus c s) :=
  .judged h (.complete h)

/-! ### The operations of Machine/Receive.lean -/

theorem Keeps.coreStore {core off : Nat} {b : Byte} {pz : Bool} (h : Keeps s₀ s) : Keeps s₀ (coreStore core off b pz s) := by
  unfold Machine.coreStore
  split
  · exact .onCrew h
  · exact h

theorem Keeps.windowStore {a : Nat} {bs : List Byte} {pz : List Nat} (h : Keeps s₀ s) : Keeps s₀ (windowStore a bs pz s) := by
  unfold Machine.windowStore
  exact .foldl h fun _ _ h => by
    split
    · exact .coreStore h
    · exact h

theorem Keeps.applyPkt {n : Nat} {c : Ctx} {p : Pkt} (h : Keeps s₀ s) : Keeps s₀ (applyPkt n c p s) := by
  dsimp only [Machine.applyPkt]
  split
  · exact .ite (.windowStore h) (.ite (.engineWrite h) (.floorWrite h))
  · split
    · exact .wakeWaits (.engineReduce h)
    · split
      · exact .wakeWaits (.engineReduce h)
      · split
        · exact .onCtx (.floorRead h)
        · split
          · split
            · exact .progGot (.onCtx (.floorWrite h))
            · exact .floorWrite h
          · exact .floorWrite h

theorem Keeps.accepted {n : Nat} {p : Pkt} (h : Keeps s₀ s) : Keeps s₀ (accepted n p s) := by
  dsimp only [Machine.accepted]
  split
  · exact .onCtx h
  · exact .ite (.sendAck (.onCtx h)) (.onCtx h)

theorem Keeps.refuse {port n : Nat} {p : Pkt} {cause ackPsn : Nat} (h : Keeps s₀ s) : Keeps s₀ (refuse port n p cause ackPsn s) :=
  .ctrFab (.sendNack h)

theorem Keeps.takeAck {n ackPsn : Nat} (h : Keeps s₀ s) : Keeps s₀ (takeAck n ackPsn s) := by
  dsimp only [Machine.takeAck]
  split
  · exact .mirrorAcked (.progAcked (.onCtx h))
  · exact .progAcked (.onCtx h)

theorem Keeps.receiveData {port n : Nat} {c : Ctx} {p : Pkt} {s0 : State} (h : Keeps s₀ s0) : Keeps s₀ (receiveData port n c p s0) := by
  dsimp only [Machine.receiveData]
  split
  · exact .refuse (.traceFabric h)
  · split
    · exact .refuse (.traceFabric h)
    · split
      · exact .ite (.sendAck (.takeAck (.traceFabric h))) (.ite (.refuse (.onCtx (.takeAck (.traceFabric h)))) (.takeAck (.traceFabric h)))
      · split
        · split
          · split
            · rename_i heq
              exact .accepted (.of_fst (.rxPacket (.takeAck (.traceFabric h))) heq)
            · rename_i heq
              exact .refuse (.of_fst (.rxPacket (.takeAck (.traceFabric h))) heq)
          · exact .refuse (.takeAck (.traceFabric h))
        · exact .ite (.accepted (.applyPkt (.takeAck (.traceFabric h)))) (.refuse (.takeAck (.traceFabric h)))

theorem Keeps.answerCe {port n : Nat} {c : Ctx} {p : Pkt} (h : Keeps s₀ s) : Keeps s₀ (answerCe port n c p s) := by
  dsimp only [Machine.answerCe]
  exact .ite (.ctrFab (.netSend (.onCtx h))) h

theorem Keeps.receiveControl {n : Nat} {c : Ctx} {p : Pkt} (h : Keeps s₀ s) : Keeps s₀ (receiveControl n c p s) := by
  dsimp only [Machine.receiveControl]
  split
  · exact .applyCnp h
  · split
    · exact .takeAck (.ite (.onCtx h) h)
    · split
      · split
        · exact .ite (.takeAck h) (.resend (.takeAck h))
        · exact .takeAck h
      · exact .ite (.enterWaiting h) (.ite (.ctxError h) h)

theorem Keeps.receive {port : Nat} {p : Pkt} (h : Keeps s₀ s) : Keeps s₀ (receive port p s) := by
  dsimp only [Machine.receive]
  split
  · exact .ctrFab h
  · split
    · exact .ite (.refuse h) h
    · exact .ite (.ctrFab (.fetchCtx h)) (.ite (.ite (.refuse (.fetchCtx h)) (.fetchCtx h)) (.ite (.receiveData (.answerCe (.fetchCtx h)))
        (.receiveControl (.fetchCtx h))))

theorem Keeps.switchPkt {port : Nat} {p : Pkt} (h : Keeps s₀ s) : Keeps s₀ (switchPkt port p s) := by
  unfold Machine.switchPkt
  split
  · exact .receive h
  · split
    · exact .ctrFab h
    · split
      · exact .ctrFab h
      · exact .ctrFab (.egressSend h)

theorem Keeps.arrive {port : Nat} {p : Pkt} (h : Keeps s₀ s) : Keeps s₀ (arrive port p s) :=
  .ite h (.ite (.switchPkt h) (.ite (.ctrFab h) (.switchPkt (.rxEnter h))))

theorem Keeps.arriveOp {op port : Nat} {p : Pkt} (h : Keeps s₀ s) : Keeps s₀ (arriveOp op port p s) :=
  .ite (.arrive h) h

theorem Keeps.mirrorDeltaRecord {port : Nat} {p : Pkt} (h : Keeps s₀ s) : Keeps s₀ (mirrorDeltaRecord port p s) :=
  .ite (.arriveOp h) h

/-! ### The operations of Machine/Ports.lean -/

theorem Keeps.enterReady (h : Keeps s₀ s) : Keeps s₀ (enterReady s) := by
  dsimp only [Machine.enterReady]
  exact .noteStatus (.same h rfl rfl)

theorem Keeps.cmisWrite {fx : Nat} {low : Bool} (h : Keeps s₀ s) : Keeps s₀ (cmisWrite fx low s) := by
  dsimp only [Machine.cmisWrite]
  exact .ite (.emit h) h

theorem Keeps.cmisApply {low : Bool} (h : Keeps s₀ s) : Keeps s₀ (cmisApply low s) :=
  .foldl h fun _ _ h => .cmisWrite h

theorem Keeps.startPorts (h : Keeps s₀ s) : Keeps s₀ (startPorts s) := by
  dsimp only [Machine.startPorts]
  exact .cmisApply (.onFab h rfl)

theorem Keeps.stopPorts (h : Keeps s₀ s) : Keeps s₀ (stopPorts s) := by
  dsimp only [Machine.stopPorts]
  exact .cmisApply (.onFab h rfl)

theorem Keeps.portDown {l cause : Nat} (h : Keeps s₀ s) : Keeps s₀ (portDown l cause s) := by
  dsimp only [Machine.portDown]
  split
  · exact h
  · exact .ite (.postNotice (.onPort h)) (.onPort h)

theorem Keeps.portLinkLoss {l : Nat} (h : Keeps s₀ s) : Keeps s₀ (portLinkLoss l s) :=
  .ite (.portDown h) h

theorem Keeps.fecLimit {l : Nat} (h : Keeps s₀ s) : Keeps s₀ (fecLimit l s) :=
  .ite (.portDown (.onPort h)) h

theorem Keeps.portRetrain {l : Nat} (h : Keeps s₀ s) : Keeps s₀ (portRetrain l s) := by
  dsimp only [Machine.portRetrain]
  split
  · exact .ite (.onPort (.timeTo h)) h
  · exact h

theorem Keeps.portSignal {l : Nat} (h : Keeps s₀ s) : Keeps s₀ (portSignal l s) := by
  unfold Machine.portSignal
  split
  · exact .ite (.onPort h) h
  · exact h

theorem Keeps.topoJudge {c : Cmd} (h : Keeps s₀ s) : Keeps s₀ (topoJudge c s) := by
  dsimp only [Machine.topoJudge]
  exact .ite (.ite (.enterReady (.complete (.foldl (.onFab h rfl) fun _ _ h => .postNotice h))) (.noteStatus (.onBoot (.complete (.foldl (.onFab h
      rfl) fun _ _ h => .postNotice h))))) (.complete (.foldl (.onFab h rfl) fun _ _ h => .postNotice h))

theorem Keeps.topoTry (h : Keeps s₀ s) : Keeps s₀ (topoTry s) := by
  unfold Machine.topoTry
  split
  · exact .ite (.topoJudge h) h
  · exact h

theorem Keeps.fabTopoExpect {c : Cmd} (h : Keeps s₀ s) : Keeps s₀ (fabTopoExpect c s) := by
  dsimp only [Machine.fabTopoExpect]
  exact .judged h (.topoTry (.ite (.noteStatus (.onBoot (.onFab (.markStarted h) rfl))) (.onFab (.markStarted h) rfl)))

theorem Keeps.portTrainingEnd {l : Nat} {up : Bool} (h : Keeps s₀ s) : Keeps s₀ (portTrainingEnd l up s) := by
  unfold Machine.portTrainingEnd
  split
  · exact h
  · exact .ite h (.ite (.topoTry (.linkSend (.onPort h))) (.topoTry (.onPort h)))

theorem Keeps.delayReq {l at_ : Nat} (h : Keeps s₀ s) : Keeps s₀ (delayReq l at_ s) := by
  dsimp only [Machine.delayReq]
  exact .ite (.linkSend (.timeTo h)) h

theorem Keeps.delayResp {l t2 t3 at_ : Nat} (h : Keeps s₀ s) : Keeps s₀ (delayResp l t2 t3 at_ s) := by
  dsimp only [Machine.delayResp]
  split
  · exact h
  · split
    · exact h
    · exact .ite (.linkSend (.onPort (.timeTo h))) (.onPort (.timeTo h))

theorem Keeps.discoverSend {l : Nat} (h : Keeps s₀ s) : Keeps s₀ (discoverSend l s) := by
  dsimp only [Machine.discoverSend]
  split
  · exact h
  · exact .ite h (.linkSend (.onPort (.timeTo h)))

theorem Keeps.discoverIn {l : Nat} {d : Discover} (h : Keeps s₀ s) : Keeps s₀ (discoverIn l d s) :=
  .ite (.topoTry (.onPort h)) h

theorem Keeps.discoverTimeout {l : Nat} (h : Keeps s₀ s) : Keeps s₀ (discoverTimeout l s) := by
  unfold Machine.discoverTimeout
  split
  · exact h
  · exact .ite (.topoTry (.onPort (.timeTo h))) h

theorem Keeps.cmisPort {r : CmisReport} {l : Nat} (h : Keeps s₀ s) : Keeps s₀ (cmisPort r l s) := by
  dsimp only [Machine.cmisPort]
  split
  · exact h
  · exact .ite (.onPort h) (.ite (.portDown (.onPort h)) (.ite (.portDown (.onPort h)) (.onPort h)))

theorem Keeps.cmisPoll {fx : Nat} {r : CmisReport} (h : Keeps s₀ s) : Keeps s₀ (cmisPoll fx r s) := by
  have htime : Keeps s₀ (match tabGet s.fab.cmisNs fx with | some k => s.timeTo (k + 1000000000) | none => s) := by
    split
    · exact .timeTo h
    · exact h
  have hports := fun u (hu : Keeps s₀ u) => Keeps.foldl (l := List.range 8) hu fun _ i h => Keeps.cmisPort (r := r) (l := 8 * fx + i) h
  unfold Machine.cmisPoll
  refine .ite h (.topoTry (.ite (.cmisWrite (hports _ ?_)) (hports _ ?_)))
  all_goals
    refine .onFab_wf htime fun hx e he => ?_
    dsimp only at he
    split at he
    · rcases mem_tabPut _ _ _ _ he with rfl | he
      · exact Memory.wf_overlaid _
      · exact hx e he
    · exact hx e (mem_tabDel _ _ _ he)

theorem Keeps.pfcFrame {l cls : Nat} {xoff : Bool} (h : Keeps s₀ s) : Keeps s₀ (pfcFrame l cls xoff s) := by
  dsimp only [Machine.pfcFrame]
  split
  · exact h
  · exact .ite h (.ite (.onPort h) (.releaseHeld (.onPort h)))

theorem Keeps.neighborSolicit {l dev port : Nat} (h : Keeps s₀ s) : Keeps s₀ (neighborSolicit l dev port s) :=
  .ite (.emit h) h

theorem Keeps.countCodewords (h : Keeps s₀ s) : Keeps s₀ (countCodewords s) := by
  dsimp only [Machine.countCodewords]
  exact .same h rfl rfl

theorem Keeps.fabPorts {c : Cmd} (h : Keeps s₀ s) : Keeps s₀ (fabPorts c s) := by
  dsimp only [Machine.fabPorts]
  exact .judged h (.topoTry (.complete (.countCodewords (.ite (.startPorts (.ite h (.same h rfl rfl))) (.ite h (.same h rfl rfl))))))

theorem Keeps.fabSetId {c : Cmd} (h : Keeps s₀ s) : Keeps s₀ (fabSetId c s) := by
  dsimp only [Machine.fabSetId]
  exact .judged h (.complete (.onFab h rfl))

theorem Keeps.fabRoutes {c : Cmd} (h : Keeps s₀ s) : Keeps s₀ (fabRoutes c s) := by
  dsimp only [Machine.fabRoutes]
  exact .judged h (.ite (.complete h) (.complete (.onFab h rfl)))

theorem Keeps.closeCtxs {job : Nat} {ns : List Nat} (h : Keeps s₀ s) : Keeps s₀ (closeCtxs job ns s) :=
  .onJob (.onFab h rfl)

theorem Keeps.fabContext {c : Cmd} (h : Keeps s₀ s) : Keeps s₀ (fabContext c s) := by
  dsimp only [Machine.fabContext]
  exact .judged h (.ite (.complete (.foldl h fun _ _ h => .onJob (.openCtx h))) (.ite (.complete (.closeCtxs h)) (.ite (.complete h) (.complete
      (.onJob h)))))

theorem Keeps.fabTickRole {c : Cmd} (h : Keeps s₀ s) : Keeps s₀ (fabTickRole c s) := by
  dsimp only [Machine.fabTickRole]
  exact .judged h (.complete (.onJobs h))

/-! ### The operations of Machine/Crews.lean -/

theorem Keeps.startCrew {d : Dispatch} {core : Nat} {quarters : List Nat} (h : Keeps s₀ s) : Keeps s₀ (startCrew d core quarters s) := by
  dsimp only [Machine.startCrew]
  exact .onCore (.onCores h)

theorem KeepsSome.dispatchOne (h : Keeps s₀ s) : KeepsSome s₀ (dispatchOne s) := by
  intro u hu
  obtain ⟨d, -, hd⟩ := List.exists_of_findSome?_eq_some hu
  obtain ⟨p, -, rfl⟩ := Option.map_eq_some_iff.mp hd
  exact .onCores (.startCrew h)

theorem Keeps.dispatchCrews {n : Nat} (h : Keeps s₀ s) : Keeps s₀ (dispatchCrews n s) := by
  induction n generalizing s with
  | zero => exact h
  | succ n ih =>
    unfold Machine.dispatchCrews
    split
    · rename_i heq
      exact ih (KeepsSome.dispatchOne h _ heq)
    · exact h

theorem Keeps.startKernel {job item towers descAddr : Nat} {args : List Byte} (h : Keeps s₀ s) :
    Keeps s₀ (startKernel job item towers descAddr args s) := by
  dsimp only [Machine.startKernel]
  split
  · exact h
  · exact .dispatchCrews (.onCores (.draw (.draw (.draw h))))

theorem Keeps.setCounter {core slot k : Nat} {v : W32} (h : Keeps s₀ s) : Keeps s₀ (setCounter core slot k v s) :=
  .onCore h

theorem Keeps.bumpCounter {core slot uid k : Nat} (h : Keeps s₀ s) : Keeps s₀ (bumpCounter core slot uid k s) := by
  unfold Machine.bumpCounter
  split
  · exact .ite (.setCounter h) h
  · exact h

theorem Keeps.counterChecked {a : Act} {k : Nat} {go : State} (h : Keeps s₀ go) (hs : Keeps s₀ s) : Keeps s₀ (counterChecked a k go s) :=
  .ite (.illegal hs) h

theorem Keeps.arvSet {g : FragRef} {c v : Src} (h : Keeps s₀ s) : Keeps s₀ (arvSet g c v s) :=
  .issueUniform (fun _ _ h => .counterChecked (.advance (.setCounter h)) h) h

theorem Keeps.arvAdd {g : FragRef} {c v : Src} (h : Keeps s₀ s) : Keeps s₀ (arvAdd g c v s) :=
  .issueUniform (fun _ _ h => .counterChecked (.advance (.setCounter h)) h) h

theorem Keeps.arvWait {g : FragRef} {c n : Src} (h : Keeps s₀ s) : Keeps s₀ (arvWait g c n s) := by
  dsimp only [Machine.arvWait]
  exact .issueUniform (fun _ _ h => .counterChecked (.ite (.advance h) (.waitFor h)) h) h

theorem Keeps.addCopy {x : Act} {ctr : Nat} {toLocal toGlobal : Option (Nat × List Byte × List Nat)} (h : Keeps s₀ s) :
    Keeps s₀ (addCopy x ctr toLocal toGlobal s) := by
  dsimp only [Machine.addCopy]
  exact .onCore (.onCores h)

theorem Keeps.acpG2l {g : FragRef} {src : GAddr} {dst bytes ctr : Src} (h : Keeps s₀ s) : Keeps s₀ (acpG2l g src dst bytes ctr s) := by
  unfold Machine.acpG2l
  refine .issueUniform (fun x st h' => ?_) h
  refine .ite h (.ite (.coreFault h') ?_)
  split
  · exact .violation h'
  · refine .ite (.violation h') (.counterChecked ?_ h')
    split
    rename_i heq
    exact .advance (.addCopy (.of_fst (.engineRead h') heq))

theorem Keeps.acpL2g {g : FragRef} {src : Src} {dst : GAddr} {bytes ctr : Src} (h : Keeps s₀ s) : Keeps s₀ (acpL2g g src dst bytes ctr s) := by
  dsimp only [Machine.acpL2g]
  exact .issueUniform (fun _ _ h' => .ite h (.ite (.coreFault h') (by
    split
    · exact .violation h'
    · exact .ite (.violation h') (.counterChecked (.advance (.addCopy h')) h')))) h

theorem Keeps.acpL2l {g : FragRef} {src dst bytes ctr : Src} (h : Keeps s₀ s) : Keeps s₀ (acpL2l g src dst bytes ctr s) := by
  dsimp only [Machine.acpL2l]
  exact .issueUniform (fun _ _ h' => .ite h (.ite (.coreFault h') (.ite (.violation h') (.counterChecked (.advance (.addCopy h')) h')))) h

theorem Keeps.boxRun {job d : Nat} {rows : List (Option Nat × Nat × Nat)} (h : Keeps s₀ s) : Keeps s₀ (boxRun job d rows s).1 := by
  dsimp only [Machine.boxRun]
  exact .foldl_fst h fun _ _ h => by
    split
    · exact .engineRead h
    · exact h

theorem Keeps.acpBox {g : FragRef} {desc : Src} {origin extent : List Src} {dst ctr : Src} (h : Keeps s₀ s) :
    Keeps s₀ (acpBox g desc origin extent dst ctr s) := by
  dsimp only [Machine.acpBox]
  exact .issueUniform (fun _ _ h' => .ite h (.ite (.violation h') (.ite (.coreFault h') (.ite (.illegal h') (.ite (.coreFault h') (by
    split
    · exact .violation h'
    · exact .ite (.violation h') (.counterChecked (.advance (.addCopy (.boxRun h'))) h'))))))) h

theorem Keeps.retireCopies {core slot uid ctr n : Nat} (h : Keeps s₀ s) : Keeps s₀ (retireCopies core slot uid ctr n s) := by
  induction n generalizing s with
  | zero => exact h
  | succ n ih =>
    unfold Machine.retireCopies
    split
    · exact .ite (ih (.bumpCounter (.onCore h))) h
    · exact h

theorem Keeps.asyncCopyComplete {core id : Nat} (h : Keeps s₀ s) : Keeps s₀ (asyncCopyComplete core id s) := by
  dsimp only [Machine.asyncCopyComplete]
  split
  · exact h
  · exact .retireCopies (.onCore (by
      split
      · exact .engineWrite (by
          split
          · exact .ite (.onCrew h) h
          · exact h)
      · split
        · exact .ite (.onCrew h) h
        · exact h))

theorem Keeps.barMisuse {a : Act} (h : Keeps s₀ s) : Keeps s₀ (barMisuse a s) :=
  .illegal h

theorem Keeps.setBar {g : FragRef} {b : Nat} {bar : Bar} (h : Keeps s₀ s) : Keeps s₀ (setBar g b bar s) :=
  .onCore (.onCrew h)

theorem Keeps.barInit {g : FragRef} {b n : Src} (h : Keeps s₀ s) : Keeps s₀ (barInit g b n s) := by
  dsimp only [Machine.barInit]
  exact .issueUniform (fun _ _ h => .ite (.barMisuse h) (.advance (.setBar h))) h

theorem Keeps.barArrival {wait : Bool} {g : FragRef} {b : Src} (h : Keeps s₀ s) : Keeps s₀ (barArrival wait g b s) := by
  dsimp only [Machine.barArrival]
  exact .issue (fun _ _ h => by
    split
    · exact .barMisuse h
    · exact .ite (.barMisuse h) (.ite (.setBar (.waitFor h)) (.ite (.setBar (.waitFor h)) (.advance (.setBar h))))) h

theorem Keeps.barWait {g : FragRef} {b : Src} (h : Keeps s₀ s) : Keeps s₀ (barWait g b s) := by
  dsimp only [Machine.barWait]
  exact .issue (fun _ _ h => .ite (.barMisuse h) (by
    split
    · exact .advance h
    · split
      · split
        · exact .advance h
        · exact .advanceWait h
      · exact .setBar (.waitFor h))) h

theorem Keeps.lockRead {g : FragRef} {job : Nat} {sp : LockSpace} {a : Nat} (h : Keeps s₀ s) : Keeps s₀ (lockRead g job sp a s).1 := by
  dsimp only [Machine.lockRead]
  split
  · split
    · dsimp only
      exact h
    · dsimp only
      exact h
  · exact .engineRead h

theorem Keeps.lockWrite {g : FragRef} {job : Nat} {sp : LockSpace} {a v : Nat} (h : Keeps s₀ s) : Keeps s₀ (lockWrite g job sp a v s) := by
  dsimp only [Machine.lockWrite]
  split
  · exact .onCrew h
  · exact .engineWrite h

theorem Keeps.lockChecked {a : Act} {sp : LockSpace} {addr : Nat → Nat} {k : State} (h : Keeps s₀ k) (hs : Keeps s₀ s) :
    Keeps s₀ (lockChecked a sp addr k s) := by
  unfold Machine.lockChecked
  split
  · exact .localChecked h hs
  · exact .globalChecked h hs

theorem Keeps.lockLanes {g : FragRef} {job : Nat} {sp : LockSpace} {want put : Nat → Nat} {las : List (Nat × Nat)} (h : Keeps s₀ s) :
    Keeps s₀ (lockLanes g job sp want put las s).1 := by
  dsimp only [Machine.lockLanes]
  exact .foldl_fst h fun _ _ h => by
    split
    · exact .lockRead h
    · split
      · dsimp only
        exact .lockWrite (.lockRead h)
      · exact .lockRead h

theorem Keeps.lockAttempt {g : FragRef} {job : Nat} {sp : LockSpace} {las : List (Nat × Nat)} (h : Keeps s₀ s) :
    Keeps s₀ (lockAttempt g job sp las s).1 := by
  dsimp only [Machine.lockAttempt]
  exact .lockLanes h

theorem Keeps.lockPoison {a : Act} {r : LockRes} {k : State} (h : Keeps s₀ k) (hs : Keeps s₀ s) : Keeps s₀ (lockPoison a r k s) :=
  .ite h (.coreFault hs)

theorem Keeps.lockSplit {g : FragRef} {f : Frag} {sp : LockSpace} {p : Nat} {las : List (Nat × Nat)} {won : List Nat} (h : Keeps s₀ s) :
    Keeps s₀ (lockSplit g f sp p las won s) := by
  dsimp only [Machine.lockSplit]
  exact .ite (.advance (.onGang h)) (.ite (.waitFor (.onGang h)) (.onGang (.onGang h)))

theorem Keeps.lockAcq {g : FragRef} {sp : LockSpace} {p : Nat} {addr : GAddr} (h : Keeps s₀ s) : Keeps s₀ (lockAcq g sp p addr s) := by
  dsimp only [Machine.lockAcq]
  exact .issue (fun _ _ h' => .ite h (.consume (.lockChecked (.lockPoison (.lockSplit (.lockAttempt h')) (.lockAttempt h')) h') h')) h

theorem Keeps.lockRetryTimeout {g : FragRef} (h : Keeps s₀ s) : Keeps s₀ (lockRetryTimeout g s) := by
  dsimp only [Machine.lockRetryTimeout]
  split
  · exact h
  · split
    · exact .ite h (.lockPoison (.lockSplit (.lockAttempt (.onCore h))) (.lockAttempt (.onCore h)))
    · exact h

theorem Keeps.lockTry {g : FragRef} {sp : LockSpace} {p : Nat} {addr : GAddr} (h : Keeps s₀ s) : Keeps s₀ (lockTry g sp p addr s) := by
  dsimp only [Machine.lockTry]
  exact .issue (fun _ _ h' => .ite h (.consume (.lockChecked (.lockPoison (.writePreds (.lockAttempt h')) (.lockAttempt h')) h') h')) h

theorem Keeps.lockRel {g : FragRef} {sp : LockSpace} {addr : GAddr} (h : Keeps s₀ s) : Keeps s₀ (lockRel g sp addr s) := by
  dsimp only [Machine.lockRel]
  exact .issue (fun _ _ h' => .ite h (.consume (.lockChecked (.lockPoison (.ite (.coreFault (.onGang (.lockLanes h'))) (.advance (.onGang
      (.lockLanes h')))) (.onGang (.lockLanes h'))) h') h')) h

theorem Keeps.exitI {g : FragRef} (h : Keeps s₀ s) : Keeps s₀ (exitI g s) := by
  dsimp only [Machine.exitI]
  exact .issue (fun _ _ h => .dispatchCrews (.onCore (.onGang (.onCrew h)))) h

/-! ### The operations of Machine/Gate.lean -/

theorem Keeps.retarget {t : Tower} (h : Keeps s₀ s) : Keeps s₀ (retarget t s) := by
  dsimp only [Machine.retarget]
  exact .ite (.noteStatus (.onGate h)) (.ite (.onGate h) h)

theorem Keeps.postCapped {t : Tower} {cause waitUs : Nat} (h : Keeps s₀ s) : Keeps s₀ (postCapped t cause waitUs s) := by
  dsimp only [Machine.postCapped]
  exact .ite (.postNotice (.draw (.onGate h))) h

theorem Keeps.traceGate {t : Tower} {c rate : Nat} (h : Keeps s₀ s) : Keeps s₀ (traceGate t c rate s) :=
  .traceRec h

theorem Keeps.fitClamp {t : Tower} {c base : Nat} (h : Keeps s₀ s) : Keeps s₀ (fitClamp t c base s) := by
  dsimp only [Machine.fitClamp]
  exact .ite (.traceGate (.postCapped (.retarget (.onGate h)))) h

theorem Keeps.fitLift {t : Tower} (h : Keeps s₀ s) : Keeps s₀ (fitLift t s) :=
  .ite (.retarget (.onGate h)) h

theorem Keeps.gateAsk {r : GateReq} (h : Keeps s₀ s) : Keeps s₀ (gateAsk r s) :=
  .onGate h

theorem Keeps.noteWait {r : GateReq} (h : Keeps s₀ s) : Keeps s₀ (noteWait r s) := by
  dsimp only [Machine.noteWait]
  exact .ite (.foldl h fun _ _ h => .ite (.traceGate (.ctrAdd (.ctrAdd h))) (.ctrAdd (.ctrAdd h))) (.onGate (.onJob (.foldl h fun _ _ h => .ite
      (.traceGate (.ctrAdd (.ctrAdd h))) (.ctrAdd (.ctrAdd h)))))

theorem Keeps.fitHead {r : GateReq} {us : List Tower} (h : Keeps s₀ s) : Keeps s₀ (fitHead r us s).1 := by
  induction us generalizing s with
  | nil => exact h
  | cons u us ih =>
    have hclamp : ∀ c : Prop, [Decidable c] → Keeps s₀ (if c then Machine.fitClamp u r.eclass (baseRate s u r.eclass) s else s) :=
      fun _ _ => .ite (.fitClamp h) h
    dsimp only [Machine.fitHead]
    rw [apply_ite Prod.fst]
    exact .ite (ih (hclamp _)) (hclamp _)

theorem KeepsSome.grantHead {t : Tower} (h : Keeps s₀ s) : KeepsSome s₀ (grantHead t s) := by
  dsimp only [Machine.grantHead]
  split
  · exact .none
  · exact .ite (.ite (.some (.noteWait (.onGate (.fitHead h)))) (.ite .none (.some (.fitHead h)))) .none

theorem Keeps.scheduleTower {t : Tower} {n : Nat} (h : Keeps s₀ s) : Keeps s₀ (scheduleTower t n s) := by
  induction n generalizing s with
  | zero => exact h
  | succ n ih =>
    unfold Machine.scheduleTower
    split
    · rename_i heq
      exact ih (KeepsSome.grantHead h _ heq)
    · exact h

theorem Keeps.gateSchedule (h : Keeps s₀ s) : Keeps s₀ (gateSchedule s) := by
  dsimp only [Machine.gateSchedule]
  exact .scheduleTower (.scheduleTower (.scheduleTower (.retarget (.retarget (.fitLift (.fitLift h))))))

theorem Keeps.gateRelease {job tick item energy : Nat} (h : Keeps s₀ s) : Keeps s₀ (gateRelease job tick item energy s) := by
  dsimp only [Machine.gateRelease]
  split
  · exact h
  · exact .onGate h

theorem Keeps.checkWaits (h : Keeps s₀ s) : Keeps s₀ (checkWaits s) := by
  unfold Machine.checkWaits
  exact .foldl h fun _ _ h => by
    split
    · exact h
    · exact .ite (.postCapped h) h

theorem Keeps.windowEnd {t : Tower} {measured : Nat} (h : Keeps s₀ s) : Keeps s₀ (windowEnd t measured s) := by
  dsimp only [Machine.windowEnd]
  exact .onGate h

theorem Keeps.applyLimit (h : Keeps s₀ s) : Keeps s₀ (applyLimit s) := by
  dsimp only [Machine.applyLimit]
  split
  · exact h
  · exact .foldl (.onGate h) fun _ _ h => .ite (.postCapped (.retarget (.onGate h))) h

theorem Keeps.windowStart {m0 m1 : Nat} (h : Keeps s₀ s) : Keeps s₀ (windowStart m0 m1 s) := by
  dsimp only [Machine.windowStart]
  exact .checkWaits (.gateSchedule (.applyLimit (.onGate (.windowEnd (.windowEnd (.timeTo h))))))

theorem Keeps.opPointEnd {t : Tower} (h : Keeps s₀ s) : Keeps s₀ (opPointEnd t s) := by
  dsimp only [Machine.opPointEnd]
  split
  · exact h
  · exact .ite (.noteStatus (.onGate (.onGate h))) (.onGate h)

/-! ### The operations of Machine/Vector.lean -/

theorem Keeps.vectorIntegerOp {g : FragRef} {op : IntOp} {dst : Nat} {a b c : Src} (h : Keeps s₀ s) :
    Keeps s₀ (vectorIntegerOp g op dst a b c s) := by
  dsimp only [Machine.vectorIntegerOp]
  exact .issue (fun _ _ h => .consume (.ite (.writePreds h) (.writeLanes h)) h) h

theorem Keeps.laneOp {g : FragRef} {dst : Nat} {ss : List Src} {f : Act → Nat → W32} (h : Keeps s₀ s) : Keeps s₀ (laneOp g dst ss f s) :=
  .issue (fun _ _ h => .consume (.writeLanes h) h) h

theorem Keeps.integerDivide {g : FragRef} {rem signed : Bool} {dst : Nat} {a b : Src} (h : Keeps s₀ s) :
    Keeps s₀ (integerDivide g rem signed dst a b s) :=
  .laneOp h

theorem Keeps.fp32Op {g : FragRef} {op : FpOp} {dst : Nat} {a b c : Src} (h : Keeps s₀ s) : Keeps s₀ (fp32Op g op dst a b c s) := by
  dsimp only [Machine.fp32Op]
  split
  · exact .issue (fun _ _ h => .consume (.writePreds h) h) h
  · exact .laneOp h

theorem Keeps.packed16Op {g : FragRef} {op : HalfOp} {isBf16 : Bool} {dst : Nat} {a b c : Src} (h : Keeps s₀ s) :
    Keeps s₀ (packed16Op g op isBf16 dst a b c s) :=
  .laneOp h

theorem Keeps.specialFunction {g : FragRef} {op : SfOp} {dst : Nat} {a : Src} (h : Keeps s₀ s) : Keeps s₀ (specialFunction g op dst a s) :=
  .laneOp h

theorem Keeps.cvt {g : FragRef} {src dst : Fmt} {rnd : Rnd} {sat : Bool} {d : Nat} {a : Src} (h : Keeps s₀ s) :
    Keeps s₀ (cvt g src dst rnd sat d a s) := by
  dsimp only [Machine.cvt]
  exact .issue (fun _ _ h => .ite (.illegal h) (.consume (.writeLanes (.onGang h)) h)) h

theorem Keeps.dataMove {g : FragRef} {dst : Nat} {op : MoveOp} (h : Keeps s₀ s) : Keeps s₀ (dataMove g dst op s) := by
  dsimp only [Machine.dataMove]
  split
  · exact .issue (fun _ _ h => .writeLanes h) h
  · exact .issue (fun _ _ h => .writeLanes h) h
  · exact .issue (fun _ _ h => .writeLanes h) h

theorem Keeps.vote {g : FragRef} {dst p : Nat} (h : Keeps s₀ s) : Keeps s₀ (vote g dst p s) := by
  dsimp only [Machine.vote]
  exact .issue (fun _ _ h => .writeLanes h) h

theorem Keeps.shfl {g : FragRef} {dst src : Nat} {lane : Src} (h : Keeps s₀ s) : Keeps s₀ (shfl g dst src lane s) := by
  dsimp only [Machine.shfl]
  exact .issue (fun _ _ h => .consume (.writeLanes (.draw h)) h) h

theorem Keeps.sreg {g : FragRef} {dst : Nat} {which : SRegName} (h : Keeps s₀ s) : Keeps s₀ (sreg g dst which s) :=
  .issue (fun _ _ h => .writeLanes h) h

theorem Keeps.bra {g : FragRef} {p : Nat} {neg : Bool} {target reconv : Nat} (h : Keeps s₀ s) : Keeps s₀ (bra g p neg target reconv s) := by
  dsimp only [Machine.bra]
  exact .issue (fun _ _ h => .ite (.advance h) (.ite (.onGang (.onFrag h)) (.onGang h))) h

theorem Keeps.reconvI {g : FragRef} (h : Keeps s₀ s) : Keeps s₀ (reconvI g s) := by
  unfold Machine.reconvI
  exact .issue (fun _ _ h => by
    split
    · exact .onGang (.waitFor h)
    · exact .advance h) h

theorem Keeps.call {g : FragRef} {target : Nat} (h : Keeps s₀ s) : Keeps s₀ (call g target s) :=
  .issue (fun _ _ h => .onGang (.onFrag h)) h

theorem Keeps.ret {g : FragRef} (h : Keeps s₀ s) : Keeps s₀ (ret g s) := by
  dsimp only [Machine.ret]
  exact .issue (fun _ _ h => by
    split
    · exact h
    · exact .ite (.draw (.onGang h)) (.onGang h)) h

theorem Keeps.yield {g : FragRef} (h : Keeps s₀ s) : Keeps s₀ (yield g s) := by
  dsimp only [Machine.yield]
  exact .issue (fun _ _ h => .advance (.onGang (.onCore h))) h

/-! ### The operations of Machine/Matrix.lean -/

theorem Keeps.setMxQueue {core q : Nat} {es : List MxEntry} (h : Keeps s₀ s) : Keeps s₀ (setMxQueue core q es s) :=
  .onCore h

theorem Keeps.setMxChains {core q : Nat} {es : List Chain} (h : Keeps s₀ s) : Keeps s₀ (setMxChains core q es s) :=
  .onCore h

theorem Keeps.countMma {core : Nat} {sh : MmaShape} {fa fb : Fmt} (h : Keeps s₀ s) : Keeps s₀ (countMma core sh fa fb s) := by
  dsimp only [Machine.countMma]
  exact .ctrAdd (.ctrAdd (.draw h))

theorem Keeps.countFreeze {core : Nat} (h : Keeps s₀ s) : Keeps s₀ (countFreeze core s) :=
  .ctrAdd (.draw h)

theorem Keeps.mmaFault {core : Nat} {e : MxEntry} (h : Keeps s₀ s) : Keeps s₀ (mmaFault core e s) := by
  dsimp only [Machine.mmaFault]
  split
  · exact .coreFault h
  · exact h

theorem KeepsSome.mxServe {core q : Nat} {e : MxEntry} {rest : List MxEntry} (h : Keeps s₀ s) : KeepsSome s₀ (mxServe core q e rest s) := by
  dsimp only [Machine.mxServe]
  split
  · split
    · exact .some (.setMxQueue h)
    · split
      · exact .some (.mmaFault (.setMxQueue h))
      · split
        · exact .some (.setMxQueue (.setMxChains (.countMma h)))
        · exact .ite (.some (.setMxQueue (.setMxChains (.countMma h)))) .none
  · exact .none

theorem Keeps.mxAdvance {core n : Nat} (h : Keeps s₀ s) : Keeps s₀ (mxAdvance core n s) := by
  induction n generalizing s with
  | zero => exact h
  | succ n ih =>
    unfold Machine.mxAdvance
    dsimp only
    split
    · split
      · exact h
      · exact ih (.onCore h)
    · split
      · exact ih (.onCore h)
      · split
        · rename_i heq
          exact ih (.onCore (KeepsSome.mxServe h _ heq))
        · exact h

theorem Keeps.issueMatrix {g : FragRef} {us : List Nat} {body : Act → State → State} (hbody : ∀ x s, Keeps s₀ s → Keeps s₀ (body x s))
    (hs : Keeps s₀ s) :
    Keeps s₀ (issueMatrix g us body s) :=
  .issue (fun _ _ h => .ite hs (hbody _ _ h)) hs

theorem Keeps.mxEnter {x : Act} {op : MxOp} {tag : Nat} (h : Keeps s₀ s) : Keeps s₀ (mxEnter x op tag s) := by
  dsimp only [Machine.mxEnter]
  exact .mxAdvance (.setMxQueue (.advance h))

theorem Keeps.takeTag (h : Keeps s₀ s) : Keeps s₀ (takeTag s).1 := by
  dsimp only [Machine.takeTag]
  exact .onCores h

theorem Keeps.mma {g : FragRef} {sh : MmaShape} {fa fb : Fmt} {z : Bool} {c ua ub us : Nat} (h : Keeps s₀ s) :
    Keeps s₀ (mma g sh fa fb z c ua ub us s) := by
  dsimp only [Machine.mma]
  exact .issueMatrix (fun _ _ h' => by
    split
    · exact .illegal h'
    · exact .ite (.illegal h') (.ite (.illegal h') (.ite h (.ite (.illegal h') (.ite (.violation h') (.ite (.coreFault h') (.mxEnter (.onGang
        (.takeTag h'))))))))) h

theorem Keeps.mmaChainDrain {core q : Nat} {s0 : State} (h : Keeps s₀ s0) : Keeps s₀ (mmaChainDrain core q s0) := by
  dsimp only [Machine.mmaChainDrain]
  split
  · exact .mxAdvance h
  · exact .ite (.mxAdvance h) (.mxAdvance (.setMxChains (.onGang (.ite (.countFreeze (.mxAdvance h)) (.mxAdvance h)))))

theorem Keeps.mxMoveChecked {x : Act} {fmt : Fmt} {c a n : Nat} {bad : Bool} {k : State} (h : Keeps s₀ k) (hs : Keeps s₀ s) :
    Keeps s₀ (mxMoveChecked x fmt c a n bad k s) :=
  .ite (.illegal hs) (.ite (.illegal hs) (.ite (.illegal hs) (.ite (.violation hs) h)))

theorem Keeps.mxld {g : FragRef} {fmt : Fmt} {c ua n : Nat} (h : Keeps s₀ s) : Keeps s₀ (mxld g fmt c ua n s) := by
  dsimp only [Machine.mxld]
  exact .issueMatrix (fun _ _ h' => .ite h (.mxMoveChecked (.mxEnter (.onGang (.takeTag h'))) h')) h

theorem Keeps.mxst {g : FragRef} {fmt : Fmt} {rnd : Rnd} {sat : Bool} {ua c n : Nat} (h : Keeps s₀ s) : Keeps s₀ (mxst g fmt rnd sat ua c n s) := by
  dsimp only [Machine.mxst]
  exact .issueMatrix (fun _ _ h' => .ite h (.mxMoveChecked (.mxEnter (.takeTag (.onGang h'))) h')) h

theorem Keeps.mxldMxstComplete {core q : Nat} {s0 : State} (h : Keeps s₀ s0) : Keeps s₀ (mxldMxstComplete core q s0) := by
  dsimp only [Machine.mxldMxstComplete]
  split
  · exact .mxAdvance h
  · split
    · exact .mxAdvance h
    · split
      · exact .mxAdvance (.onCore (.setMxChains (.setMxQueue (.mxAdvance h))))
      · exact .mxAdvance (.onCore (.setMxChains (.setMxQueue (.onGang (.mxAdvance h)))))
    · exact .mxAdvance (.onCore (.setMxChains (.setMxQueue (.onCrew (.countFreeze (.mxAdvance h))))))

theorem Keeps.mxwait {g : FragRef} (h : Keeps s₀ s) : Keeps s₀ (mxwait g s) := by
  have hadv : Keeps s₀ (Machine.mxAdvance g.core mxSteps s) := .mxAdvance h
  dsimp only [Machine.mxwait]
  exact .issue (fun _ _ h' => .ite hadv (.ite (.illegal h') (.ite hadv (.advance h')))) hadv

/-! ### The operations of Machine/Press.lean -/

theorem Keeps.sweepTables {t : Tower} {o : SweepOp} (h : Keeps s₀ s) : Keeps s₀ (sweepTables t o s).1 := by
  dsimp only [Machine.sweepTables]
  split
  · exact .engineRead h
  · exact .engineRead (.engineRead h)

theorem Keeps.countPasses {t : Tower} {hdr : SweepHdr} {ql : List Nat} (h : Keeps s₀ s) : Keeps s₀ (countPasses t hdr ql s) :=
  .ctrAdd (.ctrAdd (.ctrAdd h))

theorem Keeps.runSweep {t : Tower} {o : SweepOp} (h : Keeps s₀ s) : Keeps s₀ (runSweep t o s).1 := by
  dsimp only [Machine.runSweep]
  split
  · dsimp only
    exact .foldl h fun _ _ h => .engineRead h
  · dsimp only
    exact .countPasses (.foldl (.foldl h fun _ _ h => .engineRead h) fun _ _ h => .foldl (.draw h) fun _ _ h => .engineWrite h)

theorem Keeps.runAppend {t : Tower} {o : SweepOp} (h : Keeps s₀ s) : Keeps s₀ (runAppend t o s) := by
  dsimp only [Machine.runAppend]
  exact .ctrAdd (.foldl h fun _ _ h => .foldl h fun _ _ h => .engineWrite (.engineRead h))

theorem Keeps.faultItem {job item code : Nat} (h : Keeps s₀ s) : Keeps s₀ (faultItem job item code s) := by
  dsimp only [Machine.faultItem]
  exact .onJob (by
    split
    · split
      · exact .traceItemEnd h
      · exact h
    · exact h)

theorem Keeps.pressFault {t : Tower} {o : SweepOp} {f : SwFault} (h : Keeps s₀ s) : Keeps s₀ (pressFault t o f s) :=
  .jobFault (.ite h (.faultItem h))

theorem Keeps.sweepEnter {t : Tower} {o : SweepOp} (h : Keeps s₀ s) : Keeps s₀ (sweepEnter t o s) := by
  dsimp only [Machine.sweepEnter]
  split
  · exact .pressFault (.sweepTables h)
  · exact .ite (.onPress (.sweepTables h)) (.gateAsk (.onPress (.sweepTables h)))

theorem Keeps.sweepStart {t : Tower} {job item descAddr : Nat} (h : Keeps s₀ s) : Keeps s₀ (sweepStart t job item descAddr s) := by
  dsimp only [Machine.sweepStart]
  split
  · exact .pressFault (.fineRead h)
  · exact .sweepEnter (.fineRead h)

theorem Keeps.sweepLeave {t : Tower} {i : Nat} (h : Keeps s₀ s) : Keeps s₀ (sweepLeave t i s) :=
  .onPress h

theorem Keeps.sweepFaulted {t : Tower} {i : Nat} {o : SweepOp} {f : SwFault} (h : Keeps s₀ s) : Keeps s₀ (sweepFaulted t i o f s) :=
  .pressFault (.sweepLeave (.onGate h))

theorem Keeps.swpPost {g : FragRef} {d c : Src} (h : Keeps s₀ s) : Keeps s₀ (swpPost g d c s) := by
  dsimp only [Machine.swpPost]
  exact .issueUniform (fun _ _ h' => .ite h (.ite (.illegal h') (.ite (.violation h') (.ite (.coreFault h') (.counterChecked (.ite (.violation h') (by
    split
    · exact .advance (.pressFault h')
    · exact .advance (.sweepEnter h'))) h'))))) h

/-! ### The operations of Machine/Items.lean -/

theorem Keeps.issueFault {job item code : Nat} (h : Keeps s₀ s) : Keeps s₀ (issueFault job item code s) :=
  .jobFault (.faultItem h)

theorem Keeps.traceItemStart {job item waitNs : Nat} {i : Item} (h : Keeps s₀ s) : Keeps s₀ (traceItemStart job item waitNs i s) :=
  .ite (.traceRec h) h

theorem Keeps.sweepUndeclared {t : Tower} {job tick item : Nat} {i : Item} (h : Keeps s₀ s) : Keeps s₀ (sweepUndeclared t job tick item i s) := by
  dsimp only [Machine.sweepUndeclared]
  exact .pressFault h

theorem Keeps.collectiveStart {job item : Nat} {i : Item} (h : Keeps s₀ s) : Keeps s₀ (collectiveStart job item i s) := by
  dsimp only [Machine.collectiveStart]
  exact .ite (.progStart (.fineRead h)) (.issueFault (.fineRead h))

theorem Keeps.startItem {job tick item waitNs : Nat} (h : Keeps s₀ s) : Keeps s₀ (startItem job tick item waitNs s) := by
  dsimp only [Machine.startItem]
  split
  · exact h
  · exact .ite (.ite (.startKernel (.traceItemStart (.onItem h))) (.issueFault (.traceItemStart (.onItem h)))) (.ite (.ite (.sweepStart
      (.traceItemStart (.onItem h))) (.sweepUndeclared (.traceItemStart (.onItem h)))) (.ite (.ite (.collectiveStart (.traceItemStart (.onItem h)))
          (.issueFault (.traceItemStart (.onItem h)))) (.copyStart (.traceItemStart (.onItem h)))))

theorem Keeps.sweepIssue {job tick item : Nat} {i : Item} (h : Keeps s₀ s) : Keeps s₀ (sweepIssue job tick item i s) := by
  dsimp only [Machine.sweepIssue]
  exact .ite (.startItem h) (.onPress (.onItem h))

theorem Keeps.startWaiting {t : Tower} {n : Nat} (h : Keeps s₀ s) : Keeps s₀ (startWaiting t n s) := by
  induction n generalizing s with
  | zero => exact h
  | succ n ih =>
    unfold Machine.startWaiting
    split
    · exact h
    · exact .ite (ih (.startItem (.onPress h))) h

theorem Keeps.startSweeps (h : Keeps s₀ s) : Keeps s₀ (startSweeps s) :=
  .foldl h fun _ _ h => .startWaiting h

theorem Keeps.dumpHold {job tick item : Nat} (h : Keeps s₀ s) : Keeps s₀ (dumpHold job tick item s) := by
  dsimp only [Machine.dumpHold]
  exact .ite h (.onJob (.onObs h rfl))

theorem Keeps.issueItem {job tick item : Nat} {i : Item} (h : Keeps s₀ s) : Keeps s₀ (issueItem job tick item i s) := by
  dsimp only [Machine.issueItem]
  split
  · exact .dumpHold (by
      split
      · exact .traceItemEnd (.traceItemStart (.onItem h))
      · exact .traceItemStart (.onItem h))
  · exact .ite (.sweepIssue h) (.ite (.startItem h) (.gateAsk (.onItem h)))

theorem Keeps.pumpJob {job n : Nat} (h : Keeps s₀ s) : Keeps s₀ (pumpJob job n s) := by
  induction n generalizing s with
  | zero => exact h
  | succ n ih =>
    unfold Machine.pumpJob
    split
    · exact ih (.issueItem h)
    · exact h

theorem Keeps.noteStageWaits {job : Nat} (h : Keeps s₀ s) : Keeps s₀ (noteStageWaits job s) := by
  dsimp only [Machine.noteStageWaits]
  split
  · exact h
  · split
    · exact h
    · exact .ite h (.foldl h fun _ _ h => .ite (.onLoft (.onJob (.onItem h)) rfl) (.ite (.onLoft (.onItem h) rfl) h))

theorem Keeps.pumpAll (h : Keeps s₀ s) : Keeps s₀ (pumpAll s) :=
  .foldl h fun _ _ h => .pumpJob (.noteStageWaits h)

theorem Keeps.startGrant {g : Grant} (h : Keeps s₀ s) : Keeps s₀ (startGrant g s) := by
  dsimp only [Machine.startGrant]
  exact .ite (.onPress (.onGate h)) (.startItem (.onGate h))

theorem Keeps.startDue (h : Keeps s₀ s) : Keeps s₀ (startDue s) :=
  .foldl h fun _ _ h => .startGrant h

theorem Keeps.advanceItems (h : Keeps s₀ s) : Keeps s₀ (advanceItems s) :=
  .startDue (.gateSchedule (.pumpAll (.startDue (.gateSchedule (.pumpAll (.startSweeps h))))))

theorem Keeps.gateWindow {m0 m1 : Nat} (h : Keeps s₀ s) : Keeps s₀ (gateWindow m0 m1 s) :=
  .ite (.startDue (.windowStart h)) h

theorem Keeps.gateNoticeEnd (h : Keeps s₀ s) : Keeps s₀ (gateNoticeEnd s) := by
  unfold Machine.gateNoticeEnd
  split
  · exact h
  · exact .startDue (.timeTo h)

theorem Keeps.itemDone {job tick item : Nat} (h : Keeps s₀ s) : Keeps s₀ (itemDone job tick item s) := by
  dsimp only [Machine.itemDone]
  exact .advanceItems (.dumpHold (.onItem (by
    split
    · exact .traceItemEnd h
    · exact h)))

theorem Keeps.kernelComplete {job item energy : Nat} (h : Keeps s₀ s) : Keeps s₀ (kernelComplete job item energy s) := by
  unfold Machine.kernelComplete
  split
  · exact .ite h (.itemDone (.gateRelease h))
  · exact h

theorem Keeps.sweepOpComplete {t : Tower} {index energy : Nat} (h : Keeps s₀ s) : Keeps s₀ (sweepOpComplete t index energy s) := by
  unfold Machine.sweepOpComplete
  split
  · exact h
  · rename_i o _
    have hrun : Keeps s₀ (if o.hdr.mode = 2 then (Machine.runAppend t o s, none) else Machine.runSweep t o s).1 := by
      split
      · exact .runAppend h
      · exact .runSweep h
    refine .ite h ?_
    split
    · rename_i heq
      exact .advanceItems (.sweepFaulted (.of_fst hrun heq))
    · rename_i heq
      have hleave := Keeps.sweepLeave (t := t) (i := index) (.of_fst hrun heq)
      dsimp only
      split
      · exact .advanceItems (.bumpCounter hleave)
      · exact .itemDone (.gateRelease hleave)

theorem Keeps.copyItemComplete {job item energy : Nat} (h : Keeps s₀ s) : Keeps s₀ (copyItemComplete job item energy s) := by
  unfold Machine.copyItemComplete
  split
  · exact .itemDone (.gateRelease (.onEng h))
  · exact h

theorem Keeps.seqEnd {job item energy : Nat} (h : Keeps s₀ s) : Keeps s₀ (seqEnd job item energy s) := by
  unfold Machine.seqEnd
  split
  · exact .ite (.itemDone (.gateRelease (.progLeave h))) h
  · exact h

/-! ### The operations of Machine/Host.lean -/

theorem Keeps.mbDoneClear {v : BitVec 64} (h : Keeps s₀ s) : Keeps s₀ (mbDoneClear v s) :=
  .ite (.onHost h rfl rfl) h

theorem Keeps.devFaultClear {v : BitVec 32} (h : Keeps s₀ s) : Keeps s₀ (devFaultClear v s) :=
  .ite (.noteStatus (.onHost h rfl rfl)) h

theorem Keeps.mbWrite {off : Nat} {data : List Byte} (h : Keeps s₀ s) : Keeps s₀ (mbWrite off data s) := by
  dsimp only [Machine.mbWrite]
  exact .foldl h fun _ _ h => .ite h (.mbStore h)

theorem Keeps.apertureWrite {off : Nat} {data : List Byte} (h : Keeps s₀ s) : Keeps s₀ (apertureWrite off data s) :=
  .onHost h rfl rfl

theorem Keeps.registerWrite {off : Nat} {data : List Byte} (h : Keeps s₀ s) : Keeps s₀ (registerWrite off data s) := by
  unfold Machine.registerWrite
  refine .ite h (.ite (.mbWrite h) (.ite h (.ite (.msixFlush (.onHost_wf h id ?_)) (.ite (.apertureWrite h) h))))
  exact fun hx => Memory.wf_memWrite _ _ _ hx

theorem Keeps.cutTransfers (h : Keeps s₀ s) : Keeps s₀ (cutTransfers s) :=
  .onObs h rfl

theorem Keeps.configWrite {w : CfgWrite} (h : Keeps s₀ s) : Keeps s₀ (configWrite w s) := by
  dsimp only [Machine.configWrite]
  split
  · exact h
  · split
    · exact .onHost h rfl rfl
    · exact .ite (.msixFlush (.onHost h rfl rfl)) (.cutTransfers (.onHost h rfl rfl))
    · exact .ite (.onHost h rfl rfl) h
    · exact .msixFlush (.onHost h rfl rfl)
    · exact .onHost h rfl rfl
    · exact .onHost h rfl rfl
    · exact h

theorem Keeps.hotReset (h : Keeps s₀ s) : Keeps s₀ (hotReset s) := by
  unfold Machine.hotReset
  split
  · exact .noteStatus (.onHost_wf (.cutTransfers h) id fun _ => wf_msixTable_reset)
  · exact h

theorem Keeps.msixStatus {at_ : Nat} (h : Keeps s₀ s) : Keeps s₀ (msixStatus at_ s) := by
  dsimp only [Machine.msixStatus]
  exact .ite (.msixSend (.onHost (.timeTo h) rfl rfl)) h

theorem Keeps.countUnbacked {a : Nat} (h : Keeps s₀ s) : Keeps s₀ (countUnbacked a s) :=
  .ctrHbm h

theorem Keeps.bar2Count {ps : List (Nat × List Byte)} (h : Keeps s₀ s) : Keeps s₀ (bar2Count ps s) := by
  unfold Machine.bar2Count
  split
  · exact .countUnbacked h
  · exact h

theorem Keeps.refuseAccess {off : Nat} (h : Keeps s₀ s) : Keeps s₀ (refuseAccess off s) :=
  .ite (.emit h) h

theorem Keeps.logPoisoned (h : Keeps s₀ s) : Keeps s₀ (logPoisoned s) := by
  dsimp only [Machine.logPoisoned]
  exact .onHost h rfl rfl

theorem Keeps.bar2Piece {p : Nat × List Byte} (h : Keeps s₀ s) : Keeps s₀ (bar2Piece p s).1 := by
  dsimp only [Machine.bar2Piece]
  split
  · dsimp only
    exact h
  · exact .hbmReadNow h
  · exact .engineRead h
  · exact .engineRead h

theorem Keeps.bar2Read {off n : Nat} (h : Keeps s₀ s) : Keeps s₀ (bar2Read off n s) := by
  unfold Machine.bar2Read
  refine .ite (.refuseAccess h) ?_
  lift_lets
  intro ps
  split
  rename_i heq
  refine (fun hread => Keeps.ite (.draw (.emit hread)) (.emit hread)) (Keeps.of_fst ?_ heq)
  exact .foldl_fst (.bar2Count h) fun _ _ h => .bar2Piece h

theorem Keeps.bar2Write {off : Nat} {data : List Byte} {poisoned : Bool} (h : Keeps s₀ s) : Keeps s₀ (bar2Write off data poisoned s) := by
  dsimp only [Machine.bar2Write]
  split
  · exact .refuseAccess h
  · exact .foldl (.bar2Count (.ite (.logPoisoned h) h)) fun _ _ h => by
      split
      · exact h
      · exact .hbmDirect h
      · exact .engineWrite (.fineInvalidate h)
      · exact .engineWrite h

theorem Keeps.handoff {mb at_ : Nat} (h : Keeps s₀ s) : Keeps s₀ (handoff mb at_ s) := by
  dsimp only [Machine.handoff]
  refine .ite h (.ite (.complete (.onHost (.onHost_wf (.timeTo h) (fun hx => ?_) id) rfl rfl)) (.onHost_wf (.timeTo h) (fun hx => ?_) id))
  all_goals
    dsimp only
    exact Memory.wf_memPut _ _ _ hx

theorem Keeps.commandTake {at_ : Nat} (h : Keeps s₀ s) : Keeps s₀ (commandTake at_ s) := by
  dsimp only [Machine.commandTake]
  split
  · exact h
  · split
    · exact h
    · split
      · exact .complete (.onHost_wf (.timeTo h) (fun hx => Memory.wf_memWrite _ _ _ hx) id)
      · exact .onHost_wf (.timeTo h) (fun hx => Memory.wf_memWrite _ _ _ hx) id

theorem Keeps.devInfo {c : Cmd} (h : Keeps s₀ s) : Keeps s₀ (devInfo c s) :=
  .judged h (.complete h)

theorem Keeps.devStatus {c : Cmd} (h : Keeps s₀ s) : Keeps s₀ (devStatus c s) :=
  .judged h (.complete h)

theorem Keeps.devEvents {c : Cmd} (h : Keeps s₀ s) : Keeps s₀ (devEvents c s) := by
  dsimp only [Machine.devEvents]
  exact .judged h (.ite (.markStarted h) (.eventsReturn h))

theorem Keeps.eventsTimeout (h : Keeps s₀ s) : Keeps s₀ (eventsTimeout s) := by
  dsimp only [Machine.eventsTimeout]
  split
  · exact .ite h (.eventsReturn (.timeTo h))
  · exact h

theorem Keeps.devTime {c : Cmd} (h : Keeps s₀ s) : Keeps s₀ (devTime c s) :=
  .judged h (.complete h)

theorem Keeps.mbAcl {c : Cmd} (h : Keeps s₀ s) : Keeps s₀ (mbAcl c s) := by
  dsimp only [Machine.mbAcl]
  exact .judged h (.complete (.onHost h rfl rfl))

theorem Keeps.heartbeatTick (h : Keeps s₀ s) : Keeps s₀ (heartbeatTick s) := by
  dsimp only [Machine.heartbeatTick]
  exact .ite (.onHost (.timeTo h) rfl rfl) h

theorem Keeps.mcWatchdog (h : Keeps s₀ s) : Keeps s₀ (mcWatchdog s) := by
  dsimp only [Machine.mcWatchdog]
  exact .ite (.noteStatus (.onHost (.timeTo h) rfl rfl)) h

/-! ### The operations of Machine/Power.lean -/

theorem Keeps.retargetBoth (h : Keeps s₀ s) : Keeps s₀ (retargetBoth s) :=
  .retarget (.retarget h)

theorem Keeps.noteDrop {zone mv : Nat} (h : Keeps s₀ s) : Keeps s₀ (noteDrop zone mv s) :=
  .onTherm h

theorem Keeps.traceDrop {zone cause : Nat} (h : Keeps s₀ s) : Keeps s₀ (traceDrop zone cause s) := by
  dsimp only [Machine.traceDrop]
  exact .traceRec h

theorem Keeps.dropCap {zone mv : Nat} (h : Keeps s₀ s) : Keeps s₀ (dropCap zone mv s) :=
  .postNotice (.traceDrop (.onGate h))

theorem Keeps.dropClose {zone mv : Nat} (h : Keeps s₀ s) : Keeps s₀ (dropClose zone mv s) := by
  dsimp only [Machine.dropClose]
  split
  · exact .jobFault (.traceDrop (.retarget (.onTherm h)))
  · exact .postEvent (.traceDrop (.retarget (.onTherm h)))

theorem Keeps.powerBondDrop {zone mv : Nat} (h : Keeps s₀ s) : Keeps s₀ (powerBondDrop zone mv s) := by
  dsimp only [Machine.powerBondDrop]
  exact .ite h (.ite (.dropClose (.noteDrop h)) (.ite (.dropCap (.noteDrop h)) (.noteDrop h)))

theorem Keeps.remeasure {drops : List (Nat × Nat)} {t : Tower} (h : Keeps s₀ s) : Keeps s₀ (remeasure drops t s) := by
  dsimp only [Machine.remeasure]
  exact .ite (.ite (.retarget (.onTherm (.foldl h fun _ _ h => .noteDrop h))) (.ite (.dropCap (.retarget (.onTherm (.foldl h fun _ _ h => .noteDrop
      h)))) (.dropClose (.foldl h fun _ _ h => .noteDrop h)))) h

theorem Keeps.drainCores {ts : List Tower} (h : Keeps s₀ s) : Keeps s₀ (drainCores ts s) := by
  dsimp only [Machine.drainCores]
  exact .foldl (.foldl h fun _ _ h => .foldl h fun _ _ h => .asyncCopyComplete h) fun _ _ h => .drainTower h

theorem Keeps.clearCores {ts : List Tower} (h : Keeps s₀ s) : Keeps s₀ (clearCores ts s) := by
  dsimp only [Machine.clearCores]
  exact .onCores h

theorem Keeps.powerState {c : Cmd} (h : Keeps s₀ s) : Keeps s₀ (powerState c s) := by
  dsimp only [Machine.powerState]
  exact .judged h (.ite (.complete h) (.ite (.complete h) (.advanceItems (.retargetBoth (.onGate (.markStarted h))))))

theorem Keeps.selfRefresh {on : Bool} (h : Keeps s₀ s) : Keeps s₀ (selfRefresh on s) := by
  dsimp only [Machine.selfRefresh]
  exact .onHbm h rfl

theorem Keeps.loftPowerOff (h : Keeps s₀ s) : Keeps s₀ (loftPowerOff s) :=
  .onLoft_wf h fun _ => Memory.wf_nil

theorem Keeps.writeCalibration (h : Keeps s₀ s) : Keeps s₀ (writeCalibration s) :=
  .onFlash h rfl

theorem Keeps.enterState {dst : PwrState} (h : Keeps s₀ s) : Keeps s₀ (enterState dst s) := by
  unfold Machine.enterState
  split
  · exact .ite h (.clearCores (.flushTowers (.drainCores h)))
  · exact .onGate (.stopPorts (.selfRefresh (.loftPowerOff (.clearCores (.flushTowers (.drainCores (.writeCalibration h)))))))
  · exact h
  · exact h
  · exact h

theorem Keeps.leaveState {drops : List (Nat × Nat)} (h : Keeps s₀ s) : Keeps s₀ (leaveState drops s) := by
  unfold Machine.leaveState
  split
  · exact .remeasure (.remeasure (.clearCores h))
  · exact .startPorts (.onGate (.selfRefresh h))
  · exact h
  · exact h
  · exact h

theorem Keeps.powerTransitionEnd {at_ : Nat} {drops : List (Nat × Nat)} (h : Keeps s₀ s) : Keeps s₀ (powerTransitionEnd at_ drops s) := by
  dsimp only [Machine.powerTransitionEnd]
  split
  · exact h
  · split
    · exact .complete (.advanceItems (.opPointEnd (.opPointEnd (.noteStatus (.onGate (.enterState (.leaveState (.timeTo h))))))))
    · exact .advanceItems (.opPointEnd (.opPointEnd (.noteStatus (.onGate (.enterState (.leaveState (.timeTo h)))))))

theorem Keeps.powerLimit {c : Cmd} (h : Keeps s₀ s) : Keeps s₀ (powerLimit c s) := by
  dsimp only [Machine.powerLimit]
  exact .judged h (.complete (.ite h (.onGate h)))

theorem Keeps.thermThresh {c : Cmd} (h : Keeps s₀ s) : Keeps s₀ (thermThresh c s) := by
  dsimp only [Machine.thermThresh]
  exact .judged h (.complete (.ite (.onTherm h) h))

theorem Keeps.sensorMask {c : Cmd} (h : Keeps s₀ s) : Keeps s₀ (sensorMask c s) := by
  dsimp only [Machine.sensorMask]
  exact .judged h (.complete (.ite h (.same h rfl rfl)))

theorem Keeps.telemRead {c : Cmd} (h : Keeps s₀ s) : Keeps s₀ (telemRead c s) :=
  .judged h (.complete h)

/-! ### The operations of Machine/Jobs.lean -/

theorem Keeps.faultStop {job code item : Nat} {detail : List Byte} (h : Keeps s₀ s) : Keeps s₀ (faultStop job code item detail s) := by
  dsimp only [Machine.faultStop]
  split
  · exact .ite (.stopJob (.jobFault h)) (.jobFault h)
  · exact .jobFault h

theorem Keeps.tickFault {job code cause : Nat} (h : Keeps s₀ s) : Keeps s₀ (tickFault job code cause s) := by
  unfold Machine.tickFault
  split
  · exact h
  · exact .ite (.faultStop h) h

theorem Keeps.jobCreate {c : Cmd} (h : Keeps s₀ s) : Keeps s₀ (jobCreate c s) := by
  dsimp only [Machine.jobCreate]
  exact .judged h (.complete (.onGate (.onJobs (.foldl h fun _ _ h => .towerForJob h))))

theorem Keeps.jobDestroy {c : Cmd} (h : Keeps s₀ s) : Keeps s₀ (jobDestroy c s) := by
  dsimp only [Machine.jobDestroy]
  exact .judged h (.complete (.onJobs (.closeCtxs (.foldl_fst h fun _ _ h => .unpinBay h))))

theorem Keeps.tickConfig {c : Cmd} (h : Keeps s₀ s) : Keeps s₀ (tickConfig c s) := by
  dsimp only [Machine.tickConfig]
  exact .judged h (.complete (.onJob h))

theorem Keeps.rerunTwins {j : Option Job} {start : Nat} (h : Keeps s₀ s) : Keeps s₀ (rerunTwins j start s) := by
  unfold Machine.rerunTwins
  split
  · exact .foldl h fun _ _ h => .onTwin h
  · exact h

theorem Keeps.tickStart {c : Cmd} (h : Keeps s₀ s) : Keeps s₀ (tickStart c s) := by
  dsimp only [Machine.tickStart]
  exact .judged h (.complete (.ite (.restartCtxs (.onJob (.rerunTwins h))) (.onJob (.rerunTwins h))))

theorem Keeps.cancelStages {job : Nat} (h : Keeps s₀ s) : Keeps s₀ (cancelStages job s) := by
  unfold Machine.cancelStages
  split
  · exact h
  · exact .foldl h fun _ _ h => .undefine h

theorem Keeps.stopClean {job : Nat} {st : JobState} (h : Keeps s₀ s) : Keeps s₀ (stopClean job st s) :=
  .stopJob (.cancelStages h)

theorem Keeps.disarm {job : Nat} (h : Keeps s₀ s) : Keeps s₀ (disarm job s) :=
  .onJob (.stopClean h)

theorem Keeps.tickStop {c : Cmd} (h : Keeps s₀ s) : Keeps s₀ (tickStop c s) := by
  dsimp only [Machine.tickStop]
  exact .judged h (.complete (.ite (.onJob h) (.disarm h)))

theorem Keeps.sheafStatus {c : Cmd} (h : Keeps s₀ s) : Keeps s₀ (sheafStatus c s) := by
  dsimp only [Machine.sheafStatus]
  exact .judged h (.complete h)

theorem Keeps.kernelLoad {c : Cmd} (h : Keeps s₀ s) : Keeps s₀ (kernelLoad c s) := by
  dsimp only [Machine.kernelLoad]
  exact .judged h (.ite (.complete (.onJob h)) (.complete (.onJob h)))

/-! ### The operations of Machine/Admission.lean -/

theorem Keeps.admComplete {c : Cmd} {status : Nat} {r : AdmRes} (h : Keeps s₀ s) : Keeps s₀ (admComplete c status r s) :=
  .complete h

theorem Keeps.sheafSubmit {c : Cmd} (h : Keeps s₀ s) : Keeps s₀ (sheafSubmit c s) := by
  dsimp only [Machine.sheafSubmit]
  split
  · exact .complete h
  · split
    · exact .admComplete h
    · exact .ite (.admComplete h) (.ite (.admComplete h) (.onJob (.markStarted h)))

theorem Keeps.admitSheaf {job : Nat} {sh : Sheaf} (h : Keeps s₀ s) : Keeps s₀ (admitSheaf job sh s) := by
  dsimp only [Machine.admitSheaf]
  exact .onJob h

theorem Keeps.sheafFetch {job addr n : Nat} (h : Keeps s₀ s) : Keeps s₀ (sheafFetch job addr n s).1 := by
  dsimp only [Machine.sheafFetch]
  split
  · exact .fineRead h
  · dsimp only
    exact h

theorem Keeps.sheafPoisoned {c : Cmd} {job item : Nat} (h : Keeps s₀ s) : Keeps s₀ (sheafPoisoned c job item s) :=
  .admComplete (.jobFault h)

theorem Keeps.admitChecked {c : Cmd} {j : Job} {sh : Sheaf} {late : Bool} {s0 : State} (h : Keeps s₀ s0) :
    Keeps s₀ (admitChecked c j sh late s0) := by
  dsimp only [Machine.admitChecked]
  exact .ite (.sheafPoisoned (.foldl h fun _ _ h => .fineRead h)) (.ite (.admComplete (.draw (.foldl h fun _ _ h => .fineRead h))) (.ite
      (.advanceItems (.admComplete (.admitSheaf (.draw (.foldl h fun _ _ h => .fineRead h))))) (.admComplete (.draw (.foldl h fun _ _ h
          => .fineRead h)))))

theorem Keeps.admissionEnd {job at_ : Nat} (h : Keeps s₀ s) : Keeps s₀ (admissionEnd job at_ s) := by
  dsimp only [Machine.admissionEnd]
  split
  · split
    · exact .admComplete (.timeTo h)
    · exact h
  · split
    · exact .onJob h
    · split
      · split
        · exact .sheafPoisoned (.onJob (.timeTo (.sheafFetch h)))
        · split
          · exact .admComplete (.onJob (.timeTo (.sheafFetch h)))
          · exact .admitChecked (.onJob (.timeTo (.sheafFetch h)))
      · split
        · exact .sheafPoisoned (.onJob (.timeTo (.sheafFetch h)))
        · split
          · exact .admComplete (.onJob (.timeTo (.sheafFetch h)))
          · exact .admitChecked (.onJob (.timeTo (.sheafFetch h)))

/-! ### The operations of Machine/Ticks.lean -/

theorem Keeps.symbolRead {job : Nat} {sh : Sheaf} {n : Nat} (h : Keeps s₀ s) : Keeps s₀ (symbolRead job sh n s).1 := by
  dsimp only [Machine.symbolRead]
  split
  · exact .fineRead h
  · dsimp only
    exact .jobFault (.fineRead h)

theorem Keeps.symbolOf {job : Nat} {sh : Sheaf} {name : List Byte} (h : Keeps s₀ s) : Keeps s₀ (symbolOf job sh name s).1 := by
  dsimp only [Machine.symbolOf]
  split
  · dsimp only
    exact h
  · split
    · exact .symbolRead h
    · exact .symbolRead (.symbolRead h)

theorem Keeps.dumpsLookup {job tick : Nat} (h : Keeps s₀ s) : Keeps s₀ (dumpsLookup job tick s) := by
  refine .foldl h fun st d h => ?_
  split
  all_goals
    rename_i heq
    split at heq
  · exact .onObs (.of_fst (.symbolOf h) heq) rfl
  · exact .onObs (Keeps.of_fst (p := (st, none)) h heq) rfl
  · exact .dumpEnd (.of_fst (.symbolOf h) heq)
  · exact .dumpEnd (Keeps.of_fst (p := (st, none)) h heq)

theorem Keeps.sendTick {job tick timeNs dUs : Nat} {stop : Bool} (h : Keeps s₀ s) : Keeps s₀ (sendTick job tick timeNs dUs stop s) := by
  dsimp only [Machine.sendTick]
  exact .beaconDown (.nextSeq h)

theorem Keeps.dropReadOnly {t : Tower} (h : Keeps s₀ s) : Keeps s₀ (dropReadOnly t s) := by
  dsimp only [Machine.dropReadOnly]
  exact .onCores (.onLoft h rfl)

theorem Keeps.towerBoundary {t : Tower} (h : Keeps s₀ s) : Keeps s₀ (towerBoundary t s) :=
  .hbmBoundary (.dropReadOnly (.onGate (.onLoft h rfl)))

theorem Keeps.stopAfter {job : Nat} (h : Keeps s₀ s) : Keeps s₀ (stopAfter job s) := by
  dsimp only [Machine.stopAfter]
  exact .dumpsLost (.onJob (.dropUnits (.cancelStages (.foldl h fun _ _ h => .towerBoundary h))))

theorem Keeps.startTick {job n atNs : Nat} (h : Keeps s₀ s) : Keeps s₀ (startTick job n atNs s) := by
  dsimp only [Machine.startTick]
  split
  · exact .onJob h
  · exact .advanceItems (.dumpsLookup (.onObs (.foldl (.traceBeacon (.ite (.sendTick (.onJob h)) (.onJob h))) fun _ _ h => .towerBoundary h) rfl))

theorem Keeps.gleanValues {t : Tower} (h : Keeps s₀ s) : Keeps s₀ (gleanValues t s) := by
  dsimp only [Machine.gleanValues]
  exact .switchTower (.onObs h rfl)

theorem Keeps.startSlices {t : Tower} (h : Keeps s₀ s) : Keeps s₀ (startSlices t s) := by
  dsimp only [Machine.startSlices]
  exact .ite h (.onLoft (.onObs h rfl) rfl)

theorem Keeps.gleanTower {t : Tower} (h : Keeps s₀ s) : Keeps s₀ (gleanTower t s) :=
  .startSlices (.gleanValues h)

theorem Keeps.skipTower {t : Tower} (h : Keeps s₀ s) : Keeps s₀ (skipTower t s) :=
  .onObs h rfl

theorem Keeps.commitEnd {job : Nat} (h : Keeps s₀ s) : Keeps s₀ (commitEnd job s) := by
  dsimp only [Machine.commitEnd]
  split
  · exact h
  · split
    · exact h
    · exact .ite h (.foldl (.onJob (.commitLocal (.timeTo h))) fun _ _ h => .ite (.gleanTower h) (.skipTower h))

theorem Keeps.tickBoundary {job : Nat} {s0 : State} (h : Keeps s₀ s0) : Keeps s₀ (tickBoundary job s0) := by
  dsimp only [Machine.tickBoundary]
  split
  · exact .commitEnd h
  · split
    · exact .commitEnd h
    · exact .ite (.advanceItems (.stopAfter (.sendTick (.timeTo (.commitEnd h))))) (.ite (.advanceItems (.tickFault (.timeTo (.commitEnd h))))
        (.startTick (.timeTo (.commitEnd h))))

theorem Keeps.allowanceSpent {job : Nat} (h : Keeps s₀ s) : Keeps s₀ (allowanceSpent job s) := by
  unfold Machine.allowanceSpent
  split
  · exact .faultStop h
  · exact .tickFault h

theorem Keeps.runEnd {job : Nat} (h : Keeps s₀ s) : Keeps s₀ (runEnd job s) := by
  dsimp only [Machine.runEnd]
  split
  · exact h
  · split
    · exact h
    · exact .ite h (.ite (.advanceItems (.allowanceSpent (.timeTo h))) (.ite (.ite (.onJob (.onJob (.onJob (.timeTo h)))) (.beaconUp (.onJob
        (.onJob (.timeTo h))))) (.onJob (.timeTo h))))

theorem Keeps.applyStretch {job su endNs : Nat} (h : Keeps s₀ s) : Keeps s₀ (applyStretch job su endNs s) :=
  .advanceItems (.onJob h)

theorem Keeps.stretchDecision {job : Nat} (h : Keeps s₀ s) : Keeps s₀ (stretchDecision job s) := by
  dsimp only [Machine.stretchDecision]
  split
  · exact h
  · split
    · exact h
    · exact .ite h (.ite (.onJob (.timeTo h)) (.applyStretch (.sendSet (.nextSeq (.onJob (.timeTo h))))))

theorem Keeps.ctrSet {group pos n : Nat} (h : Keeps s₀ s) : Keeps s₀ (ctrSet group pos n s) :=
  .ite (.onObs h rfl) h

theorem Keeps.closeStaging {t : Tower} (h : Keeps s₀ s) : Keeps s₀ (closeStaging t s) := by
  dsimp only [Machine.closeStaging]
  exact .ite h (.foldl h fun _ _ h => .ctrSet h)

theorem Keeps.closeTower {c : TickCfg} {su tick : Nat} {t : Tower} (h : Keeps s₀ s) : Keeps s₀ (closeTower c su tick t s) :=
  .onObs (.onLoft (.closeStaging h) rfl) rfl

theorem Keeps.endRun {job tick : Nat} (h : Keeps s₀ s) : Keeps s₀ (endRun job tick s) :=
  .onJob (.dropWork (.traceRunning (.closeWaits h)))

theorem Keeps.settleEnd {job : Nat} (h : Keeps s₀ s) : Keeps s₀ (settleEnd job s) := by
  dsimp only [Machine.settleEnd]
  split
  · exact h
  · split
    · exact h
    · exact .ite h (.ite (.advanceItems (.commitWork (.dumpsLost (.foldl (.onJob (.ite (.endRun (.postOverrun (.timeTo h))) (.postOverrun (.timeTo
        h)))) fun _ _ h => .closeTower h)))) (.commitWork (.dumpsLost (.foldl (.onJob (.ite (.endRun (.postOverrun (.timeTo h))) (.postOverrun
            (.timeTo h)))) fun _ _ h => .closeTower h))))

theorem Keeps.idleGleanWindow {t : Tower} (h : Keeps s₀ s) : Keeps s₀ (idleGleanWindow t s) := by
  dsimp only [Machine.idleGleanWindow]
  exact .ite h (.gleanTower (.onJobs (.timeTo h)))

theorem Keeps.winnowFail {t : Tower} {kind unit detail : Nat} (h : Keeps s₀ s) : Keeps s₀ (winnowFail t kind unit detail s) := by
  dsimp only [Machine.winnowFail]
  exact .postNotice (.onObs h rfl)

theorem Keeps.sliceOver {t : Tower} {kind : Nat} {f : WinnowT → WinnowT} (h : Keeps s₀ s) : Keeps s₀ (sliceOver t kind f s) :=
  .onObs h rfl

theorem Keeps.forcedOver {t : Tower} (h : Keeps s₀ s) : Keeps s₀ (forcedOver t s) := by
  dsimp only [Machine.forcedOver]
  split
  · exact h
  · split
    · exact h
    · split
      · exact .complete (.onObs h rfl)
      · exact .onObs h rfl

theorem Keeps.loftSliceEnd {t : Tower} {cells : Nat} {lines : List Nat} (h : Keeps s₀ s) : Keeps s₀ (loftSliceEnd t cells lines s) := by
  dsimp only [Machine.loftSliceEnd]
  exact .forcedOver (.ite (.foldl (.onLoft (.sliceOver h) rfl) fun _ _ h => .loftLineRepair h) (.winnowFail (.foldl (.onLoft (.sliceOver h) rfl)
      fun _ _ h => .loftLineRepair h)))

theorem Keeps.pressSliceEnd {t : Tower} {ok : Bool} (h : Keeps s₀ s) : Keeps s₀ (pressSliceEnd t ok s) := by
  dsimp only [Machine.pressSliceEnd]
  exact .forcedOver (.ite (.sliceOver h) (.winnowFail (.sliceOver h)))

theorem Keeps.marginsLow {wires : List (GroupRef × Nat)} (h : Keeps s₀ s) : Keeps s₀ (marginsLow wires s) :=
  .foldl h fun _ _ h => .ite h (.markWire h)

theorem Keeps.spareSliceEnd {t : Tower} {failed : List (GroupRef × Nat)} (h : Keeps s₀ s) : Keeps s₀ (spareSliceEnd t failed s) := by
  dsimp only [Machine.spareSliceEnd]
  exact .foldl (.sliceOver h) fun _ _ h => .winnowFail (.setGroup h)

theorem Keeps.refSliceEnd {t : Tower} {sensors : List (Nat × Nat)} {regs : List Nat} (h : Keeps s₀ s) : Keeps s₀ (refSliceEnd t sensors regs s) := by
  dsimp only [Machine.refSliceEnd]
  exact .foldl (.foldl (.sliceOver h) fun _ _ h => .winnowFail (.onTherm h)) fun _ _ h => .winnowFail h

theorem Keeps.winnowSliceEnd {t : Tower} {r : SliceResult} (h : Keeps s₀ s) : Keeps s₀ (winnowSliceEnd t r s) := by
  dsimp only [Machine.winnowSliceEnd]
  split
  · exact .ite (.loftSliceEnd h) h
  · exact .ite (.pressSliceEnd h) h
  · exact .marginsLow (.ite (.spareSliceEnd h) h)
  · exact .ite (.refSliceEnd h) h

/-! ### The operations of Machine/Beacons.lean -/

theorem Keeps.stepTime {d : Int} (h : Keeps s₀ s) : Keeps s₀ (stepTime d s) := by
  dsimp only [Machine.stepTime]
  exact .same h rfl rfl

theorem Keeps.forwardBeacon {b : Beacon} (h : Keeps s₀ s) : Keeps s₀ (forwardBeacon b s) := by
  dsimp only [Machine.forwardBeacon]
  exact .ite (.beaconDown (.draw h)) (.beaconUp (.draw h))

theorem Keeps.beaconIn {type port : Nat} {b : Beacon} {at_ : Nat} {act : Beacon → State → State} {s0 : State}
    (hact : ∀ x s, Keeps s₀ s → Keeps s₀ (act x s)) (hs0 : Keeps s₀ s0) :
    Keeps s₀ (beaconIn type port b at_ act s0) := by
  dsimp only [Machine.beaconIn]
  exact .ite (.timeTo hs0) (.ite (.ctrFab (.timeTo hs0)) (.ite (.ite (.forwardBeacon (.traceJobBeacon (.timeTo hs0))) (.traceJobBeacon (.timeTo
      hs0))) (.ite (.ite (.onJob (.ite (.forwardBeacon (.traceJobBeacon (.timeTo hs0))) (.traceJobBeacon (.timeTo hs0)))) (.advanceItems (hact _ _
          (.onJob (.ite (.forwardBeacon (.traceJobBeacon (.timeTo hs0))) (.traceJobBeacon (.timeTo hs0))))))) (.ite (.advanceItems (hact _ _ (.ite
              (.forwardBeacon (.traceJobBeacon (.timeTo hs0))) (.traceJobBeacon (.timeTo hs0))))) (.ite (.forwardBeacon (.traceJobBeacon (.timeTo
                  hs0))) (.traceJobBeacon (.timeTo hs0)))))))

theorem Keeps.onStart {b : Beacon} (h : Keeps s₀ s) : Keeps s₀ (onStart b s) := by
  dsimp only [Machine.onStart]
  split
  · exact h
  · exact .ite h (.ite (.tickFault h) (.onJob (.stepTime h)))

theorem Keeps.beaconMiss {job : Nat} (h : Keeps s₀ s) : Keeps s₀ (beaconMiss job s) := by
  dsimp only [Machine.beaconMiss]
  split
  · exact h
  · exact .ite h (.ite (.advanceItems (.tickFault (.onJob (.timeTo h)))) (.onJob (.timeTo h)))

theorem Keeps.onTick {b : Beacon} {s0 : State} (h : Keeps s₀ s0) : Keeps s₀ (onTick b s0) := by
  dsimp only [Machine.onTick]
  split
  · exact .ite (.beaconMiss h) h
  · exact .ite (.ite (.tickFault (.ite (.beaconMiss h) h)) (.ite (.beaconMiss h) h)) (.ite (.ite (.beaconMiss h) h) (.ite (.tickFault (.onJob
      (.same (.ite (.beaconMiss h) h) rfl rfl))) (.ite (.onJob (.same (.ite (.beaconMiss h) h) rfl rfl)) (.ite (.stopClean (.onJob (.same (.ite
          (.beaconMiss h) h) rfl rfl))) (.stopAfter (.onJob (.same (.ite (.beaconMiss h) h) rfl rfl)))))))

theorem Keeps.onHold {b : Beacon} (h : Keeps s₀ s) : Keeps s₀ (onHold b s) :=
  .onJob h

theorem Keeps.onStretch {b : Beacon} {s0 : State} (h : Keeps s₀ s0) : Keeps s₀ (onStretch b s0) := by
  dsimp only [Machine.onStretch]
  split
  · split
    · exact .ite (.runEnd h) h
    · exact h
  · split
    · exact .applyStretch (by
        split
        · exact .ite (.runEnd h) h
        · exact h)
    · split
      · exact .ite (.runEnd h) h
      · exact h

theorem Keeps.onFault {b : Beacon} (h : Keeps s₀ s) : Keeps s₀ (onFault b s) := by
  dsimp only [Machine.onFault]
  split
  · exact h
  · exact .ite (.masterAbort (.postEvent h)) h

theorem Keeps.onAbort {b : Beacon} (h : Keeps s₀ s) : Keeps s₀ (onAbort b s) := by
  unfold Machine.onAbort
  split
  · exact h
  · exact .ite (.abortReceived h) h

theorem Keeps.startSend {job : Nat} (h : Keeps s₀ s) : Keeps s₀ (startSend job s) := by
  dsimp only [Machine.startSend]
  split
  · exact h
  · split
    · exact h
    · exact .ite h (.sendSet (.onJob (.nextSeq (.timeTo h))))

theorem Keeps.beaconRepeat {job : Nat} (h : Keeps s₀ s) : Keeps s₀ (beaconRepeat job s) := by
  dsimp only [Machine.beaconRepeat]
  split
  · exact h
  · exact .beaconDown (.onJob (.timeTo h))

/-! ### The operations of Machine/Observe.lean -/

theorem Keeps.ctrConfig {c : Cmd} (h : Keeps s₀ s) : Keeps s₀ (ctrConfig c s) := by
  dsimp only [Machine.ctrConfig]
  exact .judged h (.complete (.ite (.onObs (.ite (.onObs h rfl) h) rfl) (.ite (.onObs h rfl) h)))

theorem Keeps.ctrRead {c : Cmd} (h : Keeps s₀ s) : Keeps s₀ (ctrRead c s) := by
  refine .judged h (.complete (.onObs_wf h fun hx => ?_))
  apply Memory.wf_memWrite
  exact hx

theorem Keeps.ringStore {toHost : Bool} {a : Nat} {bs : List Byte} (h : Keeps s₀ s) : Keeps s₀ (ringStore toHost a bs s) :=
  .ite (.emit h) (.engineWrite h)

theorem Keeps.traceDrainTower {t : Tower} (h : Keeps s₀ s) : Keeps s₀ (traceDrainTower t s) := by
  dsimp only [Machine.traceDrainTower]
  exact .ite h (.ite (.onObs h rfl) (.onObs (.ite (.ringStore h) (.ringStore (.ringStore h))) rfl))

theorem Keeps.traceAutoDrain {t : Tower} (h : Keeps s₀ s) : Keeps s₀ (traceAutoDrain t s) := by
  unfold Machine.traceAutoDrain
  split
  · exact h
  · exact .ite h (.traceDrainTower (.ite h (.timeTo h)))

theorem Keeps.traceConfig {c : Cmd} (h : Keeps s₀ s) : Keeps s₀ (traceConfig c s) := by
  dsimp only [Machine.traceConfig]
  exact .judged h (.ite (.complete (.onObs h rfl)) (.complete (.onObs (.ite (.traceDrainTower (.traceDrainTower h)) h) rfl)))

theorem Keeps.traceDrain {c : Cmd} (h : Keeps s₀ s) : Keeps s₀ (traceDrain c s) := by
  dsimp only [Machine.traceDrain]
  exact .judged h (.complete (.foldl (.onObs h rfl) fun _ _ h => .ite (.traceDrainTower h) h))

theorem Keeps.debugDump {c : Cmd} (h : Keeps s₀ s) : Keeps s₀ (debugDump c s) := by
  dsimp only [Machine.debugDump]
  exact .judged h (.onObs (.markStarted h) rfl)

theorem Keeps.dumpRows {g : Agent} {job n : Nat} {as_ : List Nat} (h : Keeps s₀ s) : Keeps s₀ (dumpRows g job n as_ s).1 := by
  induction as_ generalizing s with
  | nil => exact h
  | cons a as_ ih =>
    dsimp only [Machine.dumpRows]
    exact ih (.floorRead h)

theorem Keeps.dumpCopy {d : Dump} {s0 : State} (h : Keeps s₀ s0) : Keeps s₀ (dumpCopy d s0).1 := by
  dsimp only [Machine.dumpCopy]
  split
  · split
    · dsimp only
      exact .jobFault (.draw (.floorRead h))
    · split
      · dsimp only
        exact .draw (.floorRead h)
      · split
        · exact .floorRead h
        · split
          · exact .floorRead h
          · dsimp only
            exact .emit (.dumpRows (.floorRead h))
  · split
    · dsimp only
      exact .jobFault (.draw (.floorRead h))
    · split
      · dsimp only
        exact .draw (.floorRead h)
      · split
        · exact .floorRead h
        · split
          · exact .floorRead h
          · dsimp only
            exact .floorWrite (.dumpRows (.floorRead h))

theorem Keeps.dumpRelease {d : Dump} {item : Nat} (h : Keeps s₀ s) : Keeps s₀ (dumpRelease d item s) :=
  .onJob h

theorem Keeps.dumpCopyEnd {job item : Nat} (h : Keeps s₀ s) : Keeps s₀ (dumpCopyEnd job item s) := by
  dsimp only [Machine.dumpCopyEnd]
  split
  · exact h
  · exact .advanceItems (.dumpRelease (.dumpEnd (.traceRec (.dumpCopy h))))

theorem Keeps.testWinnow {c : Cmd} (h : Keeps s₀ s) : Keeps s₀ (testWinnow c s) := by
  dsimp only [Machine.testWinnow]
  exact .judged h (.ite (.onObs (.markStarted (.ite (.onObs h rfl) h)) rfl) (.complete (.ite (.onObs h rfl) h)))

theorem Keeps.holdCores (h : Keeps s₀ s) : Keeps s₀ (holdCores s) := by
  dsimp only [Machine.holdCores]
  exact .foldl (.onObs h rfl) fun _ _ h => .onCore h

theorem Keeps.testShutdownPrep {failed : List (Tower × Nat)} {flashOk : Bool} {c : Cmd} (h : Keeps s₀ s) :
    Keeps s₀ (testShutdownPrep failed flashOk c s) := by
  dsimp only [Machine.testShutdownPrep]
  exact .judged h (.complete (.holdCores (.onFlash (.writeCalibration (.draw h)) rfl)))

theorem Keeps.testResults {c : Cmd} (h : Keeps s₀ s) : Keeps s₀ (testResults c s) :=
  .judged h (.complete h)

theorem Keeps.calibrationWrite (h : Keeps s₀ s) : Keeps s₀ (calibrationWrite s) :=
  .ite (.writeCalibration h) h

/-! ### The operations of Machine/Reset.lean -/

theorem Keeps.channelDrain (h : Keeps s₀ s) : Keeps s₀ (channelDrain s).1 := by
  dsimp only [Machine.channelDrain]
  exact .foldl h fun _ _ h => .hbmStoreBlock h

theorem Keeps.afterDevice {r : ResetReport} {lost : Tower → Bool} (h : Keeps s₀ s) : Keeps s₀ (afterDevice r lost s) := by
  refine h.mem rfl fun hw => ?_
  rw [State.memoriesWf_iff] at hw ⊢
  obtain ⟨hmb, hmsix, hhbm, -, himage, -⟩ := hw
  exact ⟨hmb, hmsix, hhbm, rfl, himage, rfl, rfl, fun e he => absurd he List.not_mem_nil⟩

theorem Keeps.deviceReset {source : Nat} (h : Keeps s₀ s) : Keeps s₀ (deviceReset source s) := by
  dsimp only [Machine.deviceReset]
  exact .afterDevice (.rehome (.foldl (.channelDrain (.failMailboxes h)) fun _ _ h => .tickFault h))

theorem Keeps.coldReset {source : Nat} {running : Bool} (h : Keeps s₀ s) : Keeps s₀ (coldReset source running s) := by
  refine h.mem rfl fun hw => ?_
  rw [State.memoriesWf_iff] at hw ⊢
  obtain ⟨-, -, -, -, himage, -⟩ := hw
  exact ⟨Memory.wf_nil, wf_msixTable_reset, Memory.wf_nil, Memory.wf_nil, himage, Memory.wf_nil, Memory.wf_nil,
    fun e he => absurd he List.not_mem_nil⟩

theorem Keeps.devResetKey {v : BitVec 32} (h : Keeps s₀ s) : Keeps s₀ (devResetKey v s) :=
  .ite (.deviceReset h) h

theorem Keeps.perstAssert (h : Keeps s₀ s) : Keeps s₀ (perstAssert s) := by
  dsimp only [Machine.perstAssert]
  exact .ite (.coldReset (.onMod h)) (.onMod h)

theorem Keeps.stackTimeout {stack : Nat} (h : Keeps s₀ s) : Keeps s₀ (stackTimeout stack s) := by
  dsimp only [Machine.stackTimeout]
  split
  · exact .ite (.onBoot (.onTwin (.onHbm h rfl))) h
  · exact h

theorem Keeps.abandon {c : Cmd} (h : Keeps s₀ s) : Keeps s₀ (abandon c s) := by
  dsimp only [Machine.abandon]
  exact .ite (.complete (.onJobs (.onObs (.onLoft (.foldl (.bindFail h) fun _ _ h => .ite (.restoreEnd h) h) rfl) rfl))) (.onJobs (.onObs (.onLoft
      (.foldl (.bindFail h) fun _ _ h => .ite (.restoreEnd h) h) rfl) rfl))

theorem Keeps.startPartReset {c : Cmd} {tower : Bool} {partition : Nat} (h : Keeps s₀ s) : Keeps s₀ (startPartReset c tower partition s) := by
  dsimp only [Machine.startPartReset]
  exact .onBoot (.foldl (.foldl (.foldl (.markStarted h) fun _ _ h => .finishReductions h) fun _ _ h => .tickFault h) fun _ _ h => .abandon h)

theorem Keeps.mapOutCores {sub : Nat} {failed : List (Tower × Nat)} (h : Keeps s₀ s) : Keeps s₀ (mapOutCores sub failed s) := by
  dsimp only [Machine.mapOutCores]
  exact .same h rfl rfl

theorem Keeps.resetLoft {t : Tower} (h : Keeps s₀ s) : Keeps s₀ (resetLoft t s) := by
  dsimp only [Machine.resetLoft]
  exact .onLoft (.foldl_fst h fun _ _ h => .unpinBay h) rfl

theorem Keeps.towerLevelEnd {ts : List Tower} (h : Keeps s₀ s) : Keeps s₀ (towerLevelEnd ts s) :=
  .onGate (.foldl h fun _ _ h => .restartSamples (.resetLoft h))

theorem Keeps.partitionResetEnd {at_ : Nat} {failed : List (Tower × Nat)} (h : Keeps s₀ s) : Keeps s₀ (partitionResetEnd at_ failed s) := by
  dsimp only [Machine.partitionResetEnd]
  split
  · exact h
  · split
    · exact .complete (.onBoot (.mapOutCores (.ite (.towerLevelEnd (.clearCores (.foldl_fst (.drainCores (.timeTo h)) fun _ _ h => .flushTower h)))
        (.clearCores (.foldl_fst (.drainCores (.timeTo h)) fun _ _ h => .flushTower h)))))
    · exact .onBoot (.mapOutCores (.ite (.towerLevelEnd (.clearCores (.foldl_fst (.drainCores (.timeTo h)) fun _ _ h => .flushTower h)))
        (.clearCores (.foldl_fst (.drainCores (.timeTo h)) fun _ _ h => .flushTower h))))

theorem Keeps.coreResetEnd {at_ : Nat} (h : Keeps s₀ s) : Keeps s₀ (coreResetEnd at_ s) := by
  dsimp only [Machine.coreResetEnd]
  split
  · exact h
  · split
    · exact .complete (.onBoot (.onCore (.timeTo h)))
    · exact .onBoot (.onCore (.timeTo h))

theorem Keeps.resetLevel {c : Cmd} (h : Keeps s₀ s) : Keeps s₀ (resetLevel c s) := by
  dsimp only [Machine.resetLevel]
  exact .judged h (.ite (.deviceReset (.complete h)) (.ite (.onBoot (.markStarted h)) (.startPartReset h)))

/-! ### The operations of Machine/Thermal.lean -/

theorem Keeps.applyReport {r : SensorReport} (h : Keeps s₀ s) : Keeps s₀ (applyReport s r) :=
  .ite h (.onTherm h)

theorem Keeps.judgeSensor {k : Nat} (h : Keeps s₀ s) : Keeps s₀ (judgeSensor s k) := by
  dsimp only [Machine.judgeSensor]
  exact .onTherm h

theorem Keeps.thermPost {code z level : Nat} (h : Keeps s₀ s) : Keeps s₀ (thermPost code z level s) :=
  .ite (.postNotice h) h

theorem Keeps.judgeZone {z : Nat} (h : Keeps s₀ s) : Keeps s₀ (judgeZone s z) := by
  dsimp only [Machine.judgeZone]
  split
  · exact .onTherm h
  · exact .ite (.thermPost (.ite (.thermPost (.onTherm h)) (.onTherm h))) (.ite (.thermPost (.onTherm h)) (.onTherm h))

theorem Keeps.engage {z : Nat} (h : Keeps s₀ s) : Keeps s₀ (engage s z) := by
  dsimp only [Machine.engage]
  exact .ite (.onTherm h) h

theorem Keeps.lift {z : Nat} (h : Keeps s₀ s) : Keeps s₀ (lift s z) :=
  .ite (.thermPost (.onTherm h)) h

theorem Keeps.liftClamps (h : Keeps s₀ s) : Keeps s₀ (liftClamps s) :=
  .foldl h fun _ _ h => .lift h

theorem Keeps.traceThermal {t : Tower} (h : Keeps s₀ s) : Keeps s₀ (traceThermal t s) := by
  dsimp only [Machine.traceThermal]
  exact .traceRec h

theorem Keeps.stepPoint {t : Tower} {p : Nat} (h : Keeps s₀ s) : Keeps s₀ (stepPoint t p s) := by
  dsimp only [Machine.stepPoint]
  exact .same h rfl rfl

theorem Keeps.stepZone {t : Tower} {z c : Nat} (h : Keeps s₀ s) : Keeps s₀ (stepZone t z c s) := by
  dsimp only [Machine.stepZone]
  exact .onGate (.onTherm h)

theorem Keeps.thermalClampStep {t : Tower} (h : Keeps s₀ s) : Keeps s₀ (thermalClampStep t s) := by
  dsimp only [Machine.thermalClampStep]
  split
  · exact h
  · exact .advanceItems (.noteStatus (.liftClamps (.traceThermal (.retarget (.foldl (by
      split
      · exact .ite (.stepPoint (.timeTo h)) (.timeTo h)
      · exact .timeTo h) fun _ _ h => .ite (.stepZone h) h)))))

theorem Keeps.railOff (h : Keeps s₀ s) : Keeps s₀ (railOff s) :=
  .onMod h

theorem Keeps.thermalShutdown {z : Nat} (h : Keeps s₀ s) : Keeps s₀ (thermalShutdown z s) := by
  dsimp only [Machine.thermalShutdown]
  exact .coldReset (.emit (.onMod (.railOff h)))

theorem Keeps.stackRefresh {i : Nat} (h : Keeps s₀ s) : Keeps s₀ (stackRefresh s i) := by
  dsimp only [Machine.stackRefresh]
  split
  · exact h
  · split
    · exact .onHbm h rfl
    · split
      · exact .ite (.onHbm h rfl) (.ite (.onHbm h rfl) h)
      · exact h

theorem Keeps.postFailed {before : List Nat} (h : Keeps s₀ s) : Keeps s₀ (postFailed before s) :=
  .foldl h fun _ _ h => .postNotice h

theorem Keeps.thresholdsApply (h : Keeps s₀ s) : Keeps s₀ (thresholdsApply s) :=
  .onTherm h

theorem Keeps.thermalSample {at_ : Nat} {reports : List SensorReport} (h : Keeps s₀ s) : Keeps s₀ (thermalSample at_ reports s) := by
  dsimp only [Machine.thermalSample]
  split
  · exact h
  · split
    · exact .thermalShutdown (.postFailed (.foldl (.thresholdsApply (.foldl (.foldl (.timeTo h) fun _ _ h => .applyReport h) fun _ _ h
        => .judgeSensor h)) fun _ _ h => .judgeZone h))
    · exact .topoTry (.advanceItems (.noteStatus (.retargetBoth (.liftClamps (.foldl (.foldl (.postFailed (.foldl (.thresholdsApply (.foldl (.foldl
        (.timeTo h) fun _ _ h => .applyReport h) fun _ _ h => .judgeSensor h)) fun _ _ h => .judgeZone h)) fun _ _ h => .engage h) fun _ _ h
            => .stackRefresh h)))))

/-! ### The operations of Machine/Trust.lean -/

theorem Keeps.fwStage {c : Cmd} (h : Keeps s₀ s) : Keeps s₀ (fwStage c s) := by
  dsimp only [Machine.fwStage]
  refine .judged h (.complete (.onTrust_wf h fun ht => Memory.wf_memWrite _ _ _ ?_))
  split
  · rfl
  · exact ht

theorem Keeps.fwCommit {c : Cmd} (h : Keeps s₀ s) : Keeps s₀ (fwCommit c s) := by
  have hstart := Keeps.markStarted (c := c) h
  dsimp only [Machine.fwCommit]
  refine .judged h (.ite (.complete h) (.onTrust (hstart.mem rfl fun hw => ?_) rfl))
  rw [State.memoriesWf_iff] at hw ⊢
  obtain ⟨hmb, hmsix, hhbm, hpin, -, hstage, hrest⟩ := hw
  exact ⟨hmb, hmsix, hhbm, hpin, Memory.wf_filter _ _ hstage, hstage, hrest⟩

theorem Keeps.flashWriteEnd {ok : Bool} (h : Keeps s₀ s) : Keeps s₀ (flashWriteEnd ok s) := by
  have hwrite {u : State} (hu : Keeps s₀ u) : Keeps s₀ (if ok then u.onFlash (fun f => { f with image := u.trust.stage }) else u) := by
    refine .ite (hu.mem rfl fun hw => ?_) hu
    rw [State.memoriesWf_iff] at hw ⊢
    obtain ⟨hmb, hmsix, hhbm, hpin, -, hstage, hrest⟩ := hw
    exact ⟨hmb, hmsix, hhbm, hpin, hstage, hstage, hrest⟩
  unfold Machine.flashWriteEnd
  split
  · exact h
  · have hw := hwrite (Keeps.onTrust (f := fun t => { t with writing := none }) h rfl)
    dsimp only
    split
    · exact .ite (.complete hw) (.complete hw)
    · exact hw

theorem Keeps.fwVersion {c : Cmd} (h : Keeps s₀ s) : Keeps s₀ (fwVersion c s) := by
  dsimp only [Machine.fwVersion]
  exact .judged h (.complete h)

theorem Keeps.fwRollbackCommit {c : Cmd} (h : Keeps s₀ s) : Keeps s₀ (fwRollbackCommit c s) := by
  have hor (x y : BitVec 4) : x &&& (x ||| y) = x := by
    ext i
    simp +contextual
  dsimp only [Machine.fwRollbackCommit]
  exact .judged h (.complete (.onFuses h ⟨le_max_left _ _, le_rfl, hor _ _⟩))

theorem Keeps.takeLeaf (h : Keeps s₀ s) : ∀ p, takeLeaf s = some p → Keeps s₀ p.2 := by
  have hwrite (r : LeafRec) {u : State} (hu : Keeps s₀ u) : Keeps s₀ (u.onFlash fun g =>
      if g.leafA.valid ∧ (!g.leafB.valid ∨ g.leafB.seq ≤ g.leafA.seq) then { g with leafB := r } else { g with leafA := r }) :=
    .onFlash_wf hu fun hg => by split <;> exact hg
  intro p hp
  dsimp only [Machine.takeLeaf] at hp
  split at hp
  · split at hp
    · obtain rfl := Option.some.inj hp
      exact hwrite _ h
    · simp at hp
  · split at hp
    · obtain rfl := Option.some.inj hp
      exact hwrite _ (.onFuses h ⟨le_rfl, Nat.le_succ _, BitVec.and_self⟩)
    · simp at hp

theorem Keeps.newKey (h : Keeps s₀ s) : Keeps s₀ (newKey s) := by
  unfold Machine.newKey
  split
  · rename_i heq
    exact .onTrust ((Keeps.takeLeaf h _ heq)) rfl
  · exact .onTrust h rfl

theorem Keeps.idCacheRebuildEnd (h : Keeps s₀ s) : Keeps s₀ (idCacheRebuildEnd s) :=
  .ite (.newKey (.onTrust h rfl)) h

theorem Keeps.readyKey (h : Keeps s₀ s) : Keeps s₀ (readyKey s) := by
  unfold Machine.readyKey
  split
  · exact .ite h (.newKey h)
  · exact .newKey h

theorem Keeps.attestQuote {c : Cmd} (h : Keeps s₀ s) : Keeps s₀ (attestQuote c s) := by
  dsimp only [Machine.attestQuote]
  exact .judged h (by
    split
    · exact .complete (.readyKey (.onTrust (.readyKey h) rfl))
    · exact .readyKey h)

theorem Keeps.attestCert {c : Cmd} (h : Keeps s₀ s) : Keeps s₀ (attestCert c s) :=
  .judged h (.complete h)

/-! ### The operations of Machine/Bringup.lean -/

theorem Keeps.bootLine {l : Nat × Nat × Nat} (h : Keeps s₀ s) : Keeps s₀ (bootLine s l) := by
  dsimp only [Machine.bootLine]
  exact .ite h (.ite (.ite h (.onFlash (.retireColumn h) rfl)) (.addLine h))

theorem Keeps.dropLost (h : Keeps s₀ s) : Keeps s₀ (dropLost s) := by
  dsimp only [Machine.dropLost]
  exact .onHbm_wf h fun hx => Memory.wf_filter s.hbm.mem _ hx

theorem Keeps.mcStart (h : Keeps s₀ s) : Keeps s₀ (mcStart s) := by
  dsimp only [Machine.mcStart]
  exact .onHbm (.rehome (.ite (.same h rfl rfl) (.postDeviceFault (.same h rfl rfl)))) rfl

theorem Keeps.enterS8 (h : Keeps s₀ s) : Keeps s₀ (enterS8 s) := by
  dsimp only [Machine.enterS8]
  split
  · exact .ite (.startPorts (.same h rfl rfl)) (.onBoot h)
  · exact .onBoot h

theorem Keeps.stageFail {code mapped : Nat} (h : Keeps s₀ s) : Keeps s₀ (stageFail code mapped s) :=
  .noteStatus (.onBoot h)

theorem Keeps.stageNext {mapped : Nat} (h : Keeps s₀ s) : Keeps s₀ (stageNext mapped s) := by
  dsimp only [Machine.stageNext]
  exact .ite (.ite (.stageFail (.enterS8 (.noteStatus (.onBoot h)))) (.enterS8 (.noteStatus (.onBoot h)))) (.ite (.topoTry (.noteStatus (.onBoot
      h))) (.noteStatus (.onBoot h)))

theorem Keeps.stage1 (h : Keeps s₀ s) : Keeps s₀ (stage1 s).st := by
  have hflash : Keeps s₀ (s.onFlash applyTestRecord) := .onFlash_wf h fun hx => by
    unfold applyTestRecord
    split <;> exact hx
  generalize hu : s.onFlash applyTestRecord = u at hflash
  dsimp only [Machine.stage1]
  rw [hu]
  exact .same hflash rfl rfl

theorem Keeps.stage4 {failed : List GroupRef} (h : Keeps s₀ s) : Keeps s₀ (stage4 failed s).st :=
  .foldl (.onVl h) fun _ _ h => .retireGroup h

theorem Keeps.stage5 {r : StageEnd} (h : Keeps s₀ s) : Keeps s₀ (stage5 r s).st := by
  refine .same (.dropLost (.foldl (.onLoft_wf h ?_) fun _ _ h => .bootLine h)) rfl rfl
  exact fun _ => Memory.wf_nil

theorem Keeps.stage6 {rebuild : Bool} (h : Keeps s₀ s) : Keeps s₀ (stage6 rebuild s).st := by
  have hrun := Keeps.mcStart (.onBoot (f := fun b => { b with recovery := false }) (.onTrust (f := fun t => { t with
    fwMeas := imageMeas (imageBytes s.flash.image), runHeader := (imageBytes s.flash.image).take 256, rebuilding := rebuild }) h rfl))
  dsimp only [Machine.stage6]
  split
  · exact h
  · exact .ite hrun (.newKey hrun)

theorem Keeps.stageWork {r : StageEnd} (h : Keeps s₀ s) : Keeps s₀ (stageWork r s).st := by
  unfold Machine.stageWork
  split
  · exact .stage1 h
  · exact .draw (.draw (.onHost h rfl rfl))
  · exact .foldl h fun _ _ h => .remeasure h
  · exact .stage4 h
  · exact .stage5 h
  · exact .stage6 h
  · exact .mapOutCores (.onTrust (.onCores h) rfl)
  · exact .foldl h fun _ _ h => .portTrainingEnd h
  · exact h

theorem Keeps.bringupStageEnd {r : StageEnd} (h : Keeps s₀ s) : Keeps s₀ (bringupStageEnd r s) :=
  have hwork := Keeps.stageWork (r := r) (.timeTo h)
  .ite h (.ite (.stageFail (.timeTo h)) (.ite (.stageFail hwork) (.stageNext hwork)))

theorem Keeps.bringupReport {c : Cmd} (h : Keeps s₀ s) : Keeps s₀ (bringupReport c s) :=
  .judged h (.complete h)

theorem Keeps.fuseRead {c : Cmd} (h : Keeps s₀ s) : Keeps s₀ (fuseRead c s) := by
  dsimp only [Machine.fuseRead]
  exact .judged h (.complete h)

theorem Keeps.identRead {r : CmisReport} {c : Cmd} (h : Keeps s₀ s) : Keeps s₀ (identRead r c s) := by
  dsimp only [Machine.identRead]
  exact .judged h (by
    split
    · exact .complete h
    · exact h)

/-! ### The operations of Machine/Module.lean -/

theorem Keeps.timeZero (h : Keeps s₀ s) : Keeps s₀ (timeZero s) := by
  dsimp only [Machine.timeZero]
  exact .ite (.same h rfl rfl) h

theorem Keeps.railOn (h : Keeps s₀ s) : Keeps s₀ (railOn s) := by
  dsimp only [Machine.railOn]
  exact .ite (.onMod h) h

theorem Keeps.railLost {source : Nat} (h : Keeps s₀ s) : Keeps s₀ (railLost source s) :=
  .ite (.coldReset (.railOff h)) h

theorem Keeps.inputRise (h : Keeps s₀ s) : Keeps s₀ (inputRise s) :=
  .ite (.railOn (.coldReset (.onMod h))) h

theorem Keeps.pwrEnAssert (h : Keeps s₀ s) : Keeps s₀ (pwrEnAssert s) := by
  dsimp only [Machine.pwrEnAssert]
  exact .ite h (.timeZero (.railOn (.onMod h)))

theorem Keeps.pwrEnDeassert (h : Keeps s₀ s) : Keeps s₀ (pwrEnDeassert s) :=
  .ite (.railLost (.onMod h)) h

theorem Keeps.latchClear (h : Keeps s₀ s) : Keeps s₀ (latchClear s) := by
  dsimp only [Machine.latchClear]
  exact .ite h (.ite (.emit (.onMod h)) (.onMod h))

theorem Keeps.railGood (h : Keeps s₀ s) : Keeps s₀ (railGood s) :=
  .ite (.timeZero (.onMod h)) h

theorem Keeps.perstDeassert (h : Keeps s₀ s) : Keeps s₀ (perstDeassert s) :=
  .timeZero (.onMod h)

theorem Keeps.inputUndervoltage (h : Keeps s₀ s) : Keeps s₀ (inputUndervoltage s) :=
  .ite (.railLost (.onMod h)) h

theorem Keeps.inputReturn (h : Keeps s₀ s) : Keeps s₀ (inputReturn s) :=
  .ite (.timeZero (.railOn (.onMod h))) h

theorem Keeps.standbyLoss (h : Keeps s₀ s) : Keeps s₀ (standbyLoss s) := by
  dsimp only [Machine.standbyLoss]
  exact .ite h (.ite (.emit (.coldReset (.same h rfl rfl))) (.coldReset (.same h rfl rfl)))

theorem Keeps.moduleOff {offset d0 d1 : Byte} (h : Keeps s₀ s) : Keeps s₀ (moduleOff offset d0 d1 s) :=
  .ite (.railLost (.onMod h)) h

theorem Keeps.entdaa {addr : BitVec 7} (h : Keeps s₀ s) : Keeps s₀ (entdaa addr s) :=
  .ite (.emit (.onMod h)) h

theorem Keeps.rstdaa (h : Keeps s₀ s) : Keeps s₀ (rstdaa s) :=
  .ite (.onMod h) h

theorem Keeps.tapInstruction {ir : TapIr} (h : Keeps s₀ s) : Keeps s₀ (tapInstruction ir s) := by
  dsimp only [Machine.tapInstruction]
  split
  · exact h
  · split
    · exact .onMod h
    · exact .onMod h
    · exact .onMod h
    · exact .emit (.onMod h)
    · exact .ite h (.onMod h)

theorem Keeps.telemetryRefresh {inputMv inputMa pkgMv pkgMa w0 w1 : Nat} (h : Keeps s₀ s) :
    Keeps s₀ (telemetryRefresh inputMv inputMa pkgMv pkgMa w0 w1 s) := by
  dsimp only [Machine.telemetryRefresh]
  exact .ite h (.onMod (.onMod h))

/-! ### Every command -/

theorem KeepsNext.exec (c : Instr) (h : Keeps s₀ s) : KeepsNext s₀ (exec c s) := by
  cases c with
  | devInfo _ => exact .next (.runCmd (fun _ _ h => .devInfo h) h)
  | devStatus _ => exact .next (.runCmd (fun _ _ h => .devStatus h) h)
  | devEvents _ => exact .next (.runCmd (fun _ _ h => .devEvents h) h)
  | devTime _ => exact .next (.runCmd (fun _ _ h => .devTime h) h)
  | mbAcl _ => exact .next (.runCmd (fun _ _ h => .mbAcl h) h)
  | tickConfig _ => exact .next (.runCmd (fun _ _ h => .tickConfig h) h)
  | tickStart _ => exact .next (.runCmd (fun _ _ h => .tickStart h) h)
  | tickStop _ => exact .next (.runCmd (fun _ _ h => .tickStop h) h)
  | sheafSubmit _ => exact .next (.runCmd (fun _ _ h => .sheafSubmit h) h)
  | admissionEnd _ _ => exact .next (.admissionEnd h)
  | sheafStatus _ => exact .next (.runCmd (fun _ _ h => .sheafStatus h) h)
  | kernelLoad _ => exact .next (.runCmd (fun _ _ h => .kernelLoad h) h)
  | jobCreate _ => exact .next (.runCmd (fun _ _ h => .jobCreate h) h)
  | jobDestroy _ => exact .next (.runCmd (fun _ _ h => .jobDestroy h) h)
  | loftPin _ => exact .next (.runCmd (fun _ _ h => .loftPin h) h)
  | loftUnpin _ => exact .next (.runCmd (fun _ _ h => .loftUnpin h) h)
  | loftQuota _ => exact .next (.runCmd (fun _ _ h => .loftQuota h) h)
  | loftFlush _ => exact .next (.runCmd (fun _ _ h => .loftFlush h) h)
  | cellarConfig _ => exact .next (.runCmd (fun _ _ h => .cellarConfig h) h)
  | memRemap _ => exact .next (.runCmd (fun _ _ h => .memRemap h) h)
  | memScrub _ => exact .next (.runCmd (fun _ _ h => .memScrub h) h)
  | bwBudget _ => exact .next (.runCmd (fun _ _ h => .bwBudget h) h)
  | fabPorts _ => exact .next (.runCmd (fun _ _ h => .fabPorts h) h)
  | fabSetId _ => exact .next (.runCmd (fun _ _ h => .fabSetId h) h)
  | fabRoutes _ => exact .next (.runCmd (fun _ _ h => .fabRoutes h) h)
  | fabTopoExpect _ => exact .next (.runCmd (fun _ _ h => .fabTopoExpect h) h)
  | fabContext _ => exact .next (.runCmd (fun _ _ h => .fabContext h) h)
  | fabTickRole _ => exact .next (.runCmd (fun _ _ h => .fabTickRole h) h)
  | twinBind _ => exact .next (.runCmd (fun _ _ h => .twinBind h) h)
  | twinBindTimeout _ => exact .next (.twinBindTimeout h)
  | twinUnbind _ => exact .next (.runCmd (fun _ _ h => .twinUnbind h) h)
  | twinRestore _ => exact .next (.runCmd (fun _ _ h => .twinRestore h) h)
  | twinStatus _ => exact .next (.runCmd (fun _ _ h => .twinStatus h) h)
  | powerState _ => exact .next (.runCmd (fun _ _ h => .powerState h) h)
  | powerTransitionEnd _ _ => exact .next (.powerTransitionEnd h)
  | powerLimit _ => exact .next (.runCmd (fun _ _ h => .powerLimit h) h)
  | thermThresh _ => exact .next (.runCmd (fun _ _ h => .thermThresh h) h)
  | sensorMask _ => exact .next (.runCmd (fun _ _ h => .sensorMask h) h)
  | telemRead _ => exact .next (.runCmd (fun _ _ h => .telemRead h) h)
  | resetLevel _ => exact .next (.runCmd (fun _ _ h => .resetLevel h) h)
  | partitionResetEnd _ _ => exact .next (.partitionResetEnd h)
  | bringupReport _ => exact .next (.runCmd (fun _ _ h => .bringupReport h) h)
  | identRead _ _ => exact .next (.runCmd (fun _ _ h => .identRead h) h)
  | fuseRead _ => exact .next (.runCmd (fun _ _ h => .fuseRead h) h)
  | attestQuote _ => exact .next (.runCmd (fun _ _ h => .attestQuote h) h)
  | attestCert _ => exact .next (.runCmd (fun _ _ h => .attestCert h) h)
  | fwRollbackCommit _ => exact .next (.runCmd (fun _ _ h => .fwRollbackCommit h) h)
  | ctrConfig _ => exact .next (.runCmd (fun _ _ h => .ctrConfig h) h)
  | ctrRead _ => exact .next (.runCmd (fun _ _ h => .ctrRead h) h)
  | traceConfig _ => exact .next (.runCmd (fun _ _ h => .traceConfig h) h)
  | traceDrain _ => exact .next (.runCmd (fun _ _ h => .traceDrain h) h)
  | debugDump _ => exact .next (.runCmd (fun _ _ h => .debugDump h) h)
  | dumpCopyEnd _ _ => exact .next (.dumpCopyEnd h)
  | testWinnow _ => exact .next (.runCmd (fun _ _ h => .testWinnow h) h)
  | testShutdownPrep _ _ _ => exact .next (.runCmd (fun _ _ h => .testShutdownPrep h) h)
  | testResults _ => exact .next (.runCmd (fun _ _ h => .testResults h) h)
  | eccInject _ => exact .next (.runCmd (fun _ _ h => .eccInject h) h)
  | fwStage _ => exact .next (.runCmd (fun _ _ h => .fwStage h) h)
  | fwCommit _ => exact .next (.runCmd (fun _ _ h => .fwCommit h) h)
  | fwVersion _ => exact .next (.runCmd (fun _ _ h => .fwVersion h) h)
  | mailboxHandoff _ _ => exact .next (.handoff h)
  | commandTake _ => exact .next (.commandTake h)
  | mbDoneSummaryClear _ => exact .next (.mbDoneClear h)
  | devFaultClear _ => exact .next (.devFaultClear h)
  | devResetKey _ => exact .next (.devResetKey h)
  | registerWrite _ _ => exact .next (.registerWrite h)
  | configSpaceWrite _ => exact .next (.configWrite h)
  | bar2Read _ _ => exact .next (.bar2Read h)
  | bar2Write _ _ _ => exact .next (.bar2Write h)
  | perstAssert => exact .next (.perstAssert h)
  | hotReset => exact .next (.hotReset h)
  | msixStatusVector _ => exact .next (.msixStatus h)
  | devEventsWaitTimeout => exact .next (.eventsTimeout h)
  | tickBoundary _ => exact .next (.tickBoundary h)
  | runEnd _ => exact .next (.runEnd h)
  | stretchDecision _ => exact .next (.stretchDecision h)
  | settleEnd _ => exact .next (.settleEnd h)
  | commitEnd _ => exact .next (.commitEnd h)
  | winnowSliceEnd _ _ => exact .next (.winnowSliceEnd h)
  | idleGleanWindow _ => exact .next (.idleGleanWindow h)
  | startBeacon _ _ _ => exact .next (.beaconIn (fun _ _ h => .onStart h) h)
  | tickBeacon _ _ _ => exact .next (.beaconIn (fun _ _ h => .onTick h) h)
  | holdBeacon _ _ _ => exact .next (.beaconIn (fun _ _ h => .onHold h) h)
  | stretchBeacon _ _ _ => exact .next (.beaconIn (fun _ _ h => .onStretch h) h)
  | faultBeacon _ _ _ => exact .next (.beaconIn (fun _ _ h => .onFault h) h)
  | abortBeacon _ _ _ => exact .next (.beaconIn (fun _ _ h => .onAbort h) h)
  | beaconRepeatSend _ => exact .next (.beaconRepeat h)
  | beaconMiss _ => exact .next (.beaconMiss h)
  | gateWindowStart _ _ => exact .next (.gateWindow h)
  | gateNoticeEnd => exact .next (.gateNoticeEnd h)
  | holderBudgetWindowEnd _ _ => exact .next (.holderBudgetWindowEnd h)
  | kernelItemComplete _ _ _ => exact .next (.kernelComplete h)
  | sweepOpComplete _ _ _ => exact .next (.sweepOpComplete h)
  | copyPieceDone _ _ => exact .next (.copyPieceDone h)
  | copyItemComplete _ _ _ => exact .next (.copyItemComplete h)
  | vectorIntegerOp _ _ _ _ _ _ => exact .next (.vectorIntegerOp h)
  | integerDivide _ _ _ _ _ _ => exact .next (.integerDivide h)
  | fp32Op _ _ _ _ _ _ => exact .next (.fp32Op h)
  | packed16Op _ _ _ _ _ _ _ => exact .next (.packed16Op h)
  | cvt _ _ _ _ _ _ _ => exact .next (.cvt h)
  | specialFunction _ _ _ _ => exact .next (.specialFunction h)
  | dataMove _ _ _ => exact .next (.dataMove h)
  | vote _ _ _ => exact .next (.vote h)
  | shfl _ _ _ _ => exact .next (.shfl h)
  | sreg _ _ _ => exact .next (.sreg h)
  | bra _ _ _ _ _ => exact .next (.bra h)
  | reconv _ => exact .next (.reconvI h)
  | call _ _ => exact .next (.call h)
  | ret _ => exact .next (.ret h)
  | exit _ => exact .next (.exitI h)
  | yield _ => exact .next (.yield h)
  | ldl _ _ _ _ => exact .next (.ldl h)
  | stl _ _ _ _ => exact .next (.stl h)
  | atoml _ _ _ _ _ _ _ => exact .next (.atoml h)
  | ld _ _ _ _ => exact .next (.ld h)
  | ldRo _ _ _ _ => exact .next (.ldRo h)
  | globalLoadReturn _ => exact .next (.globalLoadReturn h)
  | st _ _ _ _ => exact .next (.st h)
  | atom _ _ _ _ _ _ _ _ _ => exact .next (.memAtomic h)
  | red _ _ _ _ _ _ _ => exact .next (.memAtomic h)
  | acpG2l _ _ _ _ _ => exact .next (.acpG2l h)
  | acpL2g _ _ _ _ _ => exact .next (.acpL2g h)
  | acpL2l _ _ _ _ _ => exact .next (.acpL2l h)
  | acpBox _ _ _ _ _ _ => exact .next (.acpBox h)
  | asyncCopyComplete _ _ => exact .next (.asyncCopyComplete h)
  | barInit _ _ _ => exact .next (.barInit h)
  | barArrive _ _ => exact .next (.barArrival h)
  | barWait _ _ => exact .next (.barWait h)
  | barSync _ _ => exact .next (.barArrival h)
  | arvSet _ _ _ => exact .next (.arvSet h)
  | arvAdd _ _ _ => exact .next (.arvAdd h)
  | arvWait _ _ _ => exact .next (.arvWait h)
  | lockAcq _ _ _ _ => exact .next (.lockAcq h)
  | lockRetryTimeout _ => exact .next (.lockRetryTimeout h)
  | lockTry _ _ _ _ => exact .next (.lockTry h)
  | lockRel _ _ _ => exact .next (.lockRel h)
  | fenceCrew _ => exact .next (.fence h)
  | fenceTower _ => exact .next (.fence h)
  | fenceDevice _ => exact .next (.fence h)
  | fenceSys _ => exact .next (.fence h)
  | invalRo _ => exact .next (.invalRo h)
  | mma _ _ _ _ _ _ _ _ _ => exact .next (.mma h)
  | mmaChainDrain _ _ => exact .next (.mmaChainDrain h)
  | mxld _ _ _ _ _ => exact .next (.mxld h)
  | mxst _ _ _ _ _ _ _ => exact .next (.mxst h)
  | mxwait _ => exact .next (.mxwait h)
  | swpPost _ _ _ => exact .next (.swpPost h)
  | memorySideReduction _ _ => exact .next (.memorySideReduction h)
  | loftAccess _ _ _ => exact .next (.loftAccess h)
  | bulkFillComplete _ _ => exact .next (.bulkFillComplete h)
  | writebackAccepted _ _ => exact .next (.writebackAccepted h)
  | fineFillComplete _ => exact .next (.fineFillComplete h)
  | loftThrash _ => exact .next (.loftThrash h)
  | bankHot _ => exact .next (.bankHot h)
  | hbmRequest _ _ => exact .next (.hbmRequest h)
  | hbmAccessComplete _ _ _ _ => exact .next (.hbmAccessComplete h)
  | hbmAgePriority _ _ => exact .next (.hbmAgePriority h)
  | hbmRefresh _ _ => exact .next (.hbmRefresh h)
  | floorReduction _ _ => exact .next (.floorReduction h)
  | hbmPinFailed _ _ _ _ => exact .next (.hbmPinFailed h)
  | hbmBlockRepair _ _ => exact .next (.hbmBlockRepair h)
  | hbmRowRepair _ => exact .next (.hbmRowRepair h)
  | loftLineRepair _ _ _ _ => exact .next (.loftLineRepair h)
  | scrubPatrol _ _ _ => exact .next (.scrubPatrol h)
  | vlReplay _ _ _ => exact .next (.vlReplay h)
  | vlWireFailing _ _ => exact .next (.vlWireFailing h)
  | vlClockLoss _ => exact .next (.retireGroup h)
  | portLinkLoss _ => exact .next (.portLinkLoss h)
  | fecUncorrectableLimit _ => exact .next (.fecLimit h)
  | portRetrainAttempt _ => exact .next (.portRetrain h)
  | portSignalDetect _ => exact .next (.portSignal h)
  | portTrainingEnd _ _ => exact .next (.portTrainingEnd h)
  | delayReq _ _ _ => exact .next (.delayReq h)
  | delayResp _ _ _ _ => exact .next (.delayResp h)
  | discoverSend _ => exact .next (.discoverSend h)
  | discover _ _ => exact .next (.discoverIn h)
  | discoverTimeout _ => exact .next (.discoverTimeout h)
  | cmisPoll _ _ => exact .next (.cmisPoll h)
  | frameForward _ _ => exact .next (.arrive h)
  | neighborSolicitation _ _ _ => exact .next (.neighborSolicit h)
  | pfcFrame _ _ _ => exact .next (.pfcFrame h)
  | write _ _ => exact .next (.arriveOp h)
  | add _ _ => exact .next (.arriveOp h)
  | signal _ _ => exact .next (.arriveOp h)
  | readReq _ _ => exact .next (.arriveOp h)
  | readResp _ _ => exact .next (.arriveOp h)
  | ack _ _ => exact .next (.arriveOp h)
  | nack _ _ => exact .next (.arriveOp h)
  | cnp _ _ => exact .next (.arriveOp h)
  | mirrorDeltaRecord _ _ => exact .next (.mirrorDeltaRecord h)
  | commitRecord _ => exact .next (.commitRecord h)
  | hello _ => exact .next (.helloRecord h)
  | ackDelayTimer _ => exact .next (.ackDelayTimer h)
  | retransmitTimeout _ => exact .next (.retransmitTimeout h)
  | waitingResend _ => exact .next (.waitingResend h)
  | waitingLimit _ => exact .next (.waitingLimit h)
  | rateRecovery _ => exact .next (.rateRecovery h)
  | seqPut _ _ => exact .next (.seqQueue h)
  | seqGet _ _ => exact .next (.seqQueue h)
  | seqPutRed _ _ => exact .next (.seqQueue h)
  | seqSignal _ _ => exact .next (.seqQueue h)
  | seqWait _ _ => exact .next (.seqWait h)
  | seqWaitPoll _ _ => exact .next (.seqWaitPoll h)
  | seqFence _ _ => exact .next (.seqFence h)
  | seqLoop _ _ => exact .next (.seqLoop h)
  | seqEnd _ _ _ => exact .next (.seqEnd h)
  | thermalSample _ _ => exact .next (.thermalSample h)
  | thermalClampStep _ => exact .next (.thermalClampStep h)
  | opPointChangeEnd _ => exact .next (.advanceItems (.opPointEnd h))
  | powerBondDrop _ _ => exact .next (.powerBondDrop h)
  | calibrationRecordWrite => exact .next (.calibrationWrite h)
  | stackSelfRefreshTimeout _ => exact .next (.stackTimeout h)
  | bringupStageEnd _ => exact .next (.bringupStageEnd h)
  | mcHeartbeatTick => exact .next (.heartbeatTick h)
  | mcWatchdog => exact .next (.mcWatchdog h)
  | inputRise => exact .next (.inputRise h)
  | pwrEnAssert => exact .next (.pwrEnAssert h)
  | pwrEnDeassert => exact .next (.pwrEnDeassert h)
  | inputUndervoltage => exact .next (.inputUndervoltage h)
  | standbyLoss => exact .next (.standbyLoss h)
  | moduleOff _ _ _ => exact .next (.moduleOff h)
  | entdaa _ => exact .next (.entdaa h)
  | rstdaa => exact .next (.rstdaa h)
  | tapInstruction _ => exact .next (.tapInstruction h)
  | traceAutoDrain _ => exact .next (.traceAutoDrain h)
  | perstDeassert => exact .next (.perstDeassert h)
  | packageRailPowerGood => exact .next (.railGood h)
  | inputReturn => exact .next (.inputReturn h)
  | thermtripLatchClear => exact .next (.latchClear h)
  | startSend _ => exact .next (.startSend h)
  | fabricSend _ => exact .next (.fabricSend h)
  | mxldMxstComplete _ _ => exact .next (.mxldMxstComplete h)
  | flashWriteEnd _ => exact .next (.flashWriteEnd h)
  | coreResetEnd _ => exact .next (.coreResetEnd h)
  | idCacheRebuildEnd => exact .next (.idCacheRebuildEnd h)
  | i3cTelemetryRefresh _ _ _ _ _ _ => exact .next (.telemetryRefresh h)

end

/-! ### Every step -/

theorem step_keeps {s t : State} (h : step s = .next t) : Keeps s t := by
  unfold step at h
  split at h
  · exact KeepsNext.next (.idle (.refl s)) t h
  · rename_i c rest _
    have hrest : Keeps s { s with pending := rest } := .same (.refl s) rfl rfl
    exact KeepsNext.exec c hrest t h

/-- Settles O59, by the rule of each operation that a step runs. -/
theorem memoriesStayCanonical : Obligations.MemoriesStayCanonical := by
  unfold Obligations.MemoriesStayCanonical
  exact fun _ _ hw hstep => (step_keeps hstep).memories hw

/-- Settles O60, by the rule of each operation that a step runs: a leaf of the attestation key and FW.ROLLBACK_COMMIT blow fuses, nothing clears one. -/
theorem fusesNeverDecrease : Obligations.FusesNeverDecrease := by
  unfold Obligations.FusesNeverDecrease
  exact fun _ _ hstep => (step_keeps hstep).fuses

end Sys2Proof.Machine
end

section
/-! PROOFS. What completions and events leave as it is, and how a command of a mailbox runs. -/

namespace Sys2Proof.Machine

/-! ### A command that a mailbox holds -/

/-- The row of a mailbox command runs its body on the waiting command. -/
theorem exec_of_waiting {i : Instr} {s t : State} {mb op : Nat} {c : Cmd} {body : Cmd → State → State} (hw : Waiting s mb op c)
    (hexec : exec i s = .next (runCmd op mb body s)) (hbody : body c s = t) : exec i s = .next t := by
  rw [hexec, runCmd_waiting hw, hbody]

/-- The checks of a command that meets its conditions. -/
theorem judged_ok {c : Cmd} {checks : List (Bool × Nat)} {s k : State} (h : ∀ x ∈ checks, x.1 = false) : judged c checks s k = k :=
  judged_pass c checks s k (List.all_eq_true.mpr fun x hx => by rw [h x hx]; rfl)

/-! ### What a completion and an event change -/

theorem noteStatus_frame (s t : State) : ∃ h, noteStatus s t = { t with host := h } := by
  unfold noteStatus
  split
  · exact ⟨t.host, rfl⟩
  · exact ⟨_, rfl⟩

theorem msixSend_frame (s : State) (v : Nat) : ∃ h o, msixSend s v = { s with host := h, out := o } := by
  unfold msixSend
  split
  · exact ⟨s.host, s.out, rfl⟩
  · split
    · exact ⟨_, s.out, rfl⟩
    · exact ⟨s.host, _, rfl⟩

/-- A completion changes the host's side, the messages sent and the counter of undefined bytes. -/
theorem complete_frame (c : Cmd) (status : Nat) (result : List Byte) (s : State) :
    ∃ n h o, complete c status result s = { s with freeCtr := n, host := h, out := o } := by
  unfold complete
  dsimp only
  split
  · obtain ⟨h, o, he⟩ := msixSend_frame (mbFinish s c.mb c.handoffNs status result) c.mb
    rw [he]
    exact ⟨_, h, o, rfl⟩
  · exact ⟨_, _, s.out, rfl⟩

/-- An event changes the queue besides. -/
theorem postEvent_frame (sev code job : Nat) (detail : List Byte) (s : State) :
    ∃ n h e o, postEvent sev code job detail s = { s with freeCtr := n, host := h, ev := e, out := o } := by
  unfold postEvent
  dsimp only
  generalize hs2 : State.onHost _ _ = s2
  have hframe : ∃ h e, s2 = { s with host := h, ev := e } := ⟨_, _, hs2.symm⟩
  obtain ⟨h2, e2, rfl⟩ := hframe
  obtain ⟨h3, hn⟩ := noteStatus_frame s { s with host := h2, ev := e2 }
  rw [hn]
  split
  · split
    · exact ⟨s.freeCtr, h3, e2, s.out, rfl⟩
    · obtain ⟨n, h, o, hc⟩ := complete_frame ‹Cmd› stDone (eventsResult { s with host := h3, ev := e2 } (par ‹Cmd› 0 2))
        { s with host := h3, ev := { e2 with queue := e2.queue.drop (par ‹Cmd› 0 2), lost := 0 } }
      exact ⟨n, h, _, o, hc⟩
  · exact ⟨s.freeCtr, h3, e2, s.out, rfl⟩

/-- The jobs stay as they are in a completion. -/
@[simp] theorem complete_jobs (c : Cmd) (status : Nat) (result : List Byte) (s : State) : (complete c status result s).jobs = s.jobs := by
  obtain ⟨n, h, o, he⟩ := complete_frame c status result s
  rw [he]

end Sys2Proof.Machine
end

section
/-! PROOFS. The device queries. -/

namespace Sys2Proof.Machine

/-- An entry of MB.ACL within its bounds. -/
theorem aclBad_eq_false {e : List Byte} (h : 1 ≤ fieldAt e 0 1 ∧ fieldAt e 0 1 ≤ 62 ∧ fieldAt e 1 1 = 0 ∧ fieldAt e 2 2 % 2 = 0
    ∧ fieldAt e 2 2 < 2048 ∧ fieldAt e 6 2 = 0) : aclBad e = false := by
  unfold aclBad
  simp
  omega

/-- Settles O1: each command passes its checks and completes. -/
theorem deviceQueriesComplete : Obligations.DeviceQueriesComplete := by
  unfold Obligations.DeviceQueriesComplete
  refine ⟨fun s mb c hw hp => ?_, fun s mb c hw hp => ?_, fun s mb c hw hp => ?_, fun s mb c n es t hw hp hn hle hz hes hok ht => ?_⟩
  · exact exec_of_waiting hw rfl (judged_ok (by simp [hp.length, hp.hdrBad]))
  · exact exec_of_waiting hw rfl (judged_ok (by simp [hp.length, hp.hdrBad]))
  · exact exec_of_waiting hw rfl (judged_ok (by simp [hp.length, hp.hdrBad]))
  · subst hn hes ht
    have hbad : ∀ e ∈ (List.range (par c 0 1)).map (fun i => sliceBytes c.params (8 + 8 * i) 8), aclBad e = false :=
      fun e he => aclBad_eq_false (hok e he)
    refine exec_of_waiting hw rfl (judged_ok ?_)
    have hany : ((List.range (par c 0 1)).map (fun i => sliceBytes c.params (8 + 8 * i) 8)).any aclBad = false :=
      List.any_eq_false.mpr fun e he => by simp [hbad e he]
    simp [hp.length, hp.hdrBad, hz.parRes, hle, hany]

end Sys2Proof.Machine
end

section
/-! PROOFS. DEV.EVENTS. -/

namespace Sys2Proof.Machine

/-! ### The record of an event, and the command that waits for one -/

/-- Noting a change of the status block leaves the commands taken. -/
@[simp] theorem noteStatus_taken (s t : State) : (noteStatus s t).host.taken = t.host.taken := by
  unfold noteStatus
  split <;> rfl

@[simp] theorem noteStatus_ev (s t : State) : (noteStatus s t).ev = t.ev := by
  unfold noteStatus
  split <;> rfl

@[simp] theorem msixSend_taken (s : State) (v : Nat) : (msixSend s v).host.taken = s.host.taken := by
  unfold msixSend
  split
  · rfl
  · split <;> rfl

/-- A completion removes the mailbox's command from those taken. -/
@[simp] theorem complete_taken (c : Cmd) (status : Nat) (result : List Byte) (s : State) :
    (complete c status result s).host.taken = tabDel s.host.taken c.mb := by
  unfold complete
  dsimp only
  split
  · rw [msixSend_taken]; rfl
  · rfl

/-- A record that finds the queue empty is queued alone. -/
theorem eventInsert_of_empty {e : EvSt} (r : Event) (h : e.queue = []) : eventInsert r e = ({ e with queue := [r] }, false) := by
  unfold eventInsert
  simp [h]

/-- The command of mailbox 63 that waits for a record takes the first one and is gone (R374). -/
theorem postEvent_taken {s : State} {c : Cmd} (sev code job : Nat) (detail : List Byte) (h : Running s 63 0x0102 c) (hq : s.ev.queue = []) :
    (postEvent sev code job detail s).host.taken = tabDel s.host.taken 63 := by
  obtain ⟨htaken, hmb, hop, hrun⟩ := h
  unfold postEvent
  simp [eventInsert_of_empty _ hq, startedCmd, htaken, hop, hrun, eventsReturn, hmb]

/-- A DEV.EVENTS of mailbox 63 that waits for one record. -/
def waitingEvents : Cmd :=
  { mb := 63, opcode := 0x0102, length := 8, tag := 0, job := 0, flags := 2, hdrReserved := false, params := [1#8], handoffNs := 0, takeNs := 0,
    started := true }

/-- A state whose table of taken commands names mailbox 63 twice: the statement does not ask for an ordered table. -/
def twiceTaken : State := State.reset.onHost (fun h => { h with taken := [(63, waitingEvents), (63, waitingEvents)] })

/-- Refutes O2: where the table of taken commands names mailbox 63 twice, the completion removes the first entry alone. -/
theorem not_eventsReturned : ¬ Obligations.EventsReturned := by
  unfold Obligations.EventsReturned
  rintro ⟨-, -, hqueued, -⟩
  have hrun : Running twiceTaken 63 0x0102 waitingEvents := ⟨rfl, rfl, rfl, rfl⟩
  obtain ⟨t, rfl, -, -, hnone⟩ := hqueued twiceTaken waitingEvents 0 0 0 [] hrun rfl (by decide)
  rw [postEvent_taken 0 0 0 [] hrun rfl] at hnone
  exact absurd hnone (by simp [twiceTaken, tabDel, tabGet])

end Sys2Proof.Machine
end

section
/-! PROOFS. Completion, handoff, take and the checks of a taken command. -/

namespace Sys2Proof.Machine

theorem complete_eq_mbFinish {c : Cmd} (status : Nat) (result : List Byte) (s : State) (h : c.flags % 2 = 0) :
    complete c status result s = mbFinish s c.mb c.handoffNs status result := by
  unfold complete
  simp [bitOf, Nat.testBit_zero, h]

/-- Settles O3: the five fields lie apart, so each is read back and every other byte stays. -/
theorem completionWritesMailbox : Obligations.CompletionWritesMailbox := by
  unfold Obligations.CompletionWritesMailbox
  refine ⟨fun s t c status result hwf _ _ _ heven ht => ?_, fun s c status result hodd => ?_⟩
  · rw [complete_eq_mbFinish status result s heven] at ht
    subst ht
    have h1 := Memory.wf_memWrite s.host.mbArea (c.mb * 0x1000 + 0x40) result hwf
    have h2 := Memory.wf_memWrite _ (c.mb * 0x1000 + 0x14) (leBytes result.length 2) h1
    have h3 := Memory.wf_memWrite _ (c.mb * 0x1000 + 0x18) (leBytes (timeUs s.nowNs c.handoffNs) 4) h2
    have h4 := Memory.wf_memWrite _ (c.mb * 0x1000 + 0x0C) (leBytes status 2) h3
    refine ⟨?_, ?_, ?_, ?_, ?_, fun a ha => ?_, rfl, rfl, rfl, rfl⟩
    · simp only [mbFinish]
      rw [memRead_memWrite_ne _ _ _ _ _ h4, memRead_memWrite_ne _ _ _ _ _ h3, memRead_memWrite_ne _ _ _ _ _ h2,
        memRead_memWrite_ne _ _ _ _ _ h1, memRead_memWrite_self _ _ _ hwf]
      all_goals simp only [leBytes_length]
      all_goals omega
    · have hself := memRead_memWrite_self _ (c.mb * 0x1000 + 0x14) (leBytes result.length 2) h1
      rw [leBytes_length] at hself
      simp only [mbFinish]
      rw [memRead_memWrite_ne _ _ _ _ _ h4, memRead_memWrite_ne _ _ _ _ _ h3, memRead_memWrite_ne _ _ _ _ _ h2, hself]
      all_goals simp only [leBytes_length]
      all_goals omega
    · have hself := memRead_memWrite_self _ (c.mb * 0x1000 + 0x18) (leBytes (timeUs s.nowNs c.handoffNs) 4) h2
      rw [leBytes_length] at hself
      simp only [mbFinish]
      rw [memRead_memWrite_ne _ _ _ _ _ h4, memRead_memWrite_ne _ _ _ _ _ h3, hself]
      all_goals simp only [leBytes_length]
      all_goals omega
    · have hself := memRead_memWrite_self _ (c.mb * 0x1000 + 0x0C) (leBytes status 2) h3
      rw [leBytes_length] at hself
      simp only [mbFinish]
      rw [memRead_memWrite_ne _ _ _ _ _ h4, hself]
      simp only [leBytes_length]
      omega
    · have hself := memRead_memWrite_self _ (c.mb * 0x1000) (leBytes 0 4) h4
      rw [leBytes_length] at hself
      exact hself
    · simp only [mbFinish]
      rw [memGet_memWrite _ _ _ _ h4, memGet_memWrite _ _ _ _ h3, memGet_memWrite _ _ _ _ h2, memGet_memWrite _ _ _ _ h1,
        memGet_memWrite _ _ _ _ hwf]
      simp only [leBytes_length]
      rw [if_neg (by omega), if_neg (by omega), if_neg (by omega), if_neg (by omega), if_neg (by omega)]
  · have hbit : bitOf c.flags 0 = true := by simp [bitOf, Nat.testBit_zero, hodd]
    have hclear : complete { c with flags := 0 } status result s = mbFinish s c.mb c.handoffNs status result := complete_eq_mbFinish _ _ _ rfl
    rw [hclear]
    unfold complete
    rw [if_pos hbit]

/-- What the window lets through of a handoff (R364). -/
theorem handoff_open {s : State} {mb : Nat} (hbar : barOk s = true) (hmb : mb < 64) (hown : s.host.own.getLsbD mb = false) :
    (!barOk s || decide (64 ≤ mb) || s.host.own.getLsbD mb) = false := by
  rw [hbar, hown]
  simp [hmb]

/-- The entry a handoff appends is the one its completion under the boot ROM removes (R370). -/
theorem filter_appended (l : List Handoff) (x : Handoff) :
    (l ++ [x]).filter (fun y => decide (y.mb ≠ x.mb)) = l.filter (fun y => decide (y.mb ≠ x.mb)) := by
  simp

/-- The device takes the oldest handoff, and completes a command that fails a check (R364, R365). -/
theorem commandTake_cons {s : State} {at_ : Nat} {x : Handoff} {rest : List Handoff} (hq : s.host.handed = x :: rest)
    (hup : s.host.mcDown = false) (hruns : s.boot.recovery = true ∨ s.host.mcRuns = true) {c : Cmd} {t t1 : State}
    (ht1 : t1 = s.timeTo (min at_ (x.atNs + (if s.boot.recovery then 100000 else 10000)))) (hc : c = capture t1 x.mb x.atNs)
    (ht : t = t1.onHost (fun h => { h with
        handed := rest, mbArea := memWrite h.mbArea (x.mb * 0x1000 + 0x0C) [1#8, 0#8], taken := tabPut h.taken x.mb c })) :
    commandTake at_ s = match takeStatus t c x.acl with
      | some st => complete c st [] t
      | none => t := by
  subst ht hc ht1
  have hserved : (s.host.mcDown || !(s.boot.recovery || s.host.mcRuns)) = false := by rcases hruns with h | h <;> simp [hup, h]
  unfold commandTake
  rw [hq]
  dsimp only
  rw [hserved]
  rfl

/-- Settles O4: by the branches of the handoff and of the take. -/
theorem handoffAndTake : Obligations.HandoffAndTake := by
  unfold Obligations.HandoffAndTake
  refine ⟨fun s mb at_ hbar hmb hown hrec => congrArg Host.Outcome.next ?_, fun s mb at_ t hbar hmb hown hrec hne ht => congrArg Host.Outcome.next ?_,
    fun s mb at_ hown => congrArg Host.Outcome.next ?_, fun s at_ x rest c t t1 hq hup hruns ht1 hc ht hst => congrArg Host.Outcome.next ?_,
    fun s at_ x rest c t t1 st hq hup hruns ht1 hc ht hst => congrArg Host.Outcome.next ?_⟩
  · have hno : ¬ (s.boot.recovery = true ∧ mb ≠ 0) := by rcases hrec with h | h <;> simp [h]
    unfold handoff
    rw [handoff_open hbar hmb hown]
    exact if_neg hno
  · subst ht
    unfold handoff
    rw [handoff_open hbar hmb hown]
    exact (if_pos (And.intro hrec hne)).trans (congrArg
      (fun l => complete (capture ((s.timeTo at_).onHost fun h => { h with mbArea := memPut h.mbArea (mb * 0x1000) 1#8 }) mb (max s.nowNs at_))
        stWrongState [] ((s.timeTo at_).onHost fun h => { h with
          own := h.own ||| BitVec.ofNat 64 (2 ^ mb), mbArea := memPut h.mbArea (mb * 0x1000) 1#8, handed := l }))
      (filter_appended s.host.handed { mb := mb, atNs := max s.nowNs at_, acl := tabGetD s.host.acl mb { groups := 2, job := 0 } }))
  · unfold handoff
    rw [if_pos (by simp [hown])]
  · rw [commandTake_cons hq hup hruns ht1 hc ht, hst]
  · rw [commandTake_cons hq hup hruns ht1 hc ht, hst]
/-- A check of R365 that fails answers, those before it having passed. -/
theorem firstFail_head (bad : Bool) (st : Nat) (rest : List (Bool × Nat)) (h : bad = true) : firstFail ((bad, st) :: rest) = some st := if_pos h

theorem firstFail_skip (bad : Bool) (st : Nat) (rest : List (Bool × Nat)) (h : bad = false) : firstFail ((bad, st) :: rest) = firstFail rest :=
  if_neg (by simp [h])

/-- A command of known opcode and admissible length is refused by a mailbox that may not carry it (R365). -/
theorem takeStatus_notPrivileged {s : State} {c : Cmd} {a : Acl} (hlen : c.length ≤ 4032)
    (hop : (onlyZero ++ byAcl ++ [0x0102]).contains c.opcode = true) (hpriv : notPrivileged c a = true) : takeStatus s c a = some 0x0403 := by
  unfold takeStatus
  rw [firstFail_skip _ _ _ (by simp [hlen]), firstFail_skip _ _ _ (by rw [hop]; rfl), firstFail_head _ _ _ hpriv]

theorem contains_append_of_left {l m : List Nat} {x : Nat} (h : l.contains x = true) : (l ++ m).contains x = true := by
  simp [List.contains_iff_mem.mp h]

/-- No command of mailbox 0's own is one of Table 12.20, and neither table lists DEV.EVENTS. -/
theorem onlyZero_not_byAcl : ∀ op ∈ onlyZero, byAcl.contains op = false := by decide

theorem listed_ne_events : ∀ op ∈ onlyZero ++ byAcl, op ≠ 0x0102 := by decide

/-- Settles O5: each check answers where those before it pass. -/
theorem takeChecksInOrder : Obligations.TakeChecksInOrder := by
  unfold Obligations.TakeChecksInOrder
  refine ⟨fun s c a hlen => ?_, fun s c a hlen hop => ?_, fun s c a hlen hop hmb => ?_, fun s c a hlen hop h0 h63 hdenied => ?_,
    fun s c a hlen hmb hop => ?_, fun s c a hlen hmb hop hpart hrec hstage hdark => ?_⟩
  · exact firstFail_head _ _ _ (by simp [hlen])
  · unfold takeStatus
    rw [firstFail_skip _ _ _ (by simp [hlen]), firstFail_head _ _ _ (by rw [hop]; rfl)]
  · refine takeStatus_notPrivileged hlen (contains_append_of_left (contains_append_of_left hop)) ?_
    have hmem := List.contains_iff_mem.mp hop
    unfold notPrivileged
    rw [if_neg hmb, onlyZero_not_byAcl _ hmem]
    have hne := listed_ne_events _ (List.mem_append_left _ hmem)
    split <;> simp [hne]
  · refine takeStatus_notPrivileged hlen ?_ ?_
    · simp [List.contains_iff_mem.mp hop]
    · unfold notPrivileged
      rw [if_neg h0, if_neg h63]
      rcases hdenied with hgroup | hjob
      · simp [bitOf, hgroup]
      · simp [hjob]
  · refine takeStatus_notPrivileged hlen (contains_append_of_left hop) ?_
    have hne := listed_ne_events _ (List.contains_iff_mem.mp hop)
    unfold notPrivileged
    rw [if_neg (by omega), if_pos hmb]
    simp [hne]
  · unfold takeStatus
    have hpriv : notPrivileged c a = false := if_pos hmb
    have hreset : namesResetting s c = false := by unfold namesResetting; rw [hpart]
    have hserved : notServed s c = false := by simp [notServed, hrec, hstage, hdark]
    rw [firstFail_skip _ _ _ (by simp [hlen]), firstFail_skip _ _ _ (by rw [hop]; rfl), firstFail_skip _ _ _ hpriv,
      firstFail_skip _ _ _ hreset, firstFail_skip _ _ _ hserved]
    rfl

end Sys2Proof.Machine
end

section
/-! PROOFS. Registers and BAR2. -/

namespace Sys2Proof.Machine

/-! ### Registers and BAR2 -/

/-- An access that stays within one block of `k` bytes is one piece. -/
theorem cutAt_eq_singleton {k a : Nat} {bs : List Byte} (hbs : bs ≠ []) (hfit : a % k + bs.length ≤ k) : cutAt k a bs = [(a, bs)] := by
  have hlen : 0 < bs.length := List.length_pos_iff.mpr hbs
  have hsplit := Nat.div_add_mod a k
  have hlast : (a + bs.length - 1) / k = a / k := by
    refine Nat.div_eq_of_lt_le ?_ ?_
    · rw [Nat.mul_comm]; omega
    · rw [Nat.add_mul, Nat.mul_comm]; omega
  have hlo : a / k * k ≤ a := by rw [Nat.mul_comm]; omega
  have hhi : a + bs.length ≤ (a / k + 1) * k := by rw [Nat.add_mul, Nat.mul_comm]; omega
  unfold cutAt
  rw [if_neg hbs, hlast]
  simp [hlo, hhi]

theorem overlay_full {base bs : List Byte} (h : base.length = bs.length) : overlay base 0 bs = bs := by
  unfold overlay
  simp [← h]

/-- A register write inside a mailbox reaches that mailbox alone. -/
theorem mbWrite_one {s : State} {mb off : Nat} {data : List Byte} (hfit : off + data.length ≤ 0x1000) (hne : data ≠ []) :
    mbWrite (mb * 0x1000 + off) data s = if s.host.own.getLsbD mb then s else mbStore s mb (max off 4) (data.drop (4 - off)) := by
  have hlen : 0 < data.length := List.length_pos_iff.mpr hne
  have hmod : (mb * 0x1000 + off) % 0x1000 = off := by omega
  have hdiv : (mb * 0x1000 + off) / 0x1000 = mb := by omega
  unfold mbWrite
  rw [cutAt_eq_singleton hne (by omega)]
  simp only [List.foldl_cons, List.foldl_nil, hmod, hdiv]

theorem registerWrite_mailbox {s : State} {mb off : Nat} {data : List Byte} (hbar : barOk s = true) (hmb : mb < 64)
    (hfit : off + data.length ≤ 0x1000) (hne : data ≠ []) : registerWrite (mb * 0x1000 + off) data s =
      if s.host.own.getLsbD mb then s else mbStore s mb (max off 4) (data.drop (4 - off)) := by
  unfold registerWrite
  rw [if_neg (by simp [hbar]), if_pos (by omega)]
  exact mbWrite_one hfit hne

/-- A counted access changes no target of Table 12.11. -/
theorem bar2Target_countUnbacked (s : State) (a b : Nat) : bar2Target (countUnbacked a s) b = bar2Target s b := by
  unfold countUnbacked ctrHbm ctrAdd
  split <;> rfl

theorem bar2Target_logged (s : State) (p : Bool) (a : Nat) : bar2Target (if p then logPoisoned s else s) a = bar2Target s a := by
  split <;> rfl

/-- A BAR2 access of one block, from its first byte. -/
structure BlockAccess (s : State) (off n : Nat) : Prop where
  reaches : barOk s = true
  pos : 0 < n
  len : n ≤ 64
  aligned : off % 64 = 0
  fits : off + n ≤ s.host.pcie.bar2Gib * 2 ^ 30
  base : bar2Base s % 64 = 0

theorem BlockAccess.pieces {s : State} {off : Nat} {data : List Byte} (h : BlockAccess s off data.length) :
    bar2Pieces s off data = [(bar2Base s + off, data)] := by
  obtain ⟨-, hpos, hlen, haligned, hfits, hbase⟩ := h
  have hwhole : data.take (s.host.pcie.bar2Gib * 2 ^ 30 - off) = data := List.take_of_length_le (by omega)
  unfold bar2Pieces
  rw [hwhole]
  exact cutAt_eq_singleton (List.length_pos_iff.mp hpos) (by omega)

theorem bar2Count_one (s : State) (a : Nat) (d : List Byte) :
    bar2Count [(a, d)] s = if bar2Target s a = .nothing then countUnbacked a s else s := by
  unfold bar2Count
  by_cases h : bar2Target s a = .nothing <;> simp [h]

/-- A piece that the loft backs is read as an engine reads. -/
theorem bar2Piece_engine {s t : State} {a n : Nat} {d : List Byte} {z : List Nat} (ht : bar2Target s a = .bulk ∨ bar2Target s a = .bay)
    (hdata : engineRead (Agent.rxOf 7) 0 a n s = (t, d, z)) :
    bar2Piece (a, List.replicate n 0#8) (if bar2Target s a = .nothing then countUnbacked a s else s) = (t, d, decide (z ≠ [])) := by
  unfold bar2Piece
  rcases ht with h | h
  · simp only [h, reduceCtorEq, if_false, List.length_replicate, hdata]
  · simp only [h, reduceCtorEq, if_false, List.length_replicate, hdata]

theorem bar2Piece_direct {s t : State} {a n : Nat} {d : List Byte} {z : List Nat} (ht : bar2Target s a = .direct)
    (hdata : hbmReadNow (Agent.rxOf 7) 0 (blockOf a) s = (t, d, z)) :
    bar2Piece (a, List.replicate n 0#8) (if bar2Target s a = .nothing then countUnbacked a s else s)
      = (t, sliceBytes d (a % 64) n, decide (z ≠ [])) := by
  unfold bar2Piece
  simp only [ht, reduceCtorEq, if_false, List.length_replicate, hdata]

/-- A read of one block gives what its piece gives. -/
theorem BlockAccess.bar2Read {s : State} {off n : Nat} (h : BlockAccess s off n) {t : State} {d : List Byte} {z : Bool}
    (hpiece : bar2Piece (bar2Base s + off, List.replicate n 0#8)
      (if bar2Target s (bar2Base s + off) = .nothing then countUnbacked (bar2Base s + off) s else s) = (t, d, z)) :
    Machine.bar2Read off n s = if z then (t.emit (.bar2Data off ((List.range d.length).map (fun i => Config.leftByte t.freeCtr i)) true)).draw
      else t.emit (.bar2Data off d false) := by
  have hps : bar2Pieces s off (List.replicate n 0#8) = [(bar2Base s + off, List.replicate n 0#8)] :=
    BlockAccess.pieces (by simpa using h)
  unfold Machine.bar2Read
  rw [if_neg (by simp [h.reaches]), hps]
  simp only [List.foldl_cons, List.foldl_nil, bar2Count_one, hpiece, List.nil_append, Bool.false_or]

/-- A write of one block goes where its target says. -/
theorem BlockAccess.bar2Write {s : State} {off : Nat} {data : List Byte} (h : BlockAccess s off data.length) (p : Bool) {s0 : State} {zs : List Nat}
    (hs0 : s0 = if p then logPoisoned s else s) (hzs : zs = if p then sectorsOf (bar2Base s + off) data.length else []) :
    Machine.bar2Write off data p s = match bar2Target s (bar2Base s + off) with
      | .nothing => countUnbacked (bar2Base s + off) s0
      | .direct => hbmDirect (Agent.rxOf 7) (bar2Base s + off) data zs s0
      | .bulk => engineWrite (Agent.rxOf 7) 0 false (bar2Base s + off) data zs (fineInvalidate (bar2Base s + off) data.length s0)
      | .bay => engineWrite (Agent.rxOf 7) 0 false (bar2Base s + off) data zs s0 := by
  subst hs0 hzs
  have htarget : bar2Target (if p then logPoisoned s else s) (bar2Base s + off) = bar2Target s (bar2Base s + off) := bar2Target_logged s p _
  unfold Machine.bar2Write
  rw [if_neg (by simp [h.reaches]), h.pieces]
  simp only [List.foldl_cons, List.foldl_nil, bar2Count_one, htarget]
  cases ht : bar2Target s (bar2Base s + off) with
  | nothing => simp [bar2Target_countUnbacked, htarget, ht]
  | direct => simp [htarget, ht]
  | bulk => simp [htarget, ht]
  | bay => simp [htarget, ht]

/-- Settles O6: register by register; a BAR2 access by what backs its block. -/
theorem registerWritesComplete : Obligations.RegisterWritesComplete := by
  unfold Obligations.RegisterWritesComplete
  refine ⟨fun s v hbar => congrArg Host.Outcome.next ?_, fun s v hbar => congrArg Host.Outcome.next ?_,
    fun s mb off data hbar hmb hfit hne hown => congrArg Host.Outcome.next ?_,
    fun s mb off data hbar hmb hoff hfit hne hown => congrArg Host.Outcome.next ?_,
    fun s data hbar hlen => congrArg Host.Outcome.next ?_, fun s on hup => congrArg Host.Outcome.next ?_,
    fun s g hup hg => congrArg Host.Outcome.next ?_, fun s g hup hg => congrArg Host.Outcome.next ?_,
    fun s on hup => congrArg Host.Outcome.next ?_, fun s e m hup => congrArg Host.Outcome.next ?_,
    fun s d hup => congrArg Host.Outcome.next ?_, fun s off n hbar hup => congrArg Host.Outcome.next ?_,
    fun s off data p hbar hup => congrArg Host.Outcome.next ?_, ?_, ?_, ?_, ?_, ?_, fun s => rfl, fun s v hup => congrArg Host.Outcome.next ?_⟩
  · exact if_pos hbar
  · exact if_pos hbar
  · rw [registerWrite_mailbox hbar hmb hfit hne, if_pos hown]
  · rw [registerWrite_mailbox hbar hmb hfit hne, if_neg (by simpa using hown), Nat.max_eq_left hoff, Nat.sub_eq_zero_of_le hoff]
    rfl
  · unfold registerWrite
    have haligned : regAligned 0x50020 data = true := by simp [regAligned, hlen]
    rw [if_neg (by simp [hbar]), if_neg (by omega), if_neg (by simp [haligned]), if_neg (by omega), if_pos (by omega)]
    unfold apertureWrite
    have hfull : ∀ h : HostSt, overlay (leBytes h.aperture.toNat 8) 0 data = data := fun h => overlay_full (by simp [leBytes_length, hlen])
    simp [hfull]
  all_goals try (unfold configWrite; rw [if_neg (by simp [hup])])
  · simp only [if_pos (List.contains_iff_mem.mpr hg)]
  · have hno : [64, 128, 256, 512, 1024, 2048].contains g = false := by simpa using hg
    simp only [hno, Bool.false_eq_true, if_false]
  · cases on <;> rfl
  · unfold bar2Read refuseAccess
    rw [if_pos (by simp [hbar]), if_pos hup]
  · unfold bar2Write refuseAccess
    rw [if_pos (by simp [hbar]), if_pos hup]
  · intro s off n hbar hpos hlen hoff hfit hbase htarget
    have hread := BlockAccess.bar2Read ⟨hbar, hpos, hlen, hoff, hfit, hbase⟩ (t := countUnbacked (bar2Base s + off) s)
      (d := List.replicate n 0xFF#8) (z := false)
      (by rw [if_pos htarget]; unfold bar2Piece; simp [bar2Target_countUnbacked, htarget])
    exact congrArg Host.Outcome.next hread
  · intro s off data hbar hpos hlen hoff hfit hbase htarget
    have hwrite := BlockAccess.bar2Write ⟨hbar, hpos, hlen, hoff, hfit, hbase⟩ false rfl rfl
    rw [htarget] at hwrite
    exact congrArg Host.Outcome.next hwrite
  · intro s off n t d z hbar hpos hlen hoff hfit hbase htarget hdata
    have hread := BlockAccess.bar2Read ⟨hbar, hpos, hlen, hoff, hfit, hbase⟩ (t := t) (d := d) (z := decide (z ≠ []))
      (by rw [bar2Piece_engine htarget hdata])
    refine congrArg Host.Outcome.next (hread.trans ?_)
    by_cases hz : z = [] <;> simp [hz]
  · intro s off n t d z hbar hpos hlen hoff hfit hbase htarget hdata
    have hstart : (bar2Base s + off) % 64 = 0 := by omega
    have hread := BlockAccess.bar2Read ⟨hbar, hpos, hlen, hoff, hfit, hbase⟩ (t := t) (d := sliceBytes d 0 n) (z := decide (z ≠ []))
      (by rw [bar2Piece_direct htarget hdata, hstart])
    refine congrArg Host.Outcome.next (hread.trans ?_)
    by_cases hz : z = [] <;> simp [hz, sliceBytes_length]
  · intro s off data p zs s0 hbar hs0 hpos hlen hoff hfit hbase hzs
    have hwrite := BlockAccess.bar2Write ⟨hbar, hpos, hlen, hoff, hfit, hbase⟩ p hs0 hzs
    exact ⟨fun ht => congrArg Host.Outcome.next (by rw [hwrite, ht]), fun ht => congrArg Host.Outcome.next (by rw [hwrite, ht]),
      fun ht => congrArg Host.Outcome.next (by rw [hwrite, ht])⟩

end Sys2Proof.Machine
end

section
/-! PROOFS. Hot reset, heartbeat and the status vector. -/

namespace Sys2Proof.Machine

/-- A table in order gives what it holds. -/
theorem tabGet_of_mem {α : Type} {m : Tab α} {k : Nat} {v : α} (h : tabWf m = true) (hmem : (k, v) ∈ m) : tabGet m k = some v := by
  induction m with
  | nil => exact absurd hmem List.not_mem_nil
  | cons x m ih =>
    obtain ⟨hlt, hm⟩ := (tabWf_cons x m).mp h
    rcases List.mem_cons.mp hmem with rfl | hin
    · simp [tabGet]
    · have hk : x.1 < k := hlt (k, v) hin
      unfold tabGet
      rw [if_neg (by omega), if_neg (by omega)]
      exact ih hm hin

/-- After reset every MSI-X entry is masked. -/
theorem msixMasked_reset (t : State) (h : t.host.msixTable = HostSt.reset.msixTable) (v : Nat) (hv : v < 128) : msixMasked t v = true := by
  have hmem : (16 * v + 12, 1#8) ∈ HostSt.reset.msixTable := List.mem_map.mpr ⟨v, List.mem_range.mpr hv, rfl⟩
  unfold msixMasked memGet tabGetD
  rw [h, tabGet_of_mem ((Memory.wf_iff _).mp wf_msixTable_reset).1 hmem]
  rfl

/-- Settles O7: the transfers cut off are the dumps on their way into host memory. -/
theorem hotResetScope : Obligations.HotResetScope := by
  unfold Obligations.HotResetScope
  intro s t hup ht
  subst ht
  refine ⟨congrArg Host.Outcome.next (if_pos hup), msixMasked_reset _ rfl, ?_, fun d hd hhost hstarted => ?_⟩
  · show ((s.obs.dumps.map _).map _ : List _) = _
    rw [List.map_map]
    refine List.map_congr_left fun d _ => ?_
    simp only [Function.comp]
    split <;> rfl
  · obtain ⟨e, -, rfl⟩ := List.mem_map.mp hd
    split at hhost
    · next h => rw [if_pos h]
    · next h =>
      rw [if_neg h] at hstarted
      exact absurd ⟨hhost, hstarted⟩ h

/-- A vector that nothing masks is sent at once (R368). -/
theorem msixSend_open {s : State} {v : Nat} (hmaster : s.host.pcie.busMaster = true) (hen : s.host.pcie.msixEnable = true)
    (hmask : s.host.pcie.msixMask = false) (hopen : msixMasked s v = false) : msixSend s v = s.emit (.msix v) := by
  unfold msixSend
  rw [if_neg (by simp [hmaster, hen]), if_neg (by simp [hmask, hopen])]

/-- Settles O8: by the guards of the heartbeat, the watchdog and the status vector. -/
theorem heartbeatAndWatchdog : Obligations.HeartbeatAndWatchdog := by
  unfold Obligations.HeartbeatAndWatchdog
  refine ⟨fun s hruns => congrArg Host.Outcome.next (if_pos hruns), fun s hruns => congrArg Host.Outcome.next (if_pos hruns),
    fun s t => ⟨fun h => if_pos h, fun h => if_neg h⟩, fun s at_ last hchange hlast hmaster hen hmask hunmasked => congrArg Host.Outcome.next ?_⟩
  unfold msixStatus
  rw [if_pos hchange, hlast]
  exact msixSend_open hmaster hen hmask hunmasked

end Sys2Proof.Machine
end

section
/-! PROOFS. JOB commands. -/

namespace Sys2Proof.Machine

/-! ### Jobs -/
/-- A command waiting in a mailbox with nothing in its header or parameters. -/
def bareCmd (mb opcode job : Nat) : Cmd :=
  { mb := mb, opcode := opcode, length := 0, tag := 0, job := job, flags := 0, hdrReserved := false, params := [], handoffNs := 0, takeNs := 0,
    started := false }

/-- A state whose table of jobs names job 5 twice, and which is told to destroy it: the statement does not ask for an ordered table. -/
def twiceJob : State :=
  (State.reset.onHost (fun h => { h with taken := [(0, bareCmd 0 0x0207 5)] })).onJobs (fun x => { x with
    jobs := [(5, Job.fresh 5 0 0 1 []), (5, Job.fresh 5 0 0 1 [])] })

/-- Refutes O9: where the table of jobs names a job twice, JOB.DESTROY removes its first entry alone. -/
theorem not_jobCommandsComplete : ¬ Obligations.JobCommandsComplete := by
  unfold Obligations.JobCommandsComplete
  rintro ⟨-, -, hnext, hgone⟩
  have hw : Waiting twiceJob 0 0x0207 (bareCmd 0 0x0207 5) := ⟨rfl, rfl, rfl, rfl⟩
  have hp : Plain (bareCmd 0 0x0207 5) 0 := ⟨rfl, rfl, by decide⟩
  have hoff : ∀ t ∈ towersOfPartition 0, (twiceJob.twin.get t).state = .off := by decide
  have hs := hnext twiceJob 0 (bareCmd 0 0x0207 5) (Job.fresh 5 0 0 1 []) twiceJob hw hp rfl (by decide) hoff rfl
  obtain ⟨t, ht, hnone, -, -⟩ := hgone twiceJob 0 (bareCmd 0 0x0207 5) (Job.fresh 5 0 0 1 []) hw hp rfl (by decide) hoff
  obtain rfl := Host.Outcome.next.inj (hs.symm.trans ht)
  unfold jobAt at hnone
  rw [complete_jobs] at hnone
  exact Option.some_ne_none (Job.fresh 5 0 0 1 []) hnone

end Sys2Proof.Machine
end

section
/-! PROOFS. TICK commands. -/

namespace Sys2Proof.Machine

/-- A job in one of the states a command is admissible in. -/
theorem notIn_eq_false {j : Job} {ok : List JobState} (h : j.state ∈ ok) : notIn (some j) ok = false := by
  simp [notIn, h]

/-- The role a job is started in (R66). -/
theorem startRole_eq {s : State} {job : Nat} {r : RoleRec} (hr : roleOf s job = some r) (hrole : r.role ≠ .relay) :
    startRole s job = some r := by
  simp [startRole, hr, hrole]

theorem isMaster_eq {s : State} {job : Nat} {r : RoleRec} (hr : roleOf s job = some r) : isMaster s job = decide (r.role = .master) := by
  simp [isMaster, hr]

/-- FLAGS of TICK.START: RESUME alone. -/
theorem bitOf_resume {n : Nat} (h : n ≤ 1) : bitOf n 0 = decide (n = 1) := by
  have hn : n = 0 ∨ n = 1 := by omega
  rcases hn with rfl | rfl <;> rfl

/-- Dropping the sheaf of the tick to come keeps the configuration and the map. -/
theorem discardNext_keeps (j : Job) : (discardNext j).next = none ∧ (discardNext j).cfg = j.cfg ∧ (discardNext j).map = j.map := by
  unfold discardNext
  cases h : j.next with
  | none => exact ⟨h, rfl, rfl⟩
  | some sh => exact ⟨rfl, rfl, rfl⟩

/-- Settles O10: each command passes its checks; the first boundary by what START's lead allows. -/
theorem tickCommandsComplete : Obligations.TickCommandsComplete := by
  unfold Obligations.TickCommandsComplete
  refine ⟨?config, ?master, ?follower, fun start first settle j => ?_, ?stop, ?disarm, ?status⟩
  case config =>
    intro s mb c j k hw hp hj hst hk hp1 hp2 hc1 hc2 hg1 hg2 hs hcg hz1 hz2
    subst hk
    refine exec_of_waiting hw rfl (judged_ok ?_)
    dsimp only at hp1 hp2 hc1 hc2 hg1 hg2 hs hcg
    simp [hp.length, hp.hdrBad, hj, notIn_eq_false hst, hz1.parRes, hz2.parRes]
    omega
  case master =>
    intro s mb c j r k first hw hp hj hst hk hr hrole hdev hpwr hfl href hres hsd h48 hat hz hset hfirst
    have hmaster : isMaster s c.job = true := by rw [isMaster_eq hr, hrole]; rfl
    have hstart := startRole_eq hr (by rw [hrole]; decide)
    refine exec_of_waiting hw rfl ((judged_ok ?_).trans ?_)
    · have hpower : ¬ (s.gate.pwr ≠ .active ∧ s.gate.pwr ≠ .trim) := by tauto
      simp [hp.length, hp.hdrBad, hj, notIn_eq_false hst, hstart, hdev, hpower, bitOf_resume hfl, href, hsd, hz.parRes, hmaster, hk]
      refine ⟨?_, hres⟩
      omega
    · simp only [hmaster, hstart, if_true, Option.map_some, Option.getD_some, hj, bitOf_resume hfl, decide_eq_true_eq, ← hfirst]
      split <;> rfl
  case follower =>
    intro s mb c j r hw hp hj hst hr hrole hdev hpwr hfl href hres hsd h48 hat hz
    have hmaster : isMaster s c.job = false := by rw [isMaster_eq hr, hrole]; rfl
    have hstart := startRole_eq hr (by rw [hrole]; decide)
    refine exec_of_waiting hw rfl ((judged_ok ?_).trans ?_)
    · have hpower : ¬ (s.gate.pwr ≠ .active ∧ s.gate.pwr ≠ .trim) := by tauto
      simp [hp.length, hp.hdrBad, hj, notIn_eq_false hst, hstart, hdev, hpower, bitOf_resume hfl, href, hsd, hz.parRes, hmaster, hat]
      refine ⟨?_, hres⟩
      omega
    · simp only [hmaster, Bool.false_eq_true, if_false, hj, bitOf_resume hfl, decide_eq_true_eq]
      split <;> rfl
  · obtain ⟨hnext, hcfg, hmap⟩ := discardNext_keeps j
    exact ⟨rfl, rfl, rfl, rfl, hnext, hcfg, hmap⟩
  case stop =>
    intro s mb c j hw hp hj hst hmaster h48 hlast
    refine exec_of_waiting hw rfl ((judged_ok ?_).trans ?_)
    · have hin : notIn (some j) [.armed, .running] = false := notIn_eq_false (by simp [hst])
      simp [hp.length, hp.hdrBad, hj, hst, hin, hmaster]
      omega
    · simp [hj, hst]
  case disarm =>
    intro s mb c j hw hp hj hst hlast
    refine exec_of_waiting hw rfl ((judged_ok ?_).trans ?_)
    · have hin : notIn (some j) [.armed, .running] = false := notIn_eq_false (by simp [hst])
      simp [hp.length, hp.hdrBad, hj, hst, hin, hlast]
    · simp [hj, hst]
  case status =>
    intro s mb c j hw hp hj hst h48
    have hbody : sheafStatus c s = complete c stDone (recordResult (((j.records.find? (fun r => decide (r.tick = par c 0 8))).map (recNow s j)).getD
        { TickRec.fresh 0 with faultItem := noIndex })) s := by
      refine (judged_ok ?_).trans ?_
      · simp [hp.length, hp.hdrBad, hj, notIn_eq_false hst]
        exact h48
      · simp [hj]
    refine ⟨fun hnone => exec_of_waiting hw rfl ?_, fun r hr => exec_of_waiting hw rfl ?_⟩
    · have hfind : j.records.find? (fun r => decide (r.tick = par c 0 8)) = none := List.find?_eq_none.mpr fun r hr => by simp [hnone r hr]
      rw [hbody, hfind]
      rfl
    · rw [hbody, hr]
      rfl

end Sys2Proof.Machine
end

section
/-! PROOFS. The windows of a tick. -/

namespace Sys2Proof.Machine

/-! ### The windows of a tick -/

/-- COMMIT holds its shortest length and GLEAN leaves it room in the period (R31, R51). -/
theorem windows_bounds {k : TickCfg} (hp : 2000 ≤ k.periodUs) (hc : 20 ≤ k.commitPm) (hg : 10 ≤ k.gleanPm) (hsum : k.commitPm + k.gleanPm ≤ 200) :
    cminUs k ≤ commitUs k ∧ commitUs k + gleanUs k ≤ k.periodUs ∧ k.gleanPm * k.periodUs ≤ 1000 * gleanUs k := by
  have ha : 20 * k.periodUs ≤ k.commitPm * k.periodUs := Nat.mul_le_mul_right _ hc
  have hb : 10 * k.periodUs ≤ k.gleanPm * k.periodUs := Nat.mul_le_mul_right _ hg
  have hab : k.commitPm * k.periodUs + k.gleanPm * k.periodUs ≤ 200 * k.periodUs := by
    rw [← Nat.add_mul]
    exact Nat.mul_le_mul_right _ hsum
  simp only [cminUs, commitUs, gleanUs, ceilDiv, OfNat.ofNat_ne_zero, if_false]
  omega

/-- What a STRETCH collected moves the end of RUN by (R50). -/
theorem stretchMove_bounds (left rem : Nat) : stretchMove left rem ≤ left ∧ (left < 100 → stretchMove left rem = left)
    ∧ (100 ≤ left → 100 ≤ stretchMove left rem)
    ∧ (stretchMove left rem < left → rem ≤ stretchMove left rem * 1000 ∧ stretchMove left rem % 10 = 0
        ∧ (100 < stretchMove left rem → stretchMove left rem * 1000 < rem + 10000)) := by
  simp only [stretchMove, roundUp, ceilDiv, OfNat.ofNat_ne_zero, if_false]
  omega

/-- Settles O11: the windows sum to the period, and the move of RUN's end stays within what is left of the allowance. -/
theorem stretchAbsorbed : Obligations.StretchAbsorbed := by
  unfold Obligations.StretchAbsorbed
  refine ⟨fun k su hp _ hc hg hsum hsu => ?_, fun s job j k s2 q hj hk hrun hphase hmaster hholds hleft hq => congrArg Host.Outcome.next ?_,
    stretchMove_bounds⟩
  · obtain ⟨hmin, hfit, hglean⟩ := windows_bounds hp hc hg hsum
    have h100 : 100 ≤ gleanUs k := Nat.le_max_right _ _
    unfold allowance at hsu
    unfold runUs gleanLeft commitLeft delayOf
    omega
  · unfold stretchDecision
    have hroom : ¬ (j.holds = [] ∨ allowance k - j.sUs = 0) := by simp [hholds]; omega
    rw [hj]
    dsimp only
    rw [hk]
    dsimp only
    rw [if_neg (by simp [hrun, hphase, hmaster]), if_neg hroom, hq]

end Sys2Proof.Machine
end

section
/-! PROOFS. Admissions and kernels. -/

namespace Sys2Proof.Machine

/-! ### Admissions and kernels -/

/-- The end of an admission whose sheaf was fetched without poison is judged by the sheaf's format (R41). -/
theorem admissionEnd_fetched {s : State} {job at_ : Nat} {j : Job} {a : Admission} {c : Cmd} {s0 t : State} {b : List Byte}
    (hj : jobAt s job = some j) (ha : j.admission = some a) (hrun : Running s a.mb 0x0203 c)
    (hfetch : sheafFetch job a.addr (if a.bytes ≤ 2 ^ 26 then a.bytes else 64) s = (s0, b, []))
    (ht : t = (s0.timeTo (min at_ (a.takeNs + 200000 + 40 * (fieldAt b 0x14 4 + fieldAt b 0x1C 4)))).onJob job
      (fun x => { x with admission := none })) :
    admissionEnd job at_ s = match sheafFormat (abi s) job (hdrBad c || parRes c 0xC 4) a b with
      | .inr (item, entry) => admComplete c (if admissionLate j a then stWrongState else stBadField) (AdmRes.early 0 stBadField item entry) t
      | .inl sh => admitChecked c j sh (admissionLate j a) t := by
  subst ht
  unfold admissionEnd
  rw [hj, Option.bind_some, ha, Option.map_some]
  dsimp only
  rw [startedCmd_running hrun]
  dsimp only
  rw [hfetch]
  rfl

/-- Settles O12: an admission's end by whether the checks of its entries all pass. -/
theorem admissionCompletes : Obligations.AdmissionCompletes := by
  unfold Obligations.AdmissionCompletes
  refine ⟨fun s mb c j hw hlen hj hopen hno => exec_of_waiting hw rfl ?_, fun s mb c j hw hlen hj hopen => exec_of_waiting hw rfl ?_,
    fun s at_ job j a c k s0 b t hj ha hrun hk hfetch ht => ⟨fun item entry hbad => ?_, fun sh r ok s1 hgood hs1 hchecks hreason => ?_⟩⟩
  · unfold sheafSubmit
    simp [hlen, hj, hopen, hno]
  · unfold sheafSubmit
    simp [hlen, hj, hopen]
  · refine congrArg Host.Outcome.next ((admissionEnd_fetched hj ha hrun hfetch ht).trans ?_)
    rw [hbad]
  · refine congrArg Host.Outcome.next ((admissionEnd_fetched hj ha hrun hfetch ht).trans ?_)
    rw [hgood]
    subst hs1
    dsimp only
    unfold admitChecked
    dsimp only
    rw [hk, Option.getD_some, hchecks]
    exact if_neg hreason

/-- Settles O13: a valid image passes every check, and an unload finds its handle. -/
theorem kernelLoadCompletes : Obligations.KernelLoadCompletes := by
  unfold Obligations.KernelLoadCompletes
  refine ⟨fun s mb c j img k hw hp hj hsd hfree hh hfl haddr hmin hmax hallowed himg hvalid hk => ?_,
    fun s mb c j k hw hp hj hsd hheld hfree hh hfl haddr hbytes => exec_of_waiting hw rfl ?_⟩
  · have hbusy : (((some j).bind (fun x => tabGet x.kernels (par c 0 2))).isSome && ((some j).map (fun x => handleNamed x (par c 0 2))).getD false)
        = false := by
      rcases hfree with h | h <;> simp [h]
    have hmax' : ¬ 2 ^ 24 < par c 4 4 := by omega
    have himage : (if bitOf 0 0 = true ∨ 2 ^ 24 < par c 4 4 then [] else viewBytes s (par c 8 8) (par c 4 4)) = img := by
      rw [if_neg (by simp [bitOf]; omega), himg]
    refine ⟨fun hsigned => exec_of_waiting hw rfl ?_, fun hunsigned => exec_of_waiting hw rfl ?_⟩
    · unfold kernelLoad
      simp only [hj, hfl, himage, hbusy]
      refine (judged_ok ?_).trans ?_
      · simp [hp.length, hp.hdrBad, hsd, hallowed, hvalid, hsigned, bitOf]
        omega
      · subst hk
        rfl
    · unfold kernelLoad
      have hlast : (!bitOf 0 0 && kernelUnsigned s img) = true := by simp [hunsigned, bitOf]
      simp only [hj, hfl, himage, hbusy, hlast]
      refine judged_fail c [_, _, _, _, _] [] stSigInvalid s _ ?_
      simp [hp.length, hp.hdrBad, hsd, hallowed, hvalid, bitOf]
      omega
  · refine (judged_ok ?_).trans ?_
    · simp [hp.length, hp.hdrBad, hj, hsd, hheld, hfree, hfl, haddr, hbytes, bitOf]
      omega
    · simp [hfl, bitOf]

end Sys2Proof.Machine
end

section
/-! PROOFS. The phases of a tick. -/

namespace Sys2Proof.Machine

/-! ### The phases of a tick -/

/-- COMMIT ends only where it runs (R31). -/
theorem commitEnd_idle {s : State} {job : Nat} {j : Job} (hj : jobAt s job = some j) (h : j.state ≠ .running) : commitEnd job s = s := by
  unfold commitEnd
  rw [hj]
  dsimp only
  split
  · rfl
  · rw [if_pos (.inl h)]

theorem beginTick_keeps (n at_ : Nat) (j : Job) (k : TickCfg) (sh : Sheaf) (hk : j.cfg = some k) (hn : j.next = some sh) (ht : sh.tick = n) :
    (beginTick n at_ j).state = .running ∧ (beginTick n at_ j).tick = n ∧ (beginTick n at_ j).phase = .run ∧ (beginTick n at_ j).boundaryNs = at_
      ∧ (beginTick n at_ j).runEndNs = at_ + runUs k * 1000 ∧ (beginTick n at_ j).sheaf = some sh ∧ (beginTick n at_ j).next = none
      ∧ (beginTick n at_ j).sUs = 0 ∧ (beginTick n at_ j).holds = [] := by
  have hsheaf : (beginTick n at_ j).sheaf = j.next.bind (fun x => if x.tick = n then some x else none) := rfl
  have hend : (beginTick n at_ j).runEndNs = at_ + ((j.cfg.map runUs).getD 0) * 1000 := rfl
  rw [hk] at hend
  rw [hn] at hsheaf
  exact ⟨rfl, rfl, rfl, rfl, hend, hsheaf.trans (if_pos ht), rfl, rfl, rfl⟩

/-- A boundary that no stop comes before begins its tick, but for the number past 48 bits (R53, R59). -/
theorem tickBoundary_goes {s s1 : State} {job t : Nat} {j : Job} (hs1 : commitEnd job s = s1) (hj : jobAt s1 job = some j)
    (ht : nextBoundaryNs j = some t)
    (hgo : ∀ l, j.stopAt = some l → l < nextTick j → isMaster s1 job = true → j.state ≠ .running) :
    tickBoundary job s = if nextTick j = 2 ^ 48 then advanceItems (tickFault job evTickFault 5 (s1.timeTo t))
      else startTick job (nextTick j) t (s1.timeTo t) := by
  unfold tickBoundary
  dsimp only
  rw [hs1, hj]
  dsimp only
  rw [ht]
  dsimp only
  refine if_neg ?_
  cases hl : j.stopAt with
  | none => simp
  | some l => simpa using hgo l hl

/-- A master that stops before the boundary sends the last TICK and stops (R67). -/
theorem tickBoundary_stops {s s1 : State} {job t l : Nat} {j : Job} (hs1 : commitEnd job s = s1) (hj : jobAt s1 job = some j)
    (ht : nextBoundaryNs j = some t) (hl : j.stopAt = some l) (hlt : l < nextTick j) (hm : isMaster s1 job = true) (hst : j.state = .running) :
    tickBoundary job s = advanceItems (stopAfter job (sendTick job (nextTick j) t j.lastDUs true (s1.timeTo t))) := by
  unfold tickBoundary
  dsimp only
  rw [hs1, hj]
  dsimp only
  rw [ht]
  dsimp only
  rw [hl]
  exact if_pos (by simp [hlt, hm, hst])

/-- Settles O14: phase by phase, each end by the branch that its conditions choose. -/
theorem tickPhases : Obligations.TickPhases := by
  unfold Obligations.TickPhases
  refine ⟨fun s job j f hj hst hf => congrArg Host.Outcome.next ?_, fun s s1 job j k at_ hs1 hj hst hphase hk hat => ?_,
    fun n at_ j k sh hk hn ht => beginTick_keeps n at_ j k sh hk hn ht, fun s job j k t hj hk hst hphase ht => ?_,
    fun s job j k hj hk hst hphase hmaster hno => congrArg Host.Outcome.next ?_,
    fun s job j k s1 s2 s4 hj hk hst hphase hs1 hs2 hs4 => congrArg Host.Outcome.next ?_,
    fun s job j k hj hk hst hphase => congrArg Host.Outcome.next ?_⟩
  · have hn : nextTick j = j.startTick := if_pos hst
    have hb : nextBoundaryNs j = some f := (if_pos hst).trans hf
    rw [tickBoundary_goes (commitEnd_idle hj (by simp [hst])) hj hb (fun _ _ _ _ => by simp [hst]), hn]
  · have hn : nextTick j = j.tick + 1 := if_neg (by simp [hst])
    have hb : nextBoundaryNs j = some at_ := by
      unfold nextBoundaryNs
      rw [if_neg (by simp [hst]), hk, hat]
      exact if_pos ⟨hst, .inr hphase⟩
    refine ⟨fun hgo => congrArg Host.Outcome.next ?_, fun l hl hlt hm => congrArg Host.Outcome.next ?_⟩
    · rw [tickBoundary_goes hs1.symm hj hb ?_, hn]
      intro l hl hlt hm
      rcases hgo l hl with h | h
      · omega
      · exact absurd hm (by simp [h])
    · rw [tickBoundary_stops hs1.symm hj hb hl (by omega) hm hst, hn]
  · have hno : ¬ (j.state ≠ .running ∨ j.phase ≠ .run) := by simp [hst, hphase]
    refine ⟨fun hu => congrArg Host.Outcome.next ?_, fun hu hspent => congrArg Host.Outcome.next ?_,
      fun hu hleft hm => congrArg Host.Outcome.next ?_, fun hu hleft hm => congrArg Host.Outcome.next ?_⟩
    all_goals
      subst ht
      unfold runEnd
      rw [hj]
      dsimp only
      rw [hk]
      dsimp only
      rw [if_neg hno]
    · simp [hu]
    · simp [hu, Nat.sub_eq_zero_of_le hspent]
    · simp [hu, Nat.sub_ne_zero_of_lt hleft, hm]
    · simp [hu, Nat.sub_ne_zero_of_lt hleft, hm]
  · unfold stretchDecision
    rw [hj]
    dsimp only
    rw [hk]
    dsimp only
    rw [if_neg (by simp [hst, hphase, hmaster]), if_pos (hno.imp id (fun h => Nat.sub_eq_zero_of_le h))]
  · subst hs1 hs2 hs4
    unfold settleEnd
    rw [hj]
    dsimp only
    rw [hk]
    exact if_neg (by simp [hst, hphase])
  · unfold commitEnd
    rw [hj]
    dsimp only
    rw [hk]
    exact if_neg (by simp [hst, hphase])

end Sys2Proof.Machine
end

section
/-! PROOFS. Beacons received and what they do. -/

namespace Sys2Proof.Machine

/-! ### Beacons -/

/-- A beacon of its type that its port's checks let through (R58, R314). -/
theorem beaconIn_good {s : State} {n port : Nat} {b x : Beacon} {at_ : Nat} {act : Beacon → State → State} {t : State} (hn : b.type = n)
    (hup : portUp (s.timeTo at_) port = true) (hgood : beaconBad (s.timeTo at_) port b = false)
    (hx : x = { b with correctionNs := (b.correctionNs + ((tabGet s.fab.ports port).map (·.delayNs)).getD 0) % 2 ^ 32 })
    (ht : t = traceJobBeacon b.jobId n b.arg0 (s.timeTo at_)) :
    beaconIn n port b at_ act s =
      (let s2 := if downType n || !isMaster s b.jobId then forwardBeacon x t else t
       if !hasPart s b.jobId then s2
       else if downType n then
         let s3 := s2.onJob b.jobId (fun j => { j with lastSeq := some b.seqno, actedSeq := some b.seqno })
         if ((jobAt s b.jobId).bind (·.actedSeq)) = some b.seqno then s3 else advanceItems (act x s3)
       else if isMaster s b.jobId then advanceItems (act x s2) else s2) := by
  subst hn hx ht
  unfold beaconIn
  dsimp only
  rw [if_neg (by simp [hup]), if_neg (by simp [hgood])]
  rfl

/-- Settles O15: by the order in which a beacon is checked, corrected, sent on and acted on. -/
theorem beaconsReceived : Obligations.BeaconsReceived := by
  unfold Obligations.BeaconsReceived
  refine ⟨fun s port b at_ => ⟨rfl, rfl, rfl, rfl, rfl, rfl⟩, fun s n port b at_ act hdown => if_pos (.inr (by simp [hdown])),
    fun s n port b at_ act hn hup hbad => ?_, fun s n port b at_ act x t hn hup hgood hx ht => ?_⟩
  · unfold beaconIn
    dsimp only
    rw [if_neg (by simp [hn, hup]), if_pos hbad]
  · rw [beaconIn_good hn hup hgood hx ht]
    refine ⟨fun hd hp hseq => ?_, fun hd hp hseq => ?_, fun hd hm hp => ?_, fun hm hp => ?_⟩
    · simp [hd, hp, hseq]
    · simp [hd, hp, hseq]
    · simp [hd, hp, hm]
    · cases hd : downType n with
      | true => simp [hp hd]
      | false => simp [hm]

/-- What a job is after a change of its own record. -/
theorem jobAt_onJob {s : State} {job : Nat} {j : Job} (f : Job → Job) (hj : jobAt s job = some j) : jobAt (s.onJob job f) job = some (f j) := by
  show tabGet (tabMod s.jobs.jobs job f) job = _
  rw [tabGet_tabMod, if_pos rfl, show tabGet s.jobs.jobs job = some j from hj]
  rfl

/-- A late TICK is its tick's miss, counted once (R61). -/
theorem beaconMiss_first {s : State} {job : Nat} {j : Job} (hj : jobAt s job = some j) (hst : j.state = .running) (hseen : j.tickSeen ≠ some j.tick)
    (hrole : (startRole s job).isSome = true) (hm : isMaster s job = false) (h0 : j.misses = 0) :
    beaconMiss job s
      = (s.timeTo (j.boundaryNs + 20000 + j.pathNs)).onJob job (fun x => { x with misses := x.misses + 1, tickSeen := some x.tick }) := by
  unfold beaconMiss
  rw [hj]
  dsimp only
  have hrole' : (startRole s job).isNone = false := by rw [← Option.not_isSome, hrole]; rfl
  rw [if_neg (by simp [hst, hseen, hrole', hm]), if_neg (by omega)]

theorem beaconMiss_seen {s : State} {job : Nat} {j : Job} (hj : jobAt s job = some j) (hseen : j.tickSeen = some j.tick) : beaconMiss job s = s := by
  unfold beaconMiss
  rw [hj]
  exact if_pos (.inr (.inl hseen))

theorem tickLate_running {s : State} {b : Beacon} {j : Job} (hj : jobAt s b.jobId = some j) (h : tickLate s b = true) :
    j.state = .running ∧ b.tick = j.tick ∧ j.boundaryNs + 20000 + j.pathNs < s.nowNs := by
  unfold tickLate at h
  rw [hj] at h
  exact of_decide_eq_true h

theorem tickLate_idle {s : State} {b : Beacon} {j : Job} (hj : jobAt s b.jobId = some j) (h : j.state ≠ .running) : tickLate s b = false := by
  unfold tickLate
  rw [hj]
  simp [h]

/-- A slew is bounded and against the offset (R60). -/
theorem slewOf_bounds (off : Int) : -100 ≤ -slewOf off ∧ -slewOf off ≤ 100 ∧ (off = 0 → -slewOf off = 0) ∧ (0 < off → -slewOf off < 0)
    ∧ (off < 0 → 0 < -slewOf off) := by
  unfold slewOf
  omega

/-- A TICK in time slews the time base, ends the miss count and is judged by its D and STOP (R60, R61, R67). -/
theorem onTick_inTime {s t : State} {b : Beacon} {j : Job} (hj : jobAt s b.jobId = some j)
    (hst : j.state = .running ∨ j.state = .armed ∧ j.firstNs.isSome = true) (hlate : tickLate s b = false)
    (ht : t = { s with nowNs := ((s.nowNs : Int) + -slewOf ((s.nowNs : Int) - b.correctionNs - b.timeNs)).toNat }.onJob b.jobId (fun x => { x with
      misses := if x.tickSeen = some b.tick then x.misses else 0, tickSeen := some b.tick })) :
    onTick b s = if b.arg0 ≠ appliedDUs j b.tick * 1000 then tickFault b.jobId evTickFault 3 t
      else if !b.stop then t
      else if j.state = .running ∧ b.tick = j.tick then stopClean b.jobId .stopped t
      else stopAfter b.jobId t := by
  subst ht
  unfold onTick
  simp only [hlate, Bool.false_eq_true, if_false, hj]
  rcases hst with h | ⟨h, hf⟩
  · rw [if_neg (by simp [h]), if_neg (by simp [h])]
    rfl
  · have hnone : j.firstNs.isNone = false := by rw [← Option.not_isSome, hf]; rfl
    rw [if_neg (by simp [hnone]), if_neg (by simp [h])]
    rfl

/-- Settles O16: beacon type by beacon type, what changes the time base apart from what changes the job. -/
theorem beaconEffects : Obligations.BeaconEffects := by
  unfold Obligations.BeaconEffects
  refine ⟨fun s b j k hj hst htick hf hk => ⟨fun hcrc => ?_, fun hcrc => ?_, ?_⟩, fun s b j hj hst hlate => ?_,
    fun s b j hj hlate hseen hrole hm h0 => ?_, fun s b => rfl, fun s b j hj hst hphase htick hs => ?_, fun s b j hj hst habort => ?_,
    fun s b j hj habort => ?_, fun s b j hj hst => ?_, fun s b j hj harmed hrunning => ⟨?_, ?_, ?_⟩⟩
  · unfold onStart
    simp [hj, hst, htick, hf, hk, hcrc]
  · unfold onStart
    simp [hj, hst, htick, hf, hk, hcrc]
  · unfold onTick
    simp [tickLate_idle hj (by simp [hst] : j.state ≠ .running), hj, hst, htick, hf]
  · obtain ⟨hlo, hhi, hzero, hpos, hneg⟩ := slewOf_bounds ((s.nowNs : Int) - b.correctionNs - b.timeNs)
    refine ⟨_, hlo, hhi, hzero, hpos, hneg, fun t ht => ?_⟩
    have htick := onTick_inTime hj hst hlate ht
    refine ⟨fun ha hs => ?_, fun ha => ?_, fun ha hs hr hn => ?_, fun ha hs hn => ?_⟩
    · simp [htick, ha, hs]
    · simp [htick, ha]
    · simp [htick, ha, hs, hr, hn]
    · simp [htick, ha, hs, hn]
  · obtain ⟨hst, -, -⟩ := tickLate_running hj hlate
    have hmiss := beaconMiss_first hj hst hseen hrole hm h0
    have hj' : jobAt (beaconMiss b.jobId s) b.jobId = some { j with misses := j.misses + 1, tickSeen := some j.tick } := by
      rw [hmiss]
      exact jobAt_onJob _ hj
    have hagain : (if tickLate (beaconMiss b.jobId s) b then beaconMiss b.jobId (beaconMiss b.jobId s) else beaconMiss b.jobId s)
        = beaconMiss b.jobId s := by
      rw [beaconMiss_seen hj' rfl, ite_self]
    unfold onTick
    simp only [hlate, if_true, hagain]
  · unfold onStretch
    simp [hj, hphase, hst, htick, hs, applyStretch]
  · unfold onFault
    simp [hj, hst, habort]
  · unfold onFault
    simp [hj, habort]
  · unfold onAbort
    simp [hj, hst]
  · unfold onAbort
    simp [hj, harmed, hrunning]
  · unfold onFault
    simp [hj, harmed, hrunning]
  · unfold onTick
    simp [tickLate_idle hj hrunning, hj, harmed, hrunning]

end Sys2Proof.Machine
end

section
/-! PROOFS. Beacons sent and winnow slices. -/

namespace Sys2Proof.Machine

/-- Settles O17: by the copies of a START still to be sent, and by the count of misses. -/
theorem beaconsSent : Obligations.BeaconsSent := by
  unfold Obligations.BeaconsSent
  refine ⟨fun s job j first s2 q hj hst hstarted hfirst hm hq => congrArg Host.Outcome.next ?_,
    fun s job j k r hj hdue => congrArg Host.Outcome.next ?_, fun s job j r t hj hst hseen hr hrole ht => congrArg Host.Outcome.next ?_⟩
  · unfold startSend
    rw [hj]
    dsimp only
    rw [hfirst]
    dsimp only
    rw [if_neg (by simp [hst, hstarted, hm]), hq]
  · unfold beaconRepeat
    rw [hj]
    dsimp only
    rw [Option.bind_some, hdue]
    rfl
  · subst ht
    unfold beaconMiss
    rw [hj]
    dsimp only
    have hrole' : (startRole s job).isNone = false := by simp [startRole, hr, hrole]
    have hm : isMaster s job = false := by simp [isMaster, hr, hrole]
    rw [if_neg (by simp [hst, hseen, hrole', hm])]

/-! ### Winnow slices -/

/-- A failed unit leaves what a forced slice still has to do. -/
theorem winnowFail_forceMb (t u : Tower) (kind unit detail : Nat) (s : State) :
    ((winnowFail t kind unit detail s).obs.winnow.get u).forceMb = (s.obs.winnow.get u).forceMb := by
  obtain ⟨n, h, e, o, he⟩ := postEvent_frame 0 evWinnowFail 0
    (winnowDetail { tower := towerNum t, kind := kind, unit := unit, detail := min detail 0xFFFF, tick := tickOf s t })
    (s.onObs (fun x => { x with
      winnowLog := ({ tower := towerNum t, kind := kind, unit := unit, detail := min detail 0xFFFF, tick := tickOf s t } :: x.winnowLog).take 64
      winnow := x.winnow.mod t (fun y => { y with fails := (y.fails + 1) % 2 ^ 32 }) }))
  unfold winnowFail postNotice
  dsimp only
  rw [he]
  show ((s.obs.winnow.mod t _).get u).forceMb = _
  rw [Pair.get_mod]
  split <;> rfl

theorem Pair.mod_mod {α : Type} (p : Pair α) (t : Tower) (f g : α → α) : (p.mod t f).mod t g = p.mod t (fun x => g (f x)) := by
  cases t <;> rfl

/-- A slice that nothing forced ends no command. -/
theorem forcedOver_none {t : Tower} {s : State} (h : (s.obs.winnow.get t).forceMb = none) : forcedOver t s = s := by
  unfold forcedOver
  dsimp only
  rw [h]

/-- The end of a forced slice ends its command once none is left to run (R457). -/
theorem forcedOver_last {t : Tower} {s s1 : State} {mb : Nat} {c : Cmd} (h : (s.obs.winnow.get t).forceMb = some mb)
    (hl : (s.obs.winnow.get t).forcedLoft = none) (hp : (s.obs.winnow.get t).forcedPress = none)
    (hs1 : s1 = s.onObs (fun o => { o with winnow := o.winnow.mod t (fun x => { x with forceMb := none }) }))
    (hc : startedCmd s1 mb 0x0905 = some c) : forcedOver t s = complete c stDone (winnowResult s1) s1 := by
  subst hs1
  unfold forcedOver
  dsimp only
  rw [h]
  dsimp only
  rw [if_neg (by simp [hl, hp]), hc]

/-- Settles O18: slice by slice, each from its result. -/
theorem winnowSlices : Obligations.WinnowSlices := by
  unfold Obligations.WinnowSlices
  refine ⟨fun s t hno cells lines => ?_, fun s t hno ok => ?_, fun s t hno failed wires => ?_, fun s t hno sensors regs => ?_,
    fun s t ok s1 hhas hforced hmb hs1 => ?_, fun s t u mb c s1 hhas hforced hloft hmb hs1 hc => ?_,
    fun s t cells lines s1 hhas hloft hmb hs1 => ?_, fun s t failed wires hhas => ?_, fun s t sensors regs hhas => ?_, fun s t hstage hidle => ?_⟩
  all_goals refine congrArg Host.Outcome.next ?_
  · exact if_neg (Bool.eq_false_iff.mp hno)
  · exact if_neg (Bool.eq_false_iff.mp hno)
  · exact congrArg (marginsLow wires) (if_neg (Bool.eq_false_iff.mp hno))
  · exact if_neg (Bool.eq_false_iff.mp hno)
  · refine (if_pos hhas).trans ?_
    have hs1' : sliceOver t 2 (fun x => { x with
        forcedPress := none
        pressCursor := if (s.obs.winnow.get t).forcedPress.isSome then x.pressCursor else (x.pressCursor + 1) % 512 }) s = s1 := by
      rw [hs1, hforced]
      rfl
    have hmb1 : (s1.obs.winnow.get t).forceMb = none := by
      subst hs1
      simp [hmb]
    unfold pressSliceEnd
    dsimp only
    rw [hs1', hforced, Option.getD_none]
    cases ok with
    | true => exact forcedOver_none hmb1
    | false => exact forcedOver_none ((winnowFail_forceMb ..).trans hmb1)
  · refine (if_pos hhas).trans ?_
    unfold pressSliceEnd
    dsimp only
    refine forcedOver_last (mb := mb) (c := c) ?_ ?_ ?_ ?_ hc
    · simp [sliceOver, hmb]
    · simp [sliceOver, hloft]
    · simp [sliceOver]
    · rw [hs1, hforced]
      simp [sliceOver, State.onObs, Pair.mod_mod]
  · subst hs1
    refine (if_pos hhas).trans ?_
    unfold loftSliceEnd
    simp only [hloft]
    rfl
  · exact congrArg (marginsLow wires) (if_pos hhas)
  · exact if_pos hhas
  · unfold idleGleanWindow
    rw [if_neg (by simp [hstage, hidle])]

end Sys2Proof.Machine
end

section
/-! PROOFS. Power and temperature commands, and the end of a power transition. -/

namespace Sys2Proof.Machine

/-- Settles O19: the checks pass and the command goes on. -/
theorem powerCommandsComplete : Obligations.PowerCommandsComplete := by
  unfold Obligations.PowerCommandsComplete
  refine ⟨fun s mb c w l t hw hp hpar hrange hz ht hl => exec_of_waiting hw rfl ?_, fun s mb c hw hp hst hpt hz hidle => ?_,
    fun s mb c lw lt t hw hp hset hz hlw hlt hlevels ht => exec_of_waiting hw rfl ?_, fun s mb c hw hp hset hz => exec_of_waiting hw rfl ?_,
    fun s mb c z i act m t hw hp hz hi hact hact2 hzero hz10 hsens hfail hm ht => exec_of_waiting hw rfl ?_,
    fun s mb c hw hp => exec_of_waiting hw rfl (judged_ok (by simp [hp.length, hp.hdrBad]))⟩
  · subst hpar hl ht
    refine judged_ok ?_
    simp [hp.length, hp.hdrBad, hz.parRes]
    omega
  · have hbody : powerState c s = if pwrOf (par c 0 1) = s.gate.pwr ∧ par c 1 1 = s.gate.cmdPoint then complete c stDone (powerResult s 0) s
        else if !transitionOk s (pwrOf (par c 0 1)) then complete c stWrongState [] s
        else advanceItems (retargetBoth ((markStarted c s).onGate (fun g => { g with
          change := some { mb := c.mb, target := pwrOf (par c 0 1), point := par c 1 1, startNs := s.nowNs }, cmdPoint := par c 1 1 }))) := by
      refine judged_ok ?_
      simp [hp.length, hp.hdrBad, hz.parRes, hidle]
      refine ⟨hst, ?_⟩
      split at hpt
      · next h => rw [if_pos h]; omega
      · next h => rw [if_neg h]; omega
    refine ⟨fun hsame => exec_of_waiting hw rfl ?_, fun hdiff hok => exec_of_waiting hw rfl ?_, fun hdiff hno => exec_of_waiting hw rfl ?_⟩
    · rw [hbody, if_pos hsame]
    · rw [hbody, if_neg hdiff, if_neg (by simp [hok])]
    · rw [hbody, if_neg hdiff, if_pos (by simp [hno])]
  · subst ht hlw hlt
    refine (judged_ok ?_).trans ?_
    · have hbound : ∀ k, k < 5 → par c (1 + k) 1 ≤ 20 ∧ par c (6 + k) 1 ≤ 20
          ∧ warnBase.getD k 0 - (par c (1 + k) 1 : Int) < throttleBase.getD k 0 - (par c (6 + k) 1 : Int) := by
        intro k hk
        simpa [hk] using hlevels k hk
      have hlow : ((List.range 5).map (fun k => par c (1 + k) 1) ++ (List.range 5).map (fun k => par c (6 + k) 1)).any (fun v => decide (20 < v))
          = false := by
        refine List.any_eq_false.mpr fun v hv => ?_
        rcases List.mem_append.mp hv with h | h <;> obtain ⟨k, hk, rfl⟩ := List.mem_map.mp h
        · simpa using (hbound k (List.mem_range.mp hk)).1
        · simpa using (hbound k (List.mem_range.mp hk)).2.1
      have horder : (List.range 5).any (fun k => decide (throttleBase.getD k 0 - (((List.range 5).map (fun k => par c (6 + k) 1)).getD k 0 : Int)
          ≤ warnBase.getD k 0 - (((List.range 5).map (fun k => par c (1 + k) 1)).getD k 0 : Int))) = false := by
        refine List.any_eq_false.mpr fun k hk => ?_
        exact fun hle => absurd (of_decide_eq_true hle) (Int.not_le.mpr (hlevels k (List.mem_range.mp hk)).2.2)
      intro x hx
      fin_cases hx
      · simp [hp.length]
      · dsimp only
        rw [hp.hdrBad, hz.parRes, hlow, horder, hset]
        rfl
    · simp only [hset]
      rfl
  · refine (judged_ok ?_).trans ?_
    · simp [hp.length, hp.hdrBad, hz.parRes, hset, bitOf]
    · simp only [hset]
      rfl
  · subst hz hi hact hm ht
    refine (judged_ok ?_).trans ?_
    · intro x hx
      fin_cases hx
      · simp [hp.length]
      · dsimp only
        have hrange : ¬ (10 ≤ par c 0 1 ∨ sensorCount (par c 0 1) ≤ par c 1 1 ∨ 3 ≤ par c 2 1) := by omega
        have hfailed : (decide (par c 2 1 = 0) && !(sensorAt s (par c 0 1) (par c 1 1)).failed) = false := by
          by_cases h0 : par c 2 1 = 0
          · simp [(hfail h0).1]
          · simp [h0]
        rw [hp.hdrBad, hzero.parRes, hfailed, decide_eq_false hrange]
        rfl
      · exact decide_eq_false fun h => absurd (hfail h.1).2 (by omega)
    · by_cases h2 : par c 2 1 = 2
      · simp only [h2]
        rfl
      · simp only [h2]
        rfl

/-- The end of a transition, up to its command. -/
theorem powerTransitionEnd_change {s s2 s4 : State} {at_ : Nat} {drops : List (Nat × Nat)} {ch : PwrChange} (hch : s.gate.change = some ch)
    (hs2 : s2 = enterState ch.target (leaveState drops (s.timeTo at_)))
    (hs4 : s4 = advanceItems (opPointEnd .t1 (opPointEnd .t0 (noteStatus s2 (s2.onGate (fun g => { g with pwr := ch.target, change := none })))))) :
    powerTransitionEnd at_ drops s = match startedCmd s4 ch.mb 0x0600 with
      | some c => complete c stDone (powerResult s4 (timeUs s4.nowNs ch.startNs)) s4
      | none => s4 := by
  unfold powerTransitionEnd
  rw [hch]
  dsimp only
  rewrite [← hs2, ← hs4]
  rfl

/-- Settles O20: by whether the POWER.STATE command still runs. -/
theorem powerTransitionEnds : Obligations.PowerTransitionEnds := by
  unfold Obligations.PowerTransitionEnds
  refine ⟨fun s at_ drops hno => congrArg Host.Outcome.next ?_, fun s at_ drops ch s2 s4 hch hs2 hs4 =>
    ⟨fun c hc => congrArg Host.Outcome.next ?_, fun hc => congrArg Host.Outcome.next ?_⟩⟩
  · unfold powerTransitionEnd
    rw [hno]
  · rw [powerTransitionEnd_change hch hs2 hs4, hc]
  · rw [powerTransitionEnd_change hch hs2 hs4, hc]

end Sys2Proof.Machine
end

section
/-! PROOFS. Grants stay within the room of their towers. -/

namespace Sys2Proof.Machine

/-! ### Grants within the room -/

/-- `t` has the reservations, debts, budgets and rates of `s`: at most the operating points moved. -/
structure SameBudget (s t : State) : Prop where
  therm : t.therm = s.therm
  grants : t.gate.grants = s.gate.grants
  debt : t.gate.debt = s.gate.debt
  limit : t.gate.limitW = s.gate.limitW
  capTherm : t.gate.capTherm = s.gate.capTherm
  capBond : t.gate.capBond = s.gate.capBond
  ended : t.gate.ended = s.gate.ended
  measured : t.gate.measured = s.gate.measured

theorem SameBudget.refl (s : State) : SameBudget s s := ⟨rfl, rfl, rfl, rfl, rfl, rfl, rfl, rfl⟩

theorem SameBudget.trans {s t u : State} (h : SameBudget s t) (k : SameBudget t u) : SameBudget s u :=
  ⟨k.therm.trans h.therm, k.grants.trans h.grants, k.debt.trans h.debt, k.limit.trans h.limit, k.capTherm.trans h.capTherm,
    k.capBond.trans h.capBond, k.ended.trans h.ended, k.measured.trans h.measured⟩

theorem SameBudget.baseRate {s t : State} (h : SameBudget s t) (u : Tower) (c : Nat) : baseRate t u c = baseRate s u c := by
  unfold Machine.baseRate
  rw [h.ended, h.measured]

theorem SameBudget.heldAt {s t : State} (h : SameBudget s t) (u : Tower) (p : Nat) : heldAt t u p = heldAt s u p := by
  unfold Machine.heldAt
  rw [h.grants]

theorem SameBudget.cappedBudget {s t : State} (h : SameBudget s t) (u : Tower) : cappedBudget t u = cappedBudget s u := by
  unfold Machine.cappedBudget capPm
  rw [h.limit, h.therm, h.capTherm, h.capBond]

/-- At most the operating point of tower `u` moved. -/
structure MovedPoint (u : Tower) (s t : State) : Prop extends SameBudget s t where
  point : ∀ v, v ≠ u → t.gate.point.get v = s.gate.point.get v

theorem MovedPoint.refl (u : Tower) (s : State) : MovedPoint u s s := ⟨.refl s, fun _ _ => rfl⟩

theorem MovedPoint.trans {u : Tower} {s t x : State} (h : MovedPoint u s t) (k : MovedPoint u t x) : MovedPoint u s x :=
  ⟨h.toSameBudget.trans k.toSameBudget, fun v hv => (k.point v hv).trans (h.point v hv)⟩

theorem ctrAdd_frame (group pos n : Nat) (s : State) : ∃ o, ctrAdd group pos n s = { s with obs := o } := by
  unfold ctrAdd
  split
  · exact ⟨_, rfl⟩
  · exact ⟨s.obs, rfl⟩

theorem traceRec_frame (src : Nat) (t : Tower) (type job tick : Nat) (data : List Byte) (s : State) :
    ∃ o, traceRec src t type job tick data s = { s with obs := o } := by
  unfold traceRec
  split
  · dsimp only
    generalize traceAdd _ _ = b
    obtain ⟨o, h⟩ := ctrAdd_frame 8 (towerNum t * 19 + (if b.2 then 17 else 18)) 1 (s.onObs (fun o => { o with trace := o.trace.set t b.1 }))
    exact ⟨o, h⟩
  · exact ⟨s.obs, rfl⟩

theorem traceGate_moved (u t : Tower) (c rate : Nat) (s : State) : MovedPoint u s (traceGate t c rate s) := by
  unfold traceGate
  obtain ⟨o, h⟩ := traceRec_frame 2 t 4 (((jobOfTower s t).map (·.id)).getD 0) (tickOf s t)
    (leBytes c 1 ++ leBytes 0 3 ++ leBytes rate 4 ++ leBytes (heldAt s t (s.gate.point.get t)) 4 ++ leBytes (s.gate.debt.get t) 4) s
  rw [h]
  exact ⟨⟨rfl, rfl, rfl, rfl, rfl, rfl, rfl, rfl⟩, fun _ _ => rfl⟩

theorem postCapped_moved (u t : Tower) (cause waitUs : Nat) (s : State) : MovedPoint u s (postCapped t cause waitUs s) := by
  unfold postCapped
  dsimp only
  generalize powerDetail s _ _ _ _ _ _ _ _ = d
  have hpost : ∀ due : Bool, MovedPoint u s (if due then postNotice evPowerCapped (((jobOfTower s t).map (·.id)).getD 0) d
      (s.onGate (fun g => { g with cappedNs := tabPut g.cappedNs (towerNum t * 4 + cause) s.nowNs })).draw else s) := by
    intro due
    cases due with
    | false => exact .refl u s
    | true =>
      obtain ⟨n, h, e, o, hp⟩ := postEvent_frame 0 evPowerCapped (((jobOfTower s t).map (·.id)).getD 0) d
        (s.onGate (fun g => { g with cappedNs := tabPut g.cappedNs (towerNum t * 4 + cause) s.nowNs })).draw
      unfold postNotice
      rw [if_pos rfl, hp]
      exact ⟨⟨rfl, rfl, rfl, rfl, rfl, rfl, rfl, rfl⟩, fun _ _ => rfl⟩
  exact hpost _

theorem retarget_moved (t : Tower) (s : State) : MovedPoint t s (retarget t s) := by
  unfold retarget
  dsimp only
  split
  · obtain ⟨h, hn⟩ := noteStatus_frame s (s.onGate (fun g => { g with
      point := g.point.set t (targetPoint s t), slew := g.slew.set t (some (targetPoint s t)) }))
    rw [hn]
    exact ⟨⟨rfl, rfl, rfl, rfl, rfl, rfl, rfl, rfl⟩, fun v hv => by simp [Pair.get_set, hv]⟩
  · split
    · exact ⟨⟨rfl, rfl, rfl, rfl, rfl, rfl, rfl, rfl⟩, fun _ _ => rfl⟩
    · exact .refl t s

/-- The fit clamp of a tower moves its own operating point alone (R389). -/
theorem fitClamp_moved (t : Tower) (c base : Nat) (s : State) : MovedPoint t s (fitClamp t c base s) := by
  unfold fitClamp
  dsimp only
  split
  · have h1 : MovedPoint t s (s.onGate (fun g => { g with fitPoint := g.fitPoint.set t (fitPointFor s t base) })) :=
      ⟨⟨rfl, rfl, rfl, rfl, rfl, rfl, rfl, rfl⟩, fun _ _ => rfl⟩
    exact h1.trans ((retarget_moved t _).trans ((postCapped_moved t t 2 0 _).trans (traceGate_moved t t c base _)))
  · exact .refl t s

/-- The fit clamp of a head request. -/
def clampedFor (r : GateReq) (u : Tower) (s : State) : State :=
  if r.kind = 1 ∧ cappedBudget s u < 10 * atPoint 1 (baseRate s u r.eclass) (s.gate.point.get u) then fitClamp u r.eclass (baseRate s u r.eclass) s
  else s

theorem clampedFor_moved (r : GateReq) (u : Tower) (s : State) : MovedPoint u s (clampedFor r u s) := by
  unfold clampedFor
  split
  · exact fitClamp_moved u _ _ s
  · exact .refl u s

theorem fitHead_cons (r : GateReq) (u : Tower) (us : List Tower) (s : State) :
    fitHead r (u :: us) s =
      if fitsRoom (clampedFor r u s) u (10 * atPoint r.kind (baseRate s u r.eclass) ((clampedFor r u s).gate.point.get u))
        ((clampedFor r u s).gate.point.get u) then fitHead r us (clampedFor r u s) else (clampedFor r u s, false) := rfl

/-- Judging a head request keeps reservations and budgets. -/
theorem fitHead_same (r : GateReq) (ts : List Tower) (s : State) : SameBudget s (fitHead r ts s).1 := by
  induction ts generalizing s with
  | nil => exact .refl s
  | cons u us ih =>
    rw [fitHead_cons]
    split
    · exact (clampedFor_moved r u s).toSameBudget.trans (ih _)
    · exact (clampedFor_moved r u s).toSameBudget

theorem fitHead_point (r : GateReq) (ts : List Tower) (s : State) (v : Tower) (hv : v ∉ ts) :
    (fitHead r ts s).1.gate.point.get v = s.gate.point.get v := by
  induction ts generalizing s with
  | nil => rfl
  | cons u us ih =>
    have hu : v ≠ u := fun e => hv (e ▸ List.mem_cons_self)
    have hus : v ∉ us := fun h => hv (List.mem_cons_of_mem _ h)
    rw [fitHead_cons]
    split
    · exact (ih _ hus).trans ((clampedFor_moved r u s).point v hu)
    · exact (clampedFor_moved r u s).point v hu

/-- A head request that fits has room in each of its towers at the points then in force (R388). -/
theorem fitHead_room (r : GateReq) (ts : List Tower) (s : State) (hnd : ts.Nodup) (hfits : (fitHead r ts s).2 = true) (u : Tower) (hu : u ∈ ts) :
    10 * atPoint r.kind (baseRate s u r.eclass) ((fitHead r ts s).1.gate.point.get u) + heldAt s u ((fitHead r ts s).1.gate.point.get u)
      + s.gate.debt.get u ≤ cappedBudget s u := by
  induction ts generalizing s with
  | nil => exact absurd hu List.not_mem_nil
  | cons v vs ih =>
    obtain ⟨hv, hvs⟩ := List.nodup_cons.mp hnd
    have hmoved := clampedFor_moved r v s
    rw [fitHead_cons] at hfits ⊢
    split at hfits
    · next hroom =>
      rw [if_pos hroom]
      rcases List.mem_cons.mp hu with rfl | hin
      · rw [fitHead_point r vs _ u hv]
        have h := of_decide_eq_true hroom
        rwa [hmoved.heldAt, hmoved.debt, hmoved.cappedBudget] at h
      · have h := ih (clampedFor r v s) hvs hfits hin
        rwa [hmoved.baseRate, hmoved.heldAt, hmoved.debt, hmoved.cappedBudget] at h
    · exact absurd hfits (by simp)

/-- Noting a wait moves nothing at the gate but the waits. -/
theorem noteWait_moved (u : Tower) (r : GateReq) (s : State) : MovedPoint u s (noteWait r s) := by
  have hcount : ∀ (ts : List Tower) (st : State), MovedPoint u st (ts.foldl (fun st t =>
      let s1 := ctrAdd 8 (towerNum t * 19 + 16) (s.nowNs - r.askNs) (ctrAdd 8 (towerNum t * 19 + r.eclass) 1 st)
      if 10000 < s.nowNs - r.askNs then traceGate t r.eclass (baseRate st t r.eclass) s1 else s1) st) := by
    intro ts
    induction ts with
    | nil => exact fun st => .refl u st
    | cons t ts ih =>
      intro st
      refine MovedPoint.trans ?_ (ih _)
      dsimp only
      obtain ⟨o, h1⟩ := ctrAdd_frame 8 (towerNum t * 19 + r.eclass) 1 st
      obtain ⟨o', h2⟩ := ctrAdd_frame 8 (towerNum t * 19 + 16) (s.nowNs - r.askNs) { st with obs := o }
      rw [h1, h2]
      have hobs : MovedPoint u st { st with obs := o' } := ⟨⟨rfl, rfl, rfl, rfl, rfl, rfl, rfl, rfl⟩, fun _ _ => rfl⟩
      split
      · exact hobs.trans (traceGate_moved u t _ _ _)
      · exact hobs
  unfold noteWait
  dsimp only
  split
  · exact hcount _ s
  · exact (hcount (towersOfMask r.towers) s).trans ⟨⟨rfl, rfl, rfl, rfl, rfl, rfl, rfl, rfl⟩, fun _ _ => rfl⟩

/-- What a grant that was made adds to the reservations (R388). -/
theorem heldAt_append {s t : State} {g : Grant} (h : t.gate.grants = s.gate.grants ++ [g]) (u : Tower) (p : Nat) :
    heldAt t u p = heldAt s u p + grantHeld g u p := by
  unfold heldAt
  rw [h, List.map_append, List.foldl_append]
  rfl

/-- A schedule step that makes a grant makes it for a head request that fits. -/
theorem grantHead_grant {t : Tower} {s s' : State} {g : Grant} (h : grantHead t s = some s')
    (hlen : s'.gate.grants.length = s.gate.grants.length + 1) (hlast : s'.gate.grants.getLast? = some g) :
    ∃ r s1, (fitHead r (towersOfMask r.towers) s) = (s1, true) ∧ s'.gate.grants = s.gate.grants ++ [g] ∧ g.kind = r.kind ∧ g.towers = r.towers
      ∧ (∀ u, g.rate.get u = baseRate s u r.eclass) ∧ (∀ u, s'.gate.point.get u = s1.gate.point.get u)
      ∧ s'.gate.debt = s.gate.debt ∧ ∀ u, cappedBudget s' u = cappedBudget s u := by
  unfold grantHead at h
  split at h
  · exact absurd h (by simp)
  · next r _ =>
    dsimp only at h
    split at h
    · have hsame := fitHead_same r (towersOfMask r.towers) s
      generalize hf : fitHead r (towersOfMask r.towers) s = f at h hsame
      obtain ⟨s1, fits⟩ := f
      dsimp only at h hsame
      split at h
      · next hfits =>
        subst hfits
        obtain rfl := Option.some.inj h
        generalize hb : State.onGate s1 _ = b at hlen hlast ⊢
        have hmoved := fun u => noteWait_moved u r b
        have hgrants := (hmoved .t0).grants
        rw [hgrants, ← hb] at hlast
        have hg := Option.some.inj (List.getLast?_concat.symm.trans hlast)
        refine ⟨r, s1, hf, ?_, ?_, ?_, fun u => ?_, fun u => ?_, ?_, fun u => ?_⟩
        · rw [hgrants, ← hb, ← hg, ← hsame.grants]
          rfl
        · rw [← hg]
        · rw [← hg]
        · rw [← hg, ← hsame.baseRate]
          cases u <;> rfl
        · rw [(hmoved (otherTower u)).point u (by cases u <;> decide), ← hb]
          rfl
        · rw [(hmoved .t0).debt, ← hb, ← hsame.debt]
          rfl
        · rw [(hmoved .t0).cappedBudget, ← hb, ← hsame.cappedBudget]
          rfl
      · split at h
        · exact absurd h (by simp)
        · obtain rfl := Option.some.inj h
          rw [hsame.grants] at hlen
          omega
    · exact absurd h (by simp)

theorem mem_towersOfMask {m : Nat} {u : Tower} : u ∈ towersOfMask m ↔ m.testBit (towerNum u) = true := by
  unfold towersOfMask bothTowers bitOf
  cases u <;> simp

theorem towersOfMask_nodup (m : Nat) : (towersOfMask m).Nodup := by
  unfold towersOfMask
  exact List.Nodup.filter _ (by decide)

/-- Settles O21: no step of the schedule grants beyond the room its tower has left, so no schedule does. -/
theorem gateWindows : Obligations.GateWindows := by
  unfold Obligations.GateWindows
  refine ⟨fun s t ts hdue => congrArg Host.Outcome.next ?_, fun s hnone => congrArg Host.Outcome.next ?_, fun s s' t u g h hlen hlast hu => ?_⟩
  · unfold gateNoticeEnd
    rw [hdue]
  · unfold gateNoticeEnd
    rw [hnone]
    rfl
  · obtain ⟨r, s1, hfit, hgrants, hkind, htowers, hrate, hpoint, hdebt, hbudget⟩ := grantHead_grant h hlen hlast
    have hmem : u ∈ towersOfMask r.towers := mem_towersOfMask.mpr (htowers ▸ hu)
    have hroom := fitHead_room r _ s (towersOfMask_nodup _) (by rw [hfit]) u hmem
    rw [hfit] at hroom
    have hadd : grantHeld g u (s'.gate.point.get u) = 10 * atPoint r.kind (baseRate s u r.eclass) (s1.gate.point.get u) := by
      unfold grantHeld
      rw [if_pos (show bitOf g.towers (towerNum u) = true from hu), hkind, hrate, hpoint]
    rw [heldAt_append hgrants, hadd, hdebt, hbudget, hpoint]
    dsimp only at hroom
    omega

end Sys2Proof.Machine
end

section
/-! PROOFS. The end of an item. -/

namespace Sys2Proof.Machine

/-! ### The end of an item -/

/-- A measured rate is noted beside the grants. -/
theorem noteRate_grants (t : Tower) (c rate : Nat) (g : GateSt) : (noteRate t c rate g).grants = g.grants := rfl

theorem foldl_noteRate_grants (ts : List Tower) (c rate : Nat) (on : Bool) (g : GateSt) :
    (ts.foldl (fun y t => if on then noteRate t c rate y else y) g).grants = g.grants := by
  induction ts generalizing g with
  | nil => rfl
  | cons t ts ih =>
    rw [List.foldl_cons, ih]
    cases on with
    | true => exact noteRate_grants t c rate g
    | false => rfl

/-- A release leaves no grant of its item (R388). -/
theorem gateRelease_gone (job tick item energy : Nat) (s : State) :
    ∀ g ∈ (gateRelease job tick item energy s).gate.grants, ¬ (g.job = job ∧ g.tick = tick ∧ g.item = item) := by
  intro g hg
  unfold gateRelease at hg
  split at hg
  · next hnone => simpa using List.find?_eq_none.mp hnone g hg
  · next x _ =>
    dsimp only [State.onGate] at hg
    rw [foldl_noteRate_grants] at hg
    have hother := (List.mem_filter.mp hg).2
    exact fun hsame => by simp [hsame] at hother

/-- An operation at its turn that faults ends with its fault (R142, R145). -/
theorem sweepOpComplete_faulted {s s1 : State} {t : Tower} {index : Nat} {o : SweepOp} {f : SwFault} (energy : Nat)
    (ho : (s.press.queues.get t)[index]? = some o) (hg : o.granted = true) (hb : sweepBlocked ((s.press.queues.get t).take index) o = false)
    (hrun : (if o.hdr.mode = 2 then (runAppend t o s, none) else runSweep t o s) = (s1, some f)) :
    sweepOpComplete t index energy s = advanceItems (sweepFaulted t index o f s1) := by
  unfold sweepOpComplete
  rw [ho]
  dsimp only
  rw [if_neg (by simp [hg, hb]), hrun]

/-- One that has run leaves the queue; a posted one bumps its counter, an item's own completes it. -/
theorem sweepOpComplete_ran {s s1 : State} {t : Tower} {index : Nat} {o : SweepOp} (energy : Nat)
    (ho : (s.press.queues.get t)[index]? = some o) (hg : o.granted = true) (hb : sweepBlocked ((s.press.queues.get t).take index) o = false)
    (hrun : (if o.hdr.mode = 2 then (runAppend t o s, none) else runSweep t o s) = (s1, none)) :
    sweepOpComplete t index energy s = match o.posted with
      | some (core, slot, uid, ctr) => advanceItems (bumpCounter core slot uid ctr (sweepLeave t index s1))
      | none => itemDone o.job (((jobAt (sweepLeave t index s1) o.job).map (·.tick)).getD 0) o.item
          (gateRelease o.job (((jobAt (sweepLeave t index s1) o.job).map (·.tick)).getD 0) o.item energy (sweepLeave t index s1)) := by
  unfold sweepOpComplete
  rw [ho]
  dsimp only
  rewrite [if_neg (by simp [hg, hb]), hrun]
  cases o.posted <;> rfl

/-- Settles O23: kind of item by kind, each by what still holds it up. -/
theorem itemsComplete : Obligations.ItemsComplete := by
  unfold Obligations.ItemsComplete
  refine ⟨fun s job item energy tick hruns hidle => congrArg Host.Outcome.next ?_,
    fun s job item energy tick hruns hbusy => congrArg Host.Outcome.next ?_,
    fun s t index energy o ho hstay => congrArg Host.Outcome.next ?_, fun s t index energy o s1 s2 ho hg hb hrun hs2 => ?_,
    fun s t index energy o s1 f ho hg hb hmode hrun => congrArg Host.Outcome.next ?_,
    fun s job item energy r hr => congrArg Host.Outcome.next ?_, fun s job item energy p x tick hp hruns hout => congrArg Host.Outcome.next ?_,
    fun s job tick item energy => gateRelease_gone job tick item energy s⟩
  · unfold kernelComplete
    rw [hruns]
    simp [hidle]
  · unfold kernelComplete
    rw [hruns]
    simp [hbusy]
  · unfold sweepOpComplete
    rw [ho]
    exact if_pos (by rcases hstay with h | h <;> simp [h])
  · subst hs2
    refine ⟨fun hnone => congrArg Host.Outcome.next ?_, fun core slot uid ctr hposted => congrArg Host.Outcome.next ?_⟩
    · rw [sweepOpComplete_ran energy ho hg hb hrun, hnone]
    · rw [sweepOpComplete_ran energy ho hg hb hrun, hposted]
  · exact sweepOpComplete_faulted energy ho hg hb ((if_neg hmode).trans hrun)
  · unfold copyItemComplete
    rw [hr]
  · unfold seqEnd
    rw [hp, hruns]
    exact if_pos hout

end Sys2Proof.Machine
end

section
/-! PROOFS. Thermal samples, clamps and levels. -/

namespace Sys2Proof.Machine

/-! ### Thermal samples, clamps and levels -/

/-- A fold of steps that each leave something leaves it. -/
theorem foldl_invariant {α β γ : Type} (f : α → β → α) (get : α → γ) (h : ∀ a b, get (f a b) = get a) (l : List β) (a : α) :
    get (l.foldl f a) = get a := by
  induction l generalizing a with
  | nil => rfl
  | cons b bs ih => rw [List.foldl_cons, ih, h]

theorem postEvent_pending (sev code job : Nat) (detail : List Byte) (s : State) : (postEvent sev code job detail s).pending = s.pending := by
  obtain ⟨n, h, e, o, he⟩ := postEvent_frame sev code job detail s
  rw [he]

theorem thermPost_pending (code z level : Nat) (s : State) : (thermPost code z level s).pending = s.pending := by
  unfold thermPost
  split
  · exact postEvent_pending ..
  · rfl

theorem applyReport_pending (s : State) (r : SensorReport) : (applyReport s r).pending = s.pending := by
  unfold applyReport
  split <;> rfl

theorem judgeZone_pending (s : State) (z : Nat) : (judgeZone s z).pending = s.pending := by
  unfold judgeZone
  split
  · rfl
  · dsimp only
    split
    · rw [thermPost_pending]
      split
      · rw [thermPost_pending]
        rfl
      · rfl
    · split
      · rw [thermPost_pending]
        rfl
      · rfl

theorem postFailed_pending (before : List Nat) (s : State) : (postFailed before s).pending = s.pending :=
  foldl_invariant _ State.pending (fun _ _ => postEvent_pending ..) _ s

/-- What a sample judges leaves the commands to come. -/
theorem judged_pending (before : List Nat) (reports : List SensorReport) (s : State) :
    (postFailed before ((List.range 26).foldl judgeZone (thresholdsApply (((reports.foldl applyReport s).therm.sensors.map (·.1)).foldl judgeSensor
      (reports.foldl applyReport s))))).pending = s.pending :=
  calc _ = ((List.range 26).foldl judgeZone (thresholdsApply (((reports.foldl applyReport s).therm.sensors.map (·.1)).foldl judgeSensor
      (reports.foldl applyReport s)))).pending := postFailed_pending ..
    _ = (thresholdsApply (((reports.foldl applyReport s).therm.sensors.map (·.1)).foldl judgeSensor
      (reports.foldl applyReport s))).pending := foldl_invariant _ State.pending judgeZone_pending _ _
    _ = (((reports.foldl applyReport s).therm.sensors.map (·.1)).foldl judgeSensor (reports.foldl applyReport s)).pending := rfl
    _ = (reports.foldl applyReport s).pending := foldl_invariant judgeSensor State.pending (fun _ _ => rfl) _ _
    _ = s.pending := foldl_invariant _ State.pending applyReport_pending _ _

/-- A sample of a device that runs, up to its judgement (R397 to R401). -/
theorem thermalSample_running {s s3 : State} {at_ : Nat} {reports : List SensorReport} (hrail : s.mod.rail = true) (hrun : s.boot.running = true)
    (hstage : 3 ≤ s.boot.stage)
    (hs3 : s3 = postFailed (failedSensors s) ((List.range 26).foldl judgeZone
        (thresholdsApply (((reports.foldl applyReport (s.timeTo at_)).therm.sensors.map (·.1)).foldl judgeSensor
          (reports.foldl applyReport (s.timeTo at_)))))) :
    thermalSample at_ reports s = match (List.range 26).find? (fun z => decide (levelOf s3 z = 3)) with
      | some z => thermalShutdown z s3
      | none => topoTry (advanceItems (noteStatus s (retargetBoth
          (liftClamps ((List.range 16).foldl stackRefresh ((List.range 26).foldl engage s3)))))) := by
  unfold thermalSample
  rw [if_neg (by simp [hrail, hrun]; omega)]
  dsimp only
  rewrite [← hs3]
  generalize List.find? _ _ = f
  cases f <;> rfl

/-- The throttle level of a zone kind lies under its shutdown level (Table 13.11). -/
theorem throttleOf_lt_shutdownOf (s : State) (z : Nat) : throttleOf s (zoneKind z) < shutdownOf (zoneKind z) := by
  have hkind : ∀ k, k < 5 → throttleBase.getD k 0 < shutdownBase.getD k 0 := by decide
  have hz : zoneKind z < 5 := by
    unfold zoneKind
    split_ifs <;> omega
  have h := hkind _ hz
  unfold throttleOf shutdownOf
  omega

theorem zoneKind_lt (z : Nat) : zoneKind z < 5 := by
  unfold zoneKind
  split_ifs <;> omega

/-- The level of a zone: each level is reached inclusively and held for 5 °C (R398, log 42). -/
theorem levelAt_cases (s : State) (z old : Nat) (x : Int) (hw : warnOf s (zoneKind z) < throttleOf s (zoneKind z)) :
    (shutdownOf (zoneKind z) ≤ x → levelAt s z old x = 3)
    ∧ (throttleOf s (zoneKind z) ≤ x → x < shutdownOf (zoneKind z) - 5 → levelAt s z old x = 2)
    ∧ (warnOf s (zoneKind z) ≤ x → x < throttleOf s (zoneKind z) - 5 → levelAt s z old x = 1)
    ∧ (x ≤ warnOf s (zoneKind z) - 5 → levelAt s z old x = 0)
    ∧ (x < warnOf s (zoneKind z) → old = 0 → levelAt s z old x = 0)
    ∧ levelAt s z old x ≤ 3 := by
  have ht := throttleOf_lt_shutdownOf s z
  have hon : ∀ (b : Bool) (t : Int), levelOn b t x = true ↔ t ≤ x ∨ b = true ∧ t - 5 < x := fun b t => by simp [levelOn]
  have hdef : levelAt s z old x = if shutdownOf (zoneKind z) ≤ x ∨ 3 ≤ old ∧ shutdownOf (zoneKind z) - 5 < x then 3
      else if throttleOf s (zoneKind z) ≤ x ∨ 2 ≤ old ∧ throttleOf s (zoneKind z) - 5 < x then 2
      else if warnOf s (zoneKind z) ≤ x ∨ 1 ≤ old ∧ warnOf s (zoneKind z) - 5 < x then 1 else 0 := by
    unfold levelAt
    simp only [hon, decide_eq_true_eq]
  rw [hdef]
  refine ⟨fun h => ?_, fun h h' => ?_, fun h h' => ?_, fun h => ?_, fun h h' => ?_, ?_⟩
  all_goals split_ifs <;> omega

/-- The cap of a tower is the lowest of its zones' own (R399). -/
theorem foldl_min_eq {c : Nat} (l : List Nat) (n : Nat) (hle : ∀ x ∈ l, c ≤ x) (hmem : c ∈ l ∨ n = c) (hn : c ≤ n) : l.foldl min n = c := by
  induction l generalizing n with
  | nil => exact hmem.resolve_left List.not_mem_nil
  | cons x xs ih =>
    have hx := hle x List.mem_cons_self
    refine ih (min n x) (fun y hy => hle y (List.mem_cons_of_mem _ hy)) ?_ (by omega)
    rcases hmem with h | h
    · rcases List.mem_cons.mp h with rfl | h
      · exact .inr (by omega)
      · exact .inl h
    · exact .inr (by omega)

theorem stepZone_cap {s : State} {t : Tower} {z c : Nat} (hz : s.therm.clamped.contains z = true) (ht : towerOfZone z = t)
    (hle : ∀ y ∈ s.therm.clamped, towerOfZone y = t → y ≠ z → c ≤ (capOf s y).1) (hc : c ≤ 1000) :
    (stepZone t z c s).gate.capTherm.get t = c := by
  have hmem : z ∈ s.therm.clamped := List.contains_iff_mem.mp hz
  have hcap : ∀ y, capOf (s.onTherm (fun x => { x with caps := tabPut x.caps z (c, s.nowNs) })) y = if y = z then (c, s.nowNs) else capOf s y := by
    intro y
    show (tabGet (tabPut s.therm.caps z (c, s.nowNs)) y).getD _ = _
    rw [tabGet_tabPut]
    split <;> rfl
  refine (Pair.get_set_self ..).trans ?_
  unfold lowestCap
  simp only [hcap]
  refine foldl_min_eq _ _ (fun x hx => ?_) (.inl ?_) hc
  · obtain ⟨y, hy, rfl⟩ := List.mem_map.mp hx
    obtain ⟨hin, htow⟩ := List.mem_filter.mp hy
    split
    · exact Nat.le_refl _
    · next hne => exact hle y hin (of_decide_eq_true htow) hne
  · exact List.mem_map.mpr ⟨z, List.mem_filter.mpr ⟨hmem, by simpa using ht⟩, by simp⟩

/-- A thermal shutdown takes the rail off, latches the zone and loses what was not in flash (R400). -/
theorem thermalShutdown_state (z : Nat) (s : State) :
    (thermalShutdown z s).mod.rail = false ∧ (thermalShutdown z s).mod.powerGood = false
      ∧ (thermalShutdown z s).mod.latch = some (z, celsius (tabGetD s.therm.zoneC z 0)) ∧ (thermalShutdown z s).jobs.jobs = []
      ∧ (thermalShutdown z s).pending = s.pending := by
  unfold thermalShutdown coldReset
  exact ⟨rfl, rfl, rfl, rfl, rfl⟩

/-- Settles O24: a sample by its parts in their order, a clamp by the step that is due first. -/
theorem thermalCommands : Obligations.ThermalCommands := by
  unfold Obligations.ThermalCommands
  refine ⟨fun s at_ reports hoff => congrArg Host.Outcome.next ?_, fun s at_ reports s3 hrail hrun hstage hs3 hcool => congrArg Host.Outcome.next ?_,
    fun s at_ reports s3 z hrail hrun hstage hs3 hhot => ?_,
    fun s t hp hc => congrArg Host.Outcome.next ?_, fun s t due p hp hc => congrArg Host.Outcome.next ?_,
    fun s t due z c hp hc => congrArg Host.Outcome.next ?_, fun s t d1 d2 p z c s1 s2 hp hc hs1 hs2 => congrArg Host.Outcome.next ?_,
    fun s t p hclamped hpoint => ⟨fun hhot h5 => ?_, fun hhot hcool hcmd => ?_⟩,
    fun s z old x hwarn => levelAt_cases s z old x (hwarn _ (zoneKind_lt z)),
    fun s t z cap last hz hcap => ⟨fun hhot h250 => ?_, fun hhot hcool h1000 => ?_⟩, fun s t z c hz ht hle hc => stepZone_cap hz ht hle hc⟩
  · unfold thermalSample
    exact if_pos (by rcases hoff with h | h | h <;> simp [h])
  · rw [thermalSample_running hrail hrun hstage hs3, hcool]
  · obtain ⟨hr, hg, hl, hj, hp⟩ := thermalShutdown_state z s3
    refine ⟨thermalShutdown z s3, congrArg Host.Outcome.next ?_, hr, hg, hl, hj, hp.trans ?_⟩
    · rw [thermalSample_running hrail hrun hstage hs3, hhot]
    · rw [hs3]
      exact judged_pending (failedSensors s) reports (s.timeTo at_)
  · unfold thermalClampStep
    simp [hp, hc]
  · unfold thermalClampStep
    simp [hp, hc]
  · unfold thermalClampStep
    simp [hp, hc]
  · subst hs2 hs1
    unfold thermalClampStep
    simp [hp, hc]
  · unfold pointStep
    simp [List.contains_iff_mem.mp hclamped, hpoint, hhot, h5]
  · unfold pointStep
    have hne : ¬ p - 1 ≤ s.gate.cmdPoint := by omega
    have hp0 : p ≠ 0 := by omega
    simp [List.contains_iff_mem.mp hclamped, hpoint, hhot, hcool, hne, hp0]
  · unfold zoneStep
    simp [hcap, hhot, h250, hz, capDown]
  · unfold zoneStep
    simp [hcap, hhot, hcool, h1000, capUp]

end Sys2Proof.Machine
end

section
/-! PROOFS. Power bond drops and operating points. -/

namespace Sys2Proof.Machine

theorem traceDrop_frame (zone cause : Nat) (s : State) : ∃ o, traceDrop zone cause s = { s with obs := o } := traceRec_frame ..

/-- A cap leaves a tower that is not closed at its bond cap or below (R404). -/
theorem dropCap_caps (zone mv : Nat) (s : State) :
    (dropCap zone mv s).gate.capBond = s.gate.capBond.set (towerOfZone zone) 700 ∧ (dropCap zone mv s).gate.capTherm = s.gate.capTherm
      ∧ (dropCap zone mv s).therm = s.therm := by
  unfold dropCap postNotice
  obtain ⟨x, hx⟩ := traceDrop_frame zone 1 (s.onGate (fun g => { g with capBond := g.capBond.set (towerOfZone zone) 700 }))
  rw [hx]
  obtain ⟨n, h, e, o, hp⟩ := postEvent_frame 0 evPowerBondDrop 0 (dropDetail s zone mv 1)
    { s.onGate (fun g => { g with capBond := g.capBond.set (towerOfZone zone) 700 }) with obs := x }
  rw [hp]
  exact ⟨rfl, rfl, rfl⟩

/-- A tower that a drop closes stays closed while its point moves. -/
theorem traceDrop_retarget_therm (zone cause : Nat) (t : Tower) (s : State) : (traceDrop zone cause (retarget t s)).therm = s.therm := by
  obtain ⟨o, h⟩ := traceDrop_frame zone cause (retarget t s)
  rw [h]
  exact (retarget_moved t s).therm

/-- Settles O25: by the size of the drop, and by the points at which the reservations fit. -/
theorem bondDropsAndPoints : Obligations.BondDropsAndPoints := by
  unfold Obligations.BondDropsAndPoints
  refine ⟨fun s zone mv hz => congrArg Host.Outcome.next (if_pos hz), fun s zone mv hz hmv => congrArg Host.Outcome.next ?_,
    fun s zone mv hz hlo hhi => ?_, fun s zone mv x s1 hz hmv hx hs1 => ?_, fun s t hno => congrArg Host.Outcome.next ?_,
    fun s t p hp htarget => congrArg Host.Outcome.next ?_, fun s t p hp htarget => congrArg Host.Outcome.next ?_⟩
  · unfold powerBondDrop
    rw [if_neg (by omega), if_neg (by omega), if_neg (by omega)]
  · obtain ⟨hbond, hcapTherm, htherm⟩ := dropCap_caps zone mv (noteDrop zone mv s)
    refine ⟨dropCap zone mv (noteDrop zone mv s), congrArg Host.Outcome.next ?_, ?_, fun hopen => ?_, ?_⟩
    · unfold powerBondDrop
      rw [if_neg (by omega), if_neg (by omega), if_pos hlo]
    · rw [hbond, Pair.get_set_self]
    · unfold capPm
      rw [htherm, hcapTherm, hbond, Pair.get_set_self]
      exact if_neg (Bool.eq_false_iff.mp hopen)
    · rw [hbond, Pair.get_set, if_neg (by cases towerOfZone zone <;> decide)]
      rfl
  · have hexec : powerBondDrop zone mv s = dropClose zone mv (noteDrop zone mv s) := by
      unfold powerBondDrop
      rw [if_neg (by omega), if_pos hmv]
    have hclosed : s1.therm.closed.get x = true := by
      rw [hs1, traceDrop_retarget_therm]
      exact Pair.get_set_self ..
    refine ⟨if_pos hclosed, if_pos hclosed, fun j hj => congrArg Host.Outcome.next (hexec.trans ?_),
      fun hnone => congrArg Host.Outcome.next (hexec.trans ?_)⟩
    all_goals
      unfold dropClose
      dsimp only
      rw [← hx, ← hs1]
    · rw [hj]
    · rw [hnone]
  · unfold opPointEnd
    rw [hno]
  · unfold opPointEnd
    rw [hp]
    dsimp only
    rw [if_neg (by omega)]
  · unfold opPointEnd
    rw [hp]
    exact congrArg advanceItems (if_pos htarget)

end Sys2Proof.Machine
end

section
/-! PROOFS. What the end of a job's work does not reach, and the DEVICE reset. -/

namespace Sys2Proof.Machine

/-! ### What the end of a job's work does not reach

The operations that stop a job, send its beacons and post its events leave the time base, the module, bring-up, flash, fuses, twins, vertical links,
thermal state, trust and the commands to come as they are. -/

/-- The part of the state they leave. -/
def State.outer (s : State) : Nat × ModuleSt × BootSt × FlashSt × FuseSt × Pair Twin × VlSt × ThermSt × TrustSt × List Instr :=
  (s.nowNs, s.mod, s.boot, s.flash, s.fuses, s.twin, s.vl, s.therm, s.trust, s.pending)

theorem outer_noteStatus (s t : State) : (noteStatus s t).outer = t.outer := by
  obtain ⟨h, e⟩ := noteStatus_frame s t
  rw [e]
  rfl

theorem outer_complete (c : Cmd) (status : Nat) (result : List Byte) (s : State) : (complete c status result s).outer = s.outer := by
  obtain ⟨n, h, o, e⟩ := complete_frame c status result s
  rw [e]
  rfl

theorem outer_postEvent (sev code job : Nat) (detail : List Byte) (s : State) : (postEvent sev code job detail s).outer = s.outer := by
  obtain ⟨n, h, e, o, he⟩ := postEvent_frame sev code job detail s
  rw [he]
  rfl

theorem outer_traceRec (src : Nat) (t : Tower) (type job tick : Nat) (data : List Byte) (s : State) :
    (traceRec src t type job tick data s).outer = s.outer := by
  obtain ⟨o, h⟩ := traceRec_frame src t type job tick data s
  rw [h]
  rfl

theorem outer_ctrAdd (group pos n : Nat) (s : State) : (ctrAdd group pos n s).outer = s.outer := by
  obtain ⟨o, h⟩ := ctrAdd_frame group pos n s
  rw [h]
  rfl

theorem outer_depart (l : Nat) (p : Pkt) (s : State) : (depart l p s).outer = s.outer := by
  unfold depart
  dsimp only
  split <;> rfl

theorem outer_releaseHeld (l : Nat) (s : State) : (releaseHeld l s).outer = s.outer := by
  unfold releaseHeld
  split
  · rfl
  · split
    · rfl
    · next q _ _ =>
      refine foldl_invariant _ (fun a : State × List Pkt => a.1.outer) (fun a p => ?_) q.held (s, [])
      dsimp only
      split
      · rfl
      · exact outer_depart l p a.1

theorem outer_linkSend (l op : Nat) (payload : List Byte) (s : State) : (linkSend l op payload s).outer = s.outer := by
  unfold linkSend egressSend
  dsimp only
  split
  · exact outer_releaseHeld l s
  · split
    · exact outer_releaseHeld l s
    · refine (outer_ctrAdd ..).trans ?_
      split
      · exact outer_releaseHeld l s
      · exact (outer_depart ..).trans (outer_releaseHeld l s)

theorem outer_traceJobBeacon (job type arg0 : Nat) (s : State) : (traceJobBeacon job type arg0 s).outer = s.outer := by
  unfold traceJobBeacon
  split
  · exact outer_traceRec ..
  · rfl

theorem outer_beaconDown (s : State) (job : Nat) (b : Beacon) : (beaconDown s job b).outer = s.outer := by
  unfold beaconDown
  split
  · exact (outer_traceJobBeacon ..).trans (foldl_invariant _ State.outer (fun st p => outer_linkSend p 9 (beaconBytes b) st) _ s)
  · rfl

theorem outer_beaconUp (s : State) (job : Nat) (b : Beacon) : (beaconUp s job b).outer = s.outer := by
  unfold beaconUp
  split
  · split
    · rfl
    · exact (outer_traceJobBeacon ..).trans (outer_linkSend ..)
  · rfl

theorem outer_nextSeq (s : State) (job : Nat) : (nextSeq s job).1.outer = s.outer := by
  unfold nextSeq
  split <;> rfl

theorem outer_undefine (a n : Nat) (s : State) : (undefine a n s).outer = s.outer := by
  unfold undefine
  dsimp only
  split <;> rfl

theorem outer_dropWork (job : Nat) (p : Nat → Bool) (s : State) : (dropWork job p s).outer = s.outer := by
  have hsweeps : (undefineSweeps job s).outer = s.outer := foldl_invariant _ State.outer (fun st x => outer_undefine _ _ st) _ s
  unfold dropWork
  dsimp only
  exact Eq.trans rfl hsweeps

theorem outer_traceItemEnd (j : Job) (item code : Nat) (i : Item) (s : State) : (traceItemEnd j item code i s).outer = s.outer := by
  unfold traceItemEnd
  split
  · exact outer_traceRec ..
  · rfl

theorem outer_dumpEnd (d : Dump) (result : List Byte) (s : State) : (dumpEnd d result s).outer = s.outer := by
  unfold dumpEnd
  dsimp only
  split
  · exact outer_complete ..
  · rfl

theorem outer_dumpsLost (job : Nat) (p : Dump → Bool) (s : State) : (dumpsLost job p s).outer = s.outer :=
  foldl_invariant _ State.outer (fun st d => outer_dumpEnd d _ st) _ s

theorem outer_postOverrun (job : Nat) (s : State) : (postOverrun job s).outer = s.outer := by
  unfold postOverrun
  split
  · rfl
  · split
    · rfl
    · exact outer_postEvent ..

theorem outer_closeRecord (job : Nat) (s : State) : (closeRecord job s).outer = s.outer := by
  unfold closeRecord
  split
  · split
    · exact outer_postOverrun job s
    · rfl
  · rfl

theorem outer_traceRunning (job code : Nat) (s : State) : (traceRunning job code s).outer = s.outer := by
  unfold traceRunning
  split
  · rfl
  · refine foldl_invariant _ State.outer (fun z p => ?_) _ s
    split
    · exact outer_traceItemEnd ..
    · rfl

theorem outer_onJob (s : State) (job : Nat) (f : Job → Job) : (s.onJob job f).outer = s.outer := rfl

theorem outer_stopJob (job : Nat) (st : JobState) (e : ItemSt) (recState code item : Nat) (s : State) :
    (stopJob job st e recState code item s).outer = s.outer := by
  unfold stopJob dropUnits
  rw [outer_dumpsLost, outer_onJob, outer_dropWork, outer_traceRunning, outer_closeRecord]

theorem outer_masterAbort (job code origin : Nat) (s : State) : (masterAbort job code origin s).outer = s.outer := by
  unfold masterAbort sendSet
  split
  · rfl
  · split
    · dsimp only
      rw [outer_onJob, outer_beaconDown, outer_onJob, outer_stopJob, outer_nextSeq]
    · rfl

theorem outer_jobFault (job code : Nat) (detail : List Byte) (s : State) : (jobFault job code detail s).outer = s.outer := by
  unfold jobFault
  dsimp only
  split
  · rw [outer_postEvent]
  · split
    · rw [outer_masterAbort, outer_postEvent]
    · rw [outer_beaconUp, outer_postEvent]

theorem outer_faultStop (job code item : Nat) (detail : List Byte) (s : State) : (faultStop job code item detail s).outer = s.outer := by
  unfold faultStop
  dsimp only
  split
  · split
    · rw [outer_stopJob, outer_jobFault]
    · rw [outer_jobFault]
  · rw [outer_jobFault]

theorem outer_tickFault (job code cause : Nat) (s : State) : (tickFault job code cause s).outer = s.outer := by
  unfold tickFault
  split
  · rfl
  · split
    · rw [outer_faultStop]
    · rfl

theorem outer_failMailboxes (status : Nat) (s : State) : (failMailboxes status s).outer = s.outer := by
  unfold failMailboxes
  refine foldl_invariant _ State.outer (fun st mb => ?_) _ s
  dsimp only
  split <;> rfl

theorem outer_hbmStoreBlock (a : Nat) (data : List Byte) (poison : Bool) (s : State) : (hbmStoreBlock a data poison s).outer = s.outer := by
  unfold hbmStoreBlock applyFlip
  dsimp only
  split
  · split <;> rfl
  · rfl

theorem outer_channelDrain (s : State) : (channelDrain s).1.outer = s.outer := by
  unfold channelDrain
  exact foldl_invariant (fun (st : State) (r : HbmReq) => hbmStoreBlock r.addr r.data r.poisoned st) State.outer
    (fun st r => outer_hbmStoreBlock r.addr r.data r.poisoned st) _ s

theorem outer_rehome (g : Bool) (s : State) : (rehome g s).outer = s.outer := by
  unfold rehome
  split <;> rfl

/-- What a DEVICE reset carries over from the state it finds. -/
theorem afterDevice_keeps (r : ResetReport) (lost : Tower → Bool) (s : State) :
    (afterDevice r lost s).flash = s.flash ∧ (afterDevice r lost s).fuses = s.fuses ∧ (afterDevice r lost s).mod = s.mod
      ∧ (afterDevice r lost s).pending = s.pending := ⟨rfl, rfl, rfl, rfl⟩

/-- A DEVICE reset: mailboxes fail, queued writes drain, the jobs fault, and the rest goes (R407, R412). -/
theorem deviceReset_eq (source : Nat) (s : State) :
    deviceReset source s = afterDevice
      (deviceReport source (channelDrain (failMailboxes stDeviceFault s)).2 (channelDrain (failMailboxes stDeviceFault s)).1)
      (cellarLost (channelDrain (failMailboxes stDeviceFault s)).1 (dirtyLines (channelDrain (failMailboxes stDeviceFault s)).1))
      (rehome false (((channelDrain (failMailboxes stDeviceFault s)).1.jobs.jobs.map (·.1)).foldl (fun st j => tickFault j evTickFault 7 st)
        (channelDrain (failMailboxes stDeviceFault s)).1)) := by
  unfold deviceReset
  dsimp only

/-- Settles O26: the device faults its jobs and mailboxes first, which reaches neither flash, fuses nor the module. -/
theorem deviceResetLeaves : Obligations.DeviceResetLeaves := by
  unfold Obligations.DeviceResetLeaves
  refine ⟨fun s source => ?_, fun s hbar => congrArg Host.Outcome.next (if_pos ⟨hbar, rfl⟩),
    fun s v hv => congrArg Host.Outcome.next (if_neg fun h => hv h.2)⟩
  have hend : ∀ t : State, ((t.jobs.jobs.map (·.1)).foldl (fun st j => tickFault j evTickFault 7 st) t).outer = t.outer :=
    fun t => foldl_invariant _ State.outer (fun st j => outer_tickFault j evTickFault 7 st) _ t
  obtain ⟨r, lost, t, he, hl, hs, ht⟩ : ∃ r lost t, deviceReset source s = afterDevice r lost t ∧ r.level = 3 ∧ r.source = source
      ∧ t.outer = s.outer := by
    refine ⟨_, _, _, deviceReset_eq source s, rfl, rfl, ?_⟩
    rw [outer_rehome, hend, outer_channelDrain, outer_failMailboxes]
  rw [he]
  simp only [State.outer, Prod.mk.injEq] at ht
  obtain ⟨-, hmod, -, hflash, hfuses, -, -, -, -, hpending⟩ := ht
  exact ⟨rfl, rfl, rfl, rfl, rfl, rfl, rfl, rfl, rfl, hl, hs, rfl, hflash, hfuses, hmod, hpending⟩

end Sys2Proof.Machine
end

section
/-! PROOFS. Resets. -/

namespace Sys2Proof.Machine

/-! ### Resets -/

/-- RESET.LEVEL with admissible parameters, of a device that may take it (R414). -/
theorem resetLevel_judged {s : State} {c : Cmd} (hp : Plain c 8) (hlv : par c 0 1 ≤ 3) (hz : ZeroPar c 4 4)
    (hpart : if par c 0 1 = 1 ∨ par c 0 1 = 2 then par c 1 1 ≤ 2 ∧ (s.jobs.partMode = 0 → par c 1 1 = 0) else par c 1 1 = 0)
    (hcore : if par c 0 1 = 0 then s.boot.recovery = false ∧ coreExists s (par c 2 2) = true ∧ coreBusy s (par c 2 2) = false else par c 2 2 = 0)
    (hstate : par c 0 1 = 3 ∨ s.boot.recovery = false ∧ s.gate.pwr ≠ .rest ∧ s.gate.pwr ≠ .dark)
    (hidle : s.boot.part = none ∧ s.boot.coreReset = none) :
    resetLevel c s = if par c 0 1 = 3 then deviceReset 0 (complete c stDone [] s)
      else if par c 0 1 = 0 then (markStarted c s).onBoot (fun b => { b with coreReset := some (c.mb, par c 2 2, s.nowNs) })
      else startPartReset c (decide (par c 0 1 = 2)) (par c 1 1) s := by
  obtain ⟨hi1, hi2⟩ := hidle
  refine judged_ok ?_
  have hlv' : ¬ 3 < par c 0 1 := by omega
  have hpartOk : (if par c 0 1 = 1 ∨ par c 0 1 = 2 then decide (2 < par c 1 1) || decide (s.jobs.partMode = 0 ∧ par c 1 1 ≠ 0)
      else decide (par c 1 1 ≠ 0)) = false := by
    split at hpart
    · next h =>
      rw [if_pos h]
      simp
      exact hpart
    · next h =>
      rw [if_neg h]
      simp [hpart]
  have hcoreOk : (if par c 0 1 = 0 then !s.boot.recovery && !coreExists s (par c 2 2) else decide (par c 2 2 ≠ 0)) = false := by
    split at hcore
    · next h => simp [h, hcore.2.1]
    · next h => simp [h, hcore]
  have hstateOk : (decide (par c 0 1 ≠ 3) && (s.boot.recovery || decide (s.gate.pwr = .rest ∨ s.gate.pwr = .dark)
      || (decide (par c 0 1 = 0) && coreBusy s (par c 2 2)))) = false := by
    rcases hstate with h | ⟨hr, hrest, hdark⟩
    · simp [h]
    · by_cases h0 : par c 0 1 = 0
      · rw [if_pos h0] at hcore
        simp [hr, hrest, hdark, hcore.2.2]
      · simp [hr, hrest, hdark, h0]
  intro x hx
  fin_cases hx
  · simp [hp.length]
  · dsimp only
    rw [hp.hdrBad, hz.parRes, hpartOk, hcoreOk, decide_eq_false hlv']
    rfl
  · exact hstateOk
  · simp [hi1, hi2]

/-- The end of a partition reset, up to its command (R409, R414). -/
theorem partitionResetEnd_some {s : State} {at_ : Nat} {failed : List (Tower × Nat)} {p : PartReset} {ts : List Tower} {s1 f s4 : State} {lost : Nat}
    (hp : s.boot.part = some p) (hts : ts = towersOfPartition p.partition) (hs1 : s1 = drainCores ts (s.timeTo at_))
    (hf : ts.foldl (fun a t => flushTower t a) (s1, 0) = (f, lost))
    (hs4 : s4 = (mapOutCores 2 (failed.filter (fun x => ts.contains x.1))
      (if p.towerLevel then towerLevelEnd ts (clearCores ts f) else clearCores ts f)).onBoot (fun b => { b with part := none })) :
    partitionResetEnd at_ failed s = match startedCmd s4 p.mb 0x0700 with
      | some c => complete c stDone (resetResult (timeUs s4.nowNs p.startNs) lost (towersDirtyBytes ts s1) p.faultedItems) s4
      | none => s4 := by
  unfold partitionResetEnd
  rw [hp]
  dsimp only
  rw [← hts, ← hs1, hf]
  dsimp only
  rewrite [← hs4]
  rfl

/-- A stack that has not confirmed self-refresh in time is lost, and with it the trust in its tower's cellars (R413). -/
theorem stackTimeout_lost {s : State} {i : Nat} {x : Stack} (hx : tabGet s.hbm.hbmStacks i = some x)
    (h : s.boot.running = true ∧ (!s.boot.cold) = true ∧ s.boot.stage = 0 ∧ x.selfRefresh = true ∧ (!x.lost) = true) :
    ∃ t, stackTimeout i s = t ∧ tabGet t.hbm.hbmStacks i = some { x with lost := true }
      ∧ (t.twin.get (towerOfStack i)).untrusted = true ∧ t.boot.report.stacksLost = s.boot.report.stacksLost ||| 2 ^ i
      ∧ t.boot.report.untrusted = s.boot.report.untrusted ||| 2 ^ towerNum (towerOfStack i)
      ∧ t.twin.get (otherTower (towerOfStack i)) = s.twin.get (otherTower (towerOfStack i)) ∧ t.hbm.mem = s.hbm.mem := by
  unfold stackTimeout
  rw [hx]
  dsimp only
  rw [if_pos h]
  refine ⟨_, rfl, tabGet_tabPut_self .., ?_, rfl, rfl, ?_, rfl⟩
  · show ((s.twin.mod (towerOfStack i) _).get (towerOfStack i)).untrusted = true
    rw [Pair.get_mod_self]
  · show (s.twin.mod (towerOfStack i) _).get (otherTower (towerOfStack i)) = _
    rw [Pair.get_mod, if_neg (by cases towerOfStack i <;> decide)]

/-- Settles O27: level by level, and the end of each reset by what it counted. -/
theorem resetCommandsComplete : Obligations.ResetCommandsComplete := by
  unfold Obligations.ResetCommandsComplete
  refine ⟨fun s mb c hw hp hlv hpt hcore hz hpart hidle => exec_of_waiting hw rfl ?_,
    fun s mb c hw hp hlv hpt hcore hz hpart hidle hrec hrest hdark hbusy => exec_of_waiting hw rfl ?_,
    fun s mb c lv p hw hp hlv hlv' hpt hp2 hmode hcore hz hpart hidle hrec hrest hdark => exec_of_waiting hw rfl ?_,
    fun s at_ hno => congrArg Host.Outcome.next ?_, fun s at_ mb core start c s2 hreset hrun hs2 => congrArg Host.Outcome.next ?_,
    fun s at_ failed hno => congrArg Host.Outcome.next ?_, fun s at_ failed p ts s1 f lost s4 hp hts hs1 hf hs4 =>
      ⟨fun c hc => congrArg Host.Outcome.next ?_, fun hc => congrArg Host.Outcome.next ?_⟩,
    fun s i x hx hrun hcold hstage hsr hlost => ?_, fun s i x hx hno => congrArg Host.Outcome.next ?_⟩
  · rw [resetLevel_judged hp (by omega) hz (by simp [hlv, hpt]) (by simp [hlv, hcore]) (.inl hlv) ⟨hpart, hidle⟩, if_pos hlv]
  · rw [resetLevel_judged hp (by omega) hz (by simp [hlv, hpt]) (by simp [hlv, hrec, hcore, hbusy]) (.inr ⟨hrec, hrest, hdark⟩) ⟨hpart, hidle⟩,
      if_neg (by omega), if_pos hlv]
  · subst hlv hpt
    rw [resetLevel_judged hp (by omega) hz (by rw [if_pos hlv']; exact ⟨hp2, hmode⟩) (by rw [if_neg (by omega)]; exact hcore)
      (.inr ⟨hrec, hrest, hdark⟩) ⟨hpart, hidle⟩, if_neg (by omega), if_neg (by omega)]
  · unfold coreResetEnd
    rw [hno]
  · have hc : startedCmd s2 mb 0x0700 = some c := startedCmd_running (by rw [hs2]; exact hrun)
    have hnow : s2.nowNs = max s.nowNs at_ := by rw [hs2]; rfl
    unfold coreResetEnd
    rw [hreset]
    dsimp only
    rw [← hs2, hc, ← hnow]
  · unfold partitionResetEnd
    rw [hno]
  · rw [partitionResetEnd_some hp hts hs1 hf hs4, hc]
  · rw [partitionResetEnd_some hp hts hs1 hf hs4, hc]
  · obtain ⟨t, ht, hkeeps⟩ := stackTimeout_lost hx ⟨hrun, by simp [hcold], hstage, hsr, by simp [hlost]⟩
    exact ⟨t, congrArg Host.Outcome.next ht, hkeeps⟩
  · unfold stackTimeout
    rw [hx]
    dsimp only
    rw [if_neg]
    rintro ⟨hrun, hcold, hstage, hsr, hlost⟩
    rcases hno with h | h | h | h | h <;> simp_all

end Sys2Proof.Machine
end

section
/-! PROOFS. Bring-up. -/

namespace Sys2Proof.Machine

/-! ### Bring-up -/

/-- A stage whose work runs now: its result, or the failure it ended with (R415). -/
theorem bringupStageEnd_runs {s : State} {r : StageEnd} (hrun : s.boot.running = true) (hfail : s.boot.failed = false) (hstage : s.boot.stage < 9)
    (hwait : stageWaits s = false) (hcode : r.code = 0 ∨ codeStage r.code = s.boot.stage) :
    bringupStageEnd r s = if r.code ≠ 0 then stageFail r.code 0 (s.timeTo ((s.boot.elapsedUs + r.durationUs) * 1000))
      else if (stageWork r (s.timeTo ((s.boot.elapsedUs + r.durationUs) * 1000))).code ≠ 0 then
        stageFail (stageWork r (s.timeTo ((s.boot.elapsedUs + r.durationUs) * 1000))).code
          (stageWork r (s.timeTo ((s.boot.elapsedUs + r.durationUs) * 1000))).mapped
          (stageWork r (s.timeTo ((s.boot.elapsedUs + r.durationUs) * 1000))).st
      else stageNext (stageWork r (s.timeTo ((s.boot.elapsedUs + r.durationUs) * 1000))).mapped
        (stageWork r (s.timeTo ((s.boot.elapsedUs + r.durationUs) * 1000))).st := by
  unfold bringupStageEnd
  have hgo : ¬ (r.code ≠ 0 ∧ codeStage r.code ≠ s.boot.stage) := fun h => hcode.elim h.1 h.2
  rw [if_neg (by simp [hrun, hfail, hwait, hgo]; omega)]

/-- A stage that fails holds with its code (R416). -/
theorem stageFail_state (code mapped : Nat) (s : State) :
    (stageFail code mapped s).boot.failed = true ∧ (stageFail code mapped s).boot.code = code ∧ (stageFail code mapped s).boot.stage = s.boot.stage
      ∧ (stageFail code mapped s).nowNs = s.nowNs ∧ (stageFail code mapped s).host.mcRuns = s.host.mcRuns
      ∧ (stageFail code mapped s).trust = s.trust := by
  unfold stageFail noteStatus
  split
  · exact ⟨rfl, rfl, rfl, rfl, rfl, rfl⟩
  · exact ⟨rfl, rfl, rfl, rfl, rfl, rfl⟩

/-- A stage other than S7 and S8 gives way to the next and changes nothing else of these. -/
theorem stageNext_state (mapped : Nat) (s : State) (h8 : s.boot.stage + 1 ≠ 8) (h9 : s.boot.stage + 1 ≠ 9) :
    (stageNext mapped s).boot.stage = s.boot.stage + 1 ∧ (stageNext mapped s).boot.failed = s.boot.failed
      ∧ (stageNext mapped s).boot.elapsedUs = s.nowNs / 1000
      ∧ (stageNext mapped s).boot.recovery = (s.boot.recovery || decide (s.boot.stage + 1 = 2))
      ∧ (stageNext mapped s).flash = s.flash ∧ (stageNext mapped s).hbm = s.hbm ∧ (stageNext mapped s).loft = s.loft
      ∧ (stageNext mapped s).jobs = s.jobs := by
  unfold stageNext
  dsimp only
  rw [if_neg h8, if_neg h9]
  unfold noteStatus
  split
  · exact ⟨rfl, rfl, rfl, rfl, rfl, rfl, rfl, rfl⟩
  · exact ⟨rfl, rfl, rfl, rfl, rfl, rfl, rfl, rfl⟩

/-- S3 measures again only for a tower that a bond drop closed (R404). -/
theorem stage3_open {s : State} (drops : List (Nat × Nat)) (h0 : s.therm.closed.t0 = false) (h1 : s.therm.closed.t1 = false) :
    stage3 drops s = { st := s, code := 0, mapped := 0 } := by
  unfold stage3 bothTowers remeasure
  simp [h0, h1]

/-- Boot verification names the first check that fails (R441, Table 15.5). -/
theorem bootVerify_eq (s : State) :
    bootVerify s = if imageHeaderOk (memRead s.flash.image 0 256) = false ∨ imageCrcOk (imageBytes s.flash.image) = false then 0x6001
      else if imageSigOk s (imageBytes s.flash.image) = false then 0x6002
      else if fieldAt (imageBytes s.flash.image) 0xC 1 < s.fuses.svnFloor then 0x6003 else 0 := by
  unfold bootVerify imageSvnOk
  dsimp only
  cases imageHeaderOk (memRead s.flash.image 0 256) <;> cases imageCrcOk (imageBytes s.flash.image)
    <;> cases imageSigOk s (imageBytes s.flash.image) <;> simp

/-- A block signed with a revoked key does not verify (R437). -/
theorem imageSigOk_revoked {s : State} {img : List Byte} (h : s.fuses.revoked.getLsbD (fieldAt img 0xD 1) = true) : imageSigOk s img = false := by
  unfold imageSigOk
  dsimp only
  rw [h]
  simp

/-- Settles O28: a stage's end by its failure code, verification by the first check that fails. -/
theorem bringupStages : Obligations.BringupStages := by
  unfold Obligations.BringupStages
  refine ⟨fun s r hrun hfail hstage hwait hcode hat => ?_, fun s r w hrun hfail hstage hwait hcode hw => congrArg Host.Outcome.next ?_,
    fun s r hno => congrArg Host.Outcome.next ?_, fun s r hrun hfail hstage hwait hcode => ?_,
    fun s r hrun hfail hstage hwait hcode hbad => ?_, fun s => ⟨fun h => ?_, fun h hc => ?_, fun h hc hs => ?_, fun h hc hs => ?_,
      fun slot hslot hlt hrev => ?_⟩⟩
  · have hexec := bringupStageEnd_runs hrun hfail hstage hwait (.inr hat)
    rw [if_pos hcode] at hexec
    obtain ⟨h1, h2, h3, h4, -, -⟩ := stageFail_state r.code 0 (s.timeTo ((s.boot.elapsedUs + r.durationUs) * 1000))
    exact ⟨_, congrArg Host.Outcome.next hexec, h1, h2, h3, h4⟩
  · rw [bringupStageEnd_runs hrun hfail hstage hwait (.inl hcode), if_neg (by simp [hcode]), ← hw]
    by_cases h : w.code = 0 <;> simp [h]
  · unfold bringupStageEnd
    rw [if_pos]
    rcases hno with h | h | h | h | h <;> simp [h]
  · have hexec := bringupStageEnd_runs hrun hfail (by omega) hwait (.inl hcode)
    have hwork : stageWork r (s.timeTo ((s.boot.elapsedUs + r.durationUs) * 1000))
        = { st := s.timeTo ((s.boot.elapsedUs + r.durationUs) * 1000), code := 0, mapped := 0 } := by
      unfold stageWork
      rcases hstage with h | ⟨h, h0, h1⟩
      · simp [h]
      · simp only [State.timeTo, h]
        exact stage3_open r.drops h0 h1
    rw [if_neg (by simp [hcode]), hwork, if_neg (by simp)] at hexec
    obtain ⟨k1, k2, k3, k4, k5, k6, k7, k8⟩ := stageNext_state 0 (s.timeTo ((s.boot.elapsedUs + r.durationUs) * 1000))
      (show s.boot.stage + 1 ≠ 8 by omega) (show s.boot.stage + 1 ≠ 9 by omega)
    refine ⟨_, congrArg Host.Outcome.next hexec, k1, k2.trans hfail, k3, k4.trans ?_, k5, k6, k7, k8⟩
    have h2 : ¬ s.boot.stage + 1 = 2 := by omega
    show (s.boot.recovery || decide (s.boot.stage + 1 = 2)) = s.boot.recovery
    simp [h2]
  · have hexec := bringupStageEnd_runs hrun hfail (by omega) hwait (.inl hcode)
    have hwork : stageWork r (s.timeTo ((s.boot.elapsedUs + r.durationUs) * 1000))
        = { st := s.timeTo ((s.boot.elapsedUs + r.durationUs) * 1000)
            code := bootVerify (s.timeTo ((s.boot.elapsedUs + r.durationUs) * 1000)), mapped := 0 } := by
      unfold stageWork
      rw [show (s.timeTo ((s.boot.elapsedUs + r.durationUs) * 1000)).boot.stage = 6 from hstage]
      exact if_pos hbad
    rw [if_neg (by simp [hcode]), hwork, if_pos hbad] at hexec
    obtain ⟨h1, h2, -, -, h5, h6⟩ := stageFail_state (bootVerify (s.timeTo ((s.boot.elapsedUs + r.durationUs) * 1000))) 0
      (s.timeTo ((s.boot.elapsedUs + r.durationUs) * 1000))
    exact ⟨_, congrArg Host.Outcome.next hexec, h1, h2, h5, h6⟩
  all_goals rw [bootVerify_eq]
  · rw [if_pos (.inl h)]
  · rw [if_pos (.inr hc)]
  · rw [if_neg (by simp [h, hc]), if_pos hs]
  · rw [if_neg (by simp [h, hc]), if_neg (by simp [hs])]
    split
    · next hlt => simpa using hlt
    · next hle => simpa using hle
  · rw [imageSigOk_revoked (hslot ▸ hrev)]
    split <;> simp

end Sys2Proof.Machine
end

section
/-! PROOFS. Reports and identity memories. -/

namespace Sys2Proof.Machine

/-! ### Reports and identity memories -/

/-- Settles O29: each command passes its checks and reads. -/
theorem bringupReadsComplete : Obligations.BringupReadsComplete := by
  unfold Obligations.BringupReadsComplete
  refine ⟨fun s mb c hw hp => exec_of_waiting hw rfl (judged_ok (by simp [hp.length, hp.hdrBad])),
    fun s mb c r src idx bank page n off live hw hp hsrc hidx hfl hpage hbank hz5 hoff hn hzA hn1 hoff255 hend hsrc3 hs01 hs2 hs3 hnot3 hlive => ?_,
    fun s off n hstage => ⟨_, if_pos hstage, rfl, rfl, rfl⟩, fun s mb c all hw hp hfl hz hall => exec_of_waiting hw rfl ?_⟩
  · have hlive' : (decide (src = 3) && bitOf (par c 2 1) 0) = live := by
      have hbit : bitOf (par c 2 1) 0 = decide (par c 2 1 = 1) := bitOf_resume hfl
      rw [hlive, hbit, Bool.decide_and]
    have hindex : (if src = 2 then decide (15 < idx ∨ 16 < off + n) else if src = 3 then decide (5 < idx) else decide (idx ≠ 0)) = false := by
      split
      · next h => have := hs2 h; simp; omega
      · split
        · next h => have := hs3 h; simp; omega
        · next h2 h3 => simp [hs01 (by omega)]
    have hplace : (decide (src ≠ 3) && (decide (page ≠ 0) || decide (bank ≠ 0))) = false := by
      by_cases h : src = 3
      · simp [h]
      · simp [hnot3 h]
    have hchecks : ([(decide (c.length ≠ 16), stBadLength),
        (hdrBad c || decide (3 < src ∨ 2 ≤ par c 2 1 ∨ 255 < off ∨ n < 1 ∨ 256 < off + n) || parRes c 5 1 || parRes c 0xA 6
          || (if src = 2 then decide (15 < idx ∨ 16 < off + n) else if src = 3 then decide (5 < idx) else decide (idx ≠ 0))
          || (decide (src ≠ 3) && (decide (page ≠ 0) || decide (bank ≠ 0))), stBadField)] : List (Bool × Nat)).all (fun x => !x.1) = true := by
      rw [hindex, hplace, hz5.parRes, hzA.parRes, hp.hdrBad]
      simp [hp.length]
      omega
    refine ⟨fun hnone => exec_of_waiting hw rfl ?_, fun x hx => exec_of_waiting hw rfl ?_⟩
    · unfold identRead
      dsimp only
      rw [hsrc, hidx, hpage, hbank, hoff, hn, hlive', hnone]
      exact judged_fail c [_, _] [] stWrongState s _ hchecks
    · unfold identRead
      dsimp only
      rw [hsrc, hidx, hpage, hbank, hoff, hn, hlive', hx]
      refine judged_pass c _ s _ ((List.all_append (xs := [_, _]) (ys := [_])).trans ?_)
      rw [hchecks]
      rfl
  · subst hall
    exact judged_ok (by simp [hp.length, hp.hdrBad, hz.parRes]; omega)

end Sys2Proof.Machine
end

section
/-! PROOFS. Firmware and attestation. -/

namespace Sys2Proof.Machine

/-! ### Firmware and attestation -/

theorem length_flatMap_const {α β : Type} (l : List α) (f : α → List β) (n : Nat) (h : ∀ x ∈ l, (f x).length = n) :
    (l.flatMap f).length = l.length * n := by
  rw [List.length_flatMap, List.map_congr_left (g := fun _ => n) h]
  simp [Nat.mul_comm]

/-- Settles O30: each command by its checks, the end of a write by the slot written. -/
theorem firmwareCommandsComplete : Obligations.FirmwareCommandsComplete := by
  unfold Obligations.FirmwareCommandsComplete
  refine ⟨fun s mb c n have_ hw hp hn hn1 hn2 hfl hhave hoff hfit hz hstage hidle => exec_of_waiting hw rfl ?_,
    fun s mb c img hw hp himg hfl hz hstage hstaged hidle hn hlen hhdr hcrc hsig hsvn => ?_, fun s ok hno => congrArg Host.Outcome.next ?_,
    fun s w c hwr hrun => ⟨congrArg Host.Outcome.next ?_, congrArg Host.Outcome.next ?_⟩, fun s mb c hw hp hkeys => ?_,
    fun s mb c svn rev hw hp hsvn hfl hrun hz hle hrev hkill => exec_of_waiting hw rfl ?_⟩
  · have hbit : bitOf (par c 8 4) 0 = decide (par c 8 4 = 1) := bitOf_resume hfl
    unfold fwStage
    simp only [hoff, hn, hbit, decide_eq_true_eq, ← hhave]
    refine judged_ok ?_
    simp [hp.length, hp.hdrBad, hz.parRes, hidle]
    omega
  · have hbit : bitOf (par c 4 4) 0 = decide (par c 4 4 = 1) := bitOf_resume hfl
    subst himg
    have hbody : fwCommit c s = if bitOf (par c 4 4) 0 then complete c stDone (commitResult (imageBytes s.trust.stage) 0) s
        else ((markStarted c s).onFlash (fun f => { f with image := s.trust.stage.filter (fun e => decide (256 ≤ e.1)) })).onTrust (fun t => { t with
          writing := some { mb := c.mb, startNs := s.nowNs } }) := by
      refine judged_ok ?_
      simp [hp.length, hp.hdrBad, hz.parRes, hidle, hn, hlen, hhdr, hcrc, hsig, hsvn, hstaged]
      omega
    refine ⟨fun h1 => exec_of_waiting hw rfl ?_, fun h0 => exec_of_waiting hw rfl ?_⟩
    · rw [hbody, hbit, h1]
      rfl
    · rw [hbody, hbit, h0]
      rfl
  · unfold flashWriteEnd
    rw [hno]
  · have hc : startedCmd (s.onTrust fun t => { t with writing := none }) w.mb 0x0A01 = some c := startedCmd_running hrun
    unfold flashWriteEnd
    rw [hwr]
    simp [hc]
  · have hc : startedCmd ((s.onTrust fun t => { t with writing := none }).onFlash fun f => { f with image := s.trust.stage }) w.mb 0x0A01 = some c :=
      startedCmd_running hrun
    unfold flashWriteEnd
    rw [hwr]
    simp [hc]
  · refine ⟨_, ?_, exec_of_waiting hw rfl (judged_ok (by simp [hp.length, hp.hdrBad]))⟩
    have hkey : (s.fuses.keyHash.flatMap (fun k => sliceBytes k 0 32)).length = 4 * 32 := by
      rw [length_flatMap_const _ _ 32 (fun k _ => sliceBytes_length k 0 32), hkeys]
    simp only [List.length_append, leBytes_length, sliceBytes_length, hkey]
  · have hbit : bitOf (par c 1 1) 0 = decide (par c 1 1 = 1) := bitOf_resume hfl
    subst hrev
    unfold fwRollbackCommit
    simp only [hbit, decide_eq_true_eq, hsvn]
    refine judged_ok ?_
    simp [hp.length, hp.hdrBad, hz.parRes, hrun]
    refine ⟨⟨hfl, fun h1 => ⟨?_, (hkill h1).2⟩⟩, hrun ▸ hle⟩
    rw [if_pos h1]
    exact (hkill h1).1

/-- Settles O31: a quote by the signatures left to its key. -/
theorem attestationCompletes : Obligations.AttestationCompletes := by
  unfold Obligations.AttestationCompletes
  refine ⟨fun s mb c gen top n hw hp hz hjob hidle hkey => exec_of_waiting hw rfl ?_,
    fun s mb c hw hp hz hjob hidle hnone => exec_of_waiting hw rfl ?_,
    fun s gen top n hkey hn => ?_, fun gen top n => ?_, fun s mb c cert hw hp hcert => exec_of_waiting hw rfl ?_,
    fun s mb c hw hp hcert => exec_of_waiting hw rfl ?_, fun s => rfl, fun s q t h => ?_⟩
  · refine (judged_ok ?_).trans ?_
    · simpa [hp.length, hp.hdrBad, hz.parRes, hidle, hkey] using hjob.resolve_left
    · simp only [hkey]
  · unfold attestQuote
    rw [hnone]
    exact judged_fail c [_, _, _] [] stNoSpace s _ (by simpa [hp.length, hp.hdrBad, hz.parRes, hidle] using hjob)
  · unfold readyKey
    rw [hkey]
    exact if_pos hn
  · unfold hssSignature
    simp [beBytes, leBytes_length]
  · refine (judged_ok ?_).trans ?_
    · simp [hp.length, hp.hdrBad, hcert]
    · rw [hcert]
      rfl
  · unfold attestCert
    rw [hcert]
    exact judged_fail c [_, _] [] stDeviceFault s _ (by simp [hp.length, hp.hdrBad])
  · unfold takeLeaf at h
    dsimp only at h
    split at h
    · split at h
      · obtain ⟨-, rfl⟩ := Prod.mk.inj (Option.some.inj h)
        exact .inl rfl
      · exact absurd h (by simp)
    · split at h
      · obtain ⟨-, rfl⟩ := Prod.mk.inj (Option.some.inj h)
        exact .inr rfl
      · exact absurd h (by simp)

end Sys2Proof.Machine
end

section
/-! PROOFS. The module's power sequence. -/

namespace Sys2Proof.Machine

/-! ### The module -/

theorem timeZero_idle {s : State} (h : s.mod.powerGood = false ∨ s.mod.rail = false ∨ s.mod.pwrEn = false) : timeZero s = s := by
  unfold timeZero
  refine if_neg ?_
  rintro ⟨hrail, hgood, hen, -, -⟩
  rcases h with h | h | h
  · exact absurd hgood (by simp [h])
  · exact absurd hrail (by simp [h])
  · exact absurd hen (by simp [h])

theorem timeZero_reached {s : State} (hrail : s.mod.rail = true) (hgood : s.mod.powerGood = true) (hen : s.mod.pwrEn = true)
    (hperst : s.mod.perst = false) (hrun : s.boot.running = false) :
    timeZero s = { s with nowNs := 0, boot := { s.boot with running := true, elapsedUs := 0, stages := [] } } := by
  unfold timeZero
  exact if_pos ⟨hrail, hgood, hen, by simp [hperst], by simp [hrun]⟩

theorem railOn_enabled {s : State} (hin : s.mod.input = .good) (hen : s.mod.pwrEn = true) (hlatch : s.mod.latch = none)
    (hoff : s.mod.moduleOff = false) : railOn s = s.onMod (fun x => { x with rail := true }) := by
  unfold railOn
  exact if_pos ⟨hin, hen, hlatch, by simp [hoff]⟩

theorem railOn_held {s : State} (h : s.mod.pwrEn = false ∨ s.mod.latch.isSome = true) : railOn s = s := by
  unfold railOn
  refine if_neg ?_
  rintro ⟨-, hen, hlatch, -⟩
  rcases h with h | h
  · exact absurd hen (by simp [h])
  · rw [hlatch] at h
    exact absurd h (by simp)

theorem railLost_on {s : State} (source : Nat) (h : s.mod.rail = true) : railLost source s = coldReset source false (railOff s) := if_pos h

theorem railLost_off {s : State} (source : Nat) (h : s.mod.rail = false) : railLost source s = s := if_neg (by simp [h])

/-- Settles O32: by the inputs that the rail and time zero take. -/
theorem powerSequence : Obligations.PowerSequence := by
  unfold Obligations.PowerSequence
  refine ⟨?enable, ?latched, ?railGood, ?perstOff, ?perstOn, ?perstIdle, fun s h => congrArg Host.Outcome.next (if_neg (by simp [h])),
    fun s h => congrArg Host.Outcome.next (if_pos h), fun s h => congrArg Host.Outcome.next (if_neg (by simp [h])), ?disable, ?disableIdle,
    ?lowIdle, fun s h => congrArg Host.Outcome.next (if_neg h), ?low, ?back, fun s h => congrArg Host.Outcome.next (if_neg h), ?backIdle,
    fun s h => congrArg Host.Outcome.next (if_neg h), ?rise, ?riseIdle, fun s h => congrArg Host.Outcome.next (if_pos h), ?clear, ?clearIdle,
    ?standby, fun s source on => ⟨rfl, rfl, rfl, rfl, rfl, rfl⟩⟩
  case enable =>
    intro s hin hen hlatch hoff hgood hrun
    refine congrArg Host.Outcome.next ?_
    unfold pwrEnAssert
    rw [if_neg (by simp [hen])]
    dsimp only
    rw [railOn_enabled (s := s.onMod fun m => { m with pwrEn := true, moduleOff := m.moduleOff && !m.moduleOffCycled, moduleOffCycled := false })
      hin rfl hlatch (by simp [hoff])]
    refine Eq.trans (timeZero_idle ?_) ?_
    · exact .inl hgood
    · simp [State.onMod, hoff]
  case latched =>
    intro s hin hen hlatch hrail
    refine ⟨s.onMod (fun m => { m with pwrEn := true, moduleOff := m.moduleOff && !m.moduleOffCycled, moduleOffCycled := false }),
      congrArg Host.Outcome.next ?_, hrail, rfl⟩
    unfold pwrEnAssert
    rw [if_neg (by simp [hen])]
    dsimp only
    refine Eq.trans (congrArg timeZero (railOn_held ?_)) (timeZero_idle ?_)
    · exact .inr hlatch
    · exact .inr (.inl hrail)
  case railGood =>
    intro s hrail hen hperst hrun
    exact ⟨_, congrArg Host.Outcome.next ((if_pos hrail).trans (timeZero_reached hrail rfl hen hperst hrun)), rfl, rfl, rfl⟩
  case perstOff =>
    intro s hrail hen hgood hrun
    exact ⟨_, congrArg Host.Outcome.next (timeZero_reached hrail hgood hen rfl hrun), rfl, rfl, rfl⟩
  case perstOn =>
    intro s hrail hperst
    exact ⟨_, congrArg Host.Outcome.next (if_pos ⟨hrail, by simp [hperst]⟩), rfl, hrail⟩
  case perstIdle =>
    intro s h
    exact congrArg Host.Outcome.next (if_neg (by rcases h with h | h <;> simp [h]))
  case disable =>
    intro s hen hrail
    exact congrArg Host.Outcome.next ((if_pos hen).trans (railLost_on 3 hrail))
  case disableIdle =>
    intro s hen hrail
    exact congrArg Host.Outcome.next ((if_pos hen).trans (railLost_off 3 hrail))
  case lowIdle =>
    intro s hin hrail
    exact congrArg Host.Outcome.next ((if_pos hin).trans (railLost_off 4 hrail))
  case low =>
    intro s hin hrail
    exact congrArg Host.Outcome.next ((if_pos hin).trans (railLost_on 4 hrail))
  case back =>
    intro s hin hen hlatch hoff hgood
    refine congrArg Host.Outcome.next ((if_pos hin).trans ?_)
    rw [railOn_enabled (s := s.onMod fun m => { m with input := .good }) rfl hen hlatch hoff]
    refine Eq.trans (timeZero_idle ?_) rfl
    exact .inl hgood
  case backIdle =>
    intro s hin hen
    refine congrArg Host.Outcome.next ((if_pos hin).trans ?_)
    refine Eq.trans (congrArg timeZero (railOn_held ?_)) (timeZero_idle ?_)
    · exact .inl hen
    · exact .inr (.inr hen)
  case rise =>
    intro s hin hen hlatch hoff
    exact congrArg Host.Outcome.next ((if_pos hin).trans (railOn_enabled rfl hen hlatch hoff))
  case riseIdle =>
    intro s hin hen
    exact congrArg Host.Outcome.next ((if_pos hin).trans (railOn_held (.inl hen)))
  case clear =>
    intro s hen hlatch
    exact congrArg Host.Outcome.next ((if_neg (by simp [hen])).trans (if_pos hlatch))
  case clearIdle =>
    intro s hen hlatch
    exact congrArg Host.Outcome.next ((if_neg (by simp [hen])).trans (if_neg (by simp [hlatch])))
  case standby =>
    intro s hin
    refine ⟨standbyLoss s, rfl, ?_⟩
    unfold standbyLoss
    rw [if_neg hin]
    dsimp only
    split
    · exact ⟨rfl, rfl, rfl, rfl, rfl, rfl, rfl, rfl, rfl⟩
    · exact ⟨rfl, rfl, rfl, rfl, rfl, rfl, rfl, rfl, rfl⟩

end Sys2Proof.Machine
end

section
/-! PROOFS. The buses of the module. -/

namespace Sys2Proof.Machine

/-! ### The buses of the module -/

/-- A field at the place a list's part begins. -/
theorem fieldAt_append_right (pre bs : List Byte) (off n : Nat) (h : off = pre.length) : fieldAt (pre ++ bs) off n = fieldAt bs 0 n := by
  subst h
  simp [fieldAt]

theorem fieldAt_leBytes (v n : Nat) (rest : List Byte) : fieldAt (leBytes v n ++ rest) 0 n = v % 256 ^ n := by
  have h : (leBytes v n ++ rest).take n = leBytes v n := by
    rw [List.take_append_of_le_length (by rw [leBytes_length]), List.take_of_length_le (by rw [leBytes_length])]
  simp only [fieldAt, List.drop_zero, h, leNat_leBytes]

/-- The telemetry registers hold their magic and SEQ (Table 17.5). -/
theorem telemetryBytes_fields (s : State) (seq : Nat) (beat : Bool) :
    (telemetryBytes s seq beat).length = 64 ∧ fieldAt (telemetryBytes s seq beat) 0 4 = 0x4D4C4554
      ∧ fieldAt (telemetryBytes s seq beat) 6 2 = seq % 65536 := by
  unfold telemetryBytes
  refine ⟨?_, ?_, ?_⟩
  · simp only [List.length_append, leBytes_length, sliceBytes_length]
  · simp only [List.append_assoc]
    rw [fieldAt_leBytes]
    rfl
  · simp only [List.append_assoc]
    rw [← List.append_assoc (leBytes 1 1), ← List.append_assoc (leBytes 0x4D4C4554 4),
      fieldAt_append_right _ _ 6 2 (by simp [leBytes_length]), fieldAt_leBytes]
    rfl

/-- A hexadecimal digit is read back as its value. -/
theorem hexValue_digit : ∀ d, d < 16 → hexValue (BitVec.ofNat 8 (if d < 10 then 0x30 + d else 0x37 + d)) = d := by decide

/-- The digits of a list, each below 16, make a number below 16 to its length. -/
theorem foldl_digits_lt (ds : List Nat) (n : Nat) (h : ∀ d ∈ ds, d < 16) : ds.foldl (fun n d => n * 16 + d) n < (n + 1) * 16 ^ ds.length := by
  induction ds generalizing n with
  | nil => simp
  | cons d ds ih =>
    have hd := h d List.mem_cons_self
    refine (ih (n * 16 + d) (fun x hx => h x (List.mem_cons_of_mem _ hx))).trans_le ?_
    rw [List.length_cons, Nat.pow_succ', ← Nat.mul_assoc]
    exact Nat.mul_le_mul_right _ (by omega)

/-- MODULE_SERIAL's digits are the sequence number (Table 14.9). -/
theorem sequenceNumber_digits (head tail : List Byte) (ds : List Nat) (hh : head.length = 16) (hl : ds.length = 8) (h : ∀ d ∈ ds, d < 16) :
    sequenceNumber (head ++ ds.map (fun d => BitVec.ofNat 8 (if d < 10 then 0x30 + d else 0x37 + d)) ++ tail)
      = ds.foldl (fun n d => n * 16 + d) 0 := by
  have hslice : sliceBytes (head ++ ds.map (fun d => BitVec.ofNat 8 (if d < 10 then 0x30 + d else 0x37 + d)) ++ tail) 0x10 8
      = ds.map (fun d => BitVec.ofNat 8 (if d < 10 then 0x30 + d else 0x37 + d)) := by
    unfold sliceBytes
    rw [List.append_assoc, ← hh, List.drop_left, List.take_append_of_le_length (by simp [hl]), List.take_of_length_le (by simp [hl])]
    simp [hl]
  have hfold : (ds.map (fun d => BitVec.ofNat 8 (if d < 10 then 0x30 + d else 0x37 + d))).foldl (fun n b => n * 16 + hexValue b) 0
      = ds.foldl (fun n d => n * 16 + d) 0 := by
    rw [List.foldl_map]
    refine List.foldl_ext _ _ _ fun n d hd => ?_
    rw [hexValue_digit d (h d hd)]
  have hlt := foldl_digits_lt ds 0 h
  rw [hl] at hlt
  unfold sequenceNumber
  rw [hslice, hfold, Nat.mod_eq_of_lt (by omega)]

/-- Settles O33: bus by bus; the telemetry's fields are read back from its bytes. -/
theorem moduleBuses : Obligations.ModuleBuses := by
  unfold Obligations.ModuleBuses
  refine ⟨?off, ?offIdle, ?noAddress, ?other, ?entdaa, ?entdaaIdle, ?select, fun s hin => congrArg Host.Outcome.next (if_pos hin),
    fun s hin => congrArg Host.Outcome.next (if_neg hin), fun s hin => congrArg Host.Outcome.next (if_neg hin), ?extest, ?telemetry,
    fun head tail ds hh hl h => sequenceNumber_digits head tail ds hh hl h⟩
  case off =>
    intro s haddr hin hrail
    exact congrArg Host.Outcome.next ((if_pos ⟨haddr, hin, rfl, rfl, rfl⟩).trans (railLost_on 3 hrail))
  case offIdle =>
    intro s haddr hin hrail
    exact congrArg Host.Outcome.next ((if_pos ⟨haddr, hin, rfl, rfl, rfl⟩).trans (railLost_off 3 hrail))
  case noAddress =>
    intro s o d0 d1 hnone
    exact congrArg Host.Outcome.next (if_neg (by simp [hnone]))
  case other =>
    intro s o d0 d1 hbytes
    refine congrArg Host.Outcome.next (if_neg ?_)
    rintro ⟨-, -, ho, h0, h1⟩
    rcases hbytes with h | h | h
    · exact h ho
    · exact h h0
    · exact h h1
  case entdaa =>
    intro s a hin hnone
    exact congrArg Host.Outcome.next (if_pos ⟨hin, hnone⟩)
  case entdaaIdle =>
    intro s a b hsome
    exact congrArg Host.Outcome.next (if_neg (by simp [hsome]))
  case select =>
    intro s x hin hx
    refine congrArg Host.Outcome.next ((if_neg hin).trans ?_)
    rcases hx with rfl | rfl | ⟨rfl, hen⟩
    · rfl
    · rfl
    · exact if_neg (by simp [hen])
  case extest =>
    intro s hin hen
    exact congrArg Host.Outcome.next ((if_neg hin).trans (if_pos hen))
  case telemetry =>
    intro s v a pv pa w0 w1 hin
    refine ⟨telemetryRefresh v a pv pa w0 w1 s, rfl, ?_⟩
    unfold telemetryRefresh
    rw [if_neg hin]
    dsimp only
    generalize hs1 : State.onMod s _ = s1
    obtain ⟨hlen, hmagic, hseq⟩ := telemetryBytes_fields s1 ((s.mod.telemSeq + 1) % 65536)
      (decide ((if (s.host.mcRuns && decide (s.host.heartbeat ≠ s.mod.telemBeat)) = true then 0 else min 10 (s.mod.telemBeatAge + 1)) < 10))
    rw [Nat.mod_mod] at hseq
    refine ⟨?_, ?_, ?_, ?_, ?_, ?_, hlen, hmagic, hseq, ?_, ?_, ?_⟩
    all_goals
      subst hs1
      rfl

end Sys2Proof.Machine
end

section
/-! PROOFS. Counters. -/

namespace Sys2Proof.Machine

/-! ### Counters -/

/-- A snapshot fills its slot at most (Table 16.7). -/
theorem snapBytes_length_le (s : State) (seq mask : Nat) : (snapBytes s seq mask).length ≤ 0x4000 := by
  have hgroup : ∀ i, ((List.range (groupPlace (i + 1)).2).flatMap (fun k =>
      if bitOf mask i then leBytes (tabGetD s.obs.ctrs ((i + 1) * 65536 + k) 0).toNat 8 else leBytes 0 8)).length = (groupPlace (i + 1)).2 * 8 := by
    intro i
    rw [length_flatMap_const _ _ 8 (fun k _ => by split <;> rw [leBytes_length]), List.length_range]
  unfold snapBytes
  simp only [List.length_append, leBytes_length, List.length_replicate, List.length_flatMap, hgroup]
  decide

/-- Settles O34: CTR.CONFIG clears and then enables; the rest by whether the group is enabled. -/
theorem counterCommandsComplete : Obligations.CounterCommandsComplete := by
  unfold Obligations.CounterCommandsComplete
  refine ⟨fun s mb c t u hw hp hfl hz ht hu => exec_of_waiting hw rfl ?_, fun s mb c mask hw hp hslot hz hmask => exec_of_waiting hw rfl ?_,
    fun s group pos n h => if_neg (by simp [h]), fun s group pos n h => if_pos h, snapBytes_length_le⟩
  · have hclear : bitOf (par c 0 1) 1 = decide (par c 0 1 / 2 = 1) := by
      have hcases : par c 0 1 = 0 ∨ par c 0 1 = 1 ∨ par c 0 1 = 2 ∨ par c 0 1 = 3 := by omega
      rcases hcases with h | h | h | h <;> rw [h] <;> rfl
    have henable : bitOf (par c 0 1) 0 = decide (par c 0 1 % 2 = 1) := by simp [bitOf, Nat.testBit_zero]
    subst hu ht
    unfold ctrConfig
    simp only [hclear, henable, decide_eq_true_eq]
    refine judged_ok ?_
    simp [hp.length, hp.hdrBad, hz.parRes]
    omega
  · subst hmask
    refine judged_ok ?_
    simp [hp.length, hp.hdrBad, hz.parRes]
    omega

end Sys2Proof.Machine
end

section
/-! PROOFS. Trace. -/

namespace Sys2Proof.Machine

/-! ### Trace -/

/-- Settles O35: each command passes its checks; a record by the room left in its buffer. -/
theorem traceCommandsComplete : Obligations.TraceCommandsComplete := by
  unfold Obligations.TraceCommandsComplete
  refine ⟨fun s mb c n host same hw hp hfl hsrc hz hn hlo hhi hpage hb0 hb1 hring hsame hon => exec_of_waiting hw rfl ?_,
    fun s mb c hw hp hfl hsrc hz => exec_of_waiting hw rfl ?_,
    fun s mb c s1 s2 hw hp hfl hz hcfg hr0 hr1 hs1 hs2 => exec_of_waiting hw rfl ?_,
    fun s t r rs hbuf hn => congrArg Host.Outcome.next ?_, fun s t hidle => congrArg Host.Outcome.next ?_,
    fun r b hloss hlen => ?_, fun r b hloss hlen => ?_⟩
  · have hbit0 : bitOf (par c 0 1) 0 = true := by rw [hfl]; cases host <;> rfl
    have hbit1 : bitOf (par c 0 1) 1 = host := by rw [hfl]; cases host <;> rfl
    have hlt : par c 0 1 < 4 := by rw [hfl]; split <;> omega
    unfold traceConfig
    dsimp only
    rw [hbit0, hbit1, hn, ← hsame]
    refine judged_ok ?_
    intro x hx
    fin_cases hx
    · simp [hp.length]
    · have hrings : (!host && (!ringOk s (par c 8 8) n || !ringOk s (par c 0x10 8) n)) = false := by
        cases host
        · simp [hring rfl]
        · rfl
      simp only [hrings, hp.hdrBad, hz.parRes]
      simp
      omega
    · rcases hon with h | h <;> simp [h]
  · have hbit : bitOf (par c 0 1) 0 = false := by rcases hfl with h | h <;> rw [h] <;> rfl
    unfold traceConfig
    dsimp only
    rw [hbit]
    exact judged_ok (by simp [hp.length, hp.hdrBad, hz.parRes]; omega)
  · have hbit : bitOf (par c 8 4) 0 = decide (par c 8 4 = 1) := bitOf_resume hfl
    unfold traceDrain
    dsimp only
    rw [hbit, ← hs1, ← hs2]
    exact judged_ok (by simp [hp.length, hp.hdrBad, hz.parRes, hcfg]; omega)
  · have hfull : traceFull s t = decide (127 ≤ rs.length) := by simp [traceFull, hbuf]
    simp only [traceAutoDrain, hbuf, if_neg hn, hfull, decide_eq_true_eq]
  · unfold traceAutoDrain
    rcases hidle with h | h
    · rw [h]
    · split
      · rfl
      · exact if_pos h
  · have hroom : traceCap - b.buf.length ≠ 0 := by simp only [traceCap]; omega
    simp [traceAdd, hloss, hroom]
  · have hroom : traceCap - b.buf.length = 0 := by simp only [traceCap]; omega
    simp [traceAdd, hloss, hroom]

end Sys2Proof.Machine
end

section
/-! PROOFS. Tensor dumps. -/

namespace Sys2Proof.Machine

/-! ### Tensor dumps -/

/-- Settles O36: a dump is armed once its checks pass, and its copy's end completes it. -/
theorem dumpCommandsComplete : Obligations.DumpCommandsComplete := by
  unfold Obligations.DumpCommandsComplete
  refine ⟨fun s mb c j host hw hp hjob hstate hfl htick hdest hz hrange => ?_, fun s job item hnone => congrArg Host.Outcome.next ?_,
    fun s job item d start s1 st n k hfind hstart hcopy => congrArg Host.Outcome.next ?_⟩
  · have hbit : bitOf (par c 0x40 4) 0 = host := by rw [hfl]; cases host <;> rfl
    have hlt : par c 0x40 4 < 2 := by rw [hfl]; split <;> omega
    have hin : notIn (some j) [.armed, .running] = false := notIn_eq_false (by rcases hstate with h | h <;> simp [h.1])
    have htime : (if j.state = .armed then decide (par c 0x28 8 < j.startTick) else decide (par c 0x28 8 ≤ j.tick)) = false := by
      rcases hstate with ⟨hs, h⟩ | ⟨hs, h⟩ <;> simp [hs] <;> omega
    have hallowed : (!host && !rangeAllowed s c.job 1 (par c 0x30 8) (par c 0x38 8)) = false := by
      cases host
      · simp [hrange rfl]
      · rfl
    have hchecks : ([(decide (c.length ≠ 72), stBadLength), ((some j).isNone, stBadField), (notIn (some j) [.armed, .running], stWrongState),
        (hdrBad c || decide (2 ≤ par c 0x40 4 ∨ 2 ^ 48 ≤ par c 0x28 8 ∨ par c 0x30 8 % 32 ≠ 0) || parRes c 0x44 4
          || (if j.state = .armed then decide (par c 0x28 8 < j.startTick) else decide (par c 0x28 8 ≤ j.tick))
          || (!host && !rangeAllowed s c.job 1 (par c 0x30 8) (par c 0x38 8)), stBadField)] : List (Bool × Nat)).all (fun x => !x.1) = true := by
      rw [hin, htime, hallowed, hz.parRes, hp.hdrBad]
      simp [hp.length]
      omega
    refine ⟨fun hroom => exec_of_waiting hw rfl ?_, fun hfull => exec_of_waiting hw rfl ?_⟩
    · unfold debugDump
      dsimp only
      rw [hbit, hjob]
      refine judged_pass c _ s _ ((List.all_append (xs := [_, _, _, _]) (ys := [_])).trans ?_)
      rw [hchecks]
      simpa using hroom
    · unfold debugDump
      dsimp only
      rw [hbit, hjob, decide_eq_true hfull]
      exact judged_fail c [_, _, _, _] [] stNoSpace s _ hchecks
  · have hfind : s.obs.dumps.find? (fun d => decide (d.job = job ∧ d.item = some item) && d.startNs.isSome) = none := by
      refine List.find?_eq_none.mpr fun d hd h => ?_
      simp only [Bool.and_eq_true, decide_eq_true_eq] at h
      obtain ⟨⟨hj, hi⟩, hs⟩ := h
      rw [hnone d hd hj hi] at hs
      cases hs
    unfold dumpCopyEnd
    rw [hfind]
  · unfold dumpCopyEnd
    rw [hfind]
    dsimp only
    rewrite [hcopy, hstart]
    rfl

end Sys2Proof.Machine
end

section
/-! PROOFS. Tests. -/

namespace Sys2Proof.Machine

/-! ### Tests -/

theorem leNat_of_zeros {l : List Byte} (h : ∀ b ∈ l, b = 0#8) : leNat l = 0 := by
  induction l with
  | nil => rfl
  | cons b bs ih =>
    rw [leNat, h b (by simp), ih fun x hx => h x (by simp [hx])]
    rfl

theorem mem_of_subrange {l : List Byte} {off n k m : Nat} {b : Byte} (hlo : off ≤ k) (hhi : k + m ≤ off + n)
    (hb : b ∈ (l.drop k).take m) : b ∈ (l.drop off).take n := by
  have hsub : (l.drop k).take m = (((l.drop off).take n).drop (k - off)).take m := by
    rw [List.drop_take, List.drop_drop, List.take_take]
    congr 1
    · omega
    · congr 1
      omega
  rw [hsub] at hb
  exact List.mem_of_mem_drop (List.mem_of_mem_take hb)

/-- A parameter field inside a reserved range reads 0. -/
theorem ZeroPar.par {c : Cmd} {off n k m : Nat} (h : ZeroPar c off n) (hlo : off ≤ k) (hhi : k + m ≤ off + n) : Machine.par c k m = 0 := by
  have hzero : zeroAt c.params off n = true := h
  unfold zeroAt at hzero
  simp only [List.all_eq_true, beq_iff_eq] at hzero
  exact leNat_of_zeros fun b hb => hzero b (mem_of_subrange hlo hhi hb)

theorem ZeroPar.sub {c : Cmd} {off n k m : Nat} (h : ZeroPar c off n) (hlo : off ≤ k) (hhi : k + m ≤ off + n) : ZeroPar c k m := by
  have hzero : zeroAt c.params off n = true := h
  unfold zeroAt at hzero
  simp only [List.all_eq_true, beq_iff_eq] at hzero
  change zeroAt c.params k m = true
  unfold zeroAt
  simp only [List.all_eq_true, beq_iff_eq]
  exact fun b hb => hzero b (mem_of_subrange hlo hhi hb)

/-- Settles O37: each command passes its checks and does what its flags say. -/
theorem testCommandsComplete : Obligations.TestCommandsComplete := by
  unfold Obligations.TestCommandsComplete
  refine ⟨fun s mb c t hw hp hfl hen hz ht => exec_of_waiting hw rfl ?_,
    fun s mb c t tn bank unit hw hp hfl hen htn hle hz hbank hunit hokBank hokUnit hretired hidle ht => exec_of_waiting hw rfl ?_,
    fun s mb c failed hw hp hz hrest hdark hjobs hchange hpart hcore hwriting => ⟨exec_of_waiting hw rfl ?_, exec_of_waiting hw rfl ?_⟩,
    fun s mb c hw hp hsel hz => exec_of_waiting hw rfl ?_, fun s mb c hw hp hsel hz => exec_of_waiting hw rfl ?_,
    fun s hstage hpwr => congrArg Host.Outcome.next ?_, fun s hpwr => congrArg Host.Outcome.next ?_⟩
  · have hbit0 : bitOf (par c 0 1) 0 = decide (par c 0 1 = 1) := bitOf_resume hfl
    have hbit1 : bitOf (par c 0 1) 1 = false := by
      rcases Nat.le_one_iff_eq_zero_or_eq_one.mp hfl with h | h <;> rw [h] <;> rfl
    have htn : par c 2 1 = 0 := hz.par (by omega) (by omega)
    have hbank : par c 4 2 = 0 := hz.par (by omega) (by omega)
    have hunit : par c 6 2 = 0 := hz.par (by omega) (by omega)
    unfold testWinnow
    dsimp only
    rw [hbit0, hbit1, htn, hbank, hunit]
    subst ht
    refine (judged_ok ?_).trans ?_
    · have hres : parRes c 3 1 = false := ZeroPar.parRes (hz.sub (by omega) (by omega))
      simp [hp.length, hp.hdrBad, hres]
      omega
    · simp
  · have hbit0 : bitOf (par c 0 1) 0 = decide (par c 0 1 = 3) := by rcases hfl with h | h <;> rw [h] <;> rfl
    have hbit1 : bitOf (par c 0 1) 1 = true := by rcases hfl with h | h <;> rw [h] <;> rfl
    unfold testWinnow
    dsimp only
    rw [hbit0, hbit1, htn, hbank, hunit]
    subst ht
    refine (judged_ok ?_).trans ?_
    · have hbad : (decide (1 < tn ∨ (bank ≠ 0xFFFF ∧ 1024 ≤ bank) ∨ (unit ≠ 0xFFFF ∧ 512 ≤ unit))
          || (decide (bank ≠ 0xFFFF) && (s.loft.tw.get (towerOf tn)).retired.contains (bank % 512))
          || (s.loft.tw.get (towerOf tn)).retired.contains unit) = false := by
        rw [hretired]
        rcases hokBank with h | ⟨h, hret⟩
        · simp [h]
          omega
        · rw [hret]
          simp
          omega
      simp only [hbad]
      simp [hp.length, hp.hdrBad, hz.parRes, hidle]
      omega
    · by_cases hnone : bank = 0xFFFF ∧ unit = 0xFFFF
      · obtain ⟨hb, hu⟩ := hnone
        simp [hb, hu]
      · have hforce : (True ∧ (bank ≠ 0xFFFF ∨ unit ≠ 0xFFFF)) := ⟨trivial, by omega⟩
        simp only [if_pos hforce, if_neg hnone, decide_eq_true_eq]
  · exact judged_ok (by simp [hp.length, hp.hdrBad, hz.parRes, hrest, hdark, hjobs, hchange, hpart, hcore, hwriting])
  · refine judged_fail c [_, _, _, _] [] stDeviceFault s _ ?_
    simp [hp.length, hp.hdrBad, hz.parRes, hrest, hdark, hjobs, hchange, hpart, hcore, hwriting]
  · refine (judged_ok (by simp [hp.length, hp.hdrBad, hz.parRes, hsel])).trans ?_
    rw [if_pos hsel]
  · refine (judged_ok (by simp [hp.length, hp.hdrBad, hz.parRes, hsel])).trans ?_
    rw [if_neg (by omega)]
  · exact if_pos ⟨hstage, hpwr⟩
  · exact if_neg fun h => by rcases h.2 with h | h <;> simp [h] at hpwr

end Sys2Proof.Machine
end

section
/-! PROOFS. The event queue. -/

namespace Sys2Proof.Machine

/-! ### The event queue -/

@[simp] theorem noteStatus_lastCode (s t : State) : (noteStatus s t).host.lastCode = t.host.lastCode := by
  unfold noteStatus
  split <;> rfl

@[simp] theorem noteStatus_jobFault (s t : State) : (noteStatus s t).host.jobFault = t.host.jobFault := by
  unfold noteStatus
  split <;> rfl

@[simp] theorem noteStatus_eventLost (s t : State) : (noteStatus s t).host.eventLost = t.host.eventLost := by
  unfold noteStatus
  split <;> rfl

theorem eventInsert_of_room {r : Event} {e : EvSt} (h : e.queue.length < 1024) :
    eventInsert r e = ({ e with queue := e.queue ++ [r] }, false) := if_pos h

/-- What an event leaves where the queue has room and no DEV.EVENTS waits for one (R374). -/
theorem postEvent_queued {s : State} (sev code job : Nat) (detail : List Byte) (hroom : s.ev.queue.length < 1024)
    (hnone : startedCmd s 63 0x0102 = none) :
    postEvent sev code job detail s = noteStatus s { s with
      ev := { s.ev with
        queue := s.ev.queue ++ [{ seq := s.ev.seq, severity := sev, job := job, timeNs := s.nowNs, code := code, detail := detail.take 48 }]
        seq := (s.ev.seq + 1) % 2 ^ 32 }
      host := { s.host with
        lastCode := if sev = 0 then s.host.lastCode else code
        jobFault := s.host.jobFault || decide (sev = 1) } } := by
  unfold postEvent
  simp only [eventInsert_of_room hroom, State.onHost, Bool.or_false]
  generalize ht : noteStatus s _ = t
  have htaken : t.host.taken = s.host.taken := by rw [← ht, noteStatus_taken]
  have hstill : startedCmd t 63 0x0102 = none := by rw [← hnone]; unfold startedCmd; rw [htaken]
  rw [hstill]

/-- Settles O38: by whether the queue is full and the record a fault. -/
theorem eventsQueued : Obligations.EventsQueued := by
  unfold Obligations.EventsQueued
  refine ⟨fun s sev code job detail t hroom hnone ht => ?_, fun r e hfull hsev => ?_, fun r e i hfull hsev hi => ?_, fun r e hlen => ?_⟩
  · rw [postEvent_queued sev code job detail hroom hnone] at ht
    subst ht
    obtain ⟨h, hframe⟩ := noteStatus_frame s { s with
      ev := { s.ev with
        queue := s.ev.queue ++ [{ seq := s.ev.seq, severity := sev, job := job, timeNs := s.nowNs, code := code, detail := detail.take 48 }]
        seq := (s.ev.seq + 1) % 2 ^ 32 }
      host := { s.host with
        lastCode := if sev = 0 then s.host.lastCode else code
        jobFault := s.host.jobFault || decide (sev = 1) } }
    have hjobs := congrArg State.jobs hframe
    have hgate := congrArg State.gate hframe
    simp only [noteStatus_ev, noteStatus_lastCode, noteStatus_jobFault, noteStatus_eventLost, true_and]
    exact ⟨hjobs, hgate⟩
  · unfold eventInsert
    simp [Nat.not_lt.mpr hfull, hsev]
  · unfold eventInsert
    simp [Nat.not_lt.mpr hfull, hsev, hi]
  · unfold eventInsert
    split
    · next h => simp; omega
    · split
      · exact hlen
      · split
        · next i hi =>
          obtain ⟨hlt, -⟩ := List.findIdx?_eq_some_iff_getElem.mp hi
          simp [List.length_eraseIdx, hlt]
          omega
        · exact hlen

end Sys2Proof.Machine
end

section
/-! PROOFS. A step, and the state after reset. -/

namespace Sys2Proof.Machine

/-! ### The block as a whole -/

/-- Settles O57: a step is `exec` on the queue's rest. -/
theorem stepRunsFront : Obligations.StepRunsFront := by
  unfold Obligations.StepRunsFront
  refine ⟨fun s c rest h => ?_, fun s h => ⟨?_, rfl⟩⟩
  · unfold step
    rw [h]
  · unfold step
    rw [h]

theorem reset_memoriesWf : State.reset.memoriesWf = true := by
  decide

theorem tabGet_eq_none_of_ne {α : Type} {m : Tab α} {k : Nat} (h : ∀ y ∈ m, y.1 ≠ k) : tabGet m k = none := by
  induction m with
  | nil => rfl
  | cons x m ih =>
    obtain ⟨j, w⟩ := x
    unfold tabGet
    rw [if_neg (Ne.symm (h (j, w) (by simp)))]
    split
    · rfl
    · exact ih fun y hy => h y (by simp [hy])

theorem reset_msixTable_wf : tabWf HostSt.reset.msixTable = true := by decide

/-- A byte of the MSI-X table after reset: bit 0 of Vector Control is 1, every other bit 0. -/
theorem reset_msixTable_byte {v i : Nat} (hv : v < 128) (hi : i < 16) :
    memGet HostSt.reset.msixTable (16 * v + i) = if i = 12 then 1#8 else memDefault := by
  unfold memGet tabGetD
  split
  · next h =>
    have hmem : (16 * v + i, 1#8) ∈ HostSt.reset.msixTable := List.mem_map.mpr ⟨v, List.mem_range.mpr hv, by rw [h]⟩
    rw [tabGet_of_mem reset_msixTable_wf hmem]
    rfl
  · next h =>
    rw [tabGet_eq_none_of_ne]
    · rfl
    · intro y hy
      obtain ⟨w, -, rfl⟩ := List.mem_map.mp hy
      dsimp only
      omega

/-- Settles O58: each value by evaluation, the MSI-X table entry by entry. -/
theorem resetValues : Obligations.ResetValues := by
  unfold Obligations.ResetValues
  refine ⟨rfl, rfl, rfl, rfl, rfl, rfl, rfl, rfl, rfl, rfl, rfl, rfl, rfl, rfl, rfl, rfl, rfl, rfl, ?_, rfl, rfl, reset_memoriesWf⟩
  intro v hv
  have hbyte := fun i hi => reset_msixTable_byte (v := v) (i := i) hv hi
  change memRead HostSt.reset.msixTable (16 * v) 16 = _
  simp only [memRead, Nat.add_assoc, Nat.reduceAdd]
  rw [show 16 * v = 16 * v + 0 from rfl]
  simp only [Nat.add_assoc, Nat.reduceAdd, hbyte, Nat.reduceLT, Nat.reduceEqDiff, if_true, if_false]
  rfl

end Sys2Proof.Machine
end

section
/-! PROOFS. The HBM address mappings. -/

namespace Sys2Proof.Machine

/-! ### The HBM address mappings -/

theorem xor_mod_pow (x y n : Nat) : (x ^^^ y) &&& (2 ^ n - 1) = (x % 2 ^ n) ^^^ (y % 2 ^ n) := by
  rw [Nat.and_two_pow_sub_one_eq_mod, Nat.xor_mod_two_pow]

theorem xor_one (x y : Nat) : (x ^^^ y) &&& 0x1 = (x % 2) ^^^ (y % 2) := xor_mod_pow x y 1
theorem xor_seven (x y : Nat) : (x ^^^ y) &&& 0x7 = (x % 8) ^^^ (y % 8) := xor_mod_pow x y 3
theorem xor_nibble (x y : Nat) : (x ^^^ y) &&& 0xf = (x % 16) ^^^ (y % 16) := xor_mod_pow x y 4
theorem xor_five (x y : Nat) : (x ^^^ y) &&& 0x1f = (x % 32) ^^^ (y % 32) := xor_mod_pow x y 5
theorem and_one (x : Nat) : x &&& 0x1 = x % 2 := Nat.and_two_pow_sub_one_eq_mod x 1
theorem and_three (x : Nat) : x &&& 0x3 = x % 4 := Nat.and_two_pow_sub_one_eq_mod x 2
theorem and_seven (x : Nat) : x &&& 0x7 = x % 8 := Nat.and_two_pow_sub_one_eq_mod x 3
theorem and_five (x : Nat) : x &&& 0x1f = x % 32 := Nat.and_two_pow_sub_one_eq_mod x 5
theorem and_six (x : Nat) : x &&& 0x3f = x % 64 := Nat.and_two_pow_sub_one_eq_mod x 6
theorem and_byte (x : Nat) : x &&& 0xff = x % 256 := Nat.and_two_pow_sub_one_eq_mod x 8
theorem and_page (x : Nat) : x &&& 0xfff = x % 4096 := Nat.and_two_pow_sub_one_eq_mod x 12

/-- Two fields, one folded into the other, stay within their width. -/
theorem xor_mod_lt (x y n : Nat) : (x % 2 ^ n) ^^^ (y % 2 ^ n) < 2 ^ n :=
  Nat.xor_lt_two_pow (Nat.mod_lt _ (by positivity)) (Nat.mod_lt _ (by positivity))

/-- The place of an offset within a tower: R211's fields, the folded ones as exclusive ors of the offset's own fields. -/
theorem locLocal_eq (a : Nat) {t o : Nat} (ht : t = if a ≥ hbmTower1 then 1 else 0) (ho : o = a - t * hbmTower1) :
    locLocal a = { row := o / 2 ^ 25, bank := o / 2 ^ 19 % 64, column := o / 2 ^ 17 % 4, pc := (o / 2 ^ 16 % 2) ^^^ (o / 2 ^ 24 % 2)
                   channel := (o / 2 ^ 11 % 32) ^^^ (o / 2 ^ 25 % 32), stack := 8 * t + ((o / 2 ^ 8 % 8) ^^^ (o / 2 ^ 19 % 8))
                   byte := o % 256 } := by
  subst ho ht
  simp only [locLocal, Nat.shiftRight_eq_div_pow, xor_one, xor_five, xor_seven, and_three, and_six, and_byte]

theorem locGlobal_eq (a : Nat) {o h : Nat} (hh : h = a / 2 ^ 16) (ho : o = h * 2 ^ 12 + a % 2 ^ 12) :
    locGlobal a = { row := o / 2 ^ 22, bank := o / 2 ^ 16 % 64, column := o / 2 ^ 14 % 4, pc := (o / 2 ^ 13 % 2) ^^^ (o / 2 ^ 21 % 2)
                    channel := (o / 2 ^ 8 % 32) ^^^ (o / 2 ^ 22 % 32)
                    stack := ((a / 2 ^ 12 % 16 ^^^ h % 16) ^^^ h / 2 ^ 4 % 16) ^^^ h / 2 ^ 8 % 16, byte := o % 256 } := by
  have hq : a >>> 12 >>> 4 = h := by rw [hh, ← Nat.shiftRight_add, Nat.shiftRight_eq_div_pow]
  have hso : ((a >>> 12 >>> 4) <<< 12) ||| (a &&& 0xfff) = o := by
    rw [hq, and_page, ← Nat.shiftLeft_add_eq_or_of_lt (Nat.mod_lt _ (by norm_num)), Nat.shiftLeft_eq, ho]
  have h8 : a >>> 12 >>> 8 = h / 2 ^ 4 := by rw [hh, ← Nat.shiftRight_add, Nat.shiftRight_eq_div_pow]; omega
  have h12 : a >>> 12 >>> 12 = h / 2 ^ 8 := by rw [hh, ← Nat.shiftRight_add, Nat.shiftRight_eq_div_pow]; omega
  unfold locGlobal
  dsimp only
  rw [hso, hq, h8, h12]
  have hstack : ∀ w x y z : Nat, (w ^^^ x ^^^ y ^^^ z) &&& 0xf = ((w % 16 ^^^ x % 16) ^^^ y % 16) ^^^ z % 16 := by
    intro w x y z
    rw [xor_nibble, show (16 : Nat) = 2 ^ 4 from rfl, Nat.xor_mod_two_pow, Nat.xor_mod_two_pow]
  simp only [hstack, Nat.shiftRight_eq_div_pow, xor_one, xor_five, and_three, and_six, and_byte]

/-- The fields of an offset within a tower, put together again. -/
theorem fields_local (o : Nat) : o / 2 ^ 25 * 2 ^ 25 + o / 2 ^ 19 % 64 * 2 ^ 19 + o / 2 ^ 17 % 4 * 2 ^ 17 + o / 2 ^ 16 % 2 * 2 ^ 16
    + o / 2 ^ 11 % 32 * 2 ^ 11 + o / 2 ^ 8 % 8 * 2 ^ 8 + o % 256 = o := by
  have hhigh : o / 33554432 * 33554432 + o / 524288 % 64 * 524288 + o / 131072 % 4 * 131072 = o / 131072 * 131072 := by omega
  simp only [Nat.reducePow]
  rw [hhigh]
  clear hhigh
  omega

theorem fields_global (o : Nat) : o / 2 ^ 22 * 2 ^ 22 + o / 2 ^ 16 % 64 * 2 ^ 16 + o / 2 ^ 14 % 4 * 2 ^ 14 + o / 2 ^ 13 % 2 * 2 ^ 13
    + o / 2 ^ 8 % 32 * 2 ^ 8 + o % 256 = o := by
  have hhigh : o / 4194304 * 4194304 + o / 65536 % 64 * 65536 + o / 16384 % 4 * 16384 = o / 16384 * 16384 := by omega
  simp only [Nat.reducePow]
  rw [hhigh]
  clear hhigh
  omega

theorem addrLocal_locLocal (a : Nat) : addrLocal (locLocal a) = a := by
  obtain ⟨t, ht⟩ : ∃ t, t = if a ≥ hbmTower1 then 1 else 0 := ⟨_, rfl⟩
  obtain ⟨o, ho⟩ : ∃ o, o = a - t * hbmTower1 := ⟨_, rfl⟩
  have hsum : t * hbmTower1 + o = a := by
    rw [ho, ht]
    split <;> omega
  have hbank : o / 2 ^ 19 % 64 / 2 ^ 5 = o / 2 ^ 24 % 2 := by omega
  have hlow : o / 2 ^ 19 % 64 % 8 = o / 2 ^ 19 % 8 := by omega
  have hfold : (o / 2 ^ 8 % 8) ^^^ (o / 2 ^ 19 % 8) < 8 := xor_mod_lt _ _ 3
  have hfields := fields_local o
  rw [locLocal_eq a ht ho]
  simp only [addrLocal, Nat.shiftRight_eq_div_pow, Nat.shiftLeft_eq, and_seven, and_five, hbank, hlow, Nat.xor_xor_cancel_right]
  rw [show (8 * t + ((o / 2 ^ 8 % 8) ^^^ (o / 2 ^ 19 % 8))) / 8 = t by omega,
    show (8 * t + ((o / 2 ^ 8 % 8) ^^^ (o / 2 ^ 19 % 8))) % 8 = (o / 2 ^ 8 % 8) ^^^ (o / 2 ^ 19 % 8) by omega, Nat.xor_xor_cancel_right]
  simp only [Nat.add_assoc] at hfields ⊢
  rw [hfields, hsum]

theorem addrGlobal_eq (l : HbmLoc) {o : Nat}
    (ho : (l.row <<< 22) + (l.bank <<< 16) + (l.column <<< 14) + ((l.pc ^^^ (l.bank >>> 5)) <<< 13) + ((l.channel ^^^ (l.row &&& 0x1f)) <<< 8) + l.byte = o) :
    addrGlobal l = ((o / 2 ^ 12 * 2 ^ 4
      + ((l.stack ^^^ o / 2 ^ 12 ^^^ (o / 2 ^ 12) / 2 ^ 4 ^^^ (o / 2 ^ 12) / 2 ^ 8) &&& 0xf)) * 2 ^ 12) + o % 2 ^ 12 := by
  unfold addrGlobal
  dsimp only
  rw [ho]
  simp only [Nat.shiftRight_eq_div_pow, Nat.shiftLeft_eq, and_page, Nat.reducePow]

/-- The hashed stack number gives back the bits of the address that the hash folded into it. -/
theorem unfold_stack {x h : Nat} (hx : x < 16) :
    ((((x ^^^ h % 16) ^^^ h / 2 ^ 4 % 16) ^^^ h / 2 ^ 8 % 16) ^^^ h ^^^ h / 2 ^ 4 ^^^ h / 2 ^ 8) &&& 0xf = x := by
  rw [xor_nibble, show (16 : Nat) = 2 ^ 4 from rfl, Nat.xor_mod_two_pow, Nat.xor_mod_two_pow, Nat.xor_mod_two_pow, Nat.xor_mod_two_pow,
    Nat.xor_mod_two_pow, Nat.mod_mod, Nat.mod_mod, Nat.mod_mod, Nat.mod_eq_of_lt (a := x) hx]
  generalize h % 2 ^ 4 = p
  generalize h / 2 ^ 4 % 2 ^ 4 = q
  generalize h / 2 ^ 8 % 2 ^ 4 = r
  rw [Nat.xor_right_comm _ r p, Nat.xor_right_comm _ r q, Nat.xor_right_comm _ q p, Nat.xor_xor_cancel_right, Nat.xor_xor_cancel_right,
    Nat.xor_xor_cancel_right]

theorem addrGlobal_locGlobal (a : Nat) : addrGlobal (locGlobal a) = a := by
  obtain ⟨h, hh⟩ : ∃ h, h = a / 2 ^ 16 := ⟨_, rfl⟩
  obtain ⟨o, ho⟩ : ∃ o, o = h * 2 ^ 12 + a % 2 ^ 12 := ⟨_, rfl⟩
  have hbank : o / 2 ^ 16 % 64 / 2 ^ 5 = o / 2 ^ 21 % 2 := by omega
  have hhigh : o / 2 ^ 12 = h := by omega
  have hlow : o % 2 ^ 12 = a % 2 ^ 12 := by omega
  rw [locGlobal_eq a hh ho, addrGlobal_eq _ (o := o) ?_, hhigh]
  · dsimp only
    rw [unfold_stack (Nat.mod_lt _ (by norm_num)), hlow, hh]
    omega
  · simp only [Nat.shiftRight_eq_div_pow, Nat.shiftLeft_eq, and_five, hbank, Nat.xor_xor_cancel_right]
    exact fields_global o

/-- Settles O44: each digit of a place is found again from the address, and the address from its digits. -/
theorem hbmMappingOneToOne : Obligations.HbmMappingOneToOne := by
  unfold Obligations.HbmMappingOneToOne
  refine ⟨fun a _ => addrLocal_locLocal a, fun a _ => addrGlobal_locGlobal a, fun a ha => ?_, fun a ha => ?_⟩
  · obtain ⟨t, ht⟩ : ∃ t, t = if a ≥ 0x0A000000000 then 1 else 0 := ⟨_, rfl⟩
    obtain ⟨o, ho⟩ : ∃ o, o = a - t * 0x0A000000000 := ⟨_, rfl⟩
    have hfold : (o / 2 ^ 8 % 8) ^^^ (o / 2 ^ 19 % 8) < 8 := xor_mod_lt _ _ 3
    have htop : a < 0x14000000000 := ha
    have hsize : o < 0x0A000000000 ∧ (t = 0 ∧ a < 0x0A000000000 ∨ t = 1 ∧ 0x0A000000000 ≤ a) := by
      split at ht <;> subst ht <;> omega
    rw [locLocal_eq a ht ho]
    refine ⟨?_, xor_mod_lt _ _ 5, xor_mod_lt _ _ 1, ?_, ?_, ?_, ?_, ?_⟩ <;> dsimp only [hbmTower1] <;> clear ho ht <;> omega
  · have hsize : a < 0x14000000000 := ha
    obtain ⟨h, hh⟩ : ∃ h, h = a / 2 ^ 16 := ⟨_, rfl⟩
    obtain ⟨o, ho⟩ : ∃ o, o = h * 2 ^ 12 + a % 2 ^ 12 := ⟨_, rfl⟩
    rw [locGlobal_eq a hh ho]
    refine ⟨Nat.xor_lt_two_pow (n := 4) (Nat.xor_lt_two_pow (xor_mod_lt _ _ 4) (Nat.mod_lt _ (by norm_num))) (Nat.mod_lt _ (by norm_num)),
      xor_mod_lt _ _ 5, xor_mod_lt _ _ 1, ?_, ?_, ?_, ?_⟩ <;> dsimp only <;> omega

end Sys2Proof.Machine
end

section
/-! PROOFS. The loft's commands. -/

namespace Sys2Proof.Machine

/-! ### Pinning -/

/-- The pinned bays' bytes, and the reductions that could still write them. -/
def State.bayBytes (s : State) : Memory × List LoftReq × List LoftReq :=
  (s.loft.pinMem, s.loft.tw.t0.reducing, s.loft.tw.t1.reducing)

theorem bayBytes_complete (c : Cmd) (st : Nat) (res : List Byte) (s : State) : (complete c st res s).bayBytes = s.bayBytes := by
  obtain ⟨n, h, o, e⟩ := complete_frame c st res s
  rw [e]
  rfl

theorem bayBytes_postEvent (sev code job : Nat) (detail : List Byte) (s : State) : (postEvent sev code job detail s).bayBytes = s.bayBytes := by
  obtain ⟨n, h, e, o, heq⟩ := postEvent_frame sev code job detail s
  rw [heq]
  rfl

theorem bayBytes_ctrLoft (die k n : Nat) (s : State) : (ctrLoft die k n s).bayBytes = s.bayBytes := by
  unfold ctrLoft ctrAdd
  split <;> rfl

theorem bayBytes_mod (t : Tower) (f : LoftT → LoftT) (hf : ∀ w, (f w).reducing = w.reducing) (s : State) :
    (s.onLoft (fun x => { x with tw := x.tw.mod t f })).bayBytes = s.bayBytes := by
  cases t <;> simp [State.bayBytes, State.onLoft, Pair.mod, Pair.set, Pair.get, hf]

theorem bayBytes_evictCheck (l : BulkLine) (s : State) : (evictCheck l s).1.bayBytes = s.bayBytes := by
  unfold evictCheck
  have hword : ∀ (cor : List Nat) (x : State), (cor.foldl (fun st k => wordCorrected k st) x).bayBytes = x.bayBytes := fun cor x =>
    foldl_invariant (fun st k => wordCorrected k st) State.bayBytes (fun st k => bayBytes_ctrLoft _ _ _ _) cor x
  split
  · dsimp only
    split
    · rfl
    · exact bayBytes_ctrLoft _ _ _ _
  · dsimp only
    split
    · rw [hword, bayBytes_ctrLoft]
    · unfold postLoftUncorrectable postNotice
      rw [bayBytes_postEvent, bayBytes_ctrLoft, hword, bayBytes_ctrLoft]

theorem bayBytes_loftFinish (mb : Nat) (res : List Byte) (s : State) : (loftFinish mb res s).bayBytes = s.bayBytes := by
  unfold loftFinish
  split
  · exact bayBytes_complete _ _ _ _
  · rfl

theorem bayBytes_loftWaited (la : Nat) (s : State) : (loftWaited la s).bayBytes = s.bayBytes := by
  unfold loftWaited
  dsimp only
  rw [foldl_invariant (fun st (e : Nat × Nat × List Nat × List Byte) => loftFinish e.1 e.2.2.2 st) State.bayBytes
    (fun st e => bayBytes_loftFinish _ _ _)]
  rfl

theorem bayBytes_writeBackQuarters (la : Nat) (data : List Byte) (dirty : BitVec 4) (poison : BitVec 8) (s : State) :
    (writeBackQuarters la data dirty poison s).bayBytes = s.bayBytes := by
  unfold writeBackQuarters
  refine foldl_invariant _ State.bayBytes (fun st q => ?_) _ s
  split <;> rfl

theorem bayBytes_wbPop (t : Tower) (c : Nat) (s : State) : (wbPop t c s).bayBytes = s.bayBytes := by
  unfold wbPop
  split
  · rfl
  · next rest _ =>
    dsimp only
    rw [bayBytes_loftWaited, bayBytes_writeBackQuarters]
    exact bayBytes_mod t (fun w => { w with wb := putList w.wb c rest }) (fun _ => rfl) s

theorem bayBytes_wbPush (la : Nat) (l : BulkLine) (s : State) : (wbPush la l s).bayBytes = s.bayBytes := by
  unfold wbPush
  dsimp only
  exact (bayBytes_mod l.tower (fun w => { w with
    wb := tabPut w.wb l.col (tabGetD w.wb l.col [] ++
      [{ la := la, data := bulkView s l, valid := l.valid, dirty := l.dirty, poison := (evictCheck l s).2 }]) }) (fun _ => rfl) _).trans
    (bayBytes_evictCheck l s)

theorem bayBytes_dropLine (la : Nat) (l : BulkLine) (s : State) : (dropLine la l s).bayBytes = s.bayBytes := by
  unfold dropLine
  split
  · exact bayBytes_mod l.tower (fun w => { w with stageEarly := w.stageEarly + 256 }) (fun _ => rfl) s
  · rfl

theorem bayBytes_evictNow (la : Nat) (l : BulkLine) (s : State) : (evictNow la l s).bayBytes = s.bayBytes := by
  have hroom : ∀ x : State, x = (if l.dirty ≠ 0#4 ∧ wbFull s l.tower l.col then wbPop l.tower l.col s else s) → x.bayBytes = s.bayBytes := by
    rintro x rfl
    split
    · exact bayBytes_wbPop _ _ _
    · rfl
  unfold evictNow evictLine
  rw [bayBytes_dropLine]
  split
  · exact hroom _ rfl
  · exact (bayBytes_wbPush _ _ _).trans (hroom _ rfl)

/-- With no reduction under way, nothing has to settle before a line leaves. -/
theorem settleLine_idle {s : State} (la : Nat) (h0 : s.loft.tw.t0.reducing = []) (h1 : s.loft.tw.t1.reducing = []) : settleLine la s = s := by
  simp [settleLine, bothTowers, Pair.get, h0, h1]

theorem bayBytes_evictForMove {acc : State × List Nat × Nat} (la : Nat) (h0 : acc.1.loft.tw.t0.reducing = [])
    (h1 : acc.1.loft.tw.t1.reducing = []) : (evictForMove la acc).1.bayBytes = acc.1.bayBytes := by
  unfold evictForMove
  rw [settleLine_idle la h0 h1]
  dsimp only
  split
  · rfl
  · split <;> exact bayBytes_evictNow _ _ _

theorem bayBytes_evictAll (moved : List Nat) {acc : State × List Nat × Nat} (h0 : acc.1.loft.tw.t0.reducing = [])
    (h1 : acc.1.loft.tw.t1.reducing = []) : (moved.foldl (fun a la => evictForMove la a) acc).1.bayBytes = acc.1.bayBytes := by
  induction moved generalizing acc with
  | nil => rfl
  | cons la rest ih =>
    have hone := bayBytes_evictForMove la h0 h1
    rw [List.foldl_cons, ih ((congrArg (·.2.1) hone).trans h0) ((congrArg (·.2.2) hone).trans h1), hone]

/-- New frames for a column move lines; they leave the pinned bays alone. -/
theorem bayBytes_setFrames (t : Tower) (c : Nat) (tab : List Nat) {acc : State × List Nat × Nat} (h0 : acc.1.loft.tw.t0.reducing = [])
    (h1 : acc.1.loft.tw.t1.reducing = []) : (setFrames t c tab acc).1.bayBytes = acc.1.bayBytes := by
  have hframes : (acc.1.onLoft (fun x => { x with
      tw := x.tw.mod t (fun w => { w with frames := if tab = frameInit c then tabDel w.frames c else tabPut w.frames c tab }) })).bayBytes
      = acc.1.bayBytes := by
    exact bayBytes_mod t (fun w => { w with frames := if tab = frameInit c then tabDel w.frames c else tabPut w.frames c tab })
      (fun _ => rfl) acc.1
  unfold setFrames
  dsimp only
  rw [bayBytes_evictAll _ ((congrArg (·.2.1) hframes).trans h0) ((congrArg (·.2.2) hframes).trans h1)]
  exact hframes

/-- What a converted frame leaves (R183). -/
theorem convertFrame_bay {s : State} (t : Tower) (job layout b : Nat) (las : List Nat) (wb : Nat) (h0 : s.loft.tw.t0.reducing = [])
    (h1 : s.loft.tw.t1.reducing = []) :
    tabGet (convertFrame t job layout b (s, las, wb)).1.loft.bays b = some { job := job, layout := layout }
    ∧ (convertFrame t job layout b (s, las, wb)).1.loft.pinMem = memClear s.loft.pinMem (pinBase + b * pageBytes) pageBytes := by
  have hbytes := congrArg (·.1) (bayBytes_setFrames t (b % 512) (frameLeaves (frameTable s t (b % 512)) (bulkRows s t (b % 512)) (b % 4096 / 512))
    (acc := (s, las, wb)) h0 h1)
  unfold convertFrame
  dsimp only
  refine ⟨tabGet_tabPut_self _ _ _, ?_⟩
  exact congrArg (fun m => memClear m (pinBase + b * pageBytes) pageBytes) hbytes

/-- Whether a number of bays is past a quota; no quota is never passed (R185). -/
def pastQuota (q : Option Nat) (n : Nat) : Bool :=
  match q with
  | some m => decide (m < n)
  | none => false

theorem pastQuota_eq_false {q : Option Nat} {n : Nat} (h : ∀ m, q = some m → n ≤ m) : pastQuota q n = false := by
  cases q with
  | none => rfl
  | some m => exact decide_eq_false (Nat.not_lt.mpr (h m rfl))

/-- What the end of LOFT.PIN depends on, once its fields and its bays are in order (R182, R185). -/
theorem loftPin_judged {c : Cmd} {s : State} {j : Job} (hp : Plain c 16) (hlay : par c 0xC 1 < 2) (hz : ZeroPar c 0xD 3)
    (hjob : jobAt s c.job = some j) (hrun : runBad (par c 0 8) (par c 8 4) = false) {t : Tower} (ht : t = towerOf (bayNum (par c 0 8) / 4096))
    {bays : List Nat} (hb : bays = runBays (par c 0 8) (par c 8 4)) (hbays : bays.findIdx? (bayBad s c.job) = none) :
    loftPin c s = if pastQuota (j.quota.get t) (pinsOf s c.job t + par c 8 4)
      then complete c stOverQuota (pinResult s c.job t noIndex 0) s
      else match ceilingBad s t bays with
        | some i => complete c stPinCeiling (pinResult s c.job t i 0) s
        | none =>
          if loftBusy s c.job then complete c stBusy (pinResult s c.job t noIndex 0) s
          else
            let (s1, las, wb) := bays.foldl (fun a b => convertFrame t c.job (par c 0xC 1) b a) (s, [], 0)
            loftWait c (las.filter (fun la => lineBuffered s1 t (bulkColumn s1 t la) la)) (pinResult s1 c.job t noIndex wb) s1 := by
  have hgood : (hdrBad c || parRes c 0x0D 3 || (jobAt s c.job).isNone || runBad (par c 0 8) (par c 8 4) || decide (1 < par c 0xC 1)) = false := by
    rw [hp.hdrBad, hz.parRes, hjob, hrun]
    simp
    omega
  unfold loftPin
  dsimp only
  rewrite [← ht, ← hb, hbays, hjob, if_neg (by simp [hp.length]), if_neg (by rw [← hjob, hgood]; exact Bool.false_ne_true)]
  rfl

/-- A command that evicted nothing, other than LOFT.PIN, completes at once. -/
theorem loftWait_nil {c : Cmd} (res : List Byte) (s : State) (h : c.opcode ≠ 0x0300) :
    loftWait c [] res s = complete { c with started := true } stDone res (markStarted c s) := by
  have htaken : tabGet (markStarted c s).host.taken c.mb = some { c with started := true } := tabGet_tabPut_self _ _ _
  unfold loftWait
  rw [if_pos rfl]
  unfold loftFinish
  rw [htaken]
  dsimp only
  rw [if_neg h]

theorem addrMapped {s : State} {job : Nat} {l : List Nat}
    (h : ∀ p ∈ l, ∃ j ∈ jobAt s job, ∃ e ∈ j.map, e.space = 0 ∧ entryHolds e p = true) :
    l.all (fun p => (((jobAt s job).map (·.map)).getD []).any (fun e => decide (e.space = 0) && entryHolds e p)) = true := by
  refine List.all_eq_true.mpr fun p hp => List.any_eq_true.mpr ?_
  obtain ⟨j, hj, e, he, hspace, hholds⟩ := h p hp
  rw [Option.mem_def.mp hj]
  exact ⟨e, he, by simp [hspace, hholds]⟩

/-- Settles O39: each command passes its checks; LOFT.PIN by the bays it converts one after another. -/
theorem loftCommandsComplete : Obligations.LoftCommandsComplete := by
  unfold Obligations.LoftCommandsComplete
  refine ⟨fun s mb c j addr count t bays hw hp haddr hcount hlay hz hjob hrun ht hb hbays => ?_,
    fun t job layout b s las wb x hwf h0 h1 hx => ?_,
    fun s mb c addr count t bays hw hp haddr hcount hz hjob hrun ht hb howned => ?_,
    fun s mb c fl s1 t hw hp hfl hle hz7 hzC hjob hq hpct hs1 ht => exec_of_waiting hw rfl ?_,
    fun s mb c fl rs hw hp hfl hle hz hpriv hjob hrange hidle hrs s1 waits wb gone s2 hfold hs2 => ?_,
    fun c las res s hne => if_neg hne, fun c res s hop => loftWait_nil res s hop⟩
  · subst haddr hcount
    have hjudged := loftPin_judged hp hlay hz hjob hrun ht hb hbays
    refine ⟨fun hq hceil hidle s1 las wb hfold => exec_of_waiting hw rfl ?_, fun n hn hover => exec_of_waiting hw rfl ?_,
      fun hq i hi => exec_of_waiting hw rfl ?_, fun hq hceil hbusy => exec_of_waiting hw rfl ?_⟩
    · rw [hjudged, pastQuota_eq_false hq, hceil, hidle, hfold]
      rfl
    · exact hjudged.trans (if_pos (by rw [hn]; exact decide_eq_true hover))
    · rw [hjudged, pastQuota_eq_false hq, hi]
      rfl
    · rw [hjudged, pastQuota_eq_false hq, hceil, hbusy]
      rfl
  · subst hx
    obtain ⟨hbay, hmem⟩ := convertFrame_bay t job layout b las wb h0 h1
    have hend : pinBase + (b + 1) * pageBytes = pinBase + b * pageBytes + pageBytes := by rw [Nat.succ_mul, Nat.add_assoc]
    refine ⟨hbay, fun a hlo hhi => ?_, fun a hout => ?_⟩
    · rw [hmem, memGet_memClear _ _ _ _ hwf, if_pos ⟨hlo, by omega⟩]
      rfl
    · rw [hmem, memGet_memClear _ _ _ _ hwf, if_neg (by omega)]
  · subst haddr hcount
    have howned' : bays.any (fun b => decide ((tabGet s.loft.bays b).map (·.job) ≠ some c.job)) = false := by
      simpa using howned
    refine ⟨fun hidle hfree s1 las wb hfold => exec_of_waiting hw rfl ?_, fun hbusy => exec_of_waiting hw rfl ?_⟩
    · have hfree' : bays.any (fun b => sheafDeclares s c.job (pinBase + b * pageBytes)) = false := by simpa using hfree
      unfold loftUnpin
      dsimp only
      rw [← ht, ← hb, howned', hidle, hfree', hrun, hfold]
      exact judged_ok (by simp [hp.length, hp.hdrBad, hz.parRes, Option.isNone_eq_false_iff.mpr hjob])
    · have hbusy' : (loftBusy s c.job || bays.any (fun b => sheafDeclares s c.job (pinBase + b * pageBytes))) = true := by
        simpa using hbusy
      unfold loftUnpin
      dsimp only
      rw [← ht, ← hb, howned', hbusy', hrun]
      exact judged_fail c [_, _] [] stBusy s _ (by simp [hp.length, hp.hdrBad, hz.parRes, Option.isNone_eq_false_iff.mpr hjob])
  · subst hfl
    have hquota : (bitOf (par c 0 2) 0 && ((jobAt s c.job).isNone || decide (3456 < par c 2 2 ∧ par c 2 2 ≠ 0xFFFF)
        || decide (3456 < par c 4 2 ∧ par c 4 2 ≠ 0xFFFF))) = false := by
      cases hbit : bitOf (par c 0 2) 0 with
      | false => rfl
      | true =>
        obtain ⟨hq0, hq1⟩ := hq hbit
        rw [Option.isNone_eq_false_iff.mpr (hjob (.inr hbit))]
        simp
        omega
    have hnamed : (decide (c.job ≠ 0) && (jobAt s c.job).isNone) = false := by
      by_cases h : c.job = 0
      · simp [h]
      · rw [Option.isNone_eq_false_iff.mpr (hjob (.inl h)), Bool.and_false]
    have hthrash : (bitOf (par c 0 2) 1 && decide (100 < par c 6 1)) = false := by
      cases hbit : bitOf (par c 0 2) 1 with
      | false => rfl
      | true =>
        have := hpct hbit
        simp
        omega
    subst ht hs1
    refine judged_ok ?_
    intro x hx
    fin_cases hx
    · simp [hp.length]
    · simp only [hquota, hnamed, hthrash, hp.hdrBad, hz7.parRes, hzC.parRes]
      simp
      omega
  · subst hfl
    have hpriv' : (decide (c.length = 24) && (bitOf (par c 0x10 4) 1 && decide (c.job = 0)) && decide (c.mb ≠ 0)) = false := by
      cases hbit : bitOf (par c 0x10 4) 1 with
      | false => simp
      | true =>
        by_cases h : c.job = 0
        · simp [hpriv hbit h]
        · simp [h]
    have hjob' : (!(bitOf (par c 0x10 4) 1 && decide (c.job = 0)) && (jobAt s c.job).isNone) = false := by
      cases hbit : bitOf (par c 0x10 4) 1 with
      | false => rw [Option.isNone_eq_false_iff.mpr (hjob (.inl hbit)), Bool.and_false]
      | true =>
        by_cases h : c.job = 0
        · simp [h]
        · rw [Option.isNone_eq_false_iff.mpr (hjob (.inr h)), Bool.and_false]
    have hrange' : (!bitOf (par c 0x10 4) 1 && (decide (par c 0 8 % 256 ≠ 0) || decide (par c 8 8 % 256 ≠ 0) || decide (par c 8 8 = 0)
        || decide (hbmTop < par c 0 8 + par c 8 8)
        || !(pagesOf (par c 0 8) (par c 8 8)).all (fun p =>
          (((jobAt s c.job).map (·.map)).getD []).any (fun e => decide (e.space = 0) && entryHolds e p)))) = false := by
      cases hbit : bitOf (par c 0x10 4) 1 with
      | true => rfl
      | false =>
        obtain ⟨ha, hn, hpos, htop, hmapped⟩ := hrange hbit
        rw [addrMapped hmapped]
        simp [ha, hn, htop]
        omega
    have hrs' : (if (bitOf (par c 0x10 4) 1 && decide (c.job = 0)) = true then [(0, hbmTop)] else if bitOf (par c 0x10 4) 1 = true
        then ((((jobAt s c.job).map (·.map)).getD []).filter (fun e => decide (e.space = 0))).map (fun e => (e.base, e.count * pageBytes))
        else [(par c 0 8, par c 8 8)]) = rs := by
      rw [hrs]
      change _ = if bitOf (par c 0x10 4) 1 = false then _ else _
      cases bitOf (par c 0x10 4) 1 <;> simp
    refine ⟨if ((linesIn s rs).any (fun la => ((tabGet s.loft.bulk la).map (·.locked)).getD false)) then Config.duration s.freeCtr else 0,
      fun hfree => if_neg ?_, exec_of_waiting hw rfl ?_⟩
    · rw [Bool.not_eq_true, List.any_eq_false]
      intro la hla
      obtain ⟨l, hl, hunlocked⟩ := hfree la hla
      simp [hl, hunlocked]
    · have hfold' : (linesIn s rs).foldl (fun a la => cleanLine (bitOf (par c 0x10 4) 0) la a) (s.draw, [], 0, 0) = (s1, waits, wb, gone) := hfold
      have hs2' : s2 = if bitOf (par c 0x10 4) 0 then fineDrop rs s1 else s1 := hs2
      unfold loftFlush
      dsimp only
      rewrite [hrs', hpriv', hjob', hrange', hfold']
      dsimp only
      rewrite [hidle, ← hs2']
      exact judged_ok (by simp [hp.length, hp.hdrBad, hz.parRes]; omega)

end Sys2Proof.Machine
end

section
/-! PROOFS. Memory commands. -/

namespace Sys2Proof.Machine

/-! ### Memory commands -/

theorem unnamed_eq_false {fl k : Nat} {c : Cmd} {off n : Nat} (h : fl.testBit k = false → ZeroPar c off n) :
    unnamed (bitOf fl k) c off n = false := by
  unfold bitOf
  cases hbit : fl.testBit k with
  | true => rfl
  | false => simp [unnamed, (h hbit).parRes]

/-- A check that a bit of FLAGS guards passes where what it guards does. -/
theorem guarded_eq_false {b x : Bool} (h : b = true → x = false) : (b && x) = false := by
  cases b with
  | true => exact h rfl
  | false => rfl

/-- What ECC.INJECT does once its fields are in order: a register is armed or, with bit 1 of FLAGS, disarmed (R255). -/
theorem eccInject_judged {c : Cmd} {s : State} {u key : Nat} (hp : Plain c 88) (htg : par c 0 1 ≤ 2) (hfl : par c 1 1 ≤ 3) (hz : ZeroPar c 4 4)
    (hunit : (if par c 0 1 = 0 then decide (par c 2 2 ≠ 0) || decide (par c 8 8 % 64 ≠ 0) || unbacked s (par c 8 8) || parRes c 0x54 4
      else if par c 0 1 = 1 then decide (3 < par c 2 2) || decide (2 ^ 29 ≤ par c 8 8) || parRes c 0x18 56 || parRes c 0x51 7
      else decide (par c 8 8 ≠ 0) || decide (groupsOf (bitsOf (par c 2 2) 14 12) ≤ par c 2 2 % 4096) || bitOf (par c 1 1) 0 || parRes c 0x18 56
        || parRes c 0x51 7) = false)
    (hu : flipUnit s (par c 0 1) (par c 2 2) (par c 8 8) = u)
    (hkey : (if par c 0 1 = 1 then wordKey (par c 2 2) (bitsOf (par c 8 8) 23 15) (bitsOf (par c 8 8) 14 0) (bitsOf (par c 8 8) 28 24)
      else par c 8 8) = key) :
    (par c 1 1 ≤ 1 → tabGet s.hbm.armed u = none → eccInject c s = complete c stDone [] (s.onHbm (fun h => { h with
      armed := tabPut h.armed u { poison := decide (par c 1 1 = 1), addr := key, group := par c 2 2 % 4096
                                  dataMask := sliceBytes c.params 0x10 64, checkMask := sliceBytes c.params 0x50 8 } })))
    ∧ (par c 1 1 = 2 ∨ par c 1 1 = 3 → eccInject c s = complete c stDone [] (s.onHbm (fun h => { h with armed := tabDel h.armed u }))) := by
  unfold eccInject
  dsimp only
  rw [hunit, hu, hkey]
  refine ⟨fun hle hfree => ?_, fun hdis => ?_⟩
  · have hset : bitOf (par c 1 1) 1 = false := by rcases Nat.le_one_iff_eq_zero_or_eq_one.mp hle with h | h <;> rw [h] <;> rfl
    rw [hset, bitOf_resume hle]
    exact judged_ok (by simp [hp.length, hp.hdrBad, hz.parRes, hfree]; omega)
  · have hset : bitOf (par c 1 1) 1 = true := by rcases hdis with h | h <;> rw [h] <;> rfl
    rw [hset]
    exact judged_ok (by simp [hp.length, hp.hdrBad, hz.parRes]; omega)

/-- Settles O40: each command passes its checks, group by group of its FLAGS. -/
theorem memoryCommandsComplete : Obligations.MemoryCommandsComplete := by
  unfold Obligations.MemoryCommandsComplete
  refine ⟨fun s mb c fl cel mir glob s1 s2 s3 t hw hp hfl hle h4 h5 h6 h7 h8 hz9 hn0 hn1 hn2 hn3 hcel hmir hglob hhome hreg hs1 hs2 hs3 ht =>
      exec_of_waiting hw rfl ?_,
    fun s mb c hw hp hfl hhom hz5 hz10 hbusy => exec_of_waiting hw rfl ?_,
    fun s mb c h tw fl t hw hp hh hh8 htw htw3 hfl hfl7 hprio htarget hz ht => exec_of_waiting hw rfl ?_,
    fun s mb c act unit es hw hp hact hact2 hunit hunitOk hz hzero hes => exec_of_waiting hw rfl ?_,
    fun s mb c act unit addr r hw hp hact hact3 hact5 hunit hstart hz haddr hrow hline hr => exec_of_waiting hw rfl ?_,
    fun s mb c fl s1 s2 x y hw hp hfl hfl7 hdec hz2 hzC hpace hrange hnone hs1 hs2 => exec_of_waiting hw rfl ?_,
    fun s mb c fl a hw hp htg hfl hu hz haddr ha hbacked hz54 => ?_,
    fun s mb c fl u a hw hp htg hfl hu hu3 hz haddr ha hz18 hz51 => ?_,
    fun s mb c fl u k hw hp htg hfl hu hgroup hz haddr hz18 hz51 hk => ?_⟩
  · subst hfl
    have hstate : ((bitOf (par c 0 4) 0 && (decide (s.jobs.jobs ≠ []) || anyBound s)) || (bitOf (par c 0 4) 3 && anyBound s)) = false := by
      rw [guarded_eq_false (b := bitOf (par c 0 4) 0) fun h => ?_, guarded_eq_false (b := bitOf (par c 0 4) 3) fun h => (hreg h).1]
      · rfl
      · obtain ⟨hjobs, hbound⟩ := hhome h
        simp [hjobs, hbound]
    have hregions : (bitOf (par c 0 4) 3 && !regionsOk s glob cel mir) = false :=
      guarded_eq_false fun h => by rw [(hreg h).2]; rfl
    have hglob' : glob = (if bitOf (par c 0 4) 0 then decide (par c 4 1 = 1) else s.hbm.globalHoming) := hglob
    unfold cellarConfig
    dsimp only
    rewrite [← hglob', ← hcel, ← hmir, hstate, hregions]
    subst ht hs3 hs2 hs1
    have hfields : (hdrBad c || decide (15 < par c 0 4) || parRes c 9 7 || decide (1 < par c 4 1) || decide (1 < par c 5 1) || decide (1 < par c 6 1)
        || decide (1 < par c 7 1) || decide (4 < par c 8 1) || unnamed (bitOf (par c 0 4) 0) c 4 1 || unnamed (bitOf (par c 0 4) 1) c 5 3
        || unnamed (bitOf (par c 0 4) 2) c 8 1 || unnamed (bitOf (par c 0 4) 3) c 0x10 64) = false := by
      rw [hp.hdrBad, hz9.parRes, unnamed_eq_false hn0, unnamed_eq_false hn1, unnamed_eq_false hn2, unnamed_eq_false hn3]
      simp
      omega
    exact judged_ok (by simp [hp.length, hfields])
  · have hn1 : unnamed (bitOf 1 1) c 5 3 = false := unnamed_eq_false fun _ => hz5.sub (by omega) (by omega)
    have hn2 : unnamed (bitOf 1 2) c 8 1 = false := unnamed_eq_false fun _ => hz5.sub (by omega) (by omega)
    have hn3 : unnamed (bitOf 1 3) c 0x10 64 = false := unnamed_eq_false fun _ => hz10
    have hz9 : ZeroPar c 9 7 := hz5.sub (by omega) (by omega)
    have hfields : (hdrBad c || decide (15 < 1) || parRes c 9 7 || decide (1 < par c 4 1) || decide (1 < par c 5 1) || decide (1 < par c 6 1)
        || decide (1 < par c 7 1) || decide (4 < par c 8 1) || unnamed (bitOf 1 0) c 4 1 || unnamed (bitOf 1 1) c 5 3
        || unnamed (bitOf 1 2) c 8 1 || unnamed (bitOf 1 3) c 0x10 64) = false := by
      rw [hp.hdrBad, hz9.parRes, hn1, hn2, hn3, hz5.par (k := 5) (m := 1) (by omega) (by omega), hz5.par (k := 6) (m := 1) (by omega) (by omega),
        hz5.par (k := 7) (m := 1) (by omega) (by omega), hz5.par (k := 8) (m := 1) (by omega) (by omega), decide_eq_false (Nat.not_lt.mpr hhom)]
      rfl
    have hstate : ((bitOf 1 0 && (decide (s.jobs.jobs ≠ []) || anyBound s)) || (bitOf 1 3 && anyBound s)) = true := by
      rcases hbusy with h | h
      · simp [h, bitOf]
      · simp [h, bitOf]
    unfold cellarConfig
    dsimp only
    rw [hfl, hfields, hstate]
    exact judged_fail c [_, _] [_] stWrongState s _ (by simp [hp.length])
  · subst hh htw hfl
    have hpace : (bitOf (par c 2 1) 1 && decide (par c 4 4 ≠ 0) && (decide (par c 4 4 < 200) || decide (1000000 < par c 4 4))) = false := by
      rw [Bool.and_assoc]
      refine guarded_eq_false fun h => ?_
      have := htarget h
      simp
      omega
    have hfields : (hdrBad c || decide (8 < par c 0 1) || decide (3 < par c 1 1) || decide (7 < par c 2 1) || decide (7 < par c 3 1)
        || (bitOf (par c 2 1) 1 && decide (par c 4 4 ≠ 0) && (decide (par c 4 4 < 200) || decide (1000000 < par c 4 4))) || parRes c 0x0C 4)
        = false := by
      rw [hpace, hp.hdrBad, hz.parRes]
      simp
      omega
    subst ht
    unfold bwBudget
    dsimp only
    rewrite [hfields]
    exact judged_ok (by simp [hp.length])
  · subst hact hunit hes
    have hunit' : (if par c 0 1 = 1 ∨ par c 0 1 = 5 then decide (3 < par c 1 1) else if par c 0 1 = 2 then decide (par c 1 1 ≠ 0)
        else decide (15 < par c 1 1)) = false := by
      split_ifs at hunitOk ⊢ <;> simp <;> omega
    unfold memRemap
    dsimp only
    rw [hunit', if_neg (by omega), if_neg (by omega), if_pos (by omega), hzero]
    exact judged_ok (by simp [hp.length, hp.hdrBad, hz.parRes]; omega)
  · subst hact hunit haddr
    have hunit' : (if par c 0 1 = 1 ∨ par c 0 1 = 5 then decide (3 < par c 1 1) else if par c 0 1 = 2 then decide (par c 1 1 ≠ 0)
        else decide (15 < par c 1 1)) = false := by
      split_ifs <;> simp <;> omega
    have haddr : (if par c 0 1 = 3 ∨ par c 0 1 = 4 then unbacked s (par c 8 8) || decide ((locOf s (par c 8 8)).stack ≠ par c 1 1)
        else if par c 0 1 = 5 then decide (2 ^ 24 ≤ par c 8 8) else decide (par c 8 8 ≠ 0)) = false := by
      split_ifs with h h5
      · obtain ⟨-, hbacked, hstack⟩ := hrow (by omega)
        simp [hbacked, hstack]
      · have := hline h5
        simp
        omega
      · omega
    unfold memRemap
    dsimp only
    rewrite [hunit', haddr, if_neg (show ¬ par c 0 1 < 3 by omega), ← hr]
    exact judged_ok (by simp [hp.length, hp.hdrBad, hz.parRes, hstart]; omega)
  · subst hfl
    have hpace' : (bitOf (par c 0 1) 0 && ((decide (par c 4 4 ≠ 0) && (decide (par c 4 4 < 60) || decide (10080 < par c 4 4)))
        || (decide (par c 8 4 ≠ 0) && (decide (par c 8 4 < 10) || decide (3600 < par c 8 4))))) = false := by
      refine guarded_eq_false fun h => ?_
      have := hpace h
      simp
      omega
    have hrange' : (bitOf (par c 0 1) 1 && (decide (par c 0x10 8 % pageBytes ≠ 0) || decide (par c 0x18 8 % pageBytes ≠ 0)
        || decide (0x1000000000 < par c 0x18 8) || decide (hbmTop < par c 0x10 8 + par c 0x18 8)
        || (pagesOf (par c 0x10 8) (par c 0x18 8)).any (unbacked s))) = false := by
      refine guarded_eq_false fun h => ?_
      obtain ⟨ha, hn, hsize, htop, hbacked⟩ := hrange h
      have hpages : (pagesOf (par c 0x10 8) (par c 0x18 8)).any (unbacked s) = false := by simpa using hbacked
      rw [hpages]
      simp [ha, hn]
      omega
    have hs2' : (if bitOf (par c 0 1) 1 then scrubRange (par c 0x10 8) (par c 0x18 8) s1 else (s1, 0, 0)) = (s2, x, y) := hs2
    have hfields : (hdrBad c || decide (7 < par c 0 1) || decide (1 < par c 1 1) || parRes c 2 2 || parRes c 0x0C 4 || false || false
        || unnamed (bitOf (par c 0 1) 1) c 0x10 16) = false := by
      rw [hp.hdrBad, hz2.parRes, hzC.parRes, unnamed_eq_false hnone]
      simp
      omega
    have hs1' : s1 = s.onHbm (fun h => { h with
        hbmPassMin := if bitOf (par c 0 1) 0 then par c 4 4 else h.hbmPassMin, loftPassS := if bitOf (par c 0 1) 0 then par c 8 4 else h.loftPassS
        detect := if bitOf (par c 0 1) 2 then decide (par c 1 1 = 1) else h.detect }) := hs1
    unfold memScrub
    dsimp only
    rewrite [hpace', hrange', hfields, ← hs1', hs2']
    exact judged_ok (by simp [hp.length])
  · subst hfl haddr
    have hjudged := fun hfl => eccInject_judged (s := s) (u := (locOf s (par c 8 8)).stack) (key := par c 8 8) hp (by omega) hfl hz
      (by rw [if_pos htg]; simp [hu, ha, hbacked, hz54.parRes]) (by rw [flipUnit, if_pos htg]) (if_neg (by omega))
    rw [hu] at hjudged
    exact ⟨fun hle hfree => exec_of_waiting hw rfl ((hjudged (by omega)).1 hle hfree),
      fun hdis => exec_of_waiting hw rfl ((hjudged (by omega)).2 hdis)⟩
  · subst hfl haddr hu
    have hjudged := fun hfl => eccInject_judged (s := s) (u := 16 + par c 2 2) hp (by omega) hfl hz
      (by rw [if_neg (by omega), if_pos htg]; simp [hz18.parRes, hz51.parRes]; omega) (by rw [flipUnit, if_neg (by omega), if_pos htg]) (if_pos htg)
    rw [Nat.mod_eq_of_lt (show par c 2 2 < 4096 by omega)] at hjudged
    exact ⟨fun hle hfree => exec_of_waiting hw rfl ((hjudged (by omega)).1 hle hfree),
      fun hdis => exec_of_waiting hw rfl ((hjudged (by omega)).2 hdis)⟩
  · subst hfl hu hk
    have hjudged := fun (h : par c 1 1 = 0 ∨ par c 1 1 = 2) =>
      eccInject_judged (s := s) (u := 20 + 6 * bitsOf (par c 2 2) 15 15 + bitsOf (par c 2 2) 14 12) (key := 0) hp (by omega) (by omega) hz
      (by rw [if_neg (by omega), if_neg (by omega)]
          rcases h with h | h <;> simp [h, hz18.parRes, hz51.parRes, haddr, bitOf] <;> omega)
      (by rw [flipUnit, if_neg (by omega), if_neg (by omega)]) (by rw [if_neg (by omega), haddr])
    refine ⟨fun h0 hfree => exec_of_waiting hw rfl ?_, fun h2 => exec_of_waiting hw rfl ((hjudged (.inr h2)).2 (.inl h2))⟩
    have harm := (hjudged (.inl h0)).1 (by omega) hfree
    rw [h0] at harm
    exact harm

end Sys2Proof.Machine
end

section
/-! PROOFS. The loft's events. -/

namespace Sys2Proof.Machine

/-! ### The loft's events -/

theorem nextServed_some {t : Tower} {col : Nat} {s s2 : State} {r : LoftReq} (h : nextServed t col s = some (r, s2)) :
    r ∈ (s.loft.tw.get t).arrivals ∧ reqColumn s t r = col ∧ serveRequest t col r s = some s2
    ∧ (∀ x ∈ (s.loft.tw.get t).arrivals.takeWhile (fun x => x.id ≠ r.id), reqLine x ≠ reqLine r)
    ∧ (∀ x ∈ (s.loft.tw.get t).reducing, reqLine x ≠ reqLine r) ∧ (holdOf s t col).length < 8 := by
  unfold nextServed at h
  dsimp only at h
  split at h
  · cases h
  · next hroom =>
    obtain ⟨q, hq, hserved⟩ := List.exists_of_findSome?_eq_some h
    split at hserved
    · next hfree =>
      obtain ⟨x, hx, hpair⟩ := Option.map_eq_some_iff.mp hserved
      cases hpair
      simp only [Bool.and_eq_true, decide_eq_true_eq, Bool.not_eq_true', List.any_eq_false] at hfree
      obtain ⟨⟨hcol, hearlier⟩, hbusy⟩ := hfree
      exact ⟨hq, hcol, hx, fun y hy => hearlier y hy, fun y hy => hbusy y hy, Nat.not_le.mp hroom⟩
    · cases hserved

/-- The code chosen so far, over the codes looked at: it applies, and no code that applies is better. -/
theorem encBest_upTo (bs : List Byte) (n : Nat) (b : Nat)
    (hb : b = (List.range n).foldl (fun best c => if encApplies c bs && decide (encSlots c < encSlots best) then c else best) 0) :
    encApplies b bs = true ∧ b ≤ n
    ∧ ∀ c, c < n → encApplies c bs = true → encSlots b < encSlots c ∨ (encSlots b = encSlots c ∧ b ≤ c) := by
  induction n generalizing b with
  | zero =>
    subst hb
    exact ⟨rfl, Nat.le_refl 0, fun c hc => absurd hc (Nat.not_lt_zero c)⟩
  | succ n ih =>
    rw [List.range_succ, List.foldl_append] at hb
    obtain ⟨happ, hle, hmin⟩ := ih _ rfl
    generalize (List.range n).foldl _ 0 = p at hb happ hle hmin
    dsimp only [List.foldl_cons, List.foldl_nil] at hb
    split at hb
    · next hbetter =>
      obtain ⟨hn, hless⟩ : encApplies n bs = true ∧ encSlots n < encSlots p := by simpa using hbetter
      subst hb
      refine ⟨hn, by omega, fun c hc hcapp => ?_⟩
      rcases Nat.lt_succ_iff_lt_or_eq.mp hc with h | rfl
      · have := hmin c h hcapp
        omega
      · exact .inr ⟨rfl, Nat.le_refl c⟩
    · next hworse =>
      subst hb
      refine ⟨happ, by omega, fun c hc hcapp => ?_⟩
      rcases Nat.lt_succ_iff_lt_or_eq.mp hc with h | rfl
      · exact hmin c h hcapp
      · have hno : ¬ encSlots c < encSlots b := by simpa [hcapp] using hworse
        omega

/-- Settles O41: event by event, from the request, line or write-back that comes first. -/
theorem loftEventsComplete : Obligations.LoftEventsComplete := by
  unfold Obligations.LoftEventsComplete
  refine ⟨fun s t col flips s1 hs1 => ⟨fun r s2 h => congrArg Host.Outcome.next ?_, fun h => congrArg Host.Outcome.next ?_⟩,
    fun s t col r s2 h => nextServed_some h, fun s t id r h => congrArg Host.Outcome.next ?_, fun s t id h => congrArg Host.Outcome.next ?_,
    fun s t col m d p served hm hmerge hserved => ?_, fun s t col h => congrArg Host.Outcome.next ?_,
    fun s t col e rest k s1 c s2 hwb hk hs1 hc hs2 => congrArg Host.Outcome.next ?_, fun s t col e rest h => ?_,
    fun s t col h => congrArg Host.Outcome.next ?_, fun s t m h => congrArg Host.Outcome.next ?_, fun s t h => congrArg Host.Outcome.next ?_,
    fun s t h1 h2 h3 => congrArg Host.Outcome.next (if_pos ⟨h1, h2, h3⟩), fun s t h => congrArg Host.Outcome.next (if_neg ?_),
    fun s t k h1 h2 h3 hk => congrArg Host.Outcome.next ?_, fun s t h => congrArg Host.Outcome.next (if_neg ?_), fun bs => ?_⟩
  · unfold loftAccess
    dsimp only
    rw [← hs1, h]
  · unfold loftAccess
    dsimp only
    rw [← hs1, h]
  · unfold memorySideReduction
    rw [h]
  · have hnone : (s.loft.tw.get t).reducing.find? (fun r => decide (r.id = id)) = none := List.find?_eq_none.mpr (by simpa using h)
    unfold memorySideReduction
    rw [hnone]
  · have hclose : closeMiss t col m s = served.map (fun s2 =>
        issueHeld t col 8 (setMiss t col ((missOf s2 t col).filter (fun x => x.la ≠ m.la)) s2)) := by
      have hcond : (if (!m.waiters.any (fun r => r.agent.alloc)) = true then some (answerReads m.la d p m.waiters s)
          else (match tabGet s.loft.bulk m.la with
            | some l => if l.valid = 0xF#4 then some s else mergeLine m.la l d p (m.waiters.any (fun r => r.agent.staged)) s
            | none => placeLine t m.la d 0xF#4 0#4 p (m.waiters.any (fun r => r.agent.staged)) true s).bind
              (fun s1 => m.waiters.foldl (fun o r => o.bind (serveWaiter r)) (some s1))) = served := by
        rw [hserved]
        cases m.waiters.any (fun r => r.agent.alloc) <;> rfl
      unfold closeMiss
      rewrite [← hcond]
      dsimp only
      rewrite [hmerge]
      rfl
    refine ⟨fun s2 h => congrArg Host.Outcome.next ?_, fun h => congrArg Host.Outcome.next ?_⟩
    · unfold bulkFillComplete
      rw [hm]
      dsimp only
      rw [hclose, h]
      rfl
    · unfold bulkFillComplete
      rw [hm]
      dsimp only
      rw [hclose, h]
      rfl
  · unfold bulkFillComplete
    rw [h]
  · unfold writebackAccepted
    rw [hwb]
    dsimp only
    rw [← hk, ← hs1, ← hc, ← hs2]
  · unfold wbPop
    rw [h]
  · unfold writebackAccepted
    rw [h]
  · unfold fineFillComplete
    rw [h]
    rfl
  · unfold fineFillComplete
    rw [h]
  · rintro ⟨h1, h2, h3⟩
    rcases h with h | h | h
    · exact h1 h
    · omega
    · rw [h] at h3
      cases h3
  · subst hk
    exact if_pos ⟨h1, h2, h3⟩
  · rintro ⟨h1, h2, h3⟩
    rcases h with h | h | h
    · exact h1 h
    · omega
    · rw [h] at h3
      cases h3
  · obtain ⟨happ, -, hmin⟩ := encBest_upTo bs 10 _ rfl
    exact ⟨happ, hmin⟩

end Sys2Proof.Machine
end

section
/-! PROOFS. The HBM channels. -/

namespace Sys2Proof.Machine

/-! ### The HBM channels -/

theorem mem_of_bestReq {s : State} {t : Tower} {c : Chan} {limit : Bool} {rs : List HbmReq} {r : HbmReq} (h : bestReq s t c limit rs = some r) :
    r ∈ rs := by
  have hstep : ∀ (l : List HbmReq) (b : Option HbmReq), (∀ x ∈ b, x ∈ rs) → (∀ x ∈ l, x ∈ rs) →
      ∀ x ∈ l.foldl (fun best r => match best with
        | none => some r
        | some b => if goesBefore s t c limit r b then some r else some b) b, x ∈ rs := by
    intro l
    induction l with
    | nil => exact fun b hb _ x hx => hb x hx
    | cons y ys ih =>
      intro b hb hl
      refine ih _ (fun x hx => ?_) fun x hx => hl x (by simp [hx])
      cases b with
      | none =>
        cases hx
        exact hl y (by simp)
      | some z =>
        dsimp only at hx
        split at hx
        · cases hx
          exact hl y (by simp)
        · exact hb x hx
  exact hstep rs none (fun x hx => by cases hx) (fun x hx => hx) r h

theorem mem_of_bestReq_filter {s : State} {t : Tower} {c : Chan} {limit : Bool} {rs : List HbmReq} {p : HbmReq → Bool} {r : HbmReq}
    (h : bestReq s t c limit (rs.filter p) = some r) : r ∈ rs := List.mem_of_mem_filter (mem_of_bestReq h)

theorem mem_of_candidates {s : State} {c : Chan} {pc : Nat} {r : HbmReq} (h : r ∈ candidates s c pc) : r ∈ c.queue ∧ inBlockOrder c r = true := by
  have hok : r ∈ (c.queue.filter (fun r => decide ((locOf s r.addr).pc = pc))).filter (inBlockOrder c) := by
    unfold candidates at h
    dsimp only at h
    split at h
    · exact h
    · exact List.mem_of_mem_filter h
  obtain ⟨hmine, horder⟩ := List.mem_filter.mp hok
  exact ⟨List.mem_of_mem_filter hmine, horder⟩

/-- What a pseudo-channel serves next is one of its candidates (R218 to R220). -/
theorem mem_of_selectPc {s : State} {t : Tower} {c : Chan} {pc : Nat} {r : HbmReq} (h : selectPc s t c pc = some r) : r ∈ candidates s c pc := by
  unfold selectPc at h
  dsimp only at h
  split at h
  · next haged =>
    cases h
    exact mem_of_bestReq_filter haged
  · split at h
    · split at h
      · cases h
      · next b hb =>
        split at h
        · cases h
          exact mem_of_bestReq hb
        · split at h
          · next hx =>
            cases h
            exact mem_of_bestReq_filter hx
          · cases h
            exact mem_of_bestReq hb
    · split at h
      · next hx =>
        cases h
        exact mem_of_bestReq_filter hx
      · exact mem_of_bestReq h

/-- A channel serves the choice of one of its two pseudo-channels that passes the test. -/
theorem selectReq_some {s : State} {stack : Nat} {c : Chan} {ok : HbmReq → Bool} {r : HbmReq} (h : selectReq s stack c ok = some r) :
    ∃ pc, (selectPc s (towerOfStack stack) c pc).filter ok = some r := by
  unfold selectReq at h
  dsimp only at h
  split at h
  · next a b ha hb =>
    split at h
    · split at h
      · exact ⟨0, ha.trans h⟩
      · exact ⟨1, hb.trans h⟩
    · split at h
      · exact ⟨0, ha.trans h⟩
      · exact ⟨1, hb.trans h⟩
  · next ha _ => exact ⟨0, ha.trans h⟩
  · exact ⟨1, h⟩

theorem selectReq_sound {s : State} {stack : Nat} {c : Chan} {ok : HbmReq → Bool} {r : HbmReq} (h : selectReq s stack c ok = some r) :
    r ∈ c.queue ∧ inBlockOrder c r = true ∧ ok r = true := by
  obtain ⟨pc, hpc⟩ := selectReq_some h
  obtain ⟨hpick, hok⟩ := Option.filter_eq_some_iff.mp hpc
  obtain ⟨hmem, horder⟩ := mem_of_candidates (mem_of_selectPc hpick)
  exact ⟨hmem, horder, hok⟩

theorem chanAt_of_tabGet {s : State} {k : Nat} {c : Chan} (h : tabGet s.hbm.chans k = some c) : chanAt s k = c := by
  unfold chanAt tabGetD
  rw [h]
  rfl

/-- A channel after a refresh: the bank's row, or every row, closed. -/
def closedRows (bank : Option Nat) (c : Chan) : Chan :=
  { c with openRows := match bank with
    | some b => tabDel c.openRows b
    | none => [] }

theorem ctrHbm_eq (t : Tower) (k n : Nat) (s : State) : ctrHbm t k n s = { s with obs := (ctrHbm t k n s).obs } := by
  unfold ctrHbm ctrAdd
  split <;> rfl

/-- What a refresh that is not put off leaves: the bank's rows, or the stack's, closed (R222). -/
theorem hbmRefresh_closes {s : State} {stack : Nat} {bank : Option Nat} (hstack : stack < 16)
    (hlost : (tabGetD s.hbm.hbmStacks stack Stack.fresh).lost = false) (hself : (tabGetD s.hbm.hbmStacks stack Stack.fresh).selfRefresh = false)
    (hbank : bank.isNone = (s.hbm.mixed.get (towerOfStack stack) && s.hbm.allBank.get (towerOfStack stack)))
    (hgo : bankWaits s stack bank = false ∨ 7 ≤ tabGetD (tabGetD s.hbm.hbmStacks stack Stack.fresh).postponed (bank.getD 128) 0) :
    ∃ o st, hbmRefresh stack bank s = { s with
      obs := o
      hbm := { s.hbm with
        hbmStacks := st
        chans := s.hbm.chans.map (fun e => if e.1 / 32 = stack then (e.1, closedRows bank e.2) else e) } } := by
  unfold hbmRefresh
  dsimp only
  rw [if_neg (by rw [hlost, hself]; simp [hbank]; omega), if_neg (by rcases hgo with h | h <;> simp [h]), ctrHbm_eq]
  exact ⟨_, _, rfl⟩

theorem tabGet_map_val {α : Type} (m : Tab α) (f : Nat × α → Nat × α) (hf : ∀ e, (f e).1 = e.1) (k : Nat) :
    tabGet (m.map f) k = (tabGet m k).map (fun v => (f (k, v)).2) := by
  induction m with
  | nil => rfl
  | cons x m ih =>
    obtain ⟨j, v⟩ := x
    have hx : f (j, v) = (j, (f (j, v)).2) := Prod.ext (hf (j, v)) rfl
    rw [List.map_cons, hx]
    unfold tabGet
    split
    · next h =>
      subst h
      rfl
    · split
      · rfl
      · exact ih

/-- A channel whose requests that have waited 20 µs are aged; an early STAGE request is not (R218). -/
def agedChan (now : Nat) (c : Chan) : Chan :=
  { c with queue := c.queue.map (fun r =>
      if r.enterNs + 20000 ≤ now && !(decide (r.holder = 4) && r.early) then { r with aged := true } else r) }

theorem hbmAgePriority_eq {s : State} {stack ch : Nat} {r : HbmReq}
    (h : (chanAt s (stack * 32 + ch)).queue.find? (fun r => !r.aged && !(decide (r.holder = 4) && r.early)) = some r) :
    hbmAgePriority stack ch s = (s.timeTo (r.enterNs + 20000)).onHbm (fun h => { h with
      chans := tabMod h.chans (stack * 32 + ch) (agedChan (max s.nowNs (r.enterNs + 20000))) }) := by
  unfold hbmAgePriority
  dsimp only
  rw [h]
  rfl

/-- Settles O42: a request by the queue's limits, the one served by its rank, a refresh by the bank's state. -/
theorem hbmChannelsComplete : Obligations.HbmChannelsComplete := by
  unfold Obligations.HbmChannelsComplete
  refine ⟨fun s stack ch k s1 c hk hs1 hc => ⟨fun hidle => congrArg Host.Outcome.next ?_, fun r rest s2 hin hside hs2 =>
      ⟨fun hno => congrArg Host.Outcome.next ?_, fun hok hfull => congrArg Host.Outcome.next ?_, fun hok hroom => congrArg Host.Outcome.next ?_⟩⟩,
    fun s stack c ok r h => selectReq_sound h,
    fun s stack ch err inner h => ⟨congrArg Host.Outcome.next (if_neg (by simp [h])), congrArg Host.Outcome.next (if_neg (by simp [h]))⟩,
    fun s stack ch k err inner hk hserves => ⟨fun h => congrArg Host.Outcome.next ?_, fun r h => congrArg Host.Outcome.next ?_,
      fun h => congrArg Host.Outcome.next ?_, fun r h => ⟨Config.innerCorr s.freeCtr % 2, by omega, congrArg Host.Outcome.next ?_⟩⟩,
    fun s k r ns err inner t s1 s2 ht hs1 hs2 => ⟨fun op ty job ops ret hsrc => ?_, fun hsrc hwrite => ?_, fun hsrc hwrite s4 data poison hread => ?_⟩,
    fun s stack ch c r rest hc hq haged hstage => ?_, fun s stack ch h => congrArg Host.Outcome.next ?_,
    fun r u => ⟨?_, fun h => if_pos h, fun h => ?_⟩,
    fun s stack bank st n hstack hst hlost hself hbank hn =>
      ⟨fun hwaits hlt => congrArg Host.Outcome.next ?_, fun hgo => ?_⟩,
    fun s stack bank h => congrArg Host.Outcome.next (if_pos (.inr (.inr (.inr h)))),
    fun s t h u hu => ⟨fun hle => congrArg Host.Outcome.next ?_, fun hgt => congrArg Host.Outcome.next (if_neg (by omega))⟩⟩
  · unfold hbmRequest
    dsimp only
    rw [← hk, ← hs1, ← hc]
    rcases hidle with h | h
    · rw [h]
    · split
      · rfl
      · exact if_pos h
  · unfold hbmRequest
    dsimp only
    rw [← hk, ← hs1, ← hc, hin]
    dsimp only
    rw [if_neg (by omega), if_pos (by simp [hno]), ← hs2]
  · unfold hbmRequest
    dsimp only
    rw [← hk, ← hs1, ← hc, hin]
    dsimp only
    rw [if_neg (by omega), if_neg (by simp [hok]), if_pos hfull]
  · unfold hbmRequest
    dsimp only
    rw [← hk, ← hs1, ← hc, hin]
    dsimp only
    rw [if_neg (by omega), if_neg (by simp [hok]), if_neg (by omega), ← hs2]
  · unfold hbmAccessComplete
    dsimp only
    rw [← hk, if_pos hserves, h]
  · unfold hbmAccessComplete
    dsimp only
    rw [← hk, if_pos hserves, h]
  · unfold floorReduction
    dsimp only
    rw [← hk, if_pos hserves, h]
  · unfold floorReduction
    dsimp only
    rw [← hk, if_pos hserves, h]
  · subst ht hs1 hs2
    unfold hbmServe
    rw [hsrc]
  · subst ht hs1 hs2
    unfold hbmServe
    cases h : r.src with
    | adder op ty job ops ret => simp [isAdder, h] at hsrc
    | _ => exact if_pos hwrite
  · subst ht hs1 hs2
    unfold hbmServe
    cases h : r.src with
    | adder op ty job ops ret => simp [isAdder, h] at hsrc
    | _ =>
      dsimp only
      rw [if_neg (by simp [hwrite]), hread]
  · have hwaits : (!r.aged && !(decide (r.holder = 4) && r.early)) = true := by
      simpa [haged, imp_iff_not_or] using hstage
    have hfind : (chanAt s (stack * 32 + ch)).queue.find? (fun r => !r.aged && !(decide (r.holder = 4) && r.early)) = some r := by
      rw [chanAt_of_tabGet hc, hq]
      exact List.find?_cons_of_pos hwaits
    have hold : (decide (r.enterNs + 20000 ≤ max s.nowNs (r.enterNs + 20000)) && !(decide (r.holder = 4) && r.early)) = true := by
      rw [decide_eq_true (Nat.le_max_right _ _)]
      simpa [haged] using hwaits
    refine ⟨_, congrArg Host.Outcome.next (hbmAgePriority_eq hfind), rfl, ⟨agedChan (max s.nowNs (r.enterNs + 20000)) c, ?_, ?_⟩, rfl, rfl⟩
    · exact (tabGet_tabMod _ _ _ _).trans (by rw [if_pos rfl]; exact congrArg (Option.map _) hc)
    · unfold agedChan
      rw [hq, List.map_cons, List.head?_cons, if_pos hold]
  · have hnone : (chanAt s (stack * 32 + ch)).queue.find? (fun r => !r.aged && !(decide (r.holder = 4) && r.early)) = none := by
      refine List.find?_eq_none.mpr fun r hr => ?_
      rcases h r hr with h | ⟨h, h'⟩
      · simp [h]
      · simp [h, h']
    unfold hbmAgePriority
    dsimp only
    rw [hnone]
  · unfold prioOf
    split
    · omega
    · exact Nat.min_le_right _ _
  · simp [overBudget, h]
  · subst hst hn
    unfold hbmRefresh
    dsimp only
    rw [if_neg (by rw [hlost, hself]; simp [hbank]; omega), if_pos ⟨hwaits, hlt⟩]
  · subst hst hn
    obtain ⟨o, sts, heq⟩ := hbmRefresh_closes hstack hlost hself hbank hgo
    refine ⟨_, congrArg Host.Outcome.next heq, fun ch c hch hc => ?_, rfl, rfl, rfl⟩
    dsimp only
    rw [tabGet_map_val _ _ (fun e => by split <;> rfl), hc]
    dsimp only [Option.map_some]
    rw [if_pos (by omega)]
    rfl
  · subst hu
    unfold holderBudgetWindowEnd
    exact if_pos hle

end Sys2Proof.Machine
end

section
/-! PROOFS. Repairs. -/

namespace Sys2Proof.Machine

/-! ### Repairs -/

/-- A bond group that has spares left for its failing wires keeps them, else it is retired (R246, R247). -/
theorem markWire_eq {g : GroupRef} {w : Nat} {s : State} (hw : w < 72) (hopen : (groupAt s g).retired = false)
    (hnew : (groupAt s g).failing.contains w = false) :
    markWire g w s = if (freeSpares { groupAt s g with failing := (groupAt s g).failing ++ [w] }).length < (groupAt s g).failing.length + 1
      then retireGroup g 1 w s else setGroup g { groupAt s g with failing := (groupAt s g).failing ++ [w] } s := by
  have hfails : wireFails (groupAt s g) w = { groupAt s g with failing := (groupAt s g).failing ++ [w] } := by
    unfold wireFails
    rw [if_neg (by omega), hnew]
    rfl
  unfold markWire
  rw [if_neg (by simp [hopen])]
  dsimp only
  rw [hfails, if_pos hw]
  simp

theorem retireGroup_eq {g : GroupRef} {cause wire n : Nat} {s s2 s3 : State} (hopen : (groupAt s g).retired = false)
    (hcol : (if g.iface = 2 ∨ g.iface = 3 then retireColumn g.tower (mappedOut g) (setGroup g { groupAt s g with retired := true } s)
      else (setGroup g { groupAt s g with retired := true } s, 0)) = (s2, n))
    (hs3 : s3 = s2.onFlash (fun f => { f with
      defects := f.defects ++ [⟨6, true, towerNum g.tower, 0xFF, groupIndex g, cause⟩]
        ++ (if g.iface = 2 ∨ g.iface = 3 then [⟨3, true, towerNum g.tower, 0xFF, mappedOut g, 1⟩] else []) })) :
    retireGroup g cause wire s = match jobOfTower s3 g.tower with
      | some j => jobFault j.id evBondGroupDegraded (bondDetail s3 g cause wire n) s3
      | none => postNotice evBondGroupDegraded 0 (bondDetail s3 g cause wire n) s3 := by
  unfold retireGroup
  rw [if_neg (by simp [hopen])]
  simp only [decide_eq_true_eq]
  rewrite [hcol]
  dsimp only
  rewrite [← hs3]
  cases jobOfTower s3 g.tower <;> rfl

/-- Settles O43: each table by the room it has left, a bond group by its count of failures. -/
theorem repairsComplete : Obligations.RepairsComplete := by
  unfold Obligations.RepairsComplete
  refine ⟨fun s a src => ⟨fun h => congrArg Host.Outcome.next (if_pos h), fun h => congrArg Host.Outcome.next ?_⟩,
    fun s a src l n hl hfree hn => ⟨fun hroom => ?_, fun hfull => ?_⟩,
    fun s a l k src hl hfour hnone hsrc => ⟨fun h => congrArg Host.Outcome.next ?_, fun h => congrArg Host.Outcome.next ?_⟩,
    fun s a l hl h => congrArg Host.Outcome.next ?_,
    fun s die bank line src ks hks => ⟨fun h => congrArg Host.Outcome.next ?_, fun h3 h4 h => congrArg Host.Outcome.next ?_⟩,
    fun s die bank line src tab hnone htab => ⟨fun hroom => ?_, fun hfull => ?_⟩,
    fun s stack ch pc pin k pins hk hpins => ⟨fun htally hpin => congrArg Host.Outcome.next ?_, fun h => congrArg Host.Outcome.next ?_⟩,
    fun s unit a err s1 hunit hpass hbacked hstack hs1 =>
      ⟨Config.innerCorr s.freeCtr % 2, by omega, congrArg Host.Outcome.next ?_⟩,
    fun s unit a err die hlo hhi hpass ha hdie => congrArg Host.Outcome.next ?_,
    fun s g failed zs s1 b hs1 hb hopen => ⟨fun h => congrArg Host.Outcome.next ?_, fun h hlt => congrArg Host.Outcome.next ?_,
      fun h hge => ⟨Config.openField s1.freeCtr % 72, by omega, congrArg Host.Outcome.next ?_⟩⟩,
    fun s g wire => rfl, fun s g wire hw hfresh => ?_, fun s g w1 w2 w hw h1 h2 hspares => ?_,
    fun s g s1 s2 n s3 hopen hs1 hcol hs3 => ⟨fun j hj => congrArg Host.Outcome.next ?_, fun hj => congrArg Host.Outcome.next ?_⟩⟩
  · unfold hbmBlockRepair
    rw [if_neg (by simp [h])]
    split
    · next h4 => rw [h4]
    · rfl
  · subst hl hn
    unfold addBlock
    dsimp only
    rw [if_neg (by simp [hfree]), if_neg (by omega)]
  · subst hl hn
    unfold addBlock
    dsimp only
    rw [if_neg (by simp [hfree]), if_pos hfull]
  · subst hl hsrc
    unfold hbmRowRepair
    dsimp only
    rw [if_pos hfour]
    unfold addRow
    dsimp only
    rw [if_neg (by simp [hnone]), h]
  · subst hl hsrc
    unfold hbmRowRepair
    dsimp only
    rw [if_pos hfour]
    unfold addRow
    dsimp only
    rw [if_neg (by simp [hnone]), h]
  · subst hl
    exact if_neg (by omega)
  · subst hks
    exact if_pos (by rcases h with h | h | h <;> simp [h])
  · subst hks
    exact if_neg (by simp [h3, h4, h])
  · subst htab
    unfold addLine
    rw [if_neg (by simp [hnone]), if_neg (by omega)]
  · unfold addLine
    rw [if_neg (by simp [hnone]), if_pos hfull]
  · subst hk hpins
    exact if_pos ⟨htally, hpin⟩
  · subst hk hpins
    exact if_neg (by rcases h with h | h <;> simp [h])
  · unfold scrubPatrol
    dsimp only
    rw [if_pos hunit, if_neg (by simp [hpass, hbacked, hstack]), ← hs1]
  · subst hdie
    unfold scrubPatrol
    rw [if_neg (by omega), if_pos ⟨hhi, hpass, ha⟩]
  · unfold vlReplay
    dsimp only
    rw [← hs1, ← hb, if_neg (by simp [hopen]), if_pos (by simp [h])]
  · unfold vlReplay
    dsimp only
    rw [← hs1, ← hb, if_neg (by simp [hopen]), if_neg (by simp [h]), if_neg (by omega)]
  · unfold vlReplay
    dsimp only
    rw [← hs1, ← hb, if_neg (by simp [hopen]), if_neg (by simp [h]), if_pos hge]
  · rw [markWire_eq hw (by rw [hfresh]; rfl) (by rw [hfresh]; rfl), hfresh]
    exact if_neg (by simp [freeSpares, BondGroup.fresh])
  · rw [markWire_eq hw (by rw [hspares]; rfl) (by rw [hspares]; rfl), hspares]
    exact if_pos (by simp [freeSpares, BondGroup.fresh])
  · subst hs1
    rw [retireGroup_eq hopen hcol hs3, hj]
  · subst hs1
    rw [retireGroup_eq hopen hcol hs3, hj]

end Sys2Proof.Machine
end

section
/-! PROOFS. Fabric commands. -/

namespace Sys2Proof.Machine

/-! ### Ports and routes -/

/-- A list of entries in rising order of their keys, made from the keys that pass a test. -/
theorem tabGet_range_map {α : Type} (n : Nat) (p : Nat → Bool) (f : Nat → α) (k : Nat) :
    tabGet (((List.range n).filter p).map (fun l => (l, f l))) k = if k < n ∧ p k = true then some (f k) else none := by
  split
  · next h =>
    refine tabGet_of_mem ?_ (List.mem_map.mpr ⟨k, List.mem_filter.mpr ⟨List.mem_range.mpr h.1, h.2⟩, rfl⟩)
    rw [tabWf_iff_pairwise, List.pairwise_map]
    exact List.Pairwise.filter p List.pairwise_lt_range
  · next h =>
    refine tabGet_eq_none_of_ne fun y hy => ?_
    obtain ⟨l, hl, rfl⟩ := List.mem_map.mp hy
    obtain ⟨hlt, hp⟩ := List.mem_filter.mp hl
    rintro rfl
    exact h ⟨List.mem_range.mp hlt, hp⟩

theorem cmisApply_fab (low : Bool) (s : State) : (cmisApply low s).fab = s.fab := by
  unfold cmisApply
  refine foldl_invariant (fun st fx => cmisWrite fx low st) State.fab (fun st fx => ?_) _ s
  unfold cmisWrite
  dsimp only
  split <;> rfl

theorem isLogical_lt {cfg : PortCfg} {l : Nat} (h : isLogical cfg l = true) : l < 48 := by
  unfold isLogical at h
  simp only [Bool.and_eq_true, decide_eq_true_eq] at h
  exact h.1

/-- The state a port starts in: it trains, unless its module holds it down. -/
def startedPort (s : State) (l : Nat) : Port :=
  if (Port.fresh s l).blocked then { Port.fresh s l with link := .down } else Port.fresh s l

theorem startPorts_ports (s : State) :
    (startPorts s).fab.ports = ((List.range 48).filter (fun l => isLogical s.fab.cfg l && !laneLost s l)).map (fun l => (l, startedPort s l)) := by
  unfold startPorts
  rw [cmisApply_fab]
  rfl

theorem fresh_port (s : State) (l : Nat) :
    (Port.fresh s l).enabled = true ∧ (Port.fresh s l).neighbor = none ∧ (Port.fresh s l).delayNs = 0 ∧ (Port.fresh s l).link = .training := by
  unfold Port.fresh
  dsimp only
  split <;> exact ⟨rfl, rfl, rfl, rfl⟩

theorem startedPort_spec (s : State) (l : Nat) :
    (startedPort s l).enabled = true ∧ (startedPort s l).neighbor = none ∧ (startedPort s l).delayNs = 0
    ∧ (startedPort s l).link = if (startedPort s l).blocked then .down else .training := by
  obtain ⟨hon, hno, hzero, htrain⟩ := fresh_port s l
  unfold startedPort
  split
  · next h =>
    exact ⟨hon, hno, hzero, (if_pos h).symm⟩
  · next h =>
    exact ⟨hon, hno, hzero, htrain⟩

/-- One entry of FAB.ROUTES written: zeros remove it (R324). -/
def routePut (m : Tab Route) (i : Nat) (e : List Byte) : Tab Route := if e.all (· == 0#8) then tabDel m i else tabPut m i (routeOf e)

theorem tabWf_routePut {m : Tab Route} (i : Nat) (e : List Byte) (hm : tabWf m = true) : tabWf (routePut m i e) = true := by
  unfold routePut
  split
  · exact tabWf_tabDel m i hm
  · exact tabWf_tabPut m i _ hm

theorem tabGet_routePut_self {m : Tab Route} (i : Nat) (e : List Byte) (hm : tabWf m = true) :
    tabGet (routePut m i e) i = if e.all (· == 0#8) then none else some (routeOf e) := by
  unfold routePut
  split
  · exact tabGet_tabDel_self m i hm
  · exact tabGet_tabPut_self m i _

theorem tabGet_routePut_ne {m : Tab Route} {i k : Nat} (e : List Byte) (hm : tabWf m = true) (h : k ≠ i) :
    tabGet (routePut m i e) k = tabGet m k := by
  unfold routePut
  split
  · exact tabGet_tabDel_ne m i k hm h
  · exact tabGet_tabPut_ne m i k _ h

/-- The route table after a run of entries (R324). -/
def routesPut (first : Nat) (es : List (List Byte)) (m : Tab Route) : Tab Route :=
  (es.foldl (fun (a : Nat × Tab Route) e => (a.1 + 1, routePut a.2 a.1 e)) (first, m)).2

theorem routesPut_cons (first : Nat) (e : List Byte) (es : List (List Byte)) (m : Tab Route) :
    routesPut first (e :: es) m = routesPut (first + 1) es (routePut m first e) := rfl

theorem tabGet_routesPut_out {es : List (List Byte)} {first : Nat} {m : Tab Route} (hm : tabWf m = true) {i : Nat}
    (h : i < first ∨ first + es.length ≤ i) : tabGet (routesPut first es m) i = tabGet m i := by
  induction es generalizing first m with
  | nil => rfl
  | cons e es ih =>
    rw [List.length_cons] at h
    rw [routesPut_cons, ih (tabWf_routePut first e hm) (by omega), tabGet_routePut_ne e hm (by omega)]

theorem tabGet_routesPut_in {es : List (List Byte)} {first : Nat} {m : Tab Route} (hm : tabWf m = true) {i : Nat} {e : List Byte}
    (h : es[i]? = some e) : tabGet (routesPut first es m) (first + i) = if e.all (· == 0#8) then none else some (routeOf e) := by
  induction es generalizing first m i with
  | nil => simp at h
  | cons x es ih =>
    rw [routesPut_cons]
    cases i with
    | zero =>
      obtain rfl : x = e := by simpa using h
      rw [Nat.add_zero, tabGet_routesPut_out (tabWf_routePut first x hm) (.inl (by omega))]
      exact tabGet_routePut_self first x hm
    | succ i =>
      rw [show first + (i + 1) = first + 1 + i by omega]
      exact ih (tabWf_routePut first x hm) (by simpa using h)

/-! ### Topology agreement -/

theorem topoTry_held {s : State} {c : Cmd} {mb : Nat} (hheld : s.fab.topoHeld = some mb) (hrun : Running s mb 0x0403 c) :
    topoTry s = if 9 ≤ s.boot.stage ∧ topoSettled s c ∧ !stageWaits s then topoJudge c s else s := by
  unfold topoTry
  rw [hheld, Option.bind_some, startedCmd_running hrun]

/-- What a judgement reports for each entry (Table 14.10). -/
def topoVerdicts (c : Cmd) (s : State) : List (Nat × Nat) := (topoEntries c).map (fun e => (fieldAt e 0 1, topoStatus s e))

theorem topoVerdicts_good {c : Cmd} {s : State} (h : ∀ e ∈ topoEntries c, topoStatus s e = 0) :
    (topoVerdicts c s).filter (fun x => decide (x.2 ≠ 0)) = [] := by
  refine List.filter_eq_nil_iff.mpr fun x hx => ?_
  obtain ⟨e, he, rfl⟩ := List.mem_map.mp hx
  simp [h e he]

theorem topoVerdicts_bytes {c : Cmd} {s : State} (h : ∀ e ∈ topoEntries c, topoStatus s e = 0) :
    (topoVerdicts c s).map (fun x => BitVec.ofNat 8 x.2) = List.replicate (topoEntries c).length 0#8 := by
  refine List.eq_replicate_iff.mpr ⟨by simp [topoVerdicts], fun b hb => ?_⟩
  obtain ⟨x, hx, rfl⟩ := List.mem_map.mp hb
  obtain ⟨e, he, rfl⟩ := List.mem_map.mp hx
  simp [h e he]

theorem topoJudge_good {c : Cmd} {s t : State}
    (ht : t = complete c stDone (leBytes (topoEntries c).length 2 ++ leBytes 0 2 ++ leBytes 0 4
      ++ List.replicate (topoEntries c).length 0#8) (s.onFab (fun f => { f with topoHeld := none })))
    (h : ∀ e ∈ topoEntries c, topoStatus s e = 0) : topoJudge c s = if s.boot.stage = 9 then enterReady t else t := by
  have hbad := topoVerdicts_good h
  have hbytes := topoVerdicts_bytes h
  have hlen : (topoVerdicts c s).length = (topoEntries c).length := List.length_map _
  have hstage : t.boot.stage = s.boot.stage := by
    obtain ⟨n, h, o, e⟩ := complete_frame c stDone (leBytes (topoEntries c).length 2 ++ leBytes 0 2 ++ leBytes 0 4
      ++ List.replicate (topoEntries c).length 0#8) (s.onFab (fun f => { f with topoHeld := none }))
    rw [ht, e]
    rfl
  unfold topoVerdicts at hbad hbytes hlen
  unfold topoJudge
  dsimp only
  rw [hbad, hbytes, hlen, List.foldl_nil, List.length_nil, ← ht, hstage, if_pos rfl]

theorem topoJudge_bad {c : Cmd} {s : State} (hstage : s.boot.stage = 9) (h : ∃ e ∈ topoEntries c, topoStatus s e ≠ 0) :
    (topoJudge c s).boot.stage = 9 ∧ (topoJudge c s).boot.failed = true ∧ (topoJudge c s).boot.code = 0x9001
    ∧ (topoJudge c s).fab.topoHeld = none := by
  have hbad : (topoVerdicts c s).filter (fun x => decide (x.2 ≠ 0)) ≠ [] := by
    obtain ⟨e, he, hst⟩ := h
    exact List.ne_nil_of_mem (List.mem_filter.mpr ⟨List.mem_map.mpr ⟨e, he, rfl⟩, by simpa using hst⟩)
  have hpost : ∀ (l : List (Nat × Nat)) (y : State), (fun z : State => (z.boot, z.fab)) (l.foldl (fun x b =>
      postNotice evTopologyMismatch 0 (fabricDetail x evTopologyMismatch (towerOf (b.1 / 24)) b.1 b.2 0 0xFFFF
        ((((tabGet x.fab.ports b.1).bind (·.neighbor)).map (·.dev)).getD 0xFFFF) 0xFFFF 0) x) y) = (y.boot, y.fab) := by
    intro l y
    refine foldl_invariant _ (fun z : State => (z.boot, z.fab)) (fun x b => ?_) l y
    unfold postNotice
    obtain ⟨n, h, e, o, heq⟩ := postEvent_frame 0 evTopologyMismatch 0 (fabricDetail x evTopologyMismatch (towerOf (b.1 / 24)) b.1 b.2 0 0xFFFF
      ((((tabGet x.fab.ports b.1).bind (·.neighbor)).map (·.dev)).getD 0xFFFF) 0xFFFF 0) x
    rw [heq]
  unfold topoVerdicts at hbad
  unfold topoJudge
  dsimp only
  generalize hs1 : List.foldl _ (s.onFab _) _ = s1
  have hkept := hpost ((topoVerdicts c s).filter (fun x => decide (x.2 ≠ 0))) (s.onFab (fun f => { f with topoHeld := none }))
  obtain ⟨hboot, hfab⟩ : s1.boot = s.boot ∧ s1.fab = { s.fab with topoHeld := none } := by
    rw [← hs1]
    exact Prod.mk.inj hkept
  generalize hs2 : complete c stDone _ s1 = s2
  obtain ⟨n, h, o, hcomplete⟩ := complete_frame c stDone _ s1
  rw [hs2] at hcomplete
  obtain ⟨hboot2, hfab2⟩ : s2.boot = s1.boot ∧ s2.fab = s1.fab := by
    rw [hcomplete]
    exact ⟨rfl, rfl⟩
  rw [if_pos (by rw [hboot2, hboot, hstage]), if_neg hbad]
  obtain ⟨h', hnote⟩ := noteStatus_frame s2 (s2.onBoot (fun b => { b with failed := true, code := 0x9001 }))
  rw [hnote]
  refine ⟨?_, rfl, rfl, ?_⟩
  · exact (congrArg (·.stage) (hboot2.trans hboot)).trans hstage
  · exact congrArg (·.topoHeld) (hfab2.trans hfab)
/-! ### Contexts and roles -/

theorem repeats_eq_false {xs : List Nat} (h : xs.Nodup) : repeats xs = false := by
  induction xs with
  | nil => rfl
  | cons x xs ih =>
    obtain ⟨hx, hxs⟩ := List.nodup_cons.mp h
    unfold repeats
    rw [ih hxs, Bool.or_false]
    exact Bool.eq_false_iff.mpr fun hc => hx (List.contains_iff_mem.mp hc)

theorem openCtx_spec (s : State) (n owner : Nat) (m : Bool) (t : Tower) (dev peer access tc : Nat) :
    ∃ c, tabGet (openCtx n owner m t dev peer access tc s).fab.ctxs n = some c ∧ c.state = .openS ∧ c.sndNxt = 0
      ∧ c.sndUna = 0 ∧ c.rcvNxt = 0 ∧ c.owner = owner ∧ c.tower = t ∧ c.peerDev = dev ∧ c.peerCtx = peer ∧ c.access = access ∧ c.tc = tc
      ∧ c.srttNs = 10000 ∧ c.rtoNs = 28000 ∧ c.rate = ctxRate s n c :=
  ⟨_, tabGet_tabPut_self _ _ _, rfl, rfl, rfl, rfl, rfl, rfl, rfl, rfl, rfl, rfl, rfl, rfl, rfl⟩

/-- FAB.CONTEXT once its fields are in order and no use of its entries is refused: what each action does (R302, R326). -/
theorem fabContext_judged {c : Cmd} {s : State} {n act : Nat} {es : List (List Byte)} (hact : par c 0 1 = act) (hlt : act < 3) (hn : par c 2 2 = n)
    (h1 : 1 ≤ n) (h250 : n ≤ 250) (hp : Plain c (8 + 16 * n)) (hz1 : ZeroPar c 1 1) (hz4 : ZeroPar c 4 4)
    (hes : es = (List.range n).map (fun i => sliceBytes c.params (8 + 16 * i) 16)) (hquery : act = 2 → n ≤ 125)
    (hjob : act ≠ 2 → ∃ j, jobAt s c.job = some j ∧ j.state ≠ .armed ∧ j.state ≠ .running)
    (hentry : ∀ e ∈ es, (if act = 0 then
        decide (0x4000 ≤ fieldAt e 0 2 ∨ 0x4000 ≤ fieldAt e 2 2 ∨ 8191 < fieldAt e 4 2 ∨ 0x4000 ≤ fieldAt e 6 2 ∨ 2 ≤ fieldAt e 8 1
          ∨ 16 ≤ fieldAt e 9 1 ∨ 2 ≤ fieldAt e 0xA 1) || !zeroAt e 0xB 5
      else decide (0x4000 ≤ fieldAt e 0 2) || (decide (act = 1) && !zeroAt e 2 14)) = false)
    (hopen : act = 0 → ∀ j, jobAt s c.job = some j → (es.map (fun e => fieldAt e 0 2)).Nodup ∧ (es.map (fun e => fieldAt e 2 2)).Nodup ∧
      ∀ e ∈ es, tabGet s.fab.ctxs (fieldAt e 0 2) = none ∧ tabGet j.ctxIndex (fieldAt e 2 2) = none
        ∧ towerOf (fieldAt e 8 1) ∈ towersOfPartition j.partition)
    (hclose : act = 1 → ∀ e ∈ es, ∃ x, tabGet s.fab.ctxs (fieldAt e 0 2) = some x ∧ x.mirror = false ∧ x.owner = c.job) :
    fabContext c s = if act = 0 then
        complete c stDone [] (es.foldl (fun st e =>
          (openCtx (fieldAt e 0 2) c.job false (towerOf (fieldAt e 8 1)) (fieldAt e 4 2) (fieldAt e 6 2) (fieldAt e 9 1) (fieldAt e 0xA 1) st).onJob
            c.job (fun j => { j with ctxIndex := tabPut j.ctxIndex (fieldAt e 2 2) (fieldAt e 0 2) })) s)
      else if act = 1 then complete c stDone [] (closeCtxs c.job (es.map (fun e => fieldAt e 0 2)) s)
      else complete c stDone ((es.map (fun e => fieldAt e 0 2)).flatMap (ctxRecord s)) s := by
  have hjobState : (decide (act ≠ 2) && (match jobAt s c.job with
      | some j => decide (j.state = .armed ∨ j.state = .running)
      | none => false)) = false := by
    by_cases h : act = 2
    · simp [h]
    · obtain ⟨j, hj, harmed, hrunning⟩ := hjob h
      rw [hj]
      simp [harmed, hrunning]
  have hjobNone : (decide (act ≠ 2) && (jobAt s c.job).isNone) = false := by
    by_cases h : act = 2
    · simp [h]
    · obtain ⟨j, hj, -, -⟩ := hjob h
      rw [hj]
      simp
  have hanyEntry := List.any_eq_false.mpr (fun e he => Bool.eq_false_iff.mp (hentry e he))
  unfold fabContext
  dsimp only
  rw [hact, hn, ← hes]
  refine (judged_ok ?_).trans ?_
  · intro x hx
    fin_cases hx
    · dsimp only
      rw [if_neg (by omega), hp.length]
      simp
    · dsimp only
      rw [hp.hdrBad, hz1.parRes, hz4.parRes, if_neg (show ¬ act = 3 by omega), hanyEntry, hjobNone]
      simp
      omega
    · exact hjobState
    · dsimp only
      split
      · rfl
      · next j hj =>
        split
        · next h0 =>
          obtain ⟨hids, hindex, hfree⟩ := hopen h0 j hj
          rw [repeats_eq_false hids, repeats_eq_false hindex]
          refine List.any_eq_false.mpr fun e he => ?_
          obtain ⟨hctx, hidx, htower⟩ := hfree e he
          simp [hctx, hidx, htower]
        · split
          · next h1 =>
            refine List.any_eq_false.mpr fun i hi => ?_
            obtain ⟨e, he, rfl⟩ := List.mem_map.mp hi
            obtain ⟨y, hy, hmirror, howner⟩ := hclose h1 e he
            simp [hy, hmirror, howner]
          · rfl
  · rcases (show act = 0 ∨ act = 1 ∨ act = 2 by omega) with h | h | h <;> rw [h] <;> rfl

/-- Once the checks before it hold, the last check of a command decides. -/
theorem judged_last {c : Cmd} {pre : List (Bool × Nat)} {b : Bool} {st : Nat} {s k : State} (h : pre.all (fun x => !x.1) = true) :
    judged c (pre ++ [(b, st)]) s k = if b then complete c st [] s else k := by
  cases b with
  | true => exact judged_fail c pre [] st s k h
  | false => exact judged_pass c _ s k (by rw [List.all_append, h]; rfl)

theorem treePortBad_eq_false {s : State} {l : Nat} (h : ∃ p n, tabGet s.fab.ports l = some p ∧ p.link = .up ∧ p.delayNs ≤ 500 ∧ p.neighbor = some n
    ∧ n.familyId = 0x00A7 ∧ n.member = 0x0009) : treePortBad s l = false := by
  obtain ⟨p, n, hp, hup, hdelay, hn, hfamily, hmember⟩ := h
  simp [treePortBad, hp, hup, hn, hfamily, hmember, hdelay]

theorem low_bits : ∀ fl ≤ 15, (fl % 4 ≠ 0 ∨ fl.testBit 3 = true ↔ fl.testBit 0 = true ∨ fl.testBit 1 = true ∨ fl.testBit 3 = true) := by decide

/-- The check that a job is neither armed nor running passes where it is neither, or where there is no job. -/
theorem jobIdle {s : State} {job : Nat} (h : ∀ j, jobAt s job = some j → j.state ≠ .armed ∧ j.state ≠ .running) :
    (match jobAt s job with
      | some j => decide (j.state = .armed ∨ j.state = .running)
      | none => false) = false := by
  cases hj : jobAt s job with
  | none => rfl
  | some j =>
    obtain ⟨harmed, hrunning⟩ := h j hj
    exact decide_eq_false (by simp [harmed, hrunning])

theorem treePorts_good {s : State} {up down : Nat} (h : ∀ l, (l = up ∧ up < 48) ∨ l ∈ portsOfMask down →
    ∃ p n, tabGet s.fab.ports l = some p ∧ p.link = .up ∧ p.delayNs ≤ 500 ∧ p.neighbor = some n ∧ n.familyId = 0x00A7 ∧ n.member = 0x0009) :
    ((if up < 48 then [up] else []) ++ portsOfMask down).any (treePortBad s) = false := by
  refine List.any_eq_false.mpr fun l hl => Bool.eq_false_iff.mp (treePortBad_eq_false (h l ?_))
  rcases List.mem_append.mp hl with h | h
  · split at h
    · next hup => exact .inl ⟨List.mem_singleton.mp h, hup⟩
    · cases h
  · exact .inr h

/-- FAB.TICK_ROLE of a role that may be given, its ports good: only the number of roles is left to judge (R315, R327). -/
theorem fabTickRole_given {c : Cmd} {s : State} {k : Role} (hp : Plain c 24) (hz2 : ZeroPar c 2 2) (hz10 : ZeroPar c 0x10 8) (hjob : c.job ≠ 0)
    (hlt : par c 8 8 < 2 ^ 48)
    (hkind : (par c 0 1 = 1 ∧ par c 1 1 = 0xFF ∧ 1 ≤ par c 4 4 ∧ par c 4 4 ≤ 18000 ∧ (jobAt s c.job).isSome = true ∧ k = .master)
        ∨ (par c 0 1 = 2 ∧ par c 1 1 < 48 ∧ par c 4 4 = 0 ∧ jobAt s c.job = none ∧ k = .relay)
        ∨ (par c 0 1 = 0 ∧ par c 1 1 < 48 ∧ par c 4 4 = 0 ∧ (jobAt s c.job).isSome = true ∧ k = .follower))
    (hidle : ∀ j, jobAt s c.job = some j → j.state ≠ .armed ∧ j.state ≠ .running)
    (hports : ((if par c 1 1 < 48 then [par c 1 1] else []) ++ portsOfMask (par c 8 8)).any (treePortBad s) = false) :
    fabTickRole c s = if decide (par c 0 1 ≠ 3 ∧ 64 ≤ s.jobs.roles.length ∧ (roleOf s c.job).isNone = true) then complete c stNoSpace [] s
      else complete c stDone (leBytes (if par c 0 1 = 1 then settleUs (par c 4 4) else 0) 4) (s.onJobs (fun x => { x with
          roles := tabPut x.roles c.job { role := k, upPort := par c 1 1, maxPathNs := par c 4 4, downMask := par c 8 8 } })) := by
  have hrole : par c 0 1 ≠ 3 := by omega
  have hfields : (if par c 0 1 = 3 then decide (par c 1 1 ≠ 0xFF ∨ par c 4 4 ≠ 0 ∨ par c 8 8 ≠ 0)
      else (if par c 0 1 = 1 then decide (par c 1 1 ≠ 0xFF ∨ par c 4 4 = 0 ∨ 18000 < par c 4 4) else decide (48 ≤ par c 1 1 ∨ par c 4 4 ≠ 0))
        || (if par c 0 1 = 2 then (jobAt s c.job).isSome else (jobAt s c.job).isNone)) = false := by
    rcases hkind with ⟨h, hup, hlo, hhi, hj, -⟩ | ⟨h, hup, hpath, hj, -⟩ | ⟨h, hup, hpath, hj, -⟩
    · simp [h, hup, Option.isNone_eq_false_iff.mpr hj]
      omega
    · simp [h, hpath, hj]
      omega
    · simp [h, hpath, Option.isNone_eq_false_iff.mpr hj]
      omega
  have hkind' : (if par c 0 1 = 1 then Role.master else if par c 0 1 = 2 then .relay else .follower) = k := by
    rcases hkind with ⟨h, -, -, -, -, rfl⟩ | ⟨h, -, -, -, rfl⟩ | ⟨h, -, -, -, rfl⟩ <;> rw [h] <;> rfl
  unfold fabTickRole
  dsimp only
  rw [hfields, hports, hkind']
  simp only [if_neg hrole]
  refine judged_last (pre := [_, _, _, _]) (List.all_eq_true.mpr fun x hx => ?_)
  fin_cases hx
  · simp [hp.length]
  · simp [hp.hdrBad, hz2.parRes, hz10.parRes, hjob]
    omega
  · exact congrArg Bool.not (jobIdle hidle)
  · simp

/-- Settles O45: each command passes its checks; topology by whether its ports have settled. -/
theorem fabricCommandsComplete : Obligations.FabricCommandsComplete := by
  unfold Obligations.FabricCommandsComplete
  refine ⟨fun s mb c fl p s1 s2 hw hp hfl hle hzD hz2C hports hgood hfree hs1 hs2 => exec_of_waiting hw rfl ?_,
    fun s mb c fl hw hp hfl hle hzD hz2C hgood hset hused => exec_of_waiting hw rfl ?_,
    fun s l => ⟨fun hlog hlost => ⟨startedPort s l, ?_, startedPort_spec s l⟩, fun h => ?_⟩,
    fun s mb c id hw hp hid hle hz => ⟨fun hstage hjobs hctxs hfree => exec_of_waiting hw rfl ?_,
      fun hstage hjobs hctxs hused => exec_of_waiting hw rfl ?_, fun hbusy => exec_of_waiting hw rfl ?_⟩,
    fun s mb c first n es hw hp hfirst hn h1 h250 hwr hend hz hes hgood hid hwf =>
      ⟨routesPut first es s.fab.routes, exec_of_waiting hw rfl ?_, fun i e he => tabGet_routesPut_in hwf he, fun i hi => ?_⟩,
    fun s mb c first n hw hp hfirst hn h1 h250 hrd hend hz hid => exec_of_waiting hw rfl ?_,
    fun s mb c n s1 hw hn h1 h48 hp hz hentries => ⟨fun hstage hjobs hnone hs1 => exec_of_waiting hw rfl ?_, fun hbusy => exec_of_waiting hw rfl ?_⟩,
    fun s c mb hheld hrun => ⟨fun hstage hsettled hwaits => ?_, fun hearly => ?_⟩,
    fun s c t ht hall => ⟨fun hstage => (topoJudge_good ht hall).trans (if_pos hstage), fun hstage => (topoJudge_good ht hall).trans (if_neg hstage)⟩,
    fun s c hstage hbad => topoJudge_bad hstage hbad,
    fun s e p n hp hup hn hexpected => ?_,
    fun s mb c n j es hw hn h1 h250 hp hact hz1 hz4 hes hj harmed hrunning hentries hids hindex => exec_of_waiting hw rfl ?_,
    openCtx_spec,
    fun s mb c j n es hw hn h1 h250 hp hact hz1 hz4 hes hj harmed hrunning hentries => exec_of_waiting hw rfl ?_,
    fun s mb c n es hw hn h1 h125 hp hact hz1 hz4 hes hentries => exec_of_waiting hw rfl ?_,
    fun s mb c j m hw hp hact hz1 hn hz4 hmesh hj harmed hrunning => exec_of_waiting hw rfl ?_,
    fun s mb c role up path down k hw hp hrole hup hpath hdown hz2 hz10 hjob hlt hkind hidle hports =>
      ⟨fun hroom => exec_of_waiting hw rfl ?_, fun hfull hnone => exec_of_waiting hw rfl ?_⟩,
    fun s mb c hw hp hrole hup hz hjob => ⟨fun hidle => exec_of_waiting hw rfl ?_, fun hbusy => exec_of_waiting hw rfl ?_⟩⟩
  · subst hfl hports
    have hstate : (decide (par c 0 4 % 4 ≠ 0 ∨ bitOf (par c 0 4) 3) && decide (s.jobs.jobs ≠ [] ∨ s.fab.ctxs ≠ [])) = false := by
      by_cases h : par c 0 4 % 4 ≠ 0 ∨ (par c 0 4).testBit 3 = true
      · obtain ⟨hjobs, hctxs⟩ := hfree ((low_bits _ hle).mp h)
        simp [hjobs, hctxs]
      · rw [show bitOf (par c 0 4) 3 = (par c 0 4).testBit 3 from rfl, decide_eq_false h, Bool.false_and]
    have hs2' : s2 = countCodewords (if bitOf (par c 0 4) 0 then startPorts s1 else s1) := hs2
    unfold fabPorts
    dsimp only
    rw [← hs1, ← hs2', hstate, hgood]
    exact judged_ok (by simp [hp.length, hp.hdrBad, hzD.parRes, hz2C.parRes]; omega)
  · subst hfl
    have hstate : (decide (par c 0 4 % 4 ≠ 0 ∨ bitOf (par c 0 4) 3) && decide (s.jobs.jobs ≠ [] ∨ s.fab.ctxs ≠ [])) = true := by
      rw [show bitOf (par c 0 4) 3 = (par c 0 4).testBit 3 from rfl, decide_eq_true ((low_bits _ hle).mpr hset), decide_eq_true hused]
      rfl
    unfold fabPorts
    dsimp only
    rw [hstate, hgood]
    exact judged_fail c [_, _] [] stWrongState s _ (by simp [hp.length, hp.hdrBad, hzD.parRes, hz2C.parRes]; omega)
  · rw [startPorts_ports, tabGet_range_map, if_pos ⟨isLogical_lt hlog, by simp [hlog, hlost]⟩]
  · rw [startPorts_ports, tabGet_range_map, if_neg]
    rintro ⟨-, h'⟩
    rcases h with h | h <;> simp [h] at h'
  · subst hid
    have hnot : s.fab.ports.any (fun e => decide ((e.2.neighbor.map (·.dev)) = some (par c 0 2))) = false := by simpa using hfree
    unfold fabSetId
    dsimp only
    rw [hnot]
    exact judged_ok (by simp [hp.length, hp.hdrBad, hz.parRes, hstage, hjobs, hctxs, hle])
  · subst hid
    have hsome : s.fab.ports.any (fun e => decide ((e.2.neighbor.map (·.dev)) = some (par c 0 2))) = true := by simpa using hused
    unfold fabSetId
    dsimp only
    rw [hsome]
    exact judged_fail c [_, _, _] [] stBadField s _ (by simp [hp.length, hp.hdrBad, hz.parRes, hstage, hjobs, hctxs, hle])
  · subst hid
    unfold fabSetId
    dsimp only
    rw [decide_eq_true hbusy]
    exact judged_fail c [_, _] [_] stWrongState s _ (by simp [hp.length, hp.hdrBad, hz.parRes, hle])
  · have hgood' : es.any (routeBad s.fab.cfg) = false := by simpa using hgood
    unfold fabRoutes
    dsimp only
    rw [hfirst, hn, hwr, ← hes, hgood']
    refine (judged_ok ?_).trans ?_
    · simp [hp.length, hp.hdrBad, hz.parRes, Option.isNone_eq_false_iff.mpr hid, bitOf]
      omega
    · rfl
  · have hlen : es.length = n := by simp [hes]
    exact tabGet_routesPut_out hwf (by omega)
  · unfold fabRoutes
    dsimp only
    rw [hfirst, hn, hrd]
    refine (judged_ok ?_).trans ?_
    · simp [hp.length, hp.hdrBad, hz.parRes, Option.isNone_eq_false_iff.mpr hid, bitOf]
      omega
    · rfl
  · have hfields : (topoEntries c).any (fun e => decide (48 ≤ fieldAt e 0 1 ∨ 8 ≤ fieldAt e 2 1 ∨ fieldAt e 3 1 ≠ 0)) = false := by
      refine List.any_eq_false.mpr fun e he => ?_
      have := hentries e he
      simp
      omega
    have hbusy : (decide (s.boot.stage < 8) || decide (s.boot.stage = 10 ∧ s.jobs.jobs ≠ []) || s.fab.topoHeld.isSome) = false := by
      rw [hnone]
      simp
      exact ⟨hstage, hjobs⟩
    have hs1boot : s1.boot = s.boot := by rw [hs1]; rfl
    unfold fabTopoExpect
    dsimp only
    rw [hn, hfields, hbusy, ← hs1, hs1boot]
    exact judged_ok (by simp [hp.length, hp.hdrBad, hz.parRes]; omega)
  · have hfields : (topoEntries c).any (fun e => decide (48 ≤ fieldAt e 0 1 ∨ 8 ≤ fieldAt e 2 1 ∨ fieldAt e 3 1 ≠ 0)) = false := by
      refine List.any_eq_false.mpr fun e he => ?_
      have := hentries e he
      simp
      omega
    have hbusy' : (decide (s.boot.stage < 8) || decide (s.boot.stage = 10 ∧ s.jobs.jobs ≠ []) || s.fab.topoHeld.isSome) = true := by
      rcases hbusy with h | ⟨h, h'⟩ | h
      · simp [h]
      · simp [h, h']
      · simp [h]
    unfold fabTopoExpect
    dsimp only
    rw [hn, hfields, hbusy']
    exact judged_fail c [_, _] [] stWrongState s _ (by simp [hp.length, hp.hdrBad, hz.parRes]; omega)
  · rw [topoTry_held hheld hrun, if_pos ⟨hstage, hsettled, by simp [hwaits]⟩]
  · rw [topoTry_held hheld hrun, if_neg]
    rintro ⟨hstage, hsettled, hwaits⟩
    rcases hearly with h | h | h
    · omega
    · simp [h] at hsettled
    · simp [h] at hwaits
  · unfold topoStatus
    rw [hp]
    dsimp only
    rw [show bitOf (fieldAt e 2 1) 2 = false from hexpected, if_neg Bool.false_ne_true, if_neg (by simp [hup]), hn]
    simp only [Bool.and_eq_true, decide_eq_true_eq]
    rfl
  · refine (fabContext_judged hact (by omega) hn h1 h250 hp hz1 hz4 hes (by omega) (fun _ => ⟨j, hj, harmed, hrunning⟩) (fun e he => ?_)
      (fun _ j' hj' => ?_) (fun h => absurd h (by omega))).trans (if_pos rfl)
    · obtain ⟨hid, hidx, hdev, hpeer, htower, haccess, htc, hzero, -⟩ := hentries e he
      rw [if_pos rfl, hzero]
      simp
      omega
    · obtain rfl : j = j' := Option.some.inj (hj.symm.trans hj')
      exact ⟨hids, hindex, fun e he => (hentries e he).2.2.2.2.2.2.2.2⟩
  · refine (fabContext_judged hact (by omega) hn h1 h250 hp hz1 hz4 hes (by omega) (fun _ => ⟨j, hj, harmed, hrunning⟩) (fun e he => ?_)
      (fun h => absurd h (by omega)) (fun _ e he => (hentries e he).2.2)).trans ((if_neg (by omega)).trans (if_pos rfl))
    obtain ⟨hid, hzero, -⟩ := hentries e he
    rw [if_neg (by omega), hzero]
    simp
    omega
  · refine (fabContext_judged hact (by omega) hn h1 (by omega) hp hz1 hz4 hes (fun _ => h125) (fun h => absurd rfl h) (fun e he => ?_)
      (fun h => absurd h (by omega)) (fun h => absurd h (by omega))).trans ((if_neg (by omega)).trans ((if_neg (by omega)).trans ?_))
    · have := hentries e he
      rw [if_neg (by omega)]
      simp
      omega
    · rw [List.flatMap_map]
  · have hlen : 0x20 ≤ meshLength c := Nat.le_add_right _ _
    unfold fabContext
    dsimp only
    rw [hact, hn, hj, hmesh]
    refine (judged_ok ?_).trans rfl
    simp [hp.length, hp.hdrBad, hz1.parRes, hz4.parRes, harmed, hrunning]
    exact hlen
  · subst hrole hup hpath hdown
    have htree : ((if par c 1 1 < 48 then [par c 1 1] else []) ++ portsOfMask (par c 8 8)).any (treePortBad s) = false :=
      treePorts_good hports
    rw [fabTickRole_given hp hz2 hz10 hjob hlt hkind hidle htree]
    refine if_neg ?_
    rw [decide_eq_true_eq]
    rintro ⟨-, hfull, hnone⟩
    rcases hroom with h | h
    · omega
    · rw [Option.isNone_iff_eq_none.mp hnone] at h
      cases h
  · subst hrole hup hpath hdown
    have htree : ((if par c 1 1 < 48 then [par c 1 1] else []) ++ portsOfMask (par c 8 8)).any (treePortBad s) = false :=
      treePorts_good hports
    rw [fabTickRole_given hp hz2 hz10 hjob hlt hkind hidle htree]
    exact if_pos (by rw [decide_eq_true_eq]; exact ⟨by omega, hfull, by rw [hnone]; rfl⟩)
  · have hpath : par c 4 4 = 0 := hz.par (by omega) (by omega)
    have hdown : par c 8 8 = 0 := hz.par (by omega) (by omega)
    have hz2 : ZeroPar c 2 2 := hz.sub (by omega) (by omega)
    have hz10 : ZeroPar c 0x10 8 := hz.sub (by omega) (by omega)
    unfold fabTickRole
    dsimp only
    rw [hrole, hup, hpath, hdown]
    refine (judged_ok fun x hx => ?_).trans rfl
    fin_cases hx
    · simp [hp.length]
    · simp [hp.hdrBad, hz2.parRes, hz10.parRes, hjob]
    · exact jobIdle hidle
    · simp
    · simp
  · have hpath : par c 4 4 = 0 := hz.par (by omega) (by omega)
    have hdown : par c 8 8 = 0 := hz.par (by omega) (by omega)
    have hz2 : ZeroPar c 2 2 := hz.sub (by omega) (by omega)
    have hz10 : ZeroPar c 0x10 8 := hz.sub (by omega) (by omega)
    obtain ⟨j, hj, hstate⟩ := hbusy
    unfold fabTickRole
    dsimp only
    rw [hrole, hup, hpath, hdown, hj]
    dsimp only
    rw [decide_eq_true hstate]
    exact judged_fail c [_, _] [_, _] stWrongState s _ (by simp [hp.length, hp.hdrBad, hz2.parRes, hz10.parRes, hjob])

end Sys2Proof.Machine
end

section
/-! PROOFS. Port events. -/

namespace Sys2Proof.Machine

/-! ### Ports -/

theorem ctrAdd_obs_congr {x y : State} (group pos n : Nat) (h : x.obs = y.obs) : (ctrAdd group pos n x).obs = (ctrAdd group pos n y).obs := by
  unfold ctrAdd
  rw [h]
  split
  · exact congrArg (fun o => { o with ctrs := tabPut o.ctrs (group * 65536 + pos) (tabGetD o.ctrs (group * 65536 + pos) 0 + BitVec.ofNat 64 n) }) h
  · exact h

theorem ctrFab_out (port k n : Nat) (s : State) : (ctrFab port k n s).out = s.out := by
  unfold ctrFab ctrAdd
  split <;> rfl

theorem depart_out (l : Nat) (p : Pkt) (s : State) : (depart l p s).out = s.out ++ [.packet l p] := by
  unfold depart
  dsimp only
  split <;> rfl

theorem depart_obs (l : Nat) (p : Pkt) (s : State) : (depart l p s).obs = s.obs := by
  unfold depart
  dsimp only
  split <;> rfl

theorem releaseHeld_nothing {s : State} {l : Nat} {q : Port} (hq : tabGet s.fab.ports l = some q) (h : q.held = []) : releaseHeld l s = s := by
  unfold releaseHeld
  rw [hq]
  exact if_pos h

theorem ceMark_bound {d draw : Nat} (h : ceMark d draw = true) : 0x20000 < d := by
  unfold ceMark at h
  simp only [Bool.or_eq_true, Bool.and_eq_true, decide_eq_true_eq] at h
  omega

/-- The packet that leaves: as made, or with its CE mark where the class's queue is long (R307). -/
def marked (s : State) (l : Nat) (q : Port) (p : Pkt) : Pkt :=
  if pktClass p < 2 && isEct s.fab.cfg p && ceMark ((drained s l q).getD (pktClass p) 0) (Config.markDraw s.freeCtr) then markCe s.fab.cfg p else p

theorem marked_cases (s : State) (l : Nat) (q : Port) (p : Pkt) : (2 ≤ pktClass p → marked s l q p = p)
    ∧ (marked s l q p = p ∨ (marked s l q p = markCe s.fab.cfg p ∧ isEct s.fab.cfg p = true ∧ 0x20000 < (drained s l q).getD (pktClass p) 0)) := by
  unfold marked
  split
  · next h =>
    simp only [Bool.and_eq_true, decide_eq_true_eq] at h
    obtain ⟨⟨hlow, hect⟩, hmark⟩ := h
    exact ⟨fun h2 => by omega, .inr ⟨rfl, hect, ceMark_bound hmark⟩⟩
  · exact ⟨fun _ => rfl, .inl rfl⟩

/-- A packet whose class nothing holds back leaves at once (R296, R309). -/
theorem egressSend_free {s : State} {l : Nat} {p : Pkt} {q : Port} (hq : tabGet s.fab.ports l = some q) (hup : q.link = .up) (hheld : q.held = [])
    (hpause : q.paused.testBit (pktClass p) = false) (hroom : capRoom s l q (pktClass p) (frameBytes s.fab.cfg p) = true) :
    egressSend l p s = ctrFab l 0 (frameBytes s.fab.cfg p) (depart l (marked s l q p) (onPort l (fun x => { x with
      egressDepth := (drained s l q).set (pktClass p) ((drained s l q).getD (pktClass p) 0 + frameBytes s.fab.cfg p)
      egressNs := s.nowNs }) s.draw)) := by
  have hhold : (bitOf q.paused (pktClass p) || q.held.any (fun x => decide (pktClass x = pktClass p))
      || !capRoom s l q (pktClass p) (frameBytes s.fab.cfg p)) = false := by
    rw [show bitOf q.paused (pktClass p) = false from hpause, hheld, hroom]
    rfl
  unfold egressSend
  rw [releaseHeld_nothing hq hheld]
  dsimp only
  rw [hq]
  dsimp only
  rw [if_neg (by simp [hup]), hhold]
  rfl

/-- Settles O46: event by event, from the state of the port. -/
theorem portEventsComplete : Obligations.PortEventsComplete := by
  unfold Obligations.PortEventsComplete
  refine ⟨fun s l => ⟨fun hup => ⟨congrArg Host.Outcome.next (if_pos hup), congrArg Host.Outcome.next (if_pos hup)⟩,
      fun hdown => ⟨congrArg Host.Outcome.next (if_neg (by simp [hdown])), congrArg Host.Outcome.next (if_neg (by simp [hdown]))⟩⟩,
    fun s l p cause q hp hup hq => ?_, fun s l => ?_,
    fun s l p hp => ⟨fun hon hdown hopen => ⟨congrArg Host.Outcome.next ?_, congrArg Host.Outcome.next ?_⟩,
      fun hno => ⟨congrArg Host.Outcome.next ?_, congrArg Host.Outcome.next ?_⟩⟩,
    fun s l p hp htrain => ⟨congrArg Host.Outcome.next ?_, congrArg Host.Outcome.next ?_⟩,
    fun s l t1 at_ => ⟨fun hup => congrArg Host.Outcome.next (if_pos hup), fun hdown => congrArg Host.Outcome.next (if_neg (by simp [hdown]))⟩,
    fun s l p t1 t2 t3 at_ xs hp ht1 hxs => ⟨fun hmore => congrArg Host.Outcome.next ?_, fun hlast => congrArg Host.Outcome.next ?_⟩,
    fun s l p s1 n hp hup hs1 hn => congrArg Host.Outcome.next ?_,
    fun s l d => ⟨fun hup => congrArg Host.Outcome.next (if_pos hup), fun hdown => congrArg Host.Outcome.next (if_neg (by simp [hdown]))⟩,
    fun s l p hp => ⟨fun hup hwait => congrArg Host.Outcome.next ?_, fun hno => congrArg Host.Outcome.next ?_⟩,
    fun s l p q hq hup hheld hpause hroom => ⟨marked s l q p, ?_, (marked_cases s l q p).1, (marked_cases s l q p).2, ?_⟩,
    fun s fx r s1 s2 s3 hcage hpower hs1 hs2 hs3 => congrArg Host.Outcome.next ?_,
    fun s fx r h => congrArg Host.Outcome.next ?_,
    fun s l p r q s1 hp hq hs1 => ⟨fun hon hmis hbefore => ?_, fun hon hmis hfault => ?_, ?_⟩,
    fun s l p cls hp hcls hmask => ⟨congrArg Host.Outcome.next ?_, congrArg Host.Outcome.next ?_⟩,
    fun s l cls x h => congrArg Host.Outcome.next ?_,
    fun s l dev port => ⟨fun hup hencap hdev hlog => congrArg Host.Outcome.next (if_pos ⟨hup, hencap, hdev, hlog⟩),
      fun h => congrArg Host.Outcome.next (if_neg ?_)⟩,
    fun c d l hd hl => ⟨?_, ?_⟩⟩
  · subst hq
    unfold portDown
    rw [hp]
    exact if_pos hup
  · obtain ⟨-, hno, hzero, htrain⟩ := fresh_port s l
    refine ⟨htrain, hno, hzero, ?_⟩
    unfold Port.fresh
    dsimp only
    split <;> rfl
  · unfold portRetrain
    rw [hp]
    exact if_pos (by simp [mayTrain, hon, hdown, hopen])
  · unfold portSignal
    rw [hp]
    exact if_pos (by simp [mayTrain, hon, hdown, hopen])
  · unfold portRetrain
    rw [hp]
    exact if_neg (by rcases hno with h | h | h <;> simp [mayTrain, h])
  · unfold portSignal
    rw [hp]
    exact if_neg (by rcases hno with h | h | h <;> simp [mayTrain, h])
  · unfold portTrainingEnd
    rw [hp]
    exact (if_neg (by simp [htrain])).trans (if_pos rfl)
  · unfold portTrainingEnd
    rw [hp]
    exact (if_neg (by simp [htrain])).trans (if_neg (by simp))
  · unfold delayResp
    rw [hp]
    dsimp only
    rw [ht1]
    dsimp only
    rw [← hxs]
    exact if_pos (by rw [hxs, List.length_append, List.length_singleton]; omega)
  · unfold delayResp
    rw [hp]
    dsimp only
    rw [ht1]
    dsimp only
    rw [← hxs]
    exact if_neg (by rw [hxs, List.length_append, List.length_singleton]; omega)
  · subst hs1 hn
    unfold discoverSend
    rw [hp]
    exact if_neg (by simp [hup])
  · unfold discoverTimeout
    rw [hp]
    exact if_pos ⟨hup, hwait⟩
  · unfold discoverTimeout
    rw [hp]
    exact if_neg (by rcases hno with h | h <;> simp [h])
  · rw [egressSend_free hq hup hheld hpause hroom, ctrFab_out, depart_out]
    rfl
  · rw [egressSend_free hq hup hheld hpause hroom]
    exact ctrAdd_obs_congr _ _ _ (depart_obs _ _ _)
  · have hfound : ((r.present && !((tabGet s.fab.modules fx).map (·.present)).getD false)
          && s.fab.ports.any (fun e => decide (e.1 / 8 = fx) && e.2.enabled)) = true
        ↔ (r.present = true ∧ (∀ m, tabGet s.fab.modules fx = some m → m.present = false) ∧ ∃ e ∈ s.fab.ports, e.1 / 8 = fx ∧ e.2.enabled = true) := by
      cases tabGet s.fab.modules fx <;> simp [and_assoc]
    have hgo : ¬ ((!hasCage s fx) = true ∨ s.gate.pwr = .dark ∧ s.boot.stage = 10) := by
      rw [hcage]
      rintro (h | ⟨h, h'⟩)
      · cases h
      · rcases hpower with h1 | h1
        · exact h1 h
        · exact h1 h'
    subst hs1 hs2 hs3
    exact (if_neg hgo).trans (congrArg topoTry (if_congr hfound rfl rfl))
  · refine if_pos ?_
    rcases h with h | h
    · exact .inl (by simp [h])
    · exact .inr h
  · subst hq hs1
    unfold cmisPort
    rw [hp]
    exact (if_neg (by simp [hon])).trans (if_pos (by simp [hmis, hbefore]))
  · subst hq hs1
    unfold cmisPort
    rw [hp]
    exact (if_neg (by simp [hon])).trans ((if_neg (by rcases hmis with h | h <;> simp [h])).trans (if_pos (by
      rcases hfault with ⟨h, h'⟩ | ⟨h, h'⟩ <;> simp [h, h'])))
  · subst hq
    simp [Port.plugged, moduleRefuses]
  · unfold pfcFrame
    rw [hp]
    exact (if_neg (by rw [show bitOf s.fab.cfg.pfcMask cls = true from hmask]; simp; omega)).trans (if_pos rfl)
  · unfold pfcFrame
    rw [hp]
    exact (if_neg (by rw [show bitOf s.fab.cfg.pfcMask cls = true from hmask]; simp; omega)).trans (if_neg (by simp))
  · unfold pfcFrame
    split
    · rfl
    · refine if_pos ?_
      rcases h with h | h
      · exact .inl h
      · exact .inr (by rw [show bitOf s.fab.cfg.pfcMask cls = false from h]; rfl)
  · rintro ⟨hup, hencap, hdev, hlog⟩
    rcases h with h | h | h | h
    · simp [h] at hup
    · exact h hencap
    · exact h hdev
    · simp [h] at hlog
  · unfold macOf
    omega
  · unfold ip6Of
    rw [Nat.mod_eq_of_lt (show d < 0x10000 by omega)]
    rfl

end Sys2Proof.Machine
end

section
/-! PROOFS. Packets received. -/

namespace Sys2Proof.Machine

/-! ### Packets received -/

/-- A mirror context of tower 0 that waits for nothing, and a second entry of the same number, of tower 1, with a packet not acknowledged. -/
def staleCtx : Ctx := Ctx.fresh 0 true .t0 6 9 0 0 0 0
def shadowCtx : Ctx := { Ctx.fresh 0 false .t1 6 9 0 0 0 0 with unacked := [⟨Pkt.blank, 0, false⟩] }

/-- A NACK of cause 1 for context 9. -/
def nackPkt : Pkt :=
  let p : Pkt := { Pkt.blank with op := 7, dst := 5, src := 6, dstCtx := 9, srcCtx := 9, ackPsn := 1, addr := 1
                                  outer := { Pkt.blank.outer with etherType := PortCfg.factory.etherType } }
  { p with trailer := trailerOf false p }

/-- Device 5, its table of contexts naming context 9 twice, tower 0's HELLO on its way with a peer that will not agree, tower 1 under a
partition reset: the statement does not ask for an ordered table. -/
def twiceCtx : State :=
  { State.reset with
    gate := { GateSt.reset with pwr := .active }
    boot := { BootSt.reset with part := some { mb := 1, towerLevel := true, partition := 2, startNs := 0, faultedItems := 0 } }
    fab := { FabSt.reset with devId := some 5, ctxs := [(9, staleCtx), (9, shadowCtx)], ctxCache := ⟨[9], []⟩ }
    twin := ⟨{ Twin.off with ctx := 9, bindMb := some 2, bindTowers := 1, peerTowers := 2, helloSeen := true, txAcks := [(0, .hello)] }, Twin.off⟩ }

/-- Which packets of context 9 are marked as resent. -/
def resentOf (s : State) : Option (List Bool) := (tabGet s.fab.ctxs 9).map (fun c => c.unacked.map (·.resent))

theorem twiceCtx_acked : resentOf (takeAck 9 1 twiceCtx) = some [false] := by decide +kernel

theorem twiceCtx_resent : resentOf (arrive 255 nackPkt twiceCtx) = some [true] := by decide +kernel

theorem twiceCtx_forContext : ForContext twiceCtx nackPkt 9 staleCtx :=
  ⟨rfl, by decide +kernel, rfl, rfl, rfl, rfl, rfl, by decide⟩

/-- Refutes O47: where the table of contexts names the NACK's context twice, taking its ACK_PSN ends the binding and removes the first entry, so
that the entry left is of another tower; the model asks whether the tower of the context as it came is under reset, and resends. -/
theorem not_packetsReceived : ¬ Obligations.PacketsReceived := by
  unfold Obligations.PacketsReceived
  rintro ⟨-, -, -, -, -, -, -, -, -, hcontrol, -⟩
  have harrival : Arrival 255 nackPkt (.nack 255 nackPkt) := .inr (by decide +kernel)
  have henters : Enters twiceCtx 255 nackPkt twiceCtx := ⟨by decide +kernel, .inl ⟨rfl, rfl⟩⟩
  have hfetch : twiceCtx = fetchCtx 9 .t0 twiceCtx := (if_pos rfl).symm
  obtain ⟨-, -, hnack, -⟩ := hcontrol twiceCtx 255 nackPkt 9 staleCtx (.nack 255 nackPkt) twiceCtx twiceCtx harrival henters twiceCtx_forContext hfetch
  have hleft : tabGet (takeAck 9 1 twiceCtx).fab.ctxs 9 = some shadowCtx := by decide +kernel
  have hreset : underReset (takeAck 9 1 twiceCtx) .t1 = true := by decide +kernel
  have hnext := hnack rfl rfl shadowCtx hleft
  rw [show nackPkt.ackPsn = 1 from rfl, show shadowCtx.tower = .t1 from rfl, if_pos hreset] at hnext
  have hexec : exec (.nack 255 nackPkt) twiceCtx = .next (arrive 255 nackPkt twiceCtx) := congrArg Host.Outcome.next (if_pos rfl)
  have hsame : arrive 255 nackPkt twiceCtx = takeAck 9 1 twiceCtx := Host.Outcome.next.inj (hexec.symm.trans hnext)
  have hresent := congrArg resentOf hsame
  rw [twiceCtx_acked, twiceCtx_resent] at hresent
  cases hresent

end Sys2Proof.Machine
end

section
/-! PROOFS. Fabric timers. -/

namespace Sys2Proof.Machine

/-! ### What a packet sent leaves of the contexts -/

theorem ctxs_depart (l : Nat) (p : Pkt) (s : State) : (depart l p s).fab.ctxs = s.fab.ctxs := by
  unfold depart
  dsimp only
  split <;> rfl

theorem ctxs_ctrFab (port k n : Nat) (s : State) : (ctrFab port k n s).fab.ctxs = s.fab.ctxs := by
  unfold ctrFab ctrAdd
  split <;> rfl

theorem ctxs_releaseHeld (l : Nat) (s : State) : (releaseHeld l s).fab.ctxs = s.fab.ctxs := by
  unfold releaseHeld
  split
  · rfl
  · split
    · rfl
    · next q _ _ =>
      refine foldl_invariant _ (fun a : State × List Pkt => a.1.fab.ctxs) (fun a p => ?_) q.held (s, [])
      dsimp only
      split
      · rfl
      · exact ctxs_depart l p a.1

theorem ctxs_egressSend (l : Nat) (p : Pkt) (s : State) : (egressSend l p s).fab.ctxs = s.fab.ctxs := by
  unfold egressSend
  dsimp only
  split
  · exact ctxs_releaseHeld l s
  · split
    · exact ctxs_releaseHeld l s
    · rw [ctxs_ctrFab]
      split
      · exact ctxs_releaseHeld l s
      · rw [ctxs_depart]
        exact ctxs_releaseHeld l s

theorem ctxs_netSend (p : Pkt) (s : State) : (netSend p s).fab.ctxs = s.fab.ctxs := by
  unfold netSend
  split
  · rfl
  · split
    · exact ctxs_egressSend _ _ _
    · exact ctxs_ctrFab _ _ _ _

theorem ctxs_traceFabric (type n port : Nat) (c : Ctx) (p : Pkt) (s : State) : (traceFabric type n port c p s).fab.ctxs = s.fab.ctxs := by
  unfold traceFabric
  split
  · obtain ⟨o, h⟩ := traceRec_frame 3 c.tower type (if c.mirror then 0 else c.owner) (tickOf s c.tower)
      (leBytes c.peerDev 2 ++ leBytes n 2 ++ leBytes c.peerCtx 2 ++ leBytes p.op 1 ++ leBytes port 1 ++ leBytes p.psn 4 ++ leBytes p.payload.length 2) s
    rw [h]
  · rfl

/-- A context after a packet of it was sent (R302, R307). -/
theorem sendReliable_ctx {s : State} {n : Nat} {c : Ctx} (p : Pkt) (hc : tabGet s.fab.ctxs n = some c) (hcache : n ∈ s.fab.ctxCache.get c.tower) :
    tabGet (sendReliable n p s).fab.ctxs n = some { c with
      sndNxt := psnAdd c.sndNxt 1, unacked := c.unacked ++ [{ pkt := p, sentNs := s.nowNs, resent := false }]
      timerNs := if c.unacked = [] then s.nowNs else c.timerNs, sendNs := s.nowNs + ceilDiv (p.payload.length * 1000000000) c.rate
      unackedRx := 0, ackDueNs := none } := by
  have hfetch : fetchCtx n c.tower s = s := if_pos (List.contains_iff_mem.mpr hcache)
  unfold sendReliable
  rw [hc]
  dsimp only
  rw [ctxs_traceFabric, ctxs_netSend, hfetch]
  exact (tabGet_tabMod _ _ _ _).trans (by rw [if_pos rfl, hc]; rfl)

/-! ### Timers -/

theorem fabricSend_eq_sendTransfer {s : State} {n : Nat} {c : Ctx} (hc : tabGet s.fab.ctxs n = some c) (hjob : c.mirror = false) :
    fabricSend n s = sendTransfer n s := by
  unfold fabricSend mirrorTower
  rw [hc]
  dsimp only
  rw [hjob]
  rfl

/-- Settles O48: timer by timer, from the state of the context. -/
theorem fabricTimers : Obligations.FabricTimers := by
  unfold Obligations.FabricTimers
  refine ⟨fun s n c hc => ⟨fun k hk hreset => congrArg Host.Outcome.next ?_, fun h => congrArg Host.Outcome.next ?_⟩,
    fun s n c f hc hopen hwait hreset hf => ⟨fun hmore => congrArg Host.Outcome.next ?_, fun hlast => congrArg Host.Outcome.next ?_⟩,
    fun s n c hc h => congrArg Host.Outcome.next ?_,
    fun s n c hc hwaiting => ⟨fun hreset => congrArg Host.Outcome.next ?_, fun hreset => congrArg Host.Outcome.next ?_, congrArg Host.Outcome.next ?_⟩,
    fun s n c hc hother => ⟨congrArg Host.Outcome.next ?_, congrArg Host.Outcome.next ?_⟩,
    fun s n c hc => congrArg Host.Outcome.next ?_,
    fun s n c x rest s1 addr op ro rt na bs pz left hc hjob hqueue hmay hnext => congrArg Host.Outcome.next ?_,
    fun s n c hc hjob h => congrArg Host.Outcome.next ?_,
    fun s n c h => ?_,
    fun s job add la ra bytes op ty na s1 bs pz p hp hread => ?_,
    fun s n c p hc hcache hrate => ⟨_, sendReliable_ctx p hc hcache, rfl, by simp, rfl, rfl⟩⟩
  · unfold ackDelayTimer
    rw [hc]
    dsimp only
    rw [hk]
    exact if_neg (by simp [hreset])
  · unfold ackDelayTimer
    rw [hc]
    dsimp only
    split
    · rfl
    · next k hk =>
      rcases h with h | h
      · rw [hk] at h
        cases h
      · exact if_pos h
  · subst hf
    unfold retransmitTimeout
    rw [hc]
    dsimp only
    rw [if_neg (by simp [hopen, hwait, hreset]), if_neg (by omega)]
    rfl
  · subst hf
    unfold retransmitTimeout
    rw [hc]
    dsimp only
    rw [if_neg (by simp [hopen, hwait, hreset]), if_pos (by omega)]
    rfl
  · unfold retransmitTimeout
    rw [hc]
    exact if_pos h
  · unfold waitingResend
    rw [hc]
    exact if_neg (by simp [hwaiting, hreset])
  · unfold waitingResend
    rw [hc]
    exact if_pos (.inr hreset)
  · unfold waitingLimit
    rw [hc]
    exact if_neg (by simp [hwaiting])
  · unfold waitingResend
    rw [hc]
    exact if_pos (.inl hother)
  · unfold waitingLimit
    rw [hc]
    exact if_pos hother
  · unfold rateRecovery
    rw [hc]
  · rw [fabricSend_eq_sendTransfer hc hjob]
    unfold sendTransfer
    rw [hc]
    dsimp only
    rw [hqueue]
    dsimp only
    rw [if_neg (by simp [hjob, hmay]), hnext]
  · rw [fabricSend_eq_sendTransfer hc hjob]
    unfold sendTransfer
    rw [hc]
    dsimp only
    split
    · rfl
    · next x rest hq =>
      rcases h with h | h
      · exact if_pos (by simp [h])
      · rw [hq] at h
        cases h
  · unfold maySend at h
    simp only [Bool.and_eq_true, decide_eq_true_eq, Bool.not_eq_true'] at h
    obtain ⟨⟨⟨⟨hopen, hroom⟩, hid⟩, hreset⟩, -⟩ := h
    exact ⟨hopen, hroom, hid, hreset⟩
  · subst hp
    unfold nextPacket
    dsimp only
    rw [hread]

end Sys2Proof.Machine
end

section
/-! PROOFS. Twins. -/

namespace Sys2Proof.Machine

/-! ### A commit record's bytes -/

/-- A field behind an encoded number is found in the rest. -/
theorem fieldAt_leBytes_skip (v n : Nat) (rest : List Byte) (off m : Nat) (h : n ≤ off) :
    fieldAt (leBytes v n ++ rest) off m = fieldAt rest (off - n) m := by
  simp only [fieldAt]
  rw [List.drop_append, List.drop_of_length_le (by rw [leBytes_length]; omega), List.nil_append, leBytes_length]

theorem fieldAt_leBytes_last (v n : Nat) : fieldAt (leBytes v n) 0 n = v % 256 ^ n := by
  simpa using fieldAt_leBytes v n []

theorem commitBody_length (c : CommitRec) : (commitBody c).length = 60 := by
  simp [commitBody, leBytes_length]

theorem commitBytes_length (c : CommitRec) : (commitBytes c).length = 64 := by
  simp [commitBytes, commitBody_length, leBytes_length]

/-- A commit record reads back as it was made (R339). -/
theorem commitOf_commitBytes {c : CommitRec} (hjob : c.job < 2 ^ 16) (htower : c.tower < 2 ^ 8) (hflags : c.flags < 2 ^ 8) (htick : c.tick < 2 ^ 64)
    (hentries : c.entries < 2 ^ 32) (hdata : c.dataBytes < 2 ^ 64) (hstream : c.streamBytes < 2 ^ 64) (hcrc : c.streamCrc < 2 ^ 32)
    (hboundary : c.boundaryNs < 2 ^ 64) : commitOf (commitBytes c) = some c := by
  have hbody : (commitBytes c).take 0x3C = commitBody c := List.take_left' (commitBody_length c)
  have hcheck : fieldAt (commitBytes c) 0x3C 4 = crc32c (commitBody c) := by
    rw [commitBytes, fieldAt_append_right _ _ _ _ (commitBody_length c).symm, fieldAt_leBytes_last]
    exact Nat.mod_eq_of_lt (BitVec.isLt _)
  have hmagic : fieldAt (commitBytes c) 0 4 = 0x54494D43 := by
    simp only [commitBytes, commitBody, List.append_assoc, fieldAt_leBytes]
    norm_num
  unfold commitOf
  rw [hbody, if_pos ⟨hmagic, hcheck⟩]
  simp (disch := omega) only [commitBytes, commitBody, List.append_assoc, fieldAt_leBytes_skip, Nat.reduceSub, fieldAt_leBytes, Nat.reducePow,
    Nat.mod_eq_of_lt]

/-! ### How a packet comes in -/

theorem exec_arrival {port : Nat} {p : Pkt} {k : Instr} {s : State} (h : Arrival port p k) : exec k s = .next (arrive port p s) := by
  rcases h with rfl | h
  · rfl
  · simp only [List.mem_cons, Prod.mk.injEq, List.not_mem_nil, or_false] at h
    rcases h with ⟨hop, rfl⟩ | ⟨hop, rfl⟩ | ⟨hop, rfl⟩ | ⟨hop, rfl⟩ | ⟨hop, rfl⟩ | ⟨hop, rfl⟩ | ⟨hop, rfl⟩ | ⟨hop, rfl⟩ <;>
      exact congrArg Host.Outcome.next (if_pos hop)

theorem arrive_enters {s s0 : State} {port : Nat} {p : Pkt} (h : Enters s port p s0) : arrive port p s = switchPkt port p s0 := by
  obtain ⟨htakes, ⟨hself, rfl⟩ | ⟨hport, hfits, rfl⟩⟩ := h
  · subst hself
    simp [arrive, htakes]
  · simp [arrive, htakes, hport, hfits]

/-- The part of the fabric that no frame on its way changes: the device's ID, the ports' settings, the contexts. -/
def fabricId (s : State) : Option Nat × PortCfg × Tab Ctx := (s.fab.devId, s.fab.cfg, s.fab.ctxs)

theorem fabricId_ctrFab (port k n : Nat) (s : State) : fabricId (ctrFab port k n s) = fabricId s := by
  obtain ⟨o, ho⟩ := ctrAdd_frame 7 (port * 11 + k) n s
  unfold ctrFab
  rw [ho]
  rfl

theorem fabricId_pfcUpdate (l : Nat) (s : State) : fabricId (pfcUpdate l s) = fabricId s := by
  unfold pfcUpdate
  split
  · rfl
  · dsimp only
    refine foldl_invariant _ fabricId (fun st k => ?_) _ _
    split
    · rfl
    · split
      · rfl
      · split <;> rfl

theorem fabricId_rxEnter (l : Nat) (p : Pkt) (s : State) : fabricId (rxEnter l p s) = fabricId s :=
  calc fabricId (rxEnter l p s) = fabricId (ctrFab l 1 (frameBytes s.fab.cfg p) s) := fabricId_pfcUpdate ..
    _ = fabricId s := fabricId_ctrFab ..

theorem fabricId_enters {s s0 : State} {port : Nat} {p : Pkt} (h : Enters s port p s0) : fabricId s0 = fabricId s := by
  obtain ⟨-, ⟨-, rfl⟩ | ⟨-, -, rfl⟩⟩ := h
  · rfl
  · exact fabricId_rxEnter port p s

theorem forContext_enters {s s0 : State} {port n : Nat} {p : Pkt} {c : Ctx} (h : Enters s port p s0) (hc : ForContext s p n c) :
    ForContext s0 p n c := by
  have hid := fabricId_enters h
  simp only [fabricId, Prod.mk.injEq] at hid
  obtain ⟨hdev, hcfg, hctxs⟩ := hid
  unfold ForContext
  rw [hdev, hcfg, hctxs]
  exact hc

theorem traceFabric_frame (type n port : Nat) (c : Ctx) (p : Pkt) (s : State) : ∃ o, traceFabric type n port c p s = { s with obs := o } := by
  unfold traceFabric
  split
  · exact traceRec_frame ..
  · exact ⟨s.obs, rfl⟩

/-- A packet for a context of the device that carries data goes on to `receiveData`, where no congestion mark asks for an answer. -/
theorem exec_data {s s0 : State} {port n : Nat} {p : Pkt} {c : Ctx} {k : Instr} (hk : Arrival port p k) (h : Enters s port p s0)
    (hc : ForContext s p n c) (hop : p.op ≤ 5) (hce : isCe (fetchCtx n c.tower s0).fab.cfg p = false) :
    exec k s = .next (receiveData port n c p (fetchCtx n c.tower s0)) := by
  obtain ⟨hdev, hcrc, hudp, hn, hctx, hpeer, hpeerCtx, hstate⟩ := forContext_enters h hc
  rw [exec_arrival hk, arrive_enters h, switchPkt, if_pos hdev.symm, receive]
  dsimp only
  rw [if_neg (by simp [hcrc, hudp]), hn, hctx]
  dsimp only
  rw [if_neg (by simp [hpeer, hpeerCtx]), if_neg hstate, if_pos hop, answerCe]
  dsimp only
  rw [if_neg (by simp [hce])]

/-! ### Taking an acknowledgement leaves the ports' settings -/

theorem cfg_complete (c : Cmd) (status : Nat) (result : List Byte) (s : State) : (complete c status result s).fab.cfg = s.fab.cfg := by
  obtain ⟨n, h, o, he⟩ := complete_frame c status result s
  rw [he]

theorem cfg_closeMirror (t : Tower) (s : State) : (closeMirror t s).fab.cfg = s.fab.cfg := by
  unfold closeMirror
  dsimp only
  split <;> split <;> rfl

theorem cfg_bindFail (mb status : Nat) (s : State) : (bindFail mb status s).fab.cfg = s.fab.cfg := by
  have hclose := foldl_invariant (fun st t => closeMirror t st) (·.fab.cfg) (fun st t => cfg_closeMirror t st)
    (bothTowers.filter (fun t => (s.twin.get t).bindMb = some mb)) s
  unfold bindFail
  dsimp only
  split
  · exact (cfg_complete ..).trans hclose
  · exact hclose

theorem cfg_bindJudge (mb : Nat) (s : State) : (bindJudge mb s).fab.cfg = s.fab.cfg := by
  unfold bindJudge
  dsimp only
  split
  · exact cfg_bindFail mb stBadField s
  · split
    · split
      · exact cfg_complete ..
      · rfl
    · rfl

theorem cfg_restoreDone (t : Tower) (s : State) : (restoreDone t s).fab.cfg = s.fab.cfg := by
  unfold restoreDone
  split
  · rfl
  · dsimp only
    split
    · split
      · rfl
      · split
        · exact cfg_complete ..
        · rfl
    · split
      · exact cfg_complete ..
      · rfl

theorem cfg_commitTick (t : Tower) (j : Job) (tick bytes : Nat) (c : CommitRec) (s : State) : (commitTick t j tick bytes c s).fab.cfg = s.fab.cfg := by
  unfold commitTick
  dsimp only
  split <;> rfl

theorem cfg_streamAcked (t : Tower) (k : TxKind) (s : State) : (streamAcked t k s).fab.cfg = s.fab.cfg := by
  cases k with
  | hello =>
    unfold streamAcked
    dsimp only
    split
    · exact cfg_bindJudge ..
    · rfl
  | tick n prot after =>
    unfold streamAcked
    dsimp only
    split
    · rfl
    · split
      · rfl
      · have hprotected : (if after ∧ (s.twin.get t).state = .bound then
            s.onTwin (fun p => p.mod t (fun x => { x with isProtected := true, seedEnded := false, seedFull := false })) else s).fab.cfg
            = s.fab.cfg := by
          split <;> rfl
        split
        · split
          · exact (cfg_commitTick ..).trans hprotected
          · exact hprotected
        · exact hprotected
  | restore => exact cfg_restoreDone t s
  | seed =>
    unfold streamAcked
    dsimp only
    split
    · exact cfg_restoreDone ..
    · rfl

theorem cfg_takeAck (n ackPsn : Nat) (s : State) : (takeAck n ackPsn s).fab.cfg = s.fab.cfg := by
  unfold takeAck
  dsimp only
  split
  · next t _ =>
    unfold mirrorAcked
    dsimp only
    rw [foldl_invariant (fun st (a : Nat × TxKind) => streamAcked t a.2 st) (·.fab.cfg) (fun st a => cfg_streamAcked t a.2 st)]
    rfl
  · rfl

/-- A data packet of a mirror context that is the next in order: what happens once its ACK_PSN is taken (R338). -/
theorem receiveData_mirror {s : State} {port n : Nat} {p : Pkt} {c : Ctx} (hmirror : c.mirror = true) (hreset : underReset s c.tower = false)
    (hnext : psnDiff c.rcvNxt p.psn = 0) {s2 : State} (hs2 : s2 = takeAck n p.ackPsn (traceFabric 6 n port c p s)) :
    receiveData port n c p s =
      if p.op = 1 ∧ pktSized s2.fab.cfg p = true then
        if (rxPacket c.tower p s2).2 then accepted n p (rxPacket c.tower p s2).1 else refuse port n p 4 c.rcvNxt (rxPacket c.tower p s2).1
      else refuse port n p 4 c.rcvNxt s2 := by
  obtain ⟨o, ho⟩ := traceFabric_frame 6 n port c p s
  have hreset' : underReset (traceFabric 6 n port c p s) c.tower = false := by
    rw [ho]
    exact hreset
  unfold receiveData
  dsimp only
  rw [if_neg (by simp [hreset']), if_neg (by simp [hmirror]), hnext, if_neg (by simp), if_pos hmirror, ← hs2,
    show (traceFabric 6 n port c p s).fab.cfg = s2.fab.cfg by rw [hs2, cfg_takeAck]]
  congr 1
  rcases rxPacket c.tower p s2 with ⟨s3, _ | _⟩ <;> rfl

/-! ### The TWIN commands -/

/-- A tower's job holds a check of TWIN.UNBIND: the tower is not lost and its job is armed or running. -/
def unbindHeld (s : State) (t : Tower) : Bool :=
  decide ((s.twin.get t).state ≠ .lost) && match jobOfTower s t with
    | some j => decide (j.state = .armed ∨ j.state = .running)
    | none => false

theorem unbindHeld_iff {s : State} {t : Tower} : unbindHeld s t = true ↔
    ∃ j, jobOfTower s t = some j ∧ (s.twin.get t).state ≠ .lost ∧ (j.state = .armed ∨ j.state = .running) := by
  unfold unbindHeld
  cases jobOfTower s t with
  | none => simp
  | some j => simp

theorem unbindHeld_any {s : State} {ts : List Tower} (h : ∀ t ∈ ts, ∀ j, jobOfTower s t = some j →
    (s.twin.get t).state = .lost ∨ (j.state ≠ .armed ∧ j.state ≠ .running)) : ts.any (unbindHeld s) = false := by
  refine List.any_eq_false.mpr fun t ht hheld => ?_
  obtain ⟨j, hj, hlost, hstate⟩ := unbindHeld_iff.mp hheld
  rcases h t ht j hj with h | ⟨harmed, hrunning⟩
  · exact hlost h
  · rcases hstate with h | h
    · exact harmed h
    · exact hrunning h

/-- The check of TWIN.UNBIND's fields comes to whether a tower named has no binding. -/
theorem twinUnbind_judged {s : State} {c : Cmd} (hp : Plain c 8) (hlo : 1 ≤ par c 0 1) (hhi : par c 0 1 ≤ 3) (hz : ZeroPar c 1 7) :
    twinUnbind c s = judged c [(false, stBadLength), ((towersOfMask (par c 0 1)).any (fun t => decide ((s.twin.get t).state = .off)), stBadField),
      ((towersOfMask (par c 0 1)).any (unbindHeld s), stWrongState)] s
      (complete c stDone [] ((towersOfMask (par c 0 1)).foldl (fun st t =>
        (closeMirror t (match (st.twin.get t).bindMb with
          | some b => bindFail b stTwinLost st
          | none => restoreEnd t stTwinLost st)).onTwin (fun p => p.mod t unbindTower)) s)) := by
  have hmask : decide (par c 0 1 = 0 ∨ 4 ≤ par c 0 1) = false := decide_eq_false (by omega)
  have hlength : decide (c.length ≠ 8) = false := decide_eq_false (by simp [hp.length])
  unfold twinUnbind
  dsimp only
  rw [hlength, hp.hdrBad, hz.parRes, hmask]
  rfl

theorem twinBind_judged {s : State} {c : Cmd} {m : Nat} {ts : List Tower} (hp : Plain c 48) (hm : par c 0 1 = m) (hm3 : m ≤ 3)
    (hts : ts = towersOfMask m) (hrecover : par c 1 1 ≤ 1) (hdev : par c 2 2 < 0x2000) (hz : ZeroPar c 0x20 16) (hmin : 1 ≤ par c 0xC 4)
    (hmax : par c 0xC 4 ≤ 4194304) (hdistinct : m = 3 → par c 4 2 ≠ par c 8 2)
    (hfree : ∀ t ∈ ts, (s.twin.get t).bindMb = none ∧ (s.twin.get t).restore = none) (hid : s.fab.devId.isSome = true)
    (hhoming : s.hbm.globalHoming = false)
    (hjob : ∀ t ∈ ts, ∃ j, jobOfTower s t = some j ∧ ((s.twin.get t).state = .lost
      ∨ ((s.twin.get t).state = .off ∧ j.state ≠ .armed ∧ j.state ≠ .running)))
    (htowers : bindTowersBad c s m = false) (h0 : bindFieldBad c s .t0 = false) (h1 : bindFieldBad c s .t1 = false) :
    twinBind c s = ts.foldl (fun st t => openMirror t (st.onTwin (fun p => p.mod t (fun w => { w.quiet with
        wasLost := decide (w.state = .lost), state := .pending, twinDev := par c 2 2, job := ((jobOfTower s t).map (·.id)).getD 0
        ctx := (bindPar c t).1, peerCtx := (bindPar c t).2.1, deltaMax := par c 0xC 4, deltaAddr := (bindPar c t).2.2
        recover := (par c 1 1).testBit 0, bindMb := some c.mb, bindTowers := m, bindStartNs := s.nowNs, peerRecover := false
        peerCellar := 0 })))) (markStarted c s) := by
  have hbusy : ts.any (twinBusy s) = false := List.any_eq_false.mpr fun t ht => by simp [twinBusy, hfree t ht]
  unfold twinBind
  dsimp only
  rw [hm, ← hts]
  refine (judged_ok fun x hx => ?_).trans rfl
  fin_cases hx
  · simp [hp.length]
  · exact hbusy
  · dsimp only
    rw [Option.isNone_eq_false_iff.mpr hid, hhoming]
    refine List.any_eq_false.mpr fun t ht => ?_
    obtain ⟨j, hj, hstate⟩ := hjob t ht
    rw [hj]
    rcases hstate with hlost | ⟨hoff, harmed, hrunning⟩
    · simp [hlost]
    · simp [hoff, harmed, hrunning]
  · simp only [hp.hdrBad, hz.parRes, htowers, bothTowers, List.any_cons, List.any_nil, h0, h1, Bool.or_false, Bool.false_or, Bool.or_eq_false_iff,
      decide_eq_false_iff_not, not_and]
    exact ⟨⟨⟨⟨by omega, by omega⟩, by omega⟩, by omega⟩, hdistinct⟩

/-- TWIN.BIND once the HELLOs are exchanged: a peer that does not agree fails it, one that agrees binds the towers (R330, R331). -/
theorem bindJudge_disagreed {s : State} {mb : Nat} {ts : List Tower} (hts : ts = bothTowers.filter (fun t => decide ((s.twin.get t).bindMb = some mb)))
    (h : ∃ t ∈ ts, (s.twin.get t).helloSeen = true ∧ (s.twin.get t).helloAcked = true ∧ ((s.twin.get t).peerTowers ≠ (s.twin.get t).bindTowers
      ∨ (s.hbm.mirror.get t).bytes < (s.twin.get t).peerCellar ∨ (s.twin.get t).peerMirror < (s.hbm.cellar.get t).bytes)) :
    bindJudge mb s = bindFail mb stBadField s := by
  obtain ⟨t, ht, hseen, hacked, hbad⟩ := h
  unfold bindJudge
  dsimp only
  rw [← hts]
  refine if_pos (List.any_eq_true.mpr ⟨t, ht, ?_⟩)
  rw [hseen, hacked]
  simpa [or_assoc] using hbad

theorem bindJudge_agreed {s s1 : State} {mb : Nat} {c : Cmd} {ts : List Tower}
    (hts : ts = bothTowers.filter (fun t => decide ((s.twin.get t).bindMb = some mb)))
    (h : ∀ t ∈ ts, (s.twin.get t).helloSeen = true ∧ (s.twin.get t).helloAcked = true ∧ (s.twin.get t).peerTowers = (s.twin.get t).bindTowers
      ∧ (s.twin.get t).peerCellar ≤ (s.hbm.mirror.get t).bytes ∧ (s.hbm.cellar.get t).bytes ≤ (s.twin.get t).peerMirror)
    (hrun : Running s mb 0x0500 c)
    (hs1 : s1 = s.onTwin (fun p => ⟨if p.t0.bindMb = some mb then helloState p.t0 else p.t0, if p.t1.bindMb = some mb then helloState p.t1 else p.t1⟩)) :
    bindJudge mb s = complete c stDone
      (bothTowers.flatMap (fun t => if ts.contains t then bindHalf (s1.twin.get t) else List.replicate 16 0#8)) s1 := by
  have hrun1 : Running s1 mb 0x0500 c := by
    rw [hs1]
    exact hrun
  unfold bindJudge
  dsimp only
  rw [← hts, ← hs1, if_neg, if_pos, startedCmd_running hrun1]
  · refine List.all_eq_true.mpr fun t ht => ?_
    obtain ⟨hseen, hacked, -⟩ := h t ht
    rw [hseen, hacked]
    rfl
  · refine Bool.eq_false_iff.mp (List.any_eq_false.mpr fun t ht => ?_)
    obtain ⟨-, -, htowers, hcellar, hmirror⟩ := h t ht
    simp [htowers, hcellar, hmirror]

/-- The ranges a TWIN.RESTORE command names are multiples of 8. -/
theorem restoreRanges_aligned {c : Cmd} {n : Nat} (h : ∀ i, i < n → par c (0x10 + 16 * i) 8 % 8 = 0 ∧ par c (0x18 + 16 * i) 8 % 8 = 0) :
    ((List.range n).map (fun i => (par c (0x10 + 16 * i) 8, par c (0x18 + 16 * i) 8))).any (fun r => decide (r.1 % 8 ≠ 0 ∨ r.2 % 8 ≠ 0)) = false := by
  refine List.any_eq_false.mpr fun r hr => ?_
  obtain ⟨i, hi, rfl⟩ := List.mem_map.mp hr
  obtain ⟨haddr, hsize⟩ := h i (List.mem_range.mp hi)
  simp [haddr, hsize]

theorem restoreRanges_fit {ts : List Tower} {plan : Tower → List (Nat × Nat)} {size : Tower → Nat}
    (h : ∀ t ∈ ts, ∀ r ∈ plan t, r.1 + r.2 ≤ size t) : ts.any (fun t => (plan t).any (fun r => decide (size t < r.1 + r.2))) = false := by
  refine List.any_eq_false.mpr fun t ht hover => ?_
  obtain ⟨r, hr, hlt⟩ := List.any_eq_true.mp hover
  exact absurd (of_decide_eq_true hlt) (Nat.not_lt.mpr (h t ht r hr))

/-- A mask of towers that is not empty names one of them or both. -/
theorem towersOfMask_cases {m : Nat} (hlo : 1 ≤ m) (hhi : m ≤ 3) :
    towersOfMask m = [.t0] ∨ towersOfMask m = [.t1] ∨ towersOfMask m = [.t0, .t1] := by
  obtain rfl | rfl | rfl : m = 1 ∨ m = 2 ∨ m = 3 := by omega
  · exact .inl rfl
  · exact .inr (.inl rfl)
  · exact .inr (.inr rfl)

theorem twinRestore_back {s : State} {c : Cmd} {m n : Nat} {ts : List Tower} {size : Tower → Nat} {plan : Tower → List (Nat × Nat)}
    (hn : par c 2 2 = n) (hn16 : n ≤ 16) (hp : Plain c (16 + 16 * n)) (hm : par c 0 1 = m) (hlo : 1 ≤ m) (hhi : m ≤ 3)
    (hts : ts = towersOfMask m) (hdir : par c 1 1 = 0) (hz : ZeroPar c 4 12)
    (hranges : ∀ i, i < n → par c (0x10 + 16 * i) 8 % 8 = 0 ∧ par c (0x18 + 16 * i) 8 % 8 = 0)
    (hsize : size = (fun t => (s.twin.get t).peerCellar))
    (hplan : plan = (fun t => if n = 0 then [(0, size t)] else (List.range n).map (fun i => (par c (0x10 + 16 * i) 8, par c (0x18 + 16 * i) 8))))
    (hready : ∀ t ∈ ts, (s.twin.get t).bindMb = none ∧ (s.twin.get t).restore = none ∧ (s.twin.get t).holding = true
      ∧ (s.twin.get t).peerRecover = true ∧ ((s.twin.get t).state = .bound ∨ (s.twin.get t).state = .recovering))
    (hfits : ∀ t ∈ ts, ∀ r ∈ plan t, r.1 + r.2 ≤ size t) :
    twinRestore c s = ts.foldl (fun st t => st.onTwin (fun p => p.mod t (fun w => { w with
        restore := some { mb := c.mb, seed := false, left := [], sentBytes := ((plan t).map (·.2)).foldl (· + ·) 0
                          tick := (ts.map (fun u => mirrorTickField (s.twin.get u))).headD 0, startNs := s.nowNs, whole := false }
        txQueue := w.txQueue ++ [{
          kind := .restore, buf := [], made := 0, crc := 0xFFFFFFFF, sent := 0
          recs := (plan t).map (fun q => TxRec.data 4 q.1 q.2 0) ++ [.commit {
            job := ((jobOfTower s t).map (·.id)).getD 0, tower := towerNum t, flags := 8, tick := mirrorTickField (s.twin.get t), entries := 0
            dataBytes := ((plan t).map (·.2)).foldl (· + ·) 0, streamBytes := 0, streamCrc := 0, boundaryNs := 0 }] }] }))) (markStarted c s) := by
  have hbusy : ts.any (twinBusy s) = false := List.any_eq_false.mpr fun t ht => by
    obtain ⟨hbind, hrestore, -⟩ := hready t ht
    simp [twinBusy, hbind, hrestore]
  unfold twinRestore
  dsimp only
  rw [hm, hdir, hn, ← hts]
  simp only [if_true]
  refine (judged_ok fun x hx => ?_).trans ?_
  · fin_cases hx
    · simp [hp.length]
    · simp only [hp.hdrBad, hz.parRes, restoreRanges_aligned hranges, Bool.or_false, Bool.false_or, decide_eq_false_iff_not]
      omega
    · exact hbusy
    · refine List.any_eq_false.mpr fun t ht => ?_
      obtain ⟨-, -, hholding, hrecover, hstate⟩ := hready t ht
      simp [hholding, hrecover, hstate]
    · subst hplan hsize
      exact restoreRanges_fit hfits
  · subst hplan hsize
    rcases towersOfMask_cases hlo hhi with h | h | h <;> rw [hts, h] <;> rfl

theorem twinRestore_seed {s : State} {c : Cmd} {m n : Nat} {ts : List Tower} {size : Tower → Nat} {plan : Tower → List (Nat × Nat)} {x0 : Tower}
    (hn : par c 2 2 = n) (hn16 : n ≤ 16) (hp : Plain c (16 + 16 * n)) (hm : par c 0 1 = m) (hlo : 1 ≤ m) (hhi : m ≤ 3)
    (hts : ts = towersOfMask m) (hdir : par c 1 1 = 1) (hz : ZeroPar c 4 12)
    (hranges : ∀ i, i < n → par c (0x10 + 16 * i) 8 % 8 = 0 ∧ par c (0x18 + 16 * i) 8 % 8 = 0)
    (hsize : size = (fun t => (s.hbm.cellar.get t).bytes))
    (hplan : plan = (fun t => if n = 0 then [(0, size t)] else (List.range n).map (fun i => (par c (0x10 + 16 * i) 8, par c (0x18 + 16 * i) 8))))
    (hready : ∀ t ∈ ts, (s.twin.get t).bindMb = none ∧ (s.twin.get t).restore = none ∧ (s.twin.get t).state = .bound)
    (hfits : ∀ t ∈ ts, ∀ r ∈ plan t, r.1 + r.2 ≤ size t) (hfirst : ts.head? = some x0) :
    twinRestore c s = ts.foldl (fun st t => match (st.twin.get t).restore with
          | some r => if r.seed ∧ r.left = [] then restoreDone t st else st
          | none => st)
        (ts.foldl (fun st t => st.onTwin (fun p => p.mod t (fun w => { w with
          restore := some { mb := c.mb, seed := true, left := (plan t).filter (fun q => decide (q.2 ≠ 0)), sentBytes := 0
                            tick := (s.twin.get x0).committed.getD (2 ^ 64 - 1), startNs := s.nowNs, whole := coversAll (size t) (plan t) }
          seedDone := 0, seedTotal := ((plan t).map (·.2)).foldl (· + ·) 0, seedEnded := false, seedFull := false }))) (markStarted c s)) := by
  have hbusy : ts.any (twinBusy s) = false := List.any_eq_false.mpr fun t ht => by
    obtain ⟨hbind, hrestore, -⟩ := hready t ht
    simp [twinBusy, hbind, hrestore]
  unfold twinRestore
  dsimp only
  rw [hm, hdir, hn, ← hts]
  simp only [if_neg Nat.one_ne_zero]
  refine (judged_ok fun x hx => ?_).trans ?_
  · fin_cases hx
    · simp [hp.length]
    · simp only [hp.hdrBad, hz.parRes, restoreRanges_aligned hranges, Bool.or_false, Bool.false_or, decide_eq_false_iff_not]
      omega
    · exact hbusy
    · refine List.any_eq_false.mpr fun t ht => ?_
      obtain ⟨-, -, hstate⟩ := hready t ht
      simp [hstate]
    · subst hplan hsize
      exact restoreRanges_fit hfits
  · subst hplan hsize
    rcases towersOfMask_cases hlo hhi with h | h | h <;> rw [hts, h] at hfirst ⊢ <;> cases hfirst <;> rfl

/-! ### The mirror stream -/

/-- A ring keeps the last 16 commit records, the newest at its end. -/
theorem ringAdd_spec (r : List CommitRec) (c : CommitRec) (h : r.length ≤ 16) : (ringAdd c r).length ≤ 16 ∧ (ringAdd c r).getLast? = some c := by
  have hkept : r.length + 1 - 16 ≤ r.length := by omega
  unfold ringAdd
  rw [List.drop_append_of_le_length hkept]
  exact ⟨by simp; omega, List.getLast?_concat⟩

theorem applyCommit_spec (c : CommitRec) (w : Twin) : (applyCommit c w).ringRx = ringAdd c w.ringRx
    ∧ (c.flags.testBit 4 = true → (applyCommit c w).holding = true ∧ (applyCommit c w).mirrorTick = some c.tick)
    ∧ (c.flags.testBit 3 = true → w.state = .recovering →
      (applyCommit c w).committed = some c.tick ∧ (applyCommit c w).state = .bound ∧ (applyCommit c w).isProtected = true) := by
  have hstate : (if bitOf c.flags 4 then { w with ringRx := ringAdd c w.ringRx, holding := true, mirrorTick := some c.tick }
      else { w with ringRx := ringAdd c w.ringRx }).state = w.state := by split <;> rfl
  refine ⟨?_, fun hfull => ?_, fun hclose hrecovering => ?_⟩
  · unfold applyCommit
    dsimp only
    split <;> split <;> rfl
  · unfold applyCommit
    dsimp only
    rw [if_pos (show bitOf c.flags 4 = true from hfull)]
    split <;> exact ⟨rfl, rfl⟩
  · unfold applyCommit
    dsimp only
    rw [if_pos ⟨hclose, hstate.trans hrecovering⟩]
    exact ⟨rfl, rfl, rfl⟩

/-- What a HELLO tells of the peer. -/
def helloEntered (t : Tower) (r : RxRec) (s : State) : State :=
  s.onTwin (fun q => q.mod t (fun w => { w with
    helloSeen := true, peerTowers := r.off / 8 % 4, peerRecover := (r.off / 8).testBit 2
    peerCellar := fieldAt (r.data.map (·.1)) 0 8, peerMirror := fieldAt (r.data.map (·.1)) 8 8
    peerCommitted := if fieldAt (r.data.map (·.1)) 16 8 = 2 ^ 64 - 1 then none else some (fieldAt (r.data.map (·.1)) 16 8)
    peerMirrorTick := if fieldAt (r.data.map (·.1)) 24 8 = 2 ^ 64 - 1 then none else some (fieldAt (r.data.map (·.1)) 24 8) }))

theorem helloRecord_held {s s2 : State} {t : Tower} {r : RxRec} (hr : heldRec s t 5 = some r) (hs2 : s2 = rxResume t r (helloEntered t r s)) :
    helloRecord t s = (s2.twin.get t).bindMb.elim s2 (fun mb => bindJudge mb s2) := by
  subst hs2
  unfold helloRecord
  rewrite [hr]
  show _ = Option.elim _ (rxResume t r (helloEntered t r s)) _
  cases h : ((rxResume t r (helloEntered t r s)).twin.get t).bindMb <;> (unfold helloEntered at h; simp only [bitOf]; rw [h]; rfl)

/-- Settles O49: each command passes its checks; a mirror packet by its way to `receiveData`; a commit record is read back from its bytes. -/
theorem twinsComplete : Obligations.TwinsComplete := by
  unfold Obligations.TwinsComplete
  refine ⟨fun s mb c hw hp => ?_, fun s mb c ts hw hp hlo hhi hz hts => ?_, fun s mb t ts h => congrArg Host.Outcome.next ?_,
    fun s mb c m ts hw hp hm hm3 hts hrecover hdev hz hmin hmax hdistinct hfree hid hhoming hjob htowers h0 h1 =>
      exec_of_waiting hw rfl (?_),
    fun s mb ts hts => ⟨bindJudge_disagreed hts, fun h c s1 hrun hs1 => bindJudge_agreed hts h hrun hs1⟩,
    fun w => ⟨fun h => ?_, fun h => ?_⟩,
    fun s mb c m n ts size plan hw hn hn16 hp hm hlo hhi hts hdir hz hranges hsize hplan hready hfits => exec_of_waiting hw rfl
      (twinRestore_back hn hn16 hp hm hlo hhi hts hdir hz hranges hsize hplan hready hfits),
    fun s mb c m n ts size plan x0 hw hn hn16 hp hm hlo hhi hts hdir hz hranges hsize hplan hready hfits hfirst => exec_of_waiting hw rfl
      (twinRestore_seed hn hn16 hp hm hlo hhi hts hdir hz hranges hsize hplan hready hfits hfirst),
    fun s port p => ⟨fun hdst hmirror _ => congrArg Host.Outcome.next (if_pos ⟨hdst.symm, hmirror⟩), fun h => congrArg Host.Outcome.next (if_neg ?_)⟩,
    fun s port p n c k s0 s1 s2 hk henters hc hmirror hs1 hreset hce hnext hs2 => ?_,
    fun s t r hr => ⟨fun c hcommit hbytes hcrc => congrArg Host.Outcome.next ?_, fun hcommit => congrArg Host.Outcome.next ?_,
      fun c hcommit hbad => congrArg Host.Outcome.next ?_⟩,
    fun s t => ⟨fun h => congrArg Host.Outcome.next ?_, fun h => congrArg Host.Outcome.next ?_⟩,
    applyCommit_spec, ringAdd_spec,
    fun c hjob htower hflags htick hentries hdata hstream hcrc hboundary => ⟨commitBytes_length c,
      commitOf_commitBytes hjob htower hflags htick hentries hdata hstream hcrc hboundary⟩,
    fun s t r s1 s2 hr hs1 hs2 => ⟨fun h => congrArg Host.Outcome.next ?_, fun mb h => congrArg Host.Outcome.next ?_⟩⟩
  · refine exec_of_waiting hw rfl (judged_ok fun x hx => ?_)
    fin_cases hx
    · simp [hp.length]
    · exact hp.hdrBad
  · subst hts
    have hbody := twinUnbind_judged (s := s) hp hlo hhi hz
    have hbound (h : ∀ t ∈ towersOfMask (par c 0 1), (s.twin.get t).state ≠ .off) :
        (towersOfMask (par c 0 1)).any (fun t => decide ((s.twin.get t).state = .off)) = false :=
      List.any_eq_false.mpr fun t ht => by simp [h t ht]
    refine ⟨fun hoff hidle => exec_of_waiting hw rfl (hbody.trans ?_), fun ⟨t, ht, hoff⟩ => exec_of_waiting hw rfl (hbody.trans ?_),
      fun hoff ⟨t, ht, hheld⟩ => exec_of_waiting hw rfl (hbody.trans ?_)⟩
    · rw [hbound hoff, unbindHeld_any hidle]
      exact judged_pass c _ s _ rfl
    · rw [show (towersOfMask (par c 0 1)).any (fun t => decide ((s.twin.get t).state = .off)) = true from
        List.any_eq_true.mpr ⟨t, ht, decide_eq_true hoff⟩]
      exact judged_fail c [_] [_] _ s _ rfl
    · rw [hbound hoff, show (towersOfMask (par c 0 1)).any (unbindHeld s) = true from List.any_eq_true.mpr ⟨t, ht, unbindHeld_iff.mpr hheld⟩]
      exact judged_fail c [_, _] [] _ s _ rfl
  · unfold twinBindTimeout
    dsimp only
    rw [h]
  · exact twinBind_judged hp hm hm3 hts hrecover hdev hz hmin hmax hdistinct hfree hid hhoming hjob htowers h0 h1
  · unfold helloState
    rw [if_pos h]
    exact ⟨rfl, rfl⟩
  · unfold helloState
    rw [if_neg (by simp [h])]
    exact ⟨rfl, by simp⟩
  · rintro ⟨hdst, hmirror⟩
    rcases h with h | h
    · exact h hdst.symm
    · rw [h] at hmirror
      cases hmirror
  · subst hs1
    have hreceive := receiveData_mirror (port := port) hmirror hreset hnext hs2
    refine ⟨fun s3 hop hsized hrx => ?_, fun s3 hop hsized hrx => ?_, fun hlo hhi => ?_⟩
    · rw [exec_data hk henters hc (by omega) hce, hreceive, if_pos ⟨hop, hsized⟩, hrx]
      rfl
    · rw [exec_data hk henters hc (by omega) hce, hreceive, if_pos ⟨hop, hsized⟩, hrx]
      rfl
    · rw [exec_data hk henters hc hhi hce, hreceive, if_neg (by omega)]
  · unfold commitRecord
    rw [hr]
    dsimp only
    rw [hcommit]
    exact if_pos ⟨hbytes, hcrc⟩
  · unfold commitRecord
    rw [hr]
    dsimp only
    rw [hcommit]
  · unfold commitRecord
    rw [hr]
    dsimp only
    rw [hcommit]
    exact if_neg (by rintro ⟨h1, h2⟩; exact hbad.elim (· h1) (· h2))
  · unfold commitRecord
    rw [h]
  · unfold helloRecord
    rw [h]
  · subst hs1
    rw [helloRecord_held hr hs2, h]
    rfl
  · subst hs1
    rw [helloRecord_held hr hs2, h]
    rfl

end Sys2Proof.Machine
end

section
/-! PROOFS. The memory instructions of a core. -/

namespace Sys2Proof.Machine

/-! ### Tables built in rising order -/

/-- A key above all others goes to the end of a table. -/
theorem tabPut_above {α : Type} {m : Tab α} {k : Nat} (v : α) (h : ∀ e ∈ m, e.1 < k) : tabPut m k v = m ++ [(k, v)] := by
  induction m with
  | nil => rfl
  | cons e m ih =>
    obtain ⟨j, w⟩ := e
    have hj : j < k := h (j, w) (by simp)
    rw [tabPut, if_neg (by omega), if_neg (by omega), ih fun x hx => h x (by simp [hx])]
    rfl

/-- Entries put in rising order of their keys stand in the table as they came. -/
theorem foldl_tabPut_rising {α β : Type} (key : β → Nat) (val : β → α) {xs : List β} (hrising : xs.Pairwise (fun x y => key x < key y)) {m : Tab α}
    (h : ∀ e ∈ m, ∀ x ∈ xs, e.1 < key x) :
    xs.foldl (fun m x => tabPut m (key x) (val x)) m = m ++ xs.map (fun x => (key x, val x)) := by
  induction xs generalizing m with
  | nil => simp
  | cons x xs ih =>
    rw [List.pairwise_cons] at hrising
    rw [List.foldl_cons, tabPut_above _ fun e he => h e he x (by simp), ih hrising.2, List.map_cons, List.append_assoc]
    · rfl
    · intro e he y hy
      rcases List.mem_append.mp he with he | he
      · exact h e he y (by simp [hy])
      · obtain rfl := List.mem_singleton.mp he
        exact hrising.1 y hy

theorem mapIdx_rising (off : Nat) (bs : List Byte) : (bs.mapIdx (fun i b => (off + i, b))).Pairwise (fun x y => x.1 < y.1) := by
  rw [List.pairwise_iff_getElem]
  intro i j hi hj hij
  simp only [List.getElem_mapIdx]
  omega

/-- One lane's store of unpoisoned registers is one request with the lane's bytes (R89). -/
theorem sendStores_single {a : Act} {w r l x : Nat} {s : State} (h : (storeBytes a.gang l r w).2 = false) :
    sendStores a w r [(x / 128 * 128, [(l, x)])] s =
      ((loftSend a (x / 128 * 128) (.store ((storeBytes a.gang l r w).1.mapIdx (fun i b => (x + i, b))) []) s).1, [s.cores.nextTag]) := by
  have hcells := foldl_tabPut_rising (m := []) Prod.fst (fun e : Nat × Byte => (e.2, false)) (mapIdx_rising x (storeBytes a.gang l r w).1) (by simp)
  unfold sendStores
  simp only [List.foldl_cons, List.foldl_nil, h]
  rw [hcells]
  simp [List.filter_map, Function.comp_def, loftSend]

theorem counterChecked_ok {a : Act} {k : Nat} (go s : State) (h : k < a.crew.kernel.counters) : counterChecked a k go s = go := if_neg (by omega)

/-- The operands of an async copy within one gang's local memory or beyond it: a count of R97 at aligned addresses. -/
theorem copyAligned {m x d : Nat} (hcount : copyCountBad m = false) (hx : x % 32 = 0) (hd : d % 32 = 0) :
    ¬(copyCountBad m || decide (x % 32 ≠ 0) || decide (d % 32 ≠ 0)) = true := by simp [hcount, hx, hd]

theorem or_eq_false {a b : Bool} (ha : a = false) (hb : b = false) : (a || b) = false := by rw [ha, hb]; rfl

theorem not_eq_false {b : Bool} (h : b = true) : (!b) = false := by rw [h]; rfl

theorem if_false_check {α : Type} {b : Bool} (x y : α) (h : b = false) : (if b then x else y) = y := if_neg (by simp [h])

theorem ite_none_eq_none {α : Type} {p : Prop} [Decidable p] {o : Option α} (h : ¬p → o = none) : (if p then none else o) = none := by
  split
  · rfl
  · next hp => exact h hp

theorem if_decide {α : Type} {p : Prop} [Decidable p] (x y : α) : (if decide p then x else y) = if p then x else y :=
  if_congr decide_eq_true_iff rfl rfl

theorem decide_ne_eq_false {m n : Nat} (h : m = n) : decide (m ≠ n) = false := decide_eq_false (not_not.mpr h)

/-- LD.RO's lines, one after another, for whatever function says what each of the three cases does (R91). -/
theorem ldRo_eq {s s1 : State} {g : FragRef} {w d : Nat} {x : GAddr} {a : Act} {step : State → Nat × List (Nat × Nat) → State}
    {tag : List (Nat × Nat) → LoadTag} (hi : Issues s g (regRun d (widthRegs w) ++ srcRegs [x.lo, x.hi]) (srcUregs [x.lo, x.hi]) [] a s1)
    (hclean : Clean a [x.lo, x.hi]) (hwidth : widthOk w = true) (hok : GlobalOk s1 a 0 w (fun l => gaddrVal a.gang l x))
    (htag : tag = (fun ls => { g := g, width := w, dst := d, lanes := ls, viaL1r := false }))
    (hheld : ∀ z p line, tabGet (coreAt z g.core).l1r (p.1 / 128) = some line →
      step z p = onGang g (fun y => (l1rData line (tag p.2)).foldl (fun u v => loadRegs v.1 d w v.2.1 v.2.2 u) y) z)
    (hmissing : ∀ z p ws, tabGet (coreAt z g.core).l1r (p.1 / 128) = none → tabGet (coreAt z g.core).l1rMiss (p.1 / 128) = some ws →
      step z p = onGang g (addPend d (widthRegs w) z.cores.nextTag) (onCore g.core (fun y => { y with
        l1rMiss := tabPut y.l1rMiss (p.1 / 128) (ws ++ [(z.cores.nextTag, tag p.2)]) }) (z.onCores (fun y => { y with nextTag := z.cores.nextTag + 1 }))))
    (hmiss : ∀ z p, tabGet (coreAt z g.core).l1r (p.1 / 128) = none → tabGet (coreAt z g.core).l1rMiss (p.1 / 128) = none →
      step z p = onGang g (addPend d (widthRegs w) z.cores.nextTag) (onCore g.core (fun y => { y with
        l1rMiss := tabPut y.l1rMiss (p.1 / 128) [(z.cores.nextTag, tag p.2)] })
        (loftSend a p.1 (.load { tag p.2 with lanes := [(0, p.1)], viaL1r := true }) z).1)) :
    ldRo g w d x s = advance g ((lineGroups ((lanesOf a.frag.mask).map (fun l => (l, gaddrVal a.gang l x)))).foldl step s1) := by
  unfold ldRo
  rw [issue_eq hi]
  dsimp only
  rw [if_neg (by simp [hwidth]), consume_clean hclean, globalChecked_ok hok]
  congr 2
  funext z p
  split
  · next line hline => rw [hheld z p line hline, htag]
  · next hnone =>
    split
    · next ws hws => rw [hmissing z p ws hnone hws, htag]
    · next hnew =>
      rw [hmiss z p hnone hnew, htag]
      rfl

/-- Settles O55: an instruction that issues and whose checks hold runs its body; a lane's cells stand in the request in rising order. -/
theorem coreMemoryComplete : Obligations.CoreMemoryComplete := by
  unfold Obligations.CoreMemoryComplete
  refine ⟨fun s g w d x a s1 hmx hi hclean hok => congrArg Host.Outcome.next ?_,
    fun s g w r x a s1 hmx hi hclean hok => congrArg Host.Outcome.next ?_,
    fun c off bs => ⟨?_, fun i hi => ?_⟩,
    fun s g op ty dst x v k a s1 n run st1 hmx hn hop hi hclean hok hpoison hrun hst1 => ?_,
    fun s g w d x a s1 hi hclean hwidth hok => congrArg Host.Outcome.next ?_,
    fun s g w d x a s1 step tag hi hclean hwidth hok htag hheld hmissing hmiss => congrArg Host.Outcome.next
      (ldRo_eq hi hclean hwidth hok htag hheld hmissing hmiss),
    fun s id r s1 hr hs1 => ⟨fun hvia => congrArg Host.Outcome.next ?_, fun hvia la line hla hline => congrArg Host.Outcome.next ?_⟩,
    fun s id h => congrArg Host.Outcome.next ?_,
    fun s g w r x a s1 groups sent hi hclean hwidth hok hgroups hsent => congrArg Host.Outcome.next ?_,
    fun a w r l x s t hwidth halign hclean ht => ?_,
    fun s g op ty o sc d x v k a s1 n groups sent st1 hn hi hclean hok hrelease hgroups hsent hst1 => congrArg Host.Outcome.next ?_,
    fun s g op ty o sc x v a s1 n groups sent st1 hn hop hi hclean hok hrelease hgroups hsent hst1 => congrArg Host.Outcome.next ?_,
    fun s g src dst n c a s1 x d m st1 data pz hi hmx hfull hx hd hm hstores hcount hxa hda hext hbound hctr hread => congrArg Host.Outcome.next ?_,
    fun s g src dst n c a s1 x d m hi hmx hfull hx hd hm hcount hxa hda hext hbound hctr => congrArg Host.Outcome.next ?_,
    fun s g src dst n c a s1 x d m hi hmx hfull hx hd hm hcount hxa hda hbx hbd hctr => congrArg Host.Outcome.next ?_,
    fun s g desc o e dst c a s1 bs t rows reads lo hi' run hi hmx hfull hbs ht hrows hreads hlo hhi hstores hext hbound hpoison htensor hranko hranke
      haligned hda hdst hoa hea hend hctr hrun => congrArg Host.Outcome.next ?_,
    fun s core id c s1 s2 hc hs1 hs2 => congrArg Host.Outcome.next ?_,
    fun s core id h => congrArg Host.Outcome.next ?_⟩
  · unfold ldl
    rw [if_neg (by simp [hmx]), issue_eq hi]
    dsimp only
    rw [consume_clean hclean, localChecked_ok hok]
  · unfold stl
    rw [if_neg (by simp [hmx]), issue_eq hi]
    dsimp only
    rw [consume_clean hclean, localChecked_ok hok]
  · refine List.ext_getElem (by simp [lmemRead]) fun i hi hi' => ?_
    simp only [lmemRead, List.getElem_map, List.getElem_range, lmemByte_lmemWrite]
    rw [dif_pos (by omega)]
    simp
  · rw [lmemByte_lmemWrite, dif_neg (by omega)]
  · subst hn hrun hst1
    refine ⟨fun d hd => congrArg Host.Outcome.next ?_, fun hd => congrArg Host.Outcome.next ?_⟩ <;>
    · subst hd
      unfold atoml
      dsimp only
      rw [if_neg (by simp [hmx]), issue_eq hi]
      exact (if_neg (by simp [hop])).trans ((consume_clean hclean _ _).trans ((localChecked_ok hok _ _).trans (if_neg (not_not.mpr
        (List.filter_eq_nil_iff.mpr fun l hl => by simp [hpoison l hl])))))
  · unfold ld
    rw [issue_eq hi]
    dsimp only
    rw [if_neg (by simp [hwidth]), consume_clean hclean, globalChecked_ok hok]
    rfl
  · unfold globalLoadReturn
    rw [hr]
    dsimp only
    rw [hvia, ← hs1]
    rfl
  · subst hla hline
    unfold globalLoadReturn
    rw [hr]
    dsimp only
    rw [hvia, ← hs1]
    rfl
  · unfold globalLoadReturn
    rw [h]
  · unfold Machine.st
    rw [issue_eq hi]
    dsimp only
    rw [if_neg (by simp [hwidth]), consume_clean hclean, globalChecked_ok hok, ← hgroups, ← hsent]
  · subst ht
    rw [sendStores_single hclean]
    cases hhome : homeTower s (x / 128 * 128) <;> simp [loftSend, hhome] <;> rfl
  · subst hn
    unfold memAtomic
    rw [issue_eq hi]
    dsimp only
    rw [if_neg (by simp), if_neg, consume_clean hclean, globalChecked_ok hok, ← hgroups, ← hsent, ← hst1]
    · rfl
    · cases hr : isRelease o <;> simp
      exact hrelease hr
  · subst hn
    unfold memAtomic
    rw [issue_eq hi]
    dsimp only
    rw [if_neg (by simp [hop]), if_neg, consume_clean hclean, globalChecked_ok hok, ← hgroups, ← hsent, ← hst1]
    · rfl
    · cases hr : isRelease o <;> simp
      exact hrelease hr
  · unfold acpG2l
    rw [issueUniform_eq hi]
    subst hx hd hm
    refine (if_neg (by simp [hmx, hfull, hstores])).trans ((if_neg (copyAligned hcount hxa hda)).trans ?_)
    rw [hext]
    refine (if_neg (by omega)).trans ((counterChecked_ok _ _ hctr).trans ?_)
    rw [hread]
  · unfold acpL2g
    rw [issueUniform_eq hi]
    dsimp only
    rw [← hx, ← hd, ← hm, hmx, hfull, if_neg (by simp), if_neg (copyAligned hcount hxa hda), hext]
    dsimp only
    rw [if_neg (by omega), counterChecked_ok _ _ hctr]
  · unfold acpL2l
    rw [issueUniform_eq hi]
    dsimp only
    rw [← hx, ← hd, ← hm, hmx, hfull, if_neg (by simp), if_neg (copyAligned hcount hxa hda), if_neg (by omega), counterChecked_ok _ _ hctr]
  · subst hrun hbs ht hrows hreads hlo hhi
    unfold acpBox
    rw [issueUniform_eq hi]
    dsimp only at hstores hext hranko hranke haligned hoa hea hend ⊢
    rw [if_false_check _ _ (or_eq_false (or_eq_false hmx hfull) hstores), if_neg (Nat.not_lt.mpr hbound), if_false_check _ _ hpoison,
      if_false_check _ _ (or_eq_false (or_eq_false (not_eq_false htensor)
        (decide_eq_false (Nat.not_lt.mpr (hranko.trans_eq (List.length_map _).symm))))
        (decide_eq_false (Nat.not_lt.mpr (hranke.trans_eq (List.length_map _).symm)))),
      if_false_check _ _ (or_eq_false (or_eq_false (or_eq_false (or_eq_false
          (not_eq_false haligned) (decide_ne_eq_false hda)) (decide_ne_eq_false hdst)) (decide_ne_eq_false hoa)) (decide_ne_eq_false hea))]
    have hallowed := ite_none_eq_none hext
    rw [hallowed]
    exact (if_neg (Nat.not_lt.mpr hend)).trans (counterChecked_ok _ _ hctr)
  · subst hs1 hs2
    unfold asyncCopyComplete
    rw [hc]
    obtain ⟨id', slot, uid, job, item, ctr, toLocal, toGlobal, landed⟩ := c
    rcases toLocal with _ | ⟨d, bs, pz⟩
    · rfl
    · rcases toGlobal with _ | ⟨d', bs', pz'⟩
      · dsimp only
        rw [if_decide]
      · dsimp only
        rw [if_decide]
  · unfold asyncCopyComplete
    rw [h]

end Sys2Proof.Machine
end

section
/-! PROOFS. Vector instructions. -/

namespace Sys2Proof.Machine

/-! ### Lanes and masks -/

theorem mem_lanesOf {m : BitVec 32} {l : Nat} : l ∈ lanesOf m ↔ m.getLsbD l = true := by
  simp only [lanesOf, List.mem_filter, List.mem_range, and_iff_right_iff_imp]
  exact BitVec.lt_of_getLsbD

theorem lanesOf_lt {m : BitVec 32} {l : Nat} (h : l ∈ lanesOf m) : l < 32 := BitVec.lt_of_getLsbD (mem_lanesOf.mp h)

/-! ### Quotient and remainder (R111) -/

/-- Quotient times divisor plus remainder is the dividend, signed or not. -/
theorem divResult_remainder {x y : W32} (h : y ≠ 0#32) (signed : Bool) : divResult false signed x y * y + divResult true signed x y = x := by
  unfold divResult
  simp only [if_neg h, Bool.false_eq_true, if_false, if_true]
  cases signed with
  | true =>
    have hy : BitVec.ofInt 32 y.toInt = y := BitVec.ofInt_toInt
    calc BitVec.ofInt 32 (x.toInt.tdiv y.toInt) * y + BitVec.ofInt 32 (x.toInt.tmod y.toInt)
        = BitVec.ofInt 32 (x.toInt.tdiv y.toInt) * BitVec.ofInt 32 y.toInt + BitVec.ofInt 32 (x.toInt.tmod y.toInt) := by rw [hy]
      _ = BitVec.ofInt 32 (x.toInt.tdiv y.toInt * y.toInt + x.toInt.tmod y.toInt) := by rw [BitVec.ofInt_add, BitVec.ofInt_mul]
      _ = x := by rw [Int.tdiv_mul_add_tmod, BitVec.ofInt_toInt]
  | false =>
    have hy : BitVec.ofNat 32 y.toNat = y := by simp
    calc BitVec.ofNat 32 (x.toNat / y.toNat) * y + BitVec.ofNat 32 (x.toNat % y.toNat)
        = BitVec.ofNat 32 (x.toNat / y.toNat) * BitVec.ofNat 32 y.toNat + BitVec.ofNat 32 (x.toNat % y.toNat) := by rw [hy]
      _ = BitVec.ofNat 32 (x.toNat / y.toNat * y.toNat + x.toNat % y.toNat) := by rw [BitVec.ofNat_add, BitVec.ofNat_mul]
      _ = x := by rw [Nat.div_add_mod', BitVec.ofNat_toNat, BitVec.setWidth_eq]

/-! ### What a write of registers leaves -/

/-- A register written in lanes reads back there; every other register stays. -/
theorem regVal_setLanes (f : Nat → W32) {d : Nat} (hd : d < 256) (ls : List Nat) (y : Gang) {l r : Nat} (hr : r < 256) :
    regVal (ls.foldl (fun x k => setReg k d (f k) false x) y) l r = if l ∈ ls ∧ r = d then f l else regVal y l r := by
  induction ls generalizing y with
  | nil => simp
  | cons k ks ih =>
    rw [List.foldl_cons, ih, regVal_setReg _ _ _ _ _ _ _ hd hr]
    by_cases hmem : l ∈ ks ∧ r = d
    · simp [hmem]
    · by_cases hk : l = k ∧ r = d
      · obtain ⟨rfl, rfl⟩ := hk
        simp
      · rw [if_neg hmem, if_neg hk, if_neg]
        rintro ⟨hl, hrd⟩
        rcases List.mem_cons.mp hl with h | h
        · exact hk ⟨h, hrd⟩
        · exact hmem ⟨h, hrd⟩

theorem setLanes_frame (f : Nat → W32) (d : Nat) (ls : List Nat) (y : Gang) :
    (ls.foldl (fun x k => setReg k d (f k) false x) y).uregs = y.uregs ∧ (ls.foldl (fun x k => setReg k d (f k) false x) y).preds = y.preds :=
  ⟨foldl_invariant (fun x k => setReg k d (f k) false x) Gang.uregs (fun _ _ => rfl) ls y,
    foldl_invariant (fun x k => setReg k d (f k) false x) Gang.preds (fun _ _ => rfl) ls y⟩

/-- The gang after `advance`: its fragment moved on, its registers as they were. -/
theorem gang_advance {s : State} {g : FragRef} {y : Gang} (h : tabGet (coreAt s g.core).gangs (gangKey g) = some y) :
    ∃ y', tabGet (coreAt (advance g s) g.core).gangs (gangKey g) = some y' ∧ y'.regs = y.regs ∧ y'.uregs = y.uregs ∧ y'.preds = y.preds := by
  obtain ⟨hregs, huregs, hpreds, -⟩ := settleGang_frame { y with frags := tabMod y.frags g.frag (fun f => { f with pc := f.pc + 16, wait := .ready }) }
  refine ⟨_, ?_, hregs, huregs, hpreds⟩
  unfold advance onFrag
  rw [gang_onGang, if_pos rfl, gang_onGang, if_pos rfl, h]
  rfl

theorem gang_writeLanes {a : Act} {d : Nat} {s : State} (f : Nat → W32) {y : Gang}
    (h : tabGet (coreAt s a.g.core).gangs (gangKey a.g) = some y) (hd : d < 256) :
    ∃ y', tabGet (coreAt (writeLanes a d ((lanesOf a.frag.mask).map (fun l => (l, f l, false))) s) a.g.core).gangs (gangKey a.g) = some y'
      ∧ (∀ l, a.frag.mask.getLsbD l = true → regVal y' l d = f l)
      ∧ (∀ l r, l < 32 → r < 256 → r ≠ d ∨ a.frag.mask.getLsbD l = false → regVal y' l r = regVal y l r) ∧ y'.uregs = y.uregs ∧ y'.preds = y.preds := by
  have hset : tabGet (coreAt (onGang a.g (fun g => ((lanesOf a.frag.mask).map (fun l => (l, f l, false))).foldl
      (fun x v => setReg v.1 d v.2.1 v.2.2 x) g) s) a.g.core).gangs (gangKey a.g)
      = some ((lanesOf a.frag.mask).foldl (fun x k => setReg k d (f k) false x) y) := by
    rw [gang_onGang, if_pos rfl, h, Option.map_some, List.foldl_map]
  obtain ⟨y', hy', hregs, huregs, hpreds⟩ := gang_advance hset
  have hframe := setLanes_frame f d (lanesOf a.frag.mask) y
  have hval (l r : Nat) (hr : r < 256) : regVal y' l r = if l ∈ lanesOf a.frag.mask ∧ r = d then f l else regVal y l r := by
    rw [← regVal_setLanes f hd (lanesOf a.frag.mask) y hr]
    unfold regVal
    rw [hregs]
  refine ⟨y', hy', fun l hl => ?_, fun l r _ hr hother => ?_, huregs.trans hframe.1, hpreds.trans hframe.2⟩
  · rw [hval l d hd, if_pos ⟨mem_lanesOf.mpr hl, rfl⟩]
  · rw [hval l r hr, if_neg]
    rintro ⟨hl, hrd⟩
    rcases hother with h | h
    · exact h hrd
    · rw [mem_lanesOf.mp hl] at h
      cases h

/-! ### Instructions with a register result -/

theorem laneOp_clean {s s1 : State} {g : FragRef} {d : Nat} {ss : List Src} {a : Act} (f : Act → Nat → W32)
    (hi : Issues s g (d :: srcRegs ss) (srcUregs ss) [] a s1) (hclean : Clean a ss) :
    laneOp g d ss f s = writeLanes a d ((lanesOf a.frag.mask).map (fun l => (l, f a l, false))) s1 := by
  unfold laneOp
  rw [issue_eq hi, consume_clean hclean]

/-- The mask of a list of lanes that is not empty is not zero. -/
theorem maskOf_ne_zero {ls : List Nat} {l : Nat} (hl : l ∈ ls) (hlt : l < 32) : maskOf ls ≠ 0#32 := by
  have hbit (xs : List Nat) (m : Nat) (h : l ∈ xs ∨ m.testBit l = true) : (xs.foldl (fun m l => m ||| 2 ^ l) m).testBit l = true := by
    induction xs generalizing m with
    | nil => simpa using h
    | cons x xs ih =>
      refine ih _ ?_
      rcases h with h | h
      · rcases List.mem_cons.mp h with rfl | h
        · exact .inr (by simp [Nat.testBit_or, Nat.testBit_two_pow_self])
        · exact .inl h
      · exact .inr (by simp [Nat.testBit_or, h])
  intro hzero
  have hget : (maskOf ls).getLsbD l = true := by
    rw [maskOf, BitVec.getLsbD_ofNat, hbit ls 0 (.inl hl)]
    simp [hlt]
  rw [hzero] at hget
  simp at hget

/-- A poisoned source of an active lane faults some lane (R108). -/
theorem consume_poisoned {a : Act} {ss : List Src} (h : ¬Clean a ss) (k s : State) :
    ∃ m, m ≠ 0#32 ∧ consume a ss k s = coreFault a evPoisonConsumed m 0 s := by
  refine ⟨_, ?_, consume_dirty h k s⟩
  obtain ⟨l, hl, hbad⟩ : ∃ l ∈ lanesOf a.frag.mask, ss.any (srcPoison a.gang l) = true := by
    by_contra hnone
    push Not at hnone
    exact h fun l hl x hx => Bool.eq_false_iff.mpr fun hp => hnone l hl (List.any_eq_true.mpr ⟨x, hx, hp⟩)
  exact maskOf_ne_zero (List.mem_filter.mpr ⟨hl, hbad⟩) (lanesOf_lt hl)

theorem laneElems_pos (f g : Fmt) : laneElems f g ≠ 0 := by
  unfold laneElems
  split
  · simp
  · split <;> simp
  · simp

/-- A conversion of one element of a lane to another (R120 to R123). -/
theorem cvtResults_scalar (s : State) (a : Act) (e f : Elem) (rnd : Rnd) (sat : Bool) (x : Src) :
    cvtResults s a (.scalar e) (.scalar f) rnd sat x = (lanesOf a.frag.mask).map (fun l =>
      let c := elemCode f (rndAt rnd (seedOf s a l) (tabGetD a.gang.draws l 0)) sat
        ((Config.nanBits 9 (srcVal a.gang l x) 0#32 0#32).toNat % 2 ^ elemBits f) (elemValue e (srcVal a.gang l x).toNat)
      (l, BitVec.ofNat 32 c.1, c.2)) := by
  simp [cvtResults, laneElems, cvtValues]

/-- Settles O51: an instruction that issues writes its lanes; the registers by what a write of lanes leaves. -/
theorem vectorInstructionsComplete : Obligations.VectorInstructionsComplete := by
  unfold Obligations.VectorInstructionsComplete
  refine ⟨fun s g op d x y z a s1 ss hss hpred hi hclean => congrArg Host.Outcome.next ?_,
    fun s g c sg d x y z a s1 hi hclean => congrArg Host.Outcome.next ?_,
    fun s g op d x y z a s1 ss hss hpred hi hpoison => ?_,
    fun s g rem sg d x y a s1 hi hclean => congrArg Host.Outcome.next (laneOp_clean _ hi hclean),
    fun x y => ⟨rfl, rfl, fun b => rfl, fun hy b => divResult_remainder hy b⟩,
    fun s g op d x y z a s1 ss hop hss hi hclean => congrArg Host.Outcome.next ?_,
    fun s g c d x y z a s1 hi hclean => congrArg Host.Outcome.next ?_,
    fun s g op bf d x y z a s1 ss hss hi hclean => congrArg Host.Outcome.next ?_,
    fun s g op d x a s1 hi hclean => congrArg Host.Outcome.next (laneOp_clean _ hi hclean),
    fun s g src dst rnd sat d x a s1 hi => ⟨fun hclean hok rs hrs => congrArg Host.Outcome.next ?_, fun hbad => congrArg Host.Outcome.next ?_⟩,
    cvtResults_scalar,
    fun s g d x a s1 hi => ⟨congrArg Host.Outcome.next (issue_eq hi _), congrArg Host.Outcome.next (issue_eq hi _)⟩,
    fun s g d p x y a s1 hi => congrArg Host.Outcome.next ((issue_eq hi _).trans ?_),
    fun s g d p a s1 hi => congrArg Host.Outcome.next ((issue_eq hi _).trans ?_),
    fun s g d r x a s1 hi hclean => congrArg Host.Outcome.next ((issue_eq hi _).trans (consume_clean hclean _ _)),
    fun s g d w a s1 hi => congrArg Host.Outcome.next (issue_eq hi _),
    fun a d s f y hy hd => gang_writeLanes f hy hd⟩
  · subst hss
    unfold vectorIntegerOp
    simp only [hpred, Bool.false_eq_true, if_false]
    rw [issue_eq hi, consume_clean hclean]
  · unfold vectorIntegerOp
    simp only [intSources, intToPred, if_true, List.append_nil]
    rw [issue_eq hi, consume_clean hclean]
    congr 1
    refine List.map_congr_left fun l _ => ?_
    unfold intResult
    split <;> simp_all
  · subst hss
    obtain ⟨m, hm, hfault⟩ := consume_poisoned hpoison
      (writeLanes a d ((lanesOf a.frag.mask).map (fun l =>
        (l, intResult op (srcVal a.gang l x) (srcVal a.gang l y) (srcVal a.gang l z), false))) s1) s1
    refine ⟨m, hm, congrArg Host.Outcome.next ?_⟩
    unfold vectorIntegerOp
    simp only [hpred, Bool.false_eq_true, if_false]
    rw [issue_eq hi, hfault]
  · subst hss
    unfold fp32Op
    dsimp only
    split
    · next c => exact absurd rfl (hop c)
    · exact laneOp_clean _ hi hclean
  · unfold fp32Op
    dsimp only
    exact (issue_eq hi _).trans (consume_clean hclean _ _)
  · subst hss
    exact laneOp_clean _ hi hclean
  · subst hrs
    unfold cvt
    rw [issue_eq hi]
    dsimp only
    rw [if_neg (by simp [hok]), consume_clean hclean]
    congr 2
    funext y
    congr 1
    cases hr : decide (rnd = .sr) <;> simp_all [laneElems_pos]
  · unfold cvt
    rw [issue_eq hi]
    exact if_pos (by simp [hbad])
  · congr 1
    refine List.map_congr_left fun l _ => ?_
    dsimp only
    split <;> rfl
  · dsimp only
    rw [List.countP_eq_length_filter]

end Sys2Proof.Machine
end

section
/-! PROOFS. Control instructions, barriers, counters and locks. -/

namespace Sys2Proof.Machine

/-! ### Branches, returns and fences -/

/-- Lanes that all return to one address stay together (R87). -/
theorem returnGroups_one {f : Frag} {r : Nat} (hne : lanesOf f.mask ≠ []) (h : ∀ l ∈ lanesOf f.mask, (tabGetD f.calls l []).head? = some r) :
    returnGroups f = [(some r, lanesOf f.mask)] := by
  have hgroup (ls pre : List Nat) (hls : ∀ l ∈ ls, (tabGetD f.calls l []).head? = some r) :
      ls.foldl (fun (gs : List (Option Nat × List Nat)) l =>
        let r := (tabGetD f.calls l []).head?
        if gs.any (fun e => decide (e.1 = r)) then gs.map (fun e => if e.1 = r then (e.1, e.2 ++ [l]) else e) else gs ++ [(r, [l])])
        [(some r, pre)] = [(some r, pre ++ ls)] := by
    induction ls generalizing pre with
    | nil => simp
    | cons l ls ih =>
      rw [List.foldl_cons]
      simp only [hls l (by simp)]
      simpa using ih (pre ++ [l]) fun k hk => hls k (by simp [hk])
  unfold returnGroups
  cases hlanes : lanesOf f.mask with
  | nil => exact absurd hlanes hne
  | cons l ls =>
    rw [hlanes] at h
    rw [List.foldl_cons]
    simp only [h l (by simp)]
    exact hgroup ls [l] fun k hk => h k (by simp [hk])

theorem gangFree_iff {s : State} {core n : Nat} {y : Gang} {ids : List Nat} (h : y.fenceWait = some (n, ids)) (hn : n ≠ 4) :
    gangFree s core y = false ↔ storesWait s n (towerOfCore core) ids = true := by
  simp [gangFree, h, fenceDone, hn]

/-! ### Locks -/

theorem lockHeldUp_ok {s : State} {a : Act} {sp : LockSpace} {addr : GAddr} {las : List (Nat × Nat)}
    (h : (sp = .crewLocal ∧ LocalOk a 8 (lockAddr a sp addr)) ∨ (sp = .global ∧ GlobalOk s a 2 8 (lockAddr a sp addr) ∧ lockHeldUp s sp las = false)) :
    lockHeldUp s sp las = false := by
  rcases h with ⟨rfl, -⟩ | ⟨-, -, h⟩
  · rfl
  · exact h

theorem lockChecked_ok {s : State} {a : Act} {sp : LockSpace} {addr : GAddr} {p : Prop} (k : State)
    (h : (sp = .crewLocal ∧ LocalOk a 8 (lockAddr a sp addr)) ∨ (sp = .global ∧ GlobalOk s a 2 8 (lockAddr a sp addr) ∧ p)) :
    lockChecked a sp (lockAddr a sp addr) k s = k := by
  rcases h with ⟨rfl, h⟩ | ⟨rfl, h, -⟩
  · exact localChecked_ok h k s
  · exact globalChecked_ok h k

/-- One lane's compare-and-swap of a lock word of its crew's memory (R104). -/
theorem lockAttempt_local {s : State} {g : FragRef} {c : Crew} (job l x : Nat) (hc : tabGet (coreAt s g.core).crews g.slot = some c)
    (hclean : lmemPoison c x 8 = false) :
    (lockAttempt g job .crewLocal [(l, x)] s).2 = (if leNat (lmemRead c x 8) = 0 then ⟨[l], [], []⟩ else ⟨[], [l], []⟩) := by
  have hread : lockRead g job .crewLocal x s = (s, leNat (lmemRead c x 8), false) := by
    unfold lockRead
    rw [hc]
    dsimp only
    rw [hclean]
  unfold lockAttempt lockLanes
  simp only [List.foldl_cons, List.foldl_nil, hread, Bool.false_eq_true, if_false]
  split <;> rfl

/-- LOCK.ACQ and LOCK.TRY once their address is in order: one attempt, and a fault of the lanes that found a poisoned word (R104, R105, R108). -/
theorem lockAcq_attempt {s s1 st : State} {g : FragRef} {sp : LockSpace} {p : Nat} {addr : GAddr} {a : Act} {las : List (Nat × Nat)} {r : LockRes}
    (hi : Issues s g (srcRegs (lockSrcs sp addr)) (srcUregs (lockSrcs sp addr)) [p] a s1) (hclean : Clean a (lockSrcs sp addr))
    (hlas : las = (lanesOf a.frag.mask).map (fun l => (l, lockAddr a sp addr l)))
    (hok : (sp = .crewLocal ∧ LocalOk a 8 (lockAddr a sp addr)) ∨ (sp = .global ∧ GlobalOk s1 a 2 8 (lockAddr a sp addr) ∧ lockHeldUp s1 sp las = false))
    (hrun : lockAttempt g a.crew.job sp las s1 = (st, r)) :
    lockAcq g sp p addr s = lockPoison a r (lockSplit g a.frag sp p las r.won st) st
      ∧ lockTry g sp p addr s = lockPoison a r (writePreds a p ((lanesOf a.frag.mask).map (fun l => (l, r.won.contains l))) st) st := by
  subst hlas
  constructor
  · unfold lockAcq
    dsimp only
    rw [issue_eq hi]
    refine (if_neg (by simp [lockHeldUp_ok hok])).trans ((consume_clean hclean _ _).trans ((lockChecked_ok _ hok).trans ?_))
    rw [hrun]
  · unfold lockTry
    dsimp only
    rw [issue_eq hi]
    refine (if_neg (by simp [lockHeldUp_ok hok])).trans ((consume_clean hclean _ _).trans ((lockChecked_ok _ hok).trans ?_))
    rw [hrun]

theorem lockRel_held {s s1 st : State} {g : FragRef} {sp : LockSpace} {addr : GAddr} {a : Act} {las : List (Nat × Nat)} {r : LockRes}
    (hi : Issues s g (srcRegs (lockSrcs sp addr)) (srcUregs (lockSrcs sp addr)) [] a s1) (hclean : Clean a (lockSrcs sp addr))
    (hlas : las = (lanesOf a.frag.mask).map (fun l => (l, lockAddr a sp addr l)))
    (hok : (sp = .crewLocal ∧ LocalOk a 8 (lockAddr a sp addr)) ∨ (sp = .global ∧ GlobalOk s1 a 2 8 (lockAddr a sp addr) ∧ lockHeldUp s1 sp las = false))
    (hstores : storesWait s1 (if sp = .global then 2 else 0) (towerOfCore g.core) a.gang.stores = false)
    (hrun : lockLanes g a.crew.job sp (lockTag g) (fun _ => 0) las s1 = (st, r)) (hpoison : r.poisoned = []) :
    lockRel g sp addr s = if r.lost ≠ [] then coreFault a evIllegalInstr (maskOf r.lost) 7 (onGang g wakeLocks st)
      else advance g (onGang g wakeLocks st) := by
  subst hlas
  unfold lockRel
  dsimp only
  rw [issue_eq hi]
  refine (if_neg (by simp [lockHeldUp_ok hok, hstores])).trans ((consume_clean hclean _ _).trans ((lockChecked_ok _ hok).trans ?_))
  rw [hrun]
  exact if_pos hpoison

/-- A barrier's arrivals, once the instruction issues on an initialised barrier (R100, R101). -/
theorem barArrival_issues {s s1 : State} {g : FragRef} {b : Src} {a : Act} {bar bar1 : Bar} {k : Nat} {ls again first : List Nat} (wait : Bool)
    (hi : Issues s g (srcRegs [b]) (srcUregs [b]) [] a s1) (hk : k = barIndex a b) (hbar : tabGet a.crew.bars k = some bar)
    (hlt : k < a.crew.kernel.barriers) (hls : ls = lanesOf a.frag.mask)
    (hfirst : first = ls.filter (fun l => !bar.arrived.contains (g.gang * 32 + l)))
    (hagain : again = ls.filter (fun l => bar.arrived.contains (g.gang * 32 + l)))
    (hbar1 : bar1 = { bar with
        arrived := bar.arrived ++ first.map (fun l => g.gang * 32 + l)
        lastPhase := first.foldl (fun m l => tabPut m (g.gang * 32 + l) bar.phase) bar.lastPhase
        stores := bar.stores.filter (fun e => isWaiting s1 e.2)
          ++ (a.gang.stores.filter (isWaiting s1)).map (fun i => (if first = [] then bar.phase + 1 else bar.phase, i)) }) :
    barArrival wait g b s = if again ≠ [] then setBar g k bar1 (waitFor g (.rearrive k again wait) s1)
      else if wait then setBar g k bar1 (waitFor g (.barrier k (ls.map (fun l => (l, bar.phase)))) s1)
      else advance g (setBar g k bar1 s1) := by
  subst hk hls hfirst hagain hbar1
  unfold barArrival
  rw [issue_eq hi]
  dsimp only
  rw [hbar]
  exact if_neg (by omega)

/-- BAR.WAIT on an initialised barrier: whether the phases the lanes arrived in have completed decides (R100). -/
theorem barWait_issues {s s1 : State} {g : FragRef} {b : Src} {a : Act} {bar : Bar} {k : Nat} {ps : List (Nat × Nat)}
    (hi : Issues s g (srcRegs [b]) (srcUregs [b]) [] a s1) (hk : k = barIndex a b) (hbar : tabGet a.crew.bars k = some bar)
    (hlt : k < a.crew.kernel.barriers)
    (hps : ps = (lanesOf a.frag.mask).filterMap (fun l => (tabGet bar.lastPhase (g.gang * 32 + l)).map (fun p => (l, p)))) :
    barWait g b s = if ps.all (fun p => decide (p.2 < bar.phase)) then
        if (releasedBy bar ((ps.map (·.2 + 1)).foldl max 0)).filter (isWaiting s1) = [] then advance g s1
        else advanceWait g (.fence 0 ((releasedBy bar ((ps.map (·.2 + 1)).foldl max 0)).filter (isWaiting s1))) s1
      else setBar g k bar (waitFor g (.barrier k ps) s1) := by
  unfold barWait
  rw [issue_eq hi]
  dsimp only
  rw [← hk, if_neg (by omega), hbar]
  dsimp only
  rw [← hps]
  congr 1
  cases (releasedBy bar ((ps.map (·.2 + 1)).foldl max 0)).filter (isWaiting s1) <;> rfl

theorem barWait_passed {s s1 : State} {g : FragRef} {b : Src} {a : Act} {bar : Bar} {k : Nat} {ps : List (Nat × Nat)}
    (hi : Issues s g (srcRegs [b]) (srcUregs [b]) [] a s1) (hk : k = barIndex a b) (hbar : tabGet a.crew.bars k = some bar)
    (hlt : k < a.crew.kernel.barriers)
    (hps : ps = (lanesOf a.frag.mask).filterMap (fun l => (tabGet bar.lastPhase (g.gang * 32 + l)).map (fun p => (l, p))))
    (hdone : ∀ p ∈ ps, p.2 < bar.phase) :
    barWait g b s = if (releasedBy bar ((ps.map (·.2 + 1)).foldl max 0)).filter (isWaiting s1) = [] then advance g s1
      else advanceWait g (.fence 0 ((releasedBy bar ((ps.map (·.2 + 1)).foldl max 0)).filter (isWaiting s1))) s1 :=
  (barWait_issues hi hk hbar hlt hps).trans (if_pos (List.all_eq_true.mpr fun p hp => decide_eq_true (hdone p hp)))

/-- Settles O54: an instruction that issues runs its body, by the branch that its lanes, barriers or lock words choose. -/
theorem controlInstructionsComplete : Obligations.ControlInstructionsComplete := by
  unfold Obligations.ControlInstructionsComplete
  refine ⟨fun s g p neg target rc a s1 hi => ⟨fun hall => congrArg Host.Outcome.next ((issue_eq hi _).trans (if_pos ?_)),
      fun hne hall => congrArg Host.Outcome.next ((issue_eq hi _).trans ((if_neg ?_).trans (if_pos ?_))),
      fun taken fall htaken hfall ht hf => congrArg Host.Outcome.next ?_⟩,
    fun s g a s1 hi hsplits => congrArg Host.Outcome.next ((issue_eq hi _).trans ?_),
    fun s g a s1 sp hi hsp => congrArg Host.Outcome.next ((issue_eq hi _).trans ?_),
    fun s g a s1 target hi => ⟨congrArg Host.Outcome.next (issue_eq hi _), congrArg Host.Outcome.next (issue_eq hi _),
      congrArg Host.Outcome.next (issue_eq hi _)⟩,
    fun s g a s1 back hi hback => ⟨fun e rest st1 hgroups hst1 => congrArg Host.Outcome.next ((issue_eq hi _).trans ?_),
      fun hne r hall => returnGroups_one hne hall⟩,
    fun s g a s1 ids hi hids => congrArg Host.Outcome.next ((issue_eq hi _).trans ?_),
    fun s g a s1 n k hk hi hmx => ?_,
    fun s core y n ids h hn => gangFree_iff h hn,
    fun s g b n a s1 k m old hi hk hm hlt hlo hhi hold hidle => congrArg Host.Outcome.next ?_,
    fun s g b a s1 bar k ls again first bar1 hi hk hbar hlt hls hfirst hagain hbar1 => ?_,
    fun s g b a s1 bar k ps hi hk hbar hlt hps => ⟨fun hdone hvisible => congrArg Host.Outcome.next ?_,
      fun ids hdone hids hne => congrArg Host.Outcome.next ?_, fun hopen => congrArg Host.Outcome.next ?_⟩,
    fun s g c v a s1 hi hctr => ⟨congrArg Host.Outcome.next ((issueUniform_eq hi _).trans (counterChecked_ok _ _ hctr)),
      congrArg Host.Outcome.next ((issueUniform_eq hi _).trans (counterChecked_ok _ _ hctr)),
      fun hreached => congrArg Host.Outcome.next ((issueUniform_eq hi _).trans ((counterChecked_ok _ _ hctr).trans (if_pos hreached))),
      fun hreached => congrArg Host.Outcome.next ((issueUniform_eq hi _).trans ((counterChecked_ok _ _ hctr).trans (if_neg (by simp [hreached]))))⟩,
    fun s g sp p addr a s1 las st r hi hclean hlas hok hrun => ?_,
    fun s g job l x c hc hclean => lockAttempt_local job l x hc hclean,
    fun s g a sp p las since st r hact hwait hheld hfree hrun => ?_,
    fun s g sp addr a s1 las st r hi hclean hlas hok hstores hrun hpoison => ?_⟩
  · exact List.filter_eq_nil_iff.mpr fun l hl => by simp [hall l hl]
  · obtain ⟨l, hl⟩ := List.exists_mem_of_ne_nil _ hne
    exact List.ne_nil_of_mem (List.mem_filter.mpr ⟨hl, by simpa using hall l hl⟩)
  · exact List.filter_eq_nil_iff.mpr fun l hl => by simp [hall l hl]
  · subst htaken hfall
    exact (issue_eq hi _).trans ((if_neg ht).trans (if_neg hf))
  · rw [hsplits]
    rfl
  · rw [hsp]
  · subst hback hst1
    rw [hgroups]
  · rw [hids]
  · simp only [List.mem_cons, Prod.mk.injEq, List.not_mem_nil, or_false] at hk
    rcases hk with ⟨rfl, rfl⟩ | ⟨rfl, rfl⟩ | ⟨rfl, rfl⟩ | ⟨rfl, rfl⟩ <;>
      exact congrArg Host.Outcome.next ((issue_eq hi _).trans (if_neg (by simp [hmx])))
  · subst hk hm hold
    refine (issueUniform_eq hi _).trans (if_neg ?_)
    cases hbar : tabGet a.crew.bars (uniVal a b) with
    | none => simp; omega
    | some x => simp [hidle x hbar]; omega
  · have harrive (wait : Bool) := barArrival_issues wait hi hk hbar hlt hls hfirst hagain hbar1
    exact ⟨fun h => ⟨congrArg Host.Outcome.next ((harrive false).trans (if_neg (not_not.mpr h))),
        congrArg Host.Outcome.next ((harrive true).trans (if_neg (not_not.mpr h)))⟩,
      fun h => ⟨congrArg Host.Outcome.next ((harrive false).trans (if_pos h)), congrArg Host.Outcome.next ((harrive true).trans (if_pos h))⟩⟩
  · refine (barWait_passed hi hk hbar hlt hps hdone).trans ?_
    rw [show (releasedBy bar ((ps.map (·.2 + 1)).foldl max 0)).filter (isWaiting s1) = [] from List.filter_eq_nil_iff.mpr fun i hmem => ?_]
    · rfl
    · obtain ⟨e, he, rfl⟩ := List.mem_map.mp hmem
      simp [hvisible e (List.mem_filter.mp he).1]
  · refine (barWait_passed hi hk hbar hlt hps hdone).trans ?_
    rw [← hids]
    exact if_neg hne
  · refine (barWait_issues hi hk hbar hlt hps).trans (if_neg ?_)
    obtain ⟨p, hp, hle⟩ := hopen
    simp only [List.all_eq_true, decide_eq_true_eq, not_forall]
    exact ⟨p, hp, Nat.not_lt.mpr hle⟩
  · obtain ⟨hacq, htry⟩ := lockAcq_attempt hi hclean hlas hok hrun
    exact ⟨fun h => ⟨congrArg Host.Outcome.next (hacq.trans (if_pos h)), congrArg Host.Outcome.next (htry.trans (if_pos h))⟩,
      fun h => ⟨congrArg Host.Outcome.next (hacq.trans (if_neg h)), congrArg Host.Outcome.next (htry.trans (if_neg h))⟩⟩
  · have hretry : lockRetryTimeout g s = lockPoison a r (lockSplit g a.frag sp p las r.won st) st := by
      unfold lockRetryTimeout
      rw [hact]
      dsimp only
      rw [hwait]
      refine (if_neg (by simp [hheld, hfree])).trans ?_
      rw [hrun]
    exact ⟨fun h => congrArg Host.Outcome.next (hretry.trans (if_pos h)), fun h => congrArg Host.Outcome.next (hretry.trans (if_neg h))⟩
  · have hrel := lockRel_held hi hclean hlas hok hstores hrun hpoison
    exact ⟨fun h => congrArg Host.Outcome.next (hrel.trans (if_neg (not_not.mpr h))), fun h => congrArg Host.Outcome.next (hrel.trans (if_pos h))⟩

end Sys2Proof.Machine
end

section
/-! PROOFS. The sequencer, and the pieces of a copy. -/

namespace Sys2Proof.Machine

/-! ### Transfers of a sequencer program -/

/-- What comes back for a transfer: the bytes a GET asks for. -/
def replyOf : Xfer → Option (Nat × Nat)
  | .get la _ bytes => some (la, bytes)
  | _ => none

/-- A program that may queue a transfer: the transfer goes to its peer's context and is outstanding (R318). -/
theorem seqQueue_queued {s s1 : State} {job item op i n : Nat} {mk : SeqInstr → Nat → Option Mesh → Xfer} {p : Prog} {x : SeqInstr} {m : Option Mesh}
    {c : Ctx} (hready : seqReady s job item op = some (p, x, i, m)) (hroom : p.outstanding.length < 64)
    (hn : jobCtx s job (peerIndex m x i) = some n) (hc : tabGet s.fab.ctxs n = some c)
    (hs1 : s1 = onProg job item (fun q => { q with pc := q.pc + 1 }) s) :
    seqQueue job item op mk s = onProg job item (fun q => { q with
        outstanding := q.outstanding ++ [(n, psnAdd (psnAfterQueue s c) (xferPackets (payloadSize s.fab.cfg) (mk x i m)), replyOf (mk x i m))] })
      (onCtx n (fun y => { y with queue := y.queue ++ [mk x i m], replies := y.replies ++ (replyOf (mk x i m)).toList }) s1) := by
  subst hs1
  unfold seqQueue
  rw [hready]
  dsimp only
  rw [if_neg (Nat.not_le.mpr hroom), hn]
  dsimp only
  rw [hc]
  dsimp only
  cases mk x i m <;> rfl

/-- A transfer for which nothing comes back. -/
theorem seqQueue_oneWay {s s1 : State} {job item op i n : Nat} {mk : SeqInstr → Nat → Option Mesh → Xfer} {p : Prog} {x : SeqInstr} {m : Option Mesh}
    {c : Ctx} {xf : Xfer} (hready : seqReady s job item op = some (p, x, i, m)) (hroom : p.outstanding.length < 64)
    (hn : jobCtx s job (peerIndex m x i) = some n) (hc : tabGet s.fab.ctxs n = some c)
    (hs1 : s1 = onProg job item (fun q => { q with pc := q.pc + 1 }) s) (hxf : xf = mk x i m) (hreply : replyOf xf = none) :
    seqQueue job item op mk s = onProg job item (fun q => { q with
        outstanding := q.outstanding ++ [(n, psnAdd (psnAfterQueue s c) (xferPackets (payloadSize s.fab.cfg) xf), none)] })
      (onCtx n (fun y => { y with queue := y.queue ++ [xf] }) s1) := by
  subst hxf
  rw [seqQueue_queued hready hroom hn hc hs1, hreply]
  simp only [Option.toList_none, List.append_nil]

theorem seqQueue_idle {s : State} {job item op : Nat} {mk : SeqInstr → Nat → Option Mesh → Xfer} (h : seqReady s job item op = none) :
    seqQueue job item op mk s = s := by
  unfold seqQueue
  rw [h]

theorem seqQueue_full {s : State} {job item op i : Nat} {mk : SeqInstr → Nat → Option Mesh → Xfer} {p : Prog} {x : SeqInstr} {m : Option Mesh}
    (hready : seqReady s job item op = some (p, x, i, m)) (hfull : 64 ≤ p.outstanding.length) : seqQueue job item op mk s = s := by
  unfold seqQueue
  rw [hready]
  exact if_pos hfull

/-- A transfer whose peer has no context is passed over. -/
theorem seqQueue_noPeer {s : State} {job item op i : Nat} {mk : SeqInstr → Nat → Option Mesh → Xfer} {p : Prog} {x : SeqInstr} {m : Option Mesh}
    (hready : seqReady s job item op = some (p, x, i, m)) (hroom : p.outstanding.length < 64)
    (hnone : ∀ n, jobCtx s job (peerIndex m x i) = some n → tabGet s.fab.ctxs n = none) :
    seqQueue job item op mk s = onProg job item (fun q => { q with pc := q.pc + 1 }) s := by
  unfold seqQueue
  rw [hready]
  dsimp only
  rw [if_neg (Nat.not_le.mpr hroom)]
  cases hn : jobCtx s job (peerIndex m x i) with
  | none => rfl
  | some n =>
    dsimp only
    rw [hnone n hn]

/-- The four instructions that queue a transfer run `seqQueue` with their transfer. -/
theorem exec_transfer {s : State} {job item op : Nat} {k : Instr}
    (h : (op, k) ∈ [(1, Instr.seqPut job item), (2, .seqGet job item), (3, .seqPutRed job item), (4, .seqSignal job item)]) :
    ∃ mk, exec k s = .next (seqQueue job item op mk s) := by
  simp only [List.mem_cons, Prod.mk.injEq, List.not_mem_nil, or_false] at h
  rcases h with ⟨rfl, rfl⟩ | ⟨rfl, rfl⟩ | ⟨rfl, rfl⟩ | ⟨rfl, rfl⟩ <;> exact ⟨_, rfl⟩

/-! ### Entries of an index -/

theorem indexBytes_cases (d : CopyDesc) : indexBytes d = 8 ∨ indexBytes d = 4 := by
  unfold indexBytes
  split
  · exact .inl rfl
  · exact .inr rfl

/-- An index below half the range is neither negative nor the null index. -/
theorem index_low {d : CopyDesc} {v : Nat} (h : v < 256 ^ indexBytes d / 2) : indexNeg d v = false ∧ v ≠ 256 ^ indexBytes d - 1 := by
  refine ⟨decide_eq_false (Nat.not_le.mpr h), ?_⟩
  rcases indexBytes_cases d with hn | hn <;> rw [hn] at h ⊢ <;> simp only [Nat.reducePow] at h ⊢ <;> omega

/-- Settles O50: instruction by instruction, a piece by its operation. -/
theorem sequencerComplete : Obligations.SequencerComplete := by
  unfold Obligations.SequencerComplete
  refine ⟨fun s job item op k p x i m n c xf s1 hk hready hroom hn hc hxf hs1 => ?_,
    fun s job item p x i m n c s1 hready hroom hn hc hs1 => congrArg Host.Outcome.next (seqQueue_queued hready hroom hn hc hs1),
    fun s job item op k hk => ?_,
    fun s job item op k hk hnone => ?_,
    fun s job item x i m s1 bs pz hread => ⟨fun h => ?_, fun h => ?_⟩,
    fun s job item p x i m hready => congrArg Host.Outcome.next ?_,
    fun s job item => ⟨fun x i m h => congrArg Host.Outcome.next ?_, fun h => congrArg Host.Outcome.next ?_⟩,
    fun s job item p r hready => ⟨fun h => congrArg Host.Outcome.next ?_, fun h => congrArg Host.Outcome.next ?_⟩,
    fun s job item p x i m done rest hready hdone hrest => ⟨fun h => congrArg Host.Outcome.next ?_, fun h => congrArg Host.Outcome.next ?_⟩,
    fun s job item => ⟨fun r h => congrArg Host.Outcome.next ?_, fun h => congrArg Host.Outcome.next ?_⟩,
    fun s r d p hd hp => ⟨fun hop ls hls => ?_, fun hop hindex ks s1 ok hks hentries => ?_, fun hop hindex ms hms => ?_⟩,
    fun s r d k s1 bs pz v hd hread hv => ⟨fun h => ?_, fun hpz hnull hop => ?_, fun hpz hnull hop => ?_, fun hpz hlow hlim => ?_⟩⟩
  · simp only [List.mem_cons, Prod.mk.injEq, List.not_mem_nil, or_false] at hk
    rcases hk with ⟨rfl, rfl⟩ | ⟨rfl, rfl⟩ | ⟨rfl, rfl⟩ <;>
      exact congrArg Host.Outcome.next (seqQueue_oneWay hready hroom hn hc hs1 hxf (by rw [hxf]; rfl))
  · obtain ⟨mk, hexec⟩ := exec_transfer (s := s) hk
    rw [hexec]
    exact ⟨fun h => congrArg Host.Outcome.next (seqQueue_idle h), fun p x i m hready =>
      ⟨fun h => congrArg Host.Outcome.next (seqQueue_full hready h), fun h hnone => congrArg Host.Outcome.next (seqQueue_noPeer hready h hnone)⟩⟩
  · simp only [List.mem_cons, Prod.mk.injEq, List.not_mem_nil, or_false] at hk
    rcases hk with ⟨rfl, rfl⟩ | ⟨rfl, rfl⟩ | ⟨rfl, rfl⟩
    · exact congrArg Host.Outcome.next (by unfold seqWait; rw [hnone])
    · exact congrArg Host.Outcome.next (by unfold seqFence; rw [hnone])
    · exact congrArg Host.Outcome.next (by unfold seqLoop; rw [hnone])
  · unfold waitTry
    rw [hread]
    exact if_pos h
  · unfold waitTry
    rw [hread]
    exact if_neg (Int.not_le.mpr h)
  · unfold seqWait
    rw [hready]
  · unfold seqWaitPoll
    rw [h]
  · unfold seqWaitPoll
    rw [h]
  · unfold seqFence
    rw [hready]
    exact if_pos h
  · unfold seqFence
    rw [hready]
    exact if_neg h
  · subst hdone hrest
    unfold seqLoop
    rw [hready]
    dsimp only
    simp only [if_pos h]
  · subst hdone hrest
    unfold seqLoop
    rw [hready]
    dsimp only
    simp only [if_neg (Nat.not_lt.mpr h)]
  · unfold copyPieceDone
    dsimp only
    rw [h]
  · unfold copyPieceDone
    dsimp only
    rw [h]
  · subst hls hp hd
    exact if_pos hop
  · subst hks hp hd
    unfold movePiece
    dsimp only
    rw [if_neg hop, if_pos hindex, hentries]
  · subst hms hp hd
    refine (if_neg hop).trans (if_neg (by simp [hindex]))
  · subst hd
    unfold indexEntry
    rw [hread]
    exact if_pos h
  · subst hd hpz hv
    unfold indexEntry
    rw [hread]
    dsimp only
    rw [if_neg (by simp), if_neg (by simp [hnull]), if_pos (by simp [hnull]), if_pos hop, List.foldl_map]
    simp only [if_pos hop]
  · subst hd hpz hv
    unfold indexEntry
    rw [hread]
    dsimp only
    rw [if_neg (by simp), if_neg (by simp [hnull]), if_pos (by simp [hnull]), if_neg hop]
  · subst hd hpz hv
    obtain ⟨hneg, hnull⟩ := index_low hlow
    unfold indexEntry
    rw [hread]
    dsimp only
    rw [if_neg (by simp), if_pos, hneg]
    · rfl
    · rw [hneg, decide_eq_false hnull, Bool.not_false, Bool.true_and, Bool.false_or, decide_eq_true_eq]
      rwa [apply_ite (fun l : List Nat => l.getD (copyDescOf r.desc).axis 0)] at hlim

end Sys2Proof.Machine
end

section
/-! PROOFS. Matrix instructions and SWP.POST. -/

namespace Sys2Proof.Machine

/-! ### The outputs of a tile -/

/-- Entries put under other keys leave a key as it was. -/
theorem tabGet_foldl_tabPut_ne {α β : Type} (key : β → Nat) (val : β → α) {xs : List β} {k : Nat} (h : ∀ y ∈ xs, key y ≠ k) (m : Tab α) :
    tabGet (xs.foldl (fun m y => tabPut m (key y) (val y)) m) k = tabGet m k := by
  induction xs generalizing m with
  | nil => rfl
  | cons y ys ih =>
    rw [List.foldl_cons, ih fun z hz => h z (by simp [hz]), tabGet_tabPut_ne]
    exact Ne.symm (h y (by simp))

/-- An entry put under a key of its own is found there. -/
theorem tabGet_foldl_tabPut {α β : Type} (key : β → Nat) (val : β → α) {xs : List β} {x : β} (hx : x ∈ xs)
    (hown : ∀ y ∈ xs, key y = key x → y = x) (m : Tab α) :
    tabGet (xs.foldl (fun m y => tabPut m (key y) (val y)) m) (key x) = some (val x) := by
  induction xs generalizing m with
  | nil => cases hx
  | cons y ys ih =>
    rw [List.foldl_cons]
    by_cases hmem : x ∈ ys
    · exact ih hmem (fun z hz => hown z (by simp [hz])) _
    · obtain rfl : x = y := by simpa [hmem] using hx
      have hother : ∀ z ∈ ys, key z ≠ key x := fun z hz hkey => hmem (hown z (by simp [hz]) hkey ▸ hz)
      rw [tabGet_foldl_tabPut_ne key val hother, tabGet_tabPut_self]

/-- Where an output stands among a gang's registers: its lane, then its register from C on (R128). -/
def outputKey (n i j : Nat) : Nat := j % 32 * 256 + i * (n / 32) + j / 32

/-- The outputs of a shape, row by row. -/
def outputs (m n : Nat) : List (Nat × Nat) := (List.range m).flatMap (fun i => (List.range n).map (fun j => (i, j)))

theorem mem_outputs {m n i j : Nat} : (i, j) ∈ outputs m n ↔ i < m ∧ j < n := by
  simp [outputs]

/-- A tile's columns are a multiple of 32, and its outputs fill at most 64 registers of a lane. -/
theorem shapeMN_bounds {sh : MmaShape} {m n : Nat} (h : shapeMN sh = (m, n)) : n % 32 = 0 ∧ 0 < n ∧ m * (n / 32) ≤ 64 := by
  cases sh <;> cases h <;> decide

/-- No two outputs of a tile share a register of a lane. -/
theorem outputKey_inj {m n i j i' j' : Nat} (hn : n % 32 = 0) (hmn : m * (n / 32) ≤ 64) (hi : i < m) (hj : j < n) (hi' : i' < m) (hj' : j' < n)
    (h : outputKey n i j = outputKey n i' j') : i = i' ∧ j = j' := by
  obtain ⟨w, rfl⟩ : ∃ w, n = 32 * w := ⟨n / 32, by omega⟩
  rw [Nat.mul_div_cancel_left w (by norm_num)] at hmn
  unfold outputKey at h
  rw [Nat.mul_div_cancel_left w (by norm_num)] at h
  have hreg {i j : Nat} (hi : i < m) (hj : j < 32 * w) : i * w + j / 32 < 64 := by
    have hstep : (i + 1) * w ≤ m * w := Nat.mul_le_mul_right w hi
    rw [Nat.add_mul, Nat.one_mul] at hstep
    omega
  have h1 := hreg hi hj
  have h2 := hreg hi' hj'
  have hplace : i * w + j / 32 = i' * w + j' / 32 := by omega
  have hw : 0 < w := by omega
  have hcol : j / 32 < w := by omega
  have hcol' : j' / 32 < w := by omega
  have hrow : i = i' := by
    have e1 : (i * w + j / 32) / w = i := by rw [Nat.mul_comm, Nat.mul_add_div hw, Nat.div_eq_of_lt hcol, Nat.add_zero]
    have e2 : (i' * w + j' / 32) / w = i' := by rw [Nat.mul_comm, Nat.mul_add_div hw, Nat.div_eq_of_lt hcol', Nat.add_zero]
    rw [← e1, ← e2, hplace]
  subst hrow
  exact ⟨rfl, by omega⟩

/-- Row i of the operand that starts at an address with a stride. -/
def operandRow (w : Crew) (f : Fmt) (k x sx i : Nat) : List Num := mxRow f k (lmemRead w (x + i * sx) (mxRowBytes f k))

/-- An output of a tile: its row of A by its column of B on top of C (R128, R136 to R138). -/
def outputOf (w : Crew) (fa fb : Fmt) (k grp : Nat) (int : Bool) (x y sx sy n : Nat) (acc : Tab W32) (p : Nat × Nat) : W32 :=
  if int then dotInt (tabGetD acc (outputKey n p.1 p.2) 0#32) (operandRow w fa k x sx p.1) (operandRow w fb k y sy p.2)
  else dotFloat grp (tabGetD acc (outputKey n p.1 p.2) 0#32) (operandRow w fa k x sx p.1) (operandRow w fb k y sy p.2)

theorem mmaTile_outputs {w : Crew} {sh : MmaShape} {fa fb : Fmt} {k grp m n : Nat} {int : Bool} (x y sx sy : Nat) (acc : Tab W32)
    (hpair : mmaPair fa fb = some (k, grp, int)) (hsh : shapeMN sh = (m, n)) :
    mmaTile w sh fa fb x y sx sy acc =
      (outputs m n).foldl (fun t p => tabPut t (outputKey n p.1 p.2) (outputOf w fa fb k grp int x y sx sy n acc p)) [] := by
  unfold mmaTile outputs
  rw [hpair, hsh, List.foldl_flatMap]
  dsimp only
  refine List.foldl_ext _ _ _ fun t i hi => ?_
  rw [List.foldl_map]
  refine List.foldl_ext _ _ _ fun t j hj => ?_
  rw [List.mem_range] at hi hj
  simp [outputOf, outputKey, operandRow, hi, hj]

theorem mmaTile_get {w : Crew} {sh : MmaShape} {fa fb : Fmt} {k grp m n i j : Nat} {int : Bool} (x y sx sy : Nat) (acc : Tab W32)
    (hpair : mmaPair fa fb = some (k, grp, int)) (hsh : shapeMN sh = (m, n)) (hi : i < m) (hj : j < n) :
    tabGetD (mmaTile w sh fa fb x y sx sy acc) (outputKey n i j) 0#32 = outputOf w fa fb k grp int x y sx sy n acc (i, j) := by
  obtain ⟨hn, -, hmn⟩ := shapeMN_bounds hsh
  rw [mmaTile_outputs x y sx sy acc hpair hsh, tabGetD, tabGet_foldl_tabPut (fun p : Nat × Nat => outputKey n p.1 p.2)
    (outputOf w fa fb k grp int x y sx sy n acc) (mem_outputs.mpr ⟨hi, hj⟩)]
  · rfl
  · rintro ⟨i', j'⟩ hmem hkey
    obtain ⟨hi', hj'⟩ := mem_outputs.mp hmem
    obtain ⟨rfl, rfl⟩ := outputKey_inj hn hmn hi' hj' hi hj hkey
    rfl

/-! ### What the array takes, and what completes -/

/-- An MMA with `.Z` at the head of a queue, once its crew is resident (R131, R132, R139). -/
theorem mxServe_fresh {s : State} {core q : Nat} {e : MxEntry} {rest : List MxEntry} {w : Crew} {sh : MmaShape} {fa fb : Fmt} {k grp m n cr x y sx sy : Nat}
    {int : Bool} (hop : e.op = .mma sh fa fb true cr x y sx sy) (hw : tabGet (coreAt s core).crews e.slot = some w)
    (hpair : mmaPair fa fb = some (k, grp, int)) (hsh : shapeMN sh = (m, n)) :
    mxServe core q e rest s =
      if mmaPoison w x m sx (mxRowBytes fa k) || mmaPoison w y n sy (mxRowBytes fb k) then some (mmaFault core e (setMxQueue core q rest s))
      else if (mxChains (coreAt s core) q).length < 2 then some (setMxQueue core q rest (setMxChains core q
          ((mxChains (coreAt s core) q).map (fun c => { c with joinable := false }) ++ [{
            slot := e.slot, gang := e.gang, sh := sh, intAcc := int, c := cr, acc := mmaTile w sh fa fb x y sx sy [], joinable := true, tags := [e.tag] }])
          (countMma core sh fa fb s)))
      else none := by
  have hint : pairInt fa fb = int := by rw [pairInt, hpair]; rfl
  unfold mxServe
  dsimp only
  rw [hop]
  dsimp only
  rw [hw]
  dsimp only
  rw [hsh, hpair, hint]
  rfl

/-- Checks of MXLD and MXST that hold. -/
theorem mxMoveChecked_ok {a : Act} {fmt : Fmt} {c x n : Nat} {bad : Bool} (k s : State) (hfmt : mxFmtOk fmt = true) (hbad : bad = false) (hlo : 1 ≤ n)
    (hhi : n ≤ 64) (hmma : noMma a = false) (hregs : fragRegsBad a c n = false) (hbound : x + n * unitBytes fmt ≤ a.crew.kernel.localKib * 1024) :
    mxMoveChecked a fmt c x n bad k s = k := by
  unfold mxMoveChecked
  rw [if_neg (by simp [hfmt, hbad]; omega), if_neg (by simp [hmma]), if_neg (by simp [hregs]), if_neg (Nat.not_lt.mpr hbound)]

theorem not_waiting {cont busy : Bool} (h : cont = true ∨ busy = false) : ¬(!cont && busy) = true := by
  rcases h with rfl | rfl <;> simp

/-- Settles O56: an instruction that issues enters its queue; no two outputs of a tile share a register. -/
theorem matrixInstructionsComplete : Obligations.MatrixInstructionsComplete := by
  unfold Obligations.MatrixInstructionsComplete
  refine ⟨fun s g sh fa fb z c ua ub us a s1 k grp int m n x y sx sy cont hi hpair hsh hmma hregs hcont hpend hx hy hsx hsy hra hrb hlx hly hclean =>
      congrArg Host.Outcome.next ?_,
    fun w sh fa fb k grp int x y sx sy acc i j m n key hpair hsh hi hj hkey => ?_,
    fun s core q e rest w sh fa fb k grp int m n cr x y sx sy hop hw hpair hsh => ?_,
    fun s core q s1 x rest st hs1 hchains => ⟨fun hends hst => congrArg Host.Outcome.next ?_, fun hgoes => congrArg Host.Outcome.next ?_⟩,
    fun acc a b => ?_,
    fun grp acc a b h => if_pos h,
    fun s g fmt c ua n a s1 x hi hx hpend hfmt hlo hhi hmma hregs hbound => ⟨congrArg Host.Outcome.next ?_,
      fun rnd sat us hok hus => congrArg Host.Outcome.next ?_⟩,
    fun s core q s1 e rest done hs1 htaken hqueue hdone => ⟨fun us hop => congrArg Host.Outcome.next ?_,
      fun f c x n w hop hw => congrArg Host.Outcome.next ?_⟩,
    fun s core q s1 hs1 => ⟨fun h => congrArg Host.Outcome.next ?_, fun h => congrArg Host.Outcome.next ?_⟩,
    fun s g a s0 s1 hs0 hi hmask hmma => ⟨fun h => congrArg Host.Outcome.next ?_, fun h => congrArg Host.Outcome.next ?_⟩,
    fun s g d c a s1 t off bs o hi ht hoff hbs hmx hroom hflag hbound hpoison hctr hext ho => ?_⟩
  · subst hx hy hsx hsy hcont
    unfold mma
    rw [issueMatrix_eq hi]
    dsimp only
    rw [hpair]
    dsimp only
    rw [hsh]
    dsimp only
    rw [if_neg (by simp [hmma]), if_neg (by simp [hregs]), if_neg (not_waiting hpend), if_neg (by omega), if_neg (by omega), if_neg]
    · rfl
    · rcases hclean with h | h | h
      · simp [h]
      · simp [h]
      · rw [List.any_eq_false.mpr fun l hl => Bool.eq_false_iff.mp (List.any_eq_false.mpr fun r hr => by
          rw [h l (List.mem_range.mp hl) r hr]
          exact Bool.false_ne_true)]
        simp
  · subst hkey
    exact mmaTile_get x y sx sy acc hpair hsh hi hj
  · have hserve := mxServe_fresh (q := q) (rest := rest) hop hw hpair hsh
    refine ⟨fun hx hy => ?_, fun h => hserve.trans (if_pos (by simpa using h))⟩
    rw [hx, hy] at hserve
    exact ⟨fun h => hserve.trans (if_pos h), fun h => hserve.trans (if_neg (Nat.not_lt.mpr h))⟩
  · subst hs1 hst
    unfold mmaChainDrain
    dsimp only
    rw [hchains]
    exact if_neg (by simp [hends])
  · subst hs1
    unfold mmaChainDrain
    dsimp only
    rw [hchains]
    exact if_pos hgoes
  · rw [dotInt, List.sum_eq_foldl, List.foldl_map]
  · subst hx
    unfold mxld
    rw [issueMatrix_eq hi]
    exact (if_neg (by simp [hpend])).trans (mxMoveChecked_ok _ _ hfmt rfl hlo hhi hmma hregs hbound)
  · subst hx hus
    unfold mxst
    rw [issueMatrix_eq hi]
    exact (if_neg (by simp [hpend])).trans (mxMoveChecked_ok _ _ hfmt (by simp [hok]) hlo hhi hmma hregs hbound)
  · subst hs1 hdone
    unfold mxldMxstComplete
    dsimp only
    rw [if_pos htaken, hqueue]
    dsimp only
    rw [hop]
  · subst hs1 hdone
    unfold mxldMxstComplete
    dsimp only
    rw [if_pos htaken, hqueue]
    dsimp only
    rw [hop]
    dsimp only
    rw [hw]
  · subst hs1
    unfold mxldMxstComplete
    dsimp only
    rw [show (if (coreAt (mxAdvance core mxSteps s) core).mxTaken = some q then mxQueue (coreAt (mxAdvance core mxSteps s) core) q else []) = [] from by
      split
      · next htaken => exact h.resolve_left (not_not.mpr htaken)
      · rfl]
  · subst hs1
    unfold mmaChainDrain
    dsimp only
    rw [h]
  · subst hs0
    unfold mxwait
    dsimp only
    rw [issue_eq hi, if_neg (by simp [hmask]), if_neg (by simp [hmma]), if_neg (by simp [h])]
  · subst hs0
    unfold mxwait
    dsimp only
    rw [issue_eq hi, if_neg (by simp [hmask]), if_neg (by simp [hmma]), if_pos h]
  · subst ht hoff hbs ho
    have hpost : swpPost g d c s = match headerFault (lmemRead a.crew (uniVal a d) 64) (uniVal a d) with
        | some f => advance g (pressFault (towerOfCore g.core)
            (sweepOpOf a.crew.job a.crew.item (some (g.core, g.slot, a.crew.uid, uniVal a c)) (lmemRead a.crew (uniVal a d) 64)) f s1)
        | none => advance g (sweepEnter (towerOfCore g.core)
            (sweepOpOf a.crew.job a.crew.item (some (g.core, g.slot, a.crew.uid, uniVal a c)) (lmemRead a.crew (uniVal a d) 64)) s1) := by
      unfold swpPost
      rw [issueUniform_eq hi]
      refine (if_neg (by simp [hmx, sweepRoom, hroom])).trans ((if_neg (by simp [hflag])).trans ((if_neg (Nat.not_lt.mpr hbound)).trans
        ((if_neg (by simp [hpoison])).trans ((counterChecked_ok _ _ hctr).trans (if_neg (by simp [hext]))))))
    refine ⟨fun h => congrArg Host.Outcome.next (hpost.trans ?_), fun h => congrArg Host.Outcome.next (hpost.trans ?_)⟩
    · rw [headerFault, if_pos h]
      rfl
    · rw [headerFault, if_neg (by simp [h])]
      rfl

end Sys2Proof.Machine
end
